-- ==== Sys2Proof/Word.lean ====
section
/-! DEFINITION. The words of the VB9 and the operand types that its commands carry. -/

namespace Sys2Proof

/-- A register or control-space word (R15). -/
abbrev Word := BitVec 64

/-- One byte of memory (R19). -/
abbrev Byte := BitVec 8

/-- Bad symbols of a 36/32 block: the symbol's index i of c_i (R295) and what was added to it. -/
abbrev Upset := List (Nat × Byte)

/-- A cell: the island, 96 × die + island number (R49), and the cell index c of 04 (0 to 15). -/
structure CellRef where
  isl : Nat
  c : Nat
  deriving DecidableEq, Repr

/-- The home of a sync word (R308, R309, R312): a word of a memory cell's SRAM, by its word index, or a
window word of a die. -/
inductive Home where
  | sram (cell : CellRef) (word : Nat)
  | window (die : Nat) (index : Nat)
  deriving DecidableEq, Repr

/-- Header fields of a host protocol message (R409) and where its datagrams came from (R413). -/
structure Hdr where
  session : BitVec 16
  cookie : BitVec 64
  seq : BitVec 32
  ack : BitVec 32
  port : BitVec 1
  src : BitVec 128
  udp : BitVec 16
  deriving DecidableEq, Repr

/-- The payload of JOB_ADMIT (R419). -/
structure AdmitReq where
  window : Nat
  length : Nat
  trump : Bool
  seats : Nat
  dsize : Nat
  grant : Nat
  nranks : Nat
  job : BitVec 32
  rank : Nat
  lead : BitVec 16
  partner : BitVec 16
  deriving DecidableEq, Repr

/-- The payload of CMD_SUBMIT (R420); regions are (VA, length). -/
structure CmdReq where
  job : Nat
  tag : BitVec 64
  entry : BitVec 32
  limit : Nat
  inputs : List (Nat × Nat)
  outputs : List (Nat × Nat)
  seqs : List Nat
  params : List Byte
  deriving DecidableEq, Repr

/-- What firmware writes at step 6 of an admission (R340): MMU_TROOT, MMU_TVER and SYNC_TMAP of the table, and the bytes
of the page map, the version records and the sync map at their physical addresses; and for each seat allocated the
addresses of the pages that the job names for its key-value state (R31). -/
structure TblMaps where
  troot : BitVec 64 := 0
  tver : BitVec 64 := 0
  tmap : BitVec 64 := 0
  bytes : List (Nat × List (BitVec 8)) := []
  kv : List (List Nat) := []
  deriving DecidableEq, Repr

/-- A command start as the lead sends it to a rank (R380): cnum, the command's number, the sequences it advances. -/
structure StartMsg where
  cnum : BitVec 32
  num : Nat
  seqs : List Nat
  deriving DecidableEq, Repr

/-- A restart point (R507): in place after a command, the last sealed step that a command ended, or none. -/
inductive RestartPoint where
  | inPlace (num : Nat)
  | step (num : Nat)
  | none
  deriving DecidableEq, Repr

/-- What a JOB_RESTART brings from the other ranks (R507, R508): nothing; at the lead what they report before the choice
(whether one of them is damaged or lost, and the last step sealed on all of them) or that all of them have restarted; at
another rank the lead's choice. -/
inductive RestartMsg where
  | own
  | reports (damaged : Bool) (sealed_ : Option Nat)
  | done
  | point (p : RestartPoint)
  deriving DecidableEq, Repr

/-- Who writes a mailbox (R330): a steward core of the package, a host session through firmware, or another agent. -/
inductive MbxWriter where
  | core (n : Nat)
  | session (n : Nat)
  | other
  deriving DecidableEq, Repr

/-- What firmware makes of a kill it orders (R210, R286, R293, R348): a rerun, or a failure because an address has no place in
the job's space or a version pool gives no frame. -/
inductive KillWhy where
  | rerun
  | vaUnmapped
  | versionPool
  deriving DecidableEq, Repr

/-- What a hop or a copy of the mesh brings: the packet's index or the island, and the upsets that the packet's blocks have
taken on a link, by block (R240). -/
structure LinkRead where
  at_ : Nat
  us : List (Nat × Upset)
  deriving DecidableEq, Repr

/-- What firmware chooses for an admission (R340): the north-west island of a placement, and the maps. -/
structure AdmitChoice where
  nw : Nat
  maps : TblMaps
  deriving DecidableEq, Repr

/-- A commit request (R346, R506, R547): its step_end bit, the output sizes that the program has declared, and at the lead of
a spanning job the ranks that have reported their seal of the step armed last. -/
structure CommitReq where
  stepEnd : Bool
  sizes : List (Option Nat)
  reports : List Nat
  deriving DecidableEq, Repr

/-- A kill request (R348): the table, and what firmware makes of the kill. -/
structure KillReq where
  table : Nat
  why : KillWhy
  deriving DecidableEq, Repr

/-- The start of a table's next command (R26, R380), with the lead's message. -/
structure StartReq where
  table : Nat
  msg : StartMsg
  deriving DecidableEq, Repr

/-- Where a commit message goes (R388): the table here of its job, and the command number it names. -/
structure CommitAt where
  table : Nat
  cnum : BitVec 32
  deriving DecidableEq, Repr

/-- A COMMIT (R388), with the lead's ruling that step_end is cleared (R506). -/
structure CommitRuling extends CommitAt where
  skip : Bool
  deriving DecidableEq, Repr

/-- An ABORT (R388), with the code of a failure, 0 for a rerun (R29). -/
structure AbortNote extends CommitAt where
  status : BitVec 16
  deriving DecidableEq, Repr

/-- The job and the command number of a kitty request's header (R377). -/
structure JobCmd where
  job : BitVec 32
  cnum : BitVec 32
  deriving DecidableEq, Repr

/-- The same with the requester's tag. -/
structure JobTag extends JobCmd where
  tag : BitVec 16
  deriving DecidableEq, Repr

/-- What a capping calibration finds and asks for (R487, R523): whether a regulator fails, and a setpoint of VDD_CORE1 or
VDD_CORE0 in mV. -/
structure Calibration where
  faulty : Bool
  vout : Option (Bool × Nat)
  deriving DecidableEq, Repr

/-- A stop notice (R505): the job by its handle, and the cause. -/
structure StopNote where
  job : Nat
  cause : BitVec 16
  deriving DecidableEq, Repr

/-- A restart of a job (R507, R508), with what it brings from the other ranks. -/
structure RestartReq where
  job : Nat
  msg : RestartMsg
  deriving DecidableEq, Repr

/-- What an uncorrectable-error event names (R504). -/
inductive UeSource where
  | block (pa : Nat)
  | kitty (job : BitVec 32) (isSealed : Bool)
  | island (isl : Nat) (cls : BitVec 4)
  | tablePacket (table : Nat) (cls : BitVec 4)
  | tableMap (table : Nat) (pa : Nat)
  | firmware (pa : Nat) (hasCopy : Bool)
  | unowned (pa : Nat)
  deriving DecidableEq, Repr

/-- JTAG instructions that R454 and R533 name. -/
inductive JtagInst where
  | idcode
  | bypass
  | boundary
  | extest
  | clamp
  | readControl (addr : Nat)
  | readScan (pa : Nat)
  | writeControl (addr : Nat) (value : Word)
  | haltCore (core : Nat)
  deriving DecidableEq, Repr

/-- The eight reset sources (R468), in the order of FUSE_PROT.rst_table (R455). -/
inductive RstSource where
  | powerOn | brownOut | pin | watchdog | software | debug | clockFailure | lockUp
  deriving DecidableEq, Repr

/-- The four reach levels (R455, R470). -/
inductive Level where
  | block | warm | cold | powerOn
  deriving DecidableEq, Repr

end Sys2Proof
end

