-- ==== Sys2Proof/Syntax.lean ====
section
/-! DEFINITION. The commands of the VB9: one constructor for each row of spec/opcode_table.json, in the table's order. -/

namespace Sys2Proof

/-- The commands of the block. The comment on each constructor names its row and the rule that governs it.
Commands of a slot of the schedule word carry the cell, the guard of R107 and the fields of the slot (R113, R124, R147, R168). -/
inductive Instr where
  /-- NOP (R114). -/
  | nop (c : CellRef)
  /-- ADD (R115). -/
  | add (c : CellRef) (g : BitVec 4) (rd ra rb : BitVec 5)
  /-- SUB (R115). -/
  | sub (c : CellRef) (g : BitVec 4) (rd ra rb : BitVec 5)
  /-- AND (R115). -/
  | and (c : CellRef) (g : BitVec 4) (rd ra rb : BitVec 5)
  /-- OR (R115). -/
  | or (c : CellRef) (g : BitVec 4) (rd ra rb : BitVec 5)
  /-- XOR (R115). -/
  | xor (c : CellRef) (g : BitVec 4) (rd ra rb : BitVec 5)
  /-- SHL (R115). -/
  | shl (c : CellRef) (g : BitVec 4) (rd ra rb : BitVec 5)
  /-- SHR (R115). -/
  | shr (c : CellRef) (g : BitVec 4) (rd ra rb : BitVec 5)
  /-- SRA (R115). -/
  | sra (c : CellRef) (g : BitVec 4) (rd ra rb : BitVec 5)
  /-- MIN (R115). -/
  | minS (c : CellRef) (g : BitVec 4) (rd ra rb : BitVec 5)
  /-- MAX (R115). -/
  | maxS (c : CellRef) (g : BitVec 4) (rd ra rb : BitVec 5)
  /-- MINU (R115). -/
  | minu (c : CellRef) (g : BitVec 4) (rd ra rb : BitVec 5)
  /-- MAXU (R115). -/
  | maxu (c : CellRef) (g : BitVec 4) (rd ra rb : BitVec 5)
  /-- MUL (R115). -/
  | mul (c : CellRef) (g : BitVec 4) (rd ra rb : BitVec 5)
  /-- MULHU (R115). -/
  | mulhu (c : CellRef) (g : BitVec 4) (rd ra rb : BitVec 5)
  /-- MULH (R115). -/
  | mulh (c : CellRef) (g : BitVec 4) (rd ra rb : BitVec 5)
  /-- ADDI (R114). -/
  | addi (c : CellRef) (g : BitVec 4) (rd ra : BitVec 5) (imm : BitVec 12)
  /-- ANDI (R113). -/
  | andi (c : CellRef) (g : BitVec 4) (rd ra : BitVec 5) (imm : BitVec 12)
  /-- ORI (R113). -/
  | ori (c : CellRef) (g : BitVec 4) (rd ra : BitVec 5) (imm : BitVec 12)
  /-- XORI (R113). -/
  | xori (c : CellRef) (g : BitVec 4) (rd ra : BitVec 5) (imm : BitVec 12)
  /-- SHLI (R114). -/
  | shli (c : CellRef) (g : BitVec 4) (rd ra : BitVec 5) (sh : BitVec 6)
  /-- SHRI (R114). -/
  | shri (c : CellRef) (g : BitVec 4) (rd ra : BitVec 5) (sh : BitVec 6)
  /-- SRAI (R114). -/
  | srai (c : CellRef) (g : BitVec 4) (rd ra : BitVec 5) (sh : BitVec 6)
  /-- MOVI (R114). -/
  | movi (c : CellRef) (g : BitVec 4) (rd : BitVec 5) (imm : BitVec 17)
  /-- SHORI (R114). -/
  | shori (c : CellRef) (g : BitVec 4) (rd : BitVec 5) (imm : BitVec 16)
  /-- CMP_EQ (R115). -/
  | cmpEq (c : CellRef) (g : BitVec 4) (pd : BitVec 3) (ra rb : BitVec 5)
  /-- CMP_NE (R115). -/
  | cmpNe (c : CellRef) (g : BitVec 4) (pd : BitVec 3) (ra rb : BitVec 5)
  /-- CMP_LT (R115). -/
  | cmpLt (c : CellRef) (g : BitVec 4) (pd : BitVec 3) (ra rb : BitVec 5)
  /-- CMP_GE (R115). -/
  | cmpGe (c : CellRef) (g : BitVec 4) (pd : BitVec 3) (ra rb : BitVec 5)
  /-- CMP_LTU (R115). -/
  | cmpLtu (c : CellRef) (g : BitVec 4) (pd : BitVec 3) (ra rb : BitVec 5)
  /-- CMP_GEU (R115). -/
  | cmpGeu (c : CellRef) (g : BitVec 4) (pd : BitVec 3) (ra rb : BitVec 5)
  /-- CMPI_EQ (R114). -/
  | cmpiEq (c : CellRef) (g : BitVec 4) (pd : BitVec 3) (ra : BitVec 5) (imm : BitVec 12)
  /-- CMPI_NE (R114). -/
  | cmpiNe (c : CellRef) (g : BitVec 4) (pd : BitVec 3) (ra : BitVec 5) (imm : BitVec 12)
  /-- CMPI_LT (R114). -/
  | cmpiLt (c : CellRef) (g : BitVec 4) (pd : BitVec 3) (ra : BitVec 5) (imm : BitVec 12)
  /-- CMPI_GE (R114). -/
  | cmpiGe (c : CellRef) (g : BitVec 4) (pd : BitVec 3) (ra : BitVec 5) (imm : BitVec 12)
  /-- CMPI_LTU (R113). -/
  | cmpiLtu (c : CellRef) (g : BitVec 4) (pd : BitVec 3) (ra : BitVec 5) (imm : BitVec 12)
  /-- CMPI_GEU (R113). -/
  | cmpiGeu (c : CellRef) (g : BitVec 4) (pd : BitVec 3) (ra : BitVec 5) (imm : BitVec 12)
  /-- PLOG_AND (R114). -/
  | plogAnd (c : CellRef) (g : BitVec 4) (pd pa pb : BitVec 3)
  /-- PLOG_OR (R114). -/
  | plogOr (c : CellRef) (g : BitVec 4) (pd pa pb : BitVec 3)
  /-- PLOG_XOR (R114). -/
  | plogXor (c : CellRef) (g : BitVec 4) (pd pa pb : BitVec 3)
  /-- PLOG_ANDN (R114). -/
  | plogAndn (c : CellRef) (g : BitVec 4) (pd pa pb : BitVec 3)
  /-- LD8 (R116). -/
  | ld8 (c : CellRef) (g : BitVec 4) (rd ra : BitVec 5) (imm : BitVec 12)
  /-- LD16 (R116). -/
  | ld16 (c : CellRef) (g : BitVec 4) (rd ra : BitVec 5) (imm : BitVec 12)
  /-- LD32 (R116). -/
  | ld32 (c : CellRef) (g : BitVec 4) (rd ra : BitVec 5) (imm : BitVec 12)
  /-- LD64 (R116). -/
  | ld64 (c : CellRef) (g : BitVec 4) (rd ra : BitVec 5) (imm : BitVec 12)
  /-- ST8 (R116). -/
  | st8 (c : CellRef) (g : BitVec 4) (rs ra : BitVec 5) (imm : BitVec 12)
  /-- ST16 (R116). -/
  | st16 (c : CellRef) (g : BitVec 4) (rs ra : BitVec 5) (imm : BitVec 12)
  /-- ST32 (R116). -/
  | st32 (c : CellRef) (g : BitVec 4) (rs ra : BitVec 5) (imm : BitVec 12)
  /-- ST64 (R116). -/
  | st64 (c : CellRef) (g : BitVec 4) (rs ra : BitVec 5) (imm : BitVec 12)
  /-- MFSR (R104). -/
  | mfsr (c : CellRef) (g : BitVec 4) (rd sr : BitVec 5)
  /-- MTSR (R104). -/
  | mtsr (c : CellRef) (g : BitVec 4) (sr ra : BitVec 5)
  /-- BR (R117). -/
  | br (c : CellRef) (g : BitVec 4) (target : BitVec 12)
  /-- BRR (R117). -/
  | brr (c : CellRef) (g : BitVec 4) (ra : BitVec 5)
  /-- CALL (R118). -/
  | call (c : CellRef) (g : BitVec 4) (target : BitVec 12)
  /-- RET (R118). -/
  | ret (c : CellRef) (g : BitVec 4)
  /-- LSETUP (R119). -/
  | lsetup (c : CellRef) (g : BitVec 4) (n : BitVec 2) (len : BitVec 8) (count : BitVec 12)
  /-- LSETUPR (R119). -/
  | lsetupr (c : CellRef) (g : BitVec 4) (n : BitVec 2) (len : BitVec 8) (ra : BitVec 5)
  /-- ASSERT (R114). -/
  | assertP (c : CellRef) (g : BitVec 4) (p : BitVec 3)
  /-- END (R121). -/
  | endProg (c : CellRef) (g : BitVec 4)
  /-- PC_OVERRUN (R118). -/
  | pcOverrun (c : CellRef)
  /-- X_NOP (R124). -/
  | xNop (c : CellRef)
  /-- XMOV (R123). -/
  | xmov (c : CellRef) (g : BitVec 4) (dst src : BitVec 8) (idx : BitVec 5) (inc : Bool)
  /-- XSEND (R124). -/
  | xsend (c : CellRef) (g : BitVec 4) (port : BitVec 2) (src : BitVec 8) (idx : BitVec 5) (inc : Bool)
  /-- XRECV (R127). -/
  | xrecv (c : CellRef) (g : BitVec 4) (dst : BitVec 8) (port : BitVec 2) (idx : BitVec 5) (inc : Bool)
  /-- XCTL (R124). -/
  | xctl (c : CellRef) (g : BitVec 4) (port : BitVec 2) (pa : BitVec 3) (unit : Bool)
  /-- PULL_POINT (R220). -/
  | pullPoint (c : CellRef)
  /-- STALL_RELEASE (R130). -/
  | stallRelease (isl : Nat)
  /-- SDESC (R197). -/
  | sdesc (c : CellRef) (g : BitVec 4) (slot : BitVec 3) (ra : BitVec 5)
  /-- SSTART (R195). -/
  | sstart (c : CellRef) (g : BitVec 4) (e : BitVec 2) (slot : BitVec 3)
  /-- SSTOP (R197). -/
  | sstop (c : CellRef) (g : BitVec 4) (e : BitVec 2)
  /-- SWAIT (R197). -/
  | swait (c : CellRef) (g : BitVec 4) (e : BitVec 2)
  /-- LDFE (R313). -/
  | ldfe (c : CellRef) (g : BitVec 4) (rd ra rb : BitVec 5) (pd : BitVec 3)
  /-- LDFF (R313). -/
  | ldff (c : CellRef) (g : BitVec 4) (rd ra rb : BitVec 5) (pd : BitVec 3)
  /-- LDXX (R313). -/
  | ldxx (c : CellRef) (g : BitVec 4) (rd ra rb : BitVec 5) (pd : BitVec 3)
  /-- LDXE (R313). -/
  | ldxe (c : CellRef) (g : BitVec 4) (rd ra rb : BitVec 5) (pd : BitVec 3)
  /-- STEF (R313). -/
  | stef (c : CellRef) (g : BitVec 4) (rs ra rb : BitVec 5) (pd : BitVec 3)
  /-- STXF (R313). -/
  | stxf (c : CellRef) (g : BitVec 4) (rs ra rb : BitVec 5) (pd : BitVec 3)
  /-- STXE (R313). -/
  | stxe (c : CellRef) (g : BitVec 4) (rs ra rb : BitVec 5) (pd : BitVec 3)
  /-- STFF (R313). -/
  | stff (c : CellRef) (g : BitVec 4) (rs ra rb : BitVec 5) (pd : BitVec 3)
  /-- RWAIT (R322). -/
  | rwait (c : CellRef) (g : BitVec 4) (ra rb : BitVec 5) (pd : BitVec 3)
  /-- RPASS (R322). -/
  | rpass (c : CellRef) (g : BitVec 4) (ra rb : BitVec 5) (pd : BitVec 3)
  /-- RSET (R322). -/
  | rset (c : CellRef) (g : BitVec 4) (ra rb : BitVec 5) (pd : BitVec 3)
  /-- CHSEND (R328). -/
  | chsend (c : CellRef) (g : BitVec 4) (ra rs rl : BitVec 5)
  /-- SVCFG (R261). -/
  | svcfg (c : CellRef) (g : BitVec 4) (ra : BitVec 5)
  /-- SVCLR (R265). -/
  | svclr (c : CellRef) (g : BitVec 4) (rl : BitVec 5)
  /-- SVCLR_ALL (R265). -/
  | svclrAll (c : CellRef) (g : BitVec 4)
  /-- SVFLUSH (R266). -/
  | svflush (c : CellRef) (g : BitVec 4) (rl ra rf : BitVec 5) (f : Bool)
  /-- MNOP (R147). -/
  | mnop (c : CellRef)
  /-- MCFG (R148). -/
  | mcfg (c : CellRef) (g : BitVec 4) (ra : BitVec 5)
  /-- MMA (R149). -/
  | mma (c : CellRef) (g : BitVec 4) (d : Bool) (ta tb : BitVec 4) (idx : BitVec 5) (inc : Bool) (st : BitVec 4)
  /-- MCLR (R156). -/
  | mclr (c : CellRef) (g : BitVec 4) (d : Bool)
  /-- MOUT (R159). -/
  | mout (c : CellRef) (g : BitVec 4) (d : Bool) (td fmt : BitVec 4) (idx : BitVec 5) (inc : Bool) (rm : BitVec 3)
  /-- MOUT_RAW (R159). -/
  | moutRaw (c : CellRef) (g : BitVec 4) (d : Bool) (td : BitVec 4) (idx : BitVec 5) (inc : Bool)
  /-- MMRG (R161). -/
  | mmrg (c : CellRef) (g : BitVec 4) (d : Bool) (ts : BitVec 4) (idx : BitVec 5) (inc : Bool)
  /-- VNOP (R168). -/
  | vnop (c : CellRef)
  /-- VADD (R169). -/
  | vadd (c : CellRef) (g : BitVec 4) (vd va vb : BitVec 5) (sb : Bool) (ty : BitVec 2) (rm : BitVec 3)
  /-- VSUB (R169). -/
  | vsub (c : CellRef) (g : BitVec 4) (vd va vb : BitVec 5) (sb : Bool) (ty : BitVec 2) (rm : BitVec 3)
  /-- VMUL (R169). -/
  | vmul (c : CellRef) (g : BitVec 4) (vd va vb : BitVec 5) (sb : Bool) (ty : BitVec 2) (rm : BitVec 3)
  /-- VFMA (R169). -/
  | vfma (c : CellRef) (g : BitVec 4) (vd va vb : BitVec 5) (sb : Bool) (ty : BitVec 2) (rm : BitVec 3)
  /-- VDIV (R169). -/
  | vdiv (c : CellRef) (g : BitVec 4) (vd va vb : BitVec 5) (sb : Bool) (ty : BitVec 2) (rm : BitVec 3)
  /-- VMIN (R173). -/
  | vmin (c : CellRef) (g : BitVec 4) (vd va vb : BitVec 5) (sb : Bool) (ty : BitVec 2)
  /-- VMAX (R173). -/
  | vmax (c : CellRef) (g : BitVec 4) (vd va vb : BitVec 5) (sb : Bool) (ty : BitVec 2)
  /-- VSQRT (R171). -/
  | vsqrt (c : CellRef) (g : BitVec 4) (vd va : BitVec 5) (ty : BitVec 2) (rm : BitVec 3)
  /-- VRSQRT (R171). -/
  | vrsqrt (c : CellRef) (g : BitVec 4) (vd va : BitVec 5) (ty : BitVec 2) (rm : BitVec 3)
  /-- VEXP2 (R171). -/
  | vexp2 (c : CellRef) (g : BitVec 4) (vd va : BitVec 5) (ty : BitVec 2) (rm : BitVec 3)
  /-- VABS (R169). -/
  | vabs (c : CellRef) (g : BitVec 4) (vd va : BitVec 5) (ty : BitVec 2)
  /-- VNEG (R169). -/
  | vneg (c : CellRef) (g : BitVec 4) (vd va : BitVec 5) (ty : BitVec 2)
  /-- VCEQ (R172). -/
  | vceq (c : CellRef) (g : BitVec 4) (vd va vb : BitVec 5) (sb : Bool) (ty : BitVec 2)
  /-- VCLT (R172). -/
  | vclt (c : CellRef) (g : BitVec 4) (vd va vb : BitVec 5) (sb : Bool) (ty : BitVec 2)
  /-- VCLE (R172). -/
  | vcle (c : CellRef) (g : BitVec 4) (vd va vb : BitVec 5) (sb : Bool) (ty : BitVec 2)
  /-- VCUN (R172). -/
  | vcun (c : CellRef) (g : BitVec 4) (vd va vb : BitVec 5) (sb : Bool) (ty : BitVec 2)
  /-- VSEL (R168). -/
  | vsel (c : CellRef) (g : BitVec 4) (vd va vb : BitVec 5) (sb : Bool) (ty : BitVec 2)
  /-- VANY (R168). -/
  | vany (c : CellRef) (g : BitVec 4) (pd : BitVec 3) (va : BitVec 5)
  /-- VALL (R168). -/
  | vall (c : CellRef) (g : BitVec 4) (pd : BitVec 3) (va : BitVec 5)
  /-- VAND (R168). -/
  | vand (c : CellRef) (g : BitVec 4) (vd va vb : BitVec 5) (sb : Bool)
  /-- VOR (R168). -/
  | vor (c : CellRef) (g : BitVec 4) (vd va vb : BitVec 5) (sb : Bool)
  /-- VXOR (R168). -/
  | vxor (c : CellRef) (g : BitVec 4) (vd va vb : BitVec 5) (sb : Bool)
  /-- VSHL (R168). -/
  | vshl (c : CellRef) (g : BitVec 4) (vd va vb : BitVec 5) (sb : Bool)
  /-- VSHR (R168). -/
  | vshr (c : CellRef) (g : BitVec 4) (vd va vb : BitVec 5) (sb : Bool)
  /-- VSRA (R168). -/
  | vsra (c : CellRef) (g : BitVec 4) (vd va vb : BitVec 5) (sb : Bool)
  /-- VBCAST (R168). -/
  | vbcast (c : CellRef) (g : BitVec 4) (vd ra : BitVec 5) (ty : BitVec 2)
  /-- VIOTA (R168). -/
  | viota (c : CellRef) (g : BitVec 4) (vd ra : BitVec 5)
  /-- VEXT (R168). -/
  | vext (c : CellRef) (g : BitVec 4) (rd va rb : BitVec 5) (ty : BitVec 2)
  /-- VROT (R168). -/
  | vrot (c : CellRef) (g : BitVec 4) (vd va rb : BitVec 5)
  /-- VCFG (R175). -/
  | vcfg (c : CellRef) (g : BitVec 4) (ra : BitVec 5)
  /-- VCVT (R174). -/
  | vcvt (c : CellRef) (g : BitVec 4) (vd va : BitVec 5) (ta td : BitVec 2) (h : Bool) (rm : BitVec 3)
  /-- VUNPK (R176). -/
  | vunpk (c : CellRef) (g : BitVec 4) (vd sv idx : BitVec 5) (tile : BitVec 4) (h : Bool) (td : BitVec 2)
  /-- VPACK (R176). -/
  | vpack (c : CellRef) (g : BitVec 4) (va sv idx : BitVec 5) (tile : BitVec 4) (h : Bool) (ta : BitVec 2)
  /-- VPOT (R178). -/
  | vpot (c : CellRef) (g : BitVec 4) (vd idx : BitVec 5) (d : Bool) (ty : BitVec 2) (rm : BitVec 3) (inc : Bool)
  /-- VPOTA (R178). -/
  | vpota (c : CellRef) (g : BitVec 4) (vd va idx : BitVec 5) (d : Bool) (ty : BitVec 2) (rm : BitVec 3) (inc : Bool)
  /-- VPOTZ (R179). -/
  | vpotz (c : CellRef) (g : BitVec 4) (vd idx : BitVec 5) (d : Bool) (ty : BitVec 2) (rm : BitVec 3) (inc : Bool)
  /-- VPOTZA (R179). -/
  | vpotza (c : CellRef) (g : BitVec 4) (vd va idx : BitVec 5) (d : Bool) (ty : BitVec 2) (rm : BitVec 3) (inc : Bool)
  /-- VTRED_SUM (R181). -/
  | vtredSum (c : CellRef) (g : BitVec 4) (vd : BitVec 5) (tile : BitVec 4) (axis : Bool) (ty : BitVec 2) (rm : BitVec 3)
  /-- VTRED_MAX (R181). -/
  | vtredMax (c : CellRef) (g : BitVec 4) (vd : BitVec 5) (tile : BitVec 4) (axis : Bool) (ty : BitVec 2) (rm : BitVec 3)
  /-- VTRED_MIN (R181). -/
  | vtredMin (c : CellRef) (g : BitVec 4) (vd : BitVec 5) (tile : BitVec 4) (axis : Bool) (ty : BitVec 2) (rm : BitVec 3)
  /-- VTRED_ARGMAX (R181). -/
  | vtredArgmax (c : CellRef) (g : BitVec 4) (vd : BitVec 5) (tile : BitVec 4) (axis : Bool) (ty : BitVec 2) (rm : BitVec 3)
  /-- VTRED_ARGMIN (R181). -/
  | vtredArgmin (c : CellRef) (g : BitVec 4) (vd : BitVec 5) (tile : BitVec 4) (axis : Bool) (ty : BitVec 2) (rm : BitVec 3)
  /-- VRED_SUM (R181). -/
  | vredSum (c : CellRef) (g : BitVec 4) (rd va : BitVec 5) (ty : BitVec 2) (rm : BitVec 3)
  /-- VRED_MAX (R181). -/
  | vredMax (c : CellRef) (g : BitVec 4) (rd va : BitVec 5) (ty : BitVec 2) (rm : BitVec 3)
  /-- VRED_MIN (R181). -/
  | vredMin (c : CellRef) (g : BitVec 4) (rd va : BitVec 5) (ty : BitVec 2) (rm : BitVec 3)
  /-- VRED_ARGMAX (R181). -/
  | vredArgmax (c : CellRef) (g : BitVec 4) (rd va : BitVec 5) (ty : BitVec 2) (rm : BitVec 3)
  /-- VRED_ARGMIN (R181). -/
  | vredArgmin (c : CellRef) (g : BitVec 4) (rd va : BitVec 5) (ty : BitVec 2) (rm : BitVec 3)
  /-- VRANK (R182). -/
  | vrank (c : CellRef) (g : BitVec 4) (vd va vb : BitVec 5) (ty : BitVec 2)
  /-- VGETF (R183). -/
  | vgetf (c : CellRef) (g : BitVec 4) (vd : BitVec 5)
  /-- VGETF_CLR (R183). -/
  | vgetfClr (c : CellRef) (g : BitVec 4) (vd : BitVec 5)
  /-- INSIDE_TOKEN_ARRIVE (R127). -/
  | insideTokenArrive (c : CellRef) (port : BitVec 2) (upset : Upset)
  /-- FIFO_TOKEN_ARRIVE (R223). -/
  | fifoTokenArrive (c : CellRef) (port : BitVec 2) (upset : Upset)
  /-- FIFO_HEAD_DELIVER (R232). -/
  | fifoHeadDeliver (c : CellRef) (port : BitVec 2)
  /-- SWITCH_FIRE (R225). -/
  | switchFire (c : CellRef) (port : BitVec 2)
  /-- MERGE_FIRE (R225). -/
  | mergeFire (c : CellRef) (port : BitVec 2)
  /-- STEER_OUTPUT_DRIVE (R228). -/
  | steerOutputDrive (c : CellRef) (port : BitVec 2) (unit : Bool)
  /-- STREAM_BEAT_REQUEST (R200). -/
  | streamBeatRequest (c : CellRef) (e : BitVec 2)
  /-- STREAM_BEAT_WRITE (R200). -/
  | streamBeatWrite (c : CellRef) (e : BitVec 2)
  /-- STREAM_BEAT_LAND (R201). -/
  | streamBeatLand (c : CellRef) (e : BitVec 2)
  /-- STREAM_WRITE_DONE (R200). -/
  | streamWriteDone (c : CellRef) (e : BitVec 2)
  /-- STREAM_STOP_DONE (R196). -/
  | streamStopDone (c : CellRef) (e : BitVec 2)
  /-- STREAM_RESUME (R210). -/
  | streamResume (c : CellRef) (e : BitVec 2)
  /-- CELL_SRESUME_WRITE (R143). -/
  | cellSresumeWrite (c : CellRef) (engines : BitVec 4)
  /-- DAMPER_WINDOW (R205). -/
  | damperWindow (isl : Nat)
  /-- SIEVE_BEAT_LAND (R263). -/
  | sieveBeatLand (c : CellRef) (off : Nat) (data : List Byte) (seat : Option (BitVec 6)) (mesh : Option (Nat × BitVec 8))
  /-- SIEVE_FLUSH_BEAT (R266). -/
  | sieveFlushBeat (c : CellRef)
  /-- SIEVE_FLUSH_FILL (R266). -/
  | sieveFlushFill (c : CellRef)
  /-- MESH_HOP (R244). -/
  | meshHop (p : LinkRead)
  /-- MESH_PACKET_EJECT (R240). -/
  | meshPacketEject (k : Nat) (us : List (Nat × Upset))
  /-- MULTICAST_WRITE (R250). -/
  | multicastWrite (p : LinkRead)
  /-- VAULT_READ (R278). -/
  | vaultRead (isl : Nat) (upset : Upset)
  /-- VAULT_WRITE (R278). -/
  | vaultWrite (isl : Nat) (upset : Upset)
  /-- FAR_DRAM_ACCESS (R280). -/
  | farDramAccess (ch : Nat) (upset : Upset)
  /-- VERSION_COPY_DONE (R288). -/
  | versionCopyDone (die : BitVec 1)
  /-- VERSION_SWEEP_DONE (R289). -/
  | versionSweepDone (t : Nat)
  /-- STEP_COPY_PAGE (R291). -/
  | stepCopyPage (t : Nat)
  /-- STEP_COPY_PAGE_DONE (R291). -/
  | stepCopyPageDone (t : Nat)
  /-- MMU_INV (R304). -/
  | mmuInv (die : BitVec 1) (t : BitVec 8) (all : Bool) (va : BitVec 32)
  /-- MMU_INV_DONE (R304). -/
  | mmuInvDone (die : BitVec 1)
  /-- MMU_POOL_PUSH (R305). -/
  | mmuPoolPush (die : BitVec 1) (frame : BitVec 32)
  /-- RAKE_BLOCK (R299). -/
  | rakeBlock (die : BitVec 1) (cls : BitVec 2) (upset : Upset)
  /-- RAKE_CFG_WRITE (R301). -/
  | rakeCfgWrite (die : BitVec 1) (value : Word)
  /-- RAKE_RATE_WRITE (R301). -/
  | rakeRateWrite (die : BitVec 1) (value : Word)
  /-- SYNC_OPERATION (R312). -/
  | syncOperation (id : Nat)
  /-- SYNC_REPLY (R314). -/
  | syncReply (id : Nat)
  /-- SYNC_RETRY (R316). -/
  | syncRetry (id : Nat)
  /-- SYNC_DEADLINE (R317). -/
  | syncDeadline (id : Nat)
  /-- DEALER_SATISFY (R318). -/
  | dealerSatisfy (id : Nat)
  /-- DEALER_TIMEOUT (R318). -/
  | dealerTimeout (id : Nat)
  /-- ROUND_RELEASE (R322). -/
  | roundRelease (home : Home)
  /-- SYNC_INV (R334). -/
  | syncInv (die : BitVec 1) (t : BitVec 8) (all : Bool) (id : BitVec 16)
  /-- SYNC_INV_DONE (R334). -/
  | syncInvDone (die : BitVec 1)
  /-- STEWARD_FELD (R336). -/
  | stewardFeld (core : Nat) (id : BitVec 16) (t : BitVec 8) (variant : BitVec 4) (timed : Bool)
  /-- STEWARD_FEST (R336). -/
  | stewardFest (core : Nat) (id : BitVec 16) (t : BitVec 8) (variant : BitVec 4) (timed : Bool)
  /-- STEWARD_ROUND (R336). -/
  | stewardRound (core : Nat) (id : BitVec 16) (t : BitVec 8) (variant : BitVec 4) (timed : Bool)
  /-- STEWARD_CHANNEL_SEND (R336). -/
  | stewardChannelSend (core : Nat) (handle : BitVec 16)
  /-- CHANNEL_PLACE (R325). -/
  | channelPlace (die : BitVec 1) (ch : BitVec 12)
  /-- CHANNEL_PUBLISH (R326). -/
  | channelPublish (die : BitVec 1) (ch : BitVec 12)
  /-- CHN_POS_HEAD_WRITE (R326). -/
  | chnPosHeadWrite (die : BitVec 1) (ch : BitVec 12) (head : BitVec 32)
  /-- CHANNEL_OPEN (R323). -/
  | channelOpen (die : BitVec 1) (ch : BitVec 12) (base : Nat) (size_log2 : Nat) (reader : BitVec 12) (skind : Bool) (sender : BitVec 12)
  /-- CHANNEL_ORPHAN (R329). -/
  | channelOrphan (die : BitVec 1) (ch : BitVec 12)
  /-- MBX_DATA_WRITE (R331). -/
  | mbxDataWrite (die : BitVec 1) (m : Nat) (writer : MbxWriter) (value : Word)
  /-- MBX_TAKE (R331). -/
  | mbxTake (die : BitVec 1) (m : Nat)
  /-- MBX_RING (R332). -/
  | mbxRing (die : BitVec 1) (bits : Word)
  /-- MBX_BELL_CLEAR (R332). -/
  | mbxBellClear (die : BitVec 1) (bits : Word)
  /-- JOB_ADMIT (R340). -/
  | jobAdmit (h : Hdr) (req : AdmitReq) (choice : AdmitChoice)
  /-- JOB_PLACE (R342). -/
  | jobPlace (job : Nat) (choice : Nat)
  /-- GRANT_END (R341). -/
  | grantEnd (t : Nat)
  /-- CMD_LIMIT_EXPIRY (R349). -/
  | cmdLimitExpiry (t : Nat)
  /-- ISL_WDOG_EXPIRY (R349). -/
  | islWdogExpiry (isl : Nat)
  /-- TBL_REQ_DEAL (R350). -/
  | tblReqDeal (t : Nat) (img : BitVec 12)
  /-- DEAL_CHECK (R355). -/
  | dealCheck (t : Nat)
  /-- DEAL_GO (R350). -/
  | dealGo (t : Nat)
  /-- DEAL_LOAD_DONE (R350). -/
  | dealLoadDone (isl : Nat)
  /-- TBL_REQ_COMMIT (R346). -/
  | tblReqCommit (t : Nat) (r : CommitReq)
  /-- COMMIT_LOCAL_STEP (R346). -/
  | commitLocalStep (t : Nat)
  /-- TBL_REQ_KILL (R348). -/
  | tblReqKill (r : KillReq)
  /-- KILL_RELEASE (R348). -/
  | killRelease (t : Nat)
  /-- TBL_REQ_CANCEL (R360). -/
  | tblReqCancel (t : Nat)
  /-- TBL_REQ_SCAN_OUT (R356). -/
  | tblReqScanOut (t : Nat)
  /-- TBL_REQ_SCAN_IN (R356). -/
  | tblReqScanIn (t : Nat)
  /-- TBL_REQ_RESUME (R356). -/
  | tblReqResume (t : Nat)
  /-- MELD_OPEN (R361). -/
  | meldOpen (die : BitVec 1) (t : BitVec 8)
  /-- MELD_STAGE (R361). -/
  | meldStage (die : BitVec 1) (value : Word)
  /-- MELD_CHECK (R363). -/
  | meldCheck (die : BitVec 1)
  /-- MELD_APPLY (R366). -/
  | meldApply (die : BitVec 1)
  /-- MELD_ABORT (R366). -/
  | meldAbort (die : BitVec 1)
  /-- GUL_FRAME_RECEIVE (R374). -/
  | gulFrameReceive (link : Nat) (fec : Option Nat) (frame : BitVec 5140)
  /-- GUL_ACK_TIMEOUT (R374). -/
  | gulAckTimeout (link : Nat)
  /-- GUL_PACKET_ROUTE (R378). -/
  | gulPacketRoute (link : Nat)
  /-- GUL_REMOTE_ADMIT (R380). -/
  | gulRemoteAdmit (k : Nat)
  /-- GUL_REMOTE_WRITE (R381). -/
  | gulRemoteWrite (k : Nat)
  /-- GUL_REMOTE_READ (R381). -/
  | gulRemoteRead (k : Nat)
  /-- GUL_RETRY_RESEND (R380). -/
  | gulRetryResend (k : Nat)
  /-- GUL_QOP_READ (R383). -/
  | gulQopRead (core : Nat) (t : BitVec 8) (ddev : BitVec 16) (fill : Bool) (sid : BitVec 16) (len : BitVec 21)
  /-- GUL_QOP_WRITE (R383). -/
  | gulQopWrite (core : Nat) (t : BitVec 8) (ddev : BitVec 16) (fill : Bool) (sid : BitVec 16) (len : BitVec 21)
  /-- GUL_QOP_COLLECTIVE (R384). -/
  | gulQopCollective (core : Nat) (t : BitVec 8) (fill : Bool) (sid : BitVec 16)
  /-- GUL_QOP_DONE (R383). -/
  | gulQopDone (core : Nat)
  /-- COLLECTIVE_UNIT_COMBINE (R387). -/
  | collectiveUnitCombine (t : Nat) (seq : BitVec 32) (u : Nat)
  /-- COMMAND_START (R380). -/
  | commandStart (r : StartReq)
  /-- PREPARE (R388). -/
  | prepareMsg (m : CommitAt)
  /-- READY (R388). -/
  | readyMsg (m : CommitAt) (child : Nat)
  /-- COMMIT (R389). -/
  | commitMsg (m : CommitRuling)
  /-- ABORT (R389). -/
  | abortMsg (m : AbortNote)
  /-- KILLREQ (R389). -/
  | killreq (m : CommitAt)
  /-- DONE (R388). -/
  | doneMsg (m : CommitAt) (child : Nat)
  /-- DECIDE_TIMEOUT (R389). -/
  | decideTimeout (t : Nat)
  /-- KITTY_PUT (R392). -/
  | kittyPut (m : JobTag) (src : BitVec 16) (va : Nat) (parity : Bool) (data : List Byte)
  /-- KITTY_SEAL (R392). -/
  | kittySeal (m : JobTag) (src : BitVec 16) (count : Nat)
  /-- KITTY_GET (R393). -/
  | kittyGet (m : JobCmd) (src : BitVec 16) (va : Nat) (len : Nat) (tag : BitVec 16)
  /-- GUL_RSEL_WRITE (R379). -/
  | gulRselWrite (die : BitVec 1) (bank : Bool)
  /-- ROUTE_HOLD_RELEASE (R379). -/
  | routeHoldRelease (die : BitVec 1)
  /-- TIME_EXCHANGE (R394). -/
  | timeExchange (t1 t2 t3 t4 : Word)
  /-- GTIME_STEP (R394). -/
  | gtimeStep
  /-- ETH_FRAME_RECEIVE (R405). -/
  | ethFrameReceive (port : BitVec 1) (bytes : List Byte)
  /-- PFC_PAUSE (R407). -/
  | pfcPause (port : BitVec 1) (prio : BitVec 3) (stop : Bool)
  /-- ARP_REQUEST (R406). -/
  | arpRequest (port : BitVec 1) (target : BitVec 32) (sender : BitVec 32) (mac : BitVec 48)
  /-- NEIGHBOUR_SOLICITATION (R406). -/
  | neighbourSolicitation (port : BitVec 1) (target : BitVec 128) (sender : BitVec 128)
  /-- ICMP_ECHO (R406). -/
  | icmpEcho (port : BitVec 1) (v6 : Bool) (dst src : BitVec 128) (payload : List Byte)
  /-- REASSEMBLY_TIMEOUT (R411). -/
  | reassemblyTimeout (session : Nat) (seq : BitVec 32)
  /-- ACK (R412). -/
  | ack (h : Hdr)
  /-- DEVICE_ACK_TIMER (R410). -/
  | deviceAckTimer (session : Nat)
  /-- MESSAGE_RESEND (R410). -/
  | messageResend (session : Nat) (seq : BitVec 32)
  /-- SESSION_OPEN (R413). -/
  | sessionOpen (h : Hdr) (nonce : Word) (mgmt : Bool) (keepalive : BitVec 16) (linger : BitVec 16) (rto : BitVec 16)
  /-- SESSION_CLOSE (R415). -/
  | sessionClose (h : Hdr) (detach : Bool)
  /-- KEEPALIVE (R412). -/
  | keepalive (h : Hdr)
  /-- SESSION_LOST (R415). -/
  | sessionLost (session : Nat)
  /-- LINGER_EXPIRY (R415). -/
  | lingerExpiry (job : Nat)
  /-- NET_CONFIG (R406). -/
  | netConfig (h : Hdr) (port kind index plen : BitVec 8) (addr : BitVec 128) (remove : Bool)
  /-- MBX_WRITE (R417). -/
  | mbxWrite (h : Hdr) (die : BitVec 8) (value : Word)
  /-- WINDOW_GRANT (R424). -/
  | windowGrant (h : Hdr) (job : Nat) (va len : Nat) (rd wr : Bool) (wmode : BitVec 8)
  /-- WINDOW_REVOKE (R427). -/
  | windowRevoke (h : Hdr) (window : Nat)
  /-- QP_CREATE (R423). -/
  | qpCreate (h : Hdr) (hqpn hpsn : BitVec 32) (gid : BitVec 128) (pmtu : BitVec 8)
  /-- QP_DESTROY (R412). -/
  | qpDestroy (h : Hdr) (qpn : BitVec 32)
  /-- JOB_END (R418). -/
  | jobEnd (h : Hdr) (job : Nat)
  /-- JOB_ATTACH (R416). -/
  | jobAttach (h : Hdr) (job : Nat) (key : Word)
  /-- CMD_SUBMIT (R420). -/
  | cmdSubmit (h : Hdr) (req : CmdReq)
  /-- CMD_CANCEL (R422). -/
  | cmdCancel (h : Hdr) (job : Nat) (tag : Word)
  /-- RDMA_WRITE (R425). -/
  | rdmaWrite (port : BitVec 1) (qpn rkey : BitVec 32) (va : Nat) (data : List Byte) (ce : Bool)
  /-- RDMA_READ (R425). -/
  | rdmaRead (port : BitVec 1) (qpn rkey : BitVec 32) (va len : Nat) (ce : Bool)
  /-- CNP_RECEIVE (R408). -/
  | cnpReceive (port : BitVec 1) (qpn : BitVec 32)
  /-- ROCE_RATE_RISE (R408). -/
  | roceRateRise (port : BitVec 1) (qpn : BitVec 32)
  /-- KINDLING_ENTRY (R432). -/
  | kindlingEntry
  /-- ANNOUNCE (R432). -/
  | announce (port : BitVec 1)
  /-- LOAD_OFFER (R436). -/
  | loadOffer (h : Hdr) (nonce : Word) (length : Nat) (deadline : Nat)
  /-- LOAD_DATA (R438). -/
  | loadData (h : Hdr) (offset : Nat) (data : List Byte)
  /-- LOAD_END (R439). -/
  | loadEnd (h : Hdr)
  /-- LOAD_CHECKS_DONE (R446). -/
  | loadChecksDone
  /-- LOAD_DEADLINE (R440). -/
  | loadDeadline
  /-- IDENTITY (R461). -/
  | identity (h : Hdr)
  /-- ATTEST (R462). -/
  | attest (h : Hdr) (nonce : BitVec 256)
  /-- KEYSTORE_PUT (R458). -/
  | keystorePut (h : Hdr) (slot : Nat) (erase : Bool) (iv : BitVec 96) (wrapped : BitVec 256) (tag : BitVec 128)
  /-- POWER_ON (R468). -/
  | powerOn
  /-- BROWN_OUT (R468). -/
  | brownOut
  /-- PIN_RESET (R468). -/
  | pinReset
  /-- WATCHDOG (R472). -/
  | watchdog (core : Nat)
  /-- RST_REQ (R471). -/
  | rstReq (kind : Bool) (die : BitVec 1) (index : BitVec 7)
  /-- DEBUG_REQUEST (R468). -/
  | debugRequest (kind : Bool) (die : BitVec 1) (index : BitVec 7)
  /-- CLOCK_FAILURE (R468). -/
  | clockFailure
  /-- LOCK_UP (R512). -/
  | lockUp (core : Nat)
  /-- SOURCE_RELEASE (R475). -/
  | sourceRelease (src : RstSource)
  /-- RESET_N_SAMPLE (R474). -/
  | resetNSample (low : Bool)
  /-- EPISODE_RELEASE (R476). -/
  | episodeRelease
  /-- CLK_FAILOVER (R479). -/
  | clkFailover
  /-- SUPPLY_DROOP (R483). -/
  | supplyDroop (isl : Nat) (extra : Nat)
  /-- CAPPING_STEP (R486). -/
  | cappingStep (fast slow : BitVec 16)
  /-- CAPPING_CALIBRATION (R486). -/
  | cappingCalibration (r : Calibration)
  /-- CAPPING_EVENT (R514). -/
  | cappingEvent
  /-- PWR_CAP_WRITE (R485). -/
  | pwrCapWrite (value : Word)
  /-- TEMPERATURE_THRESHOLD (R488). -/
  | temperatureThreshold (die : BitVec 1) (tj tdram : BitVec 12)
  /-- THERMAL_TRIP (R489). -/
  | thermalTrip (die : BitVec 1)
  /-- THROTTLE_REQUEST (R537). -/
  | throttleRequest (low : Bool)
  /-- PIN_TRACE_WRITE (R536). -/
  | pinTraceWrite (word : Word)
  /-- SMBUS_READ (R531). -/
  | smbusRead (addr : Nat) (pecOk : Bool)
  /-- SMBUS_ALERT_RESPONSE (R532). -/
  | smbusAlertResponse
  /-- JTAG_INSTRUCTION (R454). -/
  | jtagInstruction (inst : JtagInst)
  /-- UE_EVENT (R504). -/
  | ueEvent (die : BitVec 1) (src : UeSource)
  /-- STOP_NOTICE (R505). -/
  | stopNotice (n : StopNote)
  /-- JOB_RESTART (R508). -/
  | jobRestart (r : RestartReq)
  /-- FRAME_RETIRE (R503). -/
  | frameRetire (die : BitVec 1) (frame : Nat)
  /-- REGISTER_PARITY_ERROR (R500). -/
  | registerParityError (c : CellRef)
  /-- STW_WDOG_EXPIRY (R511). -/
  | stwWdogExpiry (core : Nat)
  /-- STW_PET (R519). -/
  | stwPet (core : Nat)
  /-- REGISTER_WRITE (R17). -/
  | registerWrite (addr : Nat) (value : Word)
  /-- EPISODE_MINIMUM_END (R474). -/
  | episodeMinimumEnd
  /-- CORE_DRAIN_TIMEOUT (R472). -/
  | coreDrainTimeout (core : Nat) (drained : Bool)
  /-- GULRAS_LINK_TRAINED (R399). -/
  | gulrasLinkTrained (link : Nat) (peer : BitVec 16) (plink : BitVec 5)
  /-- ETHERNET_PORT_TRAINED (R430). -/
  | ethernetPortTrained (port : BitVec 1) (rate : BitVec 2)
  /-- LPDDR6_TRAINING_DONE (R281). -/
  | lpddr6TrainingDone (n : BitVec 5) (density : BitVec 2) (ranks rate : Bool) (failed0 failed1 : BitVec 16)
  /-- REFERENCE_CLOCK_PRESENCE (R479). -/
  | referenceClockPresence (ref : Bool) (present : Bool)
  /-- VBAT_LOSS (R456). -/
  | vbatLoss
  /-- ISLAND_CLOCK_SLEW (R482). -/
  | islandClockSlew (isl : Nat)
  /-- TRACE_WORD_SENT (R536). -/
  | traceWordSent
  /-- STATE_SCAN_DONE (R356). -/
  | stateScanDone (t : Nat)
  deriving DecidableEq, Repr

end Sys2Proof
end

