-- ==== Sys2Proof/Machine/Sparse.lean ====
section
/-! DEFINITION. Sparse maps in one canonical form: keys strictly rising, no entry equal to what an unlisted key
reads as. Memory, register files and the register space are held this way. -/

namespace Sys2Proof.Machine

/-- A sparse map from numbers; `d k` is what an unlisted key `k` reads as. -/
abbrev SMap (α : Type) := List (Nat × α)

variable {α : Type}

def SMap.get (d : Nat → α) : SMap α → Nat → α
  | [], k => d k
  | (k', v) :: t, k => if k = k' then v else if k < k' then d k else SMap.get d t k

/-- Put an entry in its place, replacing one of the same key. -/
def SMap.insert (k : Nat) (v : α) : SMap α → SMap α
  | [] => [(k, v)]
  | (k', v') :: t =>
    if k = k' then (k, v) :: t else if k < k' then (k, v) :: (k', v') :: t else (k', v') :: SMap.insert k v t

/-- Remove the entry of a key. -/
def SMap.erase (k : Nat) : SMap α → SMap α
  | [] => []
  | (k', v') :: t => if k = k' then t else if k < k' then (k', v') :: t else (k', v') :: SMap.erase k t

/-- Write a key: writing what an unlisted key reads as removes the entry. -/
def SMap.set [DecidableEq α] (d : Nat → α) (m : SMap α) (k : Nat) (v : α) : SMap α :=
  if v = d k then SMap.erase k m else SMap.insert k v m

/-- The keys are strictly rising, all above `lo`, and no entry equals what an unlisted key reads as. -/
def SMap.wfFrom [DecidableEq α] (d : Nat → α) : Option Nat → SMap α → Bool
  | _, [] => true
  | lo, (k, v) :: t => (match lo with | none => true | some l => decide (l < k)) && decide (v ≠ d k) && SMap.wfFrom d (some k) t

/-- The canonical form. -/
def SMap.wf [DecidableEq α] (d : Nat → α) (m : SMap α) : Bool := SMap.wfFrom d none m

/-- Keep the entries whose key passes a test. -/
def SMap.keep (p : Nat → Bool) (m : SMap α) : SMap α := m.filter (fun e => p e.1)

/-- Bytes at consecutive addresses, lowest first. -/
def readBytes (rd : Nat → Byte) (a n : Nat) : List Byte := (List.range n).map (fun i => rd (a + i))

/-- A little-endian value from bytes (R19). -/
def leNat : List Byte → Nat
  | [] => 0
  | b :: t => b.toNat + 256 * leNat t

/-- The n little-endian bytes of a value (R19). -/
def leBytes : Nat → Nat → List Byte
  | 0, _ => []
  | n + 1, v => BitVec.ofNat 8 v :: leBytes n (v / 256)

/-- A byte memory with default 0: instruction memory, tiles, vectors, descriptor slots. -/
abbrev Bytes := SMap Byte

def Bytes.dflt : Nat → Byte := fun _ => 0
def Bytes.rd (m : Bytes) (a : Nat) : Byte := SMap.get Bytes.dflt m a
def Bytes.wr (m : Bytes) (a : Nat) (v : Byte) : Bytes := SMap.set Bytes.dflt m a v
def Bytes.readN (m : Bytes) (a n : Nat) : List Byte := readBytes m.rd a n
def Bytes.readLE (m : Bytes) (a n : Nat) : Nat := leNat (m.readN a n)
/-- Write consecutive bytes, lowest first. -/
def Bytes.writeN (m : Bytes) (a : Nat) (bs : List Byte) : Bytes :=
  match bs with
  | [] => m
  | b :: t => Bytes.writeN (Bytes.wr m a b) (a + 1) t

/-- A field of a word: bits [hi:lo] (R15). -/
def field (hi lo : Nat) (w : Word) : Nat := (w.toNat >>> lo) % 2 ^ (hi - lo + 1)

/-- A word with bits [hi:lo] replaced. -/
def putField (hi lo : Nat) (v : Nat) (w : Word) : Word :=
  let m : Nat := 2 ^ (hi - lo + 1) - 1
  (w &&& ~~~(BitVec.ofNat 64 (m <<< lo))) ||| BitVec.ofNat 64 ((v % 2 ^ (hi - lo + 1)) <<< lo)

def bit (i : Nat) (w : Word) : Bool := w.getLsbD i

def b2n (b : Bool) : Nat := if b then 1 else 0

/-- Add within a field that saturates at all ones (for example R502, R516). -/
def satAdd (bits v n : Nat) : Nat := min (v + n) (2 ^ bits - 1)

/-- Sign extension from the low `n` bits to 64 bits. -/
def sext (n : Nat) (v : Nat) : Word :=
  let x := v % 2 ^ n
  if 2 ^ (n - 1) ≤ x then BitVec.ofInt 64 ((x : Int) - 2 ^ n) else BitVec.ofNat 64 x

end Sys2Proof.Machine
end

