-- ==== Sys2Proof/Machine/Code3632.lean ====
section
/-! DEFINITION. The 36/32 code (R294 to R296): Reed–Solomon over GF(2^8), four check bytes to thirty-two data bytes. -/

namespace Sys2Proof.Machine

/-- Multiplication by α = 0x02 in the field of x^8 + x^4 + x^3 + x^2 + 1 (R294). -/
def gfDouble (a : Byte) : Byte := (a <<< 1) ^^^ (if a.getLsbD 7 then 0x1D else 0)

/-- Product in GF(2^8), by the bits of the second factor from bit n − 1 down. -/
def gfMulBits (a b : Byte) : Nat → Byte
  | 0 => 0
  | n + 1 => gfDouble (gfMulBits a (b >>> 1) n) ^^^ (if b.getLsbD 0 then a else 0)

def gfMul (a b : Byte) : Byte := gfMulBits a b 8

/-- α^n. -/
def alphaPow : Nat → Byte
  | 0 => 1
  | n + 1 => gfDouble (alphaPow n)

/-- One step of the division by g(x) (R294): the remainder's four symbols, highest first, take one more data
symbol. -/
def rsStep (r : Byte × Byte × Byte × Byte) (d : Byte) : Byte × Byte × Byte × Byte :=
  let f := r.1 ^^^ d
  (r.2.1 ^^^ gfMul f 0x0F, r.2.2.1 ^^^ gfMul f 0x36, r.2.2.2 ^^^ gfMul f 0x78, gfMul f 0x40)

/-- The check bytes 0 to 3 of a payload (R295). -/
def checkBytes (data : List Byte) : List Byte :=
  let r := data.foldl rsStep (0, 0, 0, 0)
  [r.1, r.2.1, r.2.2.1, r.2.2.2]

/-- The 36 symbols of a stored block, c35 first: payload, then check bytes (R295). -/
def encodeBlock (data : List Byte) : List Byte := data ++ checkBytes data

/-- Syndrome S[j] of symbols given c35 first (R296), by Horner's rule at α^j. -/
def syndrome (j : Nat) (cs : List Byte) : Byte :=
  cs.foldl (fun acc c => gfMul acc (alphaPow j) ^^^ c) 0

/-- The outcome of decoding a block (R296). -/
inductive Decoded where
  | clean
  | corrected (symbol : Nat) (xor : Byte)
  | uncorrectable
  deriving DecidableEq, Repr

/-- The least p below n at or after `i` with α^p × s0 = s1. -/
def findLocator (s0 s1 : Byte) : Nat → Nat → Option Nat
  | 0, _ => none
  | n + 1, p => if gfMul (alphaPow p) s0 = s1 then some p else findLocator s0 s1 n (p + 1)

/-- The decoder of R296. -/
def decodeBlock (cs : List Byte) : Decoded :=
  let s0 := syndrome 0 cs
  let s1 := syndrome 1 cs
  let s2 := syndrome 2 cs
  let s3 := syndrome 3 cs
  if s0 = 0 ∧ s1 = 0 ∧ s2 = 0 ∧ s3 = 0 then .clean
  else if s0 ≠ 0 ∧ s1 ≠ 0 ∧ gfMul s1 s1 = gfMul s0 s2 ∧ gfMul s2 s2 = gfMul s1 s3 then
    match findLocator s0 s1 36 0 with
    | some p => .corrected p s0
    | none => .uncorrectable
  else .uncorrectable

/-- Add an upset to the symbols of a block; symbol i is c_i, at place 35 − i. -/
def applyUpset (cs : List Byte) (u : Upset) : List Byte :=
  u.foldl (fun l e => if e.1 ≤ 35 then l.modify (35 - e.1) (· ^^^ e.2) else l) cs

/-- Where bit k of symbol s of an LPDDR6 block stands in its burst: the DQ and the beat (R298). -/
def dqOf (s : Nat) : Nat := s / 3
def beatOf (s k : Nat) : Nat := 8 * (s % 3) + k

/-- What a failed pin adds to a block: 24 beats of one DQ, so at most three symbols (R298). -/
def pinUpset (dq : Nat) (beats : BitVec 24) : Upset :=
  ((List.range 36).filter (fun s => dqOf s == dq)).map (fun s =>
    (s, (List.range 8).foldl (fun x k => if beats.getLsbD (beatOf s k) then x ||| (1#8 <<< k) else x) 0))

/-- Payload after a decode: the correction applied, none when uncorrectable (R297). -/
def decodedPayload (cs : List Byte) : Option (List Byte) :=
  match decodeBlock cs with
  | .clean => some (cs.take 32)
  | .corrected p x => some ((applyUpset cs [(p, x)]).take 32)
  | .uncorrectable => none

end Sys2Proof.Machine
end

