-- ==== Sys2Proof/Machine/Codes.lean ====
section
/-! DEFINITION. The status codes (R12) of R135, R302, R333, R367, R368, R397, R428, R464 and R491. -/

namespace Sys2Proof.Machine

/-- A status code (R12). -/
abbrev Code := BitVec 16

namespace K
def ok : Code := 0
def eOpcode : Code := 0x0101
def eFieldReserved : Code := 0x0102
def ePortFenced : Code := 0x0103
def eSramRange : Code := 0x0104
def eAlign : Code := 0x0105
def eWriteClash : Code := 0x0106
def eLinkUnderrun : Code := 0x0107
def eLinkOverrun : Code := 0x0108
def eTokenLost : Code := 0x0109
def eUnitAbsent : Code := 0x010A
def eStack : Code := 0x010B
def eLoop : Code := 0x010C
def eImemRange : Code := 0x010D
def eAssert : Code := 0x010E
def eStreamState : Code := 0x010F
def eShape : Code := 0x0110
def eUncleanExit : Code := 0x0111
def eVaUnmapped : Code := 0x0201
def ePageAccess : Code := 0x0202
def eMemUncorrectable : Code := 0x0203
def ePaRange : Code := 0x0204
def eVersionPool : Code := 0x0205
def ePageFormat : Code := 0x0206
def eFarTraining : Code := 0x0207
def eDealRange : Code := 0x0301
def eDealFormat : Code := 0x0302
def eDealSteer : Code := 0x0303
def timedOut : Code := 0x0401
def ownerLost : Code := 0x0402
def orphan : Code := 0x0403
def eSyncUnmapped : Code := 0x0410
def eSyncFormat : Code := 0x0411
def eSyncForeign : Code := 0x0412
def eRoundOver : Code := 0x0413
def eRoundState : Code := 0x0414
def eChHandle : Code := 0x0415
def eChLength : Code := 0x0416
def eJobShape : Code := 0x0501
def eJobGrade : Code := 0x0502
def eJobSeats : Code := 0x0503
def eJobTableId : Code := 0x0504
def eJobNoRoom : Code := 0x0505
def eJobStopped : Code := 0x0506
def cancelled : Code := 0x0507
def eCmdLimit : Code := 0x0508
def eJobHung : Code := 0x0509
def eJobScanned : Code := 0x050A
def eJobEnded : Code := 0x050B
def eTblState : Code := 0x050C
def eLinkDown : Code := 0x0601
def eLinkRoute : Code := 0x0602
def eLinkHops : Code := 0x0603
def eLinkJob : Code := 0x0604
def eLinkRetry : Code := 0x0605
def eLinkAtm : Code := 0x0606
def eLinkColl : Code := 0x0607
def eLinkDecide : Code := 0x0608
def eLinkKitty : Code := 0x0609
def eHostFormat : Code := 0x0701
def eHostType : Code := 0x0702
def eHostSessions : Code := 0x0703
def eHostPriv : Code := 0x0704
def eHostJob : Code := 0x0705
def eHostCmd : Code := 0x0706
def eHostCmdDone : Code := 0x0707
def eHostQueue : Code := 0x0708
def eHostMbxFull : Code := 0x0709
def eHostWindow : Code := 0x070A
def eHostQp : Code := 0x070B
def eHostNotLead : Code := 0x070C
def eLoadBusy : Code := 0x0801
def eLoadStage : Code := 0x0802
def eLoadOffer : Code := 0x0803
def eLoadFormat : Code := 0x0804
def eLoadKeysource : Code := 0x0805
def eLoadDecrypt : Code := 0x0806
def eLoadKeyhash : Code := 0x0807
def eLoadEcdsa : Code := 0x0808
def eLoadLms : Code := 0x0809
def eLoadDigest : Code := 0x080A
def eSteppingUntested : Code := 0x080B
def eVersionUntested : Code := 0x080C
def eLoadRollback : Code := 0x080D
def eLoadCrc : Code := 0x080E
def eLoadDeadline : Code := 0x080F
def eFuseInconsistent : Code := 0x0810
def eProgramVersion : Code := 0x0811
def eAttestExhausted : Code := 0x0812
def eKeystore : Code := 0x0813
def eRstBusy : Code := 0x0901
def eRstTarget : Code := 0x0902
def clkFailover : Code := 0x0903
def eThermalTrip : Code := 0x0904
def ePmbus : Code := 0x0905
end K

end Sys2Proof.Machine
end

