-- ==== Sys2Proof/Config.lean ====
section
/-! DEFINITION. What the spec leaves open or names without giving: free values and uninterpreted functions.
None has a body, so nothing can be proved of a value of theirs; a statement holds whatever they are. -/

namespace Sys2Proof.Config

/-- The n-th free 64-bit value: session cookies (R413), attach keys (R416), rkeys (R424), device queue pair
numbers and PSNs (R423), which the spec calls fresh or leaves to firmware. Log entry 9. -/
opaque freeValue : Nat → Word

/-- A byte of memory whose contents an episode of Cold reach left undefined (R470). Log entry 3. -/
opaque coldByte : Nat → Nat → Byte

/-- The lists of a sieve after the kill of a command, which R267 calls undefined: list number and pairs of
R258. Log entry 12. -/
opaque killedLists : Nat → List (Nat × List (BitVec 128))

/-- SHA-384 (R444 to R446, R462), a standard the spec names and does not give. Log entry 10. -/
opaque sha384 : List Byte → BitVec 384

/-- AES-256-GCM opening (R441, R446, R458): key, IV, additional data, ciphertext, tag; the plaintext when the
tag verifies. Log entry 10. -/
opaque gcmOpen : BitVec 256 → BitVec 96 → List Byte → List Byte → BitVec 128 → Option (List Byte)

/-- ECDSA P-384 verification (R446): public key bytes, message, signature bytes. Log entry 10. -/
opaque ecdsaVerify : List Byte → List Byte → List Byte → Bool

/-- LMS verification (R446): public key bytes, message, signature bytes. Log entry 10. -/
opaque lmsVerify : List Byte → List Byte → List Byte → Bool

/-- ECDSA P-384 public key of the device secret (R459). Log entry 10. -/
opaque ecdsaPublic : BitVec 256 → List Byte

/-- LMS public key of the device secret (R459). Log entry 10. -/
opaque lmsPublic : BitVec 256 → List Byte

/-- ECDSA signature with the device key of a secret (R462). Log entry 10. -/
opaque ecdsaSign : BitVec 256 → List Byte → List Byte

/-- LMS signature with the device key of a secret and a leaf index (R460, R462). Log entry 10. -/
opaque lmsSign : BitVec 256 → Nat → List Byte → List Byte

/-- SHA-384 of the kindling ROM and the ROM's version (R434, R462). Log entry 10. -/
opaque romDigest : BitVec 384
opaque romVersion : BitVec 32

/-- Whether a program image defines a program entry (R420); the body of an image after its header is not
given (R451). Log entry 13. -/
opaque programEntry : List Byte → BitVec 32 → Bool

/-- The IEEE 802.3 FCS of a frame's bytes (R405), a standard the spec names. Log entry 10. -/
opaque etherFcs : List Byte → BitVec 32

/-- How a token is laid out in the 64 bytes of a scan place (R357), which the spec does not give, and the
reading of such bytes. Log entry 14. -/
opaque tokenBytes : BitVec 298 → List Byte
opaque tokenOfBytes : List Byte → Option (BitVec 298)

/-- The 16-bit tag that a requester puts into the header of a packet (R242), which the spec leaves to it; a function of what
the packet asks for. Log entry 119. -/
opaque meshTag : List Nat → BitVec 16

/-- Where firmware keeps the sync map that a steward port uses for table 0 (R336), by die; no register holds it. Log
entry 29. -/
opaque fwSyncMap : Nat → Nat

/-- What a collective's descriptor does not tell (R384, R386): the pe of raw entries that are read out, and the format of TOPK
scores. The program fixes them, so they depend on the job, the number of its command and the descriptor alone: the same on
every rank and in every rerun (R37, R39, R40). Log entry 122. -/
opaque collPe : Nat → Nat → List Byte → BitVec 10
opaque collScore : Nat → Nat → List Byte → BitVec 2

/-- What data of a collective says of the fields that ranks have to agree on, in 16 bits of its packet (R384; log entry 63). -/
opaque collDigest : List Byte → BitVec 16

/-- Whether the cell runtime or admitted code of a job, by its handle, runs on a steward core (R513). Firmware places it; no register
says where. Log entry 123. -/
opaque runsOn : Nat → Nat → Bool

end Sys2Proof.Config
end

