-- ==== Sys2Proof/Machine/RegMap.lean ====
section
/-! DEFINITION. The control-space registers: their addresses, access codes (R17) and Reset columns, from the register
tables of 02 to 19. One row per register or array of registers. -/

namespace Sys2Proof.Machine

/-- What a register's fields allow (R17): masks of the bits of each access code, and the Reset column. Bits in no
mask are RO or reserved (R16). -/
structure RegSpec where
  rw : Word := 0
  w1c : Word := 0
  rws : Word := 0
  reset : Word := 0
  deriving DecidableEq, Repr

/-- Registers at `base + stride × k` for k below `n`, as an offset within their block. -/
structure RegRow where
  base : Nat
  stride : Nat := 8
  n : Nat := 1
  spec : RegSpec := {}
  deriving DecidableEq, Repr

/-- The mask of bits [hi:lo]. -/
def bitsMask (hi lo : Nat) : Word := BitVec.ofNat 64 ((2 ^ (hi - lo + 1) - 1) <<< lo)

def RegRow.find (rows : List RegRow) (o : Nat) : Option RegSpec :=
  match rows with
  | [] => none
  | r :: t =>
    if r.base ≤ o ∧ (o - r.base) % r.stride = 0 ∧ (o - r.base) / r.stride < r.n then some r.spec
    else RegRow.find t o

/-- Registers of an island block (R68 to R70, R139, R140, R214, R215, R238, R252, R253, R370, R496). -/
def islandRows : List RegRow := [
  { base := 0x0000 },
  { base := 0x0008, spec := { rw := bitsMask 11 0 ||| bitsMask 20 16 } },
  { base := 0x0010, spec := { rw := bitsMask 3 0, reset := 0xF } },
  { base := 0x0100, spec := { w1c := bitsMask 11 11 } },
  { base := 0x0108, n := 5 },
  { base := 0x0200, spec := { reset := 0x0000FFFFFFFFFFFF } },
  { base := 0x0208 }, { base := 0x0300 }, { base := 0x0400 }, { base := 0x0500, n := 2 },
  { base := 0x0600, spec := { reset := 64 + 64 * 128 } },
  { base := 0x80000, n := 4096 }]

/-- Registers of a cell block (R141 to R143, R163, R164, R188 to R190, R212 to R214, R235 to R237, R271 to R273). -/
def cellRows : List RegRow := [
  { base := 0x000, spec := { w1c := bitsMask 31 31 } },
  { base := 0x008 }, { base := 0x020 }, { base := 0x040, n := 2 },
  { base := 0x060, spec := { w1c := bitsMask 4 0 } },
  { base := 0x068 }, { base := 0x070, n := 5 },
  { base := 0x0F0, spec := { reset := 0x0000FFFFFFFFFFFF } },
  { base := 0x100, n := 8 }, { base := 0x200, n := 5 }, { base := 0x240, n := 8 }, { base := 0x300, n := 3 }]

/-- MEM (R303 to R307). -/
def memRows : List RegRow := [
  { base := 0x0000, n := 4 },
  { base := 0x0020, spec := { rw := bitsMask 47 0 } },
  { base := 0x0040 },
  { base := 0x0100, spec := { rw := 1, reset := 1 } },
  { base := 0x0108, spec := { rw := bitsMask 47 0, reset := 64 + 256 * 0x10000 + 256 * 0x100000000 } },
  { base := 0x0110, n := 2 },
  { base := 0x10020, stride := 0x20, n := 255, spec := { rw := bitsMask 47 21 ||| 1 } },
  { base := 0x10028, stride := 0x20, n := 255, spec := { rw := bitsMask 63 8 } },
  { base := 0x10030, stride := 0x20, n := 255 }, { base := 0x10038, stride := 0x20, n := 255 }]

/-- SYNC (R334 to R336). -/
def syncRows : List RegRow := [
  { base := 0x0000, n := 4 },
  { base := 0x4000, stride := 0x40, n := 16 },
  { base := 0x4008, stride := 0x40, n := 16, spec := { rw := bitsMask 63 0 } },
  { base := 0x4010, stride := 0x40, n := 16, spec := { rw := bitsMask 63 0 } },
  { base := 0x4018, stride := 0x40, n := 16, spec := { reset := 0x10000 } },
  { base := 0x4020, stride := 0x40, n := 16 },
  { base := 0x10008, n := 255, spec := { rw := bitsMask 47 19 ||| 1 } },
  { base := 0x20000, n := 16384, spec := { rw := bitsMask 7 0 } }]

/-- MBX (R337). -/
def mbxRows : List RegRow := [
  { base := 0x0, stride := 0x10, n := 288, spec := { rw := bitsMask 63 0 } },
  { base := 0x8, stride := 0x10, n := 288, spec := { w1c := bitsMask 2 2 } },
  { base := 0x2000 }, { base := 0x2008, spec := { w1c := bitsMask 63 0 } }]

/-- CHN (R338). -/
def chnRows : List RegRow := [
  { base := 0x0, stride := 0x20, n := 4096, spec := { rw := bitsMask 52 12 } },
  { base := 0x8, stride := 0x20, n := 4096, spec := { rw := bitsMask 26 0 } },
  { base := 0x10, stride := 0x20, n := 4096, spec := { rw := bitsMask 63 32 } },
  { base := 0x18, stride := 0x20, n := 4096 }]

/-- TBL (R369). -/
def tblRows : List RegRow := [
  { base := 0x40, stride := 0x40, n := 255, spec := { rw := bitsMask 2 0 ||| bitsMask 11 4 } },
  { base := 0x48, stride := 0x40, n := 255 }, { base := 0x50, stride := 0x40, n := 255 },
  { base := 0x58, stride := 0x40, n := 255 },
  { base := 0x60, stride := 0x40, n := 255, spec := { rw := bitsMask 47 12 } }]

/-- MELD and DLR (R371). -/
def meldRows : List RegRow := [{ base := 0x0 }, { base := 0x8, spec := { rw := bitsMask 47 0 } }, { base := 0x10, n := 2 }]
def dlrRows : List RegRow := [{ base := 0x0 }]

/-- GUL (R398 to R402). -/
def gulRows : List RegRow := [
  { base := 0x0, spec := { rw := bitsMask 15 0 } }, { base := 0x8, spec := { rw := 1 } },
  { base := 0x40, spec := { rw := bitsMask 5 0 ||| bitsMask 31 16, reset := 0x20 } }, { base := 0x48 },
  { base := 0x100, stride := 0x20, n := 16 },
  { base := 0x108, stride := 0x20, n := 16, spec := { rw := bitsMask 4 0, reset := 0x10 } },
  { base := 0x110, stride := 0x20, n := 16 },
  { base := 0x4000, stride := 0x40, n := 16 },
  { base := 0x4008, stride := 0x40, n := 16, spec := { rw := bitsMask 47 0 } },
  { base := 0x4010, stride := 0x40, n := 16, spec := { rw := bitsMask 47 0 } },
  { base := 0x4018, stride := 0x40, n := 16, spec := { reset := 0x10000 } },
  { base := 0x10000, n := 8192, spec := { rw := 0x7F7F7F7F7F7F7F7F } },
  { base := 0x20000, n := 8192, spec := { rw := 0x7F7F7F7F7F7F7F7F } },
  { base := 0x30020, stride := 0x20, n := 255, spec := { rw := bitsMask 63 0 } },
  { base := 0x30028, stride := 0x20, n := 255, spec := { rw := bitsMask 33 0 } },
  { base := 0x30030, stride := 0x20, n := 255, spec := { rw := bitsMask 31 0, reset := 0x186A0 } },
  { base := 0x30038, stride := 0x20, n := 255 }]

/-- ETH (R429 to R431). -/
def ethRows : List RegRow := [
  { base := 0x0, spec := { rw := bitsMask 23 0 ||| bitsMask 45 32,
                           reset := 0x8 ||| (3 <<< 12) ||| (0x0E <<< 19) ||| (9216 <<< 32) } },
  { base := 0x8, n := 2 }]

/-- FUSE and SEC (R465 to R467), GEO (R65 to R67). -/
def fuseRows : List RegRow := [{ base := 0x0, n := 4 }, { base := 0x100, n := 12 }, { base := 0x180, n := 12 },
  { base := 0x200, n := 12 }, { base := 0x280, n := 12 }]
def secRows : List RegRow := [{ base := 0x0, n := 2 }]
def geoRows : List RegRow := [{ base := 0x0, n := 6 }]

/-- RCP (R492 to R498). -/
def rcpRows : List RegRow := [
  { base := 0x000, spec := { w1c := bitsMask 7 0 } }, { base := 0x008, n := 2 },
  { base := 0x018, spec := { rw := bitsMask 15 0 } }, { base := 0x100 },
  { base := 0x200, spec := { rw := bitsMask 31 0, reset := 1400 + 1250 * 0x10000 } }, { base := 0x208, n := 2 },
  { base := 0x218, spec := { rws := 0x00007F7F7F7F7F7F } }, { base := 0x300 }]

/-- ERR (R516 to R519). -/
def errRows : List RegRow := [
  { base := 0x000, spec := { rws := bitsMask 59 0 } }, { base := 0x008, spec := { rws := bitsMask 47 0 } },
  { base := 0x010, spec := { w1c := bitsMask 63 63 } },
  { base := 0x018, spec := { rw := 2, w1c := 13 } }, { base := 0x020 }, { base := 0x100, n := 64 },
  { base := 0x400, stride := 0x10, n := 16, spec := { rw := bitsMask 39 0 ||| bitsMask 63 63, reset := 0x3B9ACA00 } },
  { base := 0x408, stride := 0x10, n := 16 }]

/-- PIN (R543 to R545). -/
def pinRows : List RegRow := [
  { base := 0x00 }, { base := 0x08 }, { base := 0x10, spec := { rws := bitsMask 7 0 } }, { base := 0x18, n := 4 }]

/-- The control space of a die (R274, R49) and the offsets of its blocks. -/
def ctlBase (die : Nat) : Nat := 0x030000000000 + 0x000800000000 * die
def dieSpan : Nat := 0x000800000000
def islandSpan : Nat := 0x00100000

inductive Block where
  | geo | mem | sync | mbx | chn | tbl | meld | dlr | gul | eth | fuse | sec | rcp | err | pin
  deriving DecidableEq, Repr

def Block.off : Block → Nat
  | .geo => 0x07000000 | .mem => 0x07100000 | .sync => 0x07200000 | .mbx => 0x07300000 | .chn => 0x07400000
  | .tbl => 0x07500000 | .meld => 0x07600000 | .dlr => 0x07700000 | .gul => 0x07800000 | .eth => 0x07900000
  | .fuse => 0x07A00000 | .sec => 0x07B00000 | .rcp => 0x07C00000 | .err => 0x07D00000 | .pin => 0x07E00000

def Block.rows : Block → List RegRow
  | .geo => geoRows | .mem => memRows | .sync => syncRows | .mbx => mbxRows | .chn => chnRows | .tbl => tblRows
  | .meld => meldRows | .dlr => dlrRows | .gul => gulRows | .eth => ethRows | .fuse => fuseRows | .sec => secRows
  | .rcp => rcpRows | .err => errRows | .pin => pinRows

def Block.ofIndex (i : Nat) : Option Block :=
  [Block.geo, .mem, .sync, .mbx, .chn, .tbl, .meld, .dlr, .gul, .eth, .fuse, .sec, .rcp, .err, .pin][i]?

/-- Where a control-space address lies. -/
inductive RegPlace where
  | island (isl off : Nat)
  | cell (isl c off : Nat)
  | block (die : Nat) (b : Block) (off : Nat)
  | none
  deriving DecidableEq, Repr

def regPlace (a : Nat) : RegPlace :=
  if a < ctlBase 0 ∨ ctlBase 2 ≤ a then .none
  else
    let die := (a - ctlBase 0) / dieSpan
    let o := (a - ctlBase 0) % dieSpan
    if o < 96 * islandSpan then
      let isl := 96 * die + o / islandSpan
      let r := o % islandSpan
      if 0x10000 ≤ r ∧ r < 0x20000 then .cell isl ((r - 0x10000) / 0x1000) (r % 0x1000) else .island isl r
    else if 0x07000000 ≤ o then
      match Block.ofIndex ((o - 0x07000000) / 0x100000) with
      | some b => .block die b (o % 0x100000)
      | Option.none => .none
    else .none

/-- The access specification of an address, none where no register lies. -/
def regSpec (a : Nat) : Option RegSpec :=
  match regPlace a with
  | .island _ o => RegRow.find islandRows o
  | .cell _ _ o => RegRow.find cellRows o
  | .block _ b o => RegRow.find b.rows o
  | .none => none

/-- The Reset column (R17); 0 where no register lies. -/
def resetValue (a : Nat) : Word := match regSpec a with | some r => r.reset | none => 0

/-! ### Addresses -/

/-- The die and island number of an island index (R49). -/
def islDie (isl : Nat) : Nat := isl / 96
def islNum (isl : Nat) : Nat := isl % 96
/-- Package island row and column (R49). -/
def islRow (isl : Nat) : Nat := islNum isl / 12
def islCol (isl : Nat) : Nat := islNum isl % 12 + 12 * islDie isl
/-- The island at a package position. -/
def islAt (i j : Nat) : Nat := 96 * (j / 12) + 12 * i + j % 12

def islReg (isl off : Nat) : Nat := ctlBase (islDie isl) + islandSpan * islNum isl + off
def cellReg (c : CellRef) (off : Nat) : Nat := islReg c.isl (0x10000 + 0x1000 * c.c + off)
def blkReg (die : Nat) (b : Block) (off : Nat) : Nat := ctlBase die + b.off + off

namespace R
def islTpos (i : Nat) := islReg i 0x0008
def islFence (i : Nat) := islReg i 0x0010
def islSeq (i : Nat) := islReg i 0x0100
def stallFifo (i : Nat) := islReg i 0x0108
def stallStream (i : Nat) := islReg i 0x0110
def stallSync (i : Nat) := islReg i 0x0118
def stallStretch (i : Nat) := islReg i 0x0120
def islCycle (i : Nat) := islReg i 0x0128
def islDamp (i : Nat) := islReg i 0x0200
def dampHeld (i : Nat) := islReg i 0x0208
def islStale (i : Nat) := islReg i 0x0300
def islMesh (i : Nat) := islReg i 0x0400
def islWdog (i : Nat) := islReg i 0x0500
def islSlice (i : Nat) := islReg i 0x0508
def islClk (i : Nat) := islReg i 0x0600
def islMcg (i g : Nat) := islReg i (0x80000 + 8 * g)
def cellFault (c : CellRef) := cellReg c 0x000
def cellDamp (c : CellRef) := cellReg c 0x0F0
def cellRoute (c : CellRef) := cellReg c 0x200
def cellSteer (c : CellRef) (p : Nat) := cellReg c (0x208 + 8 * p)
def cellPull (c : CellRef) (k : Nat) := cellReg c (0x240 + 8 * k)
def sieveStat (c : CellRef) := cellReg c 0x308
def sieveHold (c : CellRef) := cellReg c 0x310
def mmuTroot (d t : Nat) := blkReg d .mem (0x10000 + 0x20 * t)
def mmuTver (d t : Nat) := blkReg d .mem (0x10008 + 0x20 * t)
def mmuTcmd (d t : Nat) := blkReg d .mem (0x10010 + 0x20 * t)
def mmuTstep (d t : Nat) := blkReg d .mem (0x10018 + 0x20 * t)
def mmuInvStat (d : Nat) := blkReg d .mem 0x0008
def mmuPoolLow (d : Nat) := blkReg d .mem 0x0020
def memFar (d : Nat) := blkReg d .mem 0x0040
def rakePos (d : Nat) := blkReg d .mem 0x0110
def rakeStat (d : Nat) := blkReg d .mem 0x0118
def syncInvStat (d : Nat) := blkReg d .sync 0x0008
def syncClrStat (d : Nat) := blkReg d .sync 0x0010
def syncStat (d : Nat) := blkReg d .sync 0x0018
def syncPval (core : Nat) := blkReg (core / 16) .sync (0x4008 + 0x40 * (core % 16))
def syncPtmo (core : Nat) := blkReg (core / 16) .sync (0x4010 + 0x40 * (core % 16))
def syncPres (core : Nat) := blkReg (core / 16) .sync (0x4018 + 0x40 * (core % 16))
def syncPrval (core : Nat) := blkReg (core / 16) .sync (0x4020 + 0x40 * (core % 16))
def syncTmap (d t : Nat) := blkReg d .sync (0x10000 + 8 * t)
def syncWown (d i : Nat) := blkReg d .sync (0x20000 + 8 * i)
def mbxData (d m : Nat) := blkReg d .mbx (0x10 * m)
def mbxCtl (d m : Nat) := blkReg d .mbx (0x10 * m + 8)
def mbxBell (d : Nat) := blkReg d .mbx 0x2008
def chnRing (d c : Nat) := blkReg d .chn (0x20 * c)
def chnPeer (d c : Nat) := blkReg d .chn (0x20 * c + 8)
def chnPos (d c : Nat) := blkReg d .chn (0x20 * c + 0x10)
def chnStat (d c : Nat) := blkReg d .chn (0x20 * c + 0x18)
def tblCtl (d t : Nat) := blkReg d .tbl (0x40 * t)
def tblState (d t : Nat) := blkReg d .tbl (0x40 * t + 0x08)
def tblRes (d t : Nat) := blkReg d .tbl (0x40 * t + 0x18)
def tblScan (d t : Nat) := blkReg d .tbl (0x40 * t + 0x20)
def meldSaddr (d : Nat) := blkReg d .meld 0x08
def meldStat (d : Nat) := blkReg d .meld 0x18
def dlrSeq (d : Nat) := blkReg d .dlr 0
def gulDev (d : Nat) := blkReg d .gul 0
def gulRsel (d : Nat) := blkReg d .gul 8
def gulTcfg (d : Nat) := blkReg d .gul 0x40
def gulTstat (d : Nat) := blkReg d .gul 0x48
def gulLstat (l : Nat) := blkReg (l / 16) .gul (0x100 + 0x20 * (l % 16))
def gulLcfg (l : Nat) := blkReg (l / 16) .gul (0x108 + 0x20 * (l % 16))
def gulLerr (l : Nat) := blkReg (l / 16) .gul (0x110 + 0x20 * (l % 16))
def gulQrva (core : Nat) := blkReg (core / 16) .gul (0x4008 + 0x40 * (core % 16))
def gulQlva (core : Nat) := blkReg (core / 16) .gul (0x4010 + 0x40 * (core % 16))
def gulQres (core : Nat) := blkReg (core / 16) .gul (0x4018 + 0x40 * (core % 16))
def gulRtab (d bank w : Nat) := blkReg d .gul (0x10000 + 0x10000 * bank + 8 * w)
def gulJmap0 (d t : Nat) := blkReg d .gul (0x30000 + 0x20 * t)
def gulJmap1 (d t : Nat) := blkReg d .gul (0x30008 + 0x20 * t)
def gulJcfg (d t : Nat) := blkReg d .gul (0x30010 + 0x20 * t)
def gulJstat (d t : Nat) := blkReg d .gul (0x30018 + 0x20 * t)
def ethPcfg (d : Nat) := blkReg d .eth 0
def ethPstat (d : Nat) := blkReg d .eth 8
def ethPcnt (d : Nat) := blkReg d .eth 0x10
def secLoad := blkReg 0 .sec 0
def secBbk := blkReg 0 .sec 8
def rstCause := blkReg 0 .rcp 0
def rstRes := blkReg 0 .rcp 0x10
def rstFence (d : Nat) := blkReg d .rcp 0x18
def clkStat (d : Nat) := blkReg d .rcp 0x100
def pwrCap := blkReg 0 .rcp 0x200
def pwrStat := blkReg 0 .rcp 0x208
def pwrEnergy := blkReg 0 .rcp 0x210
def pwrPmb := blkReg 0 .rcp 0x218
def telTemp (d : Nat) := blkReg d .rcp 0x300
def errCe (d : Nat) := blkReg d .err 0
def errUe (d : Nat) := blkReg d .err 8
def errUelog (d : Nat) := blkReg d .err 0x10
def errSum (d : Nat) := blkReg d .err 0x18
def errCepos (d : Nat) := blkReg d .err 0x20
def errCelog (d i : Nat) := blkReg d .err (0x100 + 8 * i)
def stwWdog (core : Nat) := blkReg (core / 16) .err (0x400 + 0x10 * (core % 16))
def pinFunc := blkReg 0 .pin 0
def pinAlert := blkReg 0 .pin 8
def pinOut := blkReg 0 .pin 0x10
def pinIn := blkReg 0 .pin 0x18
def pinStrap := blkReg 0 .pin 0x20
def pinTraceStat := blkReg 0 .pin 0x30
end R

end Sys2Proof.Machine
end

