-- ==== Sys2Proof/Machine/Slots.lean ====
section
/-! DEFINITION. The schedule word (R106) as the sequencer decodes it: one operation per slot with its guard (R107). A word
whose bits break R108 decodes to a `bad` operation that carries the decode fault. -/

namespace Sys2Proof.Machine

/-- The operations of the ALU sub field (R115). -/
inductive AluF where
  | add | sub | and | or | xor | shl | shr | sra | minS | maxS | minu | maxu | mul | mulhu | mulh
  deriving DecidableEq, Repr

/-- The I-format operations on a sign-extended immediate (R114). -/
inductive ImmF where
  | addi | andi | ori | xori
  deriving DecidableEq, Repr

/-- The immediate shifts (R114). -/
inductive ShF where
  | shl | shr | sra
  deriving DecidableEq, Repr

/-- The compare conditions (R115). -/
inductive CmpF where
  | eq | ne | lt | ge | ltu | geu
  deriving DecidableEq, Repr

/-- The predicate operations (R114). -/
inductive PlogF where
  | and | or | xor | andn
  deriving DecidableEq, Repr

/-- S-slot operations (R114). `bad` carries the code of a decode fault. Sizes of loads and stores are 2^lg bytes. -/
inductive SOp where
  | nop
  | alu (f : AluF) (rd ra rb : BitVec 5)
  | alui (f : ImmF) (rd ra : BitVec 5) (imm : BitVec 12)
  | shi (f : ShF) (rd ra : BitVec 5) (sh : BitVec 6)
  | movi (rd : BitVec 5) (imm : BitVec 17)
  | shori (rd : BitVec 5) (imm : BitVec 16)
  | cmp (f : CmpF) (pd : BitVec 3) (ra rb : BitVec 5)
  | cmpi (f : CmpF) (pd : BitVec 3) (ra : BitVec 5) (imm : BitVec 12)
  | plog (f : PlogF) (pd pa pb : BitVec 3)
  | ld (lg : BitVec 2) (rd ra : BitVec 5) (imm : BitVec 12)
  | st (lg : BitVec 2) (rs ra : BitVec 5) (imm : BitVec 12)
  | mfsr (rd sr : BitVec 5)
  | mtsr (sr ra : BitVec 5)
  | br (target : BitVec 12)
  | brr (ra : BitVec 5)
  | call (target : BitVec 12)
  | ret
  | lsetup (n : BitVec 2) (len : BitVec 8) (count : BitVec 12)
  | lsetupr (n : BitVec 2) (len : BitVec 8) (ra : BitVec 5)
  | assertP (p : BitVec 3)
  | endP
  | bad (code : BitVec 16)
  deriving DecidableEq, Repr

/-- M-slot operations (R147). `d` is the pot: false A0, true A1. -/
inductive MOp where
  | nop
  | mcfg (ra : BitVec 5)
  | mma (d : Bool) (ta tb : BitVec 4) (idx : BitVec 5) (inc : Bool) (st : BitVec 4)
  | mclr (d : Bool)
  | mout (d : Bool) (td fmt : BitVec 4) (idx : BitVec 5) (inc : Bool) (rm : BitVec 3)
  | moutRaw (d : Bool) (td : BitVec 4) (idx : BitVec 5) (inc : Bool)
  | mmrg (d : Bool) (ts : BitVec 4) (idx : BitVec 5) (inc : Bool)
  | bad (code : BitVec 16)
  deriving DecidableEq, Repr

/-- Two-operand arithmetic of the V slot (R168). -/
inductive VBin where
  | add | sub | mul | fma | div
  deriving DecidableEq, Repr

/-- Correctly rounded functions of one operand (R171). -/
inductive VUn where
  | sqrt | rsqrt | exp2
  deriving DecidableEq, Repr

/-- Compares that write a mask (R172). -/
inductive VCmp where
  | eq | lt | le | un
  deriving DecidableEq, Repr

/-- Bitwise operations and shifts of the V slot (R168). -/
inductive VLog where
  | and | or | xor | shl | shr | sra
  deriving DecidableEq, Repr

/-- The reduction ops (R180). -/
inductive RedF where
  | sum | max | min | argmax | argmin
  deriving DecidableEq, Repr

/-- V-slot operations (R168). -/
inductive VOp where
  | nop
  | bin (f : VBin) (vd va vb : BitVec 5) (sb : Bool) (ty : BitVec 2) (rm : BitVec 3)
  | minmax (isMax : Bool) (vd va vb : BitVec 5) (sb : Bool) (ty : BitVec 2)
  | un (f : VUn) (vd va : BitVec 5) (ty : BitVec 2) (rm : BitVec 3)
  | sgn (neg : Bool) (vd va : BitVec 5) (ty : BitVec 2)
  | cmp (f : VCmp) (vd va vb : BitVec 5) (sb : Bool) (ty : BitVec 2)
  | sel (vd va vb : BitVec 5) (sb : Bool) (ty : BitVec 2)
  | anyAll (all : Bool) (pd : BitVec 3) (va : BitVec 5)
  | logic (f : VLog) (vd va vb : BitVec 5) (sb : Bool)
  | bcast (vd va : BitVec 5) (ty : BitVec 2)
  | iota (vd va : BitVec 5)
  | ext (rd va vb : BitVec 5) (ty : BitVec 2)
  | rot (vd va vb : BitVec 5)
  | cfg (ra : BitVec 5)
  | cvt (vd va : BitVec 5) (ta td : BitVec 2) (h : Bool) (rm : BitVec 3)
  | unpk (vd sv idx : BitVec 5) (tile : BitVec 4) (h : Bool) (td : BitVec 2)
  | pack (va sv idx : BitVec 5) (tile : BitVec 4) (h : Bool) (ta : BitVec 2)
  | pot (withAdd zero : Bool) (vd va idx : BitVec 5) (d : Bool) (ty : BitVec 2) (rm : BitVec 3) (inc : Bool)
  | tred (f : RedF) (vd : BitVec 5) (tile : BitVec 4) (axis : Bool) (ty : BitVec 2) (rm : BitVec 3)
  | red (f : RedF) (rd va : BitVec 5) (ty : BitVec 2) (rm : BitVec 3)
  | rank (vd va vb : BitVec 5) (ty : BitVec 2)
  | getf (clr : Bool) (vd : BitVec 5)
  | bad (code : BitVec 16)
  deriving DecidableEq, Repr

/-- The variants of FELD, FEST and ROUND (R313). -/
inductive SyncV where
  | ldfe | ldff | ldxx | ldxe | stef | stxf | stxe | stff | rwait | rpass | rset
  deriving DecidableEq, Repr

/-- X-slot operations (R124, R265). Port numbers are N 0, E 1, S 2, W 3. In `sync`, `rd` is the destination of a
FELD and the stored register of a FEST. -/
inductive XOp where
  | nop
  | mov (dst src : BitVec 8) (idx : BitVec 5) (inc : Bool)
  | send (port : BitVec 2) (src : BitVec 8) (idx : BitVec 5) (inc : Bool)
  | recv (dst : BitVec 8) (port : BitVec 2) (idx : BitVec 5) (inc : Bool)
  | ctl (port : BitVec 2) (pa : BitVec 3) (unit : Bool)
  | sdesc (slot : BitVec 3) (ra : BitVec 5)
  | sstart (e : BitVec 2) (slot : BitVec 3)
  | sstop (e : BitVec 2)
  | swait (e : BitVec 2)
  | sync (v : SyncV) (rd ra rb : BitVec 5) (pd : BitVec 3)
  | chsend (ra rs rl : BitVec 5)
  | svcfg (ra : BitVec 5)
  | svclr (all : Bool) (rl : BitVec 5)
  | svflush (rl ra rf : BitVec 5) (f : Bool)
  | bad (code : BitVec 16)
  deriving DecidableEq, Repr

/-- A decoded schedule word: each slot's guard and operation. -/
structure HWord where
  sg : BitVec 4 := 0
  s : SOp := .nop
  mg : BitVec 4 := 0
  m : MOp := .nop
  vg : BitVec 4 := 0
  v : VOp := .nop
  xg : BitVec 4 := 0
  x : XOp := .nop
  deriving DecidableEq, Repr

end Sys2Proof.Machine
end

