-- ==== Sys2Proof/Machine/State.lean ====
section
/-! DEFINITION. The state of the VB9 as plain data: the cells and islands, memory, the mesh, the synchronisation units,
tables and jobs, links, host sessions, security, reset, pins and the queue of waiting commands. The registers of control
space stand in `State.regs` under their addresses; those that show structured state are views (Ops.lean). -/

namespace Sys2Proof.Machine

/-! ### Cells -/

/-- Sequencer run state (R142): idle, running, ended, faulted. A bubble is a flag beside it. -/
inductive Run where
  | idle | running | ended | faulted
  deriving DecidableEq, Repr

/-- An active loop (R119): its counter and its first and last body words. -/
structure Loop where
  n : Nat
  first : Nat
  last : Nat
  deriving DecidableEq, Repr

/-- A token (R216). The check bytes are those of the payload: a token whose check failed is never kept. -/
structure Token where
  payload : BitVec 256
  kind : Bool
  unit : Bool
  epoch : BitVec 2
  seat : BitVec 6
  deriving DecidableEq, Repr

/-- A token on an inside link into `port` (R127, R219), usable in one schedule cycle; `seen` when it has been forwarded
or buffered in that cycle, so that it is not lost. -/
structure Wire where
  port : Nat
  tok : Token
  usable : Nat
  seen : Bool
  deriving DecidableEq, Repr

/-- The raw pot entry of R161. -/
structure PotEntry where
  p : BitVec 96 := 0
  code : BitVec 16 := 0
  nan : Bool := false
  pinf : Bool := false
  ninf : Bool := false
  nv : Bool := false
  px : Bool := false
  po : Bool := false
  uf : Bool := false
  deriving DecidableEq, Repr

/-- Pot modes (R156, R164). -/
inductive PMode where
  | empty | int | fx | f32
  deriving DecidableEq, Repr

/-- What the engine tracks of a pot in issue order (R156): mode and pe. -/
structure PotState where
  mode : PMode := .empty
  pe : Int := 0
  deriving DecidableEq, Repr

/-- A write in flight (R110). Byte writes name their place's byte address. -/
inductive PW where
  | s (r : Nat) (v : Word)
  | p (r : Nat) (v : Bool)
  | lc (n : Nat) (v : BitVec 32)
  | seat (v : BitVec 6)
  | flagClr (v : BitVec 5)
  | lanesClr
  | flags (v : BitVec 5)
  | lanes (l : List (Nat × BitVec 5))
  | sram (a : Nat) (bs : List Byte) (seat : Option (BitVec 6))
  | tile (a : Nat) (bs : List Byte)
  | vreg (a : Nat) (bs : List Byte)
  | mcfg (v : Word)
  | vcfg (v : Word)
  | desc (slot : Nat) (bs : List Byte)
  | potTrack (d : Bool) (st : PotState)
  | potMode (d : Bool) (st : PotState)
  | potClear (d : Bool)
  | potZero (d : Bool) (rows : List Nat)
  | potAdd (d : Bool) (terms : List (Nat × PotEntry))
  | potF32 (d : Bool) (rm : Nat) (terms : List (Nat × List (Nat × Nat)))
  deriving DecidableEq, Repr

/-- A write and the schedule cycle in which it becomes visible (R110). -/
structure Pend where
  due : Nat
  w : PW
  deriving DecidableEq, Repr

/-- Stream engine states (R196, R212). -/
inductive EState where
  | idle | running | draining | stopping | halted
  deriving DecidableEq, Repr

/-- A beat of an engine's ring (R200, R201): its place in the walk, its bytes, and how many requests of it are still
unanswered. An outbound beat is pushed and `issued` when its writes have been sent. -/
structure Beat where
  idx : Nat
  bytes : List Byte
  need : Nat
  issued : Bool
  deriving DecidableEq, Repr

/-- A reply at the engine that has not landed yet (R201): the beat, the byte offset in it, the bytes. -/
structure Landing where
  idx : Nat
  off : Nat
  bytes : List Byte
  deriving DecidableEq, Repr

/-- A stream engine (R196, R200, R209). -/
structure Engine where
  state : EState := .idle
  prev : EState := .idle
  slot : Nat := 0
  dir : Bool := false
  fkind : Nat := 0
  beats : Nat := 0
  sfva : Nat := 0
  next : Nat := 0
  moved : Nat := 0
  ring : List Beat := []
  replies : List Landing := []
  dones : List Nat := []
  refused : Bool := false
  resume : Bool := false
  deriving DecidableEq, Repr

/-- The switch and merge units of an input port (R225, R228): buffers, the schedule cycle of the last firing, and an
output a unit holds until it can drive it (target port and token). -/
structure Steer where
  swCtl : List Token := []
  swDat : List Token := []
  mgCtl : List Token := []
  mgA : List Token := []
  mgB : List Token := []
  swLast : Option Nat := none
  mgLast : Option Nat := none
  swOut : Option (Nat × Token) := none
  mgOut : Option (Nat × Token) := none
  deriving DecidableEq, Repr

/-- A pending flush (R266): what is still to be written and where, the fill word's byte offset and value, and where the
image stands. -/
structure Flush where
  at_ : Nat
  left : List Byte
  word : Nat
  count : Nat
  start : Nat
  size : Nat
  deriving DecidableEq, Repr

/-- A beat of a write of several beats that waits for lane 1 of the sieve (R263): its offset and bytes, whether it is the
first of its write, and the table and epoch of a mesh write. -/
structure Intake where
  off : Nat
  bytes : List Byte
  head : Bool
  mesh : Option (Nat × BitVec 8)
  deriving DecidableEq, Repr

/-- The sieve (R257, R261, R263, R266). -/
structure Sieve where
  cfg : BitVec 37 := 0
  lists : SMap (List (BitVec 128)) := []
  flushes : List Flush := []
  intake : List Intake := []
  deriving DecidableEq, Repr

/-- The cell's sync port (R314): nothing asked, a request outstanding, or its answer (completed or timed out, value). -/
inductive SyncPort where
  | none
  | waiting (id : Nat)
  | answered (ok : Bool) (value : Word)
  deriving DecidableEq, Repr

/-- A cell. `pc` may equal the size of instruction memory (R118). `fe`, `fe1` and `fe2` are the three copies of the
full/empty bits (R256). `dampS` to `dampF` are what is left of its budgets in damper window `dampW` (R205). -/
structure Cell where
  s : SMap Word := []
  p : BitVec 8 := 0
  lc0 : BitVec 32 := 0
  lc1 : BitVec 32 := 0
  lc2 : BitVec 32 := 0
  loops : List Loop := []
  stack : List Nat := []
  pc : Nat := 0
  run : Run := .idle
  bubble : Bool := false
  last : Nat := 0
  held : Option HWord := none
  seat : BitVec 6 := 0
  pend : List Pend := []
  sync : SyncPort := .none
  imem : Bytes := []
  tile : Bytes := []
  vreg : Bytes := []
  desc : Bytes := []
  descOk : BitVec 8 := 0
  engines : SMap Engine := []
  pot0 : SMap PotEntry := []
  pot1 : SMap PotEntry := []
  ps0 : PotState := {}
  ps1 : PotState := {}
  pv0 : PotState := {}
  pv1 : PotState := {}
  mcfg : Word := 0
  vcfg : Word := 0
  flags : BitVec 5 := 0
  lanes : SMap (BitVec 5) := []
  sieve : Sieve := {}
  steer : SMap Steer := []
  wires : List Wire := []
  fe : SMap Bool := []
  dampS : Nat := 0xFFFF
  dampN : Nat := 0xFFFF
  dampF : Nat := 0xFFFF
  dampW : Option Nat := none
  fe1 : SMap Bool := []
  fe2 : SMap Bool := []
  deriving DecidableEq, Repr

/-! ### Islands, memory and the mesh -/

/-- What an island holds beside its registers: its table (R54), the hand epoch (R230), the schedule cycle (R110), the
output ports driven in this schedule cycle (R222), the FIFOs that have delivered in this island cycle (R223), damper
budgets left in window `dampW` (R205) and the engines whose beat the damper holds, with its class (R215), whether a
droop stretches the next cycle (R483), the fraction of a tick that stretching has added, in 64ths (R132), the clean_exit
flag of the current hand (R353), bytes in use of the channel port's buffer (R328), and when the last word issued, or the
island began to run (R370). -/
structure Isl where
  table : Nat := 0
  epoch : BitVec 2 := 0
  sched : Nat := 0
  drives : List (Nat × Nat) := []
  pops : List (Nat × Nat) := []
  dampS : Nat := 0xFFFF
  dampN : Nat := 0xFFFF
  dampF : Nat := 0xFFFF
  dampW : Option Nat := none
  dheld : List (Nat × Nat × Nat) := []
  droop : Bool := false
  stretch : Nat := 0
  cleanExit : Bool := false
  chbuf : Nat := 0
  issued : Word := 0
  deriving DecidableEq, Repr

/-- What a state scan saves of a cell beside the places that R357 lays out (R199, R257): engines with their walk positions,
active loops, the sieve's lists and pending flushes. `desc` and `regs` are the descriptor bytes and the registers of
the record it belongs to (log entry 14). -/
structure CellSave where
  desc : List Byte
  regs : List Word
  engines : SMap Engine
  loops : List Loop
  sieve : Sieve
  deriving DecidableEq, Repr

/-- Physical memory (R274): bytes by address, strictly rising, and how often a reset has left memory undefined
(R470); an unlisted byte reads 0 until then and is a free value afterwards (log entry 3). -/
structure Phys where
  cells : List Host.Cell := []
  cold : Nat := 0
  deriving DecidableEq, Repr

/-- Who asked for a memory access, carried as the tag of its packet (R242): a part of a beat of a stream engine, a
Gulras operation, or nobody who keeps the reply. -/
inductive Asker where
  | stream (gid e idx off : Nat)
  | gul (id : Nat)
  | copy (table : Nat)
  | none
  deriving DecidableEq, Repr

/-- An entry of a translation cache (R285): the agent whose cache holds it, the table, the 64 KiB page of the address, and the
page entry: its address, bits, level (large) and whether it is a multicast page. -/
structure Tlb where
  agent : Nat
  table : Nat
  page : Nat
  pa : Nat
  bits : Nat
  large : Bool
  mc : Bool
  deriving DecidableEq, Repr

/-- A translation that a sync port keeps (R310, R334): the port's agent, the table, the identifier, the entry. -/
structure SyncTlb where
  agent : Nat
  table : Nat
  id : Nat
  entry : Nat
  deriving DecidableEq, Repr

/-- A memory request at the memory that serves it, with the sender's table and command epoch (R242). -/
structure MemReq where
  write : Bool
  pa : Nat
  len : Nat
  data : List Byte
  src : Nat
  asker : Asker
  table : Nat
  cmd : BitVec 8
  deriving DecidableEq, Repr

/-- The operations of R242. -/
inductive MOpc where
  | read | readReply | write | writeAck | sync | syncReply | message | event | multicast
  deriving DecidableEq, Repr

/-- A mesh packet (R240 to R242). `at_` is the island whose router holds it, `port` the input port (R245): 0 to 3 from the
N, E, S and W neighbour, 4 from its agent, 5 while it waits at its agent; `cyc` is its latency account of R244; `tag` and
`syncId` name the request it belongs to. A multicast packet (R249) first travels to its `root`; `todo` are the ports still to
be served at the router of the tree that holds it (4: the local stop), and a copy at a local stop has `arrived`. -/
structure Packet where
  dst : Nat
  mc : Bool
  src : Nat
  op : MOpc
  len : Nat
  addr : Nat
  tag : Asker
  syncId : Nat
  cmd : BitVec 8
  table : Nat
  status : BitVec 16
  arg : Nat
  data : List Byte
  at_ : Nat
  cyc : Nat
  root : Option Nat := none
  arrived : Bool := false
  port : Nat := 4
  todo : Option (List Nat) := none
  deriving DecidableEq, Repr

/-! ### Synchronisation -/

/-- A window word (R309); its owner is SYNC_WOWN.owner. -/
structure Win where
  value : Word := 0
  full : Bool := false
  deriving DecidableEq, Repr

/-- Who sent a sync operation: a cell (its gid), a steward core of the package, the flush of a cell's sieve (R266), or
a unit that waits for no reply (the fill of R383). -/
inductive SyncWho where
  | cell (gid : Nat)
  | core (n : Nat)
  | sieve (gid : Nat)
  | filler
  deriving DecidableEq, Repr

/-- Where a sync request stands (R312 to R318, R322): on its way to its home; at its home; a waiter there; a timed
waiter that could be satisfied, for which the dealer has to rule; an arrival at a round held until it rules; an operation
whose effect stands and whose answer is held until it rules; a retry reply on its way; waiting to be sent again (R316); its
reply on its way; its reply at the requester's port. -/
inductive SyncStage where
  | travelling
  | atHome
  | parked
  | satisfiable
  | held
  | performed (value : Word)
  | retrying
  | retry
  | replying (status : BitVec 16) (value : Word)
  | replied (status : BitVec 16) (value : Word)
  deriving DecidableEq, Repr

/-- A sync request (R312). `early` marks a waiter of the next generation of its round (R321), `ruled` a timed waiter
whose satisfy event the dealer saw first, `expired` one whose timeout event has been sent (R317, R318); `since` is when a
retry reply came (R316). -/
structure SyncReq where
  id : Nat
  who : SyncWho
  v : SyncV
  home : Home
  value : Word
  timed : Bool
  deadline : Word
  table : Nat
  cmd : BitVec 8
  early : Bool
  ruled : Bool
  expired : Bool
  stage : SyncStage
  since : Word := 0
  deriving DecidableEq, Repr

/-- A message on its way through a channel engine (R325 to R328): its channel, the command it belongs to, its island
(for the buffer), its bytes, and how far it has come. -/
structure ChMsg where
  die : Nat
  ch : Nat
  who : SyncWho
  table : Nat
  cmd : BitVec 8
  bytes : List Byte
  placed : Bool
  slotEnd : BitVec 32
  committed : Bool
  deriving DecidableEq, Repr

/-! ### The machine -/

/-- A version copy in progress of a die (R288): the table, the address of the page-map entry, the record, old and new
frame addresses, whether it is a step version (the new frame becomes C, R291), and the writer's epoch. -/
structure VCopy where
  table : Nat
  entryPA : Nat
  recIdx : Nat
  old : Nat
  new : Nat
  step : Bool
  cmd : BitVec 8
  deriving DecidableEq, Repr

/-! ### Tables, jobs and commands (chapter 13) -/

/-- What a kill in progress will make of the command (R28, R29, R348): a rerun, a failure, a cancel, or the stop of its
job. -/
inductive KillTo where
  | rerun
  | fail (code : BitVec 16)
  | cancel
  | stop
  deriving DecidableEq, Repr

/-- A frame of an island image (R354) with its payload, as the check of R350 read it. -/
structure DFrame where
  cell : Nat
  target : Nat
  off : Nat
  bytes : List Byte
  deriving DecidableEq, Repr

/-- An island image that passed its check (R353): its flags and frames. -/
structure IslImg where
  isl : Nat
  clean : Bool
  short : Bool
  frames : List DFrame
  deriving DecidableEq, Repr

/-- The phases of a deal (R350): the wait for the old hand (`img` is TBL_REQ.img); checked, so that go may be given;
loading, with the images of the islands that still load. -/
inductive Deal where
  | none
  | wait (img : Nat)
  | go (imgs : List IslImg)
  | load (left : List IslImg)
  deriving DecidableEq, Repr

/-- What a table holds beside its registers: the job that owns it (its handle, 0 none), the deal and commit requests in
progress, an ordered kill, the code of the first fault event of the command, whether a hand has been dealt in the
command, whether the command runs after a scan-in, the scan in progress (true: in), whether the sweep in progress is a
drop, whether the commit under sweep armed the step copy, the start of the current run, the children of R388 that sent
READY and DONE, whether PREPARE has come, when this rank became prepared, the page that the copy engine is sending, and the pages of the
armed step. `ue` is set by an uncorrectable-error event of the table (R360); `num`, `seqs` and `sizes` are the running
command's number, the sequences it advances and the output sizes its program declared (R547); `skip` says that the lead
has cleared step_end (R506), `again` that the command was killed and waits for its rerun,
`colls` counts the collectives that the command has issued here (R384). -/
structure Tbl where
  job : Nat := 0
  deal : Deal := .none
  commit : Option Bool := none
  kill : Option KillTo := none
  failed : Option (BitVec 16) := none
  dealt : Bool := false
  scanned : Bool := false
  scan : Option Bool := none
  dropping : Bool := false
  armNow : Bool := false
  since : Word := 0
  ready : List Nat := []
  done : List Nat := []
  prep : Bool := false
  prepAt : Word := 0
  copyPage : Option Nat := none
  stepCount : Nat := 0
  ue : Bool := false
  num : Nat := 0
  seqs : List Nat := []
  sizes : List (Option Nat) := []
  skip : Bool := false
  again : Bool := false
  colls : Nat := 0
  deriving DecidableEq, Repr

/-- A command's place in its life (R29, R346): queued, running, killed and waiting for its rerun, or ended with a
status. -/
inductive CmdSt where
  | queued
  | running
  | killed
  | ended (status : BitVec 16)
  deriving DecidableEq, Repr

/-- A command of a job (R420, R421). `used` is the run time counted towards its limit, `sent` and `acked` follow its
completion, `sizes` are the output sizes that its program declared (R547). -/
structure Cmd where
  num : Nat
  req : CmdReq
  st : CmdSt := .queued
  reruns : Nat := 0
  used : Nat := 0
  accepted : Word := 0
  committed : Word := 0
  sent : Bool := false
  acked : Bool := false
  sizes : List (Option Nat) := []
  deriving DecidableEq, Repr

/-- A job (R339 to R345, R416, R419, R451, R505 to R509). `nw` is the north-west island of its placement, none while
parked; `want` that of a placement reserved for it while plain jobs leave; `short` holds a bit for each table row declared short; `reply` is a JOB_ADMIT or JOB_END whose RESULT is still
due (session and seq). `stopped` holds the cause of a stop, `damaged` the frames found bad, `restarting` marks a restart
under way, `lastCommit` and `lastStep` name the last commit and the last sealed step, `stepCounts` the progress counts
of that step, `armed` and `armedCounts` the same of the step armed last, `point` the restart point chosen, `maps` the map
registers of its table, `image` is the program image. -/
structure Job where
  handle : Nat
  key : Word
  session : Option Nat
  detachedAt : Word := 0
  linger : Nat := 0
  table : Nat
  trump : Bool
  rows : Nat
  cols : Nat
  short : Nat
  nw : Option Nat
  want : Option Nat := none
  evict : Bool := false
  grant : Nat
  mult : Nat := 1
  kills : Nat := 0
  overrun : Nat := 0
  graceFrom : Option Word := none
  dsize : Nat
  seats : List Nat
  seqs : List (Nat × Nat) := []
  digest : Word
  jid : BitVec 32
  rank : Nat
  nranks : Nat
  lead : BitVec 16
  partner : BitVec 16
  cmds : List Cmd := []
  next : Nat := 1
  reply : Option (Nat × BitVec 32 × Bool) := none
  ending : Bool := false
  stopped : Option (BitVec 16) := none
  damaged : List Nat := []
  restarting : Bool := false
  lastCommit : Nat := 0
  lastStep : Nat := 0
  stepCounts : List (Nat × Word) := []
  armed : Nat := 0
  armedCounts : List (Nat × Word) := []
  point : RestartPoint := .none
  maps : TblMaps := {}
  image : List Byte
  deriving DecidableEq, Repr

/-- The meld of a die (R361, R366): the table it acts for, the staged entries in the order of their indices, and what its
last check saw of all that makes it dirty when it changes (R365). Its state, code and counts stand in MELD_STAT. -/
structure Meld where
  table : Nat
  entries : List (Nat × Word) := []
  snap : List Word := []
  deriving DecidableEq, Repr

/-- The three copies of RAKE_CFG and RAKE_RATE (R301) and the next block of each class (R299): an index into the walk of
the die's SRAM, vaults and far channels. -/
structure Rake where
  cfg0 : Word := 1
  cfg1 : Word := 1
  cfg2 : Word := 1
  rate0 : Word := 0x010001000040
  rate1 : Word := 0x010001000040
  rate2 : Word := 0x010001000040
  sram : Nat := 0
  near : Nat := 0
  far : Nat := 0
  deriving DecidableEq, Repr

/-! ### Gulras links (chapter 14) -/

/-- A packet of a Gulras link (R375, R377). `die` is the die whose engine put it on its link (R379); it is no part of the
packet. -/
structure GPkt where
  ddev : BitVec 16
  sdev : BitVec 16
  dagent : Nat := 0
  op : Nat
  hops : Nat := 0
  cls : Nat
  job : BitVec 32
  cnum : BitVec 32
  addr : Nat := 0
  tag : Nat := 0
  status : BitVec 16 := 0
  arg : BitVec 32 := 0
  len : Nat := 0
  data : List Byte := []
  die : Nat := 0
  deriving DecidableEq, Repr

/-- A numbered frame in the replay buffer (R374), with how often it has been resent, and the jobs and destinations of the
packets whose slots it carries. -/
structure GFrame where
  fseq : Nat
  bits : BitVec 5140
  resent : Nat := 0
  jobs : List (BitVec 32)
  dests : List (BitVec 16)
  deriving DecidableEq, Repr

/-- A link direction pair (R373 to R375): next number to send, replay buffer, next number expected, whether a nak is
due, the packet under assembly of each class, packets received and not yet routed, packets waiting to be framed, slot
credits left of each class, credits to return to the peer, the class served last, when the last acknowledgement came, the packets whose slots are
partly sent (class, packet, slots left), and the class 3 slots of the last frames that other classes also wanted. -/
structure GLink where
  tx : Nat := 0
  replay : List GFrame := []
  rx : Nat := 0
  nak : Bool := false
  part : SMap GPkt := []
  rxq : List GPkt := []
  txq : List GPkt := []
  c0 : Nat := 64
  c1 : Nat := 64
  c2 : Nat := 64
  c3 : Nat := 64
  b0 : Nat := 0
  b1 : Nat := 0
  b2 : Nat := 0
  b3 : Nat := 0
  served : Nat := 3
  heard : Word := 0
  cur : List (Nat × GPkt × List (Nat × Nat)) := []
  bulks : List Nat := []
  deriving DecidableEq, Repr

/-- A packet delivered to this device's Gulras engine: the die whose engine has it, and, once admitted under R380, the
local table and command epoch. -/
structure GIn where
  pkt : GPkt
  die : Nat
  link : Nat
  admitted : Option (Nat × BitVec 8) := none
  deriving DecidableEq, Repr

/-- A request packet of a core's remote-request port (R383): unanswered, or to be repeated after E_LINK_RETRY (R380).
`link` is the link whose reply credits it holds (R375). `core` 32 + t stands for the restart of the job of table t, which reads its kitty (R508). -/
structure GReq where
  core : Nat
  pkt : GPkt
  lva : Nat
  retry : Bool := false
  link : Option Nat := none
  deriving DecidableEq, Repr

/-- The request of a remote-request port (R383, R384): the collective number when it issues a collective. -/
structure GOp where
  table : Nat
  fill : Bool
  sid : BitVec 16
  status : BitVec 16 := 0
  flags : BitVec 5 := 0
  coll : Option Nat := none
  cmd : BitVec 8
  deriving DecidableEq, Repr

/-- A collective on this rank (R384 to R387): its job, the number of its command, its descriptor, units that have come from children (rank, unit, bytes),
units combined here, and units of the result that are in place. -/
structure Coll where
  table : Nat
  seq : Nat
  core : Nat
  job : Nat
  num : Nat
  desc : List Byte
  got : List (Nat × Nat × List Byte) := []
  sent : List Nat := []
  placed : List Nat := []
  deriving DecidableEq, Repr

/-- A page of a kitty map (R391): its job-space address and its two frames. -/
structure KPage where
  va : Nat
  f0 : Nat
  f1 : Nat
  deriving DecidableEq, Repr

/-- A kitty held for a rank of a job (R391 to R393): the rank's device, its pages, the puts received of each parity
(page address and put number), the sealed parity, and whether it is marked lost (R504). -/
structure Kitty where
  job : BitVec 32
  src : BitVec 16
  pages : List KPage
  got0 : List (Nat × Nat) := []
  got1 : List (Nat × Nat) := []
  isSealed : Option Bool := none
  lost : Bool := false
  deriving DecidableEq, Repr

/-! ### Hosts (chapter 15) -/

/-- Requests that the sequence rules of R410 order within a session, as their messages carry them: `load` a load message
in a session (R434), `bad` one of a reserved type or a wrong direction (R412), `malformed` one that breaks its layout (R409). -/
inductive HReq where
  | close (detach : Bool)
  | keepalive
  | netConfig (port kind index plen : BitVec 8) (addr : BitVec 128) (remove : Bool)
  | mbxWrite (die : BitVec 8) (value : Word)
  | windowGrant (job va len : Nat) (rd wr : Bool) (wmode : BitVec 8)
  | windowRevoke (window : Nat)
  | qpCreate (hqpn hpsn : BitVec 32) (gid : BitVec 128) (pmtu : BitVec 8)
  | qpDestroy (qpn : BitVec 32)
  | jobAdmit (req : AdmitReq) (choice : Nat) (maps : TblMaps)
  | jobEnd (job : Nat)
  | jobAttach (job : Nat) (key : Word)
  | cmdSubmit (req : CmdReq)
  | cmdCancel (job : Nat) (tag : Word)
  | identity
  | attest (nonce : BitVec 256)
  | keystorePut (slot : Nat) (erase : Bool) (iv : BitVec 96) (wrapped : BitVec 256) (tag : BitVec 128)
  | load
  | bad
  | malformed
  deriving DecidableEq, Repr

/-- A message of the device to a host (R409, R412): its type and payload. -/
structure DMsg where
  typ : Nat
  payload : List Byte
  deriving DecidableEq, Repr

/-- A device message that waits for its acknowledgement (R410): how often it was resent, and when it was sent last. -/
structure Unacked where
  seq : BitVec 32
  msg : DMsg
  resends : Nat := 0
  sent : Word := 0
  deriving DecidableEq, Repr

/-- A message under reassembly (R409, R411): the datagrams that have come and when the first did. -/
structure Part where
  seq : BitVec 32
  frags : List Nat
  since : Word
  deriving DecidableEq, Repr

/-- A host session (R409 to R415). `expect` is the next seq from the host, `early` holds accepted messages beyond it,
`results` the RESULTs of the last 64 requests with their own numbers, `wait` device messages beyond 64 unacknowledged ones, `closing` the seq
of a SESSION_CLOSE whose RESULT is due. -/
structure Sess where
  cookie : Word
  port : BitVec 1
  src : BitVec 128
  udp : BitVec 16
  nonce : Word
  mgmt : Bool
  keep : Nat
  linger : Nat
  rto : Nat
  expect : BitVec 32
  early : List (BitVec 32 × HReq) := []
  next : BitVec 32 := 0
  unacked : List Unacked := []
  wait : List DMsg := []
  results : List (BitVec 32 × BitVec 32 × DMsg) := []
  parts : List Part := []
  ackDue : Bool := false
  heard : Word
  closing : Option (BitVec 32) := none
  opened : DMsg
  deriving DecidableEq, Repr

/-- A memory window (R424). A staging window (job 0) holds its own bytes. -/
structure Wndw where
  num : Nat
  session : Nat
  job : Nat
  va : Nat
  len : Nat
  rd : Bool
  wr : Bool
  wmode : Nat
  rkey : BitVec 32
  data : Bytes := []
  deriving DecidableEq, Repr

/-- A queue pair (R408, R423). The rate is in Mb/s. -/
structure Qp where
  num : BitVec 32
  session : Nat
  port : BitVec 1
  hqpn : BitVec 32
  hpsn : BitVec 32
  psn : BitVec 32
  gid : BitVec 128
  pmtu : Nat
  error : Bool := false
  rate : Nat
  lastCnp : Option Word := none
  deriving DecidableEq, Repr

/-! ### Load, security, reset, pins (chapters 16 to 19) -/

/-- A load under way (R435 to R439): where it is bound, its offer, the next offset, chunks (or LOAD_END: none) accepted
ahead of their turn, and the LOAD_END that waits. -/
structure Load where
  port : BitVec 1
  src : BitVec 128
  udp : BitVec 16
  nonce : Word
  cookie : Word
  len : Nat
  start : Word
  deadline : Word
  next : Nat := 0
  expect : BitVec 32 := 0
  early : List (BitVec 32 × Option (Nat × List Byte)) := []
  results : List (BitVec 32 × DMsg) := []
  offer : DMsg
  endSeq : Option (BitVec 32) := none
  deriving DecidableEq, Repr

/-- The security block: the load in progress, the measurements of the last load (manifest and three components, R462),
their interface versions, whether the main stage is held in memory, the battery-backed store (R456), whether kindling
has entered since the last Cold or Power-on reset, and the last ATTEST answered outside a session (R435). -/
structure Sec where
  load : Option Load := none
  meas : List (BitVec 384) := []
  ifaces : List (BitVec 32) := []
  marker : BitVec 32 := 0
  keys : List (Option (BitVec 256)) := [none, none, none, none]
  entered : Bool := false
  attested : Option (BitVec 128 × BitVec 16 × BitVec 256 × Word × DMsg) := none
  deriving DecidableEq, Repr

/-- A reset episode (R474, R475): its level, the sources asserted now and at any time in it, when its minimum started,
whether the minimum has passed, whether RESET_N has read high after it, whether it was escalated (R472). -/
structure Episode where
  level : Level
  held : List RstSource
  seen : List RstSource
  since : Word
  minOver : Bool := false
  high : Bool := false
  escalated : Bool := false
  deriving DecidableEq, Repr

/-- A Block episode of an island (kind false) or a steward core (R471, R475). -/
structure BlockEp where
  kind : Bool
  die : Nat
  index : Nat
  held : List RstSource
  seen : List RstSource
  since : Word
  minOver : Bool := false
  deriving DecidableEq, Repr

/-- An address that a port holds beside its link-local one (R406): index 0 to 3 of kind IPv6, or IPv4. -/
structure NetAddr where
  port : Nat
  v6 : Bool
  index : Nat
  plen : Nat
  addr : BitVec 128
  deriving DecidableEq, Repr

/-- Events that a dealer passes to firmware (R358). -/
inductive DEvent where
  | fault (isl : Nat) (code : BitVec 16)
  | translation (isl c e va : Nat)
  | stream (isl c e : Nat) (code : BitVec 16)
  | pool (cls : Bool)
  | syncFail (gid : Nat) (code : BitVec 16)
  | uncorrectable (cls : Nat) (pa table : Nat)
  | mailbox (m : Nat)
  | doorbell (b : Nat)
  deriving DecidableEq, Repr

/-- What an RDMA responder answers (R423, R425). -/
inductive RdmaAns where
  | ack
  | data (bs : List Byte)
  | nakAccess
  | nakError
  | rnr (timer : Nat)
  deriving DecidableEq, Repr

/-- What the block sends to the outside, oldest first: the MBXE interrupt and the watchdog interrupt of a core, reports
to firmware, host protocol messages (session, cookie, seq and ack as in R409), an answer of a session that does not
exist, link frames, RDMA answers and congestion notifications, answers of the network ports, announcements, bytes of the SMBus target, values and states that JTAG shows, thermal alerts, trace nibbles, time
exchanges, VOUT_COMMAND of a regulator's PMBus address with a setpoint in mV; to a rank of a job commit messages (kind of R388, the code of a failure behind an ABORT, the lead's ruling of
R506 on step_end), command starts, collective units, stop notices, reports of a sealed step, restart points and reports
of a restart done. -/
inductive Out where
  | mbxe (core : Nat)
  | nmi (core : Nat)
  | report (code : BitVec 16) (arg : Nat)
  | host (session : Nat) (seq ack : BitVec 32) (m : DMsg)
  | hostless (port : BitVec 1) (src : BitVec 128) (udp : BitVec 16) (seq : BitVec 32) (m : DMsg)
  | frame (link : Nat) (bits : BitVec 5140)
  | rdma (qpn : BitVec 32) (a : RdmaAns)
  | cnp (qpn : BitVec 32)
  | arp (port : BitVec 1) (addr : BitVec 32) (to_ : BitVec 32) (mac : BitVec 48)
  | advert (port : BitVec 1) (addr to_ : BitVec 128) (mac : BitVec 48)
  | echo (port : BitVec 1) (v6 : Bool) (src dst : BitVec 128) (payload : List Byte)
  | announce (port : BitVec 1) (payload : List Byte)
  | smbus (bs : List Byte)
  | jtag (value : Word)
  | boundary
  | haltCore (core : Nat)
  | alert (die : Nat)
  | trace (nibbles : List (BitVec 4))
  | time (link : Nat)
  | pmbus (addr mv : Nat)
  | commit (job cnum : BitVec 32) (kind rank : Nat) (status : BitVec 16) (skip : Bool)
  | start (job : BitVec 32) (m : StartMsg) (rank : Nat)
  | unit (job cnum : BitVec 32) (seq u rank : Nat) (digest : BitVec 16) (data : List Byte)
  | stopNotice (job : BitVec 32) (cause : BitVec 16) (rank : Nat)
  | stepSealed (job : BitVec 32) (step rank : Nat)
  | restart (job : BitVec 32) (point : RestartPoint) (rank : Nat)
  | restarted (job : BitVec 32) (rank : Nat)
  deriving DecidableEq, Repr

/-- The fuses (R453), the grades and defects of both dies among them. -/
structure Fuses where
  grade0 : Bool := false
  grade1 : Bool := false
  defects0 : BitVec 36 := 0
  defects1 : BitVec 36 := 0
  uds : BitVec 256 := 0
  imgkey : BitVec 256 := 0
  serial : Word := 0
  mac : BitVec 48 := 0
  stepping0 : BitVec 6 := 0
  stepping1 : BitVec 6 := 0
  keyhash : List (BitVec 384 × BitVec 384) := [(0, 0), (0, 0), (0, 0), (0, 0)]
  keyprog : BitVec 4 := 0
  keyrev : BitVec 4 := 0
  svn : BitVec 64 := 0
  epoch : BitVec 64 := 0
  mgmtPort : BitVec 2 := 2
  dbg : BitVec 2 := 0
  rwin : BitVec 2 := 0
  keystoreEn : Bool := false
  rstTable : BitVec 16 := 0x256B
  deriving DecidableEq, Repr

/-- The machine. `free` counts the free values drawn (log entry 9); it is the model's own field. `tlb` are the translation
caches and `invs` the invalidations that have not reached them: die, table, page or all (R285, R304); `slb` and `sinvs` are the same of the sync ports (R334). `pets` is when the period of a
steward core's watchdog began (R511). `vset0` and `vset1` are the setpoints of VDD_CORE0 and VDD_CORE1 in mV (R522, R523). -/
structure State where
  pending : List Instr := []
  free : Nat := 0
  gtime : Word := 0
  fuses : Fuses := {}
  regs : SMap Word := []
  mem : Phys := {}
  bad : SMap Upset := []
  cells : SMap Cell := []
  isls : SMap Isl := []
  fifos : SMap (List Token) := []
  flight : SMap (List Token) := []
  memq : SMap (List MemReq) := []
  mesh : List Packet := []
  wins : SMap Win := []
  syncs : List SyncReq := []
  syncNext : Nat := 0
  chmsgs : List ChMsg := []
  rtails : SMap (BitVec 32) := []
  pools : SMap (List Nat) := []
  vcopy : SMap VCopy := []
  vpages : SMap Nat := []
  events : List (Nat × DEvent) := []
  out : List Out := []
  tbls : SMap Tbl := []
  jobs : List Job := []
  jobNext : Nat := 1
  ended : List Nat := []
  progress : SMap Word := []
  melds : SMap Meld := []
  rakes : SMap Rake := []
  glinks : SMap GLink := []
  gin : List GIn := []
  greqs : List GReq := []
  gops : List (Nat × GOp) := []
  gtag : Nat := 0
  colls : List Coll := []
  kitties : List Kitty := []
  holds : List (Nat × Nat) := []
  slew : Int := 0
  slewPhase : Nat := 0
  locks : Nat := 0
  sess : List (Nat × Sess) := []
  wndws : List Wndw := []
  wndwNext : Nat := 1
  qps : List Qp := []
  qpNext : Nat := 1
  nets : List NetAddr := []
  paused : List (Nat × Nat) := []
  sec : Sec := {}
  episode : Option Episode := none
  blocks : List BlockEp := []
  drains : List (Nat × RstSource) := []
  capStreak : Nat := 0
  capLast : Option Word := none
  energyUj : Nat := 0
  throttleLow : Bool := false
  vset0 : Nat := 750
  vset1 : Nat := 750
  trace : List Word := []
  alertAck : List Nat := []
  pets : SMap Word := []
  mbxStale : List Nat := []
  retired : List Nat := []
  scans : SMap CellSave := []
  tlb : List Tlb := []
  invs : List (Nat × Nat × Option Nat) := []
  slb : List SyncTlb := []
  sinvs : List (Nat × Nat × Option Nat) := []
  deriving DecidableEq, Repr

/-- Faults of the model. No command of the VB9 stops the block: a program fault (R136) is a next state. Raised by
nobody. -/
inductive Fault where
  /-- Kept so that the type is not empty; no meaning answers with it (safe). -/
  | none
  deriving DecidableEq, Repr

/-- Refusals of the model. -/
inductive Refusal where
  /-- Raised by an arm of `exec` whose command has no meaning yet; names its row (safe: the run stops). -/
  | notModelled (mnemonic : String)
  deriving DecidableEq, Repr

/-- The machine right after the Power-on episode (R470, R477): RST_CAUSE shows its one episode, both references are
present (log entry 8), and kindling has not entered yet. -/
def State.reset : State := { regs := [(R.rstCause, 0x100000301), (R.clkStat 0, 0xE), (R.clkStat 1, 0xE)] }

end Sys2Proof.Machine
end

