-- ==== Sys2Proof/Machine/Ops.lean ====
section
/-! DEFINITION. The named operations over the state: which cells exist, cells, islands, registers of control space,
physical memory with its code, events of the dealers, program faults. -/

namespace Sys2Proof.Machine

open Sys2Proof

/-! ### Geometry (R3, R10, R47, R49, R50, R275) -/

/-- A cell's key: 16 × island + c. -/
def gid (k : CellRef) : Nat := 16 * k.isl + k.c
def ofGid (g : Nat) : CellRef := ⟨g / 16, g % 16⟩

/-- A memory cell sits where row plus column is odd (R10, R47). -/
def isMemCell (k : CellRef) : Bool := (k.c / 4 + k.c % 4) % 2 == 1

/-- Grade VB9-1440 of a die (R2). -/
def State.grade1440 (s : State) (die : Nat) : Bool := if die = 0 then s.fuses.grade0 else s.fuses.grade1

/-- A short island (R3, R50). -/
def State.short (s : State) (isl : Nat) : Bool := s.grade1440 (islDie isl) && decide (islRow isl = 7)

/-- The cells of an island: 16, or 8 on a short island (R3). -/
def State.cellCount (s : State) (isl : Nat) : Nat := if s.short isl then 8 else 16

/-- Whether a cell exists on this part. -/
def State.cellExists (s : State) (k : CellRef) : Bool := decide (k.isl < 192) && decide (k.c < s.cellCount k.isl)

/-- Words of instruction memory (04's table). -/
def imemWords (k : CellRef) : Nat := if isMemCell k then 1024 else 4096

/-- Bytes of local SRAM (R116). -/
def sramSize (k : CellRef) : Nat := if isMemCell k then 0x100000 else 0x40000

/-- The physical address of a cell's SRAM slot (R275). -/
def sramBase (k : CellRef) : Nat := 0x020000000000 + 0x01000000 * k.isl + 0x00100000 * k.c

def vaultBase (isl : Nat) : Nat := 0x40000000 * isl

/-! ### Cells and islands -/

def Cell.dflt : Nat → Cell := fun _ => {}
def State.cell (s : State) (k : CellRef) : Cell := SMap.get Cell.dflt s.cells (gid k)
def State.setCell (s : State) (k : CellRef) (c : Cell) : State :=
  { s with cells := SMap.set Cell.dflt s.cells (gid k) c }
def State.updCell (s : State) (k : CellRef) (f : Cell → Cell) : State := s.setCell k (f (s.cell k))

def Isl.dflt : Nat → Isl := fun _ => {}
def State.isl (s : State) (i : Nat) : Isl := SMap.get Isl.dflt s.isls i
def State.setIsl (s : State) (i : Nat) (x : Isl) : State := { s with isls := SMap.set Isl.dflt s.isls i x }
def State.updIsl (s : State) (i : Nat) (f : Isl → Isl) : State := s.setIsl i (f (s.isl i))

/-- S registers (R103): S0 reads 0 and discards writes. -/
def Cell.rs (c : Cell) (r : BitVec 5) : Word := if r = 0 then 0 else SMap.get (fun _ => 0) c.s r.toNat
def Cell.ws (c : Cell) (r : Nat) (v : Word) : Cell := if r = 0 then c else { c with s := SMap.set (fun _ => 0) c.s r v }

/-- P registers (R103): P0 reads 1 and discards writes. -/
def Cell.rp (c : Cell) (r : BitVec 3) : Bool := if r = 0 then true else c.p.getLsbD r.toNat
def Cell.wp (c : Cell) (r : Nat) (v : Bool) : Cell :=
  if r = 0 then c
  else { c with p := if v then c.p ||| (1#8 <<< r) else c.p &&& ~~~(1#8 <<< r) }

/-- Loop counters (R103). -/
def Cell.rlc (c : Cell) (n : Nat) : BitVec 32 := if n = 0 then c.lc0 else if n = 1 then c.lc1 else c.lc2
def Cell.wlc (c : Cell) (n : Nat) (v : BitVec 32) : Cell :=
  if n = 0 then { c with lc0 := v } else if n = 1 then { c with lc1 := v } else { c with lc2 := v }

/-- The guard of R107: P[p] XOR neg. -/
def Cell.guard (c : Cell) (g : BitVec 4) : Bool := xor (c.rp (g.setWidth 3)) (g.getLsbD 3)

def Engine.dflt : Nat → Engine := fun _ => {}
def Cell.eng (c : Cell) (e : Nat) : Engine := SMap.get Engine.dflt c.engines e
def Cell.setEng (c : Cell) (e : Nat) (x : Engine) : Cell := { c with engines := SMap.set Engine.dflt c.engines e x }

def Steer.dflt : Nat → Steer := fun _ => {}
def Cell.str (c : Cell) (p : Nat) : Steer := SMap.get Steer.dflt c.steer p
def Cell.setStr (c : Cell) (p : Nat) (x : Steer) : Cell := { c with steer := SMap.set Steer.dflt c.steer p x }

/-- The cells of an island. -/
def State.islCells (s : State) (i : Nat) : List CellRef := (List.range (s.cellCount i)).map (fun c => ⟨i, c⟩)

/-! ### Control-space registers -/

/-- A register as stored; a register that shows structured state is read through `State.readReg` (RegView.lean). -/
def State.reg (s : State) (a : Nat) : Word := SMap.get resetValue s.regs a
def State.setReg (s : State) (a : Nat) (v : Word) : State := { s with regs := SMap.set resetValue s.regs a v }
def State.fld (s : State) (a hi lo : Nat) : Nat := field hi lo (s.reg a)
def State.setFld (s : State) (a hi lo v : Nat) : State := s.setReg a (putField hi lo v (s.reg a))
/-- Add to a field, wrapping at its width. -/
def State.incFld (s : State) (a hi lo n : Nat) : State := s.setFld a hi lo (s.fld a hi lo + n)
/-- Add to a field that saturates. -/
def State.satFld (s : State) (a hi lo n : Nat) : State := s.setFld a hi lo (satAdd (hi - lo + 1) (s.fld a hi lo) n)

/-! ### Dealer events -/

/-- A dealer orders a control event (R358, R371). -/
def State.dealerSees (s : State) (die : Nat) : State := s.incFld (R.dlrSeq die) 47 0 1

/-- The die of a table's home dealer (R359, R369); firmware's own islands signal to the dealer of their die. -/
def State.homeDie (s : State) (t isl : Nat) : Nat := if t = 0 then islDie isl else s.fld (R.tblCtl 0 t) 2 2

/-! ### Tables -/

def Tbl.dflt : Nat → Tbl := fun _ => {}
def State.tbl (s : State) (t : Nat) : Tbl := SMap.get Tbl.dflt s.tbls t
def State.setTbl (s : State) (t : Nat) (x : Tbl) : State := { s with tbls := SMap.set Tbl.dflt s.tbls t x }
def State.updTbl (s : State) (t : Nat) (f : Tbl → Tbl) : State := s.setTbl t (f (s.tbl t))

/-- The table and the code of an event that fails a running command (R29, R360). -/
def State.failOf (s : State) : DEvent → Option (Nat × Code)
  | .fault i c => some ((s.isl i).table, c)
  | .stream i _ _ c => some ((s.isl i).table, c)
  | .syncFail g c => some ((s.isl (ofGid g).isl).table, c)
  | _ => none

/-- The first such event of a command decides the code it fails with; an uncorrectable error of a table is noted for its
next commit start (R360). -/
def State.noteFail (s : State) (e : DEvent) : State :=
  match s.failOf e, e with
  | some (t, c), _ => if t = 0 then s else s.updTbl t (fun x => { x with failed := x.failed <|> some c })
  | none, .uncorrectable _ _ t => if t = 0 then s else s.updTbl t (fun x => { x with ue := true })
  | none, _ => s

/-- A dealer sees an event: it takes the next sequence number (R358, R371) and firmware gets the event. -/
def State.raise (s : State) (die : Nat) (e : DEvent) : State :=
  let s1 := (s.dealerSees die).noteFail e
  { s1 with events := s1.events ++ [(die, e)] }

/-- A report to firmware of a status code (R479, R487, R281). -/
def State.report (s : State) (code : Code) (arg : Nat) : State := { s with out := s.out ++ [.report code arg] }

/-! ### Physical memory (R274) -/

/-- What an unlisted byte reads as (log entry 3). -/
def Phys.dflt (m : Phys) (a : Nat) : Byte := if m.cold = 0 then 0 else Config.coldByte m.cold a

def Phys.rd (m : Phys) (a : Nat) : Byte := SMap.get m.dflt m.cells a
def Phys.wr (m : Phys) (a : Nat) (v : Byte) : Phys := { m with cells := SMap.set m.dflt m.cells a v }

/-- The canonical form: addresses strictly rising, no entry equal to what an unlisted address reads as. -/
def Memory.wf (m : Phys) : Bool := SMap.wf m.dflt m.cells

/-- Write consecutive bytes, lowest first. -/
def Phys.writeN (m : Phys) (a : Nat) (bs : List Byte) : Phys :=
  match bs with
  | [] => m
  | b :: t => Phys.writeN (m.wr a b) (a + 1) t

def State.rd (s : State) (a : Nat) : Byte := s.mem.rd a
def State.rdN (s : State) (a n : Nat) : List Byte := readBytes s.mem.rd a n
def State.rdLE (s : State) (a n : Nat) : Nat := leNat (s.rdN a n)
/-- A write of bytes. A block that is written whole gets check bytes of its own, so it holds no upset any more (R295). -/
def State.wrN (s : State) (a : Nat) (bs : List Byte) : State :=
  { s with
    mem := s.mem.writeN a bs
    bad := SMap.keep (fun b => !(decide (a ≤ b) && decide (b + 32 ≤ a + bs.length))) s.bad }

/-- The installed far DRAM: channels per die in use and bytes per channel (R280, R306). -/
def State.farN (s : State) : Nat := s.fld (R.memFar 0) 4 0
def State.farDensity (s : State) : Nat := 0x200000000 * 2 ^ s.fld (R.memFar 0) 6 5
def State.farSize (s : State) : Nat := 2 * s.farN * s.farDensity

def farBase : Nat := 0x010000000000

/-- Where a physical address lies (R274, R275). -/
inductive Region where
  | vault (isl : Nat)
  | far (ch off : Nat)
  | sram (k : CellRef) (off : Nat)
  | control
  | none
  deriving DecidableEq, Repr

def State.region (s : State) (a : Nat) : Region :=
  if a < 0x003000000000 then .vault (a / 0x40000000)
  else if farBase ≤ a ∧ a < farBase + s.farSize then
    let o := a - farBase
    let h := s.farN * s.farDensity
    let die := o / h
    let g := (o % h) / 4096
    .far (16 * die + g % s.farN) ((g / s.farN) * 4096 + o % 4096)
  else if 0x020000000000 ≤ a ∧ a < 0x0200C0000000 then
    let o := a - 0x020000000000
    let k : CellRef := ⟨o / 0x01000000, o % 0x01000000 / 0x00100000⟩
    if s.cellExists k ∧ o % 0x00100000 < sramSize k then .sram k (o % 0x00100000) else .none
  else if ctlBase 0 ≤ a ∧ a < ctlBase 2 then .control
  else .none

/-- A whole range lies in one populated region of memory. -/
def State.populated (s : State) (a n : Nat) : Bool :=
  match s.region a, s.region (a + (n - 1)) with
  | .vault _, .vault _ => true
  | .far _ _, .far _ _ => true
  | .sram k _, .sram k' _ => k == k'
  | _, _ => false

/-! ### Program faults (R136, R141) -/

/-- Record a fault of a cell: CELL_FAULT, the cell stops, and with the lowest faulting cell the island stops and
signals a fault event with that cell's code (R136, R137). -/
def State.recordFault (s : State) (k : CellRef) (code : Code) (slot word : Nat) : State :=
  let cyc := (s.reg (R.islCycle k.isl)).toNat % 2 ^ 32
  let w : Word := BitVec.ofNat 64 (code.toNat + slot * 2 ^ 16 + word * 2 ^ 18 + 2 ^ 31 + cyc * 2 ^ 32)
  (s.setReg (R.cellFault k) w).updCell k (fun c => { c with run := .faulted, held := none, sync := .none })

/-- The island stops on a fault: state faulted, fcell, fvalid and the event to its dealer. -/
def State.islandFault (s : State) (k : CellRef) (code : Code) : State :=
  let a := R.islSeq k.isl
  let s1 := ((s.setFld a 2 0 3).setFld a 10 7 k.c).setFld a 11 11 1
  s1.raise (s.homeDie (s.isl k.isl).table k.isl) (.fault k.isl code)

/-- A cell's part of a fault that belongs to no word (R136): slot 3, the word last issued. A cell that has faulted keeps
the fault it has recorded (R137). -/
def State.faultNoWord (s : State) (k : CellRef) (code : Code) : State :=
  if (s.cell k).run = .faulted then s else s.recordFault k code 3 (s.cell k).last

/-- The island's part, when cells of island i have faulted since `b`: it stops with the code of the lowest of them, unless
it has stopped before (R136, R137). -/
def State.raiseFaults (b : State) (i : Nat) (s : State) : State :=
  if b.fld (R.islSeq i) 2 0 = 3 then s
  else match (s.islCells i).find? (fun k => (s.cell k).run == .faulted && (b.cell k).run != .faulted) with
    | none => s
    | some k => s.islandFault k (BitVec.ofNat 16 (s.fld (R.cellFault k) 15 0))

/-- A scan-in holds the islands of its table (R356). -/
def State.scanHeld (s : State) (i : Nat) : Bool := (s.isl i).table != 0 && s.fld (R.tblState 0 (s.isl i).table) 2 0 == 6

/-- A thermal trip stops every clock (R489). -/
def State.tripped (s : State) : Bool := bit 26 (s.reg (R.telTemp 0)) || bit 26 (s.reg (R.telTemp 1))

/-- Whether an island stands still: it has stopped on a fault, its table is scan-held, or its clock is stopped. -/
def State.islFaulted (s : State) (i : Nat) : Bool := s.fld (R.islSeq i) 2 0 == 3 || s.scanHeld i || s.tripped

/-- The current command epoch of a table (R248), as MMU_TCMD.ecmd shows it. -/
def State.ecmd (s : State) (t : Nat) : BitVec 8 := BitVec.ofNat 8 (s.fld (R.mmuTcmd 0 t) 7 0)

/-! ### Error events (R499 to R502, R516 to R518) -/

/-- A corrected event of a class: counted in ERR_CE and written to the log. -/
def State.ceEvent (s : State) (die cls pa : Nat) : State :=
  let lo := if cls = 0 then 0 else if cls = 1 then 12 else if cls = 2 then 24 else if cls ≤ 5 then 36 else 48
  let s1 := s.satFld (R.errCe die) (lo + 11) lo 1
  let i := s1.fld (R.errCepos die) 5 0
  (s1.setReg (R.errCelog die i) (BitVec.ofNat 64 (pa % 2 ^ 48 + cls * 2 ^ 48 + 2 ^ 63))).incFld (R.errCepos die) 5 0 1

/-- An uncorrectable event of a class: counted in ERR_UE, logged in ERR_UELOG, summarised in ERR_SUM, and signalled to
the dealer. -/
def State.ueEvent (s : State) (die cls pa table : Nat) : State :=
  let lo := if cls ≤ 2 then 0 else if cls ≤ 5 then 12 else 24
  let s1 := s.satFld (R.errUe die) (lo + 11) lo 1
  let s2 := s1.setReg (R.errUelog die) (BitVec.ofNat 64 (pa % 2 ^ 48 + cls * 2 ^ 48 + table % 256 * 2 ^ 52 + 2 ^ 63))
  (s2.setFld (R.errSum die) 0 0 1).raise die (.uncorrectable cls pa table)

/-- The island's clock is stretched: its supply has drooped, or a throttle applies (R132, R483, R486). -/
def State.stretched (s : State) (i : Nat) : Bool := (s.isl i).droop || s.fld (R.islClk i) 19 14 != 0

/-- An island cycle is over: FIFOs may deliver again, a droop is past. -/
def Isl.ticked (x : Isl) : Isl := { x with pops := [], droop := false }

/-- A schedule cycle is over. -/
def Isl.next (issued : Word) (x : Isl) : Isl := { x.ticked with sched := x.sched + 1, drives := [], issued := issued }

/-- A fresh free value (log entry 9). -/
def State.fresh (s : State) : Word × State := (Config.freeValue s.free, { s with free := s.free + 1 })

/-- The island on the far side of a boundary of the package (R47 to R50). -/
def islNbr (i p : Nat) : Option Nat :=
  let r := islRow i
  let c := islCol i
  match p with
  | 0 => if r = 0 then none else some (islAt (r - 1) c)
  | 1 => if c = 23 then none else some (islAt r (c + 1))
  | 2 => if r = 7 then none else some (islAt (r + 1) c)
  | _ => if c = 0 then none else some (islAt r (c - 1))

end Sys2Proof.Machine
end

