-- ==== Sys2Proof/Machine/ChanCore.lean ====
section
/-! DEFINITION. Message channels (R323 to R329): a channel's registers, placement in its ring and the sender's credit. -/

namespace Sys2Proof.Machine

open Sys2Proof

def chKey (die ch : Nat) : Nat := 4096 * die + ch

def State.chState (s : State) (die ch : Nat) : Nat := s.fld (R.chnPeer die ch) 26 25
def State.chReader (s : State) (die ch : Nat) : Nat := s.fld (R.chnPeer die ch) 11 0
def State.chSkind (s : State) (die ch : Nat) : Bool := bit 12 (s.reg (R.chnPeer die ch))
def State.chSender (s : State) (die ch : Nat) : Nat := s.fld (R.chnPeer die ch) 24 13
def State.chBase (s : State) (die ch : Nat) : Nat := s.fld (R.chnRing die ch) 47 12 * 4096
def State.chSize (s : State) (die ch : Nat) : Nat := 2 ^ s.fld (R.chnRing die ch) 52 48
def State.chTail (s : State) (die ch : Nat) : BitVec 32 := (s.reg (R.chnPos die ch)).setWidth 32
def State.chHead (s : State) (die ch : Nat) : BitVec 32 := (s.reg (R.chnPos die ch) >>> (32 : Nat)).setWidth 32
def State.rtail (s : State) (die ch : Nat) : BitVec 32 := SMap.get (fun _ => 0) s.rtails (chKey die ch)
def State.setRtail (s : State) (die ch : Nat) (v : BitVec 32) : State :=
  { s with rtails := SMap.set (fun _ => 0) s.rtails (chKey die ch) v }

/-- The slot of a payload (R325). -/
def slotBytes (len : Nat) : Nat := (8 + len + 31) / 32 * 32

/-- Where the next message goes (R325): whether a skip marker comes first, its ring offset, the tail after it; none
while there is no credit. -/
def placeMsg (size : Nat) (rtail head : BitVec 32) (len : Nat) : Option (Bool × Nat × BitVec 32) :=
  let slot := slotBytes len
  let off := rtail.toNat % size
  let free := size - (rtail - head).toNat
  if slot ≤ size - off ∧ slot ≤ free then some (false, off, rtail + BitVec.ofNat 32 slot)
  else if size - off < slot ∧ (size - off) + slot ≤ free then
    some (true, 0, rtail + BitVec.ofNat 32 ((size - off) + slot))
  else none

/-- Place a run of payload lengths one after the other; none as soon as one finds no credit. -/
def placeAll (size : Nat) (rtail head : BitVec 32) : List Nat → Option (BitVec 32)
  | [] => some rtail
  | l :: t =>
    match placeMsg size rtail head l with
    | some (_, _, r) => placeAll size r head t
    | none => none

/-- Whether a channel has credit for one more message behind those not yet placed. -/
def State.chCredit (s : State) (die ch len : Nat) : Bool :=
  let wait := (s.chmsgs.filter (fun m => m.die == die && m.ch == ch && !m.placed)).map (fun m => m.bytes.length)
  (placeAll (s.chSize die ch) (s.rtail die ch) (s.chHead die ch) (wait ++ [len])).isSome

/-- The checks of a send (R325, R328): the code of its failure, or the channel. `limit` is the sender's payload limit,
`mine` whether the channel's sender is the one that asks. -/
def State.sendCheck (s : State) (handle : Word) (len limit : Nat) (mine : Nat → Nat → Bool) : Except Code (Nat × Nat) :=
  let die := field 12 12 handle
  let ch := field 11 0 handle
  if field 63 13 handle ≠ 0 then .error K.eChHandle
  else if ¬ ((s.chState die ch = 1 ∨ s.chState die ch = 2) ∧ mine die ch) then .error K.eChHandle
  else if len = 0 ∨ limit < len ∨ s.chSize die ch < slotBytes len then .error K.eChLength
  else .ok (die, ch)

/-- A table's channel (R323). -/
def State.chOfTable (s : State) (t die ch : Nat) : Bool := s.chSkind die ch && s.chSender die ch % 256 == t
/-- A steward core's channel; `core` is its number in the package. -/
def coreAgent (core : Nat) : Nat := core / 16 * 2048 + 256 + core % 16
def State.chOfCore (s : State) (core die ch : Nat) : Bool := !s.chSkind die ch && s.chSender die ch == coreAgent core

/-- Count a send that completed with ORPHAN (R329). -/
def State.countOrphan (s : State) (die ch : Nat) : State := s.incFld (R.chnStat die ch) 31 0 1

end Sys2Proof.Machine
end

