-- ==== Sys2Proof/Machine/Links.lean ====
section
/-! DEFINITION. Neighbour links (R48, R54 to R59, R216 to R234): neighbours and fences, the wires of inside links, the
handshake FIFOs of crossing links, routes, and the steering buffers. -/

namespace Sys2Proof.Machine

open Sys2Proof

/-! ### Ports -/

/-- The facing port: N 0 and S 2, E 1 and W 3. -/
def facing (p : Nat) : Nat := (p + 2) % 4

/-- Package row and column of a cell (R10). -/
def cellRow (k : CellRef) : Nat := 4 * islRow k.isl + k.c / 4
def cellCol (k : CellRef) : Nat := 4 * islCol k.isl + k.c % 4
def cellAt (r c : Nat) : CellRef := ⟨islAt (r / 4) (c / 4), 4 * (r % 4) + c % 4⟩

/-- The cell that a port faces, if the logical grid has one there (R48). -/
def State.nbr (s : State) (k : CellRef) (p : Nat) : Option CellRef :=
  let r := cellRow k
  let c := cellCol k
  let o : Option CellRef :=
    match p with
    | 0 => if r = 0 then none else some (cellAt (r - 1) c)
    | 1 => if c = 95 then none else some (cellAt r (c + 1))
    | 2 => if r = 31 then none else some (cellAt (r + 1) c)
    | _ => if c = 0 then none else some (cellAt r (c - 1))
  match o with
  | some k' => if s.cellExists k' then some k' else none
  | none => none

/-- Whether a port's link stays inside the island (R57). -/
def insidePort (k : CellRef) (p : Nat) : Bool :=
  match p with
  | 0 => decide (4 ≤ k.c)
  | 1 => decide (k.c % 4 ≠ 3)
  | 2 => decide (k.c < 12)
  | _ => decide (k.c % 4 ≠ 0)

/-- The link out of a port of an existing cell: inside with its latency, crossing to a neighbour, or none. A short
island's southern edge has no neighbour (R48). -/
inductive Link where
  | inside (to_ : CellRef) (lat : Nat)
  | crossing (to_ : CellRef)
  | none
  deriving DecidableEq, Repr

def State.link (s : State) (k : CellRef) (p : Nat) : Link :=
  match s.nbr k p with
  | Option.none => .none
  | some k' => if k'.isl = k.isl then .inside k' (if p % 2 = 0 then 2 else 1) else .crossing k'

/-- A fenced port (R54): no neighbour, or a boundary with either of its two fence bits set. -/
def State.fenced (s : State) (k : CellRef) (p : Nat) : Bool :=
  match s.link k p with
  | .none => true
  | .inside _ _ => false
  | .crossing k' => bit p (s.reg (R.islFence k.isl)) || bit (facing p) (s.reg (R.islFence k'.isl))

/-- A crossing port. -/
def State.isCrossing (s : State) (k : CellRef) (p : Nat) : Bool :=
  match s.link k p with
  | .crossing _ => true
  | _ => false

/-! ### Handshake FIFOs (R223, R224, R232) -/

/-- The FIFO into port p of cell k. -/
def fifoKey (k : CellRef) (p : Nat) : Nat := 4 * gid k + p

def State.fifo (s : State) (k : CellRef) (p : Nat) : List Token := SMap.get (fun _ => []) s.fifos (fifoKey k p)
def State.setFifo (s : State) (k : CellRef) (p : Nat) (l : List Token) : State :=
  { s with fifos := SMap.set (fun _ => []) s.fifos (fifoKey k p) l }
def State.inFlight (s : State) (k : CellRef) (p : Nat) : List Token := SMap.get (fun _ => []) s.flight (fifoKey k p)
def State.setFlight (s : State) (k : CellRef) (p : Nat) (l : List Token) : State :=
  { s with flight := SMap.set (fun _ => []) s.flight (fifoKey k p) l }

/-- Tokens a FIFO holds: 32 across the seam, 8 inside a die (R57). -/
def fifoDepth (k k' : CellRef) : Nat := if islDie k.isl = islDie k'.isl then 8 else 32

/-- Whether the FIFO that an output port feeds is full: sent tokens hold their space from the credit on (R223). -/
def State.outFull (s : State) (k : CellRef) (p : Nat) : Bool :=
  match s.link k p with
  | .crossing k' =>
    decide (fifoDepth k k' ≤ (s.fifo k' (facing p)).length + (s.inFlight k' (facing p)).length)
  | _ => false

/-- Send a token out of a port: onto the wire of an inside link, or towards the FIFO of a crossing link. -/
def State.sendTok (s : State) (k : CellRef) (p : Nat) (t : Token) : State :=
  match s.link k p with
  | .inside k' lat =>
    let u := (s.isl k.isl).sched + lat
    s.updCell k' (fun c => { c with wires := c.wires ++ [⟨facing p, t, u, false⟩] })
  | .crossing k' => s.setFlight k' (facing p) (s.inFlight k' (facing p) ++ [t])
  | .none => s

/-- Tokens at the head whose epoch is neither the island's nor the next: discarded and counted (R232). -/
def staleHeads (e : BitVec 2) : List Token → Nat
  | [] => 0
  | t :: ts => if t.epoch = e ∨ t.epoch = e + 1 then 0 else 1 + staleHeads e ts

/-- Discard stale heads of a FIFO and count them in ISL_STALE.since. -/
def State.dropStale (s : State) (k : CellRef) (p : Nat) : State :=
  let n := staleHeads (s.isl k.isl).epoch (s.fifo k p)
  if n = 0 then s
  else (s.setFifo k p ((s.fifo k p).drop n)).incFld (R.islStale k.isl) 63 32 n

/-- The head of a FIFO that may be delivered: behind stale heads, of the current epoch (R232), and the first that the FIFO
delivers in this island cycle (R223). -/
def State.fifoHead (s : State) (k : CellRef) (p : Nat) : Option Token :=
  let e := (s.isl k.isl).epoch
  if (s.isl k.isl).pops.contains (k.c, p) then none
  else match (s.fifo k p).drop (staleHeads e (s.fifo k p)) with
  | [] => none
  | t :: _ => if t.epoch = e then some t else none

/-- Take the deliverable head out of a FIFO. -/
def State.popFifo (s : State) (k : CellRef) (p : Nat) : State :=
  let s1 := s.dropStale k p
  (s1.setFifo k p ((s1.fifo k p).drop 1)).updIsl k.isl (fun i => { i with pops := i.pops ++ [(k.c, p)] })

/-! ### Settings: routes, steering, pull points (R219, R225, R235 to R237) -/

/-- The source of an output port: 0 none, 1 to 4 input N, E, S, W. -/
def State.routeSrc (s : State) (k : CellRef) (out : Nat) : Nat := s.fld (R.cellRoute k) (3 * out + 2) (3 * out)

/-- The output ports that an input port feeds. -/
def State.routeOuts (s : State) (k : CellRef) (inp : Nat) : List Nat :=
  (List.range 4).filter (fun o => s.routeSrc k o == inp + 1)

def State.steerCfg (s : State) (k : CellRef) (p : Nat) : Word := s.reg (R.cellSteer k p)
def swEn (w : Word) : Bool := bit 0 w
def swData (w : Word) : Nat := field 2 1 w
def swT (w : Word) : Nat := field 5 3 w
def swF (w : Word) : Nat := field 8 6 w
def mgEn (w : Word) : Bool := bit 9 w
def mgAPort (w : Word) : Nat := field 11 10 w
def mgBPort (w : Word) : Nat := field 13 12 w
def mgOutPort (w : Word) : Nat := field 15 14 w

/-- The steering data inputs fed by an input port: the unit's own port and which buffer (0 switch data, 1 mg_a,
2 mg_b). -/
def State.steerFed (s : State) (k : CellRef) (inp : Nat) : List (Nat × Nat) :=
  (List.range 4).flatMap (fun p =>
    let w := s.steerCfg k p
    (if swEn w && swData w == inp then [(p, 0)] else []) ++
    (if mgEn w && mgAPort w == inp then [(p, 1)] else []) ++
    (if mgEn w && mgBPort w == inp then [(p, 2)] else []))

/-- A buffer of the units of a port: 0 switch data, 1 mg_a, 2 mg_b, 3 switch control, 4 merge control. -/
def Steer.buf (x : Steer) (b : Nat) : List Token :=
  match b with
  | 0 => x.swDat | 1 => x.mgA | 2 => x.mgB | 3 => x.swCtl | _ => x.mgCtl
def Steer.push (x : Steer) (b : Nat) (t : Token) : Steer :=
  match b with
  | 0 => { x with swDat := x.swDat ++ [t] }
  | 1 => { x with mgA := x.mgA ++ [t] }
  | 2 => { x with mgB := x.mgB ++ [t] }
  | 3 => { x with swCtl := x.swCtl ++ [t] }
  | _ => { x with mgCtl := x.mgCtl ++ [t] }

/-- Whether a buffer holds its 4 tokens (R225). -/
def State.bufFull (s : State) (k : CellRef) (p b : Nat) : Bool := decide (4 ≤ (((s.cell k).str p).buf b).length)
def State.bufPush (s : State) (k : CellRef) (p b : Nat) (t : Token) : State :=
  s.updCell k (fun c => c.setStr p ((c.str p).push b t))

/-- The valid pull points of a cell on a word: their ports (R220, R237). -/
def State.pullsAt (s : State) (k : CellRef) (w : Nat) : List Nat :=
  (List.range 8).filterMap (fun i =>
    let r := s.reg (R.cellPull k i)
    if bit 15 r && field 11 0 r == w then some (field 13 12 r) else none)

/-! ### Driving an output (R222) -/

/-- Whether an output port has been driven in this schedule cycle. -/
def State.driven (s : State) (k : CellRef) (p : Nat) : Bool := (s.isl k.isl).drives.contains (k.c, p)

def State.markDriven (s : State) (k : CellRef) (p : Nat) : State :=
  s.updIsl k.isl (fun i => { i with drives := i.drives ++ [(k.c, p)] })

/-- Drive a token out of a port. -/
def State.driveTok (s : State) (k : CellRef) (p : Nat) (t : Token) : State := (s.markDriven k p).sendTok k p t

/-- A route drives an output: a second driver of the cycle raises E_LINK_OVERRUN (R222). -/
def State.routeDrive (s : State) (k : CellRef) (p : Nat) (t : Token) : State :=
  if s.driven k p then s.faultNoWord k K.eLinkOverrun else s.driveTok k p t

/-- Forward a data token from an input port along the routes (R219). -/
def State.forward (s : State) (k : CellRef) (inp : Nat) (t : Token) : State :=
  (s.routeOuts k inp).foldl (fun s o => s.routeDrive k o t) s

/-- Whether forwarding from an input port must wait: a crossing output whose FIFO is full (R221). -/
def State.forwardBlocked (s : State) (k : CellRef) (inp : Nat) : Bool :=
  (s.routeOuts k inp).any (fun o => s.outFull k o)

/-! ### A token that becomes usable on an inside link (R127, R219, R227) -/

/-- The steering buffer that a control token on a port goes to: its unit bit chooses switch or merge. -/
def ctlBuf (t : Token) : Nat := if t.unit then 4 else 3
def State.ctlEnabled (s : State) (k : CellRef) (p : Nat) (t : Token) : Bool :=
  if t.unit then mgEn (s.steerCfg k p) else swEn (s.steerCfg k p)

/-- A usable token is taken by what does not depend on the schedule word: a control token goes to its unit or is
lost; a data token is forwarded by the routes and enters the steering buffers its port feeds. The wire is then `seen`;
a data token that nothing took stays for an XRECV of this cycle. -/
def State.arriveTok (s : State) (k : CellRef) (p : Nat) (t : Token) : State × Bool :=
  if t.kind then
    if s.ctlEnabled k p t ∧ ¬ s.bufFull k p (ctlBuf t) then (s.bufPush k p (ctlBuf t) t, true)
    else (s.faultNoWord k K.eTokenLost, true)
  else
    let outs := s.routeOuts k p
    let fed := s.steerFed k p
    let s1 := s.forward k p t
    let s2 := fed.foldl (fun s f => if s.bufFull k f.1 f.2 then s.faultNoWord k K.eTokenLost else s.bufPush k f.1 f.2 t) s1
    (s2, !outs.isEmpty || !fed.isEmpty)

/-- Handle the unhandled usable tokens of a cell in this schedule cycle. -/
def arriveList (k : CellRef) (now : Nat) : List Wire → State → State × List Wire
  | [], s => (s, [])
  | w :: ws, s =>
    if w.usable = now ∧ ¬ w.seen then
      let (s1, took) := s.arriveTok k w.port w.tok
      let (s2, r) := arriveList k now ws s1
      (s2, (if w.tok.kind then r else { w with seen := took } :: r))
    else
      let (s2, r) := arriveList k now ws s
      (s2, w :: r)

def State.arrivals (s : State) (k : CellRef) : State :=
  let ws := (s.cell k).wires
  if ws.isEmpty then s
  else
    let (s1, r) := arriveList k (s.isl k.isl).sched ws (s.updCell k (fun c => { c with wires := [] }))
    -- tokens sent meanwhile by this cell's own island stand behind
    s1.updCell k (fun c => { c with wires := r ++ c.wires })

/-- Whether a usable, unhandled token of a cell waits for a full FIFO (R221). -/
def State.arrivalBlocked (s : State) (k : CellRef) : Bool :=
  (s.cell k).wires.any (fun w => w.usable == (s.isl k.isl).sched && !w.seen && !w.tok.kind && s.forwardBlocked k w.port)

/-- The data token usable on an inside port in this schedule cycle. -/
def State.usableTok (s : State) (k : CellRef) (p : Nat) : Option Token :=
  ((s.cell k).wires.find? (fun w => w.port == p && w.usable == (s.isl k.isl).sched && !w.tok.kind)).map Wire.tok

/-- An XRECV takes the usable token of an inside port. -/
def State.takeWire (s : State) (k : CellRef) (p : Nat) : State :=
  s.updCell k (fun c => { c with wires := c.wires.map (fun w =>
    if w.port = p ∧ w.usable = (s.isl k.isl).sched ∧ ¬ w.tok.kind then { w with seen := true } else w) })

/-- At the end of a schedule cycle the usable tokens are gone; one that nothing took is lost (R127). -/
def State.closeWires (s : State) (k : CellRef) : State :=
  let now := (s.isl k.isl).sched
  let ws := (s.cell k).wires
  if ws.isEmpty then s
  else
    let s1 := s.updCell k (fun c => { c with wires := c.wires.filter (fun w => now < w.usable) })
    if ws.any (fun w => decide (w.usable ≤ now) && !w.seen) then s1.faultNoWord k K.eTokenLost else s1

end Sys2Proof.Machine
end

