-- ==== Sys2Proof/Machine/SteerCore.lean ====
section
/-! DEFINITION. Steering units (R224 to R228): the heads of FIFOs that go to them, firing, outputs that wait. -/

namespace Sys2Proof.Machine

open Sys2Proof

/-- The control value of a token. -/
def Token.ctlVal (t : Token) : Bool := t.payload.getLsbD 0

/-! ### Heads of crossing FIFOs (R224, R227, R232) -/

/-- The head of a FIFO is one for a steering unit: a control token, or data on a port that feeds one. -/
def State.headSteers (s : State) (k : CellRef) (p : Nat) : Bool :=
  match s.fifoHead k p with
  | none => false
  | some t => t.kind || !(s.steerFed k p).isEmpty

/-- The head of a FIFO, stale heads discarded, goes to a steering unit as soon as its buffer has space; a control token
of a disabled unit is lost (R224, R227, R232). -/
def State.deliverHead (s : State) (k : CellRef) (p : Nat) : State :=
  let s1 := s.dropStale k p
  match s1.fifoHead k p with
  | none => s1
  | some t =>
    if t.kind then
      if ¬ s1.ctlEnabled k p t then (s1.popFifo k p).faultNoWord k K.eTokenLost
      else if s1.bufFull k p (ctlBuf t) then s1
      else (s1.popFifo k p).bufPush k p (ctlBuf t) t
    else
      match s1.steerFed k p with
      | [] => s1
      | (q, b) :: _ => if s1.bufFull k q b then s1 else (s1.popFifo k p).bufPush k q b t

/-- The heads that go to the units of an island leave their FIFOs. -/
def State.deliverHeads (s : State) (i : Nat) : State :=
  (s.islCells i).foldl (fun s k => (List.range 4).foldl (fun s p => if s.headSteers k p then s.deliverHead k p else s) s) s

/-! ### Firing (R225, R226, R228) -/

/-- The tokens of a kind that become usable on an inside port in this schedule cycle. -/
def State.arriving (s : State) (k : CellRef) (p : Nat) (kind : Bool) : List Token :=
  ((s.cell k).wires.filter (fun w => w.port == p && w.usable == (s.isl k.isl).sched && !w.seen && w.tok.kind == kind)).map Wire.tok

/-- What the switch unit of port p does when it fires in this schedule cycle with the given buffers: whether its inputs are
all inside links, its target (4 discards), the token, and what is left of the buffers. -/
def State.switchFires (s : State) (k : CellRef) (p : Nat) (ctl dat : List Token) : Option (Bool × Nat × Token) :=
  let w := s.steerCfg k p
  let x := (s.cell k).str p
  match ctl, dat with
  | c :: _, d :: _ =>
    if ¬ swEn w ∨ x.swLast = some (s.isl k.isl).sched ∨ x.swOut.isSome then none
    else some (insidePort k p && insidePort k (swData w), if c.ctlVal then swT w else swF w, d)
  | _, _ => none

/-- The same of the merge unit, with the input it takes (true: mg_b). -/
def State.mergeFires (s : State) (k : CellRef) (p : Nat) (ctl a b : List Token) : Option (Bool × Nat × Token × Bool) :=
  let w := s.steerCfg k p
  let x := (s.cell k).str p
  match ctl with
  | [] => none
  | c :: _ =>
    match (if c.ctlVal then b else a) with
    | [] => none
    | d :: _ =>
      if ¬ mgEn w ∨ x.mgLast = some (s.isl k.isl).sched ∨ x.mgOut.isSome then none
      else some (insidePort k p && insidePort k (mgAPort w) && insidePort k (mgBPort w), mgOutPort w, d, c.ctlVal)

/-- A unit with inside inputs that would fire in this cycle into a full FIFO (R228). -/
def State.fireBlocked (s : State) (k : CellRef) : Bool :=
  if (s.cell k).steer.isEmpty ∧ (s.cell k).wires.isEmpty then false
  else (List.range 4).any (fun p =>
    let x := (s.cell k).str p
    let w := s.steerCfg k p
    let ctl (u : Bool) : List Token := (s.arriving k p true).filter (fun t => t.unit == u)
    (match s.switchFires k p (x.swCtl ++ ctl false) (x.swDat ++ s.arriving k (swData w) false) with
     | some (inside, o, _) => inside && decide (o < 4) && s.outFull k o
     | none => false) ||
    (match s.mergeFires k p (x.mgCtl ++ ctl true) (x.mgA ++ s.arriving k (mgAPort w) false) (x.mgB ++ s.arriving k (mgBPort w) false) with
     | some (inside, o, _, _) => inside && s.outFull k o
     | none => false))

/-- A unit's output: one with only inside inputs drives at once; one with a crossing input waits for a cycle in which
nothing else drives its output (R222, R228). -/
def State.steerOut (s : State) (k : CellRef) (p : Nat) (unit : Bool) (inside : Bool) (o : Nat) (t : Token) : State :=
  if inside then s.routeDrive k o t
  else s.updCell k (fun c => c.setStr p (if unit then { c.str p with mgOut := some (o, t) } else { c.str p with swOut := some (o, t) }))

/-- The switch unit of port p fires. -/
def State.fireSwitch (s : State) (k : CellRef) (p : Nat) : State :=
  let x := (s.cell k).str p
  match s.switchFires k p x.swCtl x.swDat with
  | none => s
  | some (inside, o, d) =>
    let s1 := s.updCell k (fun c => c.setStr p
      { c.str p with swCtl := x.swCtl.drop 1, swDat := x.swDat.drop 1, swLast := some (s.isl k.isl).sched })
    if 4 ≤ o then s1 else s1.steerOut k p false inside o d

/-- The merge unit of port p fires. -/
def State.fireMerge (s : State) (k : CellRef) (p : Nat) : State :=
  let x := (s.cell k).str p
  match s.mergeFires k p x.mgCtl x.mgA x.mgB with
  | none => s
  | some (inside, o, d, b) =>
    let s1 := s.updCell k (fun c => c.setStr p
      { c.str p with mgCtl := x.mgCtl.drop 1, mgA := if b then x.mgA else x.mgA.drop 1, mgB := if b then x.mgB.drop 1 else x.mgB,
                     mgLast := some (s.isl k.isl).sched })
    s1.steerOut k p true inside o d

/-- Every unit of a cell that can fires. -/
def State.fireAll (s : State) (k : CellRef) : State :=
  if (s.cell k).steer.isEmpty then s
  else (List.range 4).foldl (fun s p => (s.fireSwitch k p).fireMerge k p) s

/-! ### Outputs that wait (R228) -/

/-- The waiting outputs of a cell's units in their order: port, unit, output port, token. -/
def Cell.waiting (c : Cell) : List (Nat × Bool × Nat × Token) :=
  (List.range 4).flatMap (fun p =>
    let x := c.str p
    (match x.swOut with | some (o, t) => [(p, false, o, t)] | none => []) ++
    (match x.mgOut with | some (o, t) => [(p, true, o, t)] | none => []))

/-- At the end of a schedule cycle a waiting unit drives its output if nothing has driven it in the cycle and the FIFO has
space; the first of those that wait on it. -/
def State.lateDrives (s : State) (k : CellRef) : State :=
  if (s.cell k).steer.isEmpty then s
  else (s.cell k).waiting.foldl (fun s w =>
    let (p, unit, o, t) := w
    if s.driven k o ∨ s.outFull k o then s
    else (s.updCell k (fun z => z.setStr p (if unit then { z.str p with mgOut := none } else { z.str p with swOut := none }))).driveTok k o t) s

end Sys2Proof.Machine
end

