-- ==== Sys2Proof/Machine/Num.lean ====
section
/-! DEFINITION. Number formats, rounding and conversion (03): exact values, one rounding (R93), the special codes of
every format (R74 to R84), shared scales (R85 to R91), flags (R94, R97), comparison and rank (R100 to R102). -/

namespace Sys2Proof.Machine

/-- The five flags of R183 and R188: NV 0, DZ 1, OF 2, UF 3, NX 4. -/
abbrev Fl := BitVec 5
def flNone : Fl := 0
def flNV : Fl := 1
def flDZ : Fl := 2
def flOF : Fl := 4
def flUF : Fl := 8
def flNX : Fl := 16

/-- The element formats of R71. -/
inductive EFmt where
  | int4 | int8 | vf4 | vf6 | vf8a | vf8b | f16 | f32 | f64 | int32
  deriving DecidableEq, Repr

/-- The 4-bit format code of R71; 0xA to 0xF are reserved. -/
def EFmt.ofCode (n : Nat) : Option EFmt :=
  match n with
  | 0 => some .int4 | 1 => some .int8 | 2 => some .vf4 | 3 => some .vf6 | 4 => some .vf8a
  | 5 => some .vf8b | 6 => some .f16 | 7 => some .f32 | 8 => some .f64 | 9 => some .int32 | _ => none

def EFmt.bits : EFmt → Nat
  | .int4 => 4 | .int8 => 8 | .vf4 => 4 | .vf6 => 6 | .vf8a => 8 | .vf8b => 8
  | .f16 => 16 | .f32 => 32 | .f64 => 64 | .int32 => 32

/-- An exact value with the special values of R75 to R79. A NaN keeps its mantissa field `frac` of width `fw`. -/
inductive Val where
  | nan (sign sig : Bool) (frac fw : Nat)
  | inf (sign : Bool)
  | fin (sign : Bool) (m : Nat) (e : Int)
  deriving DecidableEq, Repr

/-- The default NaN of R76. -/
def Val.defaultNaN : Val := .nan false false 1 1

def Val.isNaN : Val → Bool
  | .nan _ _ _ _ => true
  | _ => false

def Val.isSig : Val → Bool
  | .nan _ sig _ _ => sig
  | _ => false

def Val.isZero : Val → Bool
  | .fin _ m _ => m == 0
  | _ => false

/-- Exponent width, mantissa width and bias of a floating format (the table of 03). -/
def EFmt.shape : EFmt → Nat × Nat × Int
  | .vf4 => (2, 1, 2) | .vf6 => (3, 2, 4) | .vf8a => (4, 3, 7) | .vf8b => (5, 2, 15)
  | .f16 => (5, 10, 15) | .f32 => (8, 23, 127) | .f64 => (11, 52, 1023) | _ => (0, 0, 0)

/-- Infinities and NaNs lie at the top exponent (R74, R79). -/
def EFmt.ieeeTop : EFmt → Bool
  | .f16 => true | .f32 => true | .f64 => true | .vf8b => true | _ => false

def EFmt.isInt : EFmt → Bool
  | .int4 => true | .int8 => true | .int32 => true | _ => false

/-- The value of a code (R77 to R84). A VF8b NaN has no quiet bit of its own: its two mantissa bits are payload, below a
quiet bit that is set (R76, R79, R96; DEDUCED, log entry 110). -/
def decodeVal (f : EFmt) (code : Nat) : Val :=
  let c := code % 2 ^ f.bits
  if f.isInt then
    if 2 ^ (f.bits - 1) ≤ c then .fin true (2 ^ f.bits - c) 0 else .fin false c 0
  else
    let (ew, mw, bias) := f.shape
    let sign := c / 2 ^ (ew + mw) % 2 == 1
    let ex := c / 2 ^ mw % 2 ^ ew
    let fr := c % 2 ^ mw
    if f = .vf8a ∧ c = 0x80 then .nan false false 1 1
    else if f.ieeeTop ∧ ex = 2 ^ ew - 1 then
      if fr = 0 then .inf sign
      else if f = .vf8b then .nan sign false (4 + fr) 3
      else .nan sign (fr < 2 ^ (mw - 1)) fr mw
    else if ex = 0 then
      if fr = 0 then .fin (sign && f.ieeeTop) 0 0 else .fin sign fr (1 - bias - mw)
    else .fin sign (2 ^ mw + fr) (ex - bias - mw)

/-- The rounding field of R92. -/
inductive Rm where
  | rne | rna | rtz | rup | rdn
  deriving DecidableEq, Repr

def Rm.ofCode (n : Nat) : Option Rm :=
  match n with
  | 0 => some .rne | 1 => some .rna | 2 => some .rtz | 3 => some .rup | 4 => some .rdn | _ => none

/-- Whether the magnitude `n0` plus a remainder is rounded up: the remainder against one half (`cmp`), whether
anything is lost at all, the sign and the mode. -/
def roundUp (rm : Rm) (sign odd : Bool) (cmp : Ordering) (lost : Bool) : Bool :=
  match rm with
  | .rne => cmp == .gt || (cmp == .eq && odd)
  | .rna => cmp != .lt
  | .rtz => false
  | .rup => lost && !sign
  | .rdn => lost && sign

/-- The magnitude in [m, m+1) × 2^e (exactly m × 2^e unless `sticky`), rounded to a multiple of 2^q: the multiple
and whether it is inexact. A sticky magnitude must come with e below q. -/
def roundAt (rm : Rm) (sign : Bool) (m : Nat) (e : Int) (sticky : Bool) (q : Int) : Nat × Bool :=
  if q ≤ e then (m * 2 ^ (e - q).toNat, sticky)
  else
    let sh := (q - e).toNat
    let n0 := m / 2 ^ sh
    let r := m % 2 ^ sh
    let half := 2 ^ (sh - 1)
    let cmp := if half < r then Ordering.gt else if r < half then .lt else if sticky then .gt else .eq
    let lost := r != 0 || sticky
    (n0 + b2n (roundUp rm sign (n0 % 2 == 1) cmp lost), lost)

/-- The largest finite code of a sign (R78, R80, R96). -/
def maxFinite (f : EFmt) (sign : Bool) : Nat :=
  let (ew, mw, _) := f.shape
  let mag := if f.ieeeTop then (2 ^ ew - 1) * 2 ^ mw - 1 else 2 ^ (ew + mw) - 1
  mag + (if sign then 2 ^ (ew + mw) else 0)

def infCode (f : EFmt) (sign : Bool) : Nat :=
  let (ew, mw, _) := f.shape
  (2 ^ ew - 1) * 2 ^ mw + (if sign then 2 ^ (ew + mw) else 0)

def zeroCode (f : EFmt) (sign : Bool) : Nat :=
  let (ew, mw, _) := f.shape
  if sign && f.ieeeTop then 2 ^ (ew + mw) else 0

/-- Overflow of an IEEE format goes to infinity or to the largest finite value by rm (R96, IEEE 754). -/
def overflowToInf (rm : Rm) (sign : Bool) : Bool :=
  match rm with
  | .rne => true | .rna => true | .rtz => false | .rup => !sign | .rdn => sign

/-- Round a non-zero magnitude into a floating format (R92 to R97): code and flags. -/
def roundFloat (f : EFmt) (rm : Rm) (sign : Bool) (m : Nat) (e : Int) (sticky : Bool) : Nat × Fl :=
  let (ew, mw, bias) := f.shape
  let emin : Int := 1 - bias
  let top : Int := (m.log2 : Int) + e
  let qu : Int := top - mw
  let q : Int := max top emin - mw
  let (nu, _) := roundAt rm sign m e sticky qu
  let (n, inexact) := roundAt rm sign m e sticky q
  -- nu × 2^qu against 2^emin: tiny after rounding with an unbounded exponent (R94)
  let tiny := decide (top < emin) && !(decide (top = emin - 1) && nu == 2 ^ (mw + 1))
  let fl : Fl := (if inexact then flNX else 0) ||| (if tiny && inexact then flUF else 0)
  let sg := if sign then 2 ^ (ew + mw) else 0
  if n = 0 then (zeroCode f sign, fl)
  else
    -- exponent field and fraction: the carry of rounding runs into the exponent field
    let eb : Int := q + mw + bias
    let mag : Int := (eb - 1) * 2 ^ mw + n
    let limit : Int := if f.ieeeTop then (2 ^ ew - 1) * 2 ^ mw else 2 ^ (ew + mw)
    if limit ≤ mag then
      if f.ieeeTop && overflowToInf rm sign then (infCode f sign, flOF ||| flNX)
      else (maxFinite f sign, flOF ||| flNX)
    else (sg + mag.toNat, fl)

/-- Two's complement code of an integer. -/
def intCode (bits : Nat) (i : Int) : Nat := (i % 2 ^ bits).toNat

/-- Round into an integer format, saturating (R96). -/
def roundInt (bits : Nat) (rm : Rm) (sign : Bool) (m : Nat) (e : Int) (sticky : Bool) : Nat × Fl :=
  let (n, inexact) := roundAt rm sign m e sticky 0
  let lim := if sign then 2 ^ (bits - 1) else 2 ^ (bits - 1) - 1
  if lim < n then (intCode bits (if sign then -(lim : Int) else lim), flOF ||| flNX)
  else (intCode bits (if sign then -(n : Int) else n), if inexact then flNX else 0)

/-- The NaN code of a format, with sign and payload kept where the format has them (R75, R76, R96). -/
def nanCode (f : EFmt) (sign : Bool) (frac fw : Nat) : Nat :=
  let (ew, mw, _) := f.shape
  match f with
  | .vf8a => 0x80
  | .vf8b => if sign then 0xFE else 0x7E
  | .f16 | .f32 | .f64 =>
    let fr := if mw ≤ fw then frac / 2 ^ (fw - mw) else frac * 2 ^ (mw - fw)
    (if sign then 2 ^ (ew + mw) else 0) + (2 ^ ew - 1) * 2 ^ mw + (2 ^ (mw - 1) ||| (fr % 2 ^ mw))
  | _ => 0

def EFmt.hasNaN : EFmt → Bool
  | .vf8a => true | .vf8b => true | .f16 => true | .f32 => true | .f64 => true | _ => false

/-- Deliver a value in a format under rm (R95, R96, R97). `sticky` as in `roundAt`. -/
def deliver (f : EFmt) (rm : Rm) (v : Val) (sticky : Bool := false) : Nat × Fl :=
  match v with
  | .nan s sig fr fw =>
    (nanCode f s fr fw, if sig || !f.hasNaN then flNV else 0)
  | .inf s =>
    if f.isInt then (intCode f.bits (if s then -(2 ^ (f.bits - 1) : Int) else 2 ^ (f.bits - 1) - 1), flNV)
    else if f.ieeeTop then (infCode f s, 0)
    else (maxFinite f s, flNV)
  | .fin s m e =>
    if m = 0 ∧ ¬ sticky then (if f.isInt then 0 else zeroCode f s, 0)
    else if f.isInt then roundInt f.bits rm s m e sticky
    else roundFloat f rm s m e sticky

/-- Conversion of a code between formats (R95 to R97): one format to itself copies the code, quieting a signalling
NaN and writing the negative zeros of VF6 and VF4 as 0. -/
def convertCode (src dst : EFmt) (rm : Rm) (code : Nat) : Nat × Fl :=
  if src = dst then
    let c := code % 2 ^ src.bits
    match decodeVal src c with
    | .nan s sig fr fw => if sig then (nanCode src s fr fw, flNV) else (c, 0)
    | .fin _ 0 _ => (if src.ieeeTop then c else 0, 0)
    | _ => (c, 0)
  else deliver dst rm (decodeVal src code)

/-! ### Exact arithmetic on values -/

/-- Exact product of finite values; NaN rules are the caller's. -/
def mulFin (s1 : Bool) (m1 : Nat) (e1 : Int) (s2 : Bool) (m2 : Nat) (e2 : Int) : Val :=
  .fin (xor s1 s2) (m1 * m2) (e1 + e2)

/-- Signed mantissa at a common exponent. -/
def alignInt (s : Bool) (m : Nat) (e q : Int) : Int :=
  let v : Int := (m * 2 ^ (e - q).toNat : Nat)
  if s then -v else v

/-- Exact sum of finite values with the zero sign of IEEE 754 (R178's rule is the same). -/
def addFin (rm : Rm) (s1 : Bool) (m1 : Nat) (e1 : Int) (s2 : Bool) (m2 : Nat) (e2 : Int) : Val :=
  let q := min e1 e2
  let v := alignInt s1 m1 e1 q + alignInt s2 m2 e2 q
  if v = 0 then .fin (if s1 = s2 then s1 else rm == .rdn) 0 0
  else .fin (decide (v < 0)) v.natAbs q

/-- Product of values as IEEE 754 multiplication: value and whether it is invalid (∞ × 0). NaN operands pass, the
first in source order (R76, R90). -/
def mulVal (a b : Val) : Val × Fl :=
  match a, b with
  | .nan s g f w, b => (.nan s false f w, if g || b.isSig then flNV else 0)
  | _, .nan s g f w => (.nan s false f w, if g then flNV else 0)
  | .inf s, .inf t => (.inf (xor s t), 0)
  | .inf s, .fin t m _ => if m = 0 then (.defaultNaN, flNV) else (.inf (xor s t), 0)
  | .fin s m _, .inf t => if m = 0 then (.defaultNaN, flNV) else (.inf (xor s t), 0)
  | .fin s m e, .fin t n f => (mulFin s m e t n f, 0)

/-- Sum of values as IEEE 754 addition. -/
def addVal (rm : Rm) (a b : Val) : Val × Fl :=
  match a, b with
  | .nan s g f w, b => (.nan s false f w, if g || b.isSig then flNV else 0)
  | _, .nan s g f w => (.nan s false f w, if g then flNV else 0)
  | .inf s, .inf t => if s = t then (.inf s, 0) else (.defaultNaN, flNV)
  | .inf s, .fin _ _ _ => (.inf s, 0)
  | .fin _ _ _, .inf t => (.inf t, 0)
  | .fin s m e, .fin t n f => (addFin rm s m e t n f, 0)

def negVal : Val → Val
  | .nan s g f w => .nan (!s) g f w
  | .inf s => .inf (!s)
  | .fin s m e => .fin (!s) m e

/-- Fused multiply-add (R169): NaN source order a, b, c; 0 × ∞ raises NV even when c is a quiet NaN. -/
def fmaVal (rm : Rm) (a b c : Val) : Val × Fl :=
  let sg : Fl := if a.isSig || b.isSig || c.isSig then flNV else 0
  match a, b with
  | .nan s _ f w, _ => (.nan s false f w, sg)
  | _, .nan s _ f w => (.nan s false f w, sg)
  | _, _ =>
    let (p, fl) := mulVal a b
    if fl ≠ 0 then
      (match c with
       | .nan s _ f w => (.nan s false f w, flNV)
       | _ => (.defaultNaN, flNV))
    else
      let (r, fl2) := addVal rm p c
      (r, fl2 ||| sg)

/-- An exact quotient of positive magnitudes to at least 128 bits, with its sticky bit. -/
def divMag (m1 : Nat) (e1 : Int) (m2 : Nat) (e2 : Int) : Nat × Int × Bool :=
  let k := 128 + m2.log2
  let n := m1 * 2 ^ k
  (n / m2, e1 - e2 - k, n % m2 != 0)

/-- Division (R169): value, sticky, flags. NaN source order a, b. -/
def divVal (a b : Val) : Val × Bool × Fl :=
  match a, b with
  | .nan s g f w, b => (.nan s false f w, false, if g || b.isSig then flNV else 0)
  | _, .nan s g f w => (.nan s false f w, false, if g then flNV else 0)
  | .inf _, .inf _ => (.defaultNaN, false, flNV)
  | .inf s, .fin t _ _ => (.inf (xor s t), false, 0)
  | .fin s _ _, .inf t => (.fin (xor s t) 0 0, false, 0)
  | .fin s m e, .fin t n f =>
    if n = 0 then (if m = 0 then (.defaultNaN, false, flNV) else (.inf (xor s t), false, flDZ))
    else if m = 0 then (.fin (xor s t) 0 0, false, 0)
    else
      let (q, x, st) := divMag m e n f
      (.fin (xor s t) q x, st, 0)

/-- Integer square root, bit by bit from bit `i` down. -/
def isqrtBits (x : Nat) : Nat → Nat → Nat
  | 0, r => if (r + 1) * (r + 1) ≤ x then r + 1 else r
  | i + 1, r => isqrtBits x i (if (r + 2 ^ (i + 1)) * (r + 2 ^ (i + 1)) ≤ x then r + 2 ^ (i + 1) else r)

def isqrt (x : Nat) : Nat := isqrtBits x (x.log2 / 2 + 1) 0

/-- Square root (R171): value, sticky, flags. -/
def sqrtVal (a : Val) : Val × Bool × Fl :=
  match a with
  | .nan s g f w => (.nan s false f w, false, if g then flNV else 0)
  | .inf s => if s then (.defaultNaN, false, flNV) else (.inf false, false, 0)
  | .fin s m e =>
    if m = 0 then (.fin s 0 0, false, 0)
    else if s then (.defaultNaN, false, flNV)
    else
      let k : Nat := 128 + ((e - 128) % 2).toNat
      let x := m * 2 ^ k
      let r := isqrt x
      (.fin false r ((e - k) / 2), r * r != x, 0)

/-- Reciprocal square root (R171): a zero raises DZ by R171's table, although R169 says that only a division does (the
two conflict; DESIGN CHOICE, log entry 115). -/
def rsqrtVal (a : Val) : Val × Bool × Fl :=
  match a with
  | .nan s g f w => (.nan s false f w, false, if g then flNV else 0)
  | .inf s => if s then (.defaultNaN, false, flNV) else (.fin false 0 0, false, 0)
  | .fin s m e =>
    if m = 0 then (.inf s, false, flDZ)
    else if s then (.defaultNaN, false, flNV)
    else
      let odd := (e % 2).toNat
      let m' := m * 2 ^ odd
      let p := 100 + m'.log2
      let x := 2 ^ (2 * p) / m'
      let r := isqrt x
      (.fin false r (-(e - odd) / 2 - p), r * r * m' != 2 ^ (2 * p), 0)

/-- Bits of the fixed-point bracket in which a power of two is computed (log entry 40). -/
def expBits : Nat := 320

/-- A lower bound of ln 2 × 2^320, less than 321 below it: the sum of 1/(n 2^n). -/
def ln2Fixed : Nat := (List.range expBits).foldl (fun a n => a + 2 ^ expBits / ((n + 1) * 2 ^ (n + 1))) 0

/-- Sum and last term of the exponential series at y / 2^320, n terms after the first, each truncated. -/
def expSeries (y : Nat) : Nat → Nat × Nat
  | 0 => (2 ^ expBits, 2 ^ expBits)
  | n + 1 =>
    let (sum, term) := expSeries y n
    let next := term * y / ((n + 1) * 2 ^ expBits)
    (sum + next, next)

/-- The integer part of 2^(40 + num / 2^k), num below 2^k and not 0: the series' lower bound, whose error of less than
2^20 units of 2^-320 lies far below the distance of the power to an integer multiple of 2^-40 (log entry 40). -/
def exp2Floor (num k : Nat) : Nat := (expSeries (num * ln2Fixed / 2 ^ k) 90).1 / 2 ^ (expBits - 40)

/-- Power of two (R171). A non-integer power is irrational, so its truncation is always sticky. -/
def exp2Val (a : Val) : Val × Bool × Fl :=
  match a with
  | .nan s g f w => (.nan s false f w, false, if g then flNV else 0)
  | .inf s => if s then (.fin false 0 0, false, 0) else (.inf false, false, 0)
  | .fin s m e =>
    if m = 0 then (.fin false 1 0, false, 0)
    else
      let k := (-e).toNat
      let n : Nat := m * 2 ^ e.toNat
      let v : Int := if s then -(n : Int) else n
      let whole : Int := v / 2 ^ k
      let num : Nat := (v - whole * 2 ^ k).toNat
      let clamped : Int := max (-5000) (min 5000 whole)
      if num = 0 then (.fin false 1 clamped, false, 0)
      else (.fin false (exp2Floor num k) (clamped - 40), true, 0)

/-! ### Comparison and rank -/

/-- Order of two values that are not NaN; +0 equals −0. -/
def cmpVal (a b : Val) : Ordering :=
  match a, b with
  | .inf s, .inf t => if s = t then .eq else if s then .lt else .gt
  | .inf s, _ => if s then .lt else .gt
  | _, .inf t => if t then .gt else .lt
  | .fin s m e, .fin t n f =>
    let q := min e f
    compare (alignInt s m e q) (alignInt t n f q)
  | _, _ => .eq

/-- The rank order of R102: every NaN below every number, all NaNs equal, zeros equal. -/
def rankVal (a b : Val) : Ordering :=
  match a.isNaN, b.isNaN with
  | true, true => .eq
  | true, false => .lt
  | false, true => .gt
  | false, false => cmpVal a b

/-- A key that rises along the total order of R101 for the codes of a format. -/
def totalKey (f : EFmt) (code : Nat) : Int :=
  let c := code % 2 ^ f.bits
  if f = .vf8a ∧ c = 0x80 then 2 ^ f.bits
  else if f.isInt then (if 2 ^ (f.bits - 1) ≤ c then (c : Int) - 2 ^ f.bits else c)
  else if 2 ^ (f.bits - 1) ≤ c then -1 - ((c : Int) - 2 ^ (f.bits - 1)) else c

/-! ### Shared scales -/

/-- The scale mode of R85. -/
structure ScaleMode where
  block : Nat
  dir : Bool
  sfmt : Bool
  en : Bool
  top : Nat
  deriving DecidableEq, Repr

def ScaleMode.ofByte (n : Nat) : ScaleMode :=
  ⟨n % 8, n / 8 % 2 == 1, n / 16 % 2 == 1, n / 32 % 2 == 1, n / 64 % 4⟩

/-- The block size in elements; codes above 4 are reserved. -/
def ScaleMode.size (sm : ScaleMode) : Nat := 8 * 2 ^ sm.block

/-- The scale modes that R86 refuses on a format. -/
def ScaleMode.forbidden (f : EFmt) (sm : ScaleMode) : Bool :=
  sm.top != 0 ||
  (sm.en && (decide (4 < sm.block) || f == .f16 || f == .f32 || f == .f64 || f == .int32))

/-- The value of a scale (R88, R89): VS8 code 0xFF is the NaN scale. -/
def scaleVal (sfmt : Bool) (code : Nat) : Val :=
  if sfmt then decodeVal .f16 code
  else if code % 256 = 255 then .defaultNaN else .fin false 1 ((code % 256 : Nat) - 127)

/-- The exponent emax of R91. -/
def emaxOf : EFmt → Int
  | .vf8a => 8 | .vf8b => 15 | .vf6 => 3 | .vf4 => 1 | .int8 => 6 | .int4 => 2 | _ => 0

/-- The largest exponent floor(log2 |v|) of a list of values, none if all are zero. -/
def maxLog : List Val → Option Int
  | [] => none
  | v :: t =>
    match v with
    | .fin _ m e => if m = 0 then maxLog t else
        (match maxLog t with
         | none => some ((m.log2 : Int) + e)
         | some x => some (max x ((m.log2 : Int) + e)))
    | _ => maxLog t

/-- The scale-selection rule of R91: code and flags. -/
def chooseScale (f : EFmt) (vs : List Val) : Nat × Fl :=
  if vs.any (fun v => match v with | .fin _ _ _ => false | _ => true) then (0xFF, flNV)
  else match maxLog vs with
    | none => (0x7F, 0)
    | some l => ((max (-127) (min 127 (l - emaxOf f)) + 127).toNat, 0)

/-- A value divided exactly by a destination scale and delivered (R95), or the code of R98 when the scale cannot
divide: where the format has two NaN codes (VF8b), the one with sign 0 (DESIGN CHOICE, log entry 111). -/
def deliverScaled (f : EFmt) (rm : Rm) (v scale : Val) : Nat × Fl :=
  match scale with
  | .fin ss sm se =>
    if sm = 0 then (nanCode f false 1 1, flNV)
    else match v with
      | .fin s m e =>
        if m = 0 then deliver f rm (.fin (xor s ss) 0 0)
        else
          let (q, x, st) := divMag m e sm se
          deliver f rm (.fin (xor s ss) q x) st
      | .inf s => deliver f rm (.inf (xor s ss))
      | .nan _ _ _ _ => deliver f rm v
  | _ => (nanCode f false 1 1, flNV)

/-- A scaled element that a conversion reads (R90, R97): the product raises no flag of its own, a signalling NaN raises
NV. Of two NaNs the element's is kept (DESIGN CHOICE, log entry 112). -/
def scaledVal (v scale : Val) : Val × Fl := ((mulVal v scale).1, if v.isSig || scale.isSig then flNV else 0)

end Sys2Proof.Machine
end

