-- ==== Sys2Proof/Machine/Blocks.lean ====
section
/-! DEFINITION. Memory blocks under the 36/32 code (R278, R295 to R297): reading a stored block with the upsets it holds. -/

namespace Sys2Proof.Machine

open Sys2Proof

/-- The address of the block of a byte. -/
def blockOf (a : Nat) : Nat := a / 32 * 32

def State.upsetOf (s : State) (a : Nat) : Upset := SMap.get (fun _ => []) s.bad a
def State.setUpset (s : State) (a : Nat) (u : Upset) : State := { s with bad := SMap.set (fun _ => []) s.bad a u }

/-- Read a block that holds the given upset beside those stored: a corrected block is written back, counted and logged
(R297, R502); an uncorrectable one stays and is signalled (R296, R501). -/
def State.readBlock (s : State) (die cls table a : Nat) (u : Upset) : State × Option (List Byte) :=
  let u' := s.upsetOf a ++ u
  let cs := applyUpset (encodeBlock (s.rdN a 32)) u'
  match decodeBlock cs with
  | .clean => ((s.wrN a (cs.take 32)).setUpset a [], some (cs.take 32))
  | .corrected p x =>
    let bs := (applyUpset cs [(p, x)]).take 32
    (((s.wrN a bs).setUpset a []).ceEvent die cls a, some bs)
  | .uncorrectable => ((s.setUpset a u').ueEvent die cls a table, none)

/-- The blocks that a range touches. -/
def blocksOf (a n : Nat) : List Nat :=
  if n = 0 then [] else (List.range ((a + n - 1) / 32 - a / 32 + 1)).map (fun i => 32 * (a / 32 + i))

/-- The blocks that a write of a range does not cover whole. -/
def blocksPart (a n : Nat) : List Nat := (blocksOf a n).filter (fun b => decide (b < a) || decide (a + n < b + 32))

/-- The class of R499 and the die of a physical address in memory. -/
def State.memClass (s : State) (a : Nat) : Nat × Nat :=
  match s.region a with
  | .vault i => (islDie i, 1)
  | .far ch _ => (ch / 16, 2)
  | .sram k _ => (islDie k.isl, 0)
  | _ => (0, 1)

/-- The memory's part of reading some blocks wherever they lie (R297): those that hold an upset are corrected or signalled. -/
def State.readBlocks (s : State) (table : Nat) (l : List Nat) : State :=
  (l.filter (fun b => !(s.upsetOf b).isEmpty)).foldl (fun s b => (s.readBlock (s.memClass b).1 (s.memClass b).2 table b []).1) s

/-- Read the blocks of a range one after the other; the upset is in the first. None when one is uncorrectable. -/
def State.readRange (s : State) (die cls table : Nat) (u : Upset) : List Nat → State × Bool
  | [] => (s, true)
  | a :: t =>
    let (s1, o) := s.readBlock die cls table a u
    match o with
    | none => (s1, false)
    | some _ => State.readRange s1 die cls table [] t

/-- No block of a range holds an upset. -/
def State.plain (s : State) (a n : Nat) : Bool := (blocksOf a n).all (fun b => (s.upsetOf b).isEmpty)

/-- What a decoder delivers of a stored block; none of an uncorrectable one. -/
def State.blockOut (s : State) (b : Nat) : Option (List Byte) :=
  match s.upsetOf b with
  | [] => some (s.rdN b 32)
  | u =>
    let cs := applyUpset (encodeBlock (s.rdN b 32)) u
    match decodeBlock cs with
    | .clean => some (cs.take 32)
    | .corrected p x => some ((applyUpset cs [(p, x)]).take 32)
    | .uncorrectable => none

/-- A range holds an uncorrectable block. -/
def State.spoilt (s : State) (a n : Nat) : Bool := !s.plain a n && (blocksOf a n).any (fun b => (s.blockOut b).isNone)

/-- The bytes that a reader of a range gets (R296). What stands for those of an uncorrectable block, which is not delivered
(R297), is free (log entry 17). -/
def State.decN (s : State) (a n : Nat) : List Byte :=
  if s.plain a n then s.rdN a n
  else
    let bs := (blocksOf a n).flatMap (fun b =>
      (s.blockOut b).getD ((List.range 32).map (fun i => (Config.freeValue (s.free + i)).setWidth 8)))
    (bs.drop (a % 32)).take n

/-- The memory's part of a read (R297): corrected blocks are written back and counted, uncorrectable ones signalled. -/
def State.decode (s : State) (die cls table a n : Nat) : State :=
  if s.plain a n then s
  else { (blocksOf a n).foldl (fun s b => (s.readBlock die cls table b []).1) s with free := s.free + 32 }

/-- Bytes of a cell's local SRAM as a reader gets them. -/
def State.sramN (s : State) (k : CellRef) (off n : Nat) : List Byte := s.decN (sramBase k + off) n

/-- Write a range: a block not written whole is read and corrected first (R278); none of the range is written when one
is uncorrectable. -/
def State.writeRange (s : State) (die cls table a : Nat) (bs : List Byte) (u : Upset) : State × Bool :=
  let n := bs.length
  let (s1, ok) := s.readRange die cls table u (blocksPart a n)
  if ok then
    ((blocksOf a n).foldl (fun s b => s.setUpset b []) (s1.wrN a bs), true)
  else (s1, false)

/-- Write a range that may cover blocks in part (R278): such a block is read and corrected first, and nothing is written when it
is uncorrectable. -/
def State.mergeN (s : State) (a : Nat) (bs : List Byte) : State :=
  if s.plain a bs.length then s.wrN a bs else (s.writeRange (s.memClass a).1 (s.memClass a).2 0 a bs []).1

end Sys2Proof.Machine
end

