-- ==== Sys2Proof/Machine/Fetch.lean ====
section
/-! DEFINITION. Instruction memory words to decoded schedule words (R106, R113, R114, R124, R147, R167, R168, R265) and the
decode faults (R108, R137). -/

namespace Sys2Proof.Machine

open Sys2Proof

/-- Bits [hi:lo] of a slot. -/
def sb (hi lo : Nat) (w : BitVec 32) : Nat := (w.toNat >>> lo) % 2 ^ (hi - lo + 1)
def sbv (n hi lo : Nat) (w : BitVec 32) : BitVec n := BitVec.ofNat n (sb hi lo w)
/-- Every listed range is zero. -/
def mbz (w : BitVec 32) (rs : List (Nat × Nat)) : Bool := rs.all (fun r => sb r.1 r.2 w == 0)

def aluOf : Nat → Option AluF
  | 0 => some .add | 1 => some .sub | 2 => some .and | 3 => some .or | 4 => some .xor | 5 => some .shl
  | 6 => some .shr | 7 => some .sra | 8 => some .minS | 9 => some .maxS | 10 => some .minu | 11 => some .maxu
  | 12 => some .mul | 13 => some .mulhu | 14 => some .mulh | _ => none

def cmpOf : Nat → Option CmpF
  | 0 => some .eq | 1 => some .ne | 2 => some .lt | 3 => some .ge | 4 => some .ltu | 5 => some .geu | _ => none

def plogOf : Nat → Option PlogF
  | 0 => some .and | 1 => some .or | 2 => some .xor | 3 => some .andn | _ => none

def orBad {α β : Type} (b : α) (o : Option β) (f : β → α) : α := match o with | some x => f x | none => b

/-- The S slot (R113, R114). The must-be-zero bits of NOP are [21:0]: "all" is read as the operand fields, so a guarded
NOP is no fault (DESIGN CHOICE, log entry 113). -/
def decodeS (w : BitVec 32) : SOp :=
  let rd := sbv 5 21 17 w
  let ra := sbv 5 16 12 w
  let rb := sbv 5 11 7 w
  let imm := sbv 12 11 0 w
  let pd := sbv 3 19 17 w
  let fr : SOp := .bad K.eFieldReserved
  let chk (rs : List (Nat × Nat)) (o : SOp) : SOp := if mbz w rs then o else fr
  match sb 27 22 w with
  | 0x00 => chk [(21, 0)] .nop
  | 0x01 => orBad fr (aluOf (sb 6 0 w)) (fun f => .alu f rd ra rb)
  | 0x02 => .alui .addi rd ra imm
  | 0x03 => .alui .andi rd ra imm
  | 0x04 => .alui .ori rd ra imm
  | 0x05 => .alui .xori rd ra imm
  | 0x06 => chk [(11, 6)] (.shi .shl rd ra (sbv 6 5 0 w))
  | 0x07 => chk [(11, 6)] (.shi .shr rd ra (sbv 6 5 0 w))
  | 0x08 => chk [(11, 6)] (.shi .sra rd ra (sbv 6 5 0 w))
  | 0x09 => .movi rd (sbv 17 16 0 w)
  | 0x0A => chk [(16, 16)] (.shori rd (sbv 16 15 0 w))
  | 0x10 => chk [(21, 20), (6, 3)] (orBad fr (cmpOf (sb 2 0 w)) (fun f => .cmp f pd ra rb))
  | 0x11 => chk [(21, 20)] (.cmpi .eq pd ra imm)
  | 0x12 => chk [(21, 20)] (.cmpi .ne pd ra imm)
  | 0x13 => chk [(21, 20)] (.cmpi .lt pd ra imm)
  | 0x14 => chk [(21, 20)] (.cmpi .ge pd ra imm)
  | 0x15 => chk [(21, 20)] (.cmpi .ltu pd ra imm)
  | 0x16 => chk [(21, 20)] (.cmpi .geu pd ra imm)
  | 0x18 => chk [(21, 20), (16, 15), (11, 10)]
      (orBad fr (plogOf (sb 6 0 w)) (fun f => .plog f pd (sbv 3 14 12 w) (sbv 3 9 7 w)))
  | 0x20 => .ld 0 rd ra imm
  | 0x21 => .ld 1 rd ra imm
  | 0x22 => .ld 2 rd ra imm
  | 0x23 => .ld 3 rd ra imm
  | 0x24 => .st 0 rd ra imm
  | 0x25 => .st 1 rd ra imm
  | 0x26 => .st 2 rd ra imm
  | 0x27 => .st 3 rd ra imm
  | 0x28 => chk [(16, 12), (11, 5)] (.mfsr rd (sbv 5 4 0 w))
  | 0x29 => chk [(21, 17), (11, 5)] (.mtsr (sbv 5 4 0 w) ra)
  | 0x30 => chk [(21, 12)] (.br imm)
  | 0x31 => chk [(21, 17), (11, 0)] (.brr ra)
  | 0x32 => chk [(21, 12)] (.call imm)
  | 0x33 => chk [(21, 0)] .ret
  | 0x34 => .lsetup (sbv 2 21 20 w) (sbv 8 19 12 w) imm
  | 0x35 => chk [(6, 0)] (.lsetupr (sbv 2 21 20 w) (sbv 8 19 12 w) rb)
  | 0x36 => chk [(21, 17), (16, 15), (11, 0)] (.assertP (sbv 3 14 12 w))
  | 0x37 => chk [(21, 0)] .endP
  | _ => .bad K.eOpcode

/-- The M slot (R147). -/
def decodeM (w : BitVec 32) : MOp :=
  let d := w.getLsbD 23
  let t := sbv 4 22 19 w
  let u := sbv 4 18 15 w
  let idx := sbv 5 14 10 w
  let inc := w.getLsbD 9
  let chk (rs : List (Nat × Nat)) (o : MOp) : MOp := if mbz w rs then o else .bad K.eFieldReserved
  match sb 27 24 w with
  | 0x0 => chk [(23, 0)] .nop
  | 0x1 => chk [(23, 15), (9, 0)] (.mcfg idx)
  | 0x2 => chk [(4, 0)] (.mma d t u idx inc (sbv 4 8 5 w))
  | 0x3 => chk [(22, 0)] (.mclr d)
  | 0x4 => if w.getLsbD 5 then chk [(4, 0), (18, 15), (8, 6)] (.moutRaw d t idx inc)
           else chk [(4, 0)] (.mout d t u idx inc (sbv 3 8 6 w))
  | 0x5 => chk [(18, 15), (8, 0)] (.mmrg d t idx inc)
  | _ => .bad K.eOpcode

def redOf : Nat → Option RedF
  | 0 => some .sum | 1 => some .max | 2 => some .min | 3 => some .argmax | 4 => some .argmin | _ => none

/-- The V slot (R167, R168). -/
def decodeV (w : BitVec 32) : VOp :=
  let vd := sbv 5 21 17 w
  let va := sbv 5 16 12 w
  let vb := sbv 5 11 7 w
  let sbit := w.getLsbD 6
  let ty := sbv 2 5 4 w
  let rm := sbv 3 3 1 w
  let fr : VOp := .bad K.eFieldReserved
  let chk (rs : List (Nat × Nat)) (o : VOp) : VOp := if mbz w rs then o else fr
  match sb 27 22 w with
  | 0x00 => chk [(21, 0)] .nop
  | 0x01 => chk [(0, 0)] (.bin .add vd va vb sbit ty rm)
  | 0x02 => chk [(0, 0)] (.bin .sub vd va vb sbit ty rm)
  | 0x03 => chk [(0, 0)] (.bin .mul vd va vb sbit ty rm)
  | 0x04 => chk [(0, 0)] (.bin .fma vd va vb sbit ty rm)
  | 0x05 => chk [(0, 0)] (.bin .div vd va vb sbit ty rm)
  | 0x06 => chk [(3, 0)] (.minmax false vd va vb sbit ty)
  | 0x07 => chk [(3, 0)] (.minmax true vd va vb sbit ty)
  | 0x08 => chk [(11, 6), (0, 0)] (.un .sqrt vd va ty rm)
  | 0x09 => chk [(11, 6), (0, 0)] (.un .rsqrt vd va ty rm)
  | 0x0A => chk [(11, 6), (0, 0)] (.un .exp2 vd va ty rm)
  | 0x0B => chk [(11, 6), (3, 0)] (.sgn false vd va ty)
  | 0x0C => chk [(11, 6), (3, 0)] (.sgn true vd va ty)
  | 0x10 => chk [(3, 0)] (.cmp .eq vd va vb sbit ty)
  | 0x11 => chk [(3, 0)] (.cmp .lt vd va vb sbit ty)
  | 0x12 => chk [(3, 0)] (.cmp .le vd va vb sbit ty)
  | 0x13 => chk [(3, 0)] (.cmp .un vd va vb sbit ty)
  | 0x14 => chk [(3, 0)] (.sel vd va vb sbit ty)
  | 0x15 => chk [(21, 20), (11, 0)] (.anyAll false (sbv 3 19 17 w) va)
  | 0x16 => chk [(21, 20), (11, 0)] (.anyAll true (sbv 3 19 17 w) va)
  | 0x18 => chk [(5, 0)] (.logic .and vd va vb sbit)
  | 0x19 => chk [(5, 0)] (.logic .or vd va vb sbit)
  | 0x1A => chk [(5, 0)] (.logic .xor vd va vb sbit)
  | 0x1B => chk [(5, 0)] (.logic .shl vd va vb sbit)
  | 0x1C => chk [(5, 0)] (.logic .shr vd va vb sbit)
  | 0x1D => chk [(5, 0)] (.logic .sra vd va vb sbit)
  | 0x20 => chk [(11, 6), (3, 0)] (.bcast vd va ty)
  | 0x21 => chk [(11, 0)] (.iota vd va)
  | 0x22 => chk [(6, 6), (3, 0)] (.ext vd va vb ty)
  | 0x23 => chk [(6, 0)] (.rot vd va vb)
  | 0x28 => chk [(21, 17), (11, 0)] (.cfg va)
  | 0x29 => chk [(3, 0)] (.cvt vd va (sbv 2 11 10 w) (sbv 2 9 8 w) (w.getLsbD 7) (sbv 3 6 4 w))
  | 0x2A => .unpk vd va vb (sbv 4 6 3 w) (w.getLsbD 2) (sbv 2 1 0 w)
  | 0x2B => .pack vd va vb (sbv 4 6 3 w) (w.getLsbD 2) (sbv 2 1 0 w)
  | 0x2C => chk [(16, 12)] (.pot false false vd va vb sbit ty rm (w.getLsbD 0))
  | 0x2D => .pot true false vd va vb sbit ty rm (w.getLsbD 0)
  | 0x2E => chk [(16, 12)] (.pot false true vd va vb sbit ty rm (w.getLsbD 0))
  | 0x2F => .pot true true vd va vb sbit ty rm (w.getLsbD 0)
  | 0x30 => chk [(3, 0)] (orBad fr (redOf (sb 11 9 w))
      (fun f => .tred f vd (sbv 4 16 13 w) (w.getLsbD 12) (sbv 2 8 7 w) (sbv 3 6 4 w)))
  | 0x31 => chk [(3, 0)] (orBad fr (redOf (sb 11 9 w)) (fun f => .red f vd va (sbv 2 8 7 w) (sbv 3 6 4 w)))
  | 0x32 => chk [(6, 6), (3, 0)] (.rank vd va vb ty)
  | 0x38 => chk [(16, 1)] (.getf (w.getLsbD 0) vd)
  | _ => .bad K.eOpcode

/-- The X slot (R124, R265, R313). `mem` is whether the cell is a memory cell: in a compute cell 0x30 to 0x3B name a
unit it lacks (R125). -/
def decodeX (mem : Bool) (w : BitVec 32) : XOp :=
  let a := sbv 5 21 17 w
  let b := sbv 5 16 12 w
  let c := sbv 5 11 7 w
  let idx := sbv 5 5 1 w
  let inc := w.getLsbD 0
  let pd := sbv 3 6 4 w
  let fr : XOp := .bad K.eFieldReserved
  let chk (rs : List (Nat × Nat)) (o : XOp) : XOp := if mbz w rs then o else fr
  let op := sb 27 22 w
  if !mem && 0x30 ≤ op && op ≤ 0x3B then .bad K.eUnitAbsent
  else match op with
  | 0x00 => chk [(21, 0)] .nop
  | 0x01 => .mov (sbv 8 21 14 w) (sbv 8 13 6 w) idx inc
  | 0x02 => chk [(19, 14)] (.send (sbv 2 21 20 w) (sbv 8 13 6 w) idx inc)
  | 0x03 => chk [(11, 6)] (.recv (sbv 8 21 14 w) (sbv 2 13 12 w) idx inc)
  | 0x04 => chk [(15, 0)] (.ctl (sbv 2 21 20 w) (sbv 3 19 17 w) (w.getLsbD 16))
  | 0x08 => chk [(18, 12), (6, 0)] (.sdesc (sbv 3 21 19 w) c)
  | 0x09 => chk [(16, 0)] (.sstart (sbv 2 21 20 w) (sbv 3 19 17 w))
  | 0x0A => chk [(19, 0)] (.sstop (sbv 2 21 20 w))
  | 0x0B => chk [(19, 0)] (.swait (sbv 2 21 20 w))
  | 0x10 =>
    match sb 3 0 w with
    | 0 => .sync .ldfe a b c pd | 1 => .sync .ldff a b c pd | 2 => .sync .ldxx a b c pd | 3 => .sync .ldxe a b c pd
    | _ => fr
  | 0x11 =>
    match sb 3 0 w with
    | 0 => .sync .stef a b c pd | 1 => .sync .stxf a b c pd | 2 => .sync .stxe a b c pd | 3 => .sync .stff a b c pd
    | _ => fr
  | 0x12 => chk [(21, 17)] (
    match sb 3 0 w with
    | 0 => .sync .rwait 0 b c pd | 1 => .sync .rpass 0 b c pd | 2 => .sync .rset 0 b c pd | _ => fr)
  | 0x13 => chk [(6, 0)] (.chsend a b c)
  | 0x30 => chk [(21, 17), (11, 0)] (.svcfg b)
  | 0x31 => if w.getLsbD 21 then chk [(20, 17), (11, 0), (16, 12)] (.svclr true 0)
            else chk [(20, 17), (11, 0)] (.svclr false b)
  | 0x32 => chk [(5, 0)] (.svflush a b c (w.getLsbD 6))
  | _ => .bad K.eOpcode

/-! ### Decode faults of a decoded slot (R108, R137): reserved values of fields, then absent units -/

def badRm (rm : BitVec 3) : Bool := decide (4 < rm.toNat)

/-- Special registers that MFSR reads, and those MTSR writes (R104). -/
def srReadable (sr : BitVec 5) : Bool := decide (sr.toNat ≤ 9)
def srWritable (sr : BitVec 5) : Bool := decide (2 ≤ sr.toNat ∧ sr.toNat ≤ 6)

def SOp.decodeFault : SOp → Option Code
  | .bad c => some c
  | .mfsr _ sr => if srReadable sr then none else some K.eFieldReserved
  | .mtsr sr _ => if srWritable sr then none else some K.eFieldReserved
  | .lsetup n _ _ => if n = 3 then some K.eFieldReserved else none
  | .lsetupr n _ _ => if n = 3 then some K.eFieldReserved else none
  | _ => none

def MOp.decodeFault (mem : Bool) : MOp → Option Code
  | .nop => none
  | .bad c => some c
  | .mout _ _ fmt _ _ rm =>
    if decide (9 < fmt.toNat) || badRm rm then some K.eFieldReserved else if mem then some K.eUnitAbsent else none
  | _ => if mem then some K.eUnitAbsent else none

/-- The reserved values of a V-slot operation's fields (R92, R168, R170, R174). -/
def VOp.badField : VOp → Bool
  | .bin _ _ _ _ _ ty rm => badRm rm || (ty == 0 && rm != 0)
  | .un _ _ _ ty rm => badRm rm || (ty == 0 && rm != 0)
  | .cvt _ _ ta td h rm => badRm rm || (h && ta != 3 && td != 3)
  | .pot _ _ _ _ _ _ ty rm _ => badRm rm || (ty == 0 && rm != 0)
  | .tred _ _ _ _ ty rm => badRm rm || (ty == 0 && rm != 0)
  | .red _ _ _ ty rm => badRm rm || (ty == 0 && rm != 0)
  | .rank vd _ _ _ => vd.getLsbD 0
  | _ => false

def VOp.decodeFault (mem : Bool) : VOp → Option Code
  | .nop => none
  | .bad c => some c
  | v => if v.badField then some K.eFieldReserved else if mem then some K.eUnitAbsent else none

/-- A place code that R123 names. -/
def placeOk (p : BitVec 8) : Bool := decide (p.toNat ≤ 0x33) || p == 0x38
/-- A tile or vector place. -/
def placeUnit (p : BitVec 8) : Bool := decide (p.toNat < 0x30)

def placeFault (mem : Bool) (ps : List (BitVec 8)) : Option Code :=
  if ps.all placeOk then (if mem && ps.any placeUnit then some K.eUnitAbsent else none) else some K.eFieldReserved

def XOp.decodeFault (mem : Bool) : XOp → Option Code
  | .bad c => some c
  | .mov dst src _ _ => placeFault mem [dst, src]
  | .send _ src _ _ => placeFault mem [src]
  | .recv dst _ _ _ => placeFault mem [dst]
  | .svcfg _ => if mem then none else some K.eUnitAbsent
  | .svclr _ _ => if mem then none else some K.eUnitAbsent
  | .svflush _ _ _ _ => if mem then none else some K.eUnitAbsent
  | _ => none

/-- The decode fault of a word: code and slot, the slots in the order S, M, V, X (R137). -/
def HWord.decodeFault (mem : Bool) (w : HWord) : Option (Code × Nat) :=
  match w.s.decodeFault with
  | some c => some (c, 0)
  | none =>
    match w.m.decodeFault mem with
    | some c => some (c, 1)
    | none =>
      match w.v.decodeFault mem with
      | some c => some (c, 2)
      | none => (w.x.decodeFault mem).map (fun c => (c, 3))

/-- The 128-bit word at a word address of instruction memory (R106). In a memory cell a non-zero M or V slot is a fault; a reserved
opcode or field of it comes before the absent unit (R137). -/
def fetchWord (mem : Bool) (imem : Bytes) (w : Nat) : HWord :=
  let slot (i : Nat) : BitVec 32 := BitVec.ofNat 32 (imem.readLE (16 * w + 4 * i) 4)
  let g (i : Nat) : BitVec 4 := (slot i).extractLsb' 28 4
  let m := decodeM (slot 1)
  let v := decodeV (slot 2)
  { sg := g 0, s := decodeS (slot 0),
    mg := g 1, m := if mem && slot 1 ≠ 0 then .bad ((m.decodeFault false).getD K.eUnitAbsent) else m,
    vg := g 2, v := if mem && slot 2 ≠ 0 then .bad ((v.decodeFault false).getD K.eUnitAbsent) else v,
    xg := g 3, x := decodeX mem (slot 3) }

end Sys2Proof.Machine
end

