-- ==== Sys2Proof/Machine/SieveCore.lean ====
section
/-! DEFINITION. The sieve (R258 to R266): the selection order, lists, intake of a write that lands in SRAM, flush images. -/

namespace Sys2Proof.Machine

open Sys2Proof

/-! ### Pairs and the selection order (R258, R259) -/

abbrev Pair := BitVec 128
def pairKey (p : Pair) : Nat := (p.extractLsb' 0 64).toNat
def pairScore (p : Pair) : Nat := (p.extractLsb' 64 32).toNat
def pairList (p : Pair) : Nat := (p.extractLsb' 96 6).toNat
def pairValid (p : Pair) : Bool := p.getLsbD 127

/-- The score formats of R261. -/
def sieveFmt (sfmt : Nat) : EFmt := if sfmt = 0 then .f16 else if sfmt = 1 then .f32 else .int32
def scoreCode (f : EFmt) (p : Pair) : Nat := if f = .f16 then pairScore p % 2 ^ 16 else pairScore p

/-- The selection order of R259 over (score code, key): lt when the first comes before the second. -/
def selectCmp (f : EFmt) (c1 k1 c2 k2 : Nat) : Ordering :=
  match rankVal (decodeVal f c1) (decodeVal f c2) with
  | .gt => .lt
  | .lt => .gt
  | .eq => if k1 < k2 then .lt else if k2 < k1 then .gt else compare (totalKey f c2) (totalKey f c1)

def pairCmp (f : EFmt) (x y : Pair) : Ordering :=
  selectCmp f (scoreCode f x) (pairKey x) (scoreCode f y) (pairKey y)

/-- Insert a pair behind those that come before it or tie with it. -/
def pairInsert (f : EFmt) (x : Pair) : List Pair → List Pair
  | [] => [x]
  | y :: t => if pairCmp f x y == .lt then x :: y :: t else y :: pairInsert f x t

/-- What a list keeps of a pair: key and score code. The bits that R258 calls ignored are 0, so that a list depends on the
multiset of pairs alone (R260; DESIGN CHOICE, log entry 118). -/
def pairKept (f : EFmt) (p : Pair) : Pair := BitVec.ofNat 128 (pairKey p + scoreCode f p * 2 ^ 64)

/-- The list after one more pair: the first k (R260). -/
def listTake (f : EFmt) (k : Nat) (x : Pair) (l : List Pair) : List Pair := (pairInsert f (pairKept f x) l).take k

/-! ### Configuration (R261) -/

def svW (c : BitVec 37) : Word := c.setWidth 64
def svK (c : BitVec 37) : Nat := field 9 0 (svW c) + 1
def svFmt (c : BitVec 37) : EFmt := sieveFmt (field 11 10 (svW c))
def svLists (c : BitVec 37) : Nat := 2 ^ field 14 12 (svW c)
def svSeat (c : BitVec 37) : Bool := bit 15 (svW c)
def svABase (c : BitVec 37) : Nat := 4096 * field 23 16 (svW c)
/-- The list area of R262, in whole 4 KiB units. -/
def svASize (c : BitVec 37) : Nat := 4096 * ((svLists c * svK c * 16 + 4095) / 4096)
def svWBase (c : BitVec 37) : Nat := 4096 * field 31 24 (svW c)
def svWSize (c : BitVec 37) : Nat := 4096 * 2 ^ field 34 32 (svW c)
def svEn (c : BitVec 37) : Bool := bit 36 (svW c)

/-- Two byte ranges overlap. -/
def overlap (a n b m : Nat) : Bool := decide (0 < n) && decide (0 < m) && decide (a < b + m) && decide (b < a + n)

/-! ### Intake (R263, R264) -/

/-- Take the pairs of a beat in order; stops at a pair whose list does not exist. The flag says whether it stopped. -/
def sieveTake (f : EFmt) (k lists : Nat) (seat : Option Nat) :
    List Pair → SMap (List Pair) → Nat → SMap (List Pair) × Nat × Bool
  | [], m, n => (m, n, false)
  | p :: t, m, n =>
    if ¬ pairValid p then sieveTake f k lists seat t m n
    else
      let l := match seat with | some x => x | none => pairList p
      if lists ≤ l then (m, n, true)
      else sieveTake f k lists seat t
        (SMap.set (fun _ => []) m l (listTake f k p (SMap.get (fun _ => []) m l))) (n + 1)

/-- The pairs of a run of bytes, sixteen at a time. -/
def pairsOf : List Byte → List Pair
  | b0 :: b1 :: b2 :: b3 :: b4 :: b5 :: b6 :: b7 :: b8 :: b9 :: b10 :: b11 :: b12 :: b13 :: b14 :: b15 :: t =>
    BitVec.ofNat 128 (leNat [b0, b1, b2, b3, b4, b5, b6, b7, b8, b9, b10, b11, b12, b13, b14, b15]) :: pairsOf t
  | _ => []

/-- A range meets the intake window, or the list area, of an enabled sieve. -/
def State.inWin (s : State) (k : CellRef) (off n : Nat) : Bool :=
  let c := (s.cell k).sieve.cfg
  isMemCell k && svEn c && overlap off n (svWBase c) (svWSize c)
def State.inArea (s : State) (k : CellRef) (off n : Nat) : Bool :=
  let c := (s.cell k).sieve.cfg
  isMemCell k && svEn c && overlap off n (svABase c) (svASize c)

/-- Lists that the spec calls undefined: free values within the configured shape (R262, R267; log entry 12). -/
def freeLists (n : Nat) (v : Sieve) : SMap (List (BitVec 128)) :=
  let l := Config.killedLists n
  (List.range (svLists v.cfg)).foldl (fun m i =>
    SMap.set (fun _ => []) m i (((l.find? (fun x => x.1 == i)).map Prod.snd).getD [] |>.take (svK v.cfg))) []

/-- An access of the sequencer, a stream or another agent to the list area: the lists are undefined from then on (R262). -/
def State.breach (s : State) (k : CellRef) : State :=
  { s.updCell k (fun c => { c with sieve := { c.sieve with lists := freeLists s.free c.sieve } }) with free := s.free + 1 }
def State.touchArea (s : State) (k : CellRef) (off n : Nat) : State := if s.inArea k off n then s.breach k else s

/-- The pairs of bytes that lie in the window go to their lists (R263). -/
def State.feed (s : State) (k : CellRef) (off : Nat) (bs : List Byte) (seat : Option (BitVec 6)) : State :=
  let sv := (s.cell k).sieve
  let c := sv.cfg
  let lo := max off (svWBase c)
  let hi := min (off + bs.length) (svWBase c + svWSize c)
  let inw := (bs.drop (lo - off)).take (hi - lo)
  let seat' := if svSeat c then seat.map BitVec.toNat else none
  let (m, n, bad) := sieveTake (svFmt c) (svK c) (svLists c) seat' (pairsOf inw) sv.lists 0
  let s2 := (s.updCell k (fun x => { x with sieve := { x.sieve with lists := m } })).incFld (R.sieveStat k) 39 0 n
  if bad then s2.faultNoWord k K.eFieldReserved else s2

/-- Bytes land in a cell's SRAM (R255, R263, R264). `seat` is the seat tag of an XRECV's token. A fault is recorded at the
cell; the island's part follows (`State.raiseFaults`). -/
def State.sramLand (s : State) (k : CellRef) (off : Nat) (bs : List Byte) (seat : Option (BitVec 6)) : State :=
  let s1 := (s.touchArea k off bs.length).wrN (sramBase k + off) bs
  if ¬ s.inWin k off bs.length then s1
  else if off % 32 ≠ 0 ∨ bs.length % 32 ≠ 0 then s1.faultNoWord k K.eAlign
  else s1.feed k off bs seat

/-- A mesh write into the window of an earlier command of the cell's table (R264). -/
def State.sieveStale (s : State) (k : CellRef) (off n : Nat) (mesh : Option (Nat × BitVec 8)) : Bool :=
  s.inWin k off n && (match mesh with
    | some (t, e) => t == (s.isl k.isl).table && e != s.ecmd t
    | none => false)

/-- The beats of a write from byte `off` on. -/
def beatsOf (off : Nat) (mesh : Option (Nat × BitVec 8)) (bs : List Byte) : List Intake :=
  (List.range (bs.length / 32)).map (fun i => ⟨off + 32 * i, (bs.drop (32 * i)).take 32, i == 0, mesh⟩)

/-- A write of a stream engine or of the mesh port (R263, R264): into the window of a running cell it goes through lane 1,
one beat in an island cycle; the first lands at once if the lane is free. -/
def State.sramLane (s : State) (k : CellRef) (off : Nat) (bs : List Byte) (mesh : Option (Nat × BitVec 8)) : State :=
  if s.sieveStale k off bs.length mesh then s.satFld (R.sieveStat k) 55 40 1
  else
    let c := s.cell k
    if s.inWin k off bs.length ∧ off % 32 = 0 ∧ bs.length % 32 = 0 ∧ c.run = .running ∧ ¬ s.islFaulted k.isl ∧
        (32 < bs.length ∨ ¬ c.sieve.intake.isEmpty) then
      let free := c.sieve.intake.isEmpty
      let l := beatsOf off mesh bs
      let s1 := if free then s.raiseFaults k.isl (s.sramLand k off (bs.take 32) none) else s
      s1.updCell k (fun c => { c with sieve := { c.sieve with intake := c.sieve.intake ++ (if free then l.drop 1 else l) } })
    else s.raiseFaults k.isl (s.sramLand k off bs none)

/-- Waiting beats land: one in an island cycle of a running cell, counting whether a write waits (R273); all of them once
the cell has stopped. -/
def State.intakeStep (s : State) (k : CellRef) : State :=
  let c := s.cell k
  match c.sieve.intake with
  | [] => s
  | b :: r =>
    let n := if c.run = .running then 1 else (b :: r).length
    let rest := (b :: r).drop n
    let s1 := s.updCell k (fun c => { c with sieve := { c.sieve with intake := rest } })
    let s2 := ((b :: r).take n).foldl (fun s b => s.sramLand k b.off b.bytes none) s1
    if rest.any Intake.head then s2.incFld (R.sieveHold k) 47 0 1 else s2

/-! ### Flush images (R266) -/

/-- An entry of format 0: list set to the list number, valid set. -/
def flushPair (l : Nat) (p : Pair) : List Byte := leBytes 16 (p.toNat % 2 ^ 96 + (l % 64) * 2 ^ 96 + 2 ^ 127)

/-- An entry of format 1: score in bytes 0 to 3, key in bytes 4 to 11. -/
def flushShort (f : EFmt) (p : Pair) : List Byte := leBytes 4 (scoreCode f p) ++ leBytes 8 (pairKey p)

/-- Pad bytes with zeros to a whole beat. -/
def padBeat (bs : List Byte) : List Byte := bs ++ List.replicate ((32 - bs.length % 32) % 32) 0

def flushImage (f : EFmt) (fmt1 : Bool) (l : Nat) (ps : List Pair) : List Byte :=
  padBeat (ps.flatMap (fun p => if fmt1 then flushShort f p else flushPair l p))

end Sys2Proof.Machine
end

