-- ==== Sys2Proof/Machine/StreamWalk.lean ====
section
/-! DEFINITION. Stream descriptors (R191) and their walk (R192 to R194): how many beats a stream has, and the virtual
address of every byte of a beat. -/

namespace Sys2Proof.Machine

open Sys2Proof

structure Desc where
  base : Nat
  fmt : Nat
  sm : ScaleMode
  dir : Bool
  sbase : Nat
  c0 : Nat
  c1 : Nat
  c2 : Nat
  c3 : Nat
  c4 : Nat
  runahead : Nat
  st : List Nat
  sk : Nat
  sr : Nat
  ss : List Nat
  ring : Nat
  ringLog2 : Nat
  deriving DecidableEq, Repr

/-- Word i of a descriptor's 128 bytes. -/
def descWord (bs : List Byte) (i : Nat) : Nat := leNat ((bs.drop (8 * i)).take 8)

def Desc.ofBytes (bs : List Byte) : Desc :=
  let w := descWord bs
  let lo48 (x : Nat) := x % 2 ^ 48
  { base := lo48 (w 0), fmt := w 0 / 2 ^ 48 % 16, sm := ScaleMode.ofByte (w 0 / 2 ^ 52 % 256),
    dir := w 0 / 2 ^ 60 % 2 == 1, sbase := lo48 (w 1),
    c0 := w 2 % 2 ^ 32, c1 := w 2 / 2 ^ 32, c2 := w 3 % 2 ^ 32, c3 := w 3 / 2 ^ 32, c4 := w 4 % 2 ^ 32,
    runahead := w 4 / 2 ^ 32,
    st := [lo48 (w 5), lo48 (w 6), lo48 (w 7), lo48 (w 8), lo48 (w 9)],
    sk := lo48 (w 10), sr := lo48 (w 11), ss := [lo48 (w 12), lo48 (w 13), lo48 (w 14)],
    ring := w 15 % 1024, ringLog2 := w 15 / 1024 % 32 }

/-- The must-be-zero bits of R191. -/
def descReservedZero (bs : List Byte) : Bool :=
  let w := descWord bs
  w 0 / 2 ^ 61 == 0 && w 1 / 2 ^ 48 == 0 && (List.range 10).all (fun i => w (5 + i) / 2 ^ 48 == 0) && w 15 / 2 ^ 15 == 0

def ceilDiv (a b : Nat) : Nat := (a + b - 1) / b

def Desc.efmt (d : Desc) : EFmt := (EFmt.ofCode d.fmt).getD .int8
/-- Formats whose elements are packed below a byte (R193). -/
def Desc.subByte (d : Desc) : Bool := d.efmt == .int4 || d.efmt == .vf4 || d.efmt == .vf6
def Desc.esz (d : Desc) : Nat := d.efmt.bits / 8
def Desc.stride (d : Desc) (i : Nat) : Nat := d.st.getD i 0

/-- Bytes of one run (R193). -/
def Desc.runBytes (d : Desc) : Nat :=
  match d.efmt with
  | .int4 => ceilDiv d.c0 2
  | .vf4 => ceilDiv d.c0 2
  | .vf6 => 3 * ceilDiv d.c0 4
  | _ => d.c0 * d.esz
def Desc.runBeats (d : Desc) : Nat := ceilDiv d.runBytes 32

/-- The scale list of a plate (R194). -/
def Desc.scaleRows (d : Desc) : Nat := if d.sm.dir then ceilDiv d.c1 (min d.sm.size d.c1) else d.c1
def Desc.scaleCols (d : Desc) : Nat := if d.sm.dir then d.c0 else ceilDiv d.c0 (min d.sm.size d.c0)
def Desc.scaleSize (d : Desc) : Nat := if d.sm.sfmt then 2 else 1
def Desc.listBytes (d : Desc) : Nat := if d.sm.en then d.scaleRows * d.scaleCols * d.scaleSize else 0
def Desc.listBeats (d : Desc) : Nat := ceilDiv d.listBytes 32

def Desc.plateBeats (d : Desc) : Nat := d.listBeats + d.c1 * d.runBeats
def Desc.totalBeats (d : Desc) : Nat := d.plateBeats * d.c2 * d.c3 * d.c4

/-- Whether beat b is part of a scale list. -/
def Desc.isScale (d : Desc) (b : Nat) : Bool := decide (b % d.plateBeats < d.listBeats)

/-- The virtual address of byte j of beat b, none where the beat is padding. -/
def Desc.byteVA (d : Desc) (b j : Nat) : Option Nat :=
  let plate := b / d.plateBeats
  let r := b % d.plateBeats
  let i2 := plate % d.c2
  let i3 := plate / d.c2 % d.c3
  let i4 := plate / (d.c2 * d.c3)
  if r < d.listBeats then
    let q := 32 * r + j
    if q < d.listBytes then
      let n := q / d.scaleSize
      some ((d.sbase + i4 * d.ss.getD 2 0 + i3 * d.ss.getD 1 0 + i2 * d.ss.getD 0 0
        + n / d.scaleCols * d.sr + n % d.scaleCols * d.sk + q % d.scaleSize) % 2 ^ 48)
    else none
  else
    let r' := r - d.listBeats
    let i1 := r' / d.runBeats
    let q := 32 * (r' % d.runBeats) + j
    if q < d.runBytes then
      let a := d.base + i4 * d.stride 4 + i3 * d.stride 3 + i2 * d.stride 2 + i1 * d.stride 1
      if d.subByte then some ((a + q) % 2 ^ 48)
      else
        let e := if d.stride 0 = 0 then d.esz else d.stride 0
        some ((a + q / d.esz * e + q % d.esz) % 2 ^ 48)
    else none

/-- The used bits of byte j of beat b (R73, R193): the last byte or group of a run of packed elements may have unused
positions, which are 0. -/
def Desc.byteMask (d : Desc) (b j : Nat) : Byte :=
  let r := b % d.plateBeats
  if r < d.listBeats ∨ ¬ d.subByte then 0xFF
  else
    let q := 32 * ((r - d.listBeats) % d.runBeats) + j
    let used := d.c0 * d.efmt.bits - 8 * q
    if 8 ≤ used then 0xFF else BitVec.ofNat 8 (2 ^ used - 1)

/-- A 48-bit stride as the signed count it is (R191). -/
def stride48 (x : Nat) : Int := if 2 ^ 47 ≤ x then (x : Int) - 2 ^ 48 else x

/-- The checks of SSTART (R195) beyond the slot's state, in the table's order; the code of the first that fails. -/
def Desc.check (bs : List Byte) (sramBytes : Nat) : Option Nat :=
  let d := Desc.ofBytes bs
  let log2max := sramBytes.log2
  if !descReservedZero bs || decide (9 < d.fmt) || d.sm.forbidden d.efmt
      || d.c0 == 0 || d.c1 == 0 || d.c2 == 0 || d.c3 == 0 || d.c4 == 0
      || decide (d.ringLog2 < 10) || decide (log2max < d.ringLog2)
      || (d.subByte && d.stride 0 != 0) || decide (1024 < d.listBytes) then some 0x0102
  else if d.ring * 1024 % 2 ^ d.ringLog2 ≠ 0 then some 0x0105
  else if sramBytes < d.ring * 1024 + 2 ^ d.ringLog2 then some 0x0104
  else if (decide (16 ≤ d.efmt.bits) && (d.base :: d.st).any (fun x => x % d.esz != 0))
      || (d.efmt == .vf6 && (d.base % 3 != 0 || (d.st.drop 1).any (fun x => stride48 x % 3 != 0))) then some 0x0105
  else none

end Sys2Proof.Machine
end

