-- ==== Sys2Proof/Machine/Operands.lean ====
section
/-! DEFINITION. Operand forms: what an evaluated slot asks for, immediates, special registers (R104), local SRAM addresses
(R116), and the places of the X slot (R123). -/

namespace Sys2Proof.Machine

open Sys2Proof

/-- Where the sequencer goes after a word (R117 to R121). `branch` ends the loops whose body the target leaves. -/
inductive Ctl where
  | seq
  | branch (t : Nat)
  | call (t : Nat)
  | ret (t : Nat)
  | loop (l : Loop)
  | stop
  deriving DecidableEq, Repr

/-- What a slot does at once when its word issues; `touch` is what a read of local
SRAM does where it meets an upset or the sieve's list area (R262, R297). -/
inductive Act where
  | send (port : Nat) (t : Token)
  | take (port : Nat)
  | popBeat (e : Nat)
  | pushBeat (e : Nat) (bs : List Byte)
  | start (e slot : Nat)
  | stop (e : Nat)
  | syncDone
  | chsend (handle : Word) (bs : List Byte)
  | svcfg (v : Word)
  | svclr (l : Option Nat)
  | svflush (l at_ word : Nat) (f : Bool)
  | touch (off n : Nat)
  deriving DecidableEq, Repr

/-- An evaluated slot: a fault, or its writes with their latencies, its control flow and its actions. -/
structure SlotOut where
  fault : Option Code := none
  writes : List (Nat × PW) := []
  ctl : Ctl := .seq
  acts : List Act := []
  deriving DecidableEq, Repr

def SlotOut.bad (c : Code) : SlotOut := { fault := some c }
def SlotOut.one (lat : Nat) (w : PW) : SlotOut := { writes := [(lat, w)] }

/-- A read of local SRAM is nothing but that: it meets no upset and no list area of a sieve. -/
def State.plainRead (s : State) (k : CellRef) (off n : Nat) : Bool := s.plain (sramBase k + off) n && !s.inArea k off n

/-- What a read of local SRAM does beside giving its bytes (R262, R297). -/
def State.readActs (s : State) (k : CellRef) (off n : Nat) : List Act := if s.plainRead k off n then [] else [.touch off n]

/-- The sign-extended imm12 (R113). -/
def imm64 (imm : BitVec 12) : Word := imm.signExtend 64

/-- Local SRAM address checks (R116): alignment, then range. -/
def sramCheck (k : CellRef) (a n : Nat) : Option Code :=
  if a % n ≠ 0 then some K.eAlign else if sramSize k < a + n then some K.eSramRange else none

/-- MFSR (R104). -/
def State.readSr (s : State) (k : CellRef) (sr : Nat) : Word :=
  let c := s.cell k
  match sr with
  | 0 => s.reg (R.islTpos k.isl)
  | 1 => BitVec.ofNat 64 (k.c % 4 + 4 * (k.c / 4) + 16 * b2n (isMemCell k))
  | 2 => c.flags.setWidth 64
  | 3 => c.lc0.setWidth 64
  | 4 => c.lc1.setWidth 64
  | 5 => c.lc2.setWidth 64
  | 6 => c.seat.setWidth 64
  | 7 => (s.isl k.isl).epoch.setWidth 64
  | 8 => s.reg (R.islCycle k.isl)
  | 9 => s.gtime
  | _ => 0

/-- MTSR (R104). -/
def srWrite (sr : Nat) (v : Word) : PW :=
  match sr with
  | 2 => .flagClr (v.setWidth 5)
  | 3 => .lc 0 (v.setWidth 32)
  | 4 => .lc 1 (v.setWidth 32)
  | 5 => .lc 2 (v.setWidth 32)
  | _ => .seat (v.setWidth 6)

/-! ### Places (R123) -/

inductive Place where
  | tile (t : Nat)
  | vreg (v : Nat)
  | stream (e : Nat)
  | sram
  deriving DecidableEq, Repr

def placeOf (p : BitVec 8) : Place :=
  let n := p.toNat
  if n < 0x10 then .tile n else if n < 0x30 then .vreg (n - 0x10) else if n < 0x34 then .stream (n - 0x30) else .sram

/-- The byte address of the beat of a tile or vector place, for an index value; `withSram` when the move also names
local SRAM. -/
def placeAddr (p : Place) (idx : Nat) (withSram : Bool) : Nat :=
  let b := if withSram then idx / 32 else idx
  match p with
  | .tile t => 2048 * t + 32 * (b % 64)
  | .vreg v => 256 * v + 32 * (b % 8)
  | _ => 0

/-- The descriptor bound to an engine. -/
def Cell.descOf (c : Cell) (slot : Nat) : Desc := Desc.ofBytes (c.desc.readN (128 * slot) 128)

/-- Beats that an engine's ring holds (R191). -/
def ringBeats (d : Desc) : Nat := 2 ^ d.ringLog2 / 32

/-- The SRAM offset of a beat of a walk in the ring. -/
def ringAt (d : Desc) (b : Nat) : Nat := d.ring * 1024 + 32 * (b % ringBeats d)

/-- A stream place that may be used (R198): running or halted, in the right direction. A push also needs the walk's
beats not to be exhausted, which a running engine never has. -/
def Engine.placeOk (e : Engine) (out : Bool) : Bool :=
  e.dir == out && (e.state == .running || (e.state == .halted && (!out || e.prev == .running)))

/-- The head beat of an inbound engine has landed. -/
def Engine.headLanded (e : Engine) : Bool :=
  match e.ring with
  | [] => false
  | b :: _ => b.need == 0

/-- The address checks of a place with its index (R123): alignment, range, engine state. -/
def State.placeFault (s : State) (k : CellRef) (p : Place) (idx : Word) (out : Bool) : Option Code :=
  match p with
  | .sram => if idx.toNat % 32 ≠ 0 then some K.eAlign
             else if sramSize k < idx.toNat + 32 then some K.eSramRange else none
  | .stream e => if ((s.cell k).eng e).placeOk out then none else some K.eStreamState
  | _ => none

/-- The beat a source place gives. -/
def State.readPlace (s : State) (k : CellRef) (p : Place) (idx : Word) (withSram : Bool) : List Byte :=
  let c := s.cell k
  match p with
  | .tile _ => c.tile.readN (placeAddr p idx.toNat withSram) 32
  | .vreg _ => c.vreg.readN (placeAddr p idx.toNat withSram) 32
  | .stream e =>
    match (c.eng e).ring with
    | [] => []
    | b :: _ => s.sramN k (ringAt (c.descOf (c.eng e).slot) b.idx) 32
  | .sram => s.sramN k idx.toNat 32

/-- What reading a source place does beside giving its beat. -/
def State.placeActs (s : State) (k : CellRef) (p : Place) (idx : Word) : List Act :=
  let c := s.cell k
  match p with
  | .stream e =>
    match (c.eng e).ring with
    | [] => []
    | b :: _ => s.readActs k (ringAt (c.descOf (c.eng e).slot) b.idx) 32
  | .sram => s.readActs k idx.toNat 32
  | _ => []

/-- The writes and actions that put a beat in a destination place, with latency `lat`. -/
def writePlace (p : Place) (idx : Word) (withSram : Bool) (lat : Nat) (bs : List Byte) (seat : Option (BitVec 6)) :
    List (Nat × PW) × List Act :=
  match p with
  | .tile _ => ([(lat, .tile (placeAddr p idx.toNat withSram) bs)], [])
  | .vreg _ => ([(lat, .vreg (placeAddr p idx.toNat withSram) bs)], [])
  | .stream e => ([], [.pushBeat e bs])
  | .sram => ([(lat, .sram idx.toNat bs seat)], [])

/-- The post-increment of R123: 32 when a place is local SRAM, 1 otherwise; none for S0. -/
def postInc (c : Cell) (idx : BitVec 5) (inc : Bool) (withSram : Bool) : List (Nat × PW) :=
  if inc ∧ idx ≠ 0 then [(1, .s idx.toNat (c.rs idx + (if withSram then 32 else 1)))] else []

end Sys2Proof.Machine
end

