-- ==== Sys2Proof/Machine/Flags.lean ====
section
/-! DEFINITION. Flag writes (R183, R184): the lane flags of an instruction and their OR into the cell flag register. -/

namespace Sys2Proof.Machine

open Sys2Proof

/-- The OR of the flags of some lanes. -/
def flagsOr (l : List (Nat × Fl)) : Fl := l.foldl (fun a e => a ||| e.2) 0

/-- The writes that raise the flags of lanes, visible with the instruction's result (R183, R184). -/
def flagWrites (lat : Nat) (l : List (Nat × Fl)) : List (Nat × PW) :=
  let l' := l.filter (fun e => e.2 ≠ 0)
  if l'.isEmpty then [] else [(lat, .lanes l'), (lat, .flags (flagsOr l'))]

/-- MOUT raises its flags in the cell flag register only (R159, R183). -/
def cellFlagWrites (lat : Nat) (f : Fl) : List (Nat × PW) := if f = 0 then [] else [(lat, .flags f)]

/-- NV, OF, UF and NX of a pot entry's nv, po, uf and px bits (R155, R160). -/
def potFlags (e : PotEntry) : Fl :=
  (if e.nv then flNV else 0) ||| (if e.po then flOF else 0) ||| (if e.uf then flUF else 0) ||| (if e.px then flNX else 0)

/-- OF when an exact integer lies outside INT32 (R154, R170, R181). -/
def ofInt32 (v : Int) : Fl := if v < -(2 ^ 31) ∨ 2 ^ 31 ≤ v then flOF else 0

end Sys2Proof.Machine
end

