-- ==== Sys2Proof/Machine/Matrix.lean ====
section
/-! DEFINITION. The matrix engine (05): operand pairs, slices, the exact pots in their three modes, read-out and merge. -/

namespace Sys2Proof.Machine

open Sys2Proof

/-! ### Configuration and operand pairs (R146, R148, R163) -/

def mcFa (w : Word) : Nat := field 3 0 w
def mcSma (w : Word) : ScaleMode := ScaleMode.ofByte (field 11 4 w)
def mcFb (w : Word) : Nat := field 15 12 w
def mcSmb (w : Word) : ScaleMode := ScaleMode.ofByte (field 23 16 w)
/-- A 10-bit two's-complement exponent. -/
def pe10 (n : Nat) : Int := if 512 ≤ n % 1024 then (n % 1024 : Nat) - 1024 else (n % 1024 : Nat)
def mcPe (w : Word) : Int := pe10 (field 33 24 w)
def mcRm (w : Word) : Nat := field 36 34 w

/-- One row of R146: mode, pot rows of a slice, K of a slice, elements per tile row, chunks per row, slices. -/
structure PairShape where
  mode : PMode
  g : Nat
  kc : Nat
  row : Nat
  c : Nat
  ns : Nat
  deriving DecidableEq, Repr

def EFmt.is8 (f : EFmt) : Bool := f == .int8 || f == .vf8a || f == .vf8b
def EFmt.is4 (f : EFmt) : Bool := f == .int4 || f == .vf4

def pairShape (fa fb : EFmt) (sa sb : Bool) : Option PairShape :=
  if fa = .f32 ∧ fb = .f32 then some ⟨.f32, 1, 4, 16, 4, 128⟩
  else if fa = .f16 ∧ fb = .f16 then some ⟨.fx, 1, 16, 32, 2, 64⟩
  else if fa.is8 ∧ fb.is8 then
    some ⟨if fa = .int8 ∧ fb = .int8 ∧ ¬ sa ∧ ¬ sb then .int else .fx, 1, 32, 64, 2, 64⟩
  else if fa = .vf6 ∧ fb = .vf6 then some ⟨.fx, 2, 32, 64, 2, 32⟩
  else if fa.is4 ∧ fb.is4 then
    some ⟨if fa = .int4 ∧ fb = .int4 ∧ ¬ sa ∧ ¬ sb then .int else .fx, 2, 32, 128, 4, 64⟩
  else none

def fmtA (w : Word) : EFmt := (EFmt.ofCode (mcFa w)).getD .int4
def fmtB (w : Word) : EFmt := (EFmt.ofCode (mcFb w)).getD .int4
def mcPair (w : Word) : Option PairShape := pairShape (fmtA w) (fmtB w) (mcSma w).en (mcSmb w).en

/-- The faults of MCFG (R148). -/
def mcfgFault (w : Word) : Option Code :=
  if decide (9 < mcFa w) || decide (9 < mcFb w) || (mcSma w).forbidden (fmtA w) || (mcSmb w).forbidden (fmtB w)
      || decide (4 < mcRm w) || field 63 37 w != 0 then some K.eFieldReserved
  else if (mcPair w).isNone then some K.eShape else none

/-! ### Tiles (R71, R145, R150) -/

/-- The codes of a tile row: `n` elements of `bits` bits, packed from the row's first byte. -/
def rowCodes (tile : Bytes) (t r bits n : Nat) : List Nat :=
  let w := tile.readLE (2048 * t + 64 * r) 64
  (List.range n).map (fun i => (w >>> (i * bits)) % 2 ^ bits)

/-- The scale index of R150 for tile row r and element k. -/
def scaleIndex (sm : ScaleMode) (perRow r k : Nat) : Nat :=
  if sm.dir then r / min sm.size 32 * perRow + k
  else r * ((perRow + min sm.size perRow - 1) / min sm.size perRow) + k / min sm.size perRow

/-- A scale of a half of the scale tile (R150): `base` is 0 for A, 1,024 for B. -/
def scaleAt (tile : Bytes) (st base : Nat) (sm : ScaleMode) (i : Nat) : Val :=
  if sm.sfmt then scaleVal true (tile.readLE (2048 * st + base + 2 * i) 2)
  else scaleVal false (tile.readLE (2048 * st + base + i) 1)

/-- The binary16 code of a NaN value, quieted (R152); 0 of any other value. -/
def nanF16 (v : Val) : BitVec 16 :=
  match v with
  | .nan s _ f w => BitVec.ofNat 16 (nanCode .f16 s f w)
  | _ => 0

/-- An operand element with its scale applied (R90): value, whether an invalid or signalling input was met. Of a NaN
element and a NaN scale the one with the greater binary16 code counts (R152). -/
def operand (f : EFmt) (code : Nat) (sm : ScaleMode) (sc : Val) : Val × Bool :=
  let v := decodeVal f code
  if sm.en then
    let (x, fl) := mulVal v sc
    (if v.isNaN && sc.isNaN && (nanF16 v).ult (nanF16 sc) then sc else x, fl ≠ 0)
  else (v, v.isSig)

/-! ### Pot entries (R151 to R155, R161) -/

def PotEntry.dflt : Nat → PotEntry := fun _ => {}

/-- The combination of R153. -/
def PotEntry.combine (a b : PotEntry) : PotEntry :=
  { p := a.p + b.p,
    code := if a.nan && b.nan then (if a.code.ult b.code then b.code else a.code) else if a.nan then a.code
      else if b.nan then b.code else 0,
    nan := a.nan || b.nan, pinf := a.pinf || b.pinf, ninf := a.ninf || b.ninf,
    nv := a.nv || b.nv, px := a.px || b.px, po := a.po || b.po, uf := a.uf || b.uf }

/-- A finite term as an integer of the pot (R151). -/
def termInt (s : Bool) (m : Nat) (e pe : Int) : PotEntry :=
  if m = 0 then {}
  else
    let (n, inexact) := roundAt .rne s m e false pe
    let sat := decide (2 ^ 80 ≤ n)
    let n' := if sat then 2 ^ 80 - 1 else n
    { p := BitVec.ofInt 96 (if s then -(n' : Int) else n'), px := inexact, po := sat }

/-- One term of an FX or INT pot (R151, R152, R154). -/
def fxTerm (pe : Int) (a b : Val × Bool) : PotEntry :=
  let nv := a.2 || b.2
  if a.1.isNaN || b.1.isNaN then
    let ca := if a.1.isNaN then nanF16 a.1 else 0
    let cb := if b.1.isNaN then nanF16 b.1 else 0
    { nan := true, code := if ca.ult cb then cb else ca, nv := nv }
  else
    match (mulVal a.1 b.1).1 with
    | .nan _ _ _ _ => { nan := true, code := 0x7E00, nv := true }
    | .inf s => { pinf := !s, ninf := s, nv := nv }
    | .fin s m e => { termInt s m e pe with nv := nv }

/-- One step of an F32 pot (R155): acc + a × b under rm, NaN source order acc, a, b. -/
def f32Step (rm : Rm) (e : PotEntry) (a b : Nat) : PotEntry :=
  let acc := decodeVal .f32 (e.p.toNat % 2 ^ 32)
  let x := decodeVal .f32 a
  let y := decodeVal .f32 b
  let inval := (mulVal x y).2 ≠ 0 && !(x.isNaN || y.isNaN)
  let sig := acc.isSig || x.isSig || y.isSig
  let (r, fl) : Nat × Fl :=
    match acc with
    | .nan s _ f w => (nanCode .f32 s f w, if sig || inval then flNV else 0)
    | _ =>
      let (v, f1) := fmaVal rm x y acc
      let (c, f2) := deliver .f32 rm v
      (c, f1 ||| f2)
  { e with p := BitVec.ofNat 96 r, nv := e.nv || fl &&& flNV ≠ 0, po := e.po || fl &&& flOF ≠ 0,
           uf := e.uf || fl &&& flUF ≠ 0, px := e.px || fl &&& flNX ≠ 0 }

/-- The raw 16 bytes of an entry, and their reading (R161). -/
def PotEntry.toBytes (e : PotEntry) : List Byte :=
  leBytes 16 (e.p.toNat + e.code.toNat * 2 ^ 96 + b2n e.nan * 2 ^ 112 + b2n e.pinf * 2 ^ 113 + b2n e.ninf * 2 ^ 114
    + b2n e.nv * 2 ^ 115 + b2n e.px * 2 ^ 116 + b2n e.po * 2 ^ 117 + b2n e.uf * 2 ^ 118)

def PotEntry.ofNat (n : Nat) : PotEntry :=
  let bitn (i : Nat) : Bool := n.testBit i
  { p := BitVec.ofNat 96 n, code := if bitn 112 then BitVec.ofNat 16 (n / 2 ^ 96) else 0, nan := bitn 112,
    pinf := bitn 113, ninf := bitn 114, nv := bitn 115, px := bitn 116, po := bitn 117, uf := bitn 118 }

/-! ### Read-out (R160) -/

/-- The exact value of a finite FX or INT entry. -/
def PotEntry.val (e : PotEntry) (pe : Int) : Val :=
  let p := e.p.toInt
  .fin (decide (p < 0)) p.natAbs pe

/-- The procedure of R160: code and flags. -/
def potRead (st : PotState) (e : PotEntry) (f : EFmt) (rm : Rm) : Nat × Fl :=
  let nvf : Fl := if e.nv then flNV else 0
  if st.mode = .f32 then
    let acc := e.p.toNat % 2 ^ 32
    if f = .f32 then (acc, potFlags e)
    else
      let (c, fl) := deliver f rm (decodeVal .f32 acc)
      (c, fl ||| potFlags e)
  else if e.nan then
    let (c, fl) := deliver f rm (decodeVal .f16 e.code.toNat)
    (c, fl ||| nvf)
  else if e.pinf && e.ninf then ((deliver f rm .defaultNaN).1, flNV)
  else if e.pinf || e.ninf then
    let (c, fl) := deliver f rm (.inf e.ninf)
    (c, fl ||| nvf)
  else if f = .int32 then (e.p.toNat % 2 ^ 32, ofInt32 e.p.toInt)
  else
    let extra : Fl := potFlags { e with uf := false }
    if e.p = 0 then (0, extra)
    else
      let (c, fl) := deliver f rm (e.val st.pe)
      (c, fl ||| extra)

/-! ### Evaluation -/

def Cell.pot (c : Cell) (d : Bool) : SMap PotEntry := if d then c.pot1 else c.pot0
def Cell.pst (c : Cell) (d : Bool) : PotState := if d then c.ps1 else c.ps0
def Cell.pvis (c : Cell) (d : Bool) : PotState := if d then c.pv1 else c.pv0
def Cell.entry (c : Cell) (d : Bool) (i : Nat) : PotEntry := SMap.get PotEntry.dflt (c.pot d) i

/-- The slice number and the post-increment of an index field (R147): S0 gives 0 and no increment. -/
def sliceIdx (c : Cell) (idx : BitVec 5) : Nat := (c.rs idx).toNat

/-- The state that an accumulating instruction gives a pot (R156): none is E_SHAPE. -/
def potNext (st : PotState) (sh : PairShape) (pe : Int) : Option PotState :=
  let want : PotState := ⟨sh.mode, if sh.mode = .fx then pe else 0⟩
  if st.mode = .empty ∨ st = want then some want else none

/-- The terms of an FX or INT slice (R149): pot entry index 32 × m + n and the combined terms. -/
def fxSlice (c : Cell) (cfg : Word) (sh : PairShape) (pe : Int) (ta tb st s : Nat) : List (Nat × PotEntry) :=
  let s' := s % sh.ns
  let q := s' / sh.c
  let j := s' % sh.c
  let fa := fmtA cfg
  let fb := fmtB cfg
  let side (f : EFmt) (sm : ScaleMode) (t base r : Nat) : List (Val × Bool) :=
    let codes := (rowCodes c.tile t r f.bits sh.row).drop (sh.kc * j)
    (List.range sh.kc).map (fun i =>
      let k := sh.kc * j + i
      operand f (codes.getD i 0) sm (if sm.en then scaleAt c.tile st base sm (scaleIndex sm sh.row r k) else .defaultNaN))
  let bs := (List.range 32).map (fun n => side fb (mcSmb cfg) tb 1024 n)
  (List.range sh.g).flatMap (fun gi =>
    let m := sh.g * q + gi
    let as := side fa (mcSma cfg) ta 0 m
    (List.range 32).map (fun n =>
      (32 * m + n, ((as.zip (bs.getD n [])).foldl (fun acc ab => acc.combine (fxTerm pe ab.1 ab.2)) {}))))

/-- The terms of an F32 slice: pairs of codes in ascending k. -/
def f32Slice (c : Cell) (sh : PairShape) (ta tb s : Nat) : List (Nat × List (Nat × Nat)) :=
  let s' := s % sh.ns
  let m := s' / sh.c
  let j := s' % sh.c
  let part (t r : Nat) : List Nat := ((rowCodes c.tile t r 32 16).drop (4 * j)).take 4
  let as := part ta m
  (List.range 32).map (fun n => (32 * m + n, as.zip (part tb n)))

/-- The M slot, its guard true. A read-out takes the mode and exponent that are visible with the entries it reads, while
its E_SHAPE test takes those tracked in issue order (R156, R160; DESIGN CHOICE, log entry 26). The pot state in issue order changes with latency 0, through `PW.potTrack`. -/
def evalM (s : State) (k : CellRef) (op : MOp) : SlotOut :=
  let c := s.cell k
  match op with
  | .nop => {}
  | .bad code => .bad code
  | .mcfg ra =>
    (match mcfgFault (c.rs ra) with
     | some e => .bad e
     | none => .one 1 (.mcfg (c.rs ra)))
  | .mclr d => { writes := [(0, .potTrack d {}), (8, .potClear d)] }
  | .mma d ta tb idx inc st =>
    (match mcPair c.mcfg with
     | none => .bad K.eShape
     | some sh =>
       match potNext (c.pst d) sh (mcPe c.mcfg) with
       | none => .bad K.eShape
       | some ps =>
         let w : PW :=
           if sh.mode = .f32 then .potF32 d (mcRm c.mcfg) (f32Slice c sh ta.toNat tb.toNat (sliceIdx c idx))
           else .potAdd d (fxSlice c c.mcfg sh ps.pe ta.toNat tb.toNat st.toNat (sliceIdx c idx))
         { writes := [(0, .potTrack d ps), (8, .potMode d ps), (8, w)] ++ postInc c idx inc false })
  | .mmrg d ts idx inc =>
    (match mcPair c.mcfg with
     | none => .bad K.eShape
     | some sh =>
       match sh.mode, potNext (c.pst d) sh (mcPe c.mcfg) with
       | .f32, _ => .bad K.eShape
       | _, none => .bad K.eShape
       | _, some ps =>
         let s' := sliceIdx c idx % 256
         let row := c.tile.readLE (2048 * ts.toNat + 64 * (s' % 32)) 64
         let terms := (List.range 4).map (fun i =>
           (32 * (s' / 8) + 4 * (s' % 8) + i, { PotEntry.ofNat (row / 2 ^ (128 * i) % 2 ^ 128) with uf := false }))
         { writes := [(0, .potTrack d ps), (8, .potMode d ps), (8, .potAdd d terms)] ++ postInc c idx inc false })
  | .mout d td fmt idx inc rm =>
    (match EFmt.ofCode fmt.toNat, Rm.ofCode rm.toNat with
     | some f, some r =>
       let mode := (c.pst d).mode
       if !(f == .f16 || f == .f32 || f == .int32) || (f == .int32 && (mode == .fx || mode == .f32)) then .bad K.eShape
       else
         let ns := if f = .f16 then 32 else 64
         let s' := sliceIdx c idx % ns
         let m := if f = .f16 then s' else s' / 2
         let n0 := if f = .f16 then 0 else 16 * (s' % 2)
         let outs := (List.range (if f = .f16 then 32 else 16)).map
           (fun i => potRead (c.pvis d) (c.entry d (32 * m + n0 + i)) f r)
         let bs := outs.flatMap (fun o => leBytes (f.bits / 8) o.1)
         { writes := [(3, .tile (2048 * td.toNat + 64 * (s' % 32)) bs)]
             ++ cellFlagWrites 3 (outs.foldl (fun a o => a ||| o.2) 0) ++ postInc c idx inc false }
     | _, _ => .bad K.eFieldReserved)
  | .moutRaw d td idx inc =>
    let s' := sliceIdx c idx % 256
    let bs := (List.range 4).flatMap (fun i => (c.entry d (32 * (s' / 8) + 4 * (s' % 8) + i)).toBytes)
    { writes := [(3, .tile (2048 * td.toNat + 64 * (s' % 32)) bs)] ++ postInc c idx inc false }

end Sys2Proof.Machine
end

