-- ==== Sys2Proof/Machine/Sequencer.lean ====
section
/-! DEFINITION. The S slot (R113 to R121): what each instruction computes from the state before its word. -/

namespace Sys2Proof.Machine

open Sys2Proof

/-- The operations of R115, modulo 2^64; a shift count is the low 6 bits of the second operand. -/
def aluVal (f : AluF) (a b : Word) : Word :=
  match f with
  | .add => a + b
  | .sub => a - b
  | .and => a &&& b
  | .or => a ||| b
  | .xor => a ^^^ b
  | .shl => a <<< (b.toNat % 64)
  | .shr => a >>> (b.toNat % 64)
  | .sra => a.sshiftRight (b.toNat % 64)
  | .minS => if a.slt b then a else b
  | .maxS => if a.slt b then b else a
  | .minu => if a.ult b then a else b
  | .maxu => if a.ult b then b else a
  | .mul => a * b
  | .mulhu => BitVec.ofNat 64 (a.toNat * b.toNat / 2 ^ 64)
  | .mulh => BitVec.ofInt 64 (a.toInt * b.toInt / 2 ^ 64)

/-- MUL, MULH and MULHU take 3 cycles, the rest 1 (R112). -/
def aluLat (f : AluF) : Nat :=
  match f with
  | .mul => 3 | .mulhu => 3 | .mulh => 3 | _ => 1

def immVal (f : ImmF) (a : Word) (imm : BitVec 12) : Word :=
  match f with
  | .addi => a + imm64 imm
  | .andi => a &&& imm64 imm
  | .ori => a ||| imm64 imm
  | .xori => a ^^^ imm64 imm

def shVal (f : ShF) (a : Word) (n : Nat) : Word :=
  match f with
  | .shl => a <<< n
  | .shr => a >>> n
  | .sra => a.sshiftRight n

def cmpVal64 (f : CmpF) (a b : Word) : Bool :=
  match f with
  | .eq => a == b
  | .ne => a != b
  | .lt => a.slt b
  | .ge => !a.slt b
  | .ltu => a.ult b
  | .geu => !a.ult b

def plogVal (f : PlogF) (a b : Bool) : Bool :=
  match f with
  | .and => a && b
  | .or => a || b
  | .xor => xor a b
  | .andn => a && !b

/-- A branch target in instruction memory (R118). -/
def branchTo (k : CellRef) (t : Nat) (f : Nat → Ctl) : SlotOut :=
  if t < imemWords k then { ctl := f t } else .bad K.eImemRange

/-- LSETUP and LSETUPR (R119) with the count read. A body beyond instruction memory comes before an active counter;
a count of 0 branches past the body, and ends the outer loops that its target leaves as a branch does (R121; DESIGN
CHOICE, log entry 114). -/
def loopSetup (k : CellRef) (c : Cell) (n len : Nat) (count : BitVec 32) : SlotOut :=
  let first := c.pc + 1
  let last := c.pc + 1 + len
  if imemWords k ≤ last then .bad K.eImemRange
  else if c.loops.any (fun l => l.n == n) then .bad K.eLoop
  else if count = 0 then
    let o := branchTo k (last + 1) .branch
    { o with writes := if o.fault.isSome then [] else [(1, .lc n 0)] }
  else { ctl := .loop ⟨n, first, last⟩, writes := [(1, .lc n count)] }

/-- The S slot, its guard true. A CALL with a full stack raises E_STACK whatever its target (the order of the two faults of
R118, DESIGN CHOICE, log entry 117). -/
def evalS (s : State) (k : CellRef) (op : SOp) : SlotOut :=
  let c := s.cell k
  match op with
  | .nop => {}
  | .bad code => .bad code
  | .alu f rd ra rb => .one (aluLat f) (.s rd.toNat (aluVal f (c.rs ra) (c.rs rb)))
  | .alui f rd ra imm => .one 1 (.s rd.toNat (immVal f (c.rs ra) imm))
  | .shi f rd ra sh => .one 1 (.s rd.toNat (shVal f (c.rs ra) sh.toNat))
  | .movi rd imm => .one 1 (.s rd.toNat (imm.signExtend 64))
  | .shori rd imm => .one 1 (.s rd.toNat ((c.rs rd <<< (16 : Nat)) ||| imm.setWidth 64))
  | .cmp f pd ra rb => .one 1 (.p pd.toNat (cmpVal64 f (c.rs ra) (c.rs rb)))
  | .cmpi f pd ra imm => .one 1 (.p pd.toNat (cmpVal64 f (c.rs ra) (imm64 imm)))
  | .plog f pd pa pb => .one 1 (.p pd.toNat (plogVal f (c.rp pa) (c.rp pb)))
  | .ld lg rd ra imm =>
    let n := 2 ^ lg.toNat
    let a := (c.rs ra + imm64 imm * BitVec.ofNat 64 n).toNat
    (match sramCheck k a n with
     | some e => .bad e
     | none => { SlotOut.one 3 (.s rd.toNat (BitVec.ofNat 64 (leNat (s.sramN k a n)))) with acts := s.readActs k a n })
  | .st lg rs ra imm =>
    let n := 2 ^ lg.toNat
    let a := (c.rs ra + imm64 imm * BitVec.ofNat 64 n).toNat
    (match sramCheck k a n with
     | some e => .bad e
     | none => .one 1 (.sram a (leBytes n (c.rs rs).toNat) none))
  | .mfsr rd sr => .one 1 (.s rd.toNat (s.readSr k sr.toNat))
  | .mtsr sr ra => .one 1 (srWrite sr.toNat (c.rs ra))
  | .br t => branchTo k t.toNat .branch
  | .brr ra => branchTo k (c.rs ra).toNat .branch
  | .call t => if 8 ≤ c.stack.length then .bad K.eStack else branchTo k t.toNat .call
  | .ret =>
    (match c.stack with
     | [] => .bad K.eStack
     | t :: _ => branchTo k t .ret)
  | .lsetup n len count => loopSetup k c n.toNat len.toNat (count.setWidth 32)
  | .lsetupr n len ra => loopSetup k c n.toNat len.toNat ((c.rs ra).setWidth 32)
  | .assertP p => if c.rp p then {} else .bad K.eAssert
  | .endP => { ctl := .stop }

/-! ### Loop-back (R120) -/

/-- The loops that end on the word at `pc`, innermost first, decide: the next word if one goes round again, the
counter writes, and the loops that stay active. `skip n` is an MTSR to LCn in this word, which stands on a final pass
(R121). -/
def loopBack (c : Cell) (skip : Option Nat) (pc : Nat) : List Loop → Option Nat × List (Nat × PW) × List Loop
  | [] => (none, [], [])
  | l :: t =>
    if l.last = pc then
      let v := c.rlc l.n
      if 1 < v.toNat then (some l.first, [(1, .lc l.n (v - 1))], l :: t)
      else
        let (nx, ws, r) := loopBack c skip pc t
        (nx, (if v = 1 ∧ skip ≠ some l.n then [(1, PW.lc l.n 0)] else []) ++ ws, r)
    else
      -- an outer loop never ends before an inner one, so a later loop of the list may still end here
      let (nx, ws, r) := loopBack c skip pc t
      (nx, ws, l :: r)

/-- Loops that stay active after a branch to a target (R121). -/
def loopsAfterBranch (ls : List Loop) (t : Nat) : List Loop := ls.filter (fun l => decide (l.first ≤ t ∧ t ≤ l.last))

/-- LCn named by an MTSR of the word. -/
def mtsrLc : SOp → Option Nat
  | .mtsr sr _ => if sr = 3 then some 0 else if sr = 4 then some 1 else if sr = 5 then some 2 else none
  | _ => none

end Sys2Proof.Machine
end

