-- ==== Sys2Proof/Machine/MeshCore.lean ====
section
/-! DEFINITION. The packet mesh (R239 to R247): agents and stops, classes, injection, one hop of a packet. -/

namespace Sys2Proof.Machine

open Sys2Proof

/-! ### Agents (R239) -/

def islAgent (isl : Nat) : Nat := 2048 * islDie isl + islNum isl
def farAgent (ch : Nat) : Nat := 2048 * (ch / 16) + 512 + ch % 16
def gulAgent (link : Nat) : Nat := 2048 * (link / 16) + 768 + link % 16
def ethAgent (die : Nat) : Nat := 2048 * die + 1024
def dealerAgent (die : Nat) : Nat := 2048 * die + 1280

def agentDie (a : Nat) : Nat := a / 2048 % 2
def agentType (a : Nat) : Nat := a / 256 % 8
def agentIdx (a : Nat) : Nat := a % 256

/-- The island at an island row and die column. -/
def islOfDie (die row col : Nat) : Nat := 96 * die + 12 * row + col

/-- The stop of an agent, as the island of its router; none for a reserved agent. -/
def agentStop (a : Nat) : Option Nat :=
  let d := agentDie a
  let i := agentIdx a
  match agentType a with
  | 0 => if i < 96 then some (96 * d + i) else none
  | 1 => if i < 16 then some (islOfDie d (i / 2) (if d = 0 then 0 else 11)) else none
  | 2 => if i < 8 then some (islOfDie d 0 (2 + i)) else if i < 16 then some (islOfDie d 7 (i - 6)) else none
  | 3 => if i < 8 then some (islOfDie d 0 (2 + i)) else if i < 16 then some (islOfDie d 7 (i - 6)) else none
  | 4 => if i = 0 then some (islOfDie d 0 (if d = 0 then 1 else 10)) else none
  | 5 => if i = 0 then some (islOfDie d 0 (if d = 0 then 1 else 10)) else none
  | 6 => if i < 8 then some (islOfDie d i (if d = 0 then 11 else 0)) else none
  | _ => none

/-! ### Packets (R240 to R243) -/

/-- The traffic class of an operation (R243). -/
def MOpc.cls : MOpc → Nat
  | .read => 0 | .write => 0 | .sync => 0
  | .readReply => 1 | .writeAck => 1 | .syncReply => 1
  | .message => 2 | .event => 2
  | .multicast => 3

/-- The code of an operation (R242). -/
def MOpc.code : MOpc → Nat
  | .read => 0 | .readReply => 1 | .write => 2 | .writeAck => 3 | .sync => 4 | .syncReply => 5 | .message => 6 | .event => 7
  | .multicast => 8

/-- The operation of a code, none of a reserved one. -/
def MOpc.ofCode (n : Nat) : Option MOpc :=
  [MOpc.read, .readReply, .write, .writeAck, .sync, .syncReply, .message, .event, .multicast][n]?

def Asker.nums : Asker → List Nat
  | .stream g e i o => [0, g, e, i, o]
  | .gul n => [1, n]
  | .copy t => [2, t]
  | .none => [3]

/-- The tag field of a packet's header. -/
def Packet.tagBits (p : Packet) : BitVec 16 := Config.meshTag (p.syncId :: p.tag.nums)

/-- The header of a packet (R242). -/
def Packet.header (p : Packet) : Nat :=
  p.dst % 2 ^ 12 + b2n p.mc * 2 ^ 12 + p.src % 2 ^ 12 * 2 ^ 13 + p.op.code * 2 ^ 25 + p.len % 2 ^ 9 * 2 ^ 32 + p.addr % 2 ^ 48 * 2 ^ 48 +
    p.tagBits.toNat * 2 ^ 96 + p.cmd.toNat * 2 ^ 112 + p.table % 2 ^ 8 * 2 ^ 120 + p.status.toNat * 2 ^ 128 + p.arg % 2 ^ 112 * 2 ^ 144

/-- The packet that a header spells for a receiver (R242): none when its op is reserved or a reserved field is not zero. A
header that the code has mistaken may spell another packet. -/
def Packet.reread (p : Packet) (h : Nat) : Option Packet :=
  if h = p.header then some p
  else
    let f (lo w : Nat) : Nat := h / 2 ^ lo % 2 ^ w
    match MOpc.ofCode (f 25 4) with
    | none => none
    | some op =>
      if f 29 3 ≠ 0 ∨ f 41 7 ≠ 0 then none
      else some { p with
        dst := f 0 12, mc := f 12 1 == 1, src := f 13 12, op := op, len := f 32 9, addr := f 48 48,
        tag := if f 96 16 = p.tagBits.toNat then p.tag else .none, cmd := BitVec.ofNat 8 (f 112 8), table := f 120 8,
        status := BitVec.ofNat 16 (f 128 16), arg := f 144 112 }

/-- Flits of a packet (R241). -/
def Packet.flits (p : Packet) : Nat := if p.data.length ≤ 32 then 1 else 1 + (p.data.length + 63) / 64

/-- The blocks of a packet's flits in order (R240, R241): two of each flit; unused bytes are 0. -/
def Packet.blocks (p : Packet) : List (List Byte) :=
  let n := if p.data.length ≤ 32 then 1 else 2 * ((p.data.length + 63) / 64)
  let bytes := p.data ++ List.replicate (32 * n - p.data.length) 0
  let body := (List.range n).map (fun i => (bytes.drop (32 * i)).take 32)
  leBytes 32 p.header :: (if p.data.length ≤ 32 then body else List.replicate 32 0 :: body)

/-- The packet that its blocks spell for a receiver. -/
def Packet.ofBlocks (p : Packet) : List (List Byte) → Option Packet
  | [] => none
  | h :: body =>
    (p.reread (leNat h)).map (fun q =>
      { q with data := ((if p.data.length ≤ 32 then body else body.drop 1).flatten).take p.data.length })

/-- A packet of the given operation with everything else empty. -/
def Packet.mk0 (src dst : Nat) (op : MOpc) : Packet :=
  { dst := dst, mc := false, src := src, op := op, len := 0, addr := 0, tag := .none, syncId := 0, cmd := 0, table := 0,
    status := 0, arg := 0, data := [], at_ := 0, cyc := 0 }

/-- A router counts a refused packet or copy (R242, R250, R252). -/
def State.meshRefused (s : State) (isl : Nat) : State := s.incFld (R.islMesh isl) 63 32 1

/-! ### The check of a flit (R240, R499) -/

/-- A block as its receiver has it: corrected and counted, or none, with an event. -/
def State.checkBlock (s : State) (cls isl table : Nat) (blk : List Byte) (u : Upset) : State × Option (List Byte) :=
  if u.isEmpty then (s, some blk)
  else
    let cs := applyUpset (encodeBlock blk) u
    match decodeBlock cs with
    | .clean => (s, some (cs.take 32))
    | .corrected p x => (s.ceEvent (islDie isl) cls (islReg isl 0), some ((applyUpset cs [(p, x)]).take 32))
    | .uncorrectable => (s.ueEvent (islDie isl) cls (islReg isl 0) table, none)

/-- Every block of a packet in turn, `i` the index of the first: the blocks, or none when one is uncorrectable. -/
def State.checkBlocks (cls isl table : Nat) (us : List (Nat × Upset)) : State → Nat → List (List Byte) → State × Option (List (List Byte))
  | s, _, [] => (s, some [])
  | s, i, b :: r =>
    let (s1, o) := s.checkBlock cls isl table b (((us.find? (fun x => x.1 == i)).map (fun x => x.2)).getD [])
    let (s2, l) := State.checkBlocks cls isl table us s1 (i + 1) r
    (s2, o.bind (fun b => l.map (fun l => b :: l)))

/-- The packet that a stop or a seam bridge receives, whose blocks have taken the upsets `us`: none when a block is bad, or
when its header is one that a router discards (R242). -/
def State.checkPacket (s : State) (cls isl : Nat) (p : Packet) (us : List (Nat × Upset)) : State × Option Packet :=
  if us.isEmpty then (s, some p)
  else
    let (s1, o) := State.checkBlocks cls isl p.table us s 0 p.blocks
    match o with
    | none => (s1, none)
    | some l =>
      match p.ofBlocks l with
      | none => (s1.meshRefused isl, none)
      | some q => (s1, some q)

/-! ### Buffers (R245, R247) -/

/-- Two packets in one buffer: of a router, its input port (for the local one, of one agent) and class. -/
def sameBuffer (p q : Packet) : Bool :=
  p.at_ == q.at_ && p.port == q.port && p.op.cls == q.op.cls && !p.arrived && !q.arrived && (decide (p.port < 4) || p.src == q.src)

/-- Flits in the buffer that a packet stands in. -/
def State.bufFlits (s : State) (p : Packet) : Nat := ((s.mesh.filter (sameBuffer p)).map Packet.flits).sum

/-- Room for the whole packet in the buffer it would stand in (R245). -/
def State.meshRoom (s : State) (p : Packet) : Bool := decide (s.bufFlits p + p.flits ≤ 5)

/-- The k-th packet is the first of its buffer. -/
def State.isHead (s : State) (k : Nat) (p : Packet) : Bool := !(s.mesh.take k).any (sameBuffer p)

/-- The groups to which a meld under way holds injections (R251). -/
def State.heldGroup (s : State) (g : Nat) : Bool :=
  s.melds.any (fun x => s.fld (R.meldStat x.1) 2 0 == 4 &&
    x.2.entries.any (fun e => match regPlace e.1 with | .island _ o => o == 0x80000 + 8 * g | _ => false))

/-- A packet enters the router at the stop of its agent when the buffer has room, nothing of its agent and class waits
before it, and no meld holds its group (R244, R245, R251): 4 mesh cycles of its latency. A multicast packet takes its root
from the entry there; a packet of an invalid group is discarded (R249, R252). `rest` is the mesh without it. -/
def State.enter (s : State) (rest : List Packet) (p : Packet) : State :=
  let p1 := { p with port := 4, cyc := 4 }
  let s1 := { s with mesh := rest }
  let wait := rest.any (sameBuffer { p with port := 5 }) || !s1.meshRoom p1 || (p.mc && s.heldGroup p.dst)
  if wait then { s with mesh := rest ++ [{ p with port := 5 }] }
  else if p.mc then
    let e := s.reg (R.islMcg p.at_ p.dst)
    if bit 31 e then { s with mesh := rest ++ [{ p1 with root := some (96 * field 15 15 e + field 14 8 e) }] }
    else s1.meshRefused p.at_
  else { s with mesh := rest ++ [p1] }

/-- An agent sends a packet. -/
def State.inject (s : State) (p : Packet) : State :=
  match agentStop p.src with
  | some i => s.enter s.mesh { p with at_ := i }
  | none => s

/-- The next router of the dimension-ordered route towards an island, and whether the step crosses the seam (R244). -/
def nextHop (at_ dst : Nat) : Option (Nat × Bool) :=
  let r := islRow at_
  let c := islCol at_
  let r' := islRow dst
  let c' := islCol dst
  if c < c' then some (islAt r (c + 1), c == 11)
  else if c' < c then some (islAt r (c - 1), c == 12)
  else if r < r' then some (islAt (r + 1) c, false)
  else if r' < r then some (islAt (r - 1) c, false)
  else none

/-- The input port by which a packet from a neighbouring router comes. -/
def entryPort (from_ to_ : Nat) : Nat :=
  if islCol from_ < islCol to_ then 3
  else if islCol to_ < islCol from_ then 1
  else if islRow from_ < islRow to_ then 0 else 2

/-- A packet as it stands in the next router. -/
def Packet.hop (p : Packet) (n : Nat) (seam : Bool) : Packet :=
  { p with at_ := n, port := entryPort p.at_ n, cyc := p.cyc + (if seam then 9 else 1), todo := none }

/-- A packet reaches the next router; a seam bridge checks what crosses it (R240, R499 class 5). -/
def State.reach (s : State) (p : Packet) (seam : Bool) (us : List (Nat × Upset)) : State :=
  let (s1, o) := if seam then s.checkPacket 5 p.at_ p us else (s, some p)
  match o with
  | none => s1
  | some q => { s1 with mesh := s1.mesh ++ [q] }

end Sys2Proof.Machine
end

