-- ==== Sys2Proof/Machine/SyncCore.lean ====
section
/-! DEFINITION. Sync words, their homes and waiters (R308 to R322): translation, the operations a home applies, the
passes over its waiters, what a dealer rules, and rounds. -/

namespace Sys2Proof.Machine

open Sys2Proof

/-! ### Translation (R308, R310) -/

/-- A sync-map entry as a home. -/
def State.syncEntry (s : State) (e : Nat) : Except Code Home :=
  let die := e / 4 % 2
  match e % 4 with
  | 0 => .error K.eSyncUnmapped
  | 1 =>
    let k : CellRef := ⟨96 * die + e / 8 % 128, e / 2 ^ 10 % 16⟩
    if e / 2 ^ 31 ≠ 0 ∨ 96 ≤ e / 8 % 128 ∨ ¬ s.cellExists k ∨ ¬ isMemCell k then .error K.eSyncFormat
    else .ok (.sram k (e / 2 ^ 14 % 2 ^ 17))
  | 2 => if e / 2 ^ 17 ≠ 0 then .error K.eSyncFormat else .ok (.window die (e / 8 % 2 ^ 14))
  | _ => .error K.eSyncFormat

/-- Where the sync map of a table lies; for table 0 firmware's own (R335, R336). -/
def State.syncMap (s : State) (die t : Nat) : Option Nat :=
  let r := s.reg (R.syncTmap die t)
  if t = 0 then some (Config.fwSyncMap die)
  else if bit 0 r then some (field 47 19 r * 2 ^ 19) else none

/-- The map's entry of an identifier at a port, kept or read (R310, R334). -/
def State.syncKept (s : State) (ag t id : Nat) : Option Nat := (s.slb.find? (fun x => x.agent == ag && x.table == t && x.id == id)).map (fun x => x.entry)

/-- Translate an identifier of a table at the port of an agent of a die. -/
def State.syncTrans (s : State) (ag die t : Nat) (id : Word) : Except Code Home :=
  if 2 ^ 16 ≤ id.toNat then .error K.eSyncUnmapped
  else match s.syncKept ag t id.toNat with
    | some e => s.syncEntry e
    | none =>
      match s.syncMap die t with
      | none => .error K.eSyncUnmapped
      | some base =>
        if s.spoilt (base + 8 * id.toNat) 8 then .error K.eMemUncorrectable
        else s.syncEntry (leNat (s.decN (base + 8 * id.toNat) 8))

/-- A port translates: what it reads is corrected or signalled (R297), and an entry that names a home is kept. -/
def State.syncLearn (s : State) (ag die t : Nat) (id : Word) : State :=
  if 2 ^ 16 ≤ id.toNat ∨ (s.syncKept ag t id.toNat).isSome then s
  else match s.syncMap die t with
    | none => s
    | some base =>
      let a := base + 8 * id.toNat
      let s1 := s.readBlocks t [blockOf a]
      match s1.syncTrans ag die t id with
      | .ok _ => { s1 with slb := s1.slb ++ [⟨ag, t, id.toNat, leNat (s1.decN a 8)⟩] }
      | .error _ => s1

/-! ### Words -/

def winKey (die i : Nat) : Nat := 16384 * die + i
def State.win (s : State) (die i : Nat) : Win := SMap.get (fun _ => {}) s.wins (winKey die i)
def State.setWin (s : State) (die i : Nat) (w : Win) : State :=
  { s with wins := SMap.set (fun _ => {}) s.wins (winKey die i) w }

def Cell.feBit (c : Cell) (w : Nat) : Bool :=
  let x := SMap.get (fun _ => false) c.fe w
  let y := SMap.get (fun _ => false) c.fe1 w
  let z := SMap.get (fun _ => false) c.fe2 w
  (x && y) || (x && z) || (y && z)
def Cell.setFe (c : Cell) (w : Nat) (b : Bool) : Cell :=
  { c with fe := SMap.set (fun _ => false) c.fe w b, fe1 := SMap.set (fun _ => false) c.fe1 w b,
           fe2 := SMap.set (fun _ => false) c.fe2 w b }

/-- The value and full/empty bit of a word. -/
def State.wordGet (s : State) (h : Home) : Word × Bool :=
  match h with
  | .sram k w => (BitVec.ofNat 64 (leNat (s.decN (sramBase k + 8 * w) 8)), (s.cell k).feBit w)
  | .window d i => ((s.win d i).value, (s.win d i).full)

/-- Write a word. -/
def State.wordSet (s : State) (h : Home) (v : Word) (full : Bool) : State :=
  match h with
  | .sram k w => (s.mergeN (sramBase k + 8 * w) (leBytes 8 v.toNat)).updCell k (fun c => c.setFe w full)
  | .window d i => s.setWin d i ⟨v, full⟩

/-- The owner of a word (R309). -/
def State.wordOwner (s : State) (h : Home) : Nat :=
  match h with
  | .sram k _ => (s.isl k.isl).table
  | .window d i => s.fld (R.syncWown d i) 7 0

def homeDieOf : Home → Nat
  | .sram k _ => islDie k.isl
  | .window d _ => d

/-! ### Requests -/

def State.syncReq (s : State) (id : Nat) : Option SyncReq := s.syncs.find? (fun r => r.id == id)
def State.setSync (s : State) (id : Nat) (f : SyncReq → SyncReq) : State :=
  { s with syncs := s.syncs.map (fun r => if r.id = id then f r else r) }
def State.dropSync (s : State) (id : Nat) : State := { s with syncs := s.syncs.filter (fun r => r.id != id) }
def State.stageSync (s : State) (id : Nat) (g : SyncStage) : State := s.setSync id (fun r => { r with stage := g })

/-- The agent that a request comes from. -/
def SyncWho.agent : SyncWho → Nat
  | .cell g => islAgent (ofGid g).isl
  | .sieve g => islAgent (ofGid g).isl
  | .core n => n / 16 * 2048 + 256 + n % 16
  | .filler => 0

def homeAgent : Home → Nat
  | .sram k _ => islAgent k.isl
  | .window d _ => dealerAgent d

/-- A request reaches its home directly when the home lies in the requester's island (R312). -/
def localHome (w : SyncWho) (h : Home) : Bool :=
  match w, h with
  | .cell g, .sram k _ => (ofGid g).isl == k.isl
  | .sieve _, _ => true
  | .filler, _ => true
  | _, _ => false

/-- Kind and variant of an operation (R312, R313). -/
def SyncV.code : SyncV → Nat
  | .ldfe => 0 | .ldff => 0x10 | .ldxx => 0x20 | .ldxe => 0x30
  | .stef => 0x01 | .stxf => 0x11 | .stxe => 0x21 | .stff => 0x31
  | .rwait => 0x02 | .rpass => 0x12 | .rset => 0x22

/-- Header bits 255 to 144 of a sync operation (R312). -/
def SyncReq.arg (r : SyncReq) : Nat :=
  r.v.code + b2n r.timed * 2 ^ 8 + (match r.home with | .window _ i => 2 ^ 9 + i * 2 ^ 10 | .sram _ _ => 0) +
    (if r.timed then r.deadline.toNat * 2 ^ 24 else 0)

/-- Send a request to its home (R312): directly, or as a mesh sync operation. -/
def State.sendSync (s : State) (r : SyncReq) : State :=
  if localHome r.who r.home then { s with syncs := s.syncs ++ [{ r with stage := .atHome }] }
  else
    let p := { Packet.mk0 r.who.agent (homeAgent r.home) .sync with
      len := 8, data := leBytes 8 r.value.toNat, syncId := r.id, cmd := r.cmd, table := r.table, arg := r.arg,
      addr := (match r.home with | .sram k w => sramBase k + 8 * w | .window _ _ => 0) }
    ({ s with syncs := s.syncs ++ [{ r with stage := .travelling }] }).inject p

/-- A request reaches its home, behind those that came before it (R312). -/
def State.syncArrive (s : State) (id : Nat) : State :=
  match s.syncReq id with
  | some x => if x.stage = .travelling then { s.dropSync id with syncs := (s.dropSync id).syncs ++ [{ x with stage := .atHome }] } else s
  | none => s

/-- The sieve's oldest flush has filled its word (R266). -/
def State.popFlush (s : State) (g : Nat) : State :=
  s.updCell (ofGid g) (fun c => { c with sieve := { c.sieve with flushes := c.sieve.flushes.drop 1 } })

/-- A home answers a request (R312): status and value travel back as a sync reply, or are at the port at once. -/
def State.syncAnswer (s : State) (r : SyncReq) (status : Code) (v : Word) : State :=
  match r.who with
  | .filler => s.dropSync r.id
  | .sieve g => (s.dropSync r.id).popFlush g
  | _ =>
    if localHome r.who r.home then s.stageSync r.id (.replied status v)
    else
      (s.stageSync r.id (.replying status v)).inject { Packet.mk0 (homeAgent r.home) r.who.agent .syncReply with
        len := 8, data := leBytes 8 v.toNat, syncId := r.id, cmd := r.cmd, table := r.table, status := status }

/-! ### Full/empty operations (R313, R315) -/

/-- Whether an operation can be done on a word with the given full/empty bit. -/
def SyncV.ready : SyncV → Bool → Bool
  | .ldfe, f => f
  | .ldff, f => f
  | .stff, f => f
  | .stef, f => !f
  | _, _ => true

def SyncV.isRound : SyncV → Bool
  | .rwait => true | .rpass => true | _ => false

/-- The word after an operation. RSET sets the round up (R322). -/
def SyncV.after (v : SyncV) (old : Word) (full : Bool) (x : Word) : Word × Bool :=
  match v with
  | .ldfe => (old, false)
  | .ldff => (old, true)
  | .ldxx => (old, full)
  | .ldxe => (old, false)
  | .stef => (x, true)
  | .stxf => (x, true)
  | .stxe => (x, false)
  | .stff => (x, true)
  | .rset => (x &&& 0xFFFF, true)
  | _ => (old, full)

/-- The first waiter of a word, in arrival order, that can be satisfied. -/
def State.firstReady (s : State) (h : Home) (full : Bool) : Option SyncReq :=
  s.syncs.find? (fun r => r.home == h && r.stage == .parked && !r.v.isRound && r.v.ready full)

/-- Do an operation on its word and answer it (R313). -/
def State.perform (s : State) (x : SyncReq) : State :=
  let (v, f) := s.wordGet x.home
  let (v', f') := x.v.after v f x.value
  (s.wordSet x.home v' f').syncAnswer x 0 v

/-- The answers that were held at a word leave (R317). -/
def State.answerHeld (s : State) (h : Home) : State :=
  s.syncs.foldl (fun s x => match x.stage with | .performed v => if x.home = h then s.syncAnswer x 0 v else s | _ => s) s

/-- The pass over a word's waiters (R315, R317): each that can be satisfied is, in arrival order. A timed one waits for the
dealer's ruling, and the word with it. The fuel is the number of requests. -/
def State.passWaiters : Nat → State → Home → State
  | 0, s, _ => s
  | n + 1, s, h =>
    match s.firstReady h (s.wordGet h).2 with
    | none => s.answerHeld h
    | some y =>
      if y.timed ∧ ¬ y.ruled then (s.stageSync y.id .satisfiable).dealerSees (homeDieOf h)
      else State.passWaiters n (s.perform y) h

/-- Apply an operation that can be done, then the waiters it satisfies (R315). One that satisfies a timed waiter is held at the
home until the dealer has ruled: its answer waits (R317). -/
def State.applySync (s : State) (x : SyncReq) : State :=
  let (v, f) := s.wordGet x.home
  let (v', f') := x.v.after v f x.value
  let s1 := s.wordSet x.home v' f'
  match s1.firstReady x.home f' with
  | none => s1.syncAnswer x 0 v
  | some _ => State.passWaiters (s.syncs.length + 1) (s1.stageSync x.id (.performed v)) x.home

/-- A word with a held operation or an undecided waiter serves nothing else (R317). -/
def State.homeLocked (s : State) (h : Home) : Bool :=
  s.syncs.any (fun r => r.home == h && (r.stage == .held || r.stage == .satisfiable))

/-- Waiter records in use at a home's unit (R316). -/
def sameUnit : Home → Home → Bool
  | .sram k _, .sram k' _ => k == k'
  | .window d _, .window d' _ => d == d'
  | _, _ => false
def State.waiters (s : State) (h : Home) : Nat :=
  (s.syncs.filter (fun r => sameUnit r.home h && (r.stage == .parked || r.stage == .satisfiable))).length
def waiterLimit : Home → Nat
  | .sram _ _ => 32
  | .window _ _ => 2048

/-- Park a request as the last waiter of its word, or send it a retry reply when no record is free (R315, R316). -/
def State.park (s : State) (x : SyncReq) (early : Bool) : State :=
  { s with syncs := s.syncs.filter (fun r => r.id != x.id) ++ [{ x with stage := .parked, early := early }] }
def State.retry (s : State) (x : SyncReq) : State :=
  let s1 := s.incFld (R.syncStat (homeDieOf x.home)) 31 0 1
  if localHome x.who x.home then s1.setSync x.id (fun r => { r with stage := .retry, since := s.gtime })
  else
    (s1.stageSync x.id .retrying).inject { Packet.mk0 (homeAgent x.home) x.who.agent .syncReply with
      len := 8, data := leBytes 8 0, syncId := x.id, cmd := x.cmd, table := x.table }
def State.noRecord (s : State) (x : SyncReq) : Bool := decide (waiterLimit x.home ≤ s.waiters x.home)

/-! ### Rounds (R321, R322) -/

structure Round where
  n : Nat
  a : Nat
  e : Nat
  gen : Nat
  drain : Bool
  deriving DecidableEq, Repr

def Round.ofWord (w : Word) : Round := ⟨field 15 0 w, field 31 16 w, field 47 32 w, field 49 48 w, bit 50 w⟩
def Round.toWord (r : Round) : Word :=
  BitVec.ofNat 64 (r.n + r.a * 2 ^ 16 + r.e * 2 ^ 32 + r.gen % 4 * 2 ^ 48 + b2n r.drain * 2 ^ 50)

def State.round (s : State) (h : Home) : Round := Round.ofWord (s.wordGet h).1
def State.setRound (s : State) (h : Home) (r : Round) : State := s.wordSet h r.toWord true

/-- The waiters of the current generation of a round, in arrival order. -/
def State.roundWaiters (s : State) (h : Home) : List SyncReq :=
  s.syncs.filter (fun r => r.home == h && r.v == .rwait && r.stage == .parked && !r.early)

/-- Timed waiters of the current generation that the dealer has not ruled on. -/
def State.roundTimed (s : State) (h : Home) : List SyncReq :=
  (s.roundWaiters h).filter (fun r => r.timed && !r.ruled)

/-- A generation that is being released and has no waiter left is over (R322: last release sent). -/
def State.roundOver (s : State) (h : Home) : State :=
  let r := s.round h
  if r.drain ∧ (s.roundWaiters h).isEmpty then
    let s1 : State := { s with syncs := s.syncs.map (fun (x : SyncReq) => if x.home = h ∧ x.v = .rwait ∧ x.stage = .parked then { x with early := false } else x) }
    let due := decide (r.e = r.n)
    let timed := s1.roundTimed h
    let s2 := s1.setRound h { r with gen := (r.gen + 1) % 4, a := r.e, e := 0, drain := due && timed.isEmpty }
    if due then timed.foldl (fun s y => (s.stageSync y.id .satisfiable).dealerSees (homeDieOf h)) s2 else s2
  else s

/-- Finish generations as long as they have no waiter to release: at most the current one and the next. -/
def State.roundSettle (s : State) (h : Home) : State := (s.roundOver h).roundOver h

/-- An arrival completes the count: the generation is released, the arriving waiter last, its own wait decided; timed waiters
are ruled on first (R318, R322). -/
def State.roundFull (s : State) (x : SyncReq) : State :=
  let timed := s.roundTimed x.home
  if timed.isEmpty then
    let r := s.round x.home
    let s1 := s.setRound x.home { r with a := r.n, drain := true }
    let s2 := if x.v = .rwait then s1.park { x with ruled := true } false else s1.syncAnswer x 0 0
    s2.roundSettle x.home
  else
    timed.foldl (fun s y => (s.stageSync y.id .satisfiable).dealerSees (homeDieOf x.home)) (s.stageSync x.id .held)

/-- An arrival at a round. -/
def State.roundArrive (s : State) (x : SyncReq) : State :=
  let r := s.round x.home
  let full := (s.wordGet x.home).2
  if ¬ full ∨ r.n = 0 then s.syncAnswer x K.eRoundState 0
  else if ¬ r.drain then
    if r.a + 1 < r.n then
      if x.v = .rwait then (if s.noRecord x then s.retry x else (s.setRound x.home { r with a := r.a + 1 }).park x false)
      else (s.setRound x.home { r with a := r.a + 1 }).syncAnswer x 0 0
    else s.roundFull x
  else if r.e < r.n then
    if x.v = .rwait then (if s.noRecord x then s.retry x else (s.setRound x.home { r with e := r.e + 1 }).park x true)
    else (s.setRound x.home { r with e := r.e + 1 }).syncAnswer x 0 0
  else s.syncAnswer x K.eRoundOver 0

/-- RSET (R322). -/
def State.roundReset (s : State) (x : SyncReq) : State :=
  let r := s.round x.home
  let full := (s.wordGet x.home).2
  if field 15 0 x.value = 0 then s.syncAnswer x K.eRoundState 0
  else if full ∧ (r.a ≠ 0 ∨ r.e ≠ 0 ∨ r.drain) then s.syncAnswer x K.eRoundState 0
  else s.applySync x

/-- Where a word stands in memory, and whether its block is uncorrectable. -/
def State.homeBlocks : Home → List Nat
  | .sram k w => [blockOf (sramBase k + 8 * w)]
  | .window _ _ => []
def State.homeSpoilt (s : State) : Home → Bool
  | .sram k w => s.spoilt (sramBase k + 8 * w) 8
  | .window _ _ => false

/-- A request is applied at its home, or becomes a waiter (R312, R315); a word in an uncorrectable block answers
E_MEM_UNCORRECTABLE (R297). -/
def State.syncAtHome (s0 : State) (x : SyncReq) : State :=
  let s := s0.readBlocks x.table (State.homeBlocks x.home)
  let own := s.wordOwner x.home
  let foreign : Bool := match x.who with | .cell _ => own != x.table && own != 0 | _ => false
  if foreign then s.syncAnswer x K.eSyncForeign 0
  else if s.homeSpoilt x.home then s.syncAnswer x K.eMemUncorrectable 0
  else match x.v with
    | .rwait => s.roundArrive x
    | .rpass => s.roundArrive x
    | .rset => s.roundReset x
    | v =>
      if v.ready (s.wordGet x.home).2 then s.applySync x
      else if s.noRecord x then s.retry x
      else s.park x false

/-! ### The dealer's rulings (R318) -/

/-- After a ruling on a waiter of a full/empty word, the pass goes on once none of its waiters is undecided. -/
def State.wordGoesOn (s : State) (h : Home) : State :=
  if s.syncs.any (fun r => r.home == h && r.stage == .satisfiable) then s else State.passWaiters (s.syncs.length + 1) s h

/-- After a ruling on a waiter of a round, the held arrival goes on once none is undecided. A round whose count stands
complete without a held arrival (the next generation of R322) is released. -/
def State.roundGoesOn (s : State) (h : Home) : State :=
  if s.syncs.any (fun r => r.home == h && r.stage == .satisfiable) then s
  else
    match s.syncs.find? (fun r => r.home == h && r.stage == .held) with
    | some x => s.roundArrive x
    | none =>
      let r := s.round h
      if r.a = r.n ∧ ¬ r.drain then (s.setRound h { r with drain := true }).roundSettle h else s

/-- What follows a ruling on a waiter. -/
def State.afterRuling (s : State) (y : SyncReq) : State :=
  if y.v.isRound then s.roundGoesOn y.home else s.wordGoesOn y.home

/-- A waiter of a round is withdrawn from the count (R322). -/
def State.roundWithdraw (s : State) (y : SyncReq) : State :=
  let r := s.round y.home
  if ¬ y.v.isRound then s
  else if ¬ r.drain then s.setRound y.home { r with a := r.a - 1 }
  else if y.early then s.setRound y.home { r with e := r.e - 1 }
  else s

/-- The satisfy event first: the wait succeeds. The waiter's effect is done at once; that of a round keeps its place until its
release. -/
def State.ruleSatisfy (s : State) (y : SyncReq) : State :=
  let s1 := if y.v.isRound then s.setSync y.id (fun r => { r with ruled := true, stage := .parked }) else s.perform y
  (s1.dealerSees (homeDieOf y.home)).afterRuling y

/-- The timeout event first: the wait fails; nothing is read, written or arrived. -/
def State.ruleTimeout (s : State) (y : SyncReq) : State :=
  (((s.roundWithdraw y).syncAnswer y K.timedOut 0).dealerSees (homeDieOf y.home)).afterRuling y

end Sys2Proof.Machine
end

