-- ==== Sys2Proof/Machine/Vector.lean ====
section
/-! DEFINITION. The vector engine (06): lanes and lane types, arithmetic, comparison, conversion, packed rows, pot reading,
reductions and rank sorting. -/

namespace Sys2Proof.Machine

open Sys2Proof

/-! ### Lanes (R166) -/

/-- The lane type of a type code. -/
def vty (ty : BitVec 2) : EFmt := if ty = 0 then .int32 else if ty = 1 then .f16 else if ty = 2 then .f32 else .f64
def vcount (f : EFmt) : Nat := if f = .f64 then 32 else 64
/-- The lane that reports element j's flags (R183). -/
def flagLane (f : EFmt) (j : Nat) : Nat := if f = .f64 then 2 * j else j

/-- Element j of a register. -/
def vElem (c : Cell) (f : EFmt) (v j : Nat) : Nat :=
  if f = .f64 then c.vreg.readLE (256 * v + 8 * j) 8
  else if f = .f16 then c.vreg.readLE (256 * v + 4 * j) 2
  else c.vreg.readLE (256 * v + 4 * j) 4

/-- The bytes an element occupies in its register. -/
def elemBytes (f : EFmt) (code : Nat) : List Byte := leBytes (if f = .f64 then 8 else 4) code

/-- The write of a whole register from its elements. -/
def vWrite (lat vd : Nat) (f : EFmt) (codes : List Nat) : Nat × PW := (lat, .vreg (256 * vd) (codes.flatMap (elemBytes f)))

/-- A scalar operand taken as an element (R167). -/
def scalarElem (f : EFmt) (w : Word) : Nat := w.toNat % 2 ^ f.bits

/-- Operand b of a V-slot instruction (R167). -/
def vOperandB (c : Cell) (f : EFmt) (vb : BitVec 5) (sbit : Bool) (j : Nat) : Nat :=
  if sbit then scalarElem f (c.rs vb) else vElem c f vb.toNat j

/-- All ones or all zeros of an element's width. -/
def maskElem (f : EFmt) (b : Bool) : Nat := if b then 2 ^ f.bits - 1 else 0

/-! ### Element operations (R169 to R173) -/

def toInt32 (code : Nat) : Int := (BitVec.ofNat 32 code).toInt

/-- An exact integer delivered as INT32 (R170). -/
def int32Out (v : Int) : Nat × Fl := (intCode 32 v, ofInt32 v)

def subVal (rm : Rm) (a b : Val) : Val × Fl := if b.isNaN then addVal rm a b else addVal rm a (negVal b)

def binElem (f : VBin) (t : EFmt) (rm : Rm) (a b d : Nat) : Nat × Fl :=
  if t = .int32 then
    let x := toInt32 a
    let y := toInt32 b
    match f with
    | .add => int32Out (x + y)
    | .sub => int32Out (x - y)
    | .mul => int32Out (x * y)
    | .fma => int32Out (x * y + toInt32 d)
    | .div => (0, 0)
  else
    let x := decodeVal t a
    let y := decodeVal t b
    let (v, st, f1) : Val × Bool × Fl :=
      match f with
      | .add => ((addVal rm x y).1, false, (addVal rm x y).2)
      | .sub => ((subVal rm x y).1, false, (subVal rm x y).2)
      | .mul => ((mulVal x y).1, false, (mulVal x y).2)
      | .fma => ((fmaVal rm x y (decodeVal t d)).1, false, (fmaVal rm x y (decodeVal t d)).2)
      | .div => divVal x y
    let (r, f2) := deliver t rm v st
    (r, f1 ||| f2)

def unElem (f : VUn) (t : EFmt) (rm : Rm) (a : Nat) : Nat × Fl :=
  let x := decodeVal t a
  let (v, st, f1) : Val × Bool × Fl :=
    match f with
    | .sqrt => sqrtVal x
    | .rsqrt => rsqrtVal x
    | .exp2 => exp2Val x
  let (r, f2) := deliver t rm v st
  (r, f1 ||| f2)

/-- VABS and VNEG (R169, R170): floats change only the sign bit. -/
def sgnElem (neg : Bool) (t : EFmt) (a : Nat) : Nat × Fl :=
  if t = .int32 then
    let x := toInt32 a
    int32Out (if neg then -x else x.natAbs)
  else
    let low := a % 2 ^ (t.bits - 1)
    (if neg then (if a % 2 ^ t.bits = low then low + 2 ^ (t.bits - 1) else low) else low, 0)

/-- VMIN and VMAX (R172, R173). -/
def minmaxElem (isMax : Bool) (t : EFmt) (a b : Nat) : Nat × Fl :=
  if t = .int32 then
    let x := toInt32 a
    let y := toInt32 b
    (if isMax then (if x < y then b else a) else (if y < x then b else a), 0)
  else
    let x := decodeVal t a
    let y := decodeVal t b
    let fl : Fl := if x.isSig || y.isSig then flNV else 0
    match x, y with
    | .nan s _ fr w, .nan _ _ _ _ => (nanCode t s fr w, fl)
    | .nan _ _ _ _, _ => (b, fl)
    | _, .nan _ _ _ _ => (a, fl)
    | _, _ =>
      let aLess := match cmpVal x y with
        | .lt => true
        | .gt => false
        | .eq => decide (totalKey t a < totalKey t b)
      (if isMax then (if aLess then b else a) else (if aLess then a else b), fl)

def vcmpElem (f : VCmp) (t : EFmt) (a b : Nat) : Bool × Fl :=
  if t = .int32 then
    let x := toInt32 a
    let y := toInt32 b
    (match f with
     | .eq => decide (x = y) | .lt => decide (x < y) | .le => decide (x ≤ y) | .un => false, 0)
  else
    let x := decodeVal t a
    let y := decodeVal t b
    let nan := x.isNaN || y.isNaN
    let sig := x.isSig || y.isSig
    let o := cmpVal x y
    match f with
    | .eq => (!nan && o == .eq, if sig then flNV else 0)
    | .lt => (!nan && o == .lt, if nan then flNV else 0)
    | .le => (!nan && o != .gt, if nan then flNV else 0)
    | .un => (nan, if sig then flNV else 0)

def logElem (f : VLog) (a b : Nat) : Nat :=
  let x : BitVec 32 := BitVec.ofNat 32 a
  let y : BitVec 32 := BitVec.ofNat 32 b
  (match f with
   | .and => x &&& y
   | .or => x ||| y
   | .xor => x ^^^ y
   | .shl => x <<< (b % 32)
   | .shr => x >>> (b % 32)
   | .sra => x.sshiftRight (b % 32)).toNat

/-! ### Latencies (R185) -/

def binLat (f : VBin) (t : EFmt) : Nat :=
  match f with
  | .add | .sub => if t = .f64 then 4 else 2
  | .mul | .fma => if t = .f64 then 6 else 4
  | .div => if t = .f64 then 20 else 12
def unLat (f : VUn) (t : EFmt) : Nat :=
  match f with
  | .sqrt => if t = .f64 then 20 else 12
  | _ => 12
def lat24 (t : EFmt) : Nat := if t = .f64 then 4 else 2

/-! ### Packed rows (R175 to R177) -/

def vcPfmt (w : Word) : Nat := field 3 0 w
def vcSm (w : Word) : ScaleMode := ScaleMode.ofByte (field 11 4 w)
def vcRm (w : Word) : Nat := field 14 12 w
def vcChoose (w : Word) : Bool := bit 15 w
def vcFmt (w : Word) : EFmt := (EFmt.ofCode (vcPfmt w)).getD .int4

/-- The faults of VCFG (R175). -/
def vcfgFault (w : Word) : Option Code :=
  let sm := vcSm w
  if decide (9 < vcPfmt w) || sm.forbidden (vcFmt w) || decide (4 < vcRm w)
      || (vcChoose w && (!sm.en || sm.sfmt)) || field 63 16 w != 0 then some K.eFieldReserved
  else if vcFmt w = .int32 ∨ vcFmt w = .f32 ∨ vcFmt w = .f64 then some K.eShape
  else if vcChoose w && (sm.dir || decide (64 < sm.size)) then some K.eShape else none

/-- Elements of a tile row of a packed format, and of one instruction (R176). -/
def packRow (f : EFmt) : Nat := if f.is4 then 128 else if f = .f16 then 32 else 64
def packN (f : EFmt) : Nat := if f = .f16 then 32 else 64

/-- The row element and the lane of an instruction's element i (R176). -/
def packElem (f : EFmt) (h : Bool) (i : Nat) : Nat := if f.is4 ∧ h then 64 + i else i
def packLane (f : EFmt) (h : Bool) (i : Nat) : Nat := if f = .f16 ∧ h then 32 + i else i

/-- h must be zero where the format covers a row whole (R176). -/
def packHBad (f : EFmt) (h : Bool) : Bool := h && !(f.is4 || f == .f16)

/-- The scale number of element i in sv (R177). -/
def packScaleNo (f : EFmt) (sm : ScaleMode) (h : Bool) (i : Nat) : Nat :=
  if sm.dir then i else packElem f h i / sm.size - packElem f h 0 / sm.size

/-- Scale n of a register (R177). -/
def packScale (c : Cell) (sv : Nat) (sm : ScaleMode) (n : Nat) : Val :=
  if sm.sfmt then scaleVal true (c.vreg.readLE (256 * sv + 2 * n) 2)
  else scaleVal false (c.vreg.readLE (256 * sv + n) 1)

/-- Codes packed into bytes, lowest element at the lowest bits. -/
def packBytes (bits : Nat) (codes : List Nat) : List Byte :=
  leBytes (codes.length * bits / 8) (codes.foldr (fun x acc => x % 2 ^ bits + acc * 2 ^ bits) 0)

/-! ### Reductions (R180, R181) -/

/-- One level of the pairwise tree. -/
def treeLevel (t : EFmt) (rm : Rm) : List Nat → List Nat × Fl
  | a :: b :: r =>
    let (c, f1) := binElem .add t rm a b 0
    let (l, f2) := treeLevel t rm r
    (c :: l, f1 ||| f2)
  | l => (l, 0)

/-- The pairwise tree over a list of a power of two of elements, `fuel` levels. -/
def treeSum (t : EFmt) (rm : Rm) : Nat → List Nat → Nat × Fl
  | 0, l => (l.headD 0, 0)
  | n + 1, l =>
    match l with
    | [x] => (x, 0)
    | _ =>
      let (l', f1) := treeLevel t rm l
      let (r, f2) := treeSum t rm n l'
      (r, f1 ||| f2)

/-- The exact sum of binary16 elements in binary32, rounded once (R181). -/
def sumF16 (rm : Rm) (l : List Nat) : Nat × Fl :=
  let vs := l.map (decodeVal .f16)
  let sig : Fl := if vs.any Val.isSig then flNV else 0
  match vs.find? Val.isNaN with
  | some v => ((deliver .f32 rm v).1, sig)
  | none =>
    let pos := vs.any (fun v => v == .inf false)
    let neg := vs.any (fun v => v == .inf true)
    if pos && neg then ((deliver .f32 rm .defaultNaN).1, flNV)
    else if pos || neg then deliver .f32 rm (.inf neg)
    else
      let total : Int := vs.foldl (fun a v => match v with | .fin s m e => a + alignInt s m e (-24) | _ => a) 0
      if total = 0 then
        let allNeg := vs.all (fun v => match v with | .fin s m _ => s && m == 0 | _ => false)
        (if allNeg || rm == .rdn then 2 ^ 31 else 0, 0)
      else deliver .f32 rm (.fin (decide (total < 0)) total.natAbs (-24))

/-- The index of the best element by rank, the lowest index among equals; MIN ignores NaNs. -/
def bestIdx (isMax : Bool) (t : EFmt) : List Nat → Nat → Option (Nat × Nat) → Option (Nat × Nat)
  | [], _, best => best
  | x :: r, i, best =>
    let v := decodeVal t x
    let best' := match best with
      | none => if !isMax && v.isNaN then none else some (i, x)
      | some (j, y) =>
        let o := rankVal v (decodeVal t y)
        if isMax then (if o == .gt then some (i, x) else some (j, y))
        else if v.isNaN then some (j, y) else if o == .lt then some (i, x) else some (j, y)
    bestIdx isMax t r (i + 1) best'

/-- A reduction (R181): result code, its format, flags. An arg op delivers the index as an INT32 code. -/
def reduce (f : RedF) (t : EFmt) (rm : Rm) (l : List Nat) : Nat × EFmt × Fl :=
  let pick (isMax : Bool) : Nat × Nat := (bestIdx isMax t l 0 none).getD (0, l.headD 0)
  match f with
  | .sum =>
    if t = .f16 then ((sumF16 rm l).1, .f32, (sumF16 rm l).2)
    else if t = .int32 then
      let v : Int := l.foldl (fun a x => a + toInt32 x) 0
      ((int32Out v).1, .int32, (int32Out v).2)
    else ((treeSum t rm 6 l).1, t, (treeSum t rm 6 l).2)
  | .max => ((pick true).2, t, 0)
  | .min => ((pick false).2, t, 0)
  | .argmax => ((pick true).1, .int32, 0)
  | .argmin => ((pick false).1, .int32, 0)

/-- A result in an S register: INT32 sums and elements are sign-extended, the rest zero-extended (R180). -/
def redWord (f : RedF) (t : EFmt) (code : Nat) : Word :=
  match f with
  | .argmax | .argmin => BitVec.ofNat 64 code
  | _ => if t = .int32 then (BitVec.ofNat 32 code).signExtend 64 else BitVec.ofNat 64 code

/-! ### Rank sort (R182) -/

/-- Insert (score code, key) behind those that come before it or tie with it. -/
def rankInsert (t : EFmt) (x : Nat × Nat) : List (Nat × Nat) → List (Nat × Nat)
  | [] => [x]
  | y :: r => if selectCmp t x.1 x.2 y.1 y.2 == .lt then x :: y :: r else y :: rankInsert t x r

def rankSort (t : EFmt) (l : List (Nat × Nat)) : List (Nat × Nat) := l.foldl (fun a x => rankInsert t x a) []

/-! ### Pot reading with an addend (R178) -/

/-- The flags that R160 raises from an entry's bits, by the branch its state takes. -/
def potBitFlags (st : PotState) (e : PotEntry) (t : EFmt) : Fl :=
  if st.mode = .f32 then potFlags e
  else if e.nan then (if e.nv then flNV else 0)
  else if e.pinf && e.ninf then flNV
  else if e.pinf || e.ninf then (if e.nv then flNV else 0)
  else if t = .int32 then 0 else potFlags { e with uf := false }

/-- VPOTA and VPOTZA on one entry (R178). -/
def potReadAdd (st : PotState) (e : PotEntry) (t : EFmt) (rm : Rm) (a : Nat) : Nat × Fl :=
  let acc := decodeVal .f32 (e.p.toNat % 2 ^ 32)
  let f32special := st.mode = .f32 ∧ (acc.isNaN ∨ acc = .inf true ∨ acc = .inf false)
  if e.nan ∨ e.pinf ∨ e.ninf ∨ f32special then
    let (r, f) := binElem .add t rm (potRead st e t rm).1 a 0
    (r, f ||| potBitFlags st e t)
  else if t = .int32 then
    let v := e.p.toInt + toInt32 a
    (intCode 32 v, ofInt32 v ||| potBitFlags st e t)
  else
    let x : Val := if st.mode = .f32 then acc else (if e.p = 0 then .fin false 0 0 else e.val st.pe)
    let (v, f1) := addVal rm x (decodeVal t a)
    let (r, f2) := deliver t rm v
    (r, f1 ||| f2 ||| potBitFlags st e t)

/-! ### Evaluation -/

/-- A slot that only writes. -/
def SlotOut.ws (l : List (Nat × PW)) : SlotOut := { writes := l }

def vOuts (lat vd : Nat) (t : EFmt) (outs : List (Nat × Fl)) : List (Nat × PW) :=
  vWrite lat vd t (outs.map Prod.fst) ::
    flagWrites lat ((List.range outs.length).zip outs |>.map (fun e => (flagLane t e.1, e.2.2)))

/-- A type that R168 does not allow. -/
def shapeUnless (ok : Bool) (o : SlotOut) : SlotOut := if ok then o else .bad K.eShape

/-- VCVT (R174). From binary64 to binary64 h selects nothing and is ignored (DESIGN CHOICE, log entry 116). -/
def evalVcvt (c : Cell) (vd va : BitVec 5) (ta td : BitVec 2) (h : Bool) (rm : Rm) : SlotOut :=
  let src := vty ta
  let dst := vty td
  let lat := if src = .f64 ∨ dst = .f64 then 4 else 2
  let base := if h then 32 else 0
  if dst = .f64 ∨ src ≠ .f64 then
    -- the whole register is written
    let n := vcount dst
    let outs := (List.range n).map (fun j =>
      convertCode src dst rm (vElem c src va.toNat (if dst = .f64 ∧ src ≠ .f64 then base + j else j)))
    { writes := vOuts lat vd.toNat dst outs }
  else
    let outs := (List.range 32).map (fun j => convertCode src dst rm (vElem c src va.toNat j))
    { writes := (lat, .vreg (256 * vd.toNat + 4 * base) (outs.flatMap (fun o => elemBytes dst o.1)))
        :: flagWrites lat ((List.range 32).zip outs |>.map (fun e => (base + e.1, e.2.2))) }

def evalVunpk (c : Cell) (vd sv idx : BitVec 5) (tile : BitVec 4) (h : Bool) (td : EFmt) : SlotOut :=
  let w := c.vcfg
  let f := vcFmt w
  let sm := vcSm w
  match Rm.ofCode (vcRm w) with
  | none => .bad K.eFieldReserved
  | some rm =>
    if packHBad f h then .bad K.eFieldReserved
    else
      let codes := rowCodes c.tile tile.toNat ((c.rs idx).toNat % 32) f.bits (packRow f)
      let outs := (List.range (packN f)).map (fun i =>
        let code := codes.getD (packElem f h i) 0
        if sm.en then
          let (v, f1) := scaledVal (decodeVal f code) (packScale c sv.toNat sm (packScaleNo f sm h i))
          let (r, f2) := deliver td rm v
          (r, f1 ||| f2)
        else convertCode f td rm code)
      let lanes := (List.range 64).map (fun l =>
        if packLane f h 0 ≤ l then (outs.getD (l - packLane f h 0) (0, 0)).1 else 0)
      { writes := vWrite 3 vd.toNat td lanes
          :: flagWrites 3 ((List.range outs.length).zip outs |>.map (fun e => (packLane f h e.1, e.2.2))) }

def evalVpack (c : Cell) (va sv idx : BitVec 5) (tile : BitVec 4) (h : Bool) (ta : EFmt) : SlotOut :=
  let w := c.vcfg
  let f := vcFmt w
  let sm := vcSm w
  match Rm.ofCode (vcRm w) with
  | none => .bad K.eFieldReserved
  | some rm =>
    if packHBad f h then .bad K.eFieldReserved
    else
      let n := packN f
      let src := (List.range n).map (fun i => vElem c ta va.toNat (packLane f h i))
      -- the scales chosen, one per block the instruction covers (R91, R177)
      let nb := if n = 0 then 0 else packScaleNo f sm h (n - 1) + 1
      let chosen := (List.range nb).map (fun b =>
        chooseScale f (((List.range n).zip src).filterMap (fun e =>
          if packScaleNo f sm h e.1 = b then some (decodeVal ta e.2) else none)))
      let outs := ((List.range n).zip src).map (fun e =>
        if sm.en then
          let b := packScaleNo f sm h e.1
          let sc := if vcChoose w then scaleVal false (chosen.getD b (0, 0)).1 else packScale c sv.toNat sm b
          deliverScaled f rm (decodeVal ta e.2) sc
        else convertCode ta f rm e.2)
      let off := packElem f h 0 * f.bits / 8
      let row := 2048 * tile.toNat + 64 * ((c.rs idx).toNat % 32) + off
      { writes := [(3, PW.tile row (packBytes f.bits (outs.map Prod.fst)))]
          ++ (if vcChoose w then
                [(3, PW.vreg (256 * sv.toNat)
                  ((List.range 256).map (fun i => BitVec.ofNat 8 (chosen.getD i (0, 0)).1)))] else [])
          ++ flagWrites 3 ((List.range n).zip outs |>.map (fun e => (packLane f h e.1, e.2.2))) }

def evalVpot (c : Cell) (withAdd zero : Bool) (vd va idx : BitVec 5) (d : Bool) (t : EFmt) (rm : Rm) (inc : Bool) :
    SlotOut :=
  let mode := (c.pst d).mode
  if t = .f64 ∨ (t = .int32 ∧ (mode = .fx ∨ mode = .f32)) then .bad K.eShape
  else
    let s' := (c.rs idx).toNat % 16
    let outs := (List.range 64).map (fun l =>
      let e := c.entry d (64 * s' + l)
      if withAdd then potReadAdd (c.pvis d) e t rm (vElem c t va.toNat l) else potRead (c.pvis d) e t rm)
    { writes := (if zero then [(8, PW.potZero d [2 * s', 2 * s' + 1])] else [])
        ++ vOuts 4 vd.toNat t outs ++ postInc c idx inc false }

/-- VTRED (R180). -/
def evalVtred (c : Cell) (f : RedF) (vd : BitVec 5) (tile : BitVec 4) (axis : Bool) (t : EFmt) (rm : Rm) : SlotOut :=
  let n := if t = .f16 then 32 else 16
  let rows := (List.range 32).map (fun r => rowCodes c.tile tile.toNat r t.bits n)
  let lists := if axis then (List.range n).map (fun j => rows.map (fun r => r.getD j 0)) else rows
  let outs := lists.map (fun l => reduce f t rm l)
  let codes := (List.range 64).map (fun i => match outs[i]? with | some o => o.1 | none => 0)
  { writes := vWrite 6 vd.toNat .int32 codes
      :: flagWrites 6 ((List.range outs.length).zip outs |>.map (fun e => (e.1, e.2.2.2))) }

/-- The V slot, its guard true. -/
def evalV (s : State) (k : CellRef) (op : VOp) : SlotOut :=
  let c := s.cell k
  let rmOf (rm : BitVec 3) : Rm := (Rm.ofCode rm.toNat).getD .rne
  match op with
  | .nop => {}
  | .bad code => .bad code
  | .bin f vd va vb sbit ty rm =>
    let t := vty ty
    shapeUnless (!(f == .div && t == .int32)) (.ws (vOuts (binLat f t) vd.toNat t
      ((List.range (vcount t)).map (fun j =>
        binElem f t (rmOf rm) (vElem c t va.toNat j) (vOperandB c t vb sbit j) (vElem c t vd.toNat j)))))
  | .minmax isMax vd va vb sbit ty =>
    let t := vty ty
    (.ws (vOuts (lat24 t) vd.toNat t ((List.range (vcount t)).map (fun j =>
        minmaxElem isMax t (vElem c t va.toNat j) (vOperandB c t vb sbit j)))))
  | .un f vd va ty rm =>
    let t := vty ty
    shapeUnless (t != .int32 && (f == .sqrt || t != .f64)) (.ws (vOuts (unLat f t) vd.toNat t
      ((List.range (vcount t)).map (fun j => unElem f t (rmOf rm) (vElem c t va.toNat j)))))
  | .sgn neg vd va ty =>
    let t := vty ty
    (.ws (vOuts 1 vd.toNat t ((List.range (vcount t)).map (fun j => sgnElem neg t (vElem c t va.toNat j)))))
  | .cmp f vd va vb sbit ty =>
    let t := vty ty
    (.ws (vOuts (lat24 t) vd.toNat t ((List.range (vcount t)).map (fun j =>
        let r := vcmpElem f t (vElem c t va.toNat j) (vOperandB c t vb sbit j)
        (maskElem t r.1, r.2)))))
  | .sel vd va vb sbit ty =>
    let t := vty ty
    (.ws ([vWrite 1 vd.toNat t ((List.range (vcount t)).map (fun j =>
        if vElem c t vd.toNat j ≠ 0 then vElem c t va.toNat j else vOperandB c t vb sbit j))]))
  | .anyAll all pd va =>
    let l := (List.range 64).map (fun j => vElem c .int32 va.toNat j != 0)
    .one 2 (.p pd.toNat (if all then l.all id else l.any id))
  | .logic f vd va vb sbit =>
    (.ws ([vWrite 1 vd.toNat .int32 ((List.range 64).map (fun j =>
        logElem f (vElem c .int32 va.toNat j) (vOperandB c .int32 vb sbit j)))]))
  | .bcast vd va ty =>
    let t := vty ty
    (.ws ([vWrite 1 vd.toNat t (List.replicate (vcount t) (scalarElem t (c.rs va)))]))
  | .iota vd va =>
    (.ws ([vWrite 1 vd.toNat .int32 ((List.range 64).map (fun l => (l + (c.rs va).toNat) % 2 ^ 32))]))
  | .ext rd va vb ty =>
    let t := vty ty
    let e := vElem c t va.toNat ((c.rs vb).toNat % vcount t)
    .one 2 (.s rd.toNat (if t = .int32 then (BitVec.ofNat 32 e).signExtend 64 else BitVec.ofNat 64 e))
  | .rot vd va vb =>
    (.ws ([vWrite 1 vd.toNat .int32 ((List.range 64).map (fun l =>
        vElem c .int32 va.toNat ((l + (c.rs vb).toNat) % 64)))]))
  | .cfg ra =>
    (match vcfgFault (c.rs ra) with
     | some e => .bad e
     | none => .one 1 (.vcfg (c.rs ra)))
  | .cvt vd va ta td h rm => evalVcvt c vd va ta td h (rmOf rm)
  | .unpk vd sv idx tile h td => shapeUnless (vty td != .f64) (evalVunpk c vd sv idx tile h (vty td))
  | .pack va sv idx tile h ta => shapeUnless (vty ta != .f64) (evalVpack c va sv idx tile h (vty ta))
  | .pot withAdd zero vd va idx d ty rm inc => evalVpot c withAdd zero vd va idx d (vty ty) (rmOf rm) inc
  | .tred f vd tile axis ty rm => shapeUnless (vty ty != .f64) (evalVtred c f vd tile axis (vty ty) (rmOf rm))
  | .red f rd va ty rm =>
    let t := vty ty
    let o := reduce f t (rmOf rm) ((List.range (vcount t)).map (fun j => vElem c t va.toNat j))
    (.ws ((8, PW.s rd.toNat (redWord f o.2.1 o.1)) :: flagWrites 8 [(0, o.2.2)]))
  | .rank vd va vb ty =>
    let t := vty ty
    let l := rankSort t ((List.range 64).map (fun j => (vElem c t va.toNat j, vElem c .int32 vb.toNat j)))
    shapeUnless (t != .f64) (.ws ([vWrite 12 vd.toNat t (l.map Prod.fst),
      vWrite 12 ((vd.toNat + 1) % 32) .int32 (l.map Prod.snd)]))
  | .getf clr vd =>
    (.ws (vWrite 1 vd.toNat .int32 ((List.range 64).map (fun l => (SMap.get (fun _ => 0) c.lanes l).toNat))
        :: (if clr then [(1, PW.lanesClr)] else [])))

end Sys2Proof.Machine
end

