-- ==== Sys2Proof/Machine/XUnit.lean ====
section
/-! DEFINITION. The X slot (R123 to R129, R195 to R198, R261, R265, R266, R313, R328): what each instruction does when
its word issues, and while what it blocks. -/

namespace Sys2Proof.Machine

open Sys2Proof

/-! ### Links -/

/-- The output ports that the pull points on the presented word drive (R220). -/
def State.pullOuts (s : State) (k : CellRef) : List Nat :=
  (s.pullsAt k (s.cell k).pc).flatMap (fun p => s.routeOuts k p)

/-- A send on a port (R55, R127, R222): fenced, or driven in this cycle by a route or a unit. -/
def State.sendFault (s : State) (k : CellRef) (p : Nat) : Option Code :=
  if s.fenced k p then some K.ePortFenced
  else if s.driven k p ∨ (s.pullOuts k).contains p then some K.eLinkOverrun else none

/-- The data token that an XRECV on a port would take (R127, R224, R232). -/
def State.recvTok (s : State) (k : CellRef) (p : Nat) : Option Token :=
  if s.isCrossing k p then
    match s.fifoHead k p with
    | some t => if t.kind ∨ ¬ (s.steerFed k p).isEmpty then none else some t
    | none => none
  else s.usableTok k p

/-! ### Streams -/

/-- Whether a slot is used by an engine that is not idle (R125). -/
def Cell.slotUsed (c : Cell) (slot : Nat) : Bool :=
  (List.range 4).any (fun e => (c.eng e).state != .idle && (c.eng e).slot == slot)

/-- SDESC (R197). -/
def evalSdesc (s : State) (k : CellRef) (slot : Nat) (a : Word) : SlotOut :=
  if (s.cell k).slotUsed slot then .bad K.eStreamState
  else if a.toNat % 128 ≠ 0 then .bad K.eAlign
  else if sramSize k < a.toNat + 128 then .bad K.eSramRange
  else { SlotOut.one 1 (.desc slot (s.sramN k a.toNat 128)) with acts := s.readActs k a.toNat 128 }

/-- SSTART (R125, R195). -/
def evalSstart (s : State) (k : CellRef) (e slot : Nat) : SlotOut :=
  let c := s.cell k
  if (c.eng e).state ≠ .idle ∨ ¬ c.descOk.getLsbD slot ∨ c.slotUsed slot then .bad K.eStreamState
  else match Desc.check (c.desc.readN (128 * slot) 128) (sramSize k) with
    | some code => .bad (BitVec.ofNat 16 code)
    | none => { acts := [.start e slot] }

/-! ### Places as source and destination -/

/-- Two places with one index: the faults, the beat, and where it goes. `bs` and `seat` are given for a token. -/
def place2 (s : State) (k : CellRef) (dst src : BitVec 8) (idx : BitVec 5) (inc : Bool) : SlotOut :=
  let c := s.cell k
  let d := placeOf dst
  let sr := placeOf src
  let i := c.rs idx
  let sram := d == .sram || sr == .sram
  match s.placeFault k sr i false with
  | some e => .bad e
  | none =>
    match s.placeFault k d i true with
    | some e => .bad e
    | none =>
      let lat := if sr = .sram then 3 else 2
      let (ws, acts) := writePlace d i sram lat (s.readPlace k sr i sram) none
      { writes := ws ++ postInc c idx inc sram,
        acts := s.placeActs k sr i ++ (match sr with | .stream e => [.popBeat e] | _ => []) ++ acts }

/-- XSEND (R124, R216). -/
def evalSend (s : State) (k : CellRef) (port src : Nat) (idx : BitVec 5) (inc : Bool) : SlotOut :=
  let c := s.cell k
  let p := placeOf (BitVec.ofNat 8 src)
  let i := c.rs idx
  match s.sendFault k port with
  | some e => .bad e
  | none =>
    match s.placeFault k p i false with
    | some e => .bad e
    | none =>
      let bs := s.readPlace k p i (p == .sram)
      let t : Token := ⟨BitVec.ofNat 256 (leNat bs), false, false, (s.isl k.isl).epoch, c.seat⟩
      { writes := postInc c idx inc (p == .sram),
        acts := s.placeActs k p i ++ (match p with | .stream e => [.popBeat e] | _ => []) ++ [.send port t] }

/-- XRECV (R124, R127). -/
def evalRecv (s : State) (k : CellRef) (dst : BitVec 8) (port : Nat) (idx : BitVec 5) (inc : Bool) : SlotOut :=
  let c := s.cell k
  let d := placeOf dst
  let i := c.rs idx
  if s.fenced k port then .bad K.ePortFenced
  else
    match s.placeFault k d i true with
    | some e => .bad e
    | none =>
      match s.recvTok k port with
      | none => .bad K.eLinkUnderrun
      | some t =>
        let (ws, acts) := writePlace d i (d == .sram) 2 (leBytes 32 t.payload.toNat) (some t.seat)
        { writes := ws ++ postInc c idx inc (d == .sram), acts := .take port :: acts }

/-! ### Sieve (R261, R265, R266) -/

/-- The fault of a configuration, by the order of tests of R261. -/
def svcfgFault (k : CellRef) (v : Word) : Option Code :=
  let c : BitVec 37 := v.setWidth 37
  if bit 35 v ∨ field 63 37 v ≠ 0 then some K.eFieldReserved
  else if ¬ svEn c then none
  else if field 11 10 v = 3 ∨ field 14 12 v = 7 ∨ field 34 32 v = 7 then some K.eFieldReserved
  else if sramSize k < svABase c + svASize c then some K.eSramRange
  else if svWBase c % svWSize c ≠ 0 then some K.eAlign
  else if sramSize k < svWBase c + svWSize c then some K.eSramRange
  else if overlap (svWBase c) (svWSize c) (svABase c) (svASize c) then some K.eFieldReserved
  else none

/-- The checks of a list number (R265). -/
def listFault (c : Cell) (rl : Word) : Option Code :=
  if ¬ svEn c.sieve.cfg then some K.eStreamState
  else if svLists c.sieve.cfg ≤ rl.toNat then some K.eFieldReserved else none

def Sieve.list (v : Sieve) (l : Nat) : List Pair := SMap.get (fun _ => []) v.lists l

/-- Writes of the sequencer port that become visible in the present schedule cycle have landed by now, so a list read
here is R260's. -/
def evalFlush (c : Cell) (k : CellRef) (rl ra rf : Word) (f : Bool) : SlotOut :=
  let cfg := c.sieve.cfg
  match listFault c rl with
  | some e => .bad e
  | none =>
    let ps := c.sieve.list rl.toNat
    let len := (flushImage (svFmt cfg) f rl.toNat ps).length
    if ra.toNat % 32 ≠ 0 ∨ rf.toNat % 8 ≠ 0 then .bad K.eAlign
    else if sramSize k < ra.toNat + len ∨ sramSize k < rf.toNat + 8 then .bad K.eSramRange
    else if overlap ra.toNat len (svABase cfg) (svASize cfg) ∨ overlap ra.toNat len (svWBase cfg) (svWSize cfg) then
      .bad K.eFieldReserved
    else if 64 ≤ c.sieve.flushes.length then .bad K.eStreamState
    else { acts := [.svflush rl.toNat ra.toNat rf.toNat f] }

/-! ### Synchronisation at issue (R112, R126, R313) -/

/-- Whether a request has a deadline: rb names a register other than S0, and the operation is no RSET. -/
def syncTimed (v : SyncV) (rb : BitVec 5) : Bool := v != .rset && rb != 0

def SyncV.isLoad : SyncV → Bool
  | .ldfe => true | .ldff => true | .ldxx => true | .ldxe => true | _ => false

def evalSync (c : Cell) (v : SyncV) (rd rb : BitVec 5) (pd : BitVec 3) : SlotOut :=
  match c.sync with
  | .answered ok val =>
    { writes := (if v.isLoad ∧ ok then [(1, PW.s rd.toNat val)] else []) ++
        (if syncTimed v rb then [(1, PW.p pd.toNat ok)] else []),
      acts := [.syncDone] }
  | _ => {}

/-- CHSEND at issue (R328). -/
def evalChsend (s : State) (k : CellRef) (ra rs rl : Word) : SlotOut :=
  if rs.toNat % 32 ≠ 0 then .bad K.eAlign
  else if sramSize k < rs.toNat + rl.toNat then .bad K.eSramRange
  else { acts := s.readActs k rs.toNat rl.toNat ++ [.chsend ra (s.sramN k rs.toNat rl.toNat)] }

/-! ### The slot -/

/-- The X slot, its guard true, when its word issues. -/
def evalX (s : State) (k : CellRef) (op : XOp) : SlotOut :=
  let c := s.cell k
  match op with
  | .nop => {}
  | .bad code => .bad code
  | .mov dst src idx inc => place2 s k dst src idx inc
  | .send port src idx inc => evalSend s k port.toNat src.toNat idx inc
  | .recv dst port idx inc => evalRecv s k dst port.toNat idx inc
  | .ctl port pa unit =>
    (match s.sendFault k port.toNat with
     | some e => .bad e
     | none => { acts := [.send port.toNat ⟨BitVec.ofNat 256 (b2n (c.rp pa)), true, unit, (s.isl k.isl).epoch, 0⟩] })
  | .sdesc slot ra => evalSdesc s k slot.toNat (c.rs ra)
  | .sstart e slot => evalSstart s k e.toNat slot.toNat
  | .sstop e => if (c.eng e.toNat).state = .idle then .bad K.eStreamState else { acts := [.stop e.toNat] }
  | .swait _ => {}
  | .sync v rd _ rb pd => evalSync c v rd rb pd
  | .chsend ra rs rl => evalChsend s k (c.rs ra) (c.rs rs) (c.rs rl)
  | .svcfg ra =>
    (match svcfgFault k (c.rs ra) with
     | some e => .bad e
     | none => { acts := [.svcfg (c.rs ra)] })
  | .svclr all rl =>
    if all then (if svEn c.sieve.cfg then { acts := [.svclr none] } else .bad K.eStreamState)
    else (match listFault c (c.rs rl) with
     | some e => .bad e
     | none => { acts := [.svclr (some (c.rs rl).toNat)] })
  | .svflush rl ra rf f => evalFlush c k (c.rs rl) (c.rs ra) (c.rs rf) f

/-! ### Blocking (R129); classes 3 FIFO, 4 stream, 5 sync are the bits of ISL_SEQ.reason -/

/-- The head of a crossing FIFO is not readable by an XRECV or a pull point. -/
def State.headMissing (s : State) (k : CellRef) (p : Nat) : Bool := s.isCrossing k p && !s.fenced k p && (s.recvTok k p).isNone

/-- A source place waits for its beat. -/
def Cell.srcWaits (c : Cell) (p : BitVec 8) : Bool :=
  match placeOf p with
  | .stream e => (c.eng e).placeOk false && !(c.eng e).headLanded
  | _ => false

/-- Ring space in use by an outbound engine: from its oldest beat not yet done to the beats pushed. -/
def Engine.span (x : Engine) : Nat :=
  match x.ring with
  | [] => 0
  | b :: _ => x.moved - b.idx

/-- A destination place waits for ring space. -/
def Cell.dstWaits (c : Cell) (p : BitVec 8) : Bool :=
  match placeOf p with
  | .stream e =>
    let x := c.eng e
    x.placeOk true && decide (ringBeats (c.descOf x.slot) ≤ x.span)
  | _ => false

/-- The table's channel that a CHSEND names; the code of the failure (R325, R328). -/
def State.chsendCheck (s : State) (k : CellRef) (ra rl : Word) : Except Code (Nat × Nat) :=
  s.sendCheck ra rl.toNat 4096 (s.chOfTable (s.isl k.isl).table)

/-- Bytes of an island's message buffer (R328). -/
def chBuffer : Nat := 16384

def State.chsendWaits (s : State) (k : CellRef) (ra rl : Word) : Bool :=
  match s.chsendCheck k ra rl with
  | .error _ => true
  | .ok (die, ch) =>
    s.chState die ch == 1 &&
      (!s.chCredit die ch rl.toNat || decide (chBuffer < (s.isl k.isl).chbuf + rl.toNat))

/-- The output port of a send is full. -/
def State.sendWaits (s : State) (k : CellRef) (p : Nat) : Bool := !s.fenced k p && s.outFull k p

/-- The classes in which an executing X slot blocks: none, one, or FIFO and stream. -/
def blockX (s : State) (k : CellRef) (op : XOp) : List Nat :=
  let c := s.cell k
  match op with
  | .recv dst port _ _ => (if s.headMissing k port.toNat then [3] else []) ++ (if c.dstWaits dst then [4] else [])
  | .send port src _ _ => (if s.sendWaits k port.toNat then [3] else []) ++ (if c.srcWaits src then [4] else [])
  | .ctl port _ _ => if s.sendWaits k port.toNat then [3] else []
  | .mov dst src _ _ => if c.srcWaits src || c.dstWaits dst then [4] else []
  | .swait e => if (c.eng e.toNat).state = .idle then [] else [4]
  | .sync _ _ _ _ _ => (match c.sync with | .answered _ _ => [] | _ => [5])
  | .chsend ra _ rl => if s.chsendWaits k (c.rs ra) (c.rs rl) then [5] else []
  | _ => []

/-! ### Presentation (R311, R314) -/

/-- A failed request of a cell: a sync event to its dealer, and the word never issues (R311). -/
def State.syncFailed (s : State) (k : CellRef) (code : Code) : State :=
  ({ s with syncNext := s.syncNext + 1 }.updCell k (fun c => { c with sync := .waiting s.syncNext })).raise
    (s.homeDie (s.isl k.isl).table k.isl) (.syncFail (gid k) code)

/-- What the first presentation of an executing X slot sends: a sync request, once. -/
def State.presentX (s : State) (k : CellRef) (op : XOp) : State :=
  let c := s.cell k
  match op with
  | .sync v rd ra rb _ =>
    (match c.sync with
     | .none =>
       let t := (s.isl k.isl).table
       let s := s.syncLearn (islAgent k.isl) (islDie k.isl) t (c.rs ra)
       (match s.syncTrans (islAgent k.isl) (islDie k.isl) t (c.rs ra) with
        | .error e => s.syncFailed k e
        | .ok h =>
          let timed := syncTimed v rb
          let r : SyncReq :=
            { id := s.syncNext, who := .cell (gid k), v := v, home := h,
              value := if v = .rset then (c.rs rb) &&& 0xFFFF else c.rs rd, timed := timed,
              deadline := if timed then s.gtime + c.rs rb else 0, table := t, cmd := s.ecmd t, early := false,
              ruled := false, expired := false, stage := .travelling }
          ({ s with syncNext := s.syncNext + 1 }.updCell k (fun c => { c with sync := .waiting s.syncNext })).sendSync r)
     | _ => s)
  | .chsend ra _ rl =>
    (match c.sync, s.chsendCheck k (c.rs ra) (c.rs rl) with
     | .none, .error e => s.syncFailed k e
     | _, _ => s)
  | _ => s

end Sys2Proof.Machine
end

