-- ==== Sys2Proof/Machine/Issue.lean ====
section
/-! DEFINITION. The island cycle (R107 to R121, R129 to R137): evaluating presented words, faults and clashes, what an
issued word does, writes becoming visible, stall cycles; and the drive of one instruction into a cell (log entry 1). -/

namespace Sys2Proof.Machine

open Sys2Proof

/-! ### Writes that become visible (R110, R153, R156, R183) -/

def Cell.setPot (c : Cell) (d : Bool) (m : SMap PotEntry) : Cell := if d then { c with pot1 := m } else { c with pot0 := m }
def Cell.setPst (c : Cell) (d : Bool) (x : PotState) : Cell := if d then { c with ps1 := x } else { c with ps0 := x }
def Cell.setPvis (c : Cell) (d : Bool) (x : PotState) : Cell := if d then { c with pv1 := x } else { c with pv0 := x }

def potUpd (m : SMap PotEntry) (i : Nat) (f : PotEntry → PotEntry) : SMap PotEntry :=
  SMap.set PotEntry.dflt m i (f (SMap.get PotEntry.dflt m i))

def Cell.orLanes (c : Cell) (l : List (Nat × BitVec 5)) : Cell :=
  { c with lanes := l.foldl (fun m e => SMap.set (fun _ => 0) m e.1 (SMap.get (fun _ => 0) m e.1 ||| e.2)) c.lanes }

/-- A write of a cell's own state. -/
def Cell.applyPW (c : Cell) (w : PW) : Cell :=
  match w with
  | .s r v => c.ws r v
  | .p r v => c.wp r v
  | .lc n v => c.wlc n v
  | .seat v => { c with seat := v }
  | .flagClr v => { c with flags := c.flags &&& ~~~v }
  | .lanesClr => { c with lanes := [] }
  | .flags v => { c with flags := c.flags ||| v }
  | .lanes l => c.orLanes l
  | .sram _ _ _ => c
  | .tile a bs => { c with tile := Bytes.writeN c.tile a bs }
  | .vreg a bs => { c with vreg := Bytes.writeN c.vreg a bs }
  | .mcfg v => { c with mcfg := v }
  | .vcfg v => { c with vcfg := v }
  | .desc slot bs =>
    { c with desc := Bytes.writeN c.desc (128 * slot) bs, descOk := c.descOk ||| (1#8 <<< slot) }
  | .potTrack d x => c.setPst d x
  | .potMode d x => c.setPvis d x
  | .potClear d => (c.setPot d []).setPvis d {}
  | .potZero d rows =>
    c.setPot d (rows.foldl (fun m r => (List.range 32).foldl (fun m j => SMap.erase (32 * r + j) m) m) (c.pot d))
  | .potAdd d ts => c.setPot d (ts.foldl (fun m t => potUpd m t.1 (fun e => e.combine t.2)) (c.pot d))
  | .potF32 d rm ts =>
    c.setPot d (ts.foldl (fun m t => potUpd m t.1
      (fun e => t.2.foldl (fun e ab => f32Step ((Rm.ofCode rm).getD .rne) e ab.1 ab.2) e)) (c.pot d))

/-- A store lands in local SRAM. A block that it does not write whole is decoded first, and nothing is merged into an
uncorrectable one (R296, R501). -/
def State.sramStore (s : State) (k : CellRef) (off : Nat) (bs : List Byte) (seat : Option (BitVec 6)) : State :=
  if s.plain (sramBase k + off) bs.length then s.sramLand k off bs seat
  else
    let (s1, ok) := s.readRange (islDie k.isl) 0 (s.isl k.isl).table [] (blocksPart (sramBase k + off) bs.length)
    if ok then s1.sramLand k off bs seat else s1

/-- A write: bytes of local SRAM go through the sieve's window test (R263), all else changes the cell. -/
def State.applyPW (s : State) (k : CellRef) (w : PW) : State :=
  match w with
  | .sram a bs seat => s.sramStore k a bs seat
  | w => s.updCell k (fun c => c.applyPW w)

/-- Clears take effect before sets of the same cycle (R18). -/
def PW.isClear : PW → Bool
  | .flagClr _ => true | .lanesClr => true | _ => false

/-- The writes of a cell that are due become visible. -/
def State.settle (s : State) (k : CellRef) : State :=
  let now := (s.isl k.isl).sched
  let pend := (s.cell k).pend
  if pend.isEmpty then s
  else
    let due := pend.filter (fun x => decide (x.due ≤ now))
    let s1 := s.updCell k (fun c => { c with pend := c.pend.filter (fun x => !decide (x.due ≤ now)) })
    ((due.filter (fun x => x.w.isClear)) ++ (due.filter (fun x => !x.w.isClear))).foldl (fun s x => s.applyPW k x.w) s1

/-! ### A word evaluated on the state before it (R109) -/

/-- What an issuing word does: its next address, writes and actions. -/
structure WordOut where
  fault : Option (Code × Nat) := none
  writes : List (Nat × PW) := []
  now : List PW := []
  acts : List Act := []
  pulls : List Nat := []
  pc : Nat := 0
  bubble : Bool := false
  loops : List Loop := []
  stack : List Nat := []
  stop : Bool := false
  deriving DecidableEq, Repr

/-- The registers that R111 covers: kind and number. -/
def PW.clashKey : PW → Option (Nat × Nat)
  | .s r _ => if r = 0 then none else some (0, r)
  | .p r _ => if r = 0 then none else some (1, r)
  | .lc n _ => some (2, n)
  | _ => none

/-- A write clashes with an earlier-issued write that becomes visible in the same cycle (R111). -/
def clashes (now : Nat) (earlier : List Pend) (ws : List (Nat × PW)) : Bool :=
  ws.any (fun w => match w.2.clashKey with
    | none => false
    | some key => earlier.any (fun e => e.due == now + w.1 && e.w.clashKey == some key))

/-- Two writes to overlapping SRAM bytes from two slots of a word (R111). -/
def sramClash (a b : List (Nat × PW)) : Bool :=
  a.any (fun x => match x.2 with
    | .sram p bs _ => b.any (fun y => match y.2 with
      | .sram q cs _ => overlap p bs.length q cs.length
      | _ => false)
    | _ => false)

/-- The first fault over the slots in order: a slot's own fault, then a clash of its writes with those before it. -/
def firstFault (now : Nat) (pend : List Pend) (before : List (Nat × PW)) : List (Nat × SlotOut) → Option (Code × Nat)
  | [] => none
  | (i, o) :: t =>
    match o.fault with
    | some c => some (c, i)
    | none =>
      let earlier := pend ++ before.map (fun w => ⟨now + w.1, w.2⟩)
      if clashes now earlier o.writes ∨ sramClash before o.writes then some (K.eWriteClash, i)
      else firstFault now pend (before ++ o.writes) t

/-- The fault of the pull points of a word (R220, R222). -/
def State.pullFault (s : State) (k : CellRef) (pulls : List Nat) : Option Code :=
  let outs := pulls.flatMap (fun p => s.routeOuts k p)
  if pulls.any (fun p => insidePort k p || (s.routeOuts k p).isEmpty) then some K.eFieldReserved
  else if pulls.any (fun p => s.fenced k p) then some K.ePortFenced
  else if outs.any (fun o => s.driven k o) ∨ ¬ outs.Nodup then some K.eLinkOverrun
  else none

/-- The slots of a word, each only if its guard is true (R107). -/
def evalSlots (s : State) (k : CellRef) (w : HWord) : SlotOut × SlotOut × SlotOut × SlotOut :=
  let c := s.cell k
  (if c.guard w.sg then evalS s k w.s else {}, if c.guard w.mg then evalM s k w.m else {},
   if c.guard w.vg then evalV s k w.v else {}, if c.guard w.xg then evalX s k w.x else {})

/-- The next word by control flow and loop-back (R117 to R121). -/
def seqNext (c : Cell) (ctl : Ctl) (skip : Option Nat) : WordOut × List (Nat × PW) :=
  match ctl with
  | .branch t => ({ pc := t, bubble := true, loops := loopsAfterBranch c.loops t, stack := c.stack }, [])
  | .call t => ({ pc := t, bubble := true, loops := c.loops, stack := (c.pc + 1) :: c.stack }, [])
  | .ret t => ({ pc := t, bubble := true, loops := c.loops, stack := c.stack.drop 1 }, [])
  | ctl =>
    let (nx, ws, ls) := loopBack c skip c.pc c.loops
    let ls' := match ctl with | .loop l => l :: ls | _ => ls
    ({ pc := nx.getD (c.pc + 1), loops := ls', stack := c.stack, stop := ctl == .stop }, ws)

/-- Evaluate a presented word: decode faults first, then slots S, M, V, X, then pull points (R108, R111, R137, R220). -/
def evalWord (s : State) (k : CellRef) (w : HWord) : WordOut :=
  let c := s.cell k
  let now := (s.isl k.isl).sched
  match w.decodeFault (isMemCell k) with
  | some f => { fault := some f }
  | none =>
    let (oS, oM, oV, oX) := evalSlots s k w
    let skip := if c.guard w.sg then mtsrLc w.s else none
    let (base, lws) := seqNext c oS.ctl skip
    let oS' := if oS.fault.isSome then oS else { oS with writes := oS.writes ++ lws }
    -- a decrement meets the MTSR of its own word as a clash within the slot
    let own := if clashes now (oS.writes.map (fun x => ⟨now + x.1, x.2⟩)) lws then some (K.eWriteClash, 0) else none
    let pulls := s.pullsAt k c.pc
    let f := match (if oS.fault.isSome then none else own) with
      | some x => some x
      | none =>
        match firstFault now c.pend [] [(0, oS'), (1, oM), (2, oV), (3, oX)] with
        | some x => some x
        | none => (s.pullFault k pulls).map (fun e => (e, 3))
    match f with
    | some x => { fault := some x }
    | none =>
      let all := oS'.writes ++ oM.writes ++ oV.writes ++ oX.writes
      let zero := all.filter (fun x => match x.2 with | .potZero _ _ => true | _ => false)
      let rest := all.filter (fun x => match x.2 with | .potZero _ _ => false | _ => true)
      { base with
        writes := zero ++ rest.filter (fun x => x.1 != 0), now := (rest.filter (fun x => x.1 == 0)).map Prod.snd,
        acts := oS'.acts ++ oM.acts ++ oV.acts ++ oX.acts, pulls := pulls }

/-! ### Actions -/

/-- An engine's ring after a pop: the head leaves; the last beat of the walk makes it idle (R196, R200). -/
def Engine.pop (x : Engine) (total : Nat) : Engine :=
  let y := { x with ring := x.ring.drop 1, moved := x.moved + 1, beats := x.beats + 1 }
  if total ≤ y.moved then { y with state := .idle } else y

/-- A push: the last beat makes a running engine drain; a halted one drains after its resume. -/
def Engine.push (x : Engine) (total : Nat) (bs : List Byte) : Engine :=
  let y := { x with ring := x.ring ++ [⟨x.moved, bs, 0, false⟩], moved := x.moved + 1, beats := x.beats + 1 }
  if total ≤ y.moved then (if y.state = .halted then { y with prev := .draining } else { y with state := .draining }) else y

/-- SSTOP (R197, R211). -/
def Engine.stopNow (x : Engine) : Engine :=
  if x.state = .stopping then x
  else if x.dir then
    { x with state := .stopping, resume := false,
             ring := if x.state = .halted then x.ring.filter (fun b => b.issued) else x.ring }
  else { x with state := .stopping, resume := false, ring := x.ring.filter (fun b => b.need != 0) }

/-- The total of beats of an engine's walk. -/
def Cell.engTotal (c : Cell) (e : Nat) : Nat := (c.descOf (c.eng e).slot).totalBeats

/-- One action of an issuing word. -/
def State.act (s : State) (k : CellRef) (pulls : List Nat) (a : Act) : State :=
  match a with
  | .send p t => s.driveTok k p t
  | .take p => if s.isCrossing k p then (if pulls.contains p then s else s.popFifo k p) else s.takeWire k p
  | .popBeat e => s.updCell k (fun c => c.setEng e ((c.eng e).pop (c.engTotal e)))
  | .pushBeat e bs =>
    let c := s.cell k
    let x := c.eng e
    (s.sramLand k (ringAt (c.descOf x.slot) x.moved) bs none).updCell k (fun c => c.setEng e (x.push (c.engTotal e) bs))
  | .start e slot =>
    s.updCell k (fun c =>
      let x := c.eng e
      c.setEng e { state := .running, slot := slot, dir := (c.descOf slot).dir, fkind := x.fkind, sfva := x.sfva })
  | .stop e => s.updCell k (fun c => c.setEng e (c.eng e).stopNow)
  | .syncDone => s.updCell k (fun c => { c with sync := .none })
  | .chsend h bs =>
    (match s.chsendCheck k h (BitVec.ofNat 64 bs.length) with
     | .error _ => s
     | .ok (die, ch) =>
       if s.chState die ch ≠ 1 then s.countOrphan die ch
       else
         let t := (s.isl k.isl).table
         { s.updIsl k.isl (fun i => { i with chbuf := i.chbuf + bs.length }) with
           chmsgs := s.chmsgs ++ [⟨die, ch, .cell (gid k), t, s.ecmd t, bs, false, 0, false⟩] })
  | .svcfg v => s.updCell k (fun c => { c with sieve := { c.sieve with cfg := v.setWidth 37, lists := [] } })
  | .svclr none => s.updCell k (fun c => { c with sieve := { c.sieve with lists := [] } })
  | .svclr (some l) => s.updCell k (fun c => { c with sieve := { c.sieve with lists := SMap.set (fun _ => []) c.sieve.lists l [] } })
  | .svflush l a w f =>
    s.updCell k (fun c =>
      let ps := c.sieve.list l
      let img := flushImage (svFmt c.sieve.cfg) f l ps
      { c with sieve := { c.sieve with flushes := c.sieve.flushes ++ [⟨a, img, w, ps.length, a, img.length⟩] } })
  | .touch off n => (s.touchArea k off n).decode (islDie k.isl) 0 (s.isl k.isl).table (sramBase k + off) n

/-- A pull point takes the FIFO head and forwards it (R219, R220). -/
def State.doPull (s : State) (k : CellRef) (p : Nat) : State :=
  match s.recvTok k p with
  | some t => (s.popFifo k p).forward k p t
  | none => s

/-- A word issues. -/
def State.issueWord (s : State) (k : CellRef) (o : WordOut) : State :=
  let now := (s.isl k.isl).sched
  let s1 := o.pulls.foldl (fun s p => s.doPull k p) s
  let s2 := o.acts.foldl (fun s a => s.act k o.pulls a) s1
  let s3 := s2.updCell k (fun c =>
    let c1 := o.now.foldl Cell.applyPW c
    { c1 with
      pend := c1.pend ++ o.writes.map (fun w => ⟨now + w.1, w.2⟩), last := c.pc, pc := if o.stop then c.pc else o.pc,
      bubble := o.bubble, loops := o.loops, stack := o.stack, held := none,
      run := if o.stop then .ended else c1.run })
  if o.stop then s3.setFld (R.islSeq k.isl) (16 + k.c) (16 + k.c) 1 else s3

/-! ### The island cycle (R130, R131, R136) -/

/-- A cell that presents a word: running, not in a bubble, with a word held. -/
def Cell.presented (c : Cell) : Option HWord := if c.run = .running ∧ ¬ c.bubble then c.held else none

/-- The X slot of a presented word executes: its guard is true, and it holds no decode fault of its own. -/
def State.liveX (s : State) (k : CellRef) (w : HWord) : Bool := (s.cell k).guard w.xg && (w.x.decodeFault (isMemCell k)).isNone

/-- The classes in which the cells of an island block: the executing X slot, a pull point, a token that a route or a unit
must write into a full FIFO (R129, R220, R221, R228). A fault elsewhere in a word is raised when it issues (R136). -/
def State.blockClasses (s : State) (i : Nat) : List Nat :=
  (s.islCells i).flatMap (fun k =>
    (if s.arrivalBlocked k || s.fireBlocked k then [3] else []) ++
    match (s.cell k).presented with
    | none => []
    | some w =>
      let c := s.cell k
      if imemWords k ≤ c.pc then []
      else
        (if (s.pullsAt k c.pc).any (fun p => s.headMissing k p || (s.routeOuts k p).any (fun o => s.outFull k o)) then [3] else []) ++
        (if s.liveX k w then blockX s k w.x else []))

/-- ISL_SEQ.reason of a cycle: the classes that block, and whether the clock is stretched (R132, R139). -/
def State.reason (s : State) (i : Nat) (bs : List Nat) : Nat :=
  (List.range 3).foldl (fun n j => n + if bs.contains (3 + j) then 2 ^ j else 0) 0 + b2n (s.stretched i) * 8

/-- Whether a held beat of the damper still waits: its engine is active. -/
def State.stillHeld (s : State) (i : Nat) (h : Nat × Nat × Nat) : Bool :=
  let st := ((s.cell ⟨i, h.1⟩).eng h.2.1).state
  st == .running || st == .draining || st == .stopping

/-- A class that the damper has closed (R205). -/
def State.dampClosed (s : State) (i : Nat) (h : Nat × Nat × Nat) : Bool :=
  field (16 * h.2.2 + 15) (16 * h.2.2) (s.reg (R.cellDamp ⟨i, h.1⟩)) == 0 || field (16 * h.2.2 + 15) (16 * h.2.2) (s.reg (R.islDamp i)) == 0

/-- n island cycles pass: those in which the damper holds a beat are counted (R215); a new window frees what no closed class
holds. -/
def State.passHeld (s : State) (i n : Nat) : State :=
  let hs := (s.isl i).dheld.filter (s.stillHeld i)
  if (s.isl i).dheld.isEmpty then s
  else
    let c := (s.reg (R.islCycle i)).toNat
    let hs' := if c / 256 = (c + n) / 256 then hs else hs.filter (s.dampClosed i)
    (if hs.isEmpty then s else s.incFld (R.dampHeld i) 47 0 n).updIsl i (fun x => { x with dheld := hs' })

/-- A stall cycle of the given classes (R131, R140). The damper, intake and the FIFOs go on. -/
def State.stallCycle (s : State) (i : Nat) (bs : List Nat) : State :=
  let s0 := s.raiseFaults i ((s.islCells i).foldl (fun s k => s.intakeStep k) s)
  let s1 := (s0.setFld (R.islSeq i) 2 0 2).setFld (R.islSeq i) 6 3 (s.reason i bs)
  let s2 := ((s1.passHeld i 1).incFld (R.islCycle i) 63 0 1).updIsl i Isl.ticked
  if bs.contains 3 then s2.incFld (R.stallFifo i) 47 0 1
  else if bs.contains 4 then s2.incFld (R.stallStream i) 47 0 1
  else s2.incFld (R.stallSync i) 47 0 1

/-- The outcome of each presented word, on the state before any of them issues; a program counter beyond instruction
memory raises E_IMEM_RANGE without a word (R118). -/
def State.outcomes (s : State) (i : Nat) : List (CellRef × WordOut) :=
  (s.islCells i).filterMap (fun k =>
    match (s.cell k).presented with
    | none => none
    | some w => if imemWords k ≤ (s.cell k).pc then some (k, { fault := some (K.eImemRange, 4) }) else some (k, evalWord s k w))

/-- Record the faults of a cycle's words: each cell its own (R136, R137). -/
def State.recordFaults (s : State) (fs : List (CellRef × Code × Nat)) : State :=
  fs.foldl (fun s f =>
    if f.2.2 = 4 then s.recordFault f.1 f.2.1 3 (s.cell f.1).last
    else s.recordFault f.1 f.2.1 f.2.2 (s.cell f.1).pc) s

/-- The state of an island after a schedule cycle with the given reason: unless it has faulted, running while a cell runs,
ended when every cell has ended. -/
def State.islState (s : State) (i reason : Nat) : State :=
  let s1 := s.setFld (R.islSeq i) 6 3 reason
  if s1.islFaulted i then s1
  else
    if (s.islCells i).any (fun k => (s.cell k).run == .running) then s1.setFld (R.islSeq i) 2 0 1
    else if (s.islCells i).all (fun k => (s.cell k).run == .ended) then s1.setFld (R.islSeq i) 2 0 4 else s1

/-- Bubbles that stood at the start of a schedule cycle are consumed (R117). -/
def State.consumeBubble (s : State) (k : CellRef) : State :=
  if (s.cell k).bubble then s.updCell k (fun c => { c with bubble := false }) else s

/-- What happens before the words of a schedule cycle: waiting beats land in the sieve, heads of FIFOs go to steering units,
tokens arrive on inside links, units fire (R219, R224, R226, R263). -/
def State.openCycle (s : State) (i : Nat) : State :=
  let cells := s.islCells i
  let s1 := (cells.foldl (fun s k => s.intakeStep k) s).deliverHeads i
  let s2 := cells.foldl (fun s k => s.arrivals k) s1
  cells.foldl (fun s k => s.fireAll k) s2

/-- What happens after the words have issued: tokens that nothing took are lost, waiting units drive, the schedule cycle
is over (`issued` is when its last word issued), writes become visible; then the faults of the cycle stop the island. -/
def State.closeCycle (b s : State) (i : Nat) (issued : Word) : State :=
  let cells := s.islCells i
  let s1 := cells.foldl (fun s k => s.closeWires k) s
  let s2 := cells.foldl (fun s k => s.lateDrives k) s1
  let s3 := s2.updIsl i (Isl.next issued)
  let s4 := b.raiseFaults i (cells.foldl (fun s k => s.settle k) s3)
  ((s4.passHeld i 1).incFld (R.islCycle i) 63 0 1).islState i (b.reason i [])

/-- One schedule cycle of an island: every presented word issues or faults. -/
def State.schedCycle (s : State) (i : Nat) : State :=
  let cells := s.islCells i
  let s0 := s.openCycle i
  let outs := s0.outcomes i
  let s1 := cells.foldl (fun s k => s.consumeBubble k) s0
  let good := outs.filter (fun o => o.2.fault.isNone)
  let s2 := good.foldl (fun s o => s.issueWord o.1 o.2) s1
  let s3 := s2.recordFaults (outs.filterMap (fun o => o.2.fault.map (fun f => (o.1, f.1, f.2))))
  State.closeCycle s s3 i (if good.isEmpty then (s.isl i).issued else s.gtime)

/-- One island cycle (R130). An island that has stopped on a fault issues no further word and is not advanced. -/
def State.cycle (s : State) (i : Nat) : State :=
  if 192 ≤ i ∨ s.islFaulted i then s
  else
    let bs := s.blockClasses i
    if bs.isEmpty then s.schedCycle i else s.stallCycle i bs

/-- The outcome of a command. -/
abbrev Res := Host.Outcome State Fault Refusal

/-! ### Driving one instruction (log entry 1) -/

/-- A cell may be given a word: it exists, its island has not faulted, and the cell runs. -/
def State.drivable (s : State) (k : CellRef) : Bool :=
  s.cellExists k && !s.islFaulted k.isl && (s.cell k).run == .running

/-- Present a word: the cell holds it, and an executing X slot sends its request (R314). -/
def State.present (s : State) (k : CellRef) (w : HWord) : State :=
  let s1 := s.updCell k (fun c => { c with held := some w })
  if (s1.cell k).pc < imemWords k ∧ s1.liveX k w then s1.presentX k w.x else s1

/-- Whether a cell can take a new word: no word held, no bubble. -/
def Cell.ready (c : Cell) : Bool := c.held.isNone && !c.bubble

/-- The word is presented in the cell's next island cycle, and one island cycle passes. A bubble, or another word still
held, takes a cycle first; a word that the cell already holds is presented once more. -/
def drive (k : CellRef) (w : HWord) (s : State) : State :=
  if ¬ s.drivable k then s
  else if (s.cell k).held = some w then s.cycle k.isl
  else
    let s1 := if (s.cell k).ready then s else s.cycle k.isl
    if s1.drivable k ∧ (s1.cell k).ready then (s1.present k w).cycle k.isl else s1

/-- Every running cell presents the word its program holds at its program counter, and one island cycle passes. -/
def State.presentAll (s : State) (i : Nat) : State :=
  (s.islCells i).foldl (fun s k =>
    let c := s.cell k
    if c.run = .running ∧ c.ready then s.present k (fetchWord (isMemCell k) c.imem c.pc) else s) s

end Sys2Proof.Machine
end

