-- ==== Sys2Proof/Machine/Tick.lean ====
section
/-! DEFINITION. Time (R370, R394): GTIME advances, enabled slice counters count down; what one tick does on an empty queue
(log entry 2). -/

namespace Sys2Proof.Machine

open Sys2Proof

/-- An enabled ISL_SLICE counts down; the grant end at 0 is the command GRANT_END. -/
def State.sliceBy (n : Nat) (s : State) (isl : Nat) : State :=
  let r := s.reg (R.islSlice isl)
  if bit 63 r ∧ field 39 0 r ≠ 0 then s.setFld (R.islSlice isl) 39 0 (field 39 0 r - n) else s

/-- GTIME goes on by n ticks. -/
def State.advance (s : State) (n : Nat) : State :=
  let s1 := (List.range 192).foldl (State.sliceBy n) s
  { s1 with gtime := s1.gtime + BitVec.ofNat 64 n }

/-- Time goes on to a deadline that an event carries (log entry 2). -/
def State.until (s : State) (t : Word) : State :=
  if s.gtime.toNat < t.toNat then s.advance (t.toNat - s.gtime.toNat) else s

/-- One tick. A slew of ±200 ppm is one tick more or less in 5,000 (R394). -/
def State.tick (s : State) : State :=
  if s.slew = 0 then s.advance 1
  else if s.slewPhase < 4999 then { s.advance 1 with slewPhase := s.slewPhase + 1 }
  else if 0 < s.slew then { s.advance 2 with slewPhase := 0, slew := s.slew - 1 }
  else { s with slewPhase := 0, slew := s.slew + 1 }

end Sys2Proof.Machine
end

