-- ==== Sys2Proof/Machine/SyncUnit.lean ====
section
/-! DEFINITION. Sync words as events (R312 to R322, R334, R336): operations, replies, retries, deadlines, rulings, releases,
and the sync ports of steward cores. -/

namespace Sys2Proof.Machine

open Sys2Proof

/-- A steward core's mesh stop is fenced for a Block reset (R494). -/
def State.coreFenced (s : State) (core : Nat) : Bool := bit (core % 16) (s.reg (R.rstFence (core / 16)))

/-- A core's sync port has no request outstanding (R336). -/
def State.portDone (s : State) (core : Nat) : Bool := bit 16 (s.reg (R.syncPres core))
def State.setPres (s : State) (core : Nat) (status : Code) (done : Bool) : State :=
  s.setReg (R.syncPres core) (BitVec.ofNat 64 (status.toNat + b2n done * 2 ^ 16))

/-- SYNC_OPERATION (R312): a request at its home is applied or parked, in the order in which requests came to the word. A word
with an undecided waiter serves nothing else (R317). -/
def execSyncOperation (id : Nat) (s : State) : Res :=
  match s.syncReq id with
  | some x =>
    if x.stage = .atHome ∧ ¬ s.homeLocked x.home ∧ s.syncs.find? (fun r => r.home == x.home && r.stage == .atHome) = some x then
      .next (s.syncAtHome x)
    else .next s
  | none => .next s

/-- A reply at the port of its requester (R311, R314, R318, R336): an answer for the word that waits; a failure becomes a
sync event and its word never issues; a steward core reads it in SYNC_PRES. -/
def State.takeReply (s : State) (x : SyncReq) (status : Code) (v : Word) : State :=
  let s1 := s.dropSync x.id
  match x.who with
  | .cell g =>
    if (s1.cell (ofGid g)).sync ≠ .waiting x.id then s1
    else if status = 0 then s1.updCell (ofGid g) (fun c => { c with sync := .answered true v })
    else if status = K.timedOut then s1.updCell (ofGid g) (fun c => { c with sync := .answered false v })
    else s1.syncFailed (ofGid g) status
  | .core n => (s1.setPres n status true).setReg (R.syncPrval n) v
  | _ => s1

/-- SYNC_REPLY (R314). -/
def execSyncReply (id : Nat) (s : State) : Res :=
  match s.syncReq id with
  | some x => (match x.stage with
    | .replied st v => .next (s.takeReply x st v)
    | _ => .next s)
  | none => .next s

/-- SYNC_RETRY (R316): the request is sent again 32 ticks after its retry reply came. -/
def execSyncRetry (id : Nat) (s : State) : Res :=
  match s.syncReq id with
  | some x => if x.stage = .retry then .next (((s.until (x.since + 32)).dropSync id).sendSync x) else .next s
  | none => .next s

/-- SYNC_DEADLINE (R317): the home sends a timed waiter's timeout event at the deadline. -/
def execSyncDeadline (id : Nat) (s : State) : Res :=
  match s.syncReq id with
  | some x =>
    if x.timed ∧ (x.stage = .parked ∨ x.stage = .satisfiable) ∧ ¬ x.ruled ∧ ¬ x.expired then
      .next ((s.setSync id (fun r => { r with expired := true })).until x.deadline)
    else .next s
  | none => .next s

/-- DEALER_SATISFY (R318): the dealer sees a satisfy event first. -/
def execDealerSatisfy (id : Nat) (s : State) : Res :=
  match s.syncReq id with
  | some x => if x.stage = .satisfiable then .next (s.ruleSatisfy x) else .next s
  | none => .next s

/-- DEALER_TIMEOUT (R318): the dealer sees a timeout event first. -/
def execDealerTimeout (id : Nat) (s : State) : Res :=
  match s.syncReq id with
  | some x =>
    if x.expired ∧ ¬ x.ruled ∧ (x.stage = .parked ∨ x.stage = .satisfiable) then .next (s.ruleTimeout x) else .next s
  | none => .next s

/-- ROUND_RELEASE (R321, R322): the home of a round that is being released sends the next release, in arrival order; its
reply carries gen. -/
def execRoundRelease (home : Home) (s : State) : Res :=
  if ¬ (s.wordGet home).2 ∨ ¬ (s.round home).drain then .next s
  else match s.roundWaiters home with
    | [] => .next (s.roundSettle home)
    | x :: _ => .next ((s.syncAnswer x 0 (BitVec.ofNat 64 ((s.round home).gen % 4))).roundSettle home)

/-- SYNC_INV (R334): an invalidation starts. -/
def execSyncInv (die : BitVec 1) (t : BitVec 8) (all : Bool) (id : BitVec 16) (s : State) : Res :=
  .next { s.setFld (R.syncInvStat die.toNat) 0 0 1 with
    sinvs := s.sinvs ++ [(die.toNat, t.toNat, if all then none else some id.toNat)] }

/-- SYNC_INV_DONE (R334): the invalidations of a die have reached every port. -/
def execSyncInvDone (die : BitVec 1) (s : State) : Res :=
  let mine := s.sinvs.filter (fun v => v.1 == die.toNat)
  .next { s.setFld (R.syncInvStat die.toNat) 0 0 0 with
    sinvs := s.sinvs.filter (fun v => v.1 != die.toNat)
    slb := s.slb.filter (fun x => !(mine.any (fun v => x.table == v.2.1 && (match v.2.2 with | none => true | some i => x.id == i)))) }

/-! ### Steward ports (R336) -/

/-- A steward core's request: discarded while one is outstanding; a failed translation shows in SYNC_PRES. -/
def State.stewardSync (s : State) (core : Nat) (v : SyncV) (id : BitVec 16) (t : BitVec 8) (timed : Bool) : State :=
  let s := s.syncLearn (coreAgent core) (core / 16) t.toNat (id.setWidth 64)
  match s.syncTrans (coreAgent core) (core / 16) t.toNat (id.setWidth 64) with
  | .error e => s.setPres core e true
  | .ok h =>
    let r : SyncReq :=
      { id := s.syncNext, who := .core core, v := v, home := h,
        value := if v = .rset then s.reg (R.syncPval core) &&& 0xFFFF else s.reg (R.syncPval core),
        timed := timed && v != .rset, deadline := s.gtime + s.reg (R.syncPtmo core), table := t.toNat, cmd := s.ecmd t.toNat,
        early := false, ruled := false, expired := false, stage := .travelling }
    ({ s with syncNext := s.syncNext + 1 }.setPres core 0 false).sendSync r

/-- A port that takes a write of SYNC_PID. -/
def State.portOpen (s : State) (core : Nat) : Bool := decide (core < 32) && s.portDone core && !s.coreFenced core

/-- STEWARD_FELD (R313, R336). A reserved variant issues nothing. -/
def execStewardFeld (core : Nat) (id : BitVec 16) (t : BitVec 8) (variant : BitVec 4) (timed : Bool) (s : State) : Res :=
  if ¬ s.portOpen core then .next s
  else match variant.toNat with
    | 0 => .next (s.stewardSync core .ldfe id t timed)
    | 1 => .next (s.stewardSync core .ldff id t timed)
    | 2 => .next (s.stewardSync core .ldxx id t timed)
    | 3 => .next (s.stewardSync core .ldxe id t timed)
    | _ => .next s

/-- STEWARD_FEST (R313, R336). -/
def execStewardFest (core : Nat) (id : BitVec 16) (t : BitVec 8) (variant : BitVec 4) (timed : Bool) (s : State) : Res :=
  if ¬ s.portOpen core then .next s
  else match variant.toNat with
    | 0 => .next (s.stewardSync core .stef id t timed)
    | 1 => .next (s.stewardSync core .stxf id t timed)
    | 2 => .next (s.stewardSync core .stxe id t timed)
    | 3 => .next (s.stewardSync core .stff id t timed)
    | _ => .next s

/-- STEWARD_ROUND (R313, R322, R336). -/
def execStewardRound (core : Nat) (id : BitVec 16) (t : BitVec 8) (variant : BitVec 4) (timed : Bool) (s : State) : Res :=
  if ¬ s.portOpen core then .next s
  else match variant.toNat with
    | 0 => .next (s.stewardSync core .rwait id t timed)
    | 1 => .next (s.stewardSync core .rpass id t timed)
    | 2 => .next (s.stewardSync core .rset id t timed)
    | _ => .next s

end Sys2Proof.Machine
end

