-- ==== Sys2Proof/Machine/PageCore.lean ====
section
/-! DEFINITION. The page map (R276, R282 to R284), version records (R287), the frames a read and a write reach (R290), and
the first-touch copy of the version engine (R288, R291, R293). -/

namespace Sys2Proof.Machine

open Sys2Proof

/-- The size of a vault's firmware window (R276, R453). -/
def State.rwin (s : State) : Nat :=
  match s.fuses.rwin.toNat with
  | 0 => 0 | 1 => 0x1000000 | 2 => 0x2000000 | _ => 0x4000000

/-- The firmware-reserved window (R276). -/
def State.inWindow (s : State) (a : Nat) : Bool :=
  match s.region a with
  | .vault _ => decide (0x40000000 - s.rwin ≤ a % 0x40000000)
  | .far _ _ =>
    let h := s.farN * s.farDensity
    s.rwin == 0 && decide (h - 0x180000000 ≤ (a - farBase) % h)
  | _ => false

/-- A 64-bit little-endian word of physical memory, as its reader decodes it (R296). -/
def State.rd64 (s : State) (a : Nat) : Nat := leNat (s.decN a 8)
def State.wr64 (s : State) (a v : Nat) : State := s.mergeN a (leBytes 8 v)

/-- A page entry found by a walk: where it stands, its bits, the page's size. -/
structure PageEnt where
  pa : Nat
  bits : Nat
  large : Bool
  deriving DecidableEq, Repr

def PageEnt.wr (e : PageEnt) : Bool := e.bits.testBit 3
def PageEnt.atm (e : PageEnt) : Bool := e.bits.testBit 4
def PageEnt.kit (e : PageEnt) : Bool := e.bits.testBit 5
def PageEnt.kpar (e : PageEnt) : Bool := e.bits.testBit 6
def PageEnt.ver (e : PageEnt) : Bool := e.bits.testBit 7
def PageEnt.vidx (e : PageEnt) : Nat := e.bits / 2 ^ 48
def PageEnt.frame (e : PageEnt) : Nat := e.bits / 2 ^ 16 % 2 ^ 32 * 2 ^ 16

/-- The outcome of a walk (R282, R283); `bad` when it meets an uncorrectable block (R297). -/
inductive Walk where
  | absent
  | format
  | bad
  | page (e : PageEnt)
  | multicast (bits : Nat)
  deriving DecidableEq, Repr

/-- A next-level table must be populated memory (R283). -/
def State.tableOk (s : State) (a n : Nat) : Bool := s.populated a n

/-- The checks of a page entry (R283). -/
def State.pageOk (s : State) (e : PageEnt) : Bool :=
  let size := if e.large then 0x200000 else 0x10000
  let f := e.frame
  let inSram := match s.region f with | .sram _ _ => true | _ => false
  e.bits / 2 ^ 8 % 256 == 0 && f % size == 0 && !(e.large && (e.atm || e.kit)) && s.populated f size
    && !s.inWindow f && !s.inWindow (f + (size - 1)) && !((e.atm || e.kit) && inSram)

/-- A level-3 entry. -/
def State.walk3 (s : State) (table va : Nat) : Walk :=
  let pa := table + 8 * (va / 2 ^ 16 % 32)
  let b := s.rd64 pa
  if s.spoilt pa 8 then .bad
  else match b % 8 with
  | 0 => .absent
  | 2 => if s.pageOk ⟨pa, b, false⟩ then .page ⟨pa, b, false⟩ else .format
  | 3 => if b / 8 % 32 = 1 ∧ b / 2 ^ 8 % 256 = 0 ∧ b / 2 ^ 47 = 0 then .multicast b else .format
  | _ => .format

/-- The next table of a pointer entry, its reserved bits zero and the table populated. -/
def State.pointer (s : State) (b n : Nat) : Option Nat :=
  let t := b / 2 ^ 8 % 2 ^ 40 * 2 ^ 8
  if b / 8 % 32 = 0 ∧ b / 2 ^ 48 = 0 ∧ s.tableOk t n then some t else none

def State.walk2 (s : State) (table va : Nat) : Walk :=
  let pa := table + 8 * (va / 2 ^ 21 % 512)
  let b := s.rd64 pa
  if s.spoilt pa 8 then .bad
  else match b % 8 with
  | 0 => .absent
  | 1 => (match s.pointer b 256 with | some t => s.walk3 t va | none => .format)
  | 2 => if s.pageOk ⟨pa, b, true⟩ then .page ⟨pa, b, true⟩ else .format
  | _ => .format

/-- The root of a table's page map (R303). -/
def State.troot (s : State) (t : Nat) : Option Nat :=
  let r := s.reg (R.mmuTroot 0 t)
  if bit 0 r then some (field 47 21 r * 2 ^ 21) else none

/-- A walk of a table's page map (R282). -/
def State.walk (s : State) (t va : Nat) : Walk :=
  match s.troot t with
  | none => .absent
  | some root =>
    if ¬ s.tableOk root 0x200000 then .format
    else
      let pa := root + 8 * (va / 2 ^ 30 % 2 ^ 18)
      let b := s.rd64 pa
      if s.spoilt pa 8 then .bad
      else match b % 8 with
      | 0 => .absent
      | 1 => (match s.pointer b 4096 with | some t2 => s.walk2 t2 va | none => .format)
      | _ => .format

/-! ### Translation caches (R285) -/

/-- The blocks that a walk reads: of the entries of the three levels as far as it gets. -/
def State.walkBlocks (s : State) (t va : Nat) : List Nat :=
  match s.troot t with
  | none => []
  | some root =>
    if ¬ s.tableOk root 0x200000 then []
    else
      let a1 := root + 8 * (va / 2 ^ 30 % 2 ^ 18)
      let b1 := s.rd64 a1
      blockOf a1 :: (match (if b1 % 8 = 1 then s.pointer b1 4096 else none) with
        | none => []
        | some t2 =>
          let a2 := t2 + 8 * (va / 2 ^ 21 % 512)
          let b2 := s.rd64 a2
          blockOf a2 :: (match (if b2 % 8 = 1 then s.pointer b2 256 else none) with
            | none => []
            | some t3 => [blockOf (t3 + 8 * (va / 2 ^ 16 % 32))]))

def Tlb.hit (x : Tlb) (ag t va : Nat) : Bool :=
  x.agent == ag && x.table == t && (if x.large then x.page / 32 == va / 2 ^ 21 else x.page == va / 2 ^ 16)

def State.cached (s : State) (ag t va : Nat) : Option Tlb := s.tlb.find? (fun x => x.hit ag t va)

/-- A translation at an agent: by the entry that its cache holds, else by a walk (R285). -/
def State.look (s : State) (ag t va : Nat) : Walk :=
  match s.cached ag t va with
  | some x => if x.mc then .multicast x.bits else .page ⟨x.pa, x.bits, x.large⟩
  | none => s.walk t va

/-- An agent translates: without a cached entry it walks, the memory correcting and signalling what the walk reads, and a
present entry enters its cache (R285, R297; log entry 28). -/
def State.learn (s : State) (ag t va : Nat) : State :=
  if (s.cached ag t va).isSome then s
  else
    let s1 := s.readBlocks t (s.walkBlocks t va)
    match s1.walk t va with
    | .page e => { s1 with tlb := s1.tlb ++ [⟨ag, t, va / 2 ^ 16, e.pa, e.bits, e.large, false⟩] }
    | .multicast b => { s1 with tlb := s1.tlb ++ [⟨ag, t, va / 2 ^ 16, 0, b, false, true⟩] }
    | _ => s1

/-- The VB9 changes a page entry and every cache that holds it (R285). -/
def State.wrEntry (s : State) (pa v : Nat) : State :=
  { s.wr64 pa v with tlb := s.tlb.map (fun (x : Tlb) => if x.pa = pa ∧ ¬ x.mc then { x with bits := v } else x) }

/-! ### Version records (R287) -/

def State.recAddr (s : State) (t i : Nat) : Nat := s.fld (R.mmuTver 0 t) 47 8 * 256 + 16 * i
def State.nrec (s : State) (t : Nat) : Nat := s.fld (R.mmuTver 0 t) 63 48 + 1

structure VRec where
  w : Nat
  k : Nat
  wcmd : BitVec 8
  wvalid : Bool
  kvalid : Bool
  deriving DecidableEq, Repr

def State.vrec (s : State) (t i : Nat) : VRec :=
  let n := leNat (s.decN (s.recAddr t i) 16)
  ⟨n % 2 ^ 32 * 2 ^ 16, n / 2 ^ 32 % 2 ^ 32 * 2 ^ 16, BitVec.ofNat 8 (n / 2 ^ 64), n.testBit 72, n.testBit 73⟩

def State.setVrec (s : State) (t i : Nat) (r : VRec) : State :=
  s.mergeN (s.recAddr t i) (leBytes 16 (r.w / 2 ^ 16 % 2 ^ 32 + r.k / 2 ^ 16 % 2 ^ 32 * 2 ^ 32 + r.wcmd.toNat * 2 ^ 64
    + b2n r.wvalid * 2 ^ 72 + b2n r.kvalid * 2 ^ 73))

/-- The record of an entry, none where ver is 0. -/
def State.entRec (s : State) (t : Nat) (e : PageEnt) : Option VRec := if e.ver then some (s.vrec t e.vidx) else none

/-- A table's running command (R303). -/
def State.running (s : State) (t : Nat) : Bool := bit 16 (s.reg (R.mmuTcmd 0 t))
def State.sweeping (s : State) (t : Nat) : Bool := bit 17 (s.reg (R.mmuTcmd 0 t))
def State.ccmd (s : State) (t : Nat) : BitVec 8 := BitVec.ofNat 8 (s.fld (R.mmuTcmd 0 t) 15 8)
/-- Firmware and the version engines keep the per-table registers alike on both dies (R303). -/
def State.setBoth (s : State) (f : Nat → Nat) (hi lo v : Nat) : State := (s.setFld (f 0) hi lo v).setFld (f 1) hi lo v

/-- A packet's sender belongs to the running command (R290). -/
def State.ofCommand (s : State) (t : Nat) (cmd : BitVec 8) : Bool := s.running t && cmd == s.ecmd t

/-- A page is step-pending (R291). -/
def State.stepPending (s : State) (t : Nat) (e : PageEnt) : Bool :=
  let r := s.reg (R.mmuTstep 0 t)
  bit 0 r && e.kit && e.kpar != bit 1 r

/-- The frame a read reaches (R290). `own` is whether the reader belongs to the running command. -/
def State.readFrame (s : State) (t : Nat) (e : PageEnt) (own : Bool) : Nat :=
  match s.entRec t e with
  | none => e.frame
  | some r =>
    if own ∧ r.wvalid ∧ r.wcmd = s.ecmd t then r.w
    else if ¬ own ∧ r.wvalid ∧ s.sweeping t ∧ ¬ (s.tbl t).dropping ∧ r.wcmd = s.ccmd t then r.w
    else e.frame

/-- Where a write goes (R288, R290, R291): to a frame, or a version must be made first. -/
inductive WTo where
  | frame (f : Nat)
  | version (step : Bool)
  deriving DecidableEq, Repr

def State.writeFrame (s : State) (t : Nat) (e : PageEnt) (own : Bool) : WTo :=
  let rec_ := s.entRec t e
  let hasW := match rec_ with | some r => own && r.wvalid && r.wcmd == s.ecmd t | none => false
  let hasK := match rec_ with | some r => r.kvalid | none => false
  if hasW then .frame (match rec_ with | some r => r.w | none => e.frame)
  else if e.atm then (if own then .version false else .frame (s.readFrame t e own))
  else if s.stepPending t e ∧ ¬ hasK then .version true
  else .frame e.frame

/-- The offset of an address in its page. -/
def PageEnt.off (e : PageEnt) (va : Nat) : Nat := va % (if e.large then 0x200000 else 0x10000)

/-- A translated access. -/
inductive Trans where
  | absent
  | refused (code : Code)
  | pa (a : Nat)
  | multicast (group target c off : Nat)
  | version (step : Bool) (e : PageEnt)
  deriving DecidableEq, Repr

/-- Translate a read at an agent (R282 to R284, R290). -/
def State.transRead (s : State) (ag t va : Nat) (own : Bool) : Trans :=
  match s.look ag t va with
  | .absent => .absent
  | .bad => .refused K.eMemUncorrectable
  | .format => .refused K.ePageFormat
  | .multicast _ => .refused K.ePageAccess
  | .page e => .pa (s.readFrame t e own + e.off va)

/-- Translate a write. -/
def State.transWrite (s : State) (ag t va : Nat) (own : Bool) : Trans :=
  match s.look ag t va with
  | .absent => .absent
  | .bad => .refused K.eMemUncorrectable
  | .format => .refused K.ePageFormat
  | .multicast b =>
    .multicast (b / 2 ^ 16 % 2 ^ 12) (b / 2 ^ 28 % 2) (b / 2 ^ 29 % 16) (b / 2 ^ 33 % 2 ^ 14 * 2 ^ 16 + va % 2 ^ 16)
  | .page e =>
    if ¬ e.wr then .refused K.ePageAccess
    else match s.writeFrame t e own with
      | .frame f => .pa (f + e.off va)
      | .version st => .version st e

/-! ### Pools and the version engine (R287, R288, R293) -/

/-- The die and class of a frame: near false, far true; none outside near and far DRAM. -/
def State.frameClass (s : State) (a : Nat) : Option (Nat × Bool) :=
  match s.region a with
  | .vault i => some (islDie i, false)
  | .far ch _ => some (ch / 16, true)
  | _ => none

def poolKey (die : Nat) (far : Bool) : Nat := 2 * die + b2n far
def State.pool (s : State) (die : Nat) (far : Bool) : List Nat := SMap.get (fun _ => []) s.pools (poolKey die far)
def State.setPool (s : State) (die : Nat) (far : Bool) (l : List Nat) : State :=
  { s with pools := SMap.set (fun _ => []) s.pools (poolKey die far) l }

/-- A pool's threshold (R305). -/
def State.poolLow (s : State) (die : Nat) (far : Bool) : Nat :=
  if far then s.fld (R.mmuPoolLow die) 47 24 else s.fld (R.mmuPoolLow die) 23 0

/-- Take a frame from a pool: a pool that falls below its threshold signals a pool event (R293). -/
def State.takeFrame (s : State) (die : Nat) (far : Bool) : Option (Nat × State) :=
  match s.pool die far with
  | [] => none
  | f :: r =>
    let s1 := s.setPool die far r
    some (f, if r.length < s.poolLow die far ∧ ¬ (r.length + 1 < s.poolLow die far) then s1.raise die (.pool far) else s1)

/-- Put a frame back into the pool of its class and die; a retired frame never returns (R503). -/
def State.giveFrame (s : State) (a : Nat) : State :=
  match s.frameClass a with
  | some (d, far) => if s.retired.contains a then s else s.setPool d far (s.pool d far ++ [a])
  | none => s

/-- A free record of a table's array: one that holds no frame and is promised to no copy in progress. -/
def State.freeRec (s : State) (t : Nat) : Option Nat :=
  (List.range (s.nrec t)).find? (fun i =>
    let r := s.vrec t i
    !r.wvalid && !r.kvalid && !(s.vcopy.any (fun x => x.2.table == t && x.2.recIdx == i)))

/-- Start a version of a page (R288, R291): the version engine of the old frame's die takes a frame and a record. It
handles one page at a time; an empty pool or a full array holds the writer and signals a pool event (R293). -/
def State.startVersion (s : State) (t : Nat) (e : PageEnt) (step : Bool) : State :=
  match s.frameClass e.frame with
  | none => s
  | some (d, far) =>
    if (SMap.get (fun _ => none) (s.vcopy.map (fun x => (x.1, some x.2))) d).isSome then s
    else
      match s.takeFrame d far, (if e.ver then some e.vidx else s.freeRec t) with
      | some (f, s1), some i =>
        { s1 with vcopy := SMap.insert d ⟨t, e.pa, i, e.frame, f, step, s.ecmd t⟩ s1.vcopy }
      | _, _ => s.raise d (.pool far)

/-- The copy in progress of a die. -/
def State.copying (s : State) (die : Nat) : Option VCopy := (s.vcopy.find? (fun x => x.1 == die)).map Prod.snd

/-- The memory's part of reading a page (R297); what is free of it is free once (log entry 17). -/
def State.readPage (s : State) (t a : Nat) : State :=
  if s.plain a 0x10000 then s else { s.readBlocks t (blocksOf a 0x10000) with free := s.free + 32 }

/-- Finish a copy: the page's bytes stand in the new frame; W is set, or C and K change places (R288, R291). -/
def State.finishVersion (s : State) (die : Nat) (v : VCopy) : State :=
  let s0 := ({ s with vcopy := SMap.erase die s.vcopy }.readPage v.table v.old).readBlocks v.table [blockOf v.entryPA, blockOf (s.recAddr v.table v.recIdx)]
  let s1 := s0.wrN v.new (s0.decN v.old 0x10000)
  let b := s1.rd64 v.entryPA
  let r : VRec := if b.testBit 7 then s1.vrec v.table v.recIdx else ⟨0, 0, 0, false, false⟩
  let b' := b % 2 ^ 48 ||| (1 <<< 7) + v.recIdx * 2 ^ 48
  let s2 := { s1 with vpages := SMap.insert (65536 * v.table + v.recIdx) v.entryPA s1.vpages }
  if v.step then
    -- the new frame becomes C, the old becomes K
    let b'' := b' % 2 ^ 16 + v.new / 2 ^ 16 % 2 ^ 32 * 2 ^ 16 + b' / 2 ^ 48 * 2 ^ 48
    (s2.wrEntry v.entryPA b'').setVrec v.table v.recIdx { r with k := v.old, kvalid := true }
  else
    ((s2.wrEntry v.entryPA b').setVrec v.table v.recIdx { r with w := v.new, wcmd := v.cmd, wvalid := true }).setBoth
      (fun d => R.mmuTcmd d v.table) 47 32 (s2.fld (R.mmuTcmd 0 v.table) 47 32 + 1)

/-- A page entry's bits with another frame. -/
def PageEnt.withFrame (b f : Nat) : Nat := b % 2 ^ 16 + f / 2 ^ 16 % 2 ^ 32 * 2 ^ 16 + b / 2 ^ 48 * 2 ^ 48

/-! ### All pages of a map -/

/-- Every page entry of a table's page map with its address, in address order. -/
def State.allPages (s : State) (t : Nat) : List (Nat × PageEnt) :=
  match s.troot t with
  | none => []
  | some root =>
    (List.range 0x40000).flatMap (fun i =>
      let b := s.rd64 (root + 8 * i)
      if b % 8 = 1 then
        let t2 := b / 2 ^ 8 % 2 ^ 40 * 2 ^ 8
        (List.range 512).flatMap (fun j =>
          let va := 2 ^ 30 * i + 2 ^ 21 * j
          let b2 := s.rd64 (t2 + 8 * j)
          if b2 % 8 = 2 then [(va, ⟨t2 + 8 * j, b2, true⟩)]
          else if b2 % 8 = 1 then
            let t3 := b2 / 2 ^ 8 % 2 ^ 40 * 2 ^ 8
            (List.range 32).filterMap (fun l =>
              let b3 := s.rd64 (t3 + 8 * l)
              if b3 % 8 = 2 then some (va + 2 ^ 16 * l, ⟨t3 + 8 * l, b3, false⟩) else none)
          else [])
      else [])

/-- The step-pending pages (R291). -/
def State.stepPages (s : State) (t : Nat) : List (Nat × PageEnt) := (s.allPages t).filter (fun x => s.stepPending t x.2)

/-- The committed frame that the copy engine sends (R291, R292): K if it exists; the frame just committed while the
commit that armed the copy is being swept; C otherwise. -/
def State.stepFrame (s : State) (t : Nat) (e : PageEnt) : Nat :=
  match s.entRec t e with
  | some r => if r.kvalid then r.k else if (s.tbl t).armNow then s.readFrame t e false else e.frame
  | none => e.frame

end Sys2Proof.Machine
end

