-- ==== Sys2Proof/Machine/MemPath.lean ====
section
/-! DEFINITION. Memory requests and replies on their way (R242, R255, R277, R278): which agent serves an address, the
queues of vaults and far channels, SRAM accesses through the mesh port, replies to their asker. -/

namespace Sys2Proof.Machine

open Sys2Proof

/-- The agent that serves an address, none where nothing does (R239, R277). -/
def State.memAgent (s : State) (pa : Nat) : Option Nat :=
  match s.region pa with
  | .vault i => some (islAgent i)
  | .far ch _ => some (farAgent ch)
  | .sram k _ => some (islAgent k.isl)
  | _ => none

/-- The queue of a vault, or of a far channel. -/
def vaultQ (isl : Nat) : Nat := isl
def farQ (ch : Nat) : Nat := 256 + ch
def State.queue (s : State) (q : Nat) : List MemReq := SMap.get (fun _ => []) s.memq q
def State.setQueue (s : State) (q : Nat) (l : List MemReq) : State := { s with memq := SMap.set (fun _ => []) s.memq q l }

/-- The bytes of a memory cell's deal area (R352). -/
def State.dealArea (s : State) (t : Nat) : Nat := s.fld (R.tblCtl 0 t) 11 4 * 4096

/-- A write reaches a deal area that a deal holds from its check until the end of its load (R350). -/
def State.dealHeld (s : State) (k : CellRef) (off n : Nat) : Bool :=
  let t := (s.isl k.isl).table
  (match (s.tbl t).deal with | .go _ => true | .load _ => true | _ => false) && isMemCell k && decide (0x100000 < off + n + s.dealArea t)

/-- The same of a write at a physical address. -/
def State.dealHeldPA (s : State) (a n : Nat) : Bool :=
  match s.region a with
  | .sram k off => s.dealHeld k off n
  | _ => false

/-- A reply for the asker at its own unit: a part of a beat has come, or a write is done. An error status brings no
bytes, and the part is missing (R296). An idle engine expects nothing (R348). -/
def State.deliverReply (s : State) (asker : Asker) (write : Bool) (status : Code) (data : List Byte) : State :=
  match asker with
  | .stream g e idx off =>
    if status ≠ 0 then s
    else s.updCell (ofGid g) (fun c =>
      let x := c.eng e
      if x.state = .idle then c else
      c.setEng e (if write then { x with dones := x.dones ++ [idx] } else { x with replies := x.replies ++ [⟨idx, off, data⟩] }))
  | _ => s

/-- The answer to a served request: at once inside the requester's island, as a mesh packet otherwise. `here` is the
serving agent. -/
def State.replyMem (s : State) (here : Nat) (r : MemReq) (status : Code) (data : List Byte) : State :=
  if r.asker = .none then s
  else if r.src = here then s.deliverReply r.asker r.write status data
  else s.inject { Packet.mk0 here r.src (if r.write then .writeAck else .readReply) with
    len := if r.write then 0 else data.length, addr := r.pa, tag := r.asker, cmd := r.cmd, table := r.table, status := status,
    data := if r.write then [] else data }

/-- Serve a request for cell SRAM through the mesh port (R255, R263, R277). The blocks that it reads, those of a write
that does not cover them among them, are decoded (R296, R297). -/
def State.serveSram (s : State) (here : Nat) (k : CellRef) (off : Nat) (r : MemReq) : State :=
  if sramSize k < off + r.len then s.replyMem here r K.ePaRange []
  else if r.write then
    let (s1, ok) := s.readRange (islDie k.isl) 0 r.table [] (blocksPart r.pa r.data.length)
    if ok then (s1.sramLane k off r.data (some (r.table, r.cmd))).replyMem here r 0 [] else s1.replyMem here r K.eMemUncorrectable []
  else
    let (s1, ok) := s.readRange (islDie k.isl) 0 r.table [] (blocksOf r.pa r.len)
    if ok then (s1.touchArea k off r.len).replyMem here r 0 (s1.rdN r.pa r.len) else s1.replyMem here r K.eMemUncorrectable []

/-- A request reaches the agent that serves its address: SRAM is served through its port, a vault and a far channel
queue it; an address that is unpopulated, in control space or not this agent's is refused with E_PA_RANGE (R277). -/
def State.acceptMem (s : State) (here : Nat) (r : MemReq) : State :=
  if ¬ (s.populated r.pa (max r.len 1) ∧ s.memAgent r.pa = some here) then s.replyMem here r K.ePaRange []
  else match s.region r.pa with
    | .vault i => s.setQueue (vaultQ i) (s.queue (vaultQ i) ++ [r])
    | .far ch _ => s.setQueue (farQ ch) (s.queue (farQ ch) ++ [r])
    | .sram k off => s.serveSram here k off r
    | _ => s

/-- Send a request from an agent: directly when the agent serves the address itself, else through the mesh. -/
def State.sendMem (s : State) (r : MemReq) : State :=
  match s.memAgent r.pa with
  | none => s.replyMem r.src r K.ePaRange []
  | some a =>
    if a = r.src then s.acceptMem a r
    else s.inject { Packet.mk0 r.src a (if r.write then .write else .read) with
      len := r.len, addr := r.pa, tag := r.asker, cmd := r.cmd, table := r.table, data := r.data }

end Sys2Proof.Machine
end

