-- ==== Sys2Proof/Machine/VaPath.lean ====
section
/-! DEFINITION. Reads and writes by virtual address of the Gulras and Ethernet engines (R381, R425, R426): page by page
through the table's map, versions made on the way. -/

namespace Sys2Proof.Machine

open Sys2Proof

/-- What became of an access by virtual address. `held` waits for a version frame or the version engine (R293),
or for the end of a deal (R350). -/
inductive Land where
  | done
  | held
  | absent
  | refused (code : Code)
  deriving DecidableEq, Repr

/-- Make the version that a write needs, if the version engine of its die is free and a frame and a record are at hand
(R288); the model makes it within the step. -/
def State.versionNow (s : State) (t : Nat) (e : PageEnt) (step : Bool) : State × Bool :=
  let s1 := s.startVersion t e step
  match s.frameClass e.frame with
  | none => (s1, false)
  | some (d, _) =>
    match s.copying d, s1.copying d with
    | none, some v => (s1.finishVersion d v, true)
    | _, _ => (s1, false)

/-- Bytes land at a physical address. -/
def State.landPA (s : State) (t : Nat) (a : Nat) (bs : List Byte) : State × Bool :=
  let (d, cls) := s.memClass a
  match s.region a with
  | .sram k off => (s.sramLane k off bs none, true)
  | _ => s.writeRange d cls t a bs []

/-- The same as an answer: a write to a deal area that a deal holds waits (R350). -/
def State.landAt (s : State) (t a : Nat) (bs : List Byte) : State × Land :=
  if s.dealHeldPA a bs.length then (s, .held)
  else
    let (s1, ok) := s.landPA t a bs
    (s1, if ok then .done else .refused K.eMemUncorrectable)

/-- A write through a multicast page (R284): multicast writes of at most 256 bytes. -/
def State.castRange (s : State) (ag t group target c off : Nat) (bs : List Byte) : State :=
  (List.range ((bs.length + 255) / 256)).foldl (fun s i =>
    let data := (bs.drop (256 * i)).take 256
    s.inject { Packet.mk0 ag group .multicast with
      mc := true, len := data.length, cmd := s.ecmd t, table := t, arg := target + c * 2 + (off + 256 * i) * 32, data := data }) s

/-- Write the part of a range that lies in one page, for the agent `ag`; `atmOnly` is the check of R381. -/
def State.landPage (s : State) (ag t va : Nat) (own atmOnly : Bool) (bs : List Byte) : State × Land :=
  let s := s.learn ag t va
  let noAtm := match s.look ag t va with | .page e => atmOnly && e.wr && !e.atm | .multicast _ => atmOnly | _ => false
  if noAtm then (s, .refused K.eLinkAtm)
  else match s.transWrite ag t va own with
  | .absent => (s, .absent)
  | .refused c => (s, .refused c)
  | .multicast g tg c off => (s.castRange ag t g tg c off bs, .done)
  | .pa a => s.landAt t a bs
  | .version st e =>
    let (s1, made) := s.versionNow t e st
    if made then
      match s1.transWrite ag t va own with
      | .pa a => s1.landAt t a bs
      | _ => (s1, .held)
    else (s1, .held)

/-- Cut a range at 64 KiB boundaries: address and length of each part. -/
def pageParts : Nat → Nat → Nat → List (Nat × Nat)
  | 0, _, _ => []
  | fuel + 1, va, n =>
    if n = 0 then []
    else
      let m := min n (0x10000 - va % 0x10000)
      (va, m) :: pageParts fuel (va + m) (n - m)

/-- Write a range part by part; it stops at the first part that does not land. -/
def State.landParts (ag t : Nat) (own atmOnly : Bool) : State → List (Nat × Nat) → List Byte → State × Land
  | s, [], _ => (s, .done)
  | s, (va, n) :: r, bs =>
    let (s1, l) := s.landPage ag t va own atmOnly (bs.take n)
    match l with
    | .done => State.landParts ag t own atmOnly s1 r (bs.drop n)
    | l => (s1, l)

def State.landVA (s : State) (ag t va : Nat) (own atmOnly : Bool) (bs : List Byte) : State × Land :=
  State.landParts ag t own atmOnly s (pageParts (bs.length / 0x10000 + 2) va bs.length) bs

/-- Read a range at a physical address: none when a block is uncorrectable. -/
def State.takePA (s : State) (t a n : Nat) : State × Option (List Byte) :=
  let (d, cls) := s.memClass a
  let (s1, ok) := s.readRange d cls t [] (blocksOf a n)
  (s1, if ok then some (s1.rdN a n) else none)

/-- Read a range part by part. -/
def State.takeParts (ag t : Nat) (own : Bool) : State → List (Nat × Nat) → List Byte → State × Except Land (List Byte)
  | s, [], acc => (s, .ok acc)
  | s0, (va, n) :: r, acc =>
    let s := s0.learn ag t va
    match s.transRead ag t va own with
    | .absent => (s, .error .absent)
    | .refused c => (s, .error (.refused c))
    | .pa a =>
      let (s1, o) := s.takePA t a n
      (match o with
       | some bs => State.takeParts ag t own s1 r (acc ++ bs)
       | none => (s1, .error (.refused K.eMemUncorrectable)))
    | _ => (s, .error (.refused K.ePageAccess))

def State.takeVA (s : State) (ag t va n : Nat) (own : Bool) : State × Except Land (List Byte) :=
  State.takeParts ag t own s (pageParts (n / 0x10000 + 2) va n) []

/-- Every page of a range translates for the agent `ag`: with wr = 1, or through a multicast page, where it is to be written
(R284, R425). -/
def State.mapped (s : State) (ag t va n : Nat) (write : Bool) : Bool :=
  (pageParts (n / 0x10000 + 2) va n).all (fun p =>
    match s.look ag t p.1 with
    | .page e => !write || e.wr
    | .multicast _ => write
    | _ => false)

end Sys2Proof.Machine
end

