-- ==== Sys2Proof/Machine/Channels.lean ====
section
/-! DEFINITION. Message channels as events (R323 to R329, R336): opening, placing, publishing, head writes, orphaning, and
the sends of steward cores. -/

namespace Sys2Proof.Machine

open Sys2Proof

/-- A message header (R324). -/
def chHeader (len kind seq table : Nat) : List Byte :=
  leBytes 8 (len % 2 ^ 24 + kind % 4 * 2 ^ 24 + seq % 2 ^ 16 * 2 ^ 32 + table % 2 ^ 8 * 2 ^ 48)

/-- Messages of a channel. -/
def ChMsg.on (m : ChMsg) (die ch : Nat) : Bool := m.die == die && m.ch == ch

/-- The table that a header names: 0 for a steward sender (R324). -/
def State.chTable (s : State) (die ch : Nat) : Nat := if s.chSkind die ch then s.chSender die ch % 256 else 0

/-- An island's buffer gets the space of a message back (R328). -/
def State.freeChbuf (s : State) (m : ChMsg) : State :=
  match m.who with
  | .cell g => s.updIsl (ofGid g).isl (fun i => { i with chbuf := i.chbuf - m.bytes.length })
  | _ => s

/-- A steward core's send completes (R329, R336). -/
def State.chPortDone (s : State) (m : ChMsg) (status : Code) : State :=
  match m.who with
  | .core n => s.setPres n status true
  | _ => s

/-- A message is dropped at an orphaned channel and counted (R329). -/
def State.dropMsg (s : State) (i : Nat) (m : ChMsg) : State :=
  let s1 := ({ s with chmsgs := s.chmsgs.eraseIdx i }.countOrphan m.die m.ch)
  if m.placed then s1 else (s1.freeChbuf m).chPortDone m K.orphan

/-- Write a message into its slot, a skip marker before it where it has to start at the ring's base (R324, R325). -/
def State.placeNow (s : State) (i : Nat) (m : ChMsg) (skip : Bool) (off : Nat) (rt : BitVec 32) : State :=
  let base := s.chBase m.die m.ch
  let size := s.chSize m.die m.ch
  let n := ((s.chmsgs.take i).filter (fun x => x.on m.die m.ch && x.placed)).length
  let seq := s.fld (R.chnStat m.die m.ch) 47 32 + 1 + n
  let t := s.chTable m.die m.ch
  let old := (s.rtail m.die m.ch).toNat % size
  let s1 := if skip then (s.landPA t (base + old) (chHeader (size - old - 8) 1 0 t)).1 else s
  let s2 := (s1.landPA t (base + off) (chHeader m.bytes.length 0 seq t ++ m.bytes)).1
  let s3 := { s2.setRtail m.die m.ch rt with chmsgs := s2.chmsgs.set i { m with placed := true, slotEnd := rt } }
  (s3.freeChbuf m).chPortDone m 0

/-- Place the i-th message if there is credit; drop it if its channel is orphaned. -/
def State.placeIdx (s : State) (i : Nat) : State :=
  match s.chmsgs[i]? with
  | none => s
  | some m =>
    if m.placed then s
    else if s.chState m.die m.ch = 2 then s.dropMsg i m
    else match placeMsg (s.chSize m.die m.ch) (s.rtail m.die m.ch) (s.chHead m.die m.ch) m.bytes.length with
      | some (skip, off, rt) => s.placeNow i m skip off rt
      | none => s

/-- CHANNEL_PLACE (R325): the first message of the channel that is not in the ring yet. -/
def execChannelPlace (die : BitVec 1) (ch : BitVec 12) (s : State) : Res :=
  match s.chmsgs.findIdx? (fun m => m.on die.toNat ch.toNat && !m.placed) with
  | some i => .next (s.placeIdx i)
  | none => .next s

/-- Publish a placed message: the tail moves past it (R326). -/
def State.publishIdx (s : State) (i : Nat) : State :=
  match s.chmsgs[i]? with
  | none => s
  | some m =>
    if ¬ m.placed then s
    else if s.chState m.die m.ch = 2 then s.dropMsg i m
    else
      let s1 := { s with chmsgs := s.chmsgs.eraseIdx i }
      (s1.setFld (R.chnPos m.die m.ch) 31 0 m.slotEnd.toNat).incFld (R.chnStat m.die m.ch) 47 32 1

/-- CHANNEL_PUBLISH (R326, R327): the channel's first message, once it is in the ring; a table's only after the commit of its
command. -/
def execChannelPublish (die : BitVec 1) (ch : BitVec 12) (s : State) : Res :=
  match s.chmsgs.findIdx? (fun m => m.on die.toNat ch.toNat) with
  | none => .next s
  | some i =>
    match s.chmsgs[i]? with
    | none => .next s
    | some m => if s.chSkind die.toNat ch.toNat ∧ ¬ m.committed then .next s else .next (s.publishIdx i)

/-- The first message of a channel, of a table's command, goes into the ring and is published. -/
def State.publishFirst (s : State) (t : Nat) (x : Nat × Nat) : State :=
  let first (s : State) : Option Nat := s.chmsgs.findIdx? (fun m => m.on x.1 x.2 && m.table == t)
  match first s with
  | none => s
  | some i =>
    let s1 := s.placeIdx i
    match first s1 with
    | none => s1
    | some j => s1.publishIdx j

/-- A commit publishes every message of the command, channel by channel (R327): those still in a buffer are placed first. A
message that finds no credit is committed and goes out when it has some (log entry 121). -/
def State.publishTable (s : State) (t : Nat) : State :=
  let mine := s.chmsgs.filter (fun m => s.chOfTable t m.die m.ch && m.table == t)
  let s1 := mine.foldl (fun s m => s.publishFirst t (m.die, m.ch)) s
  { s1 with chmsgs := s1.chmsgs.map (fun (m : ChMsg) => if s.chOfTable t m.die m.ch ∧ m.table = t then { m with committed := true } else m) }

/-- A command that publishes nothing: its messages go, and the space reserved for them returns (R327). -/
def State.dropTableMsgs (s : State) (t : Nat) : State :=
  let dead (m : ChMsg) : Bool := m.table == t && t != 0 && !m.committed
  let gone := s.chmsgs.filter dead
  let s1 := { s with chmsgs := s.chmsgs.filter (fun m => !dead m) }
  gone.foldl (fun s m =>
    let back := ((s.chmsgs.filter (fun x => x.on m.die m.ch && x.placed)).getLast?.map (fun x => x.slotEnd)).getD (s.chTail m.die m.ch)
    (if m.placed then s else (s.freeChbuf m).chPortDone m 0).setRtail m.die m.ch back) s1

/-- CHN_POS_HEAD_WRITE (R326): a head that moves backwards, past the tail, or is no multiple of 32 is ignored. -/
def execChnPosHeadWrite (die : BitVec 1) (ch : BitVec 12) (head : BitVec 32) (s : State) : Res :=
  let d := die.toNat
  let c := ch.toNat
  let old := s.chHead d c
  if head.toNat % 32 ≠ 0 ∨ (s.chTail d c - old).toNat < (head - old).toNat then .next s
  else .next (s.setFld (R.chnPos d c) 63 32 head.toNat)

/-- Messages still on their way to a channel are dropped. -/
def State.clearChannel (s : State) (die ch : Nat) : State :=
  (List.range s.chmsgs.length).foldl (fun s _ =>
    match s.chmsgs.findIdx? (fun m => m.on die ch) with
    | some i => (match s.chmsgs[i]? with | some m => s.dropMsg i m | none => s)
    | none => s) s

/-- CHANNEL_OPEN (R323, R324, R338): a channel that is not open, over a ring aligned to its size. -/
def execChannelOpen (die : BitVec 1) (ch : BitVec 12) (base : Nat) (size_log2 : Nat) (reader : BitVec 12) (skind : Bool)
    (sender : BitVec 12) (s : State) : Res :=
  let d := die.toNat
  let c := ch.toNat
  if s.chState d c = 1 ∨ size_log2 < 12 ∨ 24 < size_log2 ∨ base % 2 ^ size_log2 ≠ 0 ∨ (s.frameClass base).isNone then .next s
  else
    let s1 := s.clearChannel d c
    let s2 := s1.setReg (R.chnRing d c) (BitVec.ofNat 64 (base + size_log2 * 2 ^ 48))
    let s3 := s2.setReg (R.chnPeer d c) (BitVec.ofNat 64 (reader.toNat + b2n skind * 2 ^ 12 + sender.toNat * 2 ^ 13 + 2 ^ 25))
    .next ((s3.setReg (R.chnPos d c) 0).setRtail d c 0)

/-- CHANNEL_ORPHAN (R329): steward sends that wait for credit complete with ORPHAN; bytes in flight are dropped when they
reach the ring. -/
def State.orphan (s : State) (d c : Nat) : State :=
  if s.chState d c ≠ 1 ∧ s.chState d c ≠ 3 then s
  else
    let s1 := (s.setFld (R.chnPeer d c) 26 25 2).dealerSees d
    (List.range s1.chmsgs.length).foldl (fun s _ =>
      match s.chmsgs.findIdx? (fun m => m.on d c && !m.placed && (match m.who with | .core _ => true | _ => false)) with
      | some i => (match s.chmsgs[i]? with | some m => s.dropMsg i m | none => s)
      | none => s) s1

def execChannelOrphan (die : BitVec 1) (ch : BitVec 12) (s : State) : Res := .next (s.orphan die.toNat ch.toNat)

/-- The channels that a table sends on (R323, R329). -/
def State.tableChannels (s : State) (t : Nat) : List (Nat × Nat) :=
  (List.range 8192).filterMap (fun i =>
    if s.chState (i / 4096) (i % 4096) ≠ 0 ∧ s.chOfTable t (i / 4096) (i % 4096) then some (i / 4096, i % 4096) else none)

/-- The sender of a channel is gone (R329): the job of its table has ended, or its steward core has been reset. -/
def State.sendersGone (s : State) (t : Nat) : State :=
  (s.tableChannels t).foldl (fun s x => if s.chState x.1 x.2 = 1 then s.setFld (R.chnPeer x.1 x.2) 26 25 3 else s) s

/-- A core is reset (R329): what it reads is orphaned, what it sends on has lost its sender. -/
def State.coreChannels (s : State) (core : Nat) : State :=
  (List.range 8192).foldl (fun s i =>
    let d := i / 4096
    let c := i % 4096
    if s.chState d c = 0 then s
    else
      let s1 := if s.chReader d c = coreAgent core then s.orphan d c else s
      if s1.chOfCore core d c ∧ s1.chState d c = 1 then s1.setFld (R.chnPeer d c) 26 25 3 else s1) s

/-- STEWARD_CHANNEL_SEND (R323, R325, R329, R336): the payload stands at the physical address in SYNC_PVAL, its length in
SYNC_PTMO. A core sends on its own channels, and for a table whose command runs. -/
def execStewardChannelSend (core : Nat) (handle : BitVec 16) (s : State) : Res :=
  if ¬ s.portOpen core then .next s
  else
    let len := (s.reg (R.syncPtmo core)).toNat
    let mine := fun die ch => s.chOfCore core die ch || (s.chSkind die ch && s.running (s.chSender die ch % 256))
    match s.sendCheck (handle.setWidth 64) len 65528 mine with
    | .error e => .next (s.setPres core e true)
    | .ok (die, ch) =>
      if s.chState die ch = 2 then .next ((s.setPres core K.orphan true).countOrphan die ch)
      else
        let t := s.chTable die ch
        let a := (s.reg (R.syncPval core)).toNat
        let bs := s.decN a len
        let s := s.readBlocks t (blocksOf a len)
        if s.spoilt a len then .next (s.setPres core K.eMemUncorrectable true)
        else .next { s.setPres core 0 false with chmsgs := s.chmsgs ++ [⟨die, ch, .core core, t, s.ecmd t, bs, false, 0, false⟩] }

end Sys2Proof.Machine
end

