-- ==== Sys2Proof/Machine/GulCore.lean ====
section
/-! DEFINITION. Gulras frames and packets (R372 to R378): layouts, CRC, credits, the replay buffer, routes. -/

namespace Sys2Proof.Machine

open Sys2Proof

/-! ### CRC-32C (R373) -/

def crcStep (c : Nat) (b : Bool) : Nat :=
  let x := (c % 2 == 1) != b
  (c / 2) ^^^ (if x then 0x82F63B78 else 0)

/-- Bits of a number, lowest first, through the CRC register. -/
def crcBits : Nat → Nat → Nat → Nat
  | 0, _, c => c
  | n + 1, v, c => crcBits n (v / 2) (crcStep c (v % 2 == 1))

/-- CRC-32C over the low `n` bits of a number, bit 0 first. -/
def crc32c (n v : Nat) : Nat := crcBits n v 0xFFFFFFFF ^^^ 0xFFFFFFFF

/-! ### Packets and slots (R375, R377) -/

/-- The link header as the 256 bits of its head slot. -/
def GPkt.head (p : GPkt) : Nat :=
  p.ddev.toNat + p.sdev.toNat * 2 ^ 16 + p.dagent % 2 ^ 12 * 2 ^ 32 + p.op % 16 * 2 ^ 44 + p.hops % 64 * 2 ^ 48 +
  p.cls % 4 * 2 ^ 54 + p.job.toNat * 2 ^ 56 + p.cnum.toNat * 2 ^ 88 + p.len % 512 * 2 ^ 120 + p.addr % 2 ^ 48 * 2 ^ 144 +
  p.tag % 2 ^ 16 * 2 ^ 192 + p.status.toNat * 2 ^ 208 + p.arg.toNat * 2 ^ 224

def GPkt.ofHead (v : Nat) : GPkt :=
  { ddev := BitVec.ofNat 16 v, sdev := BitVec.ofNat 16 (v / 2 ^ 16), dagent := v / 2 ^ 32 % 2 ^ 12, op := v / 2 ^ 44 % 16,
    hops := v / 2 ^ 48 % 64, cls := v / 2 ^ 54 % 4, job := BitVec.ofNat 32 (v / 2 ^ 56), cnum := BitVec.ofNat 32 (v / 2 ^ 88),
    len := v / 2 ^ 120 % 512, addr := v / 2 ^ 144 % 2 ^ 48, tag := v / 2 ^ 192 % 2 ^ 16,
    status := BitVec.ofNat 16 (v / 2 ^ 208), arg := BitVec.ofNat 32 (v / 2 ^ 224) }

/-- Whether a packet's kind carries data: write, read reply, channel message, collective data, kitty put and reply, command start. -/
def GPkt.carries (p : GPkt) : Bool := [1, 2, 4, 6, 7, 9, 10].contains p.op

/-- Data bytes that follow the head. -/
def GPkt.dlen (p : GPkt) : Nat := if p.carries then p.len else 0
/-- Slots of a packet. -/
def GPkt.slots (p : GPkt) : Nat := 1 + (p.dlen + 31) / 32

/-- The slots of a packet with their tags: head, then data. -/
def GPkt.slotList (p : GPkt) : List (Nat × Nat) :=
  (4 + p.cls % 4, p.head) ::
    (List.range ((p.dlen + 31) / 32)).map (fun i => (8 + p.cls % 4, leNat ((p.data.drop (32 * i)).take 32)))

/-- A frame (R373) of the given fields and slots. -/
def frameBits (fseq ack : Nat) (nak idle tstamp : Bool) (credits : Nat) (slots : List (Nat × Nat)) : BitVec 5140 :=
  let body := fseq % 4096 + ack % 4096 * 2 ^ 12 + b2n nak * 2 ^ 24 + b2n idle * 2 ^ 25 + b2n tstamp * 2 ^ 26 + credits * 2 ^ 32 +
    ((List.range slots.length).map (fun t => (slots[t]?.getD (0, 0)).1 * 2 ^ (64 + 4 * t) + (slots[t]?.getD (0, 0)).2 * 2 ^ (140 + 256 * t))).sum
  BitVec.ofNat 5140 (body + crc32c 5108 body * 2 ^ 5108)

def frameOk (f : BitVec 5140) : Bool := crc32c 5108 (f.toNat % 2 ^ 5108) == f.toNat / 2 ^ 5108

/-! ### Links -/

def GLink.dflt : Nat → GLink := fun _ => {}
def State.glink (s : State) (l : Nat) : GLink := SMap.get GLink.dflt s.glinks l
def State.setGlink (s : State) (l : Nat) (x : GLink) : State := { s with glinks := SMap.set GLink.dflt s.glinks l x }
def State.linkState (s : State) (l : Nat) : Nat := s.fld (R.gulLstat l) 1 0

def GLink.credit (x : GLink) (c : Nat) : Nat := if c = 0 then x.c0 else if c = 1 then x.c1 else if c = 2 then x.c2 else x.c3
def GLink.spend (x : GLink) (c n : Nat) : GLink :=
  if c = 0 then { x with c0 := x.c0 - n } else if c = 1 then { x with c1 := x.c1 - n }
  else if c = 2 then { x with c2 := x.c2 - n } else { x with c3 := x.c3 - n }
/-- Credits that a frame returns; a direction never has more than 64 of a class. -/
def GLink.gain (x : GLink) (a b c d : Nat) : GLink :=
  { x with c0 := min 64 (x.c0 + a), c1 := min 64 (x.c1 + b), c2 := min 64 (x.c2 + c), c3 := min 64 (x.c3 + d) }
/-- Owe the peer the credits of a packet taken. -/
def GLink.owe (x : GLink) (c n : Nat) : GLink :=
  if c = 0 then { x with b0 := x.b0 + n } else if c = 1 then { x with b1 := x.b1 + n }
  else if c = 2 then { x with b2 := x.b2 + n } else { x with b3 := x.b3 + n }
def GLink.owed (x : GLink) : Nat := min 63 x.b0 + min 63 x.b1 * 2 ^ 6 + min 63 x.b2 * 2 ^ 12 + min 63 x.b3 * 2 ^ 18
def GLink.paid (x : GLink) : GLink := { x with b0 := x.b0 - 63, b1 := x.b1 - 63, b2 := x.b2 - 63, b3 := x.b3 - 63 }

/-- Whether injections toward a destination are held on a die (R379). -/
def State.held (s : State) (die : Nat) (dev : BitVec 16) : Bool := s.holds.contains (die, dev.toNat)

/-- This device's identifier (R376). -/
def State.gulDev (s : State) : BitVec 16 := BitVec.ofNat 16 (s.fld (R.gulDev 0) 15 0)

/-- Slots of the reply that a request of this device asks for (R375). -/
def GPkt.replySlots (p : GPkt) : Nat := if p.op = 0 ∨ p.op = 8 then 1 + (p.len + 31) / 32 else if p.op = 2 then 1 else 0

/-- Reply slots that this device's unanswered requests hold on a link, `more` those of packets about to be framed. -/
def State.replyHeld (s : State) (l : Nat) (more : List GPkt) : Nat :=
  ((s.greqs.filter (fun r => r.link == some l)).map (fun r => r.pkt.replySlots)).sum +
  ((more.filter (fun p => p.sdev == s.gulDev)).map GPkt.replySlots).sum

/-- A frame being filled: the link, its slots, the packets they belong to, the packets whose head is among them, and the
class 3 slots. -/
structure GFill where
  x : GLink
  slots : List (Nat × Nat) := []
  pkts : List GPkt := []
  heads : List GPkt := []
  bulk : Nat := 0

/-- The first waiting packet of a class whose head may be sent (R375, R379): credit for all its slots, room for the reply
of this device's own request, no hold. -/
def State.headReady (s : State) (l : Nat) (f : GFill) (c : Nat) : Option GPkt :=
  match f.x.txq.find? (fun p => p.cls % 4 == c) with
  | some p =>
    if p.slots ≤ f.x.credit c ∧ ¬ s.held p.die p.ddev ∧
        (p.sdev ≠ s.gulDev ∨ s.replyHeld l f.heads + p.replySlots ≤ 64) then some p else none
  | none => none

/-- A class that has a slot ready: the next of a packet partly sent, or a head. -/
def State.classReady (s : State) (l : Nat) (f : GFill) (c : Nat) : Bool :=
  f.x.cur.any (fun e => e.1 == c) || (s.headReady l f c).isSome

/-- Class 3 has had its GUL_LCFG.bulk sixteenths of the slots of 16 frames that other classes also want (R375). -/
def State.bulkSpent (s : State) (l : Nat) (f : GFill) : Bool :=
  (List.range 3).any (fun c => s.classReady l f c) && decide (19 * s.fld (R.gulLcfg l) 4 1 ≤ f.x.bulks.sum + f.bulk)

/-- The class that gives the next slot: in rotation after the class served last (R375). -/
def State.nextClass (s : State) (l : Nat) (f : GFill) : Option Nat :=
  ((List.range 4).map (fun i => (f.x.served + 1 + i) % 4)).find? (fun c => s.classReady l f c && !(c == 3 && s.bulkSpent l f))

/-- One slot into a frame. -/
def State.fillSlot (s : State) (l : Nat) (f : GFill) : GFill :=
  match s.nextClass l f with
  | none => f
  | some c =>
    let put (p : GPkt) (ts : List (Nat × Nat)) (x : GLink) (heads : List GPkt) : GFill :=
      { x := { x with
          served := c
          cur := (x.cur.filter (fun e => e.1 != c)) ++ (if ts.drop 1 = [] then [] else [(c, p, ts.drop 1)]) }
        slots := f.slots ++ ts.take 1, pkts := f.pkts ++ [p], heads := heads, bulk := f.bulk + b2n (c == 3) }
    match f.x.cur.find? (fun e => e.1 == c), s.headReady l f c with
    | some e, _ => put e.2.1 e.2.2 f.x f.heads
    | none, some p => put p p.slotList { f.x.spend c p.slots with txq := f.x.txq.erase p } (f.heads ++ [p])
    | none, none => f

/-- The slots of the next frame of a link: up to 19 (R373, R375). -/
def State.fillFrame (s : State) (l : Nat) : GFill :=
  (List.range 19).foldl (fun f _ => s.fillSlot l f) { x := s.glink l }

/-- This device's requests whose head a frame carries hold their reply credits from now on. -/
def State.holdReplies (s : State) (l : Nat) (heads : List GPkt) : State :=
  { s with greqs := s.greqs.map (fun (r : GReq) =>
      if heads.any (fun p => p.sdev == s.gulDev && p.tag == r.pkt.tag && p.ddev == r.pkt.ddev && p.op == r.pkt.op)
      then { r with link := some l } else r) }

/-- Class 3 slots of the last 15 frames in a row that other classes also wanted. -/
def bulksAfter (wanted : Bool) (bulks : List Nat) (n : Nat) : List Nat :=
  if wanted then (bulks ++ [n]).drop ((bulks ++ [n]).length - 15) else []

/-- Send a frame with the slots that are ready. -/
def State.sendSlots (s : State) (l : Nat) (f : GFill) : State :=
  let x := f.x
  let wanted := (List.range 3).any (fun c => s.classReady l { x := s.glink l } c)
  let bits := frameBits x.tx (x.rx + 4095) x.nak false false x.owed f.slots
  let y := { x.paid with
    tx := (x.tx + 1) % 4096, nak := false, bulks := bulksAfter wanted x.bulks f.bulk
    replay := x.replay ++ [{ fseq := x.tx, bits := bits, jobs := (f.pkts.map GPkt.job).eraseDups, dests := (f.pkts.map GPkt.ddev).eraseDups }] }
  let y := if x.replay.isEmpty then { y with heard := s.gtime } else y
  let s1 := s.holdReplies l f.heads
  { s1.setGlink l y with out := s1.out ++ [.frame l bits] }

/-- Send what can be sent; the fuel is the number of slots that wait. -/
def State.pumpN : Nat → State → Nat → State
  | 0, s, _ => s
  | n + 1, s, l =>
    if s.linkState l ≠ 2 ∨ 512 ≤ (s.glink l).replay.length then s
    else
      let f := s.fillFrame l
      if f.slots = [] then s else State.pumpN n (s.sendSlots l f) l

/-- Slots that wait on a link. -/
def GLink.waiting (x : GLink) : Nat := (x.txq.map GPkt.slots).sum + (x.cur.map (fun e => e.2.2.length)).sum

def State.pump (s : State) (l : Nat) : State := State.pumpN (s.glink l).waiting s l

/-! ### Routes (R378) -/

/-- A bank's route entry for a destination. -/
def State.routeEntry (s : State) (die bank : Nat) (dev : BitVec 16) : Nat :=
  let b := dev.toNat % 8
  s.fld (R.gulRtab die bank (dev.toNat / 8)) (8 * b + 7) (8 * b)
def State.routeBank (s : State) (die : Nat) : Nat := s.fld (R.gulRsel die) 0 0

/-- A reply kind. -/
def GPkt.isReply (p : GPkt) : Bool := [1, 3, 9].contains p.op
/-- The reply to a packet: read reply, kitty reply, or a write acknowledgement, which also brings the error of a message, a
collective's data or a start back (log entry 63); none for a reply. -/
def GPkt.replyOp (p : GPkt) : Option Nat :=
  if p.isReply then none else if p.op = 0 then some 1 else if p.op = 7 ∨ p.op = 8 then some 9 else some 3
def GPkt.reply (p : GPkt) (op : Nat) (status : Code) (data : List Byte) : GPkt :=
  { ddev := p.sdev, sdev := p.ddev, op := op, cls := 1, job := p.job, cnum := p.cnum, addr := p.addr, tag := p.tag, status := status,
    len := data.length, data := data }

/-- A packet is discarded: counted in the link's GUL_LERR (R378, R399). -/
def State.gulLost (s : State) (l : Nat) : State := s.satFld (R.gulLerr l) 63 48 1

/-- Put a packet on the link that the die's route gives, or say why not. -/
def State.routeOut (s : State) (die : Nat) (p : GPkt) : Except Code State :=
  let e := s.routeEntry die (s.routeBank die) p.ddev
  if ¬ e.testBit 5 then .error K.eLinkRoute
  else if 63 ≤ p.hops then .error K.eLinkHops
  else
    let l := e % 32
    let x := s.glink l
    .ok ((s.setGlink l { x with txq := x.txq ++ [{ p with hops := p.hops + 1, die := die }] }).pump l)

/-- Tables of a job that spans devices: the one that holds it here (R400). -/
def State.jobTable (s : State) (job : BitVec 32) : Option Nat :=
  (List.range 256).find? (fun t => t != 0 && bit 32 (s.reg (R.gulJmap1 0 t)) && s.fld (R.gulJmap0 0 t) 31 0 == job.toNat)

def State.cnum (s : State) (t : Nat) : BitVec 32 := BitVec.ofNat 32 (s.fld (R.gulJstat 0 t) 31 0)
def State.gphase (s : State) (t : Nat) : Nat := s.fld (R.gulJstat 0 t) 34 32
def State.setPhase (s : State) (t v : Nat) : State := s.setBoth (fun d => R.gulJstat d t) 34 32 v

/-- A discarded packet of a dead command (R380). -/
def State.gulStale (s : State) (t : Nat) : State :=
  (s.satFld (R.gulJstat 0 t) 55 48 1).satFld (R.gulJstat 1 t) 55 48 1

/-- The remote-request port of a core. -/
def State.gop (s : State) (core : Nat) : Option GOp := (s.gops.find? (fun x => x.1 == core)).map Prod.snd
def State.updGop (s : State) (core : Nat) (f : GOp → GOp) : State :=
  { s with gops := s.gops.map (fun (x : Nat × GOp) => if x.1 = core then (x.1, f x.2) else x) }

/-- Whether a reply answers a request. -/
def GReq.answeredBy (r : GReq) (p : GPkt) : Bool := r.pkt.tag == p.tag && r.pkt.ddev == p.sdev

/-- A request fails: its status, and the command that made it (R381). -/
def State.gulFail (s : State) (core t : Nat) (c : Code) : State :=
  (s.updGop core (fun o => { o with status := if o.status = 0 then c else o.status })).updTbl t
    (fun x => { x with failed := x.failed <|> some c })

/-- Bytes land at a local address of a port of a die: physical where the port acts for no table (R377). -/
def State.landFor (s : State) (die t va : Nat) (bs : List Byte) : State × Land :=
  if t ≠ 0 then s.landVA (gulAgent (16 * die)) t va (s.running t) false bs
  else if ¬ s.populated va bs.length then (s, .refused K.ePaRange)
  else
    let (s1, ok) := s.landPA 0 va bs
    (s1, if ok then .done else .refused K.eMemUncorrectable)

/-- Bytes from a local address of a port. -/
def State.takeFor (s : State) (die t va n : Nat) : State × Except Land (List Byte) :=
  if t ≠ 0 then s.takeVA (gulAgent (16 * die)) t va n (s.running t)
  else if ¬ s.populated va n then (s, .error (.refused K.ePaRange))
  else
    match s.takePA 0 va n with
    | (s1, some bs) => (s1, .ok bs)
    | (s1, none) => (s1, .error (.refused K.eMemUncorrectable))

/-- The code of an access that did not land. -/
def Land.code : Land → Code
  | .done => 0
  | .refused c => c
  | .absent => K.eVaUnmapped
  | .held => K.eVersionPool

/-- The answer to a request of a port: an error fails it, the data of a read lands at its place, or waits at the engine
while its page waits for a frame (R293). -/
def State.portAnswer (s : State) (r : GReq) (o : GOp) (p : GPkt) : State :=
  if p.job ≠ 0 ∧ p.cnum ≠ s.cnum o.table then s.gulStale o.table
  else if p.status = K.eLinkRetry then
    { s with greqs := s.greqs.map (fun (x : GReq) => if x.answeredBy p then { x with retry := true, link := none } else x) }
  else
    let s1 := { s with greqs := s.greqs.filter (fun x => !x.answeredBy p) }
    if p.status ≠ 0 then s1.gulFail r.core o.table p.status
    else if p.op = 1 then
      match s1.landFor (r.core / 16) o.table r.lva p.data with
      | (s2, .done) => s2
      | (s2, .held) => { s2 with greqs := s.greqs, gin := s2.gin ++ [⟨p, r.core / 16, 16 * (r.core / 16), none⟩] }
      | (s2, l) => s2.gulFail r.core o.table l.code
    else s1

/-- A step copy in progress is abandoned: the step sealed before it is the last one again (R392, R505). -/
def State.abandonStep (s : State) (t : Nat) : State :=
  let s1 := (s.setBoth (fun d => R.mmuTstep d t) 0 0 0).updTbl t (fun x => { x with copyPage := none })
  { s1 with jobs := s1.jobs.map (fun (x : Job) =>
      if x.table = t then { x with armed := x.lastStep, armedCounts := x.stepCounts } else x) }

/-- The step of a commit that arms no copy, or whose copy the partner refused, is counted (R292, R392, R506). -/
def State.skipStep (s : State) (t : Nat) : State := s.setBoth (fun d => R.mmuTstep d t) 31 16 (s.fld (R.mmuTstep 0 t) 31 16 + 1)

/-- A kitty reply that answers no get (R392, R506): the acknowledgement of a seal makes the step armed last the last sealed
one, which a rank other than the lead reports; after a refusal the step counts as skipped. -/
def State.sealAnswer (s : State) (p : GPkt) : State :=
  match s.jobTable p.job with
  | none => s
  | some t =>
    match s.jobs.find? (fun j => j.table == t) with
    | none => s
    | some j =>
      if p.status ≠ 0 then (if j.armed = j.lastStep then s else (s.abandonStep t).skipStep t)
      else
        let s1 := { s with jobs := s.jobs.map (fun (x : Job) =>
          if x.handle = j.handle then { x with lastStep := x.armed, stepCounts := x.armedCounts } else x) }
        if j.rank = 0 then s1 else { s1 with out := s1.out ++ [.stepSealed j.jid j.armed j.rank] }

/-- The answer to a kitty get of a restart (R508 step 3): the bytes land in the page's C frame. -/
def State.kittyAnswer (s : State) (r : GReq) (p : GPkt) : State :=
  let s1 := { s with greqs := s.greqs.filter (fun x => !x.answeredBy p) }
  if p.status ≠ 0 then s1.updTbl (r.core - 32) (fun x => { x with failed := x.failed <|> some p.status })
  else (s1.landPA (r.core - 32) r.lva p.data).1

/-- A reply that answers no request that waits: of a dead command it is discarded and counted (R380, R390); an error that
comes back for a message, collective data or a start fails the command that sent it (R378, R381). -/
def State.strayAnswer (s : State) (p : GPkt) : State :=
  match s.jobTable p.job with
  | none => s
  | some t =>
    if p.op = 3 ∧ p.cnum = s.cnum t ∧ p.status ≠ 0 then s.updTbl t (fun x => { x with failed := x.failed <|> some p.status })
    else s.gulStale t

/-- A reply reaches the requester's engine (R380, R381, R383, R392). -/
def State.gulAnswer (s : State) (p : GPkt) : State :=
  match s.greqs.find? (fun r => r.answeredBy p) with
  | none => if p.op = 9 then s.sealAnswer p else s.strayAnswer p
  | some r =>
    match s.gop r.core with
    | some o => s.portAnswer r o p
    | none => if 32 ≤ r.core then s.kittyAnswer r p else s

/-- Hand a packet to this device's engine. -/
def State.gulDeliver (s : State) (die l : Nat) (p : GPkt) : State :=
  if p.isReply then s.gulAnswer p else { s with gin := s.gin ++ [⟨p, die, l, none⟩] }

/-- Send a packet from a die's engine: to this device itself, out on a link, or back as a reply with the code of R378.
`l` is the link whose GUL_LERR counts a discard. -/
def State.gulSend (s : State) (die l : Nat) (p : GPkt) : State :=
  if p.ddev = s.gulDev then s.gulDeliver die l p
  else match s.routeOut die p with
    | .ok s1 => s1
    | .error c =>
      match p.replyOp with
      | none => s.gulLost l
      | some op =>
        let r := p.reply op c []
        if r.ddev = s.gulDev then s.gulDeliver die l r
        else match s.routeOut die r with
          | .ok s1 => s1
          | .error _ => s.gulLost l

end Sys2Proof.Machine
end

