-- ==== Sys2Proof/Machine/HostCore.lean ====
section
/-! DEFINITION. Messages to hosts (R409, R410, R412, R421): sessions, RESULTs, completions and job status. -/

namespace Sys2Proof.Machine

open Sys2Proof

/-! ### Sessions -/

def State.session (s : State) (n : Nat) : Option Sess := (s.sess.find? (fun x => x.1 == n)).map Prod.snd
def State.updSess (s : State) (n : Nat) (f : Sess → Sess) : State :=
  { s with sess := s.sess.map (fun (x : Nat × Sess) => if x.1 = n then (n, f x.2) else x) }

/-- Send a message of the device: numbered, kept until acknowledged; at most 64 are unacknowledged and the rest wait
(R410). -/
def State.sendDev (s : State) (n : Nat) (m : DMsg) : State :=
  match s.session n with
  | none => s
  | some x =>
    if 64 ≤ x.unacked.length then s.updSess n (fun y => { y with wait := y.wait ++ [m] })
    else
      let s1 := s.updSess n (fun y =>
        { y with unacked := y.unacked ++ [{ seq := x.next, msg := m, sent := s.gtime }], next := x.next + 1, ackDue := false })
      { s1 with out := s1.out ++ [.host n x.next (x.expect - 1) m] }

/-- Messages that waited go out as acknowledgements make room. -/
def State.drainWait (s : State) (n : Nat) : State :=
  match s.session n with
  | none => s
  | some x => x.wait.foldl (fun s m => s.sendDev n m) (s.updSess n (fun y => { y with wait := [] }))

/-- An ACK message (R410, R412): it repeats no message and takes no number. -/
def State.sendAck (s : State) (n : Nat) : State :=
  match s.session n with
  | none => s
  | some x => { s.updSess n (fun y => { y with ackDue := false }) with out := s.out ++ [.host n x.next (x.expect - 1) ⟨0x10, []⟩] }

/-- A RESULT (R412): the seq of the request, its status, and the result fields from offset 8. -/
def resultMsg (seq : BitVec 32) (status : Code) (fields : List Byte) : DMsg :=
  ⟨0x40, leBytes 4 seq.toNat ++ leBytes 2 status.toNat ++ [0, 0] ++ fields⟩

/-- Answer a request of a session; the last 64 RESULTs are kept for duplicates (R410). -/
def State.result (s : State) (n : Nat) (seq : BitVec 32) (status : Code) (fields : List Byte) : State :=
  let m := resultMsg seq status fields
  (s.updSess n (fun y =>
    { y with results := (y.results ++ [(seq, y.next + BitVec.ofNat 32 y.wait.length, m)]).drop (y.results.length - 63) })).sendDev n m

/-- Answer a request made outside a session (R435). -/
def State.resultOut (s : State) (port : BitVec 1) (src : BitVec 128) (udp : BitVec 16) (seq : BitVec 32) (m : DMsg) : State :=
  { s with out := s.out ++ [.hostless port src udp seq m] }

/-! ### Jobs -/

def State.job (s : State) (h : Nat) : Option Job := s.jobs.find? (fun j => j.handle == h)
def State.updJob (s : State) (h : Nat) (f : Job → Job) : State :=
  { s with jobs := s.jobs.map (fun (j : Job) => if j.handle = h then f j else j) }

/-- The job that owns a table. -/
def State.jobOf (s : State) (t : Nat) : Option Job := if (s.tbl t).job = 0 then none else s.job (s.tbl t).job

/-- JOB_STATUS (R412, R505). -/
def State.jobStatus (s : State) (j : Job) (status : Code) : State :=
  match j.session with
  | some n => s.sendDev n ⟨0x33, leBytes 8 j.handle ++ leBytes 2 status.toNat⟩
  | none => s

/-- The output sizes of a completion (R547): what the program declared, at most the region's length; the length where it
declared none; 0 for a command that did not commit. -/
def Cmd.outSizes (c : Cmd) (status : Code) : List Nat :=
  (List.range c.req.outputs.length).map (fun i =>
    let len := ((c.req.outputs[i]?).map Prod.snd).getD 0
    if status = 0 then min len (((c.sizes[i]?).getD none).getD len) else 0)

/-- CMD_COMPLETE (R421). -/
def completion (h : Nat) (c : Cmd) (status : Code) : DMsg :=
  ⟨0x3A, leBytes 8 h ++ leBytes 8 c.req.tag.toNat ++ leBytes 8 c.num ++ leBytes 2 status.toNat ++ [BitVec.ofNat 8 c.req.outputs.length, 0] ++
    leBytes 4 c.reruns ++ leBytes 8 c.accepted.toNat ++ leBytes 8 c.committed.toNat ++ (c.outSizes status).flatMap (leBytes 8)⟩

/-- The completions of a job that may go out now: in command number order, none before those ahead of it (R421). -/
def readyCmds : List Cmd → List (Cmd × Code)
  | [] => []
  | c :: t =>
    match c.st with
    | .ended st => if c.sent then readyCmds t else (c, st) :: readyCmds t
    | _ => []

/-- Send the completions that are due, each an event of the job's home dealer (R358); those of a detached job are kept
(R415, R416). -/
def State.flushDone (s : State) (h : Nat) : State :=
  match s.job h with
  | none => s
  | some j =>
    match j.session with
    | none => s
    | some n =>
      let l := readyCmds j.cmds
      let home := s.fld (R.tblCtl 0 j.table) 2 2
      let s1 := l.foldl (fun s x => (s.dealerSees home).sendDev n (completion h x.1 x.2)) s
      s1.updJob h (fun j => { j with cmds := j.cmds.map (fun (c : Cmd) => if l.any (fun x => x.1.num == c.num) then { c with sent := true } else c) })

/-- The command of a job that runs. -/
def Job.running (j : Job) : Option Cmd := j.cmds.find? (fun c => c.st == .running)
/-- The first command that waits for its start or rerun: commands run in number order (R26). -/
def Job.nextCmd (j : Job) : Option Cmd := j.cmds.find? (fun c => c.st == .queued || c.st == .killed)
/-- Whether a command has its outcome (R29). -/
def Cmd.over (c : Cmd) : Bool := match c.st with | .ended _ => true | _ => false
/-- Change the command of a number that has no outcome yet; a restart gives numbers of ended commands again (R509). -/
def Job.setCmd (j : Job) (num : Nat) (f : Cmd → Cmd) : Job :=
  { j with cmds := j.cmds.map (fun (c : Cmd) => if c.num = num ∧ ¬ c.over then f c else c) }
/-- Commands not yet completed (R420). -/
def Job.open_ (j : Job) : List Cmd := j.cmds.filter (fun c => !c.over)

end Sys2Proof.Machine
end

