-- ==== Sys2Proof/Machine/TableCore.lean ====
section
/-! DEFINITION. Tables (R51, R54, R56, R199, R230, R231, R319, R346, R348, R351): the islands of a table, tokens that a deal
discards, the context switch, what stops a table. -/

namespace Sys2Proof.Machine

open Sys2Proof

/-! ### Islands, registers (R357, R369) -/

/-- The islands of a table in table row-major order. -/
def State.tableIsls (s : State) (t : Nat) : List Nat :=
  ((List.range 8).flatMap (fun i => (List.range 24).map (fun j => islAt i j))).filter (fun x => (s.isl x).table == t)

def State.tableCells (s : State) (t : Nat) : List CellRef := (s.tableIsls t).flatMap s.islCells

def State.tstate (s : State) (t : Nat) : Nat := s.fld (R.tblState 0 t) 2 0
def State.setTstate (s : State) (t v : Nat) : State := s.setBoth (fun d => R.tblState d t) 2 0 v
def State.tepoch (s : State) (t : Nat) : Nat := s.fld (R.tblState 0 t) 4 3
def State.setTepoch (s : State) (t v : Nat) : State := s.setBoth (fun d => R.tblState d t) 4 3 v
def State.tbusy (s : State) (t : Nat) : Bool := bit 16 (s.reg (R.tblRes 0 t))
/-- TBL_RES: status and busy (R546). -/
def State.setRes (s : State) (t : Nat) (status : Code) (busy : Bool) : State :=
  (s.setBoth (fun d => R.tblRes d t) 15 0 status.toNat).setBoth (fun d => R.tblRes d t) 16 16 (b2n busy)
def State.tvalid (s : State) (t : Nat) : Bool := decide (0 < t) && decide (t < 256) && bit 0 (s.reg (R.tblCtl 0 t))
def State.spanning (s : State) (t : Nat) : Bool := bit 32 (s.reg (R.gulJmap1 0 t))
def State.setRunning (s : State) (t : Nat) (v : Bool) : State := s.setBoth (fun d => R.mmuTcmd d t) 16 16 (b2n v)
/-- The command epoch grows by 1 (R248). -/
def State.nextEcmd (s : State) (t : Nat) : State := s.setBoth (fun d => R.mmuTcmd d t) 7 0 ((s.ecmd t).toNat + 1)

/-! ### Tokens (R56, R231, R233) -/

/-- Tokens in the pass-through registers and steering buffers of a cell, outputs that wait to be driven included. -/
def Steer.count (x : Steer) : Nat :=
  x.swCtl.length + x.swDat.length + x.mgCtl.length + x.mgA.length + x.mgB.length + b2n x.swOut.isSome + b2n x.mgOut.isSome
def Cell.tokens (c : Cell) : Nat := c.wires.length + ((List.range 4).map (fun p => (c.str p).count)).sum

/-- The deal instant of an island: tokens discarded and counted in ISL_STALE (R231, R238). -/
def State.discardCell (s : State) (k : CellRef) : State × Nat :=
  let c := s.cell k
  let e := (s.isl k.isl).epoch
  let s1 := s.setCell k { c with wires := [], steer := [] }
  (List.range 4).foldl (fun (r : State × Nat) p =>
    let q := r.1.fifo k p
    let keep := q.filter (fun x => x.epoch != e)
    (r.1.setFifo k p keep, r.2 + (q.length - keep.length))) (s1, c.tokens)

def State.discardIsl (s : State) (i : Nat) : State :=
  let (s1, n) := (s.islCells i).foldl (fun (r : State × Nat) k => let (s2, m) := r.1.discardCell k; (s2, r.2 + m)) (s, 0)
  (s1.setFld (R.islStale i) 31 0 n).setFld (R.islStale i) 63 32 0

/-- Discard and count in every island of a table; the sum of R351 over the islands whose ending hand set clean_exit. -/
def State.discardTable (s : State) (t : Nat) : State := (s.tableIsls t).foldl (fun s i => s.discardIsl i) s
def State.uncleanSum (s : State) (t : Nat) : Nat :=
  (((s.tableIsls t).filter (fun i => (s.isl i).cleanExit)).map (fun i => s.fld (R.islStale i) 31 0)).sum

/-- Every island takes the next hand epoch (R230). -/
def State.nextEpoch (s : State) (t : Nat) : State :=
  let e := (s.tepoch t + 1) % 4
  ((s.tableIsls t).foldl (fun s i => s.updIsl i (fun x => { x with epoch := BitVec.ofNat 2 e })) s).setTepoch t e

/-- The closing deal of a commit or a kill (R351), without its check. -/
def State.closingDeal (s : State) (t : Nat) : State := (s.discardTable t).nextEpoch t

/-- A fence discards the tokens of the FIFOs of its boundary and counts them in ISL_STALE.since (R56, R233). -/
def State.fenceFifos (s : State) (k : CellRef) (p : Nat) : State :=
  if s.isCrossing k p ∧ s.fenced k p then
    let n := (s.fifo k p).length + (s.inFlight k p).length
    if n = 0 then s else ((s.setFifo k p []).setFlight k p []).incFld (R.islStale k.isl) 63 32 n
  else s

/-- After a fence of an island has been set: both sides of each of its boundaries. -/
def State.fenceIsl (s : State) (i : Nat) : State :=
  (s.islCells i).foldl (fun s k => (List.range 4).foldl (fun s p =>
    match s.nbr k p with
    | some k' => if k'.isl = i then s else (s.fenceFifos k p).fenceFifos k' (facing p)
    | none => s) s) s

/-! ### Sync requests of a table (R318, R319, R322, R348) -/

def SyncWho.ofTable (s : State) (t : Nat) : SyncWho → Bool
  | .cell g => (s.isl (ofGid g).isl).table == t
  | .sieve g => (s.isl (ofGid g).isl).table == t
  | _ => false

/-- Drop one request: a waiter of a round is withdrawn; a held arrival that is dropped gives the round's waiters back to
their queue; a dropped undecided waiter lets its word go on; the effect of an operation whose answer is held stands (R318). -/
def State.dropRequest (s : State) (x : SyncReq) : State :=
  match x.stage with
  | .parked => (s.roundWithdraw x).dropSync x.id
  | .satisfiable => ((s.roundWithdraw x).dropSync x.id).afterRuling x
  | .held =>
    let s1 := s.dropSync x.id
    { s1 with syncs := s1.syncs.map (fun (r : SyncReq) => if r.home = x.home ∧ r.stage = .satisfiable then { r with stage := .parked } else r) }
  | _ => s.dropSync x.id

def State.dropRequests (s : State) (t : Nat) : State :=
  (s.syncs.filter (fun r => SyncWho.ofTable s t r.who)).foldl (fun s x =>
    match s.syncReq x.id with
    | some y => s.dropRequest y
    | none => s) s

/-- Waiters of others on a cleared word complete with OWNER_LOST (R319). -/
def State.ownerLost (s : State) (cleared : Home → Bool) : State :=
  s.syncs.foldl (fun s x =>
    if ¬ cleared x.home then s
    else match x.stage with
      | .parked => s.syncAnswer x K.ownerLost 0
      | .satisfiable => s.syncAnswer x K.ownerLost 0
      | .held => s.syncAnswer x K.ownerLost 0
      | .performed v => s.syncAnswer x 0 v
      | _ => s) s

/-- The context switch of R319. -/
def State.contextClear (s : State) (t : Nat) : State :=
  let cleared (h : Home) : Bool := s.wordOwner h == t
  let s1 := (s.tableCells t).foldl (fun s k => if isMemCell k then s.updCell k (fun c => { c with fe := [], fe1 := [], fe2 := [] }) else s) s
  let s2 := { s1 with wins := s1.wins.filter (fun x => s1.fld (R.syncWown (x.1 / 16384) (x.1 % 16384)) 7 0 != t) }
  (s2.dropRequests t).ownerLost cleared

/-! ### Stopping a table (R348) -/

/-- Every engine is idle; what CELL_SENG and CELL_SFVA show of the last SSTART and halt stays (R199, R212). -/
def Cell.idleEngines (c : Cell) : Cell :=
  { c with engines := (List.range 4).foldl (fun m e =>
      let x := c.eng e
      SMap.set Engine.dflt m e { slot := x.slot, dir := x.dir, beats := x.beats, fkind := x.fkind, sfva := x.sfva }) [] }

def Cell.stopped (c : Cell) (n : Nat) : Cell :=
  let c1 := c.idleEngines
  let v := c1.sieve
  { c1 with
    run := if c.run = .running then .idle else c.run, held := none, sync := .none, pend := [], bubble := false,
    sieve := { v with flushes := [], lists := if svEn v.cfg then freeLists n v else v.lists } }

/-- The images of a killed cell's pending flushes are undefined (R267): free values. -/
def State.loseImages (s : State) (k : CellRef) : State :=
  (s.cell k).sieve.flushes.foldl (fun s f =>
    { s.wrN (sramBase k + f.start) ((List.range f.size).map (fun i => (Config.freeValue (s.free + i)).setWidth 8)) with
      free := s.free + f.size }) s

/-- A cell stops: writes on their way into its window land whole (R263), its flushes are dropped (R267, R348). -/
def State.stopCell (s : State) (k : CellRef) : State :=
  let s1 := s.updCell k (fun c => { c with run := if c.run = .running then .idle else c.run })
  let s2 := (s1.intakeStep k).loseImages k
  { s2.setCell k ((s2.cell k).stopped s2.free) with free := s2.free + 1 }

def State.stopIsl (s : State) (i : Nat) : State :=
  let s1 := (s.islCells i).foldl (fun s k => s.stopCell k) s
  let st := s1.fld (R.islSeq i) 2 0
  (if st = 1 ∨ st = 2 then s1.setFld (R.islSeq i) 2 0 0 else s1).setFld (R.islSeq i) 6 3 0

/-- A version copy in progress is abandoned and its frame returns to the pool (R288). -/
def State.abandonCopies (s : State) (t : Nat) : State :=
  (s.vcopy.filter (fun x => x.2.table == t)).foldl (fun s x => { s with vcopy := SMap.erase x.1 s.vcopy }.giveFrame x.2.new) s

/-- Remote requests and collectives of the command are abandoned (R348, R390). What a port's status then holds the spec
does not say. -/
def State.abandonRemote (s : State) (t : Nat) : State :=
  let mine := s.gops.filter (fun x => x.2.table == t)
  let s1 := { s with
    gops := s.gops.filter (fun x => x.2.table != t)
    greqs := s.greqs.filter (fun r => !(mine.any (fun x => x.1 == r.core)))
    colls := s.colls.filter (fun c => c.table != t)
    gin := s.gin.filter (fun g => match g.admitted with | some (t', _) => t' != t | none => true) }
  mine.foldl (fun s x =>
    let (v, s2) := s.fresh
    s2.setReg (R.gulQres x.1) (BitVec.ofNat 64 (v.toNat % 2 ^ 16 + 2 ^ 16))) s1

/-- Outstanding mesh requests of a table are abandoned (R28, R348): its reads, writes and multicast writes go, in the mesh and
at the memories. A reply on its way is discarded by its epoch (R248). -/
def State.withdraw (s : State) (t : Nat) : State :=
  let mine (p : Packet) : Bool := p.table == t && (p.op == .read || p.op == .write || p.op == .multicast)
  { s with
    mesh := s.mesh.filter (fun p => !mine p)
    memq := (s.memq.map (fun x => (x.1, x.2.filter (fun r => r.table != t)))).filter (fun x => !x.2.isEmpty) }

/-- Stop and abandon (R348): nothing of the table issues or waits any more. -/
def State.stopTable (s : State) (t : Nat) : State :=
  (((((s.tableIsls t).foldl (fun s i => s.stopIsl i) s).withdraw t).dropRequests t).abandonCopies t).abandonRemote t

/-! ### The wait phase (R346, R350) -/

def Cell.quiet (c : Cell) : Bool :=
  (c.run == .ended || c.run == .idle) && (List.range 4).all (fun e => (c.eng e).state == .idle) && c.sieve.flushes.isEmpty

/-- Every cell of a table has ended or is idle, its engines are idle and no flush is pending. -/
def State.drained (s : State) (t : Nat) : Bool := (s.tableCells t).all (fun k => (s.cell k).quiet)

end Sys2Proof.Machine
end

