-- ==== Sys2Proof/Machine/CmdCore.lean ====
section
/-! DEFINITION. Commands of a table (R26 to R31, R289, R327, R346 to R349, R380, R388, R389, R505): start, kill, failure,
commit, and the two-phase commit of a job that spans devices. -/

namespace Sys2Proof.Machine

open Sys2Proof

/-! ### The tree of a job's ranks (R385, R388) -/

def treeChildren (n r : Nat) : List Nat :=
  (List.range 16).filterMap (fun l => if r % 2 ^ (l + 1) = 0 ∧ r + 2 ^ l < n then some (r + 2 ^ l) else none)
def treeParent (r : Nat) : Nat := r - (((List.range 16).find? (fun l => r.testBit l)).map (fun l => 2 ^ l)).getD 0

def State.rank (s : State) (t : Nat) : Nat := s.fld (R.gulJmap0 0 t) 47 32
def State.nranks (s : State) (t : Nat) : Nat := s.fld (R.gulJmap0 0 t) 63 48 + 1
def State.jid (s : State) (t : Nat) : BitVec 32 := BitVec.ofNat 32 (s.fld (R.gulJmap0 0 t) 31 0)
def State.children (s : State) (t : Nat) : List Nat := treeChildren (s.nranks t) (s.rank t)

/-- A commit message to a rank (R388). An ABORT carries the code of a failure in the status field of R377, a COMMIT the
lead's ruling on step_end (R506). -/
def State.tellWith (s : State) (t kind r : Nat) (status : Code) : State :=
  { s with out := s.out ++ [.commit (s.jid t) (s.cnum t) kind r status (kind == 3 && (s.tbl t).skip)] }
def State.tellRank (s : State) (t kind r : Nat) : State := s.tellWith t kind r 0
def State.tellRanks (s : State) (t kind : Nat) (rs : List Nat) : State := rs.foldl (fun s r => s.tellRank t kind r) s
def State.others (s : State) (t : Nat) : List Nat := (List.range (s.nranks t)).filter (fun r => r != s.rank t)
/-- ABORT to every rank from the lead, to the lead from another rank (R388, R389). -/
def State.tellAbort (s : State) (t : Nat) (status : Code) : State :=
  if s.rank t = 0 then (s.others t).foldl (fun s r => s.tellWith t 4 r status) s else s.tellWith t 4 0 status

/-- The home dealer of a table orders an event. -/
def State.homeSees (s : State) (t : Nat) : State := s.dealerSees (s.fld (R.tblCtl 0 t) 2 2)

/-! ### Start (R26, R248, R380) -/

/-- Whether a job lets its next command start: a lead needs one that waits. -/
def State.jobReady (s : State) (t : Nat) : Bool :=
  match s.jobOf t with
  | none => true
  | some j => j.stopped.isNone && !j.restarting && j.nw.isSome && (j.rank != 0 || j.nextCmd.isSome)

def State.canStart (s : State) (t : Nat) : Bool :=
  s.tvalid t && !s.running t && !s.sweeping t && (s.tstate t == 0 || s.tstate t == 5 || s.tstate t == 6) && s.jobReady t
    && (!s.spanning t || s.gphase t == 0) && (s.tbl t).scan.isNone

/-- Whether the command that starts is the rerun of the one killed last: at the lead its state says so, at another rank
the number that the lead sends (R28, R380). -/
def State.isRerun (s : State) (t : Nat) (m : StartMsg) : Bool :=
  match (s.jobOf t).bind Job.nextCmd with
  | some c => c.st == .killed
  | none => (s.tbl t).again && (s.rank t == 0 || (s.tbl t).num == m.num)

/-- A rerun keeps the command epoch that its kill set (R29, R348); a first run takes a new one. -/
def State.startEpoch (s : State) (t : Nat) (m : StartMsg) : State := if s.isRerun t m then s else s.nextEcmd t

/-- What a table notes at the start of a command: its number and the sequences it advances come from the job's command,
or from the lead's message. -/
def startTbl (gtime : Word) (scanned : Bool) (num : Nat) (seqs : List Nat) (x : Tbl) : Tbl :=
  { x with
    deal := .none, commit := none, kill := none, failed := none, dealt := false, scanned := scanned, since := gtime,
    ready := [], done := [], prep := false, ue := false, num := num, seqs := seqs, sizes := [], skip := false, again := false, colls := 0 }

/-- Each sequence gets a seat of the job (R34): its own, or the first that no sequence has (DESIGN CHOICE, log entry 105:
the spec leaves the choice to firmware); none where the seats do not suffice. -/
def mapSeqs : List Nat → Job → Option Job
  | [], j => some j
  | q :: t, j =>
    if j.seqs.any (fun x => x.1 == q) then mapSeqs t j
    else match j.seats.find? (fun x => !j.seqs.any (fun y => y.2 == x)) with
      | some seat => mapSeqs t { j with seqs := j.seqs ++ [(q, seat)] }
      | none => none

def startOf (gtime : Word) (c : Cmd) : Cmd :=
  { c with st := .running, accepted := if c.reruns = 0 then gtime else c.accepted }

/-- The command of the table's job, if it has one, runs; TBL_STATE counts its reruns. A rank without a command of its own
maps the sequences of the lead's message (R34), and its count of reruns goes on where the message names the killed
command. -/
def State.startJobCmd (s : State) (t : Nat) (m : StartMsg) (rerun : Bool) : State :=
  let count (s : State) : State := if rerun then s else s.setBoth (fun d => R.tblState d t) 47 16 0
  match s.jobOf t with
  | none => count s
  | some j =>
    match j.nextCmd with
    | none => count (s.updJob j.handle (fun j => (mapSeqs m.seqs j).getD j))
    | some c =>
      (s.updJob j.handle (fun j => j.setCmd c.num (startOf s.gtime))).setBoth (fun d => R.tblState d t) 47 16 c.reruns

/-- The lead of a spanning job adds 1 to the job's command number and tells every rank (R380); another rank takes the
number that the lead sent. -/
def State.startSpan (s : State) (t : Nat) (m : StartMsg) : State :=
  if s.rank t = 0 then
    let s1 := (s.setBoth (fun d => R.gulJstat d t) 31 0 ((s.cnum t).toNat + 1)).setPhase t 1
    { s1 with out := s1.out ++ (s1.others t).map (fun r => Out.start (s1.jid t) ⟨s1.cnum t, (s1.tbl t).num, (s1.tbl t).seqs⟩ r) }
  else (s.setBoth (fun d => R.gulJstat d t) 31 0 m.cnum.toNat).setPhase t 1

/-- The next command starts: its epoch is new, a spanning job's number grows and goes to every rank. `m` is the lead's
message at a rank other than the lead; it says nothing to a lead. -/
def State.startCmd (s : State) (t : Nat) (m : StartMsg) : State :=
  let scanned := s.tstate t == 6
  let rerun := s.isRerun t m
  let (num, seqs) := match (s.jobOf t).bind Job.nextCmd with
    | some c => (c.num, c.req.seqs)
    | none => (m.num, m.seqs)
  let s1 := ((s.startEpoch t m).setRunning t true).setBoth (fun d => R.mmuTcmd d t) 47 32 0
  let s2 := (s1.updTbl t (startTbl s.gtime scanned num seqs)).startJobCmd t m rerun
  if s.spanning t then s2.startSpan t m else s2

/-- The message of a start that no lead sends: the table's own job names the command. -/
def ownStart : StartMsg := ⟨0, 0, []⟩

/-- A rank of a spanning job other than the lead waits for its lead's start. -/
def State.mayAutoStart (s : State) (t : Nat) : Bool := s.canStart t && (!s.spanning t || s.rank t == 0)

/-! ### Ends (R29, R319) -/

/-- The running command of a table's job ends with a status; run time counts towards its limit. A command that is over
takes its grants' doubling with it (R344). -/
def State.endCmd (s : State) (t : Nat) (st : CmdSt) : State :=
  match s.jobOf t with
  | none => s
  | some j =>
    match j.running with
    | none => s
    | some c =>
      let j1 := if st = .killed then j else { j with mult := 1, kills := 0 }
      s.updJob j.handle (fun _ => j1.setCmd c.num (fun c =>
        { c with
          st := st, used := c.used + (s.gtime - (s.tbl t).since).toNat, sizes := (s.tbl t).sizes,
          reruns := if st = .killed then c.reruns + 1 else c.reruns,
          committed := if st = .ended 0 then s.gtime else 0 }))

/-- Completions of a table's job that are due. -/
def State.flushTable (s : State) (t : Nat) : State :=
  match s.jobOf t with
  | some j => s.flushDone j.handle
  | none => s

/-- The W frames of the command are dropped: a sweep that drops is in progress until VERSION_SWEEP_DONE (R289). -/
def State.startDrop (s : State) (t : Nat) : State :=
  (s.setBoth (fun d => R.mmuTcmd d t) 17 17 1).updTbl t (fun x => { x with dropping := true })

/-- What a command that does not commit leaves: nothing (R24, R28, R327). -/
def State.leaveNothing (s : State) (t : Nat) : State :=
  (((s.dropTableMsgs t).contextClear t).startDrop t).setRunning t false

/-- A command fails where its islands stand drained: a rejected deal, or an unclean exit (R351, R355). -/
def State.failNow (s : State) (t : Nat) (code : Code) : State :=
  let s1 := (((s.abandonCopies t).abandonRemote t).leaveNothing t).setTstate t 5
  let s2 := s1.updTbl t (fun x => { x with deal := .none, commit := none, kill := none, failed := none })
  let s3 := ((s2.endCmd t (.ended code)).setRes t code false).flushTable t
  if s.spanning t ∧ s.gphase t ≠ 0 then (s3.tellAbort t code).setPhase t 0 else s3

/-! ### Kill (R28, R348, R360, R389) -/

/-- A later order does not undo what an earlier one decided, but a mere rerun gives way. -/
def mergeKill (old : Option KillTo) (new : KillTo) : KillTo :=
  match old with
  | none => new
  | some .rerun => new
  | some x => x

/-- The code that a failure gives its command and the requests it stops. -/
def KillTo.status : KillTo → Code
  | .fail c => c
  | .stop => K.eJobStopped
  | _ => 0

/-- What TBL_RES holds once a kill begins (R546): 0x0000 after a kill or a cancel request; a failure or a stop that
firmware decides ends only the request in progress, with its code. -/
def State.killRes (s : State) (t : Nat) (to_ : KillTo) : State :=
  match to_ with
  | .rerun => s.setRes t 0 false
  | .cancel => s.setRes t 0 false
  | x => if s.tbusy t then s.setRes t x.status false else s

/-- Stop and abandon; the release follows (KILL_RELEASE). -/
def State.beginKill (s : State) (t : Nat) (to_ : KillTo) : State :=
  let to' := match to_, (s.tbl t).failed with | .rerun, some c => KillTo.fail c | x, _ => x
  let k := mergeKill (s.tbl t).kill to'
  (((s.stopTable t).setTstate t 4).killRes t to_).updTbl t (fun x =>
    { x with kill := some k, deal := .none, commit := none })

/-- A kill begins; a command of a spanning job that ends here is aborted on every rank. `told` is a kill that the other
ranks know of. -/
def State.killBegins (s : State) (t : Nat) (to_ : KillTo) (told : Bool) : State :=
  let s2 := s.beginKill t to_
  if s.spanning t then
    let code := match (s2.tbl t).kill with | some (.fail c) => c | _ => 0
    (if s.rank t = 0 ∨ ¬ told then s2.tellAbort t code else s2).setPhase t 4
  else s2

/-- The home dealer orders a kill of the running command: after a deal that is past its wait phase, at once otherwise.
A prepared rank asks its lead first, unless the decision is already abort (`force`). -/
def State.orderKill (s : State) (t : Nat) (to_ : KillTo) (force : Bool) : State :=
  if ¬ s.running t then s
  else
    let s1 := s.homeSees t
    if s.spanning t ∧ s.gphase t = 2 ∧ ¬ force then s1.tellRank t 5 0
    else match (s1.tbl t).deal with
      | .go _ => s1.updTbl t (fun x => { x with kill := some (mergeKill x.kill to_) })
      | .load _ => s1.updTbl t (fun x => { x with kill := some (mergeKill x.kill to_) })
      | _ => s1.killBegins t to_ force

/-- Every command of a stopped job that has not run ends with E_JOB_STOPPED (R505). -/
def State.stopQueued (s : State) (h : Nat) (code : Code) : State :=
  s.updJob h (fun j => { j with cmds := j.cmds.map (fun (c : Cmd) =>
    if c.st = .queued ∨ c.st = .killed then { c with st := .ended code } else c) })

/-- The end of a stop (R505 steps 3 and 4): the queued commands end too, whatever ended the running one, and the session
hears the cause. -/
def State.jobStopped (s : State) (h : Nat) (cause : Code) : State :=
  let s1 := (s.stopQueued h K.eJobStopped).flushDone h
  match s1.job h with
  | some j => s1.jobStatus j cause
  | none => s1

/-- The release of a kill (R348): closing deal, the clearing of R319, a new command epoch, the table idle; the command
waits for its rerun, or ends. -/
def State.releaseKill (s : State) (t : Nat) (k : KillTo) : State :=
  let s1 := ((((s.closingDeal t).leaveNothing t).nextEcmd t).setTstate t (match k with | .fail _ => 5 | _ => 0))
  let s2 := s1.updTbl t (fun x => { x with kill := none, failed := none, again := k == .rerun })
  let s3 := match k with
    | .rerun => (s2.endCmd t .killed).setBoth (fun d => R.tblState d t) 47 16 (s2.fld (R.tblState 0 t) 47 16 + 1)
    | .fail c => s2.endCmd t (.ended c)
    | .cancel => s2.endCmd t (.ended K.cancelled)
    | .stop => s2.endCmd t (.ended K.eJobStopped)
  let s4 := if s.spanning t then s3.setPhase t 0 else s3
  match s4.jobOf t with
  | some j => (match j.stopped with | some c => s4.jobStopped j.handle c | none => s4.flushTable t)
  | none => s4

/-! ### Commit (R27, R31, R289, R291, R346, R351) -/

/-- The seat of each sequence that the command advances counts one more committed command (R31, R34). -/
def State.advanceSeats (s : State) (t : Nat) (j : Job) : State :=
  (s.tbl t).seqs.eraseDups.foldl (fun s q =>
    match (j.seqs.find? (fun x => x.1 == q)).map Prod.snd with
    | some seat => { s with progress := SMap.set (fun _ => 0) s.progress seat (SMap.get (fun _ => 0) s.progress seat + 1) }
    | none => s) s

/-- The progress counts of a job's seats. -/
def State.counts (s : State) (j : Job) : List (Nat × Word) := j.seats.map (fun x => (x, SMap.get (fun _ => 0) s.progress x))

/-- Arm the step copy (R291, R292). -/
def State.armStep (s : State) (t num : Nat) : State :=
  if s.fld (R.mmuTstep 0 t) 0 0 = 1 then s.skipStep t
  else
    let s1 := ((s.setBoth (fun d => R.mmuTstep d t) 1 1 (1 - s.fld (R.mmuTstep 0 t) 1 1)).setBoth (fun d => R.mmuTstep d t) 0 0 1)
    let n := (s1.stepPages t).length
    let s2 := (s1.setBoth (fun d => R.mmuTstep d t) 63 32 n).setBoth (fun d => R.mmuTstep d t) 0 0 (if n = 0 then 0 else 1)
    let s3 := s2.updTbl t (fun x => { x with armNow := true, stepCount := n })
    match s3.jobOf t with
    | some j => s3.updJob j.handle (fun j => { j with armed := num, armedCounts := s3.counts j })
    | none => s3

/-- The commit instant (R289, R346 step 4): W frames become the committed ones, messages are published, seats advance, a
step copy may be armed. -/
def State.commitInstant (s : State) (t : Nat) (stepEnd : Bool) : State :=
  let s1 := ((s.setBoth (fun d => R.mmuTcmd d t) 15 8 (s.ecmd t).toNat).setBoth (fun d => R.mmuTcmd d t) 17 17 1).setRunning t false
  let s2 := (s1.publishTable t).homeSees t
  let num := (s2.tbl t).num
  let s3 := match s2.jobOf t with
    | some j => (s2.advanceSeats t j).updJob j.handle (fun j => { j with lastCommit := num, mult := 1, kills := 0 })
    | none => s2
  let s4 := if stepEnd then (if (s.tbl t).skip then s3.skipStep t else s3.armStep t num) else s3
  (s4.endCmd t (.ended 0)).updTbl t (fun x => { x with commit := none, failed := none })

/-- Steps 3 and 4 of R346: the closing deal with its clean-exit check, the commit instant, the table idle. The
completion of a spanning job waits for DONE. A rank whose closing deal is unclean after the decision fails its own part
and sends ABORT; the others have committed (DESIGN CHOICE, log entry 106). -/
def State.commitLocal (s : State) (t : Nat) (stepEnd : Bool) : State :=
  let s1 := s.closingDeal t
  if s1.uncleanSum t ≠ 0 then s1.failNow t K.eUncleanExit
  else
    let s2 := ((((s1.commitInstant t stepEnd).contextClear t).setTstate t 0).setRes t 0 false)
    if s.spanning t then s2.setPhase t 3 else s2.flushTable t

/-- DONE goes up when this rank and its whole subtree have committed; at the lead the completion goes to the host
(R388). -/
def State.tryDone (s : State) (t : Nat) : State :=
  if s.gphase t = 3 ∧ (s.children t).all (fun c => (s.tbl t).done.contains c) then
    (if s.rank t = 0 then s.flushTable t else s.tellRank t 6 (treeParent (s.rank t))).setPhase t 0
  else s

/-- The decision: COMMIT goes down, steps 3 and 4 run, DONE goes up. -/
def State.decideCommit (s : State) (t : Nat) (stepEnd : Bool) : State :=
  ((s.tellRanks t 3 (s.children t)).commitLocal t stepEnd).tryDone t

/-- No request of the table's cores is unanswered. -/
def State.remoteQuiet (s : State) (t : Nat) : Bool :=
  s.greqs.all (fun r => match s.gop r.core with | some o => o.table != t | none => true)

/-- READY goes up, or the lead decides, once step 1 has passed here, remote writes are acknowledged and every child has
sent READY (R388, R389). A request that came back with an error fails the command (R381). -/
def State.tryReady (s : State) (t : Nat) : State :=
  match (s.tbl t).commit with
  | none => s
  | some se =>
    if s.tstate t = 3 ∧ s.gphase t = 1 ∧ (s.tbl t).failed.isSome then s.orderKill t (.fail ((s.tbl t).failed.getD 0)) false
    else if s.tstate t = 3 ∧ s.gphase t = 1 ∧ s.remoteQuiet t ∧ (s.children t).all (fun c => (s.tbl t).ready.contains c) then
      if s.rank t = 0 then (s.homeSees t).decideCommit t se
      else if (s.tbl t).prep then
        ((s.tellRank t 2 (treeParent (s.rank t))).setPhase t 2).updTbl t (fun x => { x with prepAt := s.gtime })
      else s
    else s

/-! ### A job stops (R505) -/

/-- The job stops: its running command is killed, its commands end with E_JOB_STOPPED, its session is told the cause and
the other ranks get a notice. -/
def State.stopJob (s : State) (h : Nat) (cause : Code) (notify : Bool) : State :=
  match s.job h with
  | none => s
  | some j =>
    if j.stopped.isSome then s
    else
      let t := j.table
      let s1 := s.updJob h (fun j => { j with stopped := some cause })
      let s2 := (s1.satFld (R.errUe (s.fld (R.tblCtl 0 t) 2 2)) 47 36 1).abandonStep t
      let s3 := if notify ∧ 1 < j.nranks then
          ((List.range j.nranks).filter (fun r => r != j.rank)).foldl (fun s r => { s with out := s.out ++ [.stopNotice j.jid cause r] }) s2
        else s2
      if s3.running t then s3.orderKill t .stop true else s3.jobStopped h cause

/-- An uncorrectable-error event that the home dealer saw stops the table's job at its next commit start (R360); a table
without a job loses its command. -/
def State.ueTable (s : State) (t : Nat) : State :=
  match s.jobOf t with
  | some j => s.stopJob j.handle K.eJobStopped true
  | none => s.orderKill t .stop true

end Sys2Proof.Machine
end

