-- ==== Sys2Proof/Machine/MeldCore.lean ====
section
/-! DEFINITION. The meld of a die and what makes it dirty (R361, R362, R365, R371). -/

namespace Sys2Proof.Machine

open Sys2Proof

/-! ### State (R361, R371) -/

def Meld.dflt : Nat → Meld := fun _ => { table := 0 }
def State.meld (s : State) (die : Nat) : Meld := SMap.get Meld.dflt s.melds die
def State.setMeld (s : State) (die : Nat) (m : Meld) : State := { s with melds := SMap.set Meld.dflt s.melds die m }
def State.meldState (s : State) (die : Nat) : Nat := s.fld (R.meldStat die) 2 0
def State.setMeldState (s : State) (die v : Nat) : State := s.setFld (R.meldStat die) 2 0 v
/-- MELD_STAT.code and entry. -/
def State.meldFail (s : State) (die : Nat) (code : Code) (entry : Nat) : State :=
  (s.setFld (R.meldStat die) 31 16 code.toNat).setFld (R.meldStat die) 44 32 entry

/-! ### The registers that can be staged (R362) -/

inductive MReg where
  | cellDamp (k : CellRef)
  | islDamp (i : Nat)
  | mcg (i g : Nat)
  | fence (i : Nat)
  | link (k : CellRef) (off : Nat)
  | wdog (i : Nat)
  | slice (i : Nat)
  | clk (i : Nat)
  | pinFunc
  | pinAlert
  deriving DecidableEq, Repr

def State.mreg (s : State) (a : Nat) : Option MReg :=
  match regPlace a with
  | .island i o =>
    if o = 0x0200 then some (.islDamp i)
    else if o = 0x0010 then some (.fence i)
    else if o = 0x0500 then some (.wdog i)
    else if o = 0x0508 then some (.slice i)
    else if o = 0x0600 then some (.clk i)
    else if 0x80000 ≤ o ∧ o < 0x88000 ∧ o % 8 = 0 then some (.mcg i ((o - 0x80000) / 8))
    else none
  | .cell i c o =>
    let k : CellRef := ⟨i, c⟩
    if ¬ s.cellExists k then none
    else if o = 0x0F0 then some (.cellDamp k)
    else if o % 8 = 0 ∧ ((0x200 ≤ o ∧ o < 0x228) ∨ (0x240 ≤ o ∧ o < 0x280)) then some (.link k o)
    else none
  | .block die .pin o => if die = 0 ∧ o = 0 then some .pinFunc else if die = 0 ∧ o = 8 then some .pinAlert else none
  | _ => none

/-- The island that an entry reaches; GPIO functions reach none. -/
def MReg.isl : MReg → Option Nat
  | .cellDamp k => some k.isl
  | .islDamp i => some i
  | .mcg i _ => some i
  | .fence i => some i
  | .link k _ => some k.isl
  | .wdog i => some i
  | .slice i => some i
  | .clk i => some i
  | .pinFunc => none
  | .pinAlert => none

/-! ### Dirty (R365) -/

/-- What makes a checked meld dirty when it changes: the staged registers, the claims of R364 that it reaches, and the
commands of the tables that it reaches. -/
def State.meldSnap (s : State) (t : Nat) (l : List (Nat × Word)) : List Word :=
  let isls := l.filterMap (fun x => (s.mreg x.1).bind MReg.isl)
  let groups := l.filterMap (fun x => match s.mreg x.1 with | some (.mcg _ g) => some g | _ => none)
  let tables := t :: isls.map (fun i => (s.isl i).table)
  l.map (fun x => s.reg x.1) ++ [s.reg R.pinFunc, s.reg R.pinAlert] ++
    isls.map (fun i => BitVec.ofNat 64 (b2n (bit 63 (s.reg (R.islWdog i))) + b2n (bit 63 (s.reg (R.islSlice i))) * 2)) ++
    groups.flatMap (fun g => (List.range 192).map (fun i => s.reg (R.islMcg i g))) ++
    tables.map (fun x => BitVec.ofNat 64 (s.fld (R.mmuTcmd 0 x) 7 0 + s.fld (R.mmuTcmd 0 x) 16 16 * 2 ^ 8))

/-- MELD_STAT.dirty: set since the last check, or due now. -/
def State.meldDirty (s : State) (die : Nat) : Bool :=
  let m := s.meld die
  bit 3 (s.reg (R.meldStat die)) || (s.meldState die == 3 && s.meldSnap m.table m.entries != m.snap)

/-- Set MELD_STAT.dirty of a checked meld that has become dirty, so that a change undone later still counts (R365). -/
def State.noteMeld (s : State) (die : Nat) : State :=
  if s.meldState die = 3 ∧ s.meldDirty die then s.setFld (R.meldStat die) 3 3 1 else s

/-- After a command has changed a register that a meld may stage. -/
def State.noteMelds (s : State) : State := (s.noteMeld 0).noteMeld 1

end Sys2Proof.Machine
end

