-- ==== Sys2Proof/Machine/JobCore.lean ====
section
/-! DEFINITION. Jobs (R22, R31, R51 to R54, R340 to R345, R418, R451): program image headers, placements, admission, parking
and the end of a job. -/

namespace Sys2Proof.Machine

open Sys2Proof

/-! ### Program images (R451) -/

structure ImgHdr where
  magic : Nat
  version : Nat
  runtime : Nat
  steppings : Nat
  digest : Nat
  rows : Nat
  cols : Nat
  short : Nat
  ranks : Nat
  deriving DecidableEq, Repr

def ImgHdr.of (bs : List Byte) : ImgHdr :=
  let v := leNat (bs.take 64)
  ⟨v % 2 ^ 32, v / 2 ^ 32 % 2 ^ 16, v / 2 ^ 64 % 2 ^ 32, v / 2 ^ 128 % 2 ^ 64, v / 2 ^ 192 % 2 ^ 64, v / 2 ^ 256 % 2 ^ 8,
   v / 2 ^ 264 % 2 ^ 8, v / 2 ^ 272 % 2 ^ 8, v / 2 ^ 288 % 2 ^ 16⟩

/-- Version acceptance (R451): `runtime` is the loaded cell runtime's interface. -/
def versionOk (h : ImgHdr) (runtime : BitVec 32) (stepping : Nat) : Bool :=
  runtime.toNat / 2 ^ 16 == h.runtime / 2 ^ 16 && decide (h.runtime % 2 ^ 16 ≤ runtime.toNat % 2 ^ 16) && h.steppings.testBit stepping

/-! ### Placements (R51, R52) -/

/-- The islands of a rectangle with its north-west island, in table row-major order. -/
def rect (nw rows cols : Nat) : List Nat :=
  (List.range rows).flatMap (fun i => (List.range cols).map (fun j => islAt (islRow nw + i) (islCol nw + j)))

/-- A placement that the grade can hold. -/
def State.fits (s : State) (rows cols short nw : Nat) : Bool :=
  decide (nw < 192) && decide (1 ≤ rows) && decide (1 ≤ cols) && decide (islRow nw + rows ≤ 8) && decide (islCol nw + cols ≤ 24) &&
  (rect nw rows cols).all (fun i => !s.short i || short.testBit (islRow i - islRow nw))

/-- A part of the grade VB9-1440 takes no image whose row 7 holds work in the two southern cell rows (R5, R52). -/
def State.gradeOk (s : State) (h : ImgHdr) : Bool := !((s.grade1440 0 || s.grade1440 1) && decide (8 ≤ h.rows) && !h.short.testBit 7)

/-- The islands reserved for jobs that wait for plain jobs to leave. -/
def State.reserved (s : State) (except : Nat) : List Nat :=
  s.jobs.flatMap (fun j => match j.want with | some w => if j.handle = except then [] else rect w j.rows j.cols | none => [])

def State.freeIsl (s : State) (i : Nat) : Bool := (s.isl i).table == 0
/-- An island of a plain job that does not leave yet. -/
def State.takeable (s : State) (i : Nat) : Bool :=
  match s.jobOf (s.isl i).table with
  | some j => !j.trump && !j.evict
  | none => false

/-- Firmware's choice if it is one of the placements that qualify, else the first of them. -/
def pick (choice : Nat) (l : List Nat) : Option Nat := if l.contains choice then some choice else l.head?

def State.freePlace (s : State) (h rows cols short choice : Nat) : Option Nat :=
  let r := s.reserved h
  pick choice ((List.range 192).filter (fun w =>
    s.fits rows cols short w && (rect w rows cols).all (fun i => s.freeIsl i && !r.contains i)))

/-- A placement over free islands and islands of plain jobs (R342). -/
def State.trumpPlace (s : State) (h rows cols short choice : Nat) : Option Nat :=
  let r := s.reserved h
  pick choice ((List.range 192).filter (fun w =>
    s.fits rows cols short w && (rect w rows cols).all (fun i => (s.freeIsl i || s.takeable i) && !r.contains i)))

/-! ### Placing and parking (R230, R340, R342, R345) -/

/-- The grant of a plain job in ticks (R341, R344, R345). -/
def Job.grantTicks (j : Job) : Nat := j.grant * 1000000 * j.mult - j.overrun

/-- Fence bits of an island of a table: open inside, fenced outside (R54). -/
def fenceBits (i j rows cols : Nat) : Nat :=
  b2n (i == 0) + b2n (j + 1 == cols) * 2 + b2n (i + 1 == rows) * 4 + b2n (j == 0) * 8

/-- Start the slice counter of a plain job's north-west island. -/
def State.startGrant (s : State) (j : Job) (nw : Nat) : State :=
  if j.trump then s
  else (s.setReg (R.islSlice nw) (BitVec.ofNat 64 (j.grantTicks % 2 ^ 40 + 2 ^ 63))).updJob j.handle (fun j => { j with overrun := 0, graceFrom := none })

/-- The other bit of every fenced boundary of an island (R54). -/
def State.fenceAcross (s : State) (x bits : Nat) : State :=
  (List.range 4).foldl (fun s p =>
    match islNbr x p with
    | some y => if bits.testBit p then s.setFld (R.islFence y) (facing p) (facing p) 1 else s
    | none => s) s

/-- Firmware writes ISL_TPOS, the islands' epochs and, by a meld, the fences of a table: both bits of each boundary to an
island outside it. -/
def State.placeIsl (s : State) (t nw rows cols i j : Nat) : State :=
  let x := islAt (islRow nw + i) (islCol nw + j)
  let s1 := s.updIsl x (fun y => { y with table := t, epoch := BitVec.ofNat 2 (s.tepoch t) })
  let s2 := s1.setReg (R.islTpos x) (BitVec.ofNat 64 (i + j * 2 ^ 3 + (rows - 1) * 2 ^ 8 + (cols - 1) * 2 ^ 16))
  let b := fenceBits i j rows cols
  ((s2.setFld (R.islFence x) 3 0 b).fenceAcross x b).fenceIsl x

def State.placeAt (s : State) (j : Job) (nw : Nat) : State :=
  let s1 := (List.range j.rows).foldl (fun s a => (List.range j.cols).foldl (fun s b => s.placeIsl j.table nw j.rows j.cols a b) s) s
  let s2 := (s1.updJob j.handle (fun j => { j with nw := some nw, want := none, evict := false })).setBoth (fun d => R.tblCtl d j.table) 2 2 (islDie nw)
  ((s2.startGrant j nw).dealerSees (islDie nw)).noteMelds

/-- The islands of a table become free: fenced, and cleared as R319 asks. -/
def State.vacate (s : State) (t : Nat) : State :=
  let s1 := s.contextClear t
  ((s.tableIsls t).foldl (fun s i =>
    let s2 := ((s.setFld (R.islFence i) 3 0 15).fenceAcross i 15).fenceIsl i
    let s3 := s2.updIsl i (fun y => { y with table := 0, cleanExit := false })
    s3.setFld (R.islSlice i) 63 63 0) s1).noteMelds

/-- Park a plain job. What its grant overran is taken from its next one (R345). -/
def State.parkJob (s : State) (j : Job) : State :=
  (s.vacate j.table).updJob j.handle (fun j =>
    { j with
      nw := none, evict := false, graceFrom := none
      overrun := match j.graceFrom with | some g => (s.gtime - g).toNat | none => j.overrun })

/-! ### The end of a session (R415) -/

/-- The session's mailboxes are emptied; windows and queue pairs go; the number is free. -/
def State.dropSession (s : State) (n : Nat) : State :=
  let s1 := (s.setFld (R.mbxCtl 0 (32 + n)) 0 0 0).setFld (R.mbxCtl 1 (32 + n)) 0 0 0
  { s1 with
    sess := s1.sess.filter (fun x => x.1 != n)
    wndws := s1.wndws.filter (fun w => w.session != n)
    qps := s1.qps.filter (fun q => q.session != n) }

/-- A SESSION_CLOSE whose jobs have all ended is answered. -/
def State.closeDone (s : State) (n : Nat) : State :=
  match s.session n with
  | none => s
  | some x =>
    match x.closing with
    | none => s
    | some seq => if s.jobs.any (fun j => j.session == some n) then s else (s.result n seq 0 []).dropSession n

/-! ### The end of a job (R418, R427) -/

/-- Every command that has not run ends with a code. -/
def State.cancelQueued (s : State) (h : Nat) : State := s.stopQueued h K.cancelled

/-- Seats and windows go, the table is released, and the RESULT that waited goes out. -/
def State.finishJob (s : State) (h : Nat) : State :=
  match s.job h with
  | none => s
  | some j =>
    let s1 := (((s.cancelQueued h).flushDone h).abandonStep j.table).vacate j.table
    let s2 := ((s1.sendersGone j.table).setBoth (fun d => R.tblCtl d j.table) 0 0 0).setBoth (fun d => R.gulJmap1 d j.table) 33 32 0
    let s3 := ((s2.setTstate j.table 0).setRes j.table 0 false).setTbl j.table {}
    let s4 := { s3 with
      wndws := s3.wndws.filter (fun w => w.job != h)
      jobs := s3.jobs.filter (fun x => x.handle != h)
      ended := s3.ended ++ [h] }
    let s5 := match j.reply with
      | some (n, seq, false) => s4.result n seq 0 []
      | _ => s4
    match j.session with
    | some n => s5.closeDone n
    | none => s5

/-- Firmware ends a job: the running command is cancelled first. -/
def State.endJob (s : State) (h : Nat) : State :=
  match s.job h with
  | none => s
  | some j =>
    let s1 := (s.updJob h (fun j => { j with ending := true, want := none })).cancelQueued h
    if s1.running j.table then s1.orderKill j.table .cancel false else s1.finishJob h

/-- Once no command of a table runs, its job ends or is parked if that is due. -/
def State.settleJob (s : State) (t : Nat) : State :=
  match s.jobOf t with
  | none => s
  | some j =>
    if s.running t then s
    else if j.ending then s.finishJob j.handle
    else if j.evict ∧ j.nw.isSome then s.parkJob j
    else s

/-- Islands are taken from a plain job: its command is killed, and it is parked (R342). -/
def State.evict (s : State) (j : Job) : State :=
  let s1 := s.updJob j.handle (fun j => { j with evict := true })
  if s1.running j.table then s1.orderKill j.table .rerun false
  else match s1.job j.handle with
    | some j' => s1.parkJob j'
    | none => s1

/-- The plain jobs in a rectangle leave. -/
def State.evictRect (s : State) (nw rows cols : Nat) : State :=
  let l := s.jobs.filter (fun j => !j.trump && !j.evict && j.nw.isSome && (rect nw rows cols).any (fun i => (s.isl i).table == j.table))
  l.foldl (fun s j => s.evict j) s

/-! ### Admission (R340, R419) -/

/-- The RESULT fields of an admission. -/
def Job.fields (j : Job) : List Byte :=
  leBytes 8 j.handle ++ leBytes 8 j.key.toNat ++ leBytes 8 j.digest.toNat ++
    [BitVec.ofNat 8 j.rows, BitVec.ofNat 8 j.cols, BitVec.ofNat 8 j.seats.length, 0, 0, 0, 0, 0]

/-- Place a job whose islands are free, and report an admission that waited for it. -/
def State.placeJob (s : State) (j : Job) (nw : Nat) : State :=
  let s1 := s.placeAt j nw
  match j.reply with
  | some (n, seq, true) => (s1.updJob j.handle (fun j => { j with reply := none })).result n seq 0 j.fields
  | _ => s1

/-- The pages of the key-value state of a job's seat (R31): those named at its allocation. A commit changes them like every
page of the job. -/
def Job.seatPages (j : Job) (seat : Nat) : List Nat := (j.maps.kv[j.seats.findIdx (fun x => x == seat)]?).getD []

def State.usedSeats (s : State) : List Nat := s.jobs.flatMap Job.seats
def State.freeSeats (s : State) : List Nat := (List.range 64).filter (fun x => !s.usedSeats.contains x)
/-- The lowest free table identifier. -/
def State.freeTable (s : State) : Option Nat :=
  (List.range 256).find? (fun t => t != 0 && (s.tbl t).job == 0 && !s.jobs.any (fun j => j.table == t) && !s.tvalid t && !s.running t && !s.sweeping t)
/-- Whether the part has a firmware-reserved window (R276). -/
def State.hasWindow (s : State) : Bool := s.rwin != 0 || s.farN != 0

/-- The order of R419 and R340, with the refusal of R276 ahead of R340's: the code that refuses the request, or the window, header and image. -/
def State.admitCheck (s : State) (n : Nat) (r : AdmitReq) : Except Code (ImgHdr × List Byte) :=
  match s.wndws.find? (fun w => w.num == r.window && w.session == n && w.job == 0) with
  | none => .error K.eHostWindow
  | some w =>
    let h := ImgHdr.of (w.data.readN 0 64)
    if r.length < 64 ∨ w.len < r.length ∨ h.magic ≠ 0x4D495056 ∨ h.version ≠ 1 ∨ 64 < r.seats ∨ 64 < r.dsize ∨ 1000 < r.grant ∨ r.nranks < r.rank
    then .error K.eHostFormat
    else if ¬ s.hasWindow then .error K.eJobNoRoom
    else if ¬ versionOk h (s.sec.ifaces[1]?.getD 0) s.fuses.stepping0.toNat then .error K.eProgramVersion
    else if ¬ s.gradeOk h then .error K.eJobGrade
    else if s.freeTable.isNone then .error K.eJobTableId
    else if s.freeSeats.length < r.seats then .error K.eJobSeats
    else if h.ranks ≠ r.nranks ∨ ¬ (List.range 192).any (s.fits h.rows h.cols h.short) then .error K.eJobShape
    else .ok (h, w.data.readN 0 r.length)

/-- The job that an accepted request makes, parked. -/
def State.newJob (s : State) (n : Nat) (r : AdmitReq) (h : ImgHdr) (image : List Byte) (key : Word) (t : Nat) : Job :=
  { handle := s.jobNext, key := key, session := some n, table := t, trump := r.trump, rows := h.rows, cols := h.cols, short := h.short,
    nw := none, grant := if r.grant = 0 then 20 else r.grant, dsize := r.dsize, seats := s.freeSeats.take r.seats,
    digest := BitVec.ofNat 64 h.digest, jid := r.job, rank := r.rank, nranks := r.nranks + 1, lead := r.lead, partner := r.partner,
    image := image }

/-- The registers of a new table (R230, R369, R400). -/
def State.tableRegs (s : State) (j : Job) : State :=
  let t := j.table
  let ctl := 1 + b2n j.trump * 2 + j.dsize * 2 ^ 4
  let s1 := (s.setReg (R.tblCtl 0 t) (BitVec.ofNat 64 ctl)).setReg (R.tblCtl 1 t) (BitVec.ofNat 64 ctl)
  let s2 := (((s1.setTepoch t 3).setTstate t 0).setRes t 0 false).setTbl t { job := j.handle }
  if j.nranks ≤ 1 then s2
  else
    let m0 : Word := BitVec.ofNat 64 (j.jid.toNat + j.rank % 2 ^ 16 * 2 ^ 32 + (j.nranks - 1) % 2 ^ 16 * 2 ^ 48)
    let m1 : Word := BitVec.ofNat 64 (j.lead.toNat + j.partner.toNat * 2 ^ 16 + 2 ^ 32 + b2n (j.partner != 0) * 2 ^ 33)
    (((s2.setReg (R.gulJmap0 0 t) m0).setReg (R.gulJmap0 1 t) m0).setReg (R.gulJmap1 0 t) m1).setReg (R.gulJmap1 1 t) m1

/-- Firmware writes the page map and the sync map of a new table (R340 step 6). -/
def State.writeMaps (s : State) (t : Nat) (m : TblMaps) : State :=
  let put (s : State) (a : Nat → Nat) (mask v : Word) : State := (s.setReg (a 0) (v &&& mask)).setReg (a 1) (v &&& mask)
  let s1 := put (put (put s (fun d => R.mmuTroot d t) (bitsMask 47 21 ||| 1) m.troot) (fun d => R.mmuTver d t) (bitsMask 63 8) m.tver)
    (fun d => R.syncTmap d t) (bitsMask 47 19 ||| 1) m.tmap
  m.bytes.foldl (fun s x => s.mergeN x.1 x.2) s1

/-- Take a job in: its window is consumed, its maps are written, its seats start from 0. -/
def State.enrol (s : State) (j : Job) (window : Nat) (maps : TblMaps) : State :=
  let s1 := { s with
    jobs := s.jobs ++ [j]
    jobNext := s.jobNext + 1
    wndws := s.wndws.filter (fun w => w.num != window)
    progress := j.seats.foldl (fun m x => SMap.set (fun _ => 0) m x 0) s.progress }
  (s1.tableRegs j).writeMaps j.table maps

/-- The last step of R340 for a job taken in: placed, parked, or waiting for the islands of plain jobs. -/
def State.admitPlace (s : State) (n : Nat) (seq : BitVec 32) (j : Job) (choice : Nat) : State :=
  match s.freePlace j.handle j.rows j.cols j.short choice with
  | some w => (s.placeAt j w).result n seq 0 j.fields
  | none =>
    if ¬ j.trump then s.result n seq 0 j.fields
    else match s.trumpPlace j.handle j.rows j.cols j.short choice with
      | none => s
      | some w =>
        let j' := { j with want := some w, reply := some (n, seq, true) }
        let s1 := (s.updJob j.handle (fun _ => j')).evictRect w j.rows j.cols
        if (rect w j.rows j.cols).all s1.freeIsl then s1.placeJob j' w else s1

/-- A trump job that finds no room is refused before anything is taken. -/
def State.noRoom (s : State) (h : ImgHdr) (r : AdmitReq) (choice : Nat) : Bool :=
  r.trump && (s.freePlace 0 h.rows h.cols h.short choice).isNone && (s.trumpPlace 0 h.rows h.cols h.short choice).isNone

def State.admitJob (s : State) (n : Nat) (seq : BitVec 32) (r : AdmitReq) (choice : Nat) (maps : TblMaps) : State :=
  match s.admitCheck n r with
  | .error c => s.result n seq c []
  | .ok (h, image) =>
    if s.noRoom h r choice then s.result n seq K.eJobNoRoom []
    else
      let (key, s1) := s.fresh
      let j := s1.newJob n r h image key ((s1.freeTable).getD 0)
      (s1.enrol { j with maps := { maps with bytes := [] } } r.window maps).admitPlace n seq j choice

end Sys2Proof.Machine
end

