-- ==== Sys2Proof/Machine/Mailbox.lean ====
section
/-! DEFINITION. Mailboxes and doorbells (R330 to R332, R337). -/

namespace Sys2Proof.Machine

open Sys2Proof

def State.mbxFull (s : State) (die m : Nat) : Bool := bit 0 (s.reg (R.mbxCtl die m))

/-- A write to MBX_DATA of mailbox m (R330, R331). -/
def State.mbxPut (s : State) (die m : Nat) (owner : Bool) (value : Word) : State :=
  let ctl := R.mbxCtl die m
  if ¬ owner then s.satFld ctl 31 16 1
  else if s.mbxFull die m then s.setFld ctl 2 2 1
  else
    let s1 := (s.setReg (R.mbxData die m) value).setFld ctl 0 0 1
    { s1 with mbxStale := s1.mbxStale.filter (fun x => x != die * 288 + m) }.raise die (.mailbox m)

/-- Whom a mailbox belongs to (R330): mailbox m below 32 to steward core m, mailbox 32 + n to host session n. -/
def MbxWriter.owns (w : MbxWriter) (m : Nat) : Bool :=
  match w with
  | .core n => decide (n < 32) && n == m
  | .session n => n + 32 == m
  | .other => false

/-- MBX_DATA_WRITE (R330, R331). -/
def execMbxDataWrite (die : BitVec 1) (m : Nat) (writer : MbxWriter) (value : Word) (s : State) : Res :=
  if m < 288 then .next (s.mbxPut die.toNat m (MbxWriter.owns writer m) value) else .next s

/-- The sender of a taken word is notified, unless it is a core that has been reset since its write (R331). -/
def State.mbxNotify (s : State) (die m : Nat) : State :=
  if 32 ≤ m then s.sendDev (m - 32) ⟨0x21, [BitVec.ofNat 8 die]⟩
  else if s.mbxStale.contains (die * 288 + m) then s
  else { s with out := s.out ++ [.mbxe m] }

/-- MBX_TAKE (R331). -/
def execMbxTake (die : BitVec 1) (m : Nat) (s : State) : Res :=
  if m < 288 ∧ s.mbxFull die.toNat m then
    .next (((s.setFld (R.mbxCtl die.toNat m) 0 0 0).dealerSees die.toNat).mbxNotify die.toNat m)
  else .next s

/-- MBX_RING (R332): each bit newly set is a doorbell event. -/
def execMbxRing (die : BitVec 1) (bits : Word) (s : State) : Res :=
  let d := die.toNat
  let old := s.reg (R.mbxBell d)
  let s1 := s.setReg (R.mbxBell d) (old ||| bits)
  .next ((List.range 64).foldl (fun s b => if bit b bits && !bit b old then s.raise d (.doorbell b) else s) s1)

/-- MBX_BELL_CLEAR (R332). -/
def execMbxBellClear (die : BitVec 1) (bits : Word) (s : State) : Res :=
  .next (s.setReg (R.mbxBell die.toNat) (s.reg (R.mbxBell die.toNat) &&& ~~~bits))

end Sys2Proof.Machine
end

