-- ==== Sys2Proof/Machine/SecCore.lean ====
section
/-! DEFINITION. The security block (R432, R434, R441 to R463): stages, image layout and checks, the battery-backed store,
identity and attestation. -/

namespace Sys2Proof.Machine

open Sys2Proof

/-! ### Stages (R434, R466) -/

def State.loadState (s : State) : Nat := s.fld R.secLoad 2 0
/-- The main stage runs. -/
def State.mainRuns (s : State) : Bool := s.sec.entered && s.loadState == 3 && s.episode.isNone
/-- Kindling runs and has not failed. -/
def State.kindlingRuns (s : State) : Bool := s.sec.entered && decide (s.loadState < 3) && s.episode.isNone

def State.setSec (s : State) (x : Sec) : State := { s with sec := x }
def State.updSec (s : State) (f : Sec → Sec) : State := { s with sec := f s.sec }

/-! ### Ports (R404 to R406, R430) -/

def State.portUp (s : State) (p : BitVec 1) : Bool := s.fld (R.ethPstat p.toNat) 1 0 == 2
/-- The MAC address of a port (R405). -/
def State.macOf (s : State) (p : BitVec 1) : BitVec 48 := s.fuses.mac + p.setWidth 48
/-- The bytes of an address in network order. -/
def beBytes (n v : Nat) : List Byte := (leBytes n v).reverse
/-- The IPv6 link-local address of a port by modified EUI-64 (R406). -/
def State.linkLocal (s : State) (p : BitVec 1) : BitVec 128 :=
  let m := (s.macOf p).toNat
  BitVec.ofNat 128 (0xFE80 * 2 ^ 112 + (m / 2 ^ 24 ^^^ 0x020000) * 2 ^ 40 + 0xFFFE * 2 ^ 24 + m % 2 ^ 24)
/-- A datagram is discarded and counted (R409). -/
def State.tuDrop (s : State) (p : BitVec 1) : State := s.satFld (R.ethPcnt p.toNat) 47 32 1

/-! ### Images (R441 to R445) -/

/-- A little-endian number at an offset of some bytes. -/
def leAt (bs : List Byte) (o n : Nat) : Nat := leNat ((bs.drop o).take n)

/-- Check 1: the outer header and the length. -/
def outerOk (img : List Byte) (len : Nat) : Bool :=
  let p := leAt img 24 8
  img.length == len && leAt img 0 4 == 0x47494D54 && leAt img 4 2 == 1 && decide (leAt img 6 1 ≤ 1) && decide (leAt img 7 1 ≤ 3)
    && (leAt img 6 1 == 1 || leAt img 7 1 == 0) && leAt img 20 4 == 0 && leAt img 32 32 == 0 && p % 4096 == 0
    && decide (8192 ≤ p) && decide (p ≤ 268435456) && len == p + 80

/-- A component entry of R444, of the plaintext. -/
structure Comp where
  typ : Nat
  iface : BitVec 32
  off : Nat
  len : Nat
  steppings : Nat
  a : List (BitVec 32)
  b : List (BitVec 32)
  digest : BitVec 384
  deriving DecidableEq, Repr

def Comp.of (e : List Byte) : Comp :=
  let vs (o : Nat) := (List.range 4).map (fun i => BitVec.ofNat 32 (leAt e (o + 4 * i) 4))
  ⟨leAt e 0 1, BitVec.ofNat 32 (leAt e 4 4), leAt e 8 8, leAt e 16 8, leAt e 24 8, vs 32, vs 48, BitVec.ofNat 384 (leAt e 64 48)⟩

def entryBytes (pt : List Byte) (i : Nat) : List Byte := (pt.drop (64 + 112 * i)).take 112
/-- The components in the order of their types. -/
def components (pt : List Byte) : List Comp :=
  let cs := (List.range 3).map (fun i => Comp.of (entryBytes pt i))
  [1, 2, 3].filterMap (fun t => cs.find? (fun c => c.typ == t))
def Comp.bytes (c : Comp) (pt : List Byte) : List Byte := (pt.drop c.off).take c.len

def entriesOk (pt : List Byte) (p : Nat) : Bool :=
  let cs := components pt
  cs.length == 3 && (List.range 3).all (fun i => leAt (entryBytes pt i) 1 3 == 0)
    && cs.all (fun c => c.iface != 0 && decide (0 < c.len) && c.off % 4096 == 0 && decide (4096 ≤ c.off) && decide (c.off + c.len ≤ p - 4))
    && cs.all (fun c => cs.all (fun d => c.typ == d.typ || decide (c.off + c.len ≤ d.off) || decide (d.off + d.len ≤ c.off)))

/-- Check 4: manifest, entries and signature block. -/
def manifestOk (pt : List Byte) (p : Nat) : Bool :=
  leAt pt 0 4 == 0x4E414D54 && leAt pt 4 2 == 1 && leAt pt 6 2 == 3 && decide (leAt pt 8 1 ≤ 64) && decide (leAt pt 9 1 ≤ 1)
    && decide (leAt pt 10 1 ≤ 3) && decide (leAt pt 11 1 ≤ 15) && !(leAt pt 11 1).testBit (leAt pt 10 1) && leAt pt 12 8 == p
    && leAt pt 28 36 == 0 && leAt pt 400 112 == 0 && leAt pt 609 7 == 0 && leAt pt 2540 20 == 0 && leAt pt 2560 1536 == 0
    && entriesOk pt p
    && (pt.drop 712).take 4 == [0, 0, 0, 8] && (pt.drop 716).take 4 == [0, 0, 0, 4]

/-- Whether two components name each other's versions (R450): the list of `c` for the type of `d`. -/
def Comp.lists (c d : Comp) : Bool :=
  let lower := ([1, 2, 3].filter (fun t => t != c.typ)).head?.getD 0
  d.iface != 0 && (if d.typ = lower then c.a else c.b).contains d.iface

/-- The first pairing of R450 that fails: 0 when all are tested. -/
def pairFail (cs : List Comp) : Nat :=
  match cs with
  | [a, b, c] =>
    if !(a.lists b && b.lists a) then 1 else if !(a.lists c && c.lists a) then 2 else if !(b.lists c && c.lists b) then 3 else 0
  | _ => 1

/-- The first component not tested on a stepping: 4 to 6, or 0. -/
def steppingFail (cs : List Comp) (stepping : Nat) : Nat :=
  match cs.findIdx? (fun c => !c.steppings.testBit stepping) with
  | some i => 4 + i
  | none => 0

/-! ### The checks (R446) -/

/-- The key that opens an image: none when check 2 refuses it. -/
def State.imageKey (s : State) (img : List Byte) : Option (BitVec 256) :=
  if leAt img 6 1 = 0 then some s.fuses.imgkey
  else if s.fuses.keystoreEn then (s.sec.keys[leAt img 7 1]?).getD none
  else none

/-- Checks 5 to 12 on the plaintext: the first failing code and its detail. -/
def State.checkPlain (s : State) (pt : List Byte) (p : Nat) : Option (Code × Nat) :=
  let f := s.fuses
  let k := leAt pt 10 1
  let ek := (pt.drop 512).take 97
  let lk := (pt.drop 712).take 56
  let man := pt.take 512
  let h := (f.keyhash[k]?).getD (0, 0)
  let cs := components pt
  let st := f.stepping0.toNat
  if !(f.keyprog.getLsbD k && !f.keyrev.getLsbD k && Config.sha384 ek == h.1 && Config.sha384 lk == h.2) then some (K.eLoadKeyhash, 0)
  else if !Config.ecdsaVerify ek man ((pt.drop 616).take 96) then some (K.eLoadEcdsa, 0)
  else if !Config.lmsVerify lk (leBytes 48 (Config.sha384 man).toNat) ((pt.drop 768).take 1772) then some (K.eLoadLms, 0)
  else if cs.any (fun c => Config.sha384 (c.bytes pt) != c.digest) then some (K.eLoadDigest, 0)
  else if steppingFail cs st ≠ 0 then some (K.eSteppingUntested, steppingFail cs st)
  else if pairFail cs ≠ 0 then some (K.eVersionUntested, pairFail cs)
  else if leAt pt 8 1 < ((List.range 64).filter (fun i => f.svn.getLsbD i)).length then some (K.eLoadRollback, 0)
  else if crc32c (8 * (p - 4)) (leNat (pt.take (p - 4))) ≠ leAt pt (p - 4) 4 then some (K.eLoadCrc, 0)
  else none

/-- The checks of R446 in order: the failing code with the detail of R450, or the plaintext. -/
def State.checkImage (s : State) (img : List Byte) (len : Nat) : Except (Code × Nat) (List Byte) :=
  if ¬ outerOk img len then .error (K.eLoadFormat, 0)
  else match s.imageKey img with
    | none => .error (K.eLoadKeysource, 0)
    | some key =>
      let p := leAt img 24 8
      match Config.gcmOpen key (BitVec.ofNat 96 (leAt img 8 12)) (img.take 64) ((img.drop 64).take p) (BitVec.ofNat 128 (leAt img (64 + p) 16)) with
      | none => .error (K.eLoadDecrypt, 0)
      | some pt =>
        if ¬ (pt.length = p ∧ manifestOk pt p) then .error (K.eLoadFormat, 0)
        else match s.checkPlain pt p with
          | some e => .error e
          | none => .ok pt

/-! ### Burns (R452, R457) -/

/-- Burn the next unburnt bit; a bit is never unburnt. -/
def burnNext (v : BitVec 64) : BitVec 64 := v ||| (v + 1)
def burnN : Nat → BitVec 64 → BitVec 64
  | 0, v => v
  | n + 1, v => burnN n (burnNext v)
def ones64 (v : BitVec 64) : Nat := ((List.range 64).filter (fun i => v.getLsbD i)).length

/-- Raise the rollback count to a manifest's svn, and revoke its slots. -/
def Fuses.afterLoad (f : Fuses) (svn : Nat) (burn : Bool) (revoke : BitVec 4) : Fuses :=
  { f with svn := if burn then burnN (svn - ones64 f.svn) f.svn else f.svn, keyrev := f.keyrev ||| revoke }

/-! ### The battery-backed store (R456 to R460, R467) -/

def State.setFullBits (s : State) : State :=
  s.setFld R.secBbk 5 2 (((List.range 4).map (fun k => b2n ((s.sec.keys[k]?).getD none).isSome * 2 ^ k)).sum)

/-- The store is lost: no key, a new epoch, count 0 (R457). -/
def State.storeLost (s : State) : State :=
  let burnt := ones64 s.fuses.epoch == 64
  let s1 := (s.updSec (fun x => { x with marker := 0x5A3C96E1, keys := [none, none, none, none] })).setFld R.secBbk 21 8 0
  let s2 := if burnt then s1.setFld R.secBbk 1 1 1 else { s1 with fuses := { s1.fuses with epoch := burnNext s1.fuses.epoch } }
  s2.setFld R.secBbk 0 0 1

/-- Step 2 of kindling. -/
def State.checkStore (s : State) : State :=
  let s1 := if s.sec.marker = 0x5A3C96E1 then s.setFld R.secBbk 0 0 0 else s.storeLost
  (if s1.fuses.keystoreEn then s1 else s1.updSec (fun x => { x with keys := [none, none, none, none] })).setFullBits

/-- The leaves left (R461). -/
def State.leavesLeft (s : State) : Nat :=
  if bit 1 (s.reg R.secBbk) then 0 else (64 - ones64 s.fuses.epoch) * 16384 + (16384 - s.fld R.secBbk 21 8)

/-- Take the next leaf: the store holds the next count before the leaf is used (R460). -/
def State.takeLeaf (s : State) : Option (Nat × State) :=
  let e := ones64 s.fuses.epoch
  let c := s.fld R.secBbk 21 8
  if bit 1 (s.reg R.secBbk) ∨ e = 0 then none
  else
    let q := 16384 * (e - 1) + c
    if c + 1 < 16384 then some (q, s.setFld R.secBbk 21 8 (c + 1))
    else if e < 64 then some (q, { s.setFld R.secBbk 21 8 0 with fuses := { s.fuses with epoch := burnNext s.fuses.epoch } })
    else some (q, (s.setFld R.secBbk 21 8 0).setFld R.secBbk 1 1 1)

/-! ### Identity and attestation (R461 to R463) -/

/-- Bytes of a fixed length from an uninterpreted function. -/
def fit (n : Nat) (bs : List Byte) : List Byte := (bs ++ List.replicate n 0).take n

/-- The RESULT fields of IDENTITY from offset 8. -/
def State.identityFields (s : State) : List Byte :=
  leBytes 8 s.fuses.serial.toNat ++ [BitVec.ofNat 8 s.fuses.stepping0.toNat, BitVec.ofNat 8 (b2n s.fuses.grade0),
    BitVec.ofNat 8 (ones64 s.fuses.epoch), 0] ++ leBytes 4 s.leavesLeft ++ fit 97 (Config.ecdsaPublic s.fuses.uds) ++ List.replicate 7 0
    ++ fit 56 (Config.lmsPublic s.fuses.uds)

/-- Bytes 0 to 335 of a report. -/
def State.reportHead (s : State) (nonce : BitVec 256) (q : Nat) : List Byte :=
  let f := s.fuses
  let main := s.loadState == 3
  leBytes 4 0x54535441 ++ leBytes 2 1 ++ [if main then 2 else 0, 0] ++ leBytes 8 f.serial.toNat ++ leBytes 32 nonce.toNat
    ++ leBytes 8 s.gtime.toNat
    ++ [BitVec.ofNat 8 f.stepping0.toNat, BitVec.ofNat 8 (b2n f.grade0), BitVec.ofNat 8 (ones64 f.svn), BitVec.ofNat 8 (ones64 f.epoch),
        BitVec.ofNat 8 f.dbg.toNat, BitVec.ofNat 8 f.mgmtPort.toNat, BitVec.ofNat 8 f.rwin.toNat, BitVec.ofNat 8 (b2n f.keystoreEn)]
    ++ leBytes 2 f.rstTable.toNat ++ List.replicate 6 0 ++ leBytes 48 Config.romDigest.toNat
    ++ fit 192 (if main then s.sec.meas.flatMap (fun d => leBytes 48 d.toNat) else [])
    ++ fit 12 (if main then s.sec.ifaces.flatMap (fun d => leBytes 4 d.toNat) else []) ++ leBytes 4 q ++ List.replicate 8 0

/-- A signed report of 2,204 bytes with its leaf, or none when the LMS key is exhausted. -/
def State.attestReport (s : State) (nonce : BitVec 256) : Option (List Byte × State) :=
  match s.takeLeaf with
  | none => none
  | some (q, s1) =>
    let h := s1.reportHead nonce q
    let d := leBytes 48 (Config.sha384 h).toNat
    some (h ++ fit 96 (Config.ecdsaSign s.fuses.uds h) ++ fit 1772 (Config.lmsSign s.fuses.uds q d), s1)

/-- KEYSTORE_PUT (R458): the code of its RESULT. -/
def State.putKey (s : State) (slot : Nat) (erase : Bool) (iv : BitVec 96) (wrapped : BitVec 256) (tag : BitVec 128) : State × Code :=
  if ¬ s.fuses.keystoreEn then (s, K.eKeystore)
  else if 4 ≤ slot then (s, K.eHostFormat)
  else if erase then ((s.updSec (fun x => { x with keys := x.keys.set slot none })).setFullBits, 0)
  else
    match Config.gcmOpen s.fuses.imgkey iv (BitVec.ofNat 8 slot :: leBytes 8 s.fuses.serial.toNat) (leBytes 32 wrapped.toNat) tag with
    | none => (s, K.eKeystore)
    | some k => ((s.updSec (fun x => { x with keys := x.keys.set slot (some (BitVec.ofNat 256 (leNat k))) })).setFullBits, 0)

end Sys2Proof.Machine
end

