-- ==== Sys2Proof/Machine/HostUnit.lean ====
section
/-! DEFINITION. Host requests (R406, R410 to R427): the sequence rules, and what each request of a session does. -/

namespace Sys2Proof.Machine

open Sys2Proof

/-! ### Acknowledgements (R410, R416) -/

/-- A command of a job has its completion acknowledged. -/
def State.ackCmd (s : State) (payload : List Byte) : State :=
  s.updJob (leAt payload 0 8) (fun j =>
    { j with cmds := j.cmds.map (fun (c : Cmd) => if c.num = leAt payload 16 8 ∧ c.sent then { c with acked := true } else c) })

/-- Whether a number lies up to and including an acknowledged one, modulo 2^32. -/
def seqUpTo (seq ack : BitVec 32) : Bool := (ack - seq).toNat < 2 ^ 31

/-- An acknowledgement frees messages, and those that waited go out. -/
def State.hostAck (s : State) (n : Nat) (ack : BitVec 32) : State :=
  match s.session n with
  | none => s
  | some x =>
    let freed := x.unacked.filter (fun u => seqUpTo u.seq ack)
    let s1 := (freed.filter (fun u => u.msg.typ == 0x3A)).foldl (fun s u => s.ackCmd u.msg.payload) s
    (s1.updSess n (fun y => { y with unacked := y.unacked.filter (fun u => !seqUpTo u.seq ack) })).drainWait n

/-! ### Jobs of a session -/

/-- A job that a session owns. -/
def State.ownJob (s : State) (n h : Nat) : Option Job := (s.job h).filter (fun j => j.session == some n)

/-! ### Closing (R415) -/

/-- The jobs of a session become detached. -/
def State.detachJobs (s : State) (n : Nat) : State :=
  let linger := match s.session n with | some x => x.linger | none => 0
  { s with jobs := s.jobs.map (fun (j : Job) =>
      if j.session = some n then { j with session := none, detachedAt := s.gtime, linger := linger, reply := none } else j) }

/-- A session is lost: a detaching close without a message. -/
def State.loseSession (s : State) (n : Nat) : State := (s.detachJobs n).dropSession n

def State.closeSession (s : State) (n : Nat) (seq : BitVec 32) (detach : Bool) : State :=
  if detach then ((s.detachJobs n).result n seq 0 []).dropSession n
  else
    let s1 := s.updSess n (fun y => { y with closing := some seq })
    ((s1.jobs.filter (fun j => j.session == some n)).foldl (fun s j => s.endJob j.handle) s1).closeDone n

/-! ### Network addresses (R406) -/

def State.netConfig (s : State) (n : Nat) (seq : BitVec 32) (port kind index plen : BitVec 8) (addr : BitVec 128) (remove : Bool) : State :=
  let mgmt : Bool := match s.session n with | some x => x.mgmt | none => false
  if ¬ mgmt then s.result n seq K.eHostPriv []
  else if 1 < port.toNat ∨ 1 < kind.toNat ∨ 3 < index.toNat ∨ (if kind = 0 then 32 else 128) < plen.toNat then s.result n seq K.eHostFormat []
  else
    let i := if kind = 0 then 0 else index.toNat
    let a : NetAddr := ⟨port.toNat, kind == 1, i, plen.toNat, if kind = 0 then addr &&& 0xFFFFFFFF else addr⟩
    let rest := s.nets.filter (fun x => !(x.port == a.port && x.v6 == a.v6 && x.index == a.index))
    { s with nets := if remove then rest else rest ++ [a] }.result n seq 0 []

/-! ### Windows and queue pairs (R423, R424) -/

def pageMult (v : Nat) : Bool := v % 0x10000 == 0

def State.windowGrant (s : State) (n : Nat) (seq : BitVec 32) (job va len : Nat) (rd wr : Bool) (wmode : BitVec 8) : State :=
  let bad := !pageMult va || !pageMult len || len == 0 || decide (1 < wmode.toNat) || decide (2 ^ 48 < va + len)
    || decide (1024 ≤ (s.wndws.filter (fun w => w.session == n)).length) || (job == 0 && decide (2 ^ 30 < len))
  if job ≠ 0 ∧ (s.ownJob n job).isNone then s.result n seq K.eHostJob []
  else if bad then s.result n seq K.eHostWindow []
  else
    let (key, s1) := s.fresh
    let (base, s2) := s1.fresh
    let staging := job == 0
    let w : Wndw :=
      { num := s.wndwNext, session := n, job := job, va := if staging then base.toNat % 2 ^ 16 * 2 ^ 31 else va, len := len,
        rd := rd && !staging, wr := wr || staging, wmode := wmode.toNat, rkey := key.setWidth 32 }
    { s2 with wndws := s2.wndws ++ [w], wndwNext := s2.wndwNext + 1 }.result n seq 0
      (leBytes 4 w.num ++ leBytes 4 w.rkey.toNat ++ leBytes 8 w.va)

def State.windowRevoke (s : State) (n : Nat) (seq : BitVec 32) (window : Nat) : State :=
  if s.wndws.any (fun w => w.num == window && w.session == n) then
    { s with wndws := s.wndws.filter (fun w => w.num != window) }.result n seq 0 []
  else s.result n seq K.eHostWindow []

/-- The rate of a port in Mb/s (R404). -/
def State.portRate (s : State) (port : BitVec 1) : Nat := 800000 / 2 ^ s.fld (R.ethPstat port.toNat) 3 2

def State.qpCreate (s : State) (n : Nat) (seq hqpn hpsn : BitVec 32) (gid : BitVec 128) (pmtu : BitVec 8) : State :=
  match s.session n with
  | none => s
  | some x =>
    if 2 ^ 24 ≤ hqpn.toNat ∨ 2 ^ 24 ≤ hpsn.toNat ∨ 2 < pmtu.toNat ∨ 4096 ≤ (s.qps.filter (fun q => q.port == x.port)).length then
      s.result n seq K.eHostQp []
    else
      let (psn, s1) := s.fresh
      let q : Qp :=
        { num := BitVec.ofNat 32 (s.qpNext % 2 ^ 24), session := n, port := x.port, hqpn := hqpn, hpsn := hpsn,
          psn := BitVec.ofNat 32 (psn.toNat % 2 ^ 24), gid := gid, pmtu := 1024 * 2 ^ pmtu.toNat, rate := s.portRate x.port }
      { s1 with qps := s1.qps ++ [q], qpNext := s1.qpNext + 1 }.result n seq 0
        (leBytes 4 q.num.toNat ++ leBytes 4 q.psn.toNat ++ beBytes 16 (s.linkLocal x.port).toNat)

def State.qpDestroy (s : State) (n : Nat) (seq qpn : BitVec 32) : State :=
  if s.qps.any (fun q => q.num == qpn && q.session == n) then { s with qps := s.qps.filter (fun q => q.num != qpn) }.result n seq 0 []
  else s.result n seq K.eHostQp []

/-! ### Mailboxes (R417) -/

def State.hostMbx (s : State) (n : Nat) (seq : BitVec 32) (die : BitVec 8) (value : Word) : State :=
  if 1 < die.toNat then s.result n seq K.eHostFormat []
  else
    let full := s.mbxFull die.toNat (32 + n)
    (s.mbxPut die.toNat (32 + n) true value).result n seq (if full then K.eHostMbxFull else 0) []

/-! ### Jobs (R416, R418) -/

def State.hostJobEnd (s : State) (n : Nat) (seq : BitVec 32) (h : Nat) : State :=
  match s.ownJob n h with
  | none => s.result n seq K.eHostJob []
  | some j => if j.ending then s.result n seq K.eHostJob [] else (s.updJob h (fun j => { j with reply := some (n, seq, false) })).endJob h

/-- A job that a Warm reset stopped restarts in place once it is attached (R509, R513): its table is set up again, and the
next command follows its last commit. -/
def State.revive (s : State) (h : Nat) : State :=
  match s.job h with
  | none => s
  | some j =>
    if ¬ j.restarting ∨ (s.tbl j.table).job = h then s
    else
      let j' := { j with stopped := none, restarting := false, next := j.lastCommit + 1 }
      (((s.updJob h (fun _ => j')).tableRegs j').writeMaps j.table j.maps).jobStatus j' 0

def State.hostAttach (s : State) (n : Nat) (seq : BitVec 32) (h : Nat) (key : Word) : State :=
  match (s.job h).filter (fun j => j.key == key && !j.ending) with
  | none => s.result n seq K.eHostJob []
  | some j =>
    let s1 := if j.session.isSome ∧ j.session ≠ some n then s.jobStatus j K.eHostJob else s
    let s2 := s1.updJob h (fun j =>
      { j with session := some n, reply := none, cmds := j.cmds.map (fun (c : Cmd) => if c.acked then c else { c with sent := false }) })
    ((s2.result n seq 0 []).revive h).flushDone h

/-! ### Commands (R420, R422) -/

/-- The field checks of R420. -/
def cmdOk (j : Job) (r : CmdReq) : Bool :=
  decide (r.params.length ≤ 4096) && decide (r.inputs.length ≤ 16) && decide (r.outputs.length ≤ 16) && decide (r.seqs.length ≤ 64)
    && !(j.open_.any (fun c => c.req.tag == r.tag)) && Config.programEntry j.image r.entry && (mapSeqs r.seqs j).isSome

def State.cmdSubmit (s : State) (n : Nat) (seq : BitVec 32) (r : CmdReq) : State :=
  if s.ended.contains r.job then s.result n seq K.eJobEnded []
  else match s.ownJob n r.job with
    | none => s.result n seq K.eHostJob []
    | some j =>
      if j.ending then s.result n seq K.eJobEnded []
      else if j.rank ≠ 0 then s.result n seq K.eHostNotLead []
      else if 256 ≤ j.open_.length then s.result n seq K.eHostQueue []
      else if ¬ cmdOk j r then s.result n seq K.eHostFormat []
      else
        let j' := (mapSeqs r.seqs j).getD j
        let s1 := s.updJob j.handle (fun _ => { j' with cmds := j'.cmds ++ [{ num := j.next, req := r }], next := j.next + 1 })
        s1.result n seq 0 (leBytes 8 j.next)

def State.cmdCancel (s : State) (n : Nat) (seq : BitVec 32) (h : Nat) (tag : Word) : State :=
  match s.ownJob n h with
  | none => s.result n seq K.eHostJob []
  | some j =>
    match j.open_.find? (fun c => c.req.tag == tag) with
    | some c =>
      if c.st = .running then (s.result n seq 0 []).orderKill j.table .cancel false
      else ((s.updJob h (fun j => j.setCmd c.num (fun c => { c with st := .ended K.cancelled }))).result n seq 0 []).flushDone h
    | none => s.result n seq (if j.cmds.any (fun c => c.req.tag == tag) then K.eHostCmdDone else K.eHostCmd) []

/-! ### Security requests in a session (R458, R461, R462) -/

def State.hostAttest (s : State) (n : Nat) (seq : BitVec 32) (nonce : BitVec 256) : State :=
  match s.attestReport nonce with
  | none => s.result n seq K.eAttestExhausted []
  | some (bs, s1) => s1.result n seq 0 bs

def State.hostKeystore (s : State) (n : Nat) (seq : BitVec 32) (slot : Nat) (erase : Bool) (iv : BitVec 96) (wrapped : BitVec 256)
    (tag : BitVec 128) : State :=
  let mgmt : Bool := match s.session n with | some x => x.mgmt | none => false
  if ¬ mgmt then s.result n seq K.eHostPriv []
  else
    let (s1, c) := s.putKey slot erase iv wrapped tag
    s1.result n seq c []

/-! ### Requests in order (R410, R412) -/

/-- What a request does, with its RESULT. -/
def State.handle (s : State) (n : Nat) (seq : BitVec 32) : HReq → State
  | .close detach => s.closeSession n seq detach
  | .keepalive => s.result n seq 0 []
  | .netConfig port kind index plen addr remove => s.netConfig n seq port kind index plen addr remove
  | .mbxWrite die value => s.hostMbx n seq die value
  | .windowGrant job va len rd wr wmode => s.windowGrant n seq job va len rd wr wmode
  | .windowRevoke window => s.windowRevoke n seq window
  | .qpCreate hqpn hpsn gid pmtu => s.qpCreate n seq hqpn hpsn gid pmtu
  | .qpDestroy qpn => s.qpDestroy n seq qpn
  | .jobAdmit req choice maps => s.admitJob n seq req choice maps
  | .jobEnd job => s.hostJobEnd n seq job
  | .jobAttach job key => s.hostAttach n seq job key
  | .cmdSubmit req => s.cmdSubmit n seq req
  | .cmdCancel job tag => s.cmdCancel n seq job tag
  | .identity => s.result n seq 0 s.identityFields
  | .attest nonce => s.hostAttest n seq nonce
  | .keystorePut slot erase iv wrapped tag => s.hostKeystore n seq slot erase iv wrapped tag
  | .load => s.result n seq K.eLoadStage []
  | .bad => s.result n seq K.eHostType []
  | .malformed => s.result n seq K.eHostFormat []

/-- The request that is next in order, then those accepted ahead of their turn. A session that closes hands on no more. -/
def State.handOn : Nat → State → Nat → BitVec 32 → HReq → State
  | 0, s, _, _, _ => s
  | fuel + 1, s, n, seq, r =>
    let s1 := (s.updSess n (fun y => { y with expect := seq + 1, ackDue := true })).handle n seq r
    match s1.session n with
    | none => s1
    | some y =>
      if y.closing.isSome then s1
      else match y.early.find? (fun e => e.1 == y.expect) with
        | none => s1
        | some (q, r') => State.handOn fuel (s1.updSess n (fun y => { y with early := y.early.filter (fun e => e.1 != q) })) n q r'

/-- A duplicate: its RESULT again if the device still holds it, otherwise an ACK. -/
def State.hostAgain (s : State) (n : Nat) (seq : BitVec 32) : State :=
  match s.session n with
  | none => s
  | some x =>
    match x.results.find? (fun r => r.1 == seq) with
    | some (_, q, m) => { s with out := s.out ++ [.host n q (x.expect - 1) m] }
    | none => s.sendAck n

/-- The session that a message belongs to (R409, R413). -/
def State.sessOf (s : State) (h : Hdr) : Option Sess :=
  (s.session h.session.toNat).filter (fun x => x.cookie == h.cookie && x.port == h.port && x.src == h.src && x.udp == h.udp)

/-- A message of a session whose datagrams have come (R409, R410): unless it is discarded it acknowledges, and its
request is handled in seq order. -/
def State.hostMsg (s : State) (h : Hdr) (r : HReq) : State :=
  if ¬ (s.mainRuns ∧ s.portUp h.port) then s
  else match s.sessOf h with
    | none => s.tuDrop h.port
    | some x =>
      let n := h.session.toNat
      let s1 := (s.updSess n (fun y => { y with heard := s.gtime })).hostAck n h.ack
      let d := (h.seq - x.expect).toNat
      if x.closing.isSome then s1
      else if d = 0 then s1.handOn 65 n h.seq r
      else if d < 64 then
        s1.updSess n (fun y => { y with ackDue := true, early := if y.early.any (fun e => e.1 == h.seq) then y.early else y.early ++ [(h.seq, r)] })
      else if 2 ^ 31 ≤ d then s1.hostAgain n h.seq
      else s1

end Sys2Proof.Machine
end

