-- ==== Sys2Proof/Machine/Boot.lean ====
section
/-! DEFINITION. Kindling and the load (R432 to R463): entry, announcements, offers, chunks, the checks, the deadline,
identity and attestation. -/

namespace Sys2Proof.Machine

open Sys2Proof

/-! ### The end of a load (R446, R448, R466) -/

/-- Milliseconds since the offer was accepted. -/
def State.loadMs (s : State) : Nat := match s.sec.load with | some l => (s.gtime - l.start).toNat / 1000000 | none => 0

def State.setLoad (s : State) (f : Load → Load) : State := s.updSec (fun x => { x with load := x.load.map f })

/-- The RESULT of a message of the load; the last 64 are kept for duplicates (R410, R435). -/
def State.loadResult (s : State) (l : Load) (seq : BitVec 32) (status : Code) : State :=
  let m := resultMsg seq status []
  (s.setLoad (fun l => { l with results := (l.results ++ [(seq, m)]).drop (l.results.length - 63) })).resultOut l.port l.src l.udp seq m

/-- Both Ethernet ports are disabled. -/
def State.portsOff (s : State) : State :=
  [0, 1].foldl (fun s p => (s.setFld (R.ethPcfg p) 0 0 0).setFld (R.ethPstat p) 4 0 0) s

/-- A failed load (R448): SEC_LOAD faulted, LOAD_END answered once, the ports disabled, the staged image erased. -/
def State.loadFail (s : State) (code : Code) (detail : Nat) : State :=
  let s1 := (((s.setFld R.secLoad 2 0 4).setFld R.secLoad 6 4 detail).setFld R.secLoad 31 16 code.toNat).setFld R.secLoad 63 32 s.loadMs
  let s2 := match s.sec.load with
    | none => s1
    | some l =>
      let s' := match l.endSeq with
        | some q => s1.resultOut l.port l.src l.udp q (resultMsg q code [])
        | none => s1
      s'.wrN 0 (List.replicate l.next 0)
  (s2.updSec (fun x => { x with load := none })).portsOff

/-- The load latch commits: burns and revocations, the main stage starts, LOAD_END is answered (R446, R452). -/
def State.loadCommit (s : State) (l : Load) (pt : List Byte) : State :=
  let cs := components pt
  let s1 := (s.setFld R.secLoad 2 0 3).setFld R.secLoad 63 32 s.loadMs
  let s2 := { s1 with fuses := s1.fuses.afterLoad (leAt pt 8 1) ((leAt pt 9 1).testBit 0) (BitVec.ofNat 4 (leAt pt 11 1)) }
  let s3 := s2.updSec (fun x =>
    { x with load := none, meas := Config.sha384 (pt.take 512) :: cs.map (fun c => Config.sha384 (c.bytes pt)), ifaces := cs.map Comp.iface })
  match l.endSeq with
  | some q => s3.resultOut l.port l.src l.udp q (resultMsg q 0 [])
  | none => s3

/-! ### Entry (R432, R449, R457) -/

/-- Kindling brings up a port: training begins, at 100 Gb/s on an AUI. -/
def State.bringUp (s : State) (p : Nat) : State :=
  ((s.setFld (R.ethPcfg p) 2 0 7).setFld (R.ethPstat p) 1 0 1)

/-- KINDLING_ENTRY (R432). After a load fault that R449 has not cleared, kindling stays idle. -/
def execKindlingEntry (s : State) : Res :=
  if s.sec.entered ∨ s.episode.isSome then .next s
  else
    let s1 := s.updSec (fun x => { x with entered := true, load := none })
    if s1.loadState = 4 then .next s1
    else
      let s2 := s1.setFld R.secLoad 2 0 0
      if s2.fuses.stepping0 ≠ s2.fuses.stepping1 ∨ s2.fuses.grade0 ≠ s2.fuses.grade1 then .next (s2.loadFail K.eFuseInconsistent 0)
      else .next ((s2.checkStore.bringUp 0).bringUp 1)

/-- The payload of ANNOUNCE (R434). -/
def State.announcePayload (s : State) (port : BitVec 1) : List Byte :=
  let f := s.fuses
  let stage := match s.loadState with | 0 => 0 | 1 => 1 | 2 => 1 | _ => 2
  let usable := f.keyprog &&& ~~~f.keyrev
  let srcs := 1 + b2n (f.keystoreEn && s.sec.keys.any Option.isSome) * 2
  leBytes 8 f.serial.toNat ++ [BitVec.ofNat 8 stage, BitVec.ofNat 8 f.stepping0.toNat, BitVec.ofNat 8 (b2n f.grade0), BitVec.ofNat 8 port.toNat]
    ++ leBytes 4 Config.romVersion.toNat ++ leBytes 4 (if stage = 2 then ((s.sec.ifaces[0]?).getD 0).toNat else 0)
    ++ [BitVec.ofNat 8 (ones64 f.svn), BitVec.ofNat 8 usable.toNat, BitVec.ofNat 8 srcs, 0] ++ leBytes 6 (s.macOf port).toNat ++ [0, 0]

/-- ANNOUNCE (R432). -/
def execAnnounce (port : BitVec 1) (s : State) : Res :=
  if (s.mainRuns ∨ s.kindlingRuns) ∧ s.portUp port then .next { s with out := s.out ++ [.announce port (s.announcePayload port)] } else .next s

/-! ### The offer (R435 to R437) -/

def Load.sameSource (l : Load) (h : Hdr) : Bool := l.port == h.port && l.src == h.src && l.udp == h.udp

/-- Answer a message outside a session. -/
def State.answerOut (s : State) (h : Hdr) (code : Code) (fields : List Byte) : State :=
  s.resultOut h.port h.src h.udp h.seq (resultMsg h.seq code fields)

/-- Kindling accepts an offer. -/
def State.acceptOffer (s : State) (h : Hdr) (nonce : Word) (length deadline : Nat) : State :=
  let (cookie, s1) := s.fresh
  let m := resultMsg h.seq 0 (leBytes 8 cookie.toNat ++ leBytes 4 8192 ++ leBytes 4 0)
  let l : Load :=
    { port := h.port, src := h.src, udp := h.udp, nonce := nonce, cookie := cookie, len := length, start := s.gtime,
      deadline := s.gtime + BitVec.ofNat 64 (deadline * 1000000), offer := m }
  (((s1.updSec (fun x => { x with load := some l })).setFld R.secLoad 2 0 1).setFld R.secLoad 3 3 h.port.toNat).resultOut
    h.port h.src h.udp h.seq m

/-- LOAD_OFFER (R436). In a live session of the main stage it is a message of that session. -/
def execLoadOffer (h : Hdr) (nonce : Word) (length : Nat) (deadline : Nat) (s : State) : Res :=
  if ¬ s.portUp h.port then .next s
  else if s.mainRuns then .next (if h.session = 0xFFFF then s.answerOut h K.eLoadStage [] else s.hostMsg h .load)
  else if ¬ s.kindlingRuns then .next s
  else if h.session ≠ 0xFFFF ∨ h.cookie ≠ 0 then .next (s.tuDrop h.port)
  else match s.sec.load with
    | some l =>
      if ¬ l.sameSource h then .next (s.answerOut h K.eLoadBusy [])
      else if l.nonce = nonce then .next (s.resultOut h.port h.src h.udp h.seq l.offer)
      else .next (s.answerOut h K.eLoadStage [])
    | none =>
      if length < 8272 ∨ 268435536 < length ∨ deadline = 0 ∨ 600000 < deadline then .next (s.answerOut h K.eLoadOffer [])
      else .next (s.acceptOffer h nonce length deadline)

/-! ### Chunks and the end (R435, R438, R439) -/

/-- A chunk in its turn: stored, or refused with E_LOAD_FORMAT. -/
def State.loadChunk (s : State) (l : Load) (seq : BitVec 32) (offset : Nat) (data : List Byte) : State :=
  let n := data.length
  if offset = l.next ∧ offset + n ≤ l.len ∧ 0 < n ∧ (n = 8192 ∨ (n < 8192 ∧ offset + n = l.len)) ∧ l.endSeq.isNone then
    ((s.wrN offset data).setLoad (fun l => { l with next := l.next + n })).loadResult l seq 0
  else s.loadResult l seq K.eLoadFormat

/-- LOAD_END in its turn: the checks start; a second one is in the wrong stage. -/
def State.loadFinish (s : State) (l : Load) (seq : BitVec 32) : State :=
  if l.endSeq.isSome then s.loadResult l seq K.eLoadStage
  else (s.setLoad (fun l => { l with endSeq := some seq })).setFld R.secLoad 2 0 2

/-- A message of the load in its turn, then those accepted ahead of theirs. -/
def State.loadOn : Nat → State → BitVec 32 → Option (Nat × List Byte) → State
  | 0, s, _, _ => s
  | fuel + 1, s, seq, m =>
    match s.sec.load with
    | none => s
    | some l =>
      let s0 := s.setLoad (fun l => { l with expect := seq + 1 })
      let s1 := match m with
        | some (o, d) => s0.loadChunk l seq o d
        | none => s0.loadFinish l seq
      match (s1.sec.load).bind (fun l => l.early.find? (fun e => e.1 == l.expect)) with
      | some (q, m') => State.loadOn fuel (s1.setLoad (fun l => { l with early := l.early.filter (fun e => e.1 != q) })) q m'
      | none => s1

/-- A LOAD_DATA or LOAD_END: the seq rules of R410 with the load in place of a session. -/
def State.loadMsg (s : State) (h : Hdr) (m : Option (Nat × List Byte)) : State :=
  if ¬ s.portUp h.port then s
  else if s.mainRuns then (if h.session = 0xFFFF then s.answerOut h K.eLoadStage [] else s.hostMsg h .load)
  else if ¬ s.kindlingRuns then s
  else match s.sec.load with
    | none => if h.session = 0xFFFF then s.answerOut h K.eLoadStage [] else s.tuDrop h.port
    | some l =>
      if h.session ≠ 0xFFFF ∨ h.cookie ≠ l.cookie ∨ ¬ l.sameSource h then s.tuDrop h.port
      else
        let d := (h.seq - l.expect).toNat
        if d = 0 then s.loadOn 65 h.seq m
        else if d < 64 then
          s.setLoad (fun l => { l with early := if l.early.any (fun e => e.1 == h.seq) then l.early else l.early ++ [(h.seq, m)] })
        else if 2 ^ 31 ≤ d then
          match l.results.find? (fun r => r.1 == h.seq) with
          | some (_, r) => s.resultOut l.port l.src l.udp h.seq r
          | none => s
        else s

/-- LOAD_DATA (R438). -/
def execLoadData (h : Hdr) (offset : Nat) (data : List Byte) (s : State) : Res := .next (s.loadMsg h (some (offset, data)))

/-- LOAD_END (R439). -/
def execLoadEnd (h : Hdr) (s : State) : Res := .next (s.loadMsg h none)

/-- LOAD_CHECKS_DONE (R440, R446): the checks end; in the tick of the deadline the deadline wins. -/
def execLoadChecksDone (s : State) : Res :=
  match s.sec.load with
  | none => .next s
  | some l =>
    if ¬ (s.kindlingRuns ∧ s.loadState = 2) then .next s
    else if l.deadline.toNat ≤ s.gtime.toNat then .next (s.loadFail K.eLoadDeadline 0)
    else match s.checkImage (s.decN 0 l.next) l.len with
      | .error (c, d) => .next (s.loadFail c d)
      | .ok pt => .next (s.loadCommit l pt)

/-- LOAD_DEADLINE (R440). -/
def execLoadDeadline (s : State) : Res :=
  match s.sec.load with
  | none => .next s
  | some l => if s.kindlingRuns then .next ((s.until l.deadline).loadFail K.eLoadDeadline 0) else .next s

/-! ### Identity and attestation (R435, R461, R462) -/

/-- IDENTITY (R461). -/
def execIdentity (h : Hdr) (s : State) : Res :=
  if ¬ (s.portUp h.port ∧ (s.mainRuns ∨ s.kindlingRuns)) then .next s
  else if h.session ≠ 0xFFFF then .next (s.hostMsg h .identity)
  else if h.cookie ≠ 0 then .next (s.tuDrop h.port)
  else .next (s.answerOut h 0 s.identityFields)

/-- A report made outside a session, kept for a repeat within 1 s. -/
def State.attestOut (s : State) (h : Hdr) (nonce : BitVec 256) : State :=
  match s.attestReport nonce with
  | none => s.answerOut h K.eAttestExhausted []
  | some (bs, s1) =>
    let m := resultMsg h.seq 0 bs
    (s1.updSec (fun x => { x with attested := some (h.src, h.udp, nonce, s.gtime, m) })).resultOut h.port h.src h.udp h.seq m

/-- ATTEST (R462). -/
def execAttest (h : Hdr) (nonce : BitVec 256) (s : State) : Res :=
  if ¬ (s.portUp h.port ∧ (s.mainRuns ∨ s.kindlingRuns)) then .next s
  else if h.session ≠ 0xFFFF then .next (s.hostMsg h (.attest nonce))
  else if h.cookie ≠ 0 then .next (s.tuDrop h.port)
  else match s.sec.attested with
    | some (src, udp, n, t, m) =>
      if src = h.src ∧ udp = h.udp ∧ n = nonce ∧ (s.gtime - t).toNat ≤ 1000000000 then .next (s.resultOut h.port h.src h.udp h.seq m)
      else .next (s.attestOut h nonce)
    | none => .next (s.attestOut h nonce)

/-! ### The battery (R456) -/

/-- VBAT_LOSS (R456): with the core supply absent the store loses its marker, its keys and its count. The core supply is
absent while the power-on source asserts. -/
def execVbatLoss (s : State) : Res :=
  let off := match s.episode with | some e => e.held.contains .powerOn | none => false
  if off then
    .next (((s.updSec (fun x => { x with marker := 0, keys := [none, none, none, none] })).setFld R.secBbk 21 8 0).setFullBits)
  else .next s

end Sys2Proof.Machine
end

