-- ==== Sys2Proof/Machine/CollCore.lean ====
section
/-! DEFINITION. Collectives (R384 to R387): descriptors, units, the combining operations, the pieces that come from other
ranks. -/

namespace Sys2Proof.Machine

open Sys2Proof

/-! ### Descriptors (R384) -/

/-- The collective's fields. `pe` and `score` are what the descriptor does not tell: the exponent of raw entries read
out, and the format of TOPK scores (log entry 122). -/
structure CDesc where
  op : Nat
  ifmt : Nat
  ofmt : Nat
  rm : Rm
  count : Nat
  k : Nat
  all : Bool
  seq : Nat
  src : Nat
  dst : Nat
  pe : Int
  score : Nat
  deriving DecidableEq, Repr

def CDesc.of (job num : Nat) (bs : List Byte) : CDesc :=
  let same := bs.take 16
  let f (at_ n : Nat) : Nat := leNat ((bs.drop at_).take n)
  { op := f 0 1, ifmt := f 1 1, ofmt := f 2 1, rm := (Rm.ofCode (f 3 1)).getD .rne, count := f 4 4, k := f 8 2, all := f 10 1 == 1,
    seq := f 12 4, src := f 16 8, dst := f 24 8, pe := if f 1 1 = 6 then -24 else pe10 (Config.collPe job num same).toNat, score := (Config.collScore job num same).toNat % 3 }

/-- A descriptor that R384 admits. -/
def descOk (bs : List Byte) : Bool :=
  let f (at_ n : Nat) : Nat := leNat ((bs.drop at_).take n)
  let fmts := match f 0 1 with
    | 0 => (f 1 1 == 6 || f 1 1 == 15) && (f 2 1 == 15 || f 2 1 == 6 || f 2 1 == 7)
    | 1 => f 1 1 == 7 && f 2 1 == 7
    | 2 => f 1 1 == 0 && decide (f 2 1 ≤ 1) && decide (1 ≤ f 8 2) && decide (f 8 2 ≤ 1024)
    | 3 => f 1 1 == f 2 1
    | _ => false
  fmts && (Rm.ofCode (f 3 1)).isSome && decide (f 10 1 ≤ 1) && f 11 1 == 0 && decide (1 ≤ f 4 4)

/-! ### Units (R387) -/

/-- Bytes of an element of the input, of a partial result between ranks, and of the result. -/
def CDesc.isz (d : CDesc) : Nat :=
  match d.op with
  | 0 => if d.ifmt = 6 then 2 else 16
  | 1 => 4
  | 2 => 16 * d.k
  | _ => 1
def CDesc.msz (d : CDesc) : Nat := if d.op = 0 then 16 else d.isz
def CDesc.osz (d : CDesc) : Nat :=
  match d.op with
  | 0 => if d.ofmt = 15 then 16 else if d.ofmt = 6 then 2 else 4
  | 2 => if d.ofmt = 1 then 12 * d.k else 16 * d.k
  | _ => d.isz
/-- Elements of a unit: 4 KiB of input, or one list. -/
def CDesc.per (d : CDesc) : Nat := if d.op = 2 then 1 else 4096 / d.isz
def CDesc.units (d : CDesc) : Nat := (d.count + d.per - 1) / d.per
/-- Elements of unit u. -/
def CDesc.elems (d : CDesc) (u : Nat) : Nat := min d.per (d.count - u * d.per)

/-- Cut bytes into runs of n. -/
def chunks (n : Nat) : Nat → List Byte → List (List Byte)
  | 0, _ => []
  | m + 1, bs => bs.take n :: chunks n m (bs.drop n)

/-! ### Combining (R386) -/

/-- The input of a unit as a partial result. -/
def CDesc.enter (d : CDesc) (m : Nat) (bs : List Byte) : List Byte :=
  if d.op = 0 ∧ d.ifmt = 6 then
    (chunks 2 m bs).flatMap (fun e =>
      let v := decodeVal .f16 (leNat e)
      (fxTerm (-24) (v, v.isSig) (.fin false 1 0, false)).toBytes)
  else bs

/-- The valid pairs of a list image. -/
def listPairs (bs : List Byte) : List Pair := (pairsOf bs).filter pairValid

/-- Combine two partial results of unit u, the left operand first. -/
def CDesc.combine (d : CDesc) (u m : Nat) (l r : List Byte) : List Byte × Fl :=
  match d.op with
  | 0 =>
    (((chunks 16 m l).zip (chunks 16 m r)).flatMap (fun x => ((PotEntry.ofNat (leNat x.1)).combine (PotEntry.ofNat (leNat x.2))).toBytes), 0)
  | 1 =>
    let out := ((chunks 4 m l).zip (chunks 4 m r)).map (fun x =>
      let (v, f1) := addVal d.rm (decodeVal .f32 (leNat x.1)) (decodeVal .f32 (leNat x.2))
      let (c, f2) := deliver .f32 d.rm v
      (leBytes 4 c, f1 ||| f2))
    (out.flatMap Prod.fst, out.foldl (fun a x => a ||| x.2) 0)
  | 2 =>
    let f := sieveFmt d.score
    let ps := (listPairs l ++ listPairs r).foldl (fun acc x => listTake f d.k x acc) []
    (((ps.flatMap (flushPair u)) ++ List.replicate (16 * d.k) 0).take (16 * d.k), 0)
  | _ => (l, 0)

/-- The result of a unit from the complete combination at rank 0. -/
def CDesc.finish (d : CDesc) (m : Nat) (bs : List Byte) : List Byte × Fl :=
  if d.op = 0 ∧ d.ofmt ≠ 15 then
    let f : EFmt := if d.ofmt = 6 then .f16 else .f32
    let out := (chunks 16 m bs).map (fun e =>
      let (c, fl) := potRead ⟨.fx, d.pe⟩ (PotEntry.ofNat (leNat e)) f d.rm
      (leBytes (f.bits / 8) c, fl))
    (out.flatMap Prod.fst, out.foldl (fun a x => a ||| x.2) 0)
  else if d.op = 2 ∧ d.ofmt = 1 then
    (((listPairs bs).flatMap (flushShort (sieveFmt d.score)) ++ List.replicate (12 * d.k) 0).take (12 * d.k), 0)
  else (bs, 0)

/-! ### Pieces (R387) -/

/-- Bytes of a rank's stream, once all have come. -/
def Coll.stream (c : Coll) (rank off n : Nat) : Option (List Byte) :=
  (List.range n).mapM (fun i =>
    c.got.findSome? (fun p => if p.1 = rank ∧ p.2.1 ≤ off + i ∧ off + i < p.2.1 + p.2.2.length then p.2.2[off + i - p.2.1]? else none))

def Coll.d (c : Coll) : CDesc := CDesc.of c.job c.num c.desc

def State.coll (s : State) (t seq : Nat) : Option Coll := s.colls.find? (fun c => c.table == t && c.seq == seq)
def State.updColl (s : State) (t seq : Nat) (f : Coll → Coll) : State :=
  { s with colls := s.colls.map (fun (c : Coll) => if c.table = t ∧ c.seq = seq then f c else c) }

/-- The length of the stream that a rank sends here: partial results of a child, results of the parent. -/
def State.streamLen (s : State) (t : Nat) (d : CDesc) (rank : Nat) : Nat :=
  if (s.children t).contains rank ∧ d.op ≠ 3 then d.count * d.msz
  else if s.rank t ≠ 0 ∧ rank = treeParent (s.rank t) ∧ d.all then d.count * d.osz
  else 0

/-- The digest of the fields that ranks have to agree on: op, formats, count, k and scope (R384). -/
def Coll.digest (c : Coll) : BitVec 16 := Config.collDigest (c.desc.take 3 ++ (c.desc.take 11).drop 4)

/-- Bytes of a collective from another rank: `tag` is its rank, `arg` the collective, `addr` the offset in its stream,
`status` the digest. Another digest, or bytes that this rank's descriptor leaves no place for, show that the ranks disagree
(R384). -/
def State.gulUnit (s : State) (t : Nat) (p : GPkt) : State :=
  match s.coll t p.arg.toNat with
  | none => s
  | some c =>
    if p.status ≠ c.digest ∨ s.streamLen t c.d p.tag < p.addr + p.data.length then s.gulFail c.core t K.eLinkColl
    else s.updColl t c.seq (fun c => { c with got := c.got ++ [(p.tag, p.addr, p.data)] })

/-- Whether a collective is complete on this rank. -/
def State.collDone (s : State) (c : Coll) : Bool :=
  let d := c.d
  if s.rank c.table = 0 ∨ d.all then (List.range d.units).all (fun u => c.placed.contains u)
  else d.op == 3 || (List.range d.units).all (fun u => c.sent.contains u)

end Sys2Proof.Machine
end

