-- ==== Sys2Proof/Machine/Commands.lean ====
section
/-! DEFINITION. Commit, kill and cancel requests, expiries, grants and placements (R340 to R349, R360, R380, R388, R389,
R546). -/

namespace Sys2Proof.Machine

open Sys2Proof

/-- COMMAND_START (R26, R380): the next command of a table's job starts; the message is what a rank other than the lead receives. -/
def execCommandStart (r : StartReq) (s : State) : Res :=
  if s.canStart r.table then .next (s.startCmd r.table r.msg) else .next s

/-! ### Commit (R346, R356, R360) -/

/-- Every rank of a spanning job has sealed the step that was armed last (R506): this device's seal and the reports of the
others. -/
def State.allSealed (s : State) (t : Nat) (reports : List Nat) : Bool :=
  match s.jobOf t with
  | some j => j.armed == j.lastStep && (j.armed == 0 || (s.others t).all (fun r => reports.contains r))
  | none => true

/-- TBL_REQ_COMMIT (R346, R506, R546, R547): step 1, the wait, begins; a command run after a scan-in and one that a fault
event came before fail. At the lead of a spanning job that has not the reports of all ranks, the lead clears step_end. -/
def execTblReqCommit (t : Nat) (r : CommitReq) (s : State) : Res :=
  if ¬ s.tvalid t ∨ s.tbusy t then .next s
  else if s.tstate t ≠ 2 ∨ ¬ s.running t then .next (s.setRes t K.eTblState false)
  else if (s.tbl t).scanned then .next (s.orderKill t (.fail K.eJobScanned) false)
  else if (s.tbl t).ue then .next (s.ueTable t)
  else match (s.tbl t).failed with
    | some c => .next (s.orderKill t (.fail c) false)
    | none =>
      let skip := s.spanning t && s.rank t == 0 && !s.allSealed t r.reports
      .next ((s.setRes t 0 true).updTbl t (fun x => { x with commit := some r.stepEnd, sizes := r.sizes, skip := skip }))

/-- COMMIT_LOCAL_STEP (R346, R388): with the table drained, the home dealer sees the commit request. A spanning job
prepares: its lead sends PREPARE. -/
def execCommitLocalStep (t : Nat) (s : State) : Res :=
  match (s.tbl t).commit with
  | none => .next s
  | some se =>
    if s.tstate t ≠ 2 ∨ ¬ s.drained t then .next s
    else if (s.tbl t).ue then .next ((s.ueTable t).settleJob t)
    else match (s.tbl t).failed with
      | some c => .next (s.orderKill t (.fail c) false)
      | none =>
        let s1 := (s.homeSees t).setTstate t 3
        if s.spanning t then .next ((if s.rank t = 0 then s1.tellRanks t 1 (s.children t) else s1).tryReady t)
        else .next ((s1.commitLocal t se).settleJob t)

/-! ### Kill and cancel (R348, R360, R546) -/

/-- A kill or cancel request reaches the home dealer, whatever runs there (R358, R546). -/
def State.endRequest (s : State) (t : Nat) (to_ : KillTo) : State :=
  let s1 := s.setRes t 0 (s.tbusy t)
  if s.running t then s1.orderKill t to_ false else s1.homeSees t

/-- What a kill that firmware orders will make of the command. -/
def killWhy : KillWhy → KillTo
  | .rerun => .rerun
  | .vaUnmapped => .fail K.eVaUnmapped
  | .versionPool => .fail K.eVersionPool

/-- TBL_REQ_KILL (R348, R546): firmware kills the command for a rerun, or fails it with the code of R286 or R293. -/
def execTblReqKill (r : KillReq) (s : State) : Res :=
  if ¬ s.tvalid r.table then .next s else .next (s.endRequest r.table (killWhy r.why))

/-- TBL_REQ_CANCEL (R360, R546). -/
def execTblReqCancel (t : Nat) (s : State) : Res := if ¬ s.tvalid t then .next s else .next (s.endRequest t .cancel)

/-- KILL_RELEASE (R348). -/
def execKillRelease (t : Nat) (s : State) : Res :=
  match (s.tbl t).kill with
  | none => .next s
  | some k => if s.tstate t = 4 then .next ((s.releaseKill t k).settleJob t) else .next s

/-- CMD_LIMIT_EXPIRY (R349): the limit counts only the time the command runs. -/
def execCmdLimitExpiry (t : Nat) (s : State) : Res :=
  match (s.jobOf t).bind Job.running with
  | none => .next s
  | some c =>
    if c.req.limit = 0 ∨ ¬ s.running t then .next s
    else .next ((s.until ((s.tbl t).since + BitVec.ofNat 64 (c.req.limit - c.used))).orderKill t (.fail K.eCmdLimit) false)

/-- ISL_WDOG_EXPIRY (R349, R370): the period has passed without an issued word. -/
def execIslWdogExpiry (isl : Nat) (s : State) : Res :=
  let st := s.fld (R.islSeq isl) 2 0
  let t := (s.isl isl).table
  if isl < 192 ∧ bit 63 (s.reg (R.islWdog isl)) ∧ (st = 1 ∨ st = 2) ∧ t ≠ 0 then
    .next ((s.until ((s.isl isl).issued + BitVec.ofNat 64 (s.fld (R.islWdog isl) 39 0))).orderKill t (.fail K.eJobHung) false)
  else .next s

/-! ### Grants (R341, R344, R345) -/

/-- A job that waits for islands. -/
def Job.waits (j : Job) : Bool := j.nw.isNone && !j.ending && !j.restarting

/-- An island that is free or held by a plain job. -/
def State.plainIsl (s : State) (i : Nat) : Bool :=
  s.freeIsl i || (match s.jobOf (s.isl i).table with | some j => !j.trump | none => false)

/-- Where a waiting job would stand on an island of a table: the placement reserved for it, or the first over free islands
and islands of plain jobs, of this table or others (R341; which placement, DESIGN CHOICE, log entry 107). -/
def State.wantsOf (s : State) (t : Nat) (j : Job) : Option Nat :=
  let meets (w : Nat) : Bool := (rect w j.rows j.cols).any (fun i => (s.isl i).table == t)
  if ¬ j.waits ∨ j.table = t then none
  else match j.want with
    | some w => if meets w then some w else none
    | none =>
      let r := s.reserved j.handle
      (List.range 192).find? (fun w =>
        s.fits j.rows j.cols j.short w && meets w && (rect w j.rows j.cols).all (fun i => s.plainIsl i && !r.contains i))

/-- The next job in the rotation that waits for an island of the table, and where it would stand. -/
def State.waiterFor (s : State) (t : Nat) : Option (Job × Nat) := s.jobs.findSome? (fun j => (s.wantsOf t j).map (fun w => (j, w)))

/-- A step of the table that cannot be killed is in progress (R347). -/
def State.nonKillable (s : State) (t : Nat) : Bool :=
  (match (s.tbl t).deal with | .go _ => true | .load _ => true | _ => false) || (s.spanning t && s.gphase t == 2)

/-- The command of a job is killed at a grant end: two in a row double each following grant, up to 64 times (R344). -/
def Job.killedAtGrant (j : Job) (grace : Option Word) : Job :=
  { j with
    kills := j.kills + 1, evict := true, graceFrom := grace
    mult := if 1 ≤ j.kills then min 64 (2 * j.mult) else j.mult }

/-- A plain job goes to the end of the rotation. -/
def State.rotate (s : State) (h : Nat) : State :=
  { s with jobs := s.jobs.filter (fun j => j.handle != h) ++ s.jobs.filter (fun j => j.handle == h) }

/-- The islands of a job whose grant is over are taken. -/
def State.takeGrant (s : State) (t : Nat) (j : Job) : State :=
  if s.running t then
    ((s.updJob j.handle (fun j => j.killedAtGrant (if s.nonKillable t then some s.gtime else none))).rotate j.handle).orderKill t .rerun false
  else (s.parkJob j).rotate j.handle

/-- The grant of a table's job is over: renewed, which breaks a run of kills (R344), or its islands are taken and kept for
the job that waits. -/
def State.grantOver (s : State) (t : Nat) : State :=
  match s.jobOf t with
  | none => s
  | some j =>
    match j.nw with
    | none => s
    | some nw =>
      if j.trump then s
      else match s.waiterFor t with
        | none => ((s.updJob j.handle (fun j => { j with kills := 0 })).startGrant j nw).noteMelds
        | some (x, w) => (s.updJob x.handle (fun x => { x with want := some w })).takeGrant t j

/-- GRANT_END (R341): the slice counter of the north-west island reaches 0, which clears en. -/
def execGrantEnd (t : Nat) (s : State) : Res :=
  match (s.tableIsls t).head? with
  | none => .next s
  | some nw =>
    let r := s.reg (R.islSlice nw)
    if t = 0 ∨ ¬ bit 63 r then .next s
    else
      let s1 := (((s.advance (field 39 0 r)).setFld (R.islSlice nw) 39 0 0).setFld (R.islSlice nw) 63 63 0).noteMelds
      .next ((s1.homeSees t).grantOver t)

/-- JOB_PLACE (R341, R342): a waiting job is placed when islands of its shape are free; plain jobs in the order of their
rotation. -/
def execJobPlace (job choice : Nat) (s : State) : Res :=
  match s.job job with
  | none => .next s
  | some j =>
    if ¬ j.waits then .next s
    else match j.want with
      | some w => if (rect w j.rows j.cols).all s.freeIsl then .next (s.placeJob j w) else .next s
      | none =>
        let before := (s.jobs.takeWhile (fun x => x.handle != job)).filter (fun x => x.waits && x.want.isNone)
        if before.any (fun x => (s.freePlace x.handle x.rows x.cols x.short 0).isSome) then .next s
        else match s.freePlace job j.rows j.cols j.short choice with
          | some w => .next (s.placeJob j w)
          | none => .next s

/-! ### The two-phase commit (R388, R389) -/

/-- What a commit message meets (R380, R388): one of the current command of a spanning job acts; one of an earlier command
is discarded and counted in GUL_JSTAT.stale; one of a later command is answered E_LINK_RETRY, counted, and comes again. -/
def State.commitMsg (s : State) (t : Nat) (cnum : BitVec 32) (act : State → State) : State :=
  if ¬ s.spanning t then s
  else if cnum = s.cnum t then act s
  else if cnum.toNat < (s.cnum t).toNat then s.gulStale t
  else (s.satFld (R.gulJstat 0 t) 63 56 1).satFld (R.gulJstat 1 t) 63 56 1

/-- PREPARE at a rank other than the lead goes on to its children. -/
def State.prepareHere (s : State) (t : Nat) : State :=
  if s.rank t ≠ 0 ∧ s.running t ∧ ¬ (s.tbl t).prep then
    ((s.updTbl t (fun x => { x with prep := true })).tellRanks t 1 (s.children t)).tryReady t
  else s

/-- READY from a child. -/
def State.readyHere (s : State) (t child : Nat) : State :=
  if s.running t ∧ (s.children t).contains child ∧ ¬ (s.tbl t).ready.contains child then
    ((s.updTbl t (fun x => { x with ready := x.ready ++ [child] })).tryReady t).settleJob t
  else s

/-- COMMIT at a prepared rank; `skip` is the lead's ruling that step_end is cleared (R506). -/
def State.commitHere (s : State) (t : Nat) (skip : Bool) : State :=
  match (s.tbl t).commit with
  | some se => if s.gphase t = 2 then ((s.updTbl t (fun x => { x with skip := skip })).decideCommit t se).settleJob t else s
  | none => s

/-- ABORT: toward the lead, or from it. A command that failed on one rank has failed (R29); `status` is its code, 0 where
the command is to be run again (log entry 108). -/
def State.abortHere (s : State) (t : Nat) (status : Code) : State :=
  s.orderKill t (if status = 0 then .rerun else .fail status) true

/-- KILLREQ at the lead: the decision is abort. -/
def State.killreqHere (s : State) (t : Nat) : State := if s.rank t = 0 then s.orderKill t .rerun true else s

/-- DONE from a child. -/
def State.doneHere (s : State) (t child : Nat) : State :=
  if (s.children t).contains child ∧ ¬ (s.tbl t).done.contains child then
    (s.updTbl t (fun x => { x with done := x.done ++ [child] })).tryDone t
  else s

/-- A commit message that came in a packet (R388): its kind in `arg` bits 3:0; `tag` is the sender's rank, `arg` bit 4 the
ruling on step_end and `status` the code of a failure (log entry 63). -/
def State.commitPacket (s : State) (t : Nat) (p : GPkt) : State :=
  s.commitMsg t p.cnum (fun s =>
    match p.arg.toNat % 16 with
    | 1 => s.prepareHere t
    | 2 => s.readyHere t p.tag
    | 3 => s.commitHere t (p.arg.getLsbD 4)
    | 4 => s.abortHere t p.status
    | 5 => s.killreqHere t
    | 6 => s.doneHere t p.tag
    | _ => s)

/-- A command start that came in a packet: the number of the lead; `arg` names the job's command and the data its
sequences, four bytes each (log entry 63). -/
def StartMsg.ofPkt (p : GPkt) : StartMsg :=
  ⟨p.cnum, p.arg.toNat, (List.range (p.data.length / 4)).map (fun i => leNat ((p.data.drop (4 * i)).take 4))⟩

/-- PREPARE at a rank. -/
def execPrepareMsg (m : CommitAt) (s : State) : Res := .next (s.commitMsg m.table m.cnum (fun s => s.prepareHere m.table))

/-- READY at a rank. -/
def execReadyMsg (m : CommitAt) (child : Nat) (s : State) : Res :=
  .next (s.commitMsg m.table m.cnum (fun s => s.readyHere m.table child))

/-- COMMIT at a rank. -/
def execCommitMsg (m : CommitRuling) (s : State) : Res :=
  .next (s.commitMsg m.table m.cnum (fun s => s.commitHere m.table m.skip))

/-- ABORT at a rank. -/
def execAbortMsg (m : AbortNote) (s : State) : Res :=
  .next (s.commitMsg m.table m.cnum (fun s => s.abortHere m.table m.status))

/-- KILLREQ at the lead. -/
def execKillreq (m : CommitAt) (s : State) : Res := .next (s.commitMsg m.table m.cnum (fun s => s.killreqHere m.table))

/-- DONE at a rank. -/
def execDoneMsg (m : CommitAt) (child : Nat) (s : State) : Res :=
  .next (s.commitMsg m.table m.cnum (fun s => s.doneHere m.table child))

/-- DECIDE_TIMEOUT (R389): a prepared rank without a decision stops its job. -/
def execDecideTimeout (t : Nat) (s : State) : Res :=
  if s.spanning t ∧ s.gphase t = 2 then
    let s1 := (s.until ((s.tbl t).prepAt + BitVec.ofNat 64 (s.fld (R.gulJcfg 0 t) 31 0))).homeSees t
    match s1.jobOf t with
    | some j => .next (s1.stopJob j.handle K.eLinkDecide true)
    | none => .next (s1.orderKill t .rerun true)
  else .next s

end Sys2Proof.Machine
end

