-- ==== Sys2Proof/Machine/GulLink.lean ====
section
/-! DEFINITION. Gulras links as events (R373 to R379, R394, R395, R399): frames, replay, link down, routing, the route
banks, training and time. -/

namespace Sys2Proof.Machine

open Sys2Proof

/-! ### Link down (R374, R395) -/

/-- A job that a link or a device failed stops (R374, R389, R505); a table that no admitted job owns loses its command. -/
def State.stopSpan (s : State) (job : BitVec 32) (cause : Code) : State :=
  match s.jobTable job with
  | none => s
  | some t =>
    match s.jobOf t with
    | some j => s.stopJob j.handle cause true
    | none => s.orderKill t (.fail cause) true

/-- The link goes down: a link event, and every job with an unacknowledged frame on it stops. -/
def State.linkDown (s : State) (l : Nat) : State :=
  let x := s.glink l
  let jobs := (x.replay.flatMap GFrame.jobs).eraseDups
  let s1 := (s.setFld (R.gulLstat l) 1 0 3).dealerSees (l / 16)
  let s2 := jobs.foldl (fun s j => if j = 0 then s else s.stopSpan j K.eLinkDown) s1
  if ¬ bit 5 (s2.reg (R.gulTcfg 0)) ∧ s2.fld (R.gulTcfg 0) 4 0 = l then { s2.setFld (R.gulTstat 0) 32 32 0 with locks := 0 } else s2

/-! ### Receiving a frame (R373, R374, R375) -/

/-- An idle frame: it carries an acknowledgement, a nak and credits, takes no number and is not kept. -/
def State.sendIdle (s : State) (l : Nat) : State :=
  let x := s.glink l
  let f := frameBits x.tx (x.rx + 4095) x.nak true false x.owed []
  { s.setGlink l { x.paid with nak := false } with out := s.out ++ [.frame l f] }

/-- Frames up to an acknowledged number leave the replay buffer; a number that no frame there has acknowledges none. -/
def ackFrames (ack : Nat) (l : List GFrame) : List GFrame :=
  if l.any (fun f => f.fseq == ack) then (l.dropWhile (fun f => f.fseq != ack)).drop 1 else l

/-- The acknowledgement of a frame; it counts for the 10 µs of R374 when it frees a frame. -/
def State.frameAck (s : State) (l ack : Nat) : State :=
  let x := s.glink l
  let r := ackFrames ack x.replay
  if r.length < x.replay.length then s.setGlink l { x with replay := r, heard := s.gtime } else s

/-- Resend every frame of the replay buffer; the eighth resend of one takes the link down. -/
def State.frameNak (s : State) (l : Nat) : State :=
  let x := s.glink l
  let r := x.replay.map (fun (f : GFrame) => { f with resent := f.resent + 1 })
  let s1 := { s.setGlink l { x with replay := r } with out := s.out ++ r.map (fun (f : GFrame) => Out.frame l f.bits) }
  let s2 := s1.satFld (R.gulLerr l) 47 32 r.length
  if r.any (fun (f : GFrame) => decide (8 ≤ f.resent)) then s2.linkDown l else s2

/-- A slot taken (R375): a head starts the packet of its class, data slots fill it; a whole packet waits to be routed. -/
def GLink.slot (x : GLink) (tag v : Nat) : GLink :=
  let c := tag % 4
  let put (p : GPkt) : GLink :=
    if p.dlen ≤ p.data.length then { x with part := SMap.erase c x.part, rxq := x.rxq ++ [{ p with data := p.data.take p.dlen }] }
    else { x with part := (c, p) :: SMap.erase c x.part }
  match tag / 4 % 4 with
  | 1 => put (GPkt.ofHead v)
  | 2 =>
    (match x.part.find? (fun e => e.1 == c) with
     | some (_, p) => put { p with data := p.data ++ leBytes 32 v }
     | none => x)
  | _ => x

/-- The slots of a frame in order; slot 0 of a time exchange carries stamps (R394). -/
def takeSlots (f : Nat) (tstamp : Bool) (x : GLink) : GLink :=
  (List.range 19).foldl (fun x i =>
    if tstamp ∧ i = 0 then x else x.slot (f / 2 ^ (64 + 4 * i) % 16) (f / 2 ^ (140 + 256 * i) % 2 ^ 256)) x

/-- An intact frame's slots: taken when it is the next in order; a frame received before is discarded; a gap asks for
the frames between. -/
def State.frameBody (s : State) (l f : Nat) : State :=
  let x := s.glink l
  let fseq := f % 4096
  if fseq = x.rx then
    let y := takeSlots f (f.testBit 26) x
    s.setGlink l { y with rx := (x.rx + 1) % 4096 }
  else if (x.rx + 4096 - fseq) % 4096 ≤ 2048 then s
  else s.setGlink l { x with nak := true }

/-- Answer a frame at once: with the packets that wait, or with an idle frame. -/
def State.answerFrame (s : State) (l : Nat) : State :=
  let s1 := s.pump l
  if s1.linkState l = 2 ∧ s1.out.length = s.out.length then s1.sendIdle l else s1

/-- GUL_FRAME_RECEIVE (R373, R374): `fec` is what the FEC decoder found, none when it could not correct the codeword. -/
def execGulFrameReceive (link : Nat) (fec : Option Nat) (frame : BitVec 5140) (s : State) : Res :=
  if ¬ (link < 32 ∧ s.linkState link = 2) then .next s
  else
    let nak (s : State) : State := s.setGlink link { s.glink link with nak := true }
    match fec with
    | none => .next ((nak s).sendIdle link)
    | some n =>
      let s1 := s.incFld (R.gulLerr link) 31 0 n
      if ¬ frameOk frame then .next ((nak s1).sendIdle link)
      else
        let f := frame.toNat
        let s2 := s1.frameAck link (f / 2 ^ 12 % 4096)
        let s3 := s2.setGlink link ((s2.glink link).gain (f / 2 ^ 32 % 64) (f / 2 ^ 38 % 64) (f / 2 ^ 44 % 64) (f / 2 ^ 50 % 64))
        let s4 := if f.testBit 24 then s3.frameNak link else s3
        if f.testBit 25 then .next (s4.pump link) else .next ((s4.frameBody link f).answerFrame link)

/-- GUL_ACK_TIMEOUT (R374). -/
def execGulAckTimeout (link : Nat) (s : State) : Res :=
  let x := s.glink link
  if link < 32 ∧ s.linkState link = 2 ∧ x.replay ≠ [] then .next ((s.until (x.heard + 10000)).linkDown link) else .next s

/-! ### Routing (R378) -/

/-- GUL_PACKET_ROUTE (R378): the oldest packet received on a link. Its slots are credited back to the peer. -/
def execGulPacketRoute (link : Nat) (s : State) : Res :=
  let x := s.glink link
  if ¬ link < 32 then .next s
  else match x.rxq with
    | [] => .next s
    | p :: r =>
      let s1 := (s.setGlink link ({ x with rxq := r }.owe (p.cls % 4) p.slots)).gulSend (link / 16) link p
      .next (if s1.linkState link = 2 ∧ (s1.glink link).owed ≠ 0 then s1.sendIdle link else s1)

/-! ### The route banks (R379) -/

/-- Destinations whose entries differ between the banks of a die. -/
def State.changedDevs (s : State) (die : Nat) : List Nat :=
  let base (b : Nat) := R.gulRtab die b 0
  let words := (s.regs.filterMap (fun e =>
    if base 0 ≤ e.1 ∧ e.1 < base 0 + 65536 then some ((e.1 - base 0) / 8)
    else if base 1 ≤ e.1 ∧ e.1 < base 1 + 65536 then some ((e.1 - base 1) / 8) else none)).eraseDups
  (words.flatMap (fun w => (List.range 8).map (fun b => 8 * w + b))).filter (fun d =>
    s.routeEntry die 0 (BitVec.ofNat 16 d) != s.routeEntry die 1 (BitVec.ofNat 16 d))

/-- Packets that a die's engine has put on a link, of either die, toward destinations held on the die follow the new bank. -/
def State.reroute (s : State) (die : Nat) : State :=
  (List.range 32).foldl (fun s l =>
    let x := s.glink l
    let moves (p : GPkt) : Bool := p.die == die && s.held die p.ddev
    let s1 := s.setGlink l { x with txq := x.txq.filter (fun p => !moves p) }
    (x.txq.filter moves).foldl (fun s p => s.gulSend die l { p with hops := p.hops - 1 }) s1) s

/-- GUL_RSEL_WRITE (R379). -/
def execGulRselWrite (die : BitVec 1) (bank : Bool) (s : State) : Res :=
  let d := die.toNat
  if s.routeBank d = b2n bank then .next s
  else
    let devs := s.changedDevs d
    let s1 := { s.setFld (R.gulRsel d) 0 0 (b2n bank) with
      holds := s.holds ++ (devs.map (fun x => (d, x))).filter (fun h => !s.holds.contains h) }
    let s2 := s1.setFld (R.gulRsel d) 1 1 (b2n (s1.holds.any (fun h => h.1 == d)))
    .next (s2.reroute d)

/-- Whether a link holds an unacknowledged frame, or slots not yet framed of a packet partly sent, toward a destination. -/
def GLink.owes (x : GLink) (dev : Nat) : Bool :=
  x.replay.any (fun f => f.dests.any (fun d => d.toNat == dev)) || x.cur.any (fun e => e.2.1.ddev.toNat == dev)

/-- ROUTE_HOLD_RELEASE (R379): destinations with no unacknowledged frame on any link are released. -/
def execRouteHoldRelease (die : BitVec 1) (s : State) : Res :=
  let d := die.toNat
  let s1 := { s with holds := s.holds.filter (fun h => h.1 != d || (List.range 32).any (fun l => (s.glink l).owes h.2)) }
  let s2 := s1.setFld (R.gulRsel d) 1 1 (b2n (s1.holds.any (fun h => h.1 == d)))
  .next ((List.range 32).foldl (fun s l => s.pump l) s2)

/-! ### Training (R399) -/

/-- GULRAS_LINK_TRAINED (R399): an enabled link that is down or in training starts with fresh numbers and credits. -/
def execGulrasLinkTrained (link : Nat) (peer : BitVec 16) (plink : BitVec 5) (s : State) : Res :=
  if link < 32 ∧ bit 0 (s.reg (R.gulLcfg link)) ∧ s.linkState link ≠ 2 then
    let s1 := (s.setReg (R.gulLstat link) (BitVec.ofNat 64 (2 + peer.toNat * 2 ^ 16 + plink.toNat * 2 ^ 32))).setGlink link
      { txq := (s.glink link).txq, rxq := (s.glink link).rxq, heard := s.gtime }
    .next (s1.pump link)
  else .next s

/-! ### GTIME (R394, R395, R402) -/

/-- TIME_EXCHANGE (R394, R395): four stamps give an offset; three in a row within ±4 ticks lock. -/
def execTimeExchange (t1 t2 t3 t4 : Word) (s : State) : Res :=
  let cfg := s.reg (R.gulTcfg 0)
  let up := field 4 0 cfg
  if bit 5 cfg ∨ s.linkState up ≠ 2 then .next s
  else
    let asym := (BitVec.ofNat 16 (field 31 16 cfg)).toInt
    let off := ((t2 - t1).toInt - (t4 - t3).toInt).tdiv 2 - asym
    let near := decide (-4 ≤ off) && decide (off ≤ 4)
    let n := if near then s.locks + 1 else 0
    let s1 := { s with slew := off, slewPhase := 0, locks := n, out := s.out ++ [Out.time up] }
    .next ((s1.setFld (R.gulTstat 0) 31 0 (off % 2 ^ 32).toNat).setFld (R.gulTstat 0) 32 32 (b2n (decide (3 ≤ n))))

/-- A table of a job that spans devices is held. -/
def State.spanHeld (s : State) : Bool := (List.range 256).any (fun t => t != 0 && s.spanning t)

/-- GTIME_STEP (R394): GTIME goes forward by the last offset, and only when no such table is held. -/
def execGtimeStep (s : State) : Res :=
  let off := (BitVec.ofNat 32 (s.fld (R.gulTstat 0) 31 0)).toInt
  if s.spanHeld ∨ off ≤ 0 then .next s else .next { s.advance off.toNat with slew := 0, slewPhase := 0 }

end Sys2Proof.Machine
end

