-- ==== Sys2Proof/Machine/Kitty.lean ====
section
/-! DEFINITION. Kitties at a partner device (R391 to R393): puts, seals and gets. -/

namespace Sys2Proof.Machine

open Sys2Proof

/-- The kitty map of a rank's device. -/
def State.kitty (s : State) (job : BitVec 32) (src : BitVec 16) : Option Kitty := s.kitties.find? (fun k => k.job == job && k.src == src)
def State.setKitty (s : State) (k : Kitty) : State :=
  { s with kitties := s.kitties.map (fun (x : Kitty) => if x.job = k.job ∧ x.src = k.src then k else x) }

/-- A page by bits [47:16] of an address, and its frame of a parity. -/
def Kitty.page (k : Kitty) (va : Nat) : Option KPage := k.pages.find? (fun p => p.va / 0x10000 == va / 0x10000)
def KPage.frame (p : KPage) (parity : Bool) : Nat := if parity then p.f1 else p.f0

/-- The puts received of a parity. -/
def Kitty.got (k : Kitty) (parity : Bool) : List (Nat × Nat) := if parity then k.got1 else k.got0
def Kitty.setGot (k : Kitty) (parity : Bool) (l : List (Nat × Nat)) : Kitty := if parity then { k with got1 := l } else { k with got0 := l }
/-- Pages of a parity that have come whole. -/
def Kitty.whole (k : Kitty) (parity : Bool) : Nat :=
  (k.pages.filter (fun p => ((k.got parity).filter (fun g => g.1 == p.va / 0x10000)).length == 256)).length

/-- The parity that puts of the next step carry: the one that is not sealed. -/
def Kitty.next (k : Kitty) : Bool := match k.isSealed with | some p => !p | none => if k.got1.isEmpty then false else true

/-- The kitty request a reply answers: its job, device, address, command number and tag (R377). -/
structure KReq where
  job : BitVec 32
  src : BitVec 16
  va : Nat
  cnum : BitVec 32
  tag : BitVec 16
  deriving DecidableEq, Repr

def KReq.of (p : GPkt) : KReq := ⟨p.job, p.sdev, p.addr, p.cnum, BitVec.ofNat 16 p.tag⟩

/-- A kitty reply to a rank's device. -/
def State.kittyReply (s : State) (die : Nat) (r : KReq) (status : Code) (data : List Byte) : State :=
  s.gulSend die (16 * die)
    { ddev := r.src, sdev := s.gulDev, op := 9, cls := 1, job := r.job, cnum := r.cnum, addr := r.va, tag := r.tag.toNat,
      status := status, len := data.length, data := data }

/-- A put: refused outside the kitty map; the frames of the sealed parity are never overwritten (R393). -/
def State.putKitty (s : State) (die : Nat) (r : KReq) (parity : Bool) (data : List Byte) : State :=
  let va := r.va
  match s.kitty r.job r.src with
  | none => s.kittyReply die r K.eLinkKitty []
  | some k =>
    match k.page va with
    | none => s.kittyReply die r K.eLinkKitty []
    | some p =>
      if k.isSealed = some parity then s
      else
        let s1 := (s.landPA 0 (p.frame parity + va % 0x10000) data).1
        let g := (va / 0x10000, va % 0x10000 / 256)
        s1.setKitty (k.setGot parity (if (k.got parity).contains g then k.got parity else k.got parity ++ [g]))

/-- A seal: with as many whole pages as it counts, the parity is the sealed one, and the seal is acknowledged. -/
def State.sealKitty (s : State) (die : Nat) (r : KReq) (count : Nat) : State :=
  match s.kitty r.job r.src with
  | none => s.kittyReply die r K.eLinkKitty []
  | some k =>
    let p := k.next
    if k.whole p = count then
      (s.setKitty ({ k with isSealed := some p, lost := false }.setGot (!p) [])).kittyReply die r 0 []
    else s

/-- A get, answered from the sealed parity. -/
def State.getKitty (s : State) (die : Nat) (r : KReq) (len : Nat) : State :=
  match s.kitty r.job r.src with
  | none => s.kittyReply die r K.eLinkKitty []
  | some k =>
    match k.page r.va, k.isSealed with
    | some p, some par =>
      let (s1, o) := s.takePA 0 (p.frame par + r.va % 0x10000) len
      (match o with
       | some bs => s1.kittyReply die r 0 bs
       | none => s1.kittyReply die r K.eMemUncorrectable [])
    | _, _ => s.kittyReply die r K.eLinkKitty []

/-- KITTY_PUT (R392). -/
def execKittyPut (m : JobTag) (src : BitVec 16) (va : Nat) (parity : Bool) (data : List Byte) (s : State) : Res :=
  .next (s.putKitty 0 ⟨m.job, src, va, m.cnum, m.tag⟩ parity data)

/-- KITTY_SEAL (R392). -/
def execKittySeal (m : JobTag) (src : BitVec 16) (count : Nat) (s : State) : Res :=
  .next (s.sealKitty 0 ⟨m.job, src, 0, m.cnum, m.tag⟩ count)

/-- KITTY_GET (R393). -/
def execKittyGet (m : JobCmd) (src : BitVec 16) (va : Nat) (len : Nat) (tag : BitVec 16) (s : State) : Res :=
  .next (s.getKitty 0 ⟨m.job, src, va, m.cnum, tag⟩ len)

end Sys2Proof.Machine
end

