-- ==== Sys2Proof/Machine/GulRemote.lean ====
section
/-! DEFINITION. Remote memory (R380 to R383): admission at the destination, reads and writes, retries, the remote-request
ports of steward cores. -/

namespace Sys2Proof.Machine

open Sys2Proof

/-! ### Admission (R380, R382, R384) -/

/-- Take a packet out of the engine. -/
def State.dropGin (s : State) (k : Nat) : State := { s with gin := s.gin.eraseIdx k }

/-- Answer a packet. -/
def State.gulReply (s : State) (g : GIn) (status : Code) (data : List Byte) : State :=
  match g.pkt.replyOp with
  | some op => s.gulSend g.die g.link (g.pkt.reply op status data)
  | none => s

/-- An admitted channel message joins its channel; `arg` names the channel as a handle does (log entry 39). -/
def State.gulMessage (s : State) (t : Nat) (p : GPkt) : State :=
  match s.sendCheck (BitVec.ofNat 64 p.arg.toNat) p.data.length 256 (fun d c => s.chOfTable t d c) with
  | .ok (d, c) => { s with chmsgs := s.chmsgs ++ [⟨d, c, .filler, t, s.ecmd t, p.data, false, 0, false⟩] }
  | .error _ => s

/-- What an admitted packet does at once: reads and writes wait for GUL_REMOTE_READ and GUL_REMOTE_WRITE, collective data
for the port's request on this rank. -/
def State.gulAdmitted (s : State) (k t : Nat) (g : GIn) : State :=
  let p := g.pkt
  if p.op = 0 ∨ p.op = 2 then { s with gin := s.gin.set k { g with admitted := some (t, s.ecmd t) } }
  else if p.op = 4 then (s.dropGin k).gulMessage t p
  else if p.op = 6 then
    if s.colls.any (fun c => c.table == t && c.seq == p.arg.toNat) then (s.dropGin k).gulUnit t p else s
  else s.dropGin k

/-- A packet of a command that has not started here is answered E_LINK_RETRY and counted (R380). -/
def State.gulRetry (s : State) (k t : Nat) (g : GIn) : State :=
  (((s.dropGin k).satFld (R.gulJstat 0 t) 63 56 1).satFld (R.gulJstat 1 t) 63 56 1).gulReply g K.eLinkRetry []

/-- A packet of a job against the table's command (R380). A command start brings the number of a command that has not
started here; commit messages also meet a command past its decision (R388). -/
def State.gulJobPacket (s : State) (k t : Nat) (g : GIn) : State :=
  let c := (s.cnum t).toNat
  let n := g.pkt.cnum.toNat
  if g.pkt.op = 10 ∧ c < n ∧ s.canStart t then (s.dropGin k).startCmd t (StartMsg.ofPkt g.pkt)
  else if n = c ∧ g.pkt.op = 5 then (s.dropGin k).commitPacket t g.pkt
  else if n = c ∧ (s.gphase t = 1 ∨ s.gphase t = 2) then s.gulAdmitted k t g
  else if c < n then s.gulRetry k t g
  else (s.dropGin k).gulStale t

/-- GUL_REMOTE_ADMIT (R380): the k-th packet at the device's engines. Kitty packets belong to no table here (R391); a reply
that waits for a frame of its page is answered again (R293). -/
def execGulRemoteAdmit (k : Nat) (s : State) : Res :=
  match s.gin[k]? with
  | none => .next s
  | some g =>
    let p := g.pkt
    if g.admitted.isSome then .next s
    else if p.isReply then .next ((s.dropGin k).gulAnswer p)
    else if p.op = 7 ∧ p.cls = 2 then .next ((s.dropGin k).sealKitty g.die (KReq.of p) p.arg.toNat)
    else if p.op = 7 then .next ((s.dropGin k).putKitty g.die (KReq.of p) (p.arg.getLsbD 0) p.data)
    else if p.op = 8 then .next ((s.dropGin k).getKitty g.die (KReq.of p) p.len)
    else if p.job = 0 then
      if p.op = 0 ∨ p.op = 2 then .next { s with gin := s.gin.set k { g with admitted := some (0, 0) } } else .next (s.dropGin k)
    else match s.jobTable p.job with
      | none => .next ((s.dropGin k).gulReply g K.eLinkJob [])
      | some t => .next (s.gulJobPacket k t g)

/-! ### Remote writes and reads (R381) -/

/-- A write's effect: of a job's packet through its table's map, atm = 1 asked for; of a packet of job 0 at a physical
address. -/
def State.remoteLand (s : State) (l t : Nat) (p : GPkt) : State × Land :=
  if t = 0 then s.landFor 0 0 p.addr p.data else s.landVA (gulAgent l) t p.addr true true p.data

/-- GUL_REMOTE_WRITE (R381): acknowledged once the bytes have landed; a refused write is not performed. -/
def execGulRemoteWrite (k : Nat) (s : State) : Res :=
  match s.gin[k]? with
  | none => .next s
  | some g =>
    match g.admitted with
    | none => .next s
    | some (t, _) =>
      if g.pkt.op ≠ 2 then .next s
      else match s.remoteLand g.link t g.pkt with
        | (s1, .done) => .next ((s1.dropGin k).gulReply g 0 [])
        | (_, .held) => .next s
        | (_, l) => .next ((s.dropGin k).gulReply g l.code [])

/-- GUL_REMOTE_READ (R381). -/
def execGulRemoteRead (k : Nat) (s : State) : Res :=
  match s.gin[k]? with
  | none => .next s
  | some g =>
    match g.admitted with
    | none => .next s
    | some (t, _) =>
      if g.pkt.op ≠ 0 then .next s
      else match (if t = 0 then s.takeFor 0 0 g.pkt.addr g.pkt.len else s.takeVA (gulAgent g.link) t g.pkt.addr g.pkt.len true) with
        | (s1, .ok bs) => .next ((s1.dropGin k).gulReply g 0 bs)
        | (s1, .error l) => .next ((s1.dropGin k).gulReply g l.code [])

/-- GUL_RETRY_RESEND (R380): the k-th unanswered request is sent again after E_LINK_RETRY. -/
def execGulRetryResend (k : Nat) (s : State) : Res :=
  match s.greqs[k]? with
  | none => .next s
  | some r =>
    if r.retry then
      let die := if r.core < 32 then r.core / 16 else 0
      .next ({ s with greqs := s.greqs.set k { r with retry := false } }.gulSend die (16 * die) r.pkt)
    else .next s

/-! ### The remote-request ports (R383, R401) -/

/-- A port takes a request while GUL_QRES.done is 1. -/
def State.qopOpen (s : State) (core : Nat) : Bool := decide (core < 32) && bit 16 (s.reg (R.gulQres core)) && !s.coreFenced core

/-- GUL_QRES as done shows it. -/
def State.setQres (s : State) (core : Nat) (status : Code) (done : Bool) (flags : BitVec 5) : State :=
  s.setReg (R.gulQres core) (BitVec.ofNat 64 (status.toNat + b2n done * 2 ^ 16 + flags.toNat * 2 ^ 17))

/-- A request starts. -/
def State.qopStart (s : State) (core t : Nat) (fill : Bool) (sid : BitVec 16) (coll : Option Nat) : State :=
  { s.setQres core 0 false 0 with
    gops := s.gops ++ [(core, { table := t, fill := fill, sid := sid, coll := coll, cmd := s.ecmd t })] }

/-- The job of a port's table: none where the table belongs to no job that spans devices; 0 for table 0. -/
def State.qopJob (s : State) (t : Nat) : Option (BitVec 32 × BitVec 32) :=
  if t = 0 then some (0, 0) else if s.spanning t then some (s.jid t, s.cnum t) else none

/-- The fill of R383: variant STXF on a sync identifier of the table. -/
def State.fillSync (s : State) (die t : Nat) (sid : BitVec 16) (v : Word) : State :=
  let s := s.syncLearn (gulAgent (16 * die)) die t (sid.setWidth 64)
  match s.syncTrans (gulAgent (16 * die)) die t (sid.setWidth 64) with
  | .error _ => s
  | .ok h =>
    { s with syncNext := s.syncNext + 1 }.sendSync
      { id := s.syncNext, who := .filler, v := .stxf, home := h, value := v, timed := false, deadline := 0, table := t,
        cmd := s.ecmd t, early := false, ruled := false, expired := false, stage := .travelling }

/-- A request ends at once (R383): done with its status, and the fill it asked for. -/
def State.qopEnd (s : State) (core t : Nat) (fill : Bool) (sid : BitVec 16) (code : Code) : State :=
  let s1 := s.setQres core code true 0
  if fill then s1.fillSync (core / 16) t sid (code.setWidth 64) else s1

/-- Pieces of a request: offset and length of each packet of 256 bytes. -/
def qopParts (len : Nat) : List (Nat × Nat) :=
  (List.range ((len + 255) / 256)).map (fun i => (256 * i, min 256 (len - 256 * i)))

/-- Send one packet of a request and wait for its answer; tags count on. -/
def State.qopPacket (s : State) (core : Nat) (base : GPkt) (rva lva : Nat) (data : List Byte) (x : Nat × Nat) : State :=
  let p : GPkt := { base with addr := rva + x.1, len := x.2, tag := s.gtag % 65536, data := (data.drop x.1).take x.2 }
  let s1 := { s with gtag := (s.gtag + 1) % 65536, greqs := s.greqs ++ [({ core := core, pkt := p, lva := lva + x.1 } : GReq)] }
  s1.gulSend (core / 16) (16 * (core / 16)) p

/-- Send a request's packets in address order. -/
def State.qopSend (s : State) (core : Nat) (base : GPkt) (rva lva : Nat) (data : List Byte) (parts : List (Nat × Nat)) : State :=
  parts.foldl (fun s x => s.qopPacket core base rva lva data x) s

/-- The packet of a port's request. -/
def State.qopBase (s : State) (op : Nat) (ddev : BitVec 16) (job cnum : BitVec 32) : GPkt :=
  { ddev := ddev, sdev := s.gulDev, op := op, cls := 0, job := job, cnum := cnum }

/-- GUL_QOP_READ (R383). -/
def execGulQopRead (core : Nat) (t : BitVec 8) (ddev : BitVec 16) (fill : Bool) (sid : BitVec 16) (len : BitVec 21) (s : State) : Res :=
  let n := len.toNat
  if ¬ s.qopOpen core ∨ n = 0 ∨ 1048576 < n then .next s
  else match s.qopJob t.toNat with
    | none => .next (s.qopEnd core t.toNat fill sid K.eLinkJob)
    | some (job, cnum) =>
      .next ((s.qopStart core t.toNat fill sid none).qopSend core (s.qopBase 0 ddev job cnum) (s.fld (R.gulQrva core) 47 0)
        (s.fld (R.gulQlva core) 47 0) [] (qopParts n))

/-- GUL_QOP_WRITE (R383): the local data is read first. -/
def execGulQopWrite (core : Nat) (t : BitVec 8) (ddev : BitVec 16) (fill : Bool) (sid : BitVec 16) (len : BitVec 21) (s : State) : Res :=
  let n := len.toNat
  if ¬ s.qopOpen core ∨ n = 0 ∨ 1048576 < n then .next s
  else match s.qopJob t.toNat with
    | none => .next (s.qopEnd core t.toNat fill sid K.eLinkJob)
    | some (job, cnum) =>
      let s1 := s.qopStart core t.toNat fill sid none
      match s1.takeFor (core / 16) t.toNat (s.fld (R.gulQlva core) 47 0) n with
      | (s2, .error l) => .next (s2.gulFail core t.toNat l.code)
      | (s2, .ok bs) =>
        .next (s2.qopSend core (s.qopBase 2 ddev job cnum) (s.fld (R.gulQrva core) 47 0) 0 bs (qopParts n))

end Sys2Proof.Machine
end

