-- ==== Sys2Proof/Machine/Collective.lean ====
section
/-! DEFINITION. Collectives as events (R383 to R387): the descriptor, a unit's combination, the end of a port's request. -/

namespace Sys2Proof.Machine

open Sys2Proof

/-- GUL_QOP_COLLECTIVE (R384): the descriptor is read from local memory; one that R384 does not allow, or whose number is
not the next of the command, fails the command. -/
def execGulQopCollective (core : Nat) (t : BitVec 8) (fill : Bool) (sid : BitVec 16) (s : State) : Res :=
  if ¬ s.qopOpen core then .next s
  else if t = 0 ∨ ¬ s.spanning t.toNat then .next (s.qopEnd core t.toNat fill sid K.eLinkJob)
  else
    match s.takeFor (core / 16) t.toNat (s.fld (R.gulQlva core) 47 0) 32 with
    | (s1, .error l) => .next ((s1.qopStart core t.toNat fill sid none).gulFail core t.toNat l.code)
    | (s1, .ok bs) =>
      let d := CDesc.of (s1.jid t.toNat).toNat (s1.tbl t.toNat).num bs
      if ¬ descOk bs ∨ d.seq ≠ (s1.tbl t.toNat).colls then
        .next ((s1.qopStart core t.toNat fill sid none).gulFail core t.toNat K.eLinkColl)
      else
        .next { (s1.qopStart core t.toNat fill sid (some d.seq)).updTbl t.toNat (fun x => { x with colls := x.colls + 1 }) with
          colls := s1.colls ++ [({ table := t.toNat, seq := d.seq, core := core, job := (s1.jid t.toNat).toNat,
                                   num := (s1.tbl t.toNat).num, desc := bs } : Coll)] }

/-- Send a unit to ranks. -/
def State.sendUnit (s : State) (c : Coll) (u : Nat) (bs : List Byte) (ranks : List Nat) : State :=
  { s with out := s.out ++ ranks.map (fun r => Out.unit (s.jid c.table) (s.cnum c.table) c.seq u r c.digest bs) }

/-- A unit's result lands at its own place and goes down the tree where every rank has it. -/
def State.placeUnit (s : State) (c : Coll) (u : Nat) (bs : List Byte) : State :=
  let d := c.d
  match s.landVA (gulAgent (16 * (c.core / 16))) c.table (d.dst + u * d.per * d.osz) true false bs with
  | (s1, .done) =>
    let s2 := s1.updColl c.table c.seq (fun c => { c with placed := c.placed ++ [u], sent := c.sent ++ [u] })
    if d.all then s2.sendUnit c u bs (s2.children c.table) else s2
  | (_, .held) => s
  | (_, l) => s.gulFail c.core c.table l.code

/-- Flags of a collective, in the bit order of R183. -/
def State.collFlags (s : State) (core : Nat) (f : Fl) : State := s.updGop core (fun o => { o with flags := o.flags ||| f })

/-- Combine the partial results of the children in the order of the levels. -/
def CDesc.combineAll (d : CDesc) (u m : Nat) (own : List Byte) (parts : List (List Byte)) : List Byte × Fl :=
  parts.foldl (fun acc r =>
    let (x, f) := d.combine u m acc.1 r
    (x, acc.2 ||| f)) (own, 0)

/-- A unit on its way up: this rank's input with the units of its children. -/
def State.unitUp (s : State) (c : Coll) (u : Nat) : State :=
  let d := c.d
  let t := c.table
  let m := d.elems u
  match (if d.op = 3 then some [] else (s.children t).mapM (fun r => c.stream r (u * d.per * d.msz) (m * d.msz))) with
  | none => s
  | some parts =>
    match s.takeVA (gulAgent (16 * (c.core / 16))) t (d.src + u * d.per * d.isz) (m * d.isz) true with
    | (s1, .error l) => s1.gulFail c.core t l.code
    | (s1, .ok bs) =>
      let (x, f1) := d.combineAll u m (d.enter m bs) parts
      if s1.rank t ≠ 0 then
        ((s1.collFlags c.core f1).updColl t c.seq (fun c => { c with sent := c.sent ++ [u] })).sendUnit c u x [treeParent (s1.rank t)]
      else
        let (y, f2) := d.finish m x
        (s1.collFlags c.core (f1 ||| f2)).placeUnit c u y

/-- A unit on its way down: the result that the parent sent. -/
def State.unitDown (s : State) (c : Coll) (u : Nat) : State :=
  let d := c.d
  match c.stream (treeParent (s.rank c.table)) (u * d.per * d.osz) (d.elems u * d.osz) with
  | none => s
  | some bs => s.placeUnit c u bs

/-- COLLECTIVE_UNIT_COMBINE (R385 to R387): a unit goes up once it is whole here, and its result comes down. -/
def execCollectiveUnitCombine (t : Nat) (seq : BitVec 32) (u : Nat) (s : State) : Res :=
  match s.coll t seq.toNat with
  | none => .next s
  | some c =>
    if c.d.units ≤ u ∨ c.placed.contains u then .next s
    else if s.rank t = 0 then .next (s.unitUp c u)
    else if c.d.op = 3 ∨ c.sent.contains u then .next (if c.d.all then s.unitDown c u else s)
    else .next (s.unitUp c u)

/-- GUL_QOP_DONE (R383): every packet is answered and a collective is complete here, or has failed. -/
def execGulQopDone (core : Nat) (s : State) : Res :=
  match s.gop core with
  | none => .next s
  | some o =>
    let whole : Bool := match o.coll with
      | none => true
      | some q => (match s.coll o.table q with | some c => s.collDone c || o.status != 0 | none => true)
    if s.greqs.any (fun r => r.core == core) || !whole then .next s
    else
      let s1 := { s.setQres core o.status true o.flags with
        gops := s.gops.filter (fun x => x.1 != core)
        colls := s.colls.filter (fun c => !(c.table == o.table && o.coll == some c.seq)) }
      let s2 := if o.fill then s1.fillSync (core / 16) o.table o.sid (o.status.setWidth 64) else s1
      .next (s2.tryReady o.table)

end Sys2Proof.Machine
end

