-- ==== Sys2Proof/Machine/LinkCheck.lean ====
section
/-! DEFINITION. The rules of R229 on a cell's link settings, shared by the check of a deal (R355) and of a meld (R363). -/

namespace Sys2Proof.Machine

open Sys2Proof

/-- The link settings of a cell, as a reader of the registers at cell-block offsets 0x200 to 0x278. -/
abbrev LinkRegs := Nat → Word

def linkRoute (rd : LinkRegs) (o : Nat) : Nat := field (3 * o + 2) (3 * o) (rd 0x200)
def linkSteer (rd : LinkRegs) (p : Nat) : Word := rd (0x208 + 8 * p)
def linkPull (rd : LinkRegs) (i : Nat) : Word := rd (0x240 + 8 * i)

/-- A route names its own output port or a reserved source; reserved bits. -/
def routeBad (rd : LinkRegs) : Bool :=
  field 63 12 (rd 0x200) != 0 || (List.range 4).any (fun o => decide (4 < linkRoute rd o) || linkRoute rd o == o + 1)

/-- Reserved bits, token counts or switch targets of a steering register that R229 refuses. -/
def steerBad (w : Word) : Bool :=
  field 63 16 w != 0 || decide (4 < swT w) || decide (4 < swF w) || (mgEn w && mgAPort w == mgBPort w)

/-- The steering data inputs that an input port feeds. -/
def feeds (rd : LinkRegs) (p : Nat) : Nat :=
  ((List.range 4).map (fun q =>
    let w := linkSteer rd q
    b2n (swEn w && swData w == p) + b2n (mgEn w && mgAPort w == p) + b2n (mgEn w && mgBPort w == p))).sum

def routed (rd : LinkRegs) (p : Nat) : Bool := (List.range 4).any (fun o => linkRoute rd o == p + 1)

/-- An input port feeds two steering data inputs, or one and a route. -/
def feedBad (rd : LinkRegs) : Bool :=
  (List.range 4).any (fun p => decide (1 < feeds rd p) || (feeds rd p == 1 && routed rd p))

/-- The ports that an enabled switch or merge of port p takes tokens from, and those it sends to. -/
def swIn (w : Word) (p : Nat) : List Nat := if swEn w then [p, swData w] else []
def swOut (w : Word) : List Nat := if swEn w then [swT w, swF w].filter (fun x => decide (x < 4)) else []
def mgIn (w : Word) (p : Nat) : List Nat := if mgEn w then [p, mgAPort w, mgBPort w] else []
def mgOut (w : Word) : List Nat := if mgEn w then [mgOutPort w] else []

/-- A unit with a crossing input targets an inside output. -/
def crossBad (k : CellRef) (rd : LinkRegs) : Bool :=
  (List.range 4).any (fun p =>
    let w := linkSteer rd p
    ((swIn w p).any (fun x => !insidePort k x) && (swOut w).any (insidePort k)) ||
    ((mgIn w p).any (fun x => !insidePort k x) && (mgOut w).any (insidePort k)))

/-- The ports that the settings use. -/
def usedPorts (rd : LinkRegs) : List Nat :=
  (List.range 4).flatMap (fun o => if linkRoute rd o = 0 then [] else [o, linkRoute rd o - 1]) ++
  (List.range 4).flatMap (fun p =>
    let w := linkSteer rd p
    swIn w p ++ swOut w ++ mgIn w p ++ mgOut w) ++
  (List.range 8).filterMap (fun i => if bit 15 (linkPull rd i) then some (field 13 12 (linkPull rd i)) else none)

/-- Reserved bits of a pull point, or a word that a memory cell lacks. -/
def pullBad (mem : Bool) (w : Word) : Bool :=
  field 63 16 w != 0 || bit 14 w || (bit 15 w && mem && decide (1024 ≤ field 11 0 w))

/-- Two valid pull points name the same word and port. -/
def pullTwice (rd : LinkRegs) : Bool :=
  (List.range 8).any (fun i => (List.range i).any (fun j =>
    let a := linkPull rd i
    let b := linkPull rd j
    bit 15 a && bit 15 b && field 13 0 a == field 13 0 b))

/-- A cell's link settings keep R229; `fen` says which ports lie on a fenced boundary. -/
def linksOk (k : CellRef) (rd : LinkRegs) (fen : Nat → Bool) : Bool :=
  !routeBad rd && (List.range 4).all (fun p => !steerBad (linkSteer rd p)) && !feedBad rd && !crossBad k rd &&
  (usedPorts rd).all (fun p => !fen p) && (List.range 8).all (fun i => !pullBad (isMemCell k) (linkPull rd i)) && !pullTwice rd

end Sys2Proof.Machine
end

