-- ==== Sys2Proof/Machine/Deal.lean ====
section
/-! DEFINITION. Deals (R350 to R355, R546): the request, the check of the island images, go and load. -/

namespace Sys2Proof.Machine

open Sys2Proof

/-! ### The image in the deal areas (R352, R353, R354) -/

/-- The memory cells of an island in cell-index order. -/
def State.memCells (s : State) (i : Nat) : List CellRef := (s.islCells i).filter isMemCell

/-- How many bytes of an image the deal areas can hold from its offset on. -/
def State.imgRoom (s : State) (t img i : Nat) : Nat := (s.memCells i).length * (s.dealArea t - 64 * img)

/-- Where a beat of an island's image lies. -/
def State.imgBlock (s : State) (t img i b : Nat) : Option Nat :=
  let cs := s.memCells i
  (cs[b % cs.length]?).map (fun k => sramBase k + 0x100000 - s.dealArea t + 64 * img + 32 * (b / cs.length))

/-- A beat of an island's image. -/
def State.imgBeat (s : State) (t img i b : Nat) : List Byte :=
  match s.imgBlock t img i b with
  | some a => s.rdN a 32
  | none => []

/-- Read the beats of n bytes of an image from byte `a` on (R296, R297): blocks that hold an upset are corrected, or one is
uncorrectable. -/
def State.readImgPart (s : State) (t img i a n : Nat) : State × Bool :=
  s.readRange (islDie i) 0 t []
    (((List.range ((n + 31) / 32)).filterMap (fun j => s.imgBlock t img i (a / 32 + j))).filter (fun b => !(s.upsetOf b).isEmpty))

/-- Whole beats of the image from byte `a` on, for a multiple of 32. -/
def State.imgBytes (s : State) (t img i a n : Nat) : List Byte :=
  ((List.range ((n + 31) / 32)).flatMap (fun j => s.imgBeat t img i (a / 32 + j))).take n

structure FrameHead where
  cell : Nat
  target : Nat
  resv : Nat
  off : Nat
  len : Nat
  src : Nat
  deriving DecidableEq, Repr

def FrameHead.of (bs : List Byte) : FrameHead :=
  let v := leNat bs
  ⟨v % 16, v / 2 ^ 4 % 16, v / 2 ^ 8 % 2 ^ 24, v / 2 ^ 32 % 2 ^ 32, v / 2 ^ 64 % 2 ^ 32, v / 2 ^ 96 % 2 ^ 32⟩

/-- The parts of a header as numbers. -/
structure ImgHead where
  magic : Nat
  version : Nat
  flags : Nat
  frames : Nat
  trow : Nat
  tcol : Nat
  bytes : Nat
  resv : Nat
  deriving DecidableEq, Repr

def ImgHead.of (bs : List Byte) : ImgHead :=
  let v := leNat bs
  ⟨v % 2 ^ 32, v / 2 ^ 32 % 2 ^ 16, v / 2 ^ 48 % 2 ^ 8, v / 2 ^ 64 % 2 ^ 16, v / 2 ^ 80 % 2 ^ 8, v / 2 ^ 88 % 2 ^ 8,
   v / 2 ^ 96 % 2 ^ 32, v / 2 ^ 56 % 2 ^ 8 + v / 2 ^ 128⟩

def ImgHead.short (h : ImgHead) : Bool := h.flags.testBit 1

def State.imgHead (s : State) (t img i : Nat) : ImgHead := ImgHead.of (s.imgBytes t img i 0 64)
def State.imgFrames (s : State) (t img i n : Nat) : List FrameHead :=
  (List.range n).map (fun j =>
    FrameHead.of ((s.imgBytes t img i (64 + 32 * (j / 2)) 32).drop (16 * (j % 2)) |>.take 16))

/-- Read an island's image: header, frame descriptors, payloads. -/
def State.readImg (s : State) (t img i : Nat) : State × Bool :=
  let (s1, ok) := s.readImgPart t img i 0 64
  if ¬ ok then (s1, false)
  else
    let n := min 256 (s1.imgHead t img i).frames
    let (s2, ok2) := s1.readImgPart t img i 64 (16 * n)
    (s2.imgFrames t img i n).foldl (fun (r : State × Bool) f =>
      if r.2 then r.1.readImgPart t img i f.src (min f.len 0x100000) else r) (s2, ok2)

def State.readImgs (s : State) (t img : Nat) : State × Bool :=
  (s.tableIsls t).foldl (fun (r : State × Bool) i => if r.2 then r.1.readImg t img i else r) (s, true)

/-! ### The check of one island (R355) -/

/-- The size of a target in bytes (R354). -/
def targetSize (k : CellRef) (target : Nat) : Nat :=
  match target with
  | 0 => 16 * imemWords k
  | 1 => sramSize k
  | 2 => 128
  | _ => 1024

/-- E_DEAL_FORMAT of the header. -/
def ImgHead.formatOk (h : ImgHead) (room : Nat) : Bool :=
  h.magic == 0x444E4148 && h.version == 1 && decide (h.flags < 4) && h.resv == 0 && decide (h.trow < 8) &&
  decide (1 ≤ h.frames) && decide (h.frames ≤ 256) && decide (h.bytes ≤ if h.short then 327680 else 655360) &&
  decide (64 + 16 * h.frames ≤ room)

/-- E_DEAL_FORMAT of a frame descriptor. -/
def FrameHead.formatOk (f : FrameHead) (room : Nat) : Bool :=
  f.resv == 0 && decide (f.target < 4) && f.off % 32 == 0 && f.len % 32 == 0 && f.len != 0 && f.src % 32 == 0 &&
  decide (f.src + f.len ≤ room)

/-- E_DEAL_RANGE of the header. -/
def State.tposOk (s : State) (i : Nat) (h : ImgHead) : Bool :=
  let a := R.islTpos i
  h.trow == s.fld a 2 0 && h.tcol == s.fld a 7 3 && decide (h.trow ≤ s.fld a 11 8) && decide (h.tcol ≤ s.fld a 20 16)

/-- E_DEAL_RANGE of a frame. -/
def State.frameRange (s : State) (i : Nat) (short : Bool) (f : FrameHead) : Bool :=
  decide (f.cell < s.cellCount i) && !(short && decide (8 ≤ f.cell)) && decide (f.off + f.len ≤ targetSize ⟨i, f.cell⟩ f.target)

def State.imgFrame (s : State) (t img i : Nat) (f : FrameHead) : DFrame :=
  ⟨f.cell, f.target, f.off, s.imgBytes t img i f.src f.len⟩

/-- The bytes of a cell's link settings after the frames of a hand: later frames go over earlier ones. -/
def State.linkBytes (s : State) (k : CellRef) (fs : List DFrame) : Bytes :=
  let cur := Bytes.writeN [] 0 ((List.range 16).flatMap (fun j => leBytes 8 (s.reg (cellReg k (0x200 + 8 * j))).toNat))
  (fs.filter (fun f => f.cell == k.c && f.target == 2)).foldl (fun m f => Bytes.writeN m f.off f.bytes) cur

def linkReader (m : Bytes) : LinkRegs := fun o => BitVec.ofNat 64 (m.readLE (o - 0x200) 8)

/-- The check of one island: the code of the first test that fails, or the image. The cells that a row declared short
leaves idle take no part (R52). -/
def State.checkIsl (s : State) (t img i : Nat) : Except Code IslImg :=
  let room := s.imgRoom t img i
  let h := s.imgHead t img i
  if room < 64 ∨ ¬ h.formatOk room then .error K.eDealFormat
  else
    let fs := s.imgFrames t img i h.frames
    if ¬ fs.all (fun f => f.formatOk room) ∨ (fs.map FrameHead.len).sum ≠ h.bytes then .error K.eDealFormat
    else if ¬ s.tposOk i h ∨ ¬ fs.all (s.frameRange i h.short) then .error K.eDealRange
    else
      let ds := fs.map (s.imgFrame t img i)
      let idle (k : CellRef) : Bool := h.short && decide (8 ≤ k.c)
      if (s.islCells i).all (fun k => idle k || linksOk k (linkReader (s.linkBytes k ds)) (s.fenced k)) then
        .ok ⟨i, h.flags.testBit 0, h.short, ds⟩
      else .error K.eDealSteer

/-- Every island checks before any applies; the first failure in the order of the islands rejects the hand. -/
def State.checkAll (s : State) (t img : Nat) : List Nat → Except Code (List IslImg)
  | [] => .ok []
  | i :: r =>
    match s.checkIsl t img i with
    | .error c => .error c
    | .ok x =>
      match State.checkAll s t img r with
      | .error c => .error c
      | .ok l => .ok (x :: l)

/-! ### The load (R103, R139 to R141, R144, R165, R199, R215, R272, R273, R350) -/

/-- A cell as a deal of a hand leaves it before its frames load: its slots are empty and its engines idle (R199), and
CELL_SENG goes on showing the last SSTART and halt (R212). ISL_CYCLE restarts, so a damper window starts (R140, R205). -/
def Cell.dealt (c : Cell) : Cell :=
  { imem := c.imem, sieve := c.sieve, fe := c.fe, fe1 := c.fe1, fe2 := c.fe2, engines := c.idleEngines.engines }

/-- The counters that a deal of a hand sets to 0 in an island's and a cell's registers, and the faults it clears. -/
def State.dealRegs (s : State) (i : Nat) : State :=
  let a := R.islSeq i
  let s1 := (((s.setFld a 11 11 0).setFld a 6 3 0).setFld a 31 16 0).setReg (R.dampHeld i) 0
  let s2 := [R.stallFifo i, R.stallStream i, R.stallSync i, R.stallStretch i, R.islCycle i].foldl (fun s r => s.setReg r 0) s1
  (s.islCells i).foldl (fun s k => ((s.setFld (R.cellFault k) 31 31 0).setReg (R.sieveStat k) 0).setReg (R.sieveHold k) 0) s2

def State.clearIsl (s : State) (i : Nat) : State :=
  let s1 := (s.islCells i).foldl (fun s k => s.updCell k Cell.dealt) (s.dealRegs i)
  s1.updIsl i (fun x => { x with sched := 0, drives := [], pops := [], dampW := none, dheld := [], droop := false, stretch := 0 })

/-- Write the link settings of a cell. -/
def State.putLinks (s : State) (k : CellRef) (off : Nat) (bs : List Byte) : State :=
  (List.range (bs.length / 8)).foldl (fun s j =>
    let o := off + 8 * j
    if o < 0x28 ∨ 0x40 ≤ o then s.setReg (cellReg k (0x200 + o)) (BitVec.ofNat 64 (leNat ((bs.drop (8 * j)).take 8))) else s) s

def State.applyFrame (s : State) (i : Nat) (f : DFrame) : State :=
  let k : CellRef := ⟨i, f.cell⟩
  match f.target with
  | 0 => s.updCell k (fun c => { c with imem := Bytes.writeN c.imem f.off f.bytes })
  | 1 => s.wrN (sramBase k + f.off) f.bytes
  | 2 => s.putLinks k f.off f.bytes
  | _ => s.updCell k (fun c =>
      { c with
        desc := Bytes.writeN c.desc f.off f.bytes,
        descOk := (List.range 8).foldl (fun m j =>
          if overlap (128 * j) 128 f.off f.bytes.length then m ||| (1#8 <<< j) else m) c.descOk })

/-- Load an island's frames and start its cells at word 0; the southern cells of a row declared short stay idle (R52). -/
def State.loadIsl (s : State) (x : IslImg) : State :=
  let s1 := x.frames.foldl (fun s f => s.applyFrame x.isl f) s
  let s2 := (s1.islCells x.isl).foldl (fun s k =>
    if x.short ∧ 8 ≤ k.c then s else s.updCell k (fun c => { c with run := .running })) s1
  ((s2.updIsl x.isl (fun y => { y with cleanExit := x.clean, issued := s.gtime })).setFld (R.islSeq x.isl) 2 0 1).noteMelds

/-! ### The commands -/

/-- TBL_REQ_DEAL (R350, R546): the first deal of a command starts it. -/
def execTblReqDeal (t : Nat) (img : BitVec 12) (s : State) : Res :=
  if ¬ s.tvalid t ∨ s.tbusy t then .next s
  else if s.tstate t = 3 ∨ s.tstate t = 4 ∨ (¬ s.running t ∧ ¬ s.mayAutoStart t) then .next (s.setRes t K.eTblState false)
  else
    let s1 := if s.running t then s else s.startCmd t ownStart
    .next ((((s1.setRes t 0 true).setTstate t 1).updTbl t (fun x => { x with deal := .wait img.toNat })).homeSees t)

/-- DEAL_CHECK (R350, R355): once the table is drained. A rejected deal changes no state, no epoch and no count. An image
with an uncorrectable block is rejected with E_MEM_UNCORRECTABLE (R297, log entry 17). -/
def execDealCheck (t : Nat) (s : State) : Res :=
  match (s.tbl t).deal with
  | .wait img =>
    if ¬ s.drained t then .next s
    else
      let (s1, ok) := s.readImgs t img
      if ¬ ok then .next ((s1.failNow t K.eMemUncorrectable).settleJob t)
      else match s1.checkAll t img (s1.tableIsls t) with
        | .error c => .next ((s1.failNow t c).settleJob t)
        | .ok l => .next (s1.updTbl t (fun x => { x with deal := .go l }))
  | _ => .next s

/-- DEAL_GO (R350, R351): islands discard and count; an unclean exit fails the command before anything is loaded. -/
def execDealGo (t : Nat) (s : State) : Res :=
  match (s.tbl t).deal with
  | .go l =>
    let s1 := s.discardTable t
    if (s.tbl t).dealt ∧ s1.uncleanSum t ≠ 0 then .next ((s1.failNow t K.eUncleanExit).settleJob t)
    else
      let s2 := (s1.tableIsls t).foldl (fun s i => s.clearIsl i) (s1.nextEpoch t)
      .next (s2.updTbl t (fun x => { x with deal := .load l, dealt := true }))
  | _ => .next s

/-- A step that could not be killed is over: what a grant overran is noted (R345). -/
def State.noteOverrun (s : State) (t : Nat) : State :=
  match s.jobOf t with
  | none => s
  | some j =>
    match j.graceFrom with
    | some g => s.updJob j.handle (fun j => { j with overrun := (s.gtime - g).toNat, graceFrom := none })
    | none => s

/-- The last island has started its hand: the deal is over and a kill that waited begins (R347, R360). -/
def State.dealOver (s : State) (t : Nat) : State :=
  let s1 := ((s.updTbl t (fun x => { x with deal := .none })).setRes t 0 false).setTstate t 2
  match (s1.tbl t).kill with
  | none => s1
  | some k => (s1.noteOverrun t).killBegins t k false

/-- DEAL_LOAD_DONE (R350). -/
def execDealLoadDone (isl : Nat) (s : State) : Res :=
  let t := (s.isl isl).table
  match (s.tbl t).deal with
  | .load l =>
    match l.find? (fun x => x.isl == isl) with
    | none => .next s
    | some x =>
      let r := l.filter (fun y => y.isl != isl)
      let s1 := (s.loadIsl x).updTbl t (fun y => { y with deal := .load r })
      if r.isEmpty then .next (s1.dealOver t) else .next s1
  | _ => .next s

end Sys2Proof.Machine
end

