-- ==== Sys2Proof/Machine/Paging.lean ====
section
/-! DEFINITION. Pages as events (R285, R288 to R293, R305): copies, sweeps, the step copy, cache invalidation, pools. -/

namespace Sys2Proof.Machine

open Sys2Proof

/-- VERSION_COPY_DONE (R288): the page copy in progress on a die completes; the writer's next attempt goes to W. -/
def execVersionCopyDone (die : BitVec 1) (s : State) : Res :=
  match s.copying die.toNat with
  | some v => .next (s.finishVersion die.toNat v)
  | none => .next s

/-! ### The sweep and the drop (R289, R292) -/

/-- The page-map entry that names a record. -/
def State.recEntry (s : State) (t i : Nat) : Option Nat := (s.vpages.find? (fun x => x.1 == 65536 * t + i)).map Prod.snd

/-- Clear ver and vidx of the entry of a record that holds nothing any more (R287). -/
def State.freeEntry (s : State) (t i pa : Nat) : State :=
  let b := s.rd64 pa
  { s.wrEntry pa (b % 2 ^ 48 - (if b.testBit 7 then 2 ^ 7 else 0)) with vpages := SMap.erase (65536 * t + i) s.vpages }

/-- One record of the sweep: a W of the committed epoch becomes C, the old C becomes K if the page is step-pending from
an earlier step, and otherwise returns to the pool; every other W is dropped. -/
def State.sweepRec (t : Nat) (s0 : State) (i : Nat) : State :=
  let s := s0.readBlocks t (blockOf (s0.recAddr t i) :: (s0.recEntry t i).toList.map blockOf)
  let r := s.vrec t i
  match s.recEntry t i with
  | none => s
  | some pa =>
    if ¬ r.wvalid then s
    else
      let b := s.rd64 pa
      let e : PageEnt := ⟨pa, b, false⟩
      let commit := !(s.tbl t).dropping && r.wcmd == s.ccmd t
      let toK := commit && !(s.tbl t).armNow && s.stepPending t e && !r.kvalid
      let s1 :=
        if commit then
          let s1 := s.wrEntry pa (PageEnt.withFrame b r.w)
          if toK then s1 else s1.giveFrame e.frame
        else s.giveFrame r.w
      let r' : VRec := ⟨0, if toK then e.frame else r.k, 0, false, r.kvalid || toK⟩
      let s2 := s1.setVrec t i r'
      if r'.kvalid then s2 else s2.freeEntry t i pa

/-- VERSION_SWEEP_DONE (R289): the sweep after a commit, or the drop after a kill, has passed over every record. -/
def execVersionSweepDone (t : Nat) (s : State) : Res :=
  if ¬ s.sweeping t then .next s
  else
    let s1 := (List.range (s.nrec t)).foldl (State.sweepRec t) s
    let s2 := (s1.setBoth (fun d => R.mmuTcmd d t) 17 17 0).setBoth (fun d => R.mmuTcmd d t) 47 32 0
    .next (s2.updTbl t (fun x => { x with dropping := false, armNow := false }))

/-! ### The step copy (R291, R292, R392) -/

/-- The 256 kitty puts of a page. -/
def kittyPuts (base : GPkt) (va apar : Nat) (bs : List Byte) : List GPkt :=
  (List.range 256).map (fun j =>
    { base with op := 7, cls := 3, addr := va + 256 * j, arg := BitVec.ofNat 32 apar, len := 256,
                data := (bs.drop (256 * j)).take 256 })

/-- The packet fields of a table's job toward its partner. -/
def State.toPartner (s : State) (t : Nat) : GPkt :=
  { ddev := BitVec.ofNat 16 (s.fld (R.gulJmap1 0 t) 31 16), sdev := s.gulDev, op := 7, cls := 3,
    job := BitVec.ofNat 32 (s.fld (R.gulJmap0 0 t) 31 0), cnum := s.cnum t }

def State.sendAll (s : State) (die : Nat) (ps : List GPkt) : State := ps.foldl (fun s p => s.gulSend die (16 * die) p) s

def State.tableDie (s : State) (t : Nat) : Nat := s.fld (R.tblCtl 0 t) 2 2

/-- STEP_COPY_PAGE (R291): the copy engine reads the next step-pending page from K, or from C, and sends it to the
kitty. -/
def execStepCopyPage (t : Nat) (s : State) : Res :=
  if s.fld (R.mmuTstep 0 t) 0 0 = 0 ∨ (s.tbl t).copyPage.isSome then .next s
  else match s.stepPages t with
    | [] => .next s
    | (va, e) :: _ =>
      let (s1, o) := s.takePA t (s.stepFrame t e) 0x10000
      match o with
      | none => .next s1
      | some bs =>
        let s2 := s1.updTbl t (fun x => { x with copyPage := some va })
        .next (if bit 33 (s2.reg (R.gulJmap1 0 t)) then
          s2.sendAll (s2.tableDie t) (kittyPuts (s2.toPartner t) va (s2.fld (R.mmuTstep 0 t) 1 1) bs) else s2)

/-- The seal after the last page (R392). -/
def State.sendSeal (s : State) (t : Nat) : State :=
  if bit 33 (s.reg (R.gulJmap1 0 t)) then
    s.sendAll (s.tableDie t) [{ s.toPartner t with cls := 2, arg := BitVec.ofNat 32 (s.tbl t).stepCount }]
  else s

/-- A page's copy is complete: kpar follows apar, K returns to the pool. -/
def State.copied (s : State) (t : Nat) (e : PageEnt) : State :=
  let b := s.rd64 e.pa
  let b' := b - (if b.testBit 6 then 2 ^ 6 else 0) + s.fld (R.mmuTstep 0 t) 1 1 * 2 ^ 6
  let s1 := s.wrEntry e.pa b'
  match s1.entRec t ⟨e.pa, b', false⟩ with
  | some r =>
    if r.kvalid then
      let i := PageEnt.vidx ⟨e.pa, b', false⟩
      let s2 := (s1.giveFrame r.k).setVrec t i { r with k := 0, kvalid := false }
      if r.wvalid then s2 else s2.freeEntry t i e.pa
    else s1
  | none => s1

/-- STEP_COPY_PAGE_DONE (R291). -/
def execStepCopyPageDone (t : Nat) (s : State) : Res :=
  match (s.tbl t).copyPage with
  | none => .next s
  | some va =>
    let s0 := s.updTbl t (fun x => { x with copyPage := none })
    match s0.walk t va with
    | .page e =>
      let s1 := s0.copied t e
      let left := s1.fld (R.mmuTstep 0 t) 63 32 - 1
      let s2 := s1.setBoth (fun d => R.mmuTstep d t) 63 32 left
      .next (if left = 0 then (s2.setBoth (fun d => R.mmuTstep d t) 0 0 0).sendSeal t else s2)
    | _ => .next s0

/-! ### Invalidation and pools (R285, R304, R305) -/

/-- MMU_INV (R304): an invalidation starts. -/
def execMmuInv (die : BitVec 1) (t : BitVec 8) (all : Bool) (va : BitVec 32) (s : State) : Res :=
  .next { s.setFld (R.mmuInvStat die.toNat) 0 0 1 with
    invs := s.invs ++ [(die.toNat, t.toNat, if all then none else some va.toNat)] }

/-- A cached entry that an invalidation names. -/
def Tlb.named (x : Tlb) (t : Nat) (page : Option Nat) : Bool :=
  x.table == t && (match page with
    | none => true
    | some p => if x.large then x.page / 32 == p / 32 else x.page == p)

/-- MMU_INV_DONE (R304): the invalidations of a die have reached every cache. -/
def execMmuInvDone (die : BitVec 1) (s : State) : Res :=
  let mine := s.invs.filter (fun v => v.1 == die.toNat)
  .next { s.setFld (R.mmuInvStat die.toNat) 0 0 0 with
    invs := s.invs.filter (fun v => v.1 != die.toNat)
    tlb := s.tlb.filter (fun x => !(mine.any (fun v => x.named v.2.1 v.2.2))) }

/-- MMU_POOL_PUSH (R305): a frame in a reserved window or not populated is ignored, and so is one outside DRAM. -/
def execMmuPoolPush (die : BitVec 1) (frame : BitVec 32) (s : State) : Res :=
  let a := frame.toNat * 2 ^ 16
  if ¬ s.populated a 0x10000 ∨ s.inWindow a ∨ s.retired.contains a then .next s
  else match s.frameClass a with
    | some (_, far) => .next (s.setPool die.toNat far (s.pool die.toNat far ++ [a]))
    | none => .next s

end Sys2Proof.Machine
end

