-- ==== Sys2Proof/Machine/RakeUnit.lean ====
section
/-! DEFINITION. The rake (R299 to R301, R307). -/

namespace Sys2Proof.Machine

open Sys2Proof

def Rake.dflt : Nat → Rake := fun _ => {}
def State.rake (s : State) (die : Nat) : Rake := SMap.get Rake.dflt s.rakes die
def State.setRake (s : State) (die : Nat) (r : Rake) : State := { s with rakes := SMap.set Rake.dflt s.rakes die r }

/-- The bitwise majority of three copies (R301). -/
def majority (a b c : Word) : Word := (a &&& b) ||| (a &&& c) ||| (b &&& c)
def Rake.cfg (r : Rake) : Word := majority r.cfg0 r.cfg1 r.cfg2
def Rake.rate (r : Rake) : Word := majority r.rate0 r.rate1 r.rate2

/-- The block of an index in the SRAM of a list of cells. -/
def sramBlock : List CellRef → Nat → Option Nat
  | [], _ => none
  | k :: t, i => if i < sramSize k / 32 then some (sramBase k + 32 * i) else sramBlock t (i - sramSize k / 32)

/-- The i-th block of a class of a die, in address order (R299): 0 cell SRAM, 1 vaults, 2 far channels. -/
def State.rakeBlock (s : State) (die cls i : Nat) : Option Nat :=
  match cls with
  | 0 => sramBlock ((List.range 96).flatMap (fun n => s.islCells (96 * die + n))) i
  | 1 => if i < 96 * 2 ^ 25 then some (vaultBase (96 * die) + 32 * i) else none
  | _ => if 32 * i < s.farN * s.farDensity then some (farBase + die * (s.farN * s.farDensity) + 32 * i) else none

def Rake.pos (r : Rake) (cls : Nat) : Nat := if cls = 0 then r.sram else if cls = 1 then r.near else r.far
def Rake.setPos (r : Rake) (cls v : Nat) : Rake :=
  if cls = 0 then { r with sram := v } else if cls = 1 then { r with near := v } else { r with far := v }

/-- Copies that differ from the majority. -/
def Rake.upset (r : Rake) : Nat :=
  (List.map (fun x => b2n (x != r.cfg)) [r.cfg0, r.cfg1, r.cfg2]).sum + (List.map (fun x => b2n (x != r.rate)) [r.rate0, r.rate1, r.rate2]).sum

/-- The start of a pass writes the majority back into all copies and counts those it changes. -/
def State.rakeVote (s : State) (die : Nat) : State :=
  let r := s.rake die
  let n := r.upset
  let s1 := s.setRake die { r with cfg0 := r.cfg, cfg1 := r.cfg, cfg2 := r.cfg, rate0 := r.rate, rate1 := r.rate, rate2 := r.rate }
  (s1.satFld (R.rakeStat die) 47 32 n).satFld (R.errCe die) 59 48 n

/-- The table that a raked block belongs to, as far as its address shows: that of a cell's island. -/
def State.blockTable (s : State) (a : Nat) : Nat :=
  match s.region a with
  | .sram k _ => (s.isl k.isl).table
  | _ => 0

/-- RAKE_BLOCK (R299): the next block of a class is read, decoded and, if corrected, written back; `upset` is what it is
found to hold beside what is stored. -/
def execRakeBlock (die : BitVec 1) (cls : BitVec 2) (upset : Upset) (s : State) : Res :=
  let d := die.toNat
  let c := cls.toNat
  let r := s.rake d
  let rate := if c = 0 then field 15 0 r.rate else if c = 1 then field 31 16 r.rate else field 47 32 r.rate
  if c = 3 ∨ ¬ bit 0 r.cfg ∨ rate = 0 then .next s
  else match s.rakeBlock d c (r.pos c) with
    | none => .next s
    | some a =>
      let (s1, _) := s.readBlock d c (s.blockTable a) a upset
      let i := r.pos c + 1
      let s2 :=
        if (s1.rakeBlock d c i).isSome then s1.setRake d (r.setPos c i)
        else ((s1.setRake d (r.setPos c 0)).incFld (R.rakeStat d) 31 0 1).rakeVote d
      .next (s2.setFld (R.rakePos d) 47 0 ((s2.rakeBlock d 1 (s2.rake d).near).getD 0))

/-- RAKE_CFG_WRITE (R301): all three copies are set. -/
def execRakeCfgWrite (die : BitVec 1) (value : Word) (s : State) : Res :=
  let v := value &&& 1
  .next (s.setRake die.toNat { s.rake die.toNat with cfg0 := v, cfg1 := v, cfg2 := v })

/-- RAKE_RATE_WRITE (R301). -/
def execRakeRateWrite (die : BitVec 1) (value : Word) (s : State) : Res :=
  let v := value &&& 0xFFFFFFFFFFFF
  .next (s.setRake die.toNat { s.rake die.toNat with rate0 := v, rate1 := v, rate2 := v })

end Sys2Proof.Machine
end

