-- ==== Sys2Proof/Machine/RegView.lean ====
section
/-! DEFINITION. Reading a register of control space (R17, R65 to R70, R142, R163, R164, R188 to R190, R212, R213, R236,
R271, R305, R307, R335, R430, R465 to R467, R545): views of the machine's state and the stored rest. -/

namespace Sys2Proof.Machine

open Sys2Proof

/-! ### Rows (R60, R61, R66, R67) -/

def State.defects (s : State) (die : Nat) : BitVec 36 := if die = 0 then s.fuses.defects0 else s.fuses.defects1
/-- The logical rows of a band. -/
def State.bandRows (s : State) (die h : Nat) : Nat := if h = 3 ∧ s.grade1440 die then 6 else 8
/-- The physical rows that a band uses, in order. -/
def State.bandMap (s : State) (die h : Nat) : List Nat :=
  (((List.range 9).map (fun i => 9 * h + i)).filter (fun p => !(s.defects die).getLsbD p)).take (s.bandRows die h)
/-- The physical row of a logical row, 0x3F where the grade lacks it. -/
def State.physRow (s : State) (die l : Nat) : Nat := ((s.bandMap die (l / 8))[l % 8]?).getD 0x3F
/-- The physical rows that serve no logical row. -/
def State.bridged (s : State) (die : Nat) : List Nat :=
  (List.range 36).filter (fun p => !((List.range 4).any (fun h => (s.bandMap die h).contains p)))

def State.lrows (s : State) (die : Nat) : Nat := if s.grade1440 die then 30 else 32

/-- GEO (R65 to R67). -/
def State.geoReg (s : State) (die off : Nat) : Nat :=
  match off / 8 with
  | 0 => die + b2n (s.grade1440 die) * 2 + s.lrows die * 2 ^ 2 + 96 * 2 ^ 8 + 24 * s.lrows die * 2 ^ 16
  | 1 => ((s.bridged die).map (fun p => 2 ^ p)).sum + ((List.range 36).filter (fun p => (s.defects die).getLsbD p)).length * 2 ^ 36
  | n => ((List.range 8).map (fun k => s.physRow die (8 * (n - 2) + k) * 2 ^ (8 * k))).sum

/-- ISL_GEO (R68). -/
def State.islGeo (s : State) (i : Nat) : Nat :=
  let r := islRow i
  let last := if s.short i then 4 * r + 1 else 4 * r + 3
  r + islNum i % 12 * 2 ^ 3 + b2n (s.short i) * 2 ^ 7 + islDie i * 2 ^ 8 + s.physRow (islDie i) (4 * r) * 2 ^ 9
    + s.physRow (islDie i) last * 2 ^ 15

/-- ISL_FENCE.edge: the boundaries on a package or grade edge (R54, R70). -/
def State.edgeBits (s : State) (i : Nat) : Nat :=
  b2n (islRow i == 0) + b2n (islCol i == 23) * 2 + b2n (islRow i == 7 || s.short i) * 4 + b2n (islCol i == 0) * 8

/-! ### Cells -/

def Run.code (c : Cell) : Nat :=
  match c.run with
  | .idle => 0 | .running => if c.bubble then 2 else 1 | .ended => 3 | .faulted => 4
def PotState.code (p : PotState) : Nat :=
  let m := match p.mode with | .empty => 0 | .int => 1 | .fx => 2 | .f32 => 3
  m + (p.pe % 1024).toNat * 4
def EState.code : EState → Nat
  | .idle => 0 | .running => 1 | .draining => 2 | .stopping => 3 | .halted => 4

/-- CELL_SENG (R212). -/
def Engine.seng (x : Engine) : Nat :=
  x.state.code + x.slot % 8 * 2 ^ 3 + b2n x.dir * 2 ^ 6 + x.fkind % 4 * 2 ^ 7 + x.beats % 2 ^ 32 * 2 ^ 16

/-- CELL_LFLAG (R190). -/
def Cell.lflag (c : Cell) (f : Nat) : Nat :=
  ((List.range 64).map (fun l => b2n ((SMap.get (fun _ => 0) c.lanes l : BitVec 5).getLsbD f) * 2 ^ l)).sum

/-- The token counts of CELL_STEER (R236). -/
def Steer.counts (x : Steer) : Nat :=
  x.swCtl.length * 2 ^ 16 + x.swDat.length * 2 ^ 19 + x.mgCtl.length * 2 ^ 22 + x.mgA.length * 2 ^ 25 + x.mgB.length * 2 ^ 28

/-- A register of a cell block that shows the cell. -/
def State.cellReg (s : State) (k : CellRef) (o : Nat) : Option Nat :=
  let c := s.cell k
  if o = 0x008 then
    some (c.pc % 4096 + Run.code c * 2 ^ 12
      + ((List.range 3).map (fun n => b2n (c.loops.any (fun l => l.n == n)) * 2 ^ (15 + n))).sum + c.stack.length * 2 ^ 18)
  else if o = 0x040 then some c.mcfg.toNat
  else if o = 0x048 then some (c.ps0.code + c.ps1.code * 2 ^ 12)
  else if o = 0x060 then some c.flags.toNat
  else if o = 0x068 then some c.vcfg.toNat
  else if 0x070 ≤ o ∧ o ≤ 0x090 then some (c.lflag ((o - 0x070) / 8))
  else if 0x100 ≤ o ∧ o ≤ 0x138 then
    let x := c.eng ((o - 0x100) / 16)
    some (if o % 16 = 0 then x.seng else x.sfva)
  else if 0x208 ≤ o ∧ o ≤ 0x220 then
    some ((s.reg (Machine.cellReg k o)).toNat + (c.str ((o - 0x208) / 8)).counts)
  else if o = 0x300 then some (c.sieve.cfg.toNat + c.sieve.flushes.length * 2 ^ 37)
  else none

/-! ### Blocks -/

def countBits (n : Nat) (v : BitVec n) : Nat := ((List.range n).filter (fun i => v.getLsbD i)).length

/-- FUSE (R465). -/
def State.fuseReg (s : State) (die off : Nat) : Nat :=
  let f := s.fuses
  if off = 0 then (if die = 0 then f.serial.toNat else 0)
  else if off = 8 then (if die = 0 then f.mac.toNat else 0)
  else if off = 0x10 then
    if die = 0 then f.stepping0.toNat + countBits 64 f.svn * 2 ^ 8 + countBits 64 f.epoch * 2 ^ 16 + f.keyprog.toNat * 2 ^ 24
      + f.keyrev.toNat * 2 ^ 28
    else f.stepping1.toNat
  else if off = 0x18 then
    if die = 0 then f.mgmtPort.toNat + f.dbg.toNat * 2 ^ 2 + f.rwin.toNat * 2 ^ 4 + b2n f.keystoreEn * 2 ^ 6 + f.rstTable.toNat * 2 ^ 8
    else 0
  else if die ≠ 0 then 0
  else
    let h := (f.keyhash[(off - 0x100) / 0x80]?).getD (0, 0)
    let w := (off - 0x100) % 0x80 / 8
    if w < 6 then h.1.toNat / 2 ^ (64 * w) else h.2.toNat / 2 ^ (64 * (w - 6))

/-- The RST and PWR registers live on D0, and D1 reads the same values (R492 to R498). -/
def rcpShared (o : Nat) : Bool := decide (o < 0x018) || (decide (0x200 ≤ o) && decide (o < 0x300))

/-- A core has no packet outstanding (R494). -/
def State.coreDrained (s : State) (core : Nat) : Bool :=
  !(s.syncs.any (fun r => r.who == .core core)) && (s.gop core).isNone && !(s.chmsgs.any (fun m => m.who == .core core && !m.placed))

/-- RST_FENCE.drained. -/
def State.drainedBits (s : State) (die : Nat) : Nat :=
  ((List.range 16).map (fun i => b2n (bit i (s.reg (R.rstFence die)) && s.coreDrained (16 * die + i)) * 2 ^ (16 + i))).sum

/-- PIN_IN: an output pin reads its own level, any other what the board drives. -/
def State.pinIn (s : State) : Nat :=
  ((List.range 8).map (fun k =>
    b2n (if s.fld R.pinFunc (4 * k + 3) (4 * k) = 1 then bit k (s.reg R.pinOut) else bit k (s.reg R.pinIn)) * 2 ^ k)).sum

/-- A register of a block that shows structured state. -/
def State.blockReg (s : State) (die : Nat) (b : Block) (o : Nat) : Option Nat :=
  match b with
  | .geo => some (s.geoReg die o)
  | .fuse => some (s.fuseReg die o)
  | .mem =>
    if o = 0x0010 then some ((s.pool die false).length % 2 ^ 24 + (s.pool die true).length % 2 ^ 24 * 2 ^ 24)
    else if o = 0x0100 then some (s.rake die).cfg.toNat
    else if o = 0x0108 then some (s.rake die).rate.toNat
    else none
  | .sync =>
    if o = 0x0018 then some (s.fld (R.syncStat die) 31 0 + s.waiters (.window die 0) % 2 ^ 12 * 2 ^ 32)
    else if 0x20000 ≤ o then
      some (s.fld (R.syncWown die ((o - 0x20000) / 8)) 7 0 + b2n (s.win die ((o - 0x20000) / 8)).full * 2 ^ 8)
    else none
  | .eth =>
    if o = 8 then
      some (s.fld (R.ethPstat die) 15 0 + (s.sess.filter (fun x => x.2.port.toNat == die)).length * 2 ^ 16
        + (s.qps.filter (fun q => q.port.toNat == die)).length * 2 ^ 25)
    else none
  | .rcp =>
    if o = 0x018 then some (s.fld (R.rstFence die) 15 0 + s.drainedBits die)
    else if die = 1 ∧ rcpShared o then some (s.reg (blkReg 0 .rcp o)).toNat
    else none
  | .pin => if die = 0 ∧ o = 0x18 then some s.pinIn else if die = 0 ∧ o = 0x30 then some (s.trace.length % 2 ^ 7 + s.fld R.pinTraceStat 31 16 * 2 ^ 16) else none
  | _ => none

/-- What a read of a control-space address gives (R16, R17): holes and write-only registers read 0. -/
def State.readReg (s : State) (a : Nat) : Word :=
  match regSpec a with
  | none => 0
  | some _ =>
    match regPlace a with
    | .island i o =>
      if o = 0 then BitVec.ofNat 64 (s.islGeo i)
      else if o = 0x10 then BitVec.ofNat 64 (s.fld a 3 0 + s.edgeBits i * 2 ^ 4)
      else s.reg a
    | .cell i c o => (match s.cellReg ⟨i, c⟩ o with | some v => BitVec.ofNat 64 v | none => s.reg a)
    | .block d b o => (match s.blockReg d b o with | some v => BitVec.ofNat 64 v | none => s.reg a)
    | .none => 0

/-! ### Writing (R16 to R18) -/

/-- A register that has a command of its own for its writes. -/
def ownRow (a : Nat) : Bool :=
  match regPlace a with
  | .cell _ _ o => o == 0x020
  | .block _ .mem o => o == 0x0000 || o == 0x0018 || o == 0x0100 || o == 0x0108
  | .block _ .sync o => o == 0x0000 || (decide (0x4000 ≤ o) && decide (o < 0x4400) && o % 0x40 == 0)
  | .block _ .mbx o => decide (0x2000 ≤ o) || o % 16 == 0
  | .block _ .chn o => o % 0x20 == 0x10
  | .block _ .tbl o => o % 0x40 == 0x10
  | .block _ .meld o => o == 0x00 || o == 0x10
  | .block _ .gul o => o == 0x8
  | .block _ .rcp o => o == 0x008 || o == 0x200
  | .block _ .pin o => o == 0x28
  | _ => false

/-- What a plain write leaves in a register: RW and RWS fields take the value, W1C bits clear. -/
def RegSpec.written (r : RegSpec) (old v : Word) : Word :=
  let m := r.rw ||| r.rws
  ((old &&& ~~~m) ||| (v &&& m)) &&& ~~~(v &&& r.w1c)

end Sys2Proof.Machine
end

