-- ==== Sys2Proof/Machine/ResetCore.lean ====
section
/-! DEFINITION. Reset (R433, R468 to R477, R513): levels, what each level resets, episodes and Block episodes. -/

namespace Sys2Proof

def RstSource.index : RstSource → Nat
  | .powerOn => 0 | .brownOut => 1 | .pin => 2 | .watchdog => 3 | .software => 4 | .debug => 5 | .clockFailure => 6 | .lockUp => 7
/-- A source whose target is the package. -/
def RstSource.package : RstSource → Bool
  | .powerOn => true | .brownOut => true | .pin => true | .clockFailure => true | _ => false
def Level.index : Level → Nat
  | .block => 0 | .warm => 1 | .cold => 2 | .powerOn => 3
def Level.ofIndex (n : Nat) : Level := match n with | 0 => .block | 1 => .warm | 2 => .cold | _ => .powerOn
def Level.max (a b : Level) : Level := if a.index < b.index then b else a

end Sys2Proof

namespace Sys2Proof.Machine

open Sys2Proof

/-! ### Sources and levels (R433, R455, R468, R469) -/

/-- A main stage is in place. -/
def State.mainPlaced (s : State) : Bool := s.sec.entered && s.loadState == 3

/-- The reach that a source's field gives. -/
def State.fused (s : State) (src : RstSource) : Level :=
  let l := if src = .powerOn then Level.powerOn else Level.ofIndex (s.fuses.rstTable.toNat / 4 ^ src.index % 4)
  if src.package ∧ l = .block then .warm else l

/-- The level at which a source is taken: every episode is at least Cold while no main stage runs. -/
def State.srcLevel (s : State) (src : RstSource) : Level := if s.mainPlaced then s.fused src else (s.fused src).max .cold

/-! ### What a level resets (R17, R470) -/

/-- Registers that a Warm reset keeps: RWS registers, PIN functions and straps, the clocks, training of the LPDDR6
interfaces, temperatures, energy, SEC and RST_CAUSE. -/
def warmKeeps (a : Nat) : Bool :=
  match regPlace a with
  | .block _ .pin o => decide (o ≤ 0x20)
  | .block _ .sec _ => true
  | .block _ .rcp o => o == 0x000 || o == 0x100 || o == 0x210 || o == 0x218 || o == 0x300
  | .block _ .err o => o == 0x000 || o == 0x008
  | .block _ .mem o => o == 0x0040
  | _ => false

/-- Registers that a Cold reset keeps: straps, the references, temperatures, energy, SEC and RST_CAUSE. -/
def coldKeeps (a : Nat) : Bool :=
  match regPlace a with
  | .block _ .pin o => o == 0x20
  | .block _ .sec _ => true
  | .block _ .rcp o => o == 0x000 || o == 0x100 || o == 0x210 || o == 0x300
  | _ => false

/-- The units that every level from Warm reaches. -/
def State.resetUnits (s : State) : State :=
  { s with
    cells := [], isls := [], fifos := [], flight := [], memq := [], mesh := [], wins := [], syncs := [], chmsgs := [], rtails := []
    pools := [], vcopy := [], vpages := [], events := [], tbls := [], melds := [], rakes := [], glinks := [], gin := [], greqs := []
    gops := [], colls := [], holds := [], slew := 0, slewPhase := 0, locks := 0, sess := [], wndws := [], qps := [], nets := []
    paused := [], trace := [], tlb := [], invs := [], slb := [], sinvs := [], pets := []
    capStreak := 0, capLast := none, mbxStale := [], drains := [], blocks := []
    regs := SMap.keep warmKeeps s.regs }

/-- A job that a Warm reset stops: kept detached, its commands ended, to be restarted on JOB_ATTACH (R513). -/
def Job.warm (j : Job) (now : Word) (linger : Nat) : Job :=
  { j with
    session := none, detachedAt := if j.session.isSome then now else j.detachedAt, linger := if j.session.isSome then linger else j.linger
    nw := none, want := none, evict := false, graceFrom := none, reply := none, stopped := some K.eJobStopped, restarting := true
    cmds := j.cmds.map (fun (c : Cmd) => match c.st with | .ended _ => c | _ => { c with st := .ended K.eJobStopped }) }

/-- The linger of a session. -/
def State.lingerOf (s : State) (n : Option Nat) : Nat :=
  match n.bind (fun n => s.session n) with
  | some x => x.linger
  | none => 0

def State.warmReset (s : State) : State :=
  let js := s.jobs.map (fun j => j.warm s.gtime (s.lingerOf j.session))
  let s1 := s.resetUnits
  { s1 with jobs := js }

/-- A Cold reset: memory is undefined, jobs, kitties and retired frames are lost, kindling enters anew. -/
def State.coldReset (s : State) : State :=
  let s1 := s.resetUnits
  { s1 with
    mem := { cells := [], cold := s.mem.cold + 1 }, bad := [], scans := [], jobs := [], jobNext := 1, ended := [], progress := [], kitties := []
    retired := [], alertAck := [], wndwNext := 1, qpNext := 1, gtag := 0
    sec := { s.sec with load := none, meas := [], ifaces := [], entered := false, attested := none }
    regs := SMap.keep coldKeeps s.regs }

/-- What a level resets where it reaches. -/
def State.applyLevel (s : State) : Level → State
  | .block => s
  | .warm => s.warmReset
  | .cold => s.coldReset
  | .powerOn => { s.coldReset.setReg R.pwrEnergy 0 with energyUj := 0, vset0 := 750, vset1 := 750 }

/-! ### Episodes (R474, R475) -/

def addSrc (l : List RstSource) (x : RstSource) : List RstSource := if l.contains x then l else l ++ [x]
def mergeSrc (a b : List RstSource) : List RstSource := b.foldl addSrc a

/-- A source asserts at Warm reach or higher: an episode begins, rises or is joined. Block episodes join the episode of
a package source. -/
def State.assertPackage (s : State) (src : RstSource) (lvl : Level) (esc : Bool) : State :=
  match s.episode with
  | none =>
    let held := addSrc (s.blocks.foldl (fun l b => mergeSrc l b.held) []) src
    let seen := addSrc (s.blocks.foldl (fun l b => mergeSrc l b.seen) []) src
    { s.applyLevel lvl with episode := some { level := lvl, held := held, seen := seen, since := s.gtime, escalated := esc } }
  | some e =>
    let e1 := { e with held := addSrc e.held src, seen := addSrc e.seen src, high := false, escalated := e.escalated || esc }
    if e.level.index < lvl.index then
      { s.applyLevel lvl with episode := some { e1 with level := lvl, since := s.gtime, minOver := false } }
    else { s with episode := some e1 }

/-! ### Block episodes (R470 to R472) -/

/-- Registers of an island's block. -/
def ofIslandBlock (isl a : Nat) : Bool :=
  match regPlace a with
  | .island i _ => i == isl
  | .cell i _ _ => i == isl
  | _ => false

/-- A Block reset of an island: its cells, registers, FIFOs and router. Its SRAM is kept. -/
def State.islandReset (s : State) (isl : Nat) : State :=
  { s with
    cells := SMap.keep (fun k => k / 16 != isl) s.cells
    isls := SMap.erase isl s.isls
    regs := SMap.keep (fun a => !ofIslandBlock isl a) s.regs
    fifos := SMap.keep (fun k => k / 64 != isl) s.fifos
    flight := SMap.keep (fun k => k / 64 != isl) s.flight
    mesh := s.mesh.filter (fun p => p.at_ != isl)
    tlb := s.tlb.filter (fun x => x.agent != islAgent isl)
    slb := s.slb.filter (fun x => x.agent != islAgent isl) }.noteMelds

/-- Registers of a core's ports and watchdog. -/
def ofCore (core a : Nat) : Bool :=
  match regPlace a with
  | .block d .sync o => d == core / 16 && decide (0x4000 + 0x40 * (core % 16) ≤ o) && decide (o < 0x4040 + 0x40 * (core % 16))
  | .block d .gul o => d == core / 16 && decide (0x4000 + 0x40 * (core % 16) ≤ o) && decide (o < 0x4040 + 0x40 * (core % 16))
  | .block d .err o => d == core / 16 && decide (0x400 + 0x10 * (core % 16) ≤ o) && decide (o < 0x410 + 0x10 * (core % 16))
  | _ => false

/-- Every job whose runtime or admitted code ran on a core stops (R513). -/
def State.stopOn (s : State) (core : Nat) : State :=
  ((s.jobs.map Job.handle).filter (fun h => Config.runsOn h core)).foldl (fun s h => s.stopJob h K.eJobStopped true) s

/-- A Block reset of a steward core: its requests and waits are gone, its channels have lost an end (R329), and words it has left in mailboxes notify nobody (R331). -/
def State.coreReset (s0 : State) (core : Nat) : State :=
  let s1 := (s0.syncs.filter (fun r => r.who == .core core)).foldl (fun s x =>
    match s.syncReq x.id with
    | some y => s.dropRequest y
    | none => s) s0
  let s := s1.coreChannels core
  let full := [0, 1].filter (fun d => bit 0 (s.reg (R.mbxCtl d core)))
  { s with
    regs := SMap.keep (fun a => !ofCore core a) s.regs
    gops := s.gops.filter (fun x => x.1 != core)
    greqs := s.greqs.filter (fun r => r.core != core)
    chmsgs := s.chmsgs.filter (fun m => !(m.who == .core core && !m.placed))
    mbxStale := s.mbxStale ++ (full.map (fun d => d * 288 + core)).filter (fun x => !s.mbxStale.contains x) }

def State.blockReset (s : State) (kind : Bool) (die index : Nat) : State :=
  if kind then s.coreReset (16 * die + index) else s.islandReset (96 * die + index)

/-- What a Block episode does when it begins: beside the reset, the jobs of a core stop. -/
def State.blockBegins (s : State) (kind : Bool) (die index : Nat) : State :=
  let s1 := s.blockReset kind die index
  if kind then s1.stopOn (16 * die + index) else s1

/-- A Block episode begins, or is joined by a source of the same target. -/
def State.assertBlock (s : State) (src : RstSource) (kind : Bool) (die index : Nat) : State :=
  if s.blocks.any (fun b => b.kind == kind && b.die == die && b.index == index) then
    { s with blocks := s.blocks.map (fun (b : BlockEp) =>
        if b.kind = kind ∧ b.die = die ∧ b.index = index then { b with held := addSrc b.held src, seen := addSrc b.seen src } else b) }
  else
    { s.blockBegins kind die index with
      blocks := s.blocks ++ [{ kind := kind, die := die, index := index, held := [src], seen := [src], since := s.gtime }] }

/-- The precondition of a Block request (R471). -/
def State.blockReady (s : State) (kind : Bool) (die index : Nat) : Bool :=
  if kind then bit index (s.reg (R.rstFence die)) && s.coreDrained (16 * die + index)
  else
    let i := 96 * die + index
    let st := s.fld (R.islSeq i) 2 0
    (s.isl i).table == 0 && (st == 0 || st == 3 || st == 4) && !(s.mesh.any (fun p => p.at_ == i))

def blockTarget (kind : Bool) (index : Nat) : Bool := if kind then decide (index < 16) else decide (index < 96)

/-- A software or debug request (R471, R472). -/
def State.request (s : State) (src : RstSource) (kind : Bool) (die index : Nat) : State :=
  let lvl := s.srcLevel src
  if lvl ≠ .block then s.assertPackage src lvl false
  else if ¬ blockTarget kind index then s.setReg R.rstRes (BitVec.ofNat 64 K.eRstTarget.toNat)
  else if ¬ s.blockReady kind die index then s.setReg R.rstRes (BitVec.ofNat 64 K.eRstBusy.toNat)
  else (s.setReg R.rstRes 0x10000).assertBlock src kind die index

/-! ### Releases (R474 to R477) -/

/-- The bits of RST_CAUSE for sources. -/
def causeBits (l : List RstSource) : Nat := (l.map (fun x => 2 ^ x.index)).sum

/-- RST_CAUSE after a package episode. -/
def State.writeCause (s : State) (e : Episode) : State :=
  let old := if e.level = .powerOn then 0 else s.fld R.rstCause 47 32
  s.setReg R.rstCause (BitVec.ofNat 64 (causeBits e.seen + e.level.index * 2 ^ 8 + b2n e.escalated * 2 ^ 10 + satAdd 16 old 1 * 2 ^ 32))

/-- The reference chosen after a Cold or Power-on episode (R478), PLLs locked. -/
def State.pickRef (s : State) (die : Nat) : State :=
  let r := s.reg (R.clkStat die)
  s.setReg (R.clkStat die) (BitVec.ofNat 64 (b2n (!bit 1 r) + field 2 1 r * 2 + 8))

/-- The release waits while the logic junction is at 100 °C or above and a trip is in force (R475, R489). -/
def State.tripWaits (s : State) : Bool :=
  s.tripped && (decide (560 ≤ s.fld (R.telTemp 0) 11 0) || decide (560 ≤ s.fld (R.telTemp 1) 11 0))

/-- The release of a package episode: the domains come out of reset, RST_CAUSE is written; from Cold on, GTIME starts from
0, a trip ends, and a load fault is cleared if R449 names a source. -/
def State.releasePackage (s : State) (e : Episode) : State :=
  let s1 := { (s.applyLevel e.level).writeCause e with episode := none }
  if e.level = .warm then
    (s1.setFld (R.clkStat 0) 31 16 0).setFld (R.clkStat 1) 31 16 0
  else
    let s2 := (({ s1 with gtime := 0 }.pickRef 0).pickRef 1)
    let s3 := (s2.setFld (R.telTemp 0) 26 26 0).setFld (R.telTemp 1) 26 26 0
    if [RstSource.powerOn, .brownOut, .pin].any (fun x => e.seen.contains x) then s3.setReg R.secLoad 0 else s3

/-- The release of a Block episode (R477). -/
def State.releaseBlock (s : State) (b : BlockEp) : State :=
  let old := s.reg R.rstCause
  let v := field 7 0 old ||| causeBits b.seen
  let s1 := s.blockReset b.kind b.die b.index
  let s2 := s1.setReg R.rstCause (BitVec.ofNat 64
    (v + field 10 10 old * 2 ^ 10 + b.index % 128 * 2 ^ 16 + b2n b.kind * 2 ^ 23 + b.die * 2 ^ 24 + field 47 32 old * 2 ^ 32))
  { s2.setFld R.rstRes 16 16 0 with blocks := s.blocks.filter (fun x => !(x.kind == b.kind && x.die == b.die && x.index == b.index)) }

end Sys2Proof.Machine
end

