-- ==== Sys2Proof/Machine/Errors.lean ====
section
/-! DEFINITION. Uncorrectable errors, retired frames, restarts and steward watchdogs (R500, R503 to R511, R519). -/

namespace Sys2Proof.Machine

open Sys2Proof

/-! ### Which table names a frame (R503, R504) -/

/-- A page's C frame holds an address. -/
def PageEnt.holds (e : PageEnt) (pa : Nat) : Bool := decide (e.frame ≤ pa) && decide (pa < e.frame + if e.large then 0x200000 else 0x10000)

/-- The map, the versions or the kept frames of a table name the frame of an address. -/
def State.names (s : State) (t pa : Nat) : Bool :=
  let f := pa / 0x10000 * 0x10000
  (s.allPages t).any (fun x => x.2.holds pa)
    || (List.range (s.nrec t)).any (fun i => let r := s.vrec t i; (r.wvalid && r.w == f) || (r.kvalid && r.k == f))

/-- The job that names the frame of an address. -/
def State.namedBy (s : State) (pa : Nat) : Option Job := s.jobs.find? (fun j => s.names j.table pa)

/-- A frame leaves the pools for good. -/
def State.retire (s : State) (f : Nat) : State :=
  { s with
    retired := if s.retired.contains f then s.retired else s.retired ++ [f]
    pools := s.pools.filterMap (fun p => let l := p.2.filter (fun x => x != f); if l.isEmpty then none else some (p.1, l)) }

/-- Every page entry and version record of a table that names a frame names another. -/
def State.repoint (s : State) (t f f' : Nat) : State :=
  let s1 := (s.allPages t).foldl (fun s x => if x.2.frame = f ∧ ¬ x.2.large then s.wrEntry x.2.pa (PageEnt.withFrame x.2.bits f') else s) s
  (List.range (s1.nrec t)).foldl (fun s i =>
    let r := s.vrec t i
    if (r.wvalid && r.w == f) || (r.kvalid && r.k == f) then
      s.setVrec t i { r with w := if r.wvalid ∧ r.w = f then f' else r.w, k := if r.kvalid ∧ r.k = f then f' else r.k }
    else s) s1

/-- A block of a frame that stands twice in a die's ERR_CELOG. -/
def State.correctedTwice (s : State) (die f : Nat) : Bool :=
  let l := (List.range 64).filterMap (fun i =>
    let v := s.reg (R.errCelog die i)
    let b := field 47 0 v / 32
    if bit 63 v ∧ (field 51 48 v = 1 ∨ field 51 48 v = 2) ∧ b / 2048 = f / 0x10000 then some b else none)
  l.any (fun b => decide (2 ≤ (l.filter (fun c => c == b)).length))

/-- FRAME_RETIRE (R503): the frame's bytes move to a frame of the version pool, everything that named it follows. -/
def execFrameRetire (die : BitVec 1) (frame : Nat) (s : State) : Res :=
  let f := frame * 0x10000
  match s.frameClass f with
  | none => .next s
  | some (d, far) =>
    if d ≠ die.toNat ∨ s.retired.contains f ∨ ¬ s.correctedTwice d f then .next s
    else match s.namedBy f with
      | none => .next (s.retire f)
      | some j =>
        if s.running j.table then .next s
        else match s.takeFrame d far with
          | none => .next s
          | some (f', s1) => .next ((((s1.readPage j.table f).wrN f' ((s1.readPage j.table f).decN f 0x10000)).repoint j.table f f').retire f)

/-! ### Uncorrectable errors (R504, R505) -/

/-- ERR_SUM.restart: some job restarts. -/
def State.showRestart (s : State) : State := s.setFld (R.errSum 0) 4 4 (b2n (s.jobs.any (fun j => j.restarting)))

/-- The job of a table stops; ERR_UELOG names the table. A restart under way starts again (R510). -/
def State.ueStop (s : State) (die t : Nat) (damaged : List Nat) : State :=
  match s.jobs.find? (fun j => j.table == t) with
  | none => s
  | some j =>
    let s1 := ((s.setFld (R.errUelog die) 59 52 t).updJob j.handle (fun j =>
      { j with damaged := j.damaged ++ damaged.filter (fun f => !j.damaged.contains f), restarting := false })).showRestart
    { s1 with greqs := s1.greqs.filter (fun r => r.core != 32 + t) }.stopJob j.handle K.eJobStopped true

/-- UE_EVENT (R504). A kitty copy that is abandoned is refused to the rank it belongs to, which counts the step as skipped. -/
def execUeEvent (die : BitVec 1) (src : UeSource) (s : State) : Res :=
  let d := die.toNat
  match src with
  | .block pa =>
    let f := pa / 0x10000 * 0x10000
    (match s.namedBy pa with
     | some j => .next (s.ueStop d j.table [f])
     | none => .next (s.retire f))
  | .kitty job isSealed =>
    let s1 := { s with kitties := s.kitties.map (fun (k : Kitty) =>
      if k.job = job then (if isSealed then { k with lost := true } else k.setGot k.next []) else k) }
    .next (if isSealed then s1
      else (s1.kitties.filter (fun k => k.job == job)).foldl (fun s k => s.kittyReply d ⟨k.job, k.src, 0, 0, 0⟩ K.eMemUncorrectable []) s1)
  | .island isl _ => .next (if (s.isl isl).table = 0 then s else s.ueStop d (s.isl isl).table [])
  | .tablePacket t _ => .next (s.ueStop d t [])
  | .tableMap t _ => .next (s.ueStop d t [])
  | .firmware _ hasCopy => .next (if hasCopy then s else s.assertPackage .software ((s.srcLevel .software).max .warm) false)
  | .unowned pa => .next (s.retire (pa / 0x10000 * 0x10000))

/-- REGISTER_PARITY_ERROR (R500): a class-7 event; the island stops issuing. -/
def execRegisterParityError (c : CellRef) (s : State) : Res :=
  if ¬ s.cellExists c then .next s
  else .next ((s.ueEvent (islDie c.isl) 7 (islReg c.isl 0) (s.isl c.isl).table).setFld (R.islSeq c.isl) 2 0 3)

/-- STOP_NOTICE (R505): the notice names the cause that step 4 reports (log entry 109). -/
def execStopNotice (n : StopNote) (s : State) : Res := .next (s.stopJob n.job n.cause false)

/-! ### Restart (R507 to R510) -/

/-- The commands that wait are numbered from the one after a restart point on (R509, R510). -/
def Job.renumber (j : Job) (num : Nat) : Job :=
  let old := j.cmds.filter Cmd.over
  let new := j.cmds.filter (fun c => !c.over)
  { j with
    cmds := old ++ (List.range new.length).filterMap (fun i => (new[i]?).map (fun c => { c with num := num + 1 + i }))
    next := num + 1 + new.length }

/-- The restart of a rank is done (R508 step 5): it tells its session, and the lead when it is another rank. -/
def State.restartDone (s : State) (j : Job) (num : Nat) : State :=
  let j' := { j with stopped := none, restarting := false, damaged := [], lastCommit := num }
  let s1 := (s.updJob j.handle (fun _ => j')).updTbl j.table (fun x => { x with ue := false })
  let s2 := if j.rank = 0 then s1 else { s1 with out := s1.out ++ [.restarted j.jid j.rank] }
  (s2.jobStatus j' 0).showRestart

/-- No restart point remains: the job ends. -/
def State.restartNone (s : State) (j : Job) : State := ((s.jobStatus j K.eJobEnded).endJob j.handle).showRestart

/-- Retire the damaged frames and map fresh ones. -/
def State.replaceDamaged (s : State) (j : Job) : State :=
  j.damaged.foldl (fun s f =>
    match s.frameClass f with
    | none => s
    | some (d, far) =>
      match s.takeFrame d far with
      | none => s.retire f
      | some (f', s1) => (s1.repoint j.table f f').retire f) s

/-- The kit pages of a table: virtual address and C frame. -/
def State.kitPages (s : State) (t : Nat) : List (Nat × PageEnt) := (s.allPages t).filter (fun x => x.2.kit)

/-- One kitty get of a restart. -/
def State.restoreGet (s : State) (t va pa : Nat) : State :=
  let p : GPkt := { s.toPartner t with op := 8, cls := 0, addr := va, len := 256, tag := s.gtag % 65536 }
  let s1 := { s with gtag := (s.gtag + 1) % 65536, greqs := s.greqs ++ [({ core := 32 + t, pkt := p, lva := pa } : GReq)] }
  s1.gulSend (s.tableDie t) (16 * s.tableDie t) p

/-- Every kit page is read from the sealed parity of the kitty. -/
def State.restoreGets (s : State) (t : Nat) : State :=
  (s.kitPages t).foldl (fun s x => (List.range 256).foldl (fun s i => s.restoreGet t (x.1 + 256 * i) (x.2.frame + 256 * i)) s) s

/-- The restored pages: kpar follows apar, no step copy is active, the seats stand where the step left them. -/
def State.restored (s : State) (j : Job) : State :=
  let t := j.table
  let par := s.fld (R.mmuTstep 0 t) 1 1
  let s1 := (s.kitPages t).foldl (fun s x =>
    s.wrEntry x.2.pa (x.2.bits - (if x.2.bits.testBit 6 then 2 ^ 6 else 0) + par * 2 ^ 6)) s
  let s2 := (s1.setBoth (fun d => R.mmuTstep d t) 0 0 0)
  { s2 with progress := j.stepCounts.foldl (fun m x => SMap.set (fun _ => 0) m x.1 x.2) s2.progress }

/-- The restart point (R507) from what this rank knows of itself and the others have reported: in place when nothing is
damaged or lost, else the last step sealed on every rank, else none. -/
def Job.choose (j : Job) (m : RestartMsg) : RestartPoint :=
  let (bad, others) := match m with
    | .reports d o => (d, o)
    | _ => (false, if j.nranks ≤ 1 then some j.lastStep else none)
  if j.damaged.isEmpty && !bad then .inPlace j.lastCommit
  else if j.partner = 0 ∨ j.lastStep = 0 then .none
  else match others with
    | some n => if n = 0 then .none else .step (min n j.lastStep)
    | none => .none

/-- Steps 2 and 3 of R508 begin on a rank, at the point chosen. -/
def State.restartAt (s : State) (j : Job) (p : RestartPoint) : State :=
  match p with
  | .none => s.restartNone j
  | .inPlace n =>
    let j' := { j.renumber n with restarting := true, point := p }
    let s1 := (s.updJob j.handle (fun _ => j')).showRestart
    if j.nranks ≤ 1 ∨ j.rank ≠ 0 then s1.restartDone j' n else s1
  | .step n =>
    let s1 := (s.replaceDamaged j).updJob j.handle (fun j => { j.renumber n with restarting := true, point := p })
    ((s1.updTbl j.table (fun x => { x with failed := none })).restoreGets j.table).showRestart

/-- Step 1 of R508: the lead sends the point to every rank. -/
def State.tellPoint (s : State) (j : Job) (p : RestartPoint) : State :=
  if j.nranks ≤ 1 ∨ j.rank ≠ 0 then s
  else { s with out := s.out ++ ((List.range j.nranks).filter (fun r => r != 0)).map (fun r => Out.restart j.jid p r) }

/-- The point that a JOB_RESTART brings or lets this rank choose; none while a lead has no reports of its other ranks, or
another rank no point. -/
def Job.pointFor (j : Job) (m : RestartMsg) : Option RestartPoint :=
  if j.rank = 0 then
    match m with
    | .reports _ _ => some (j.choose m)
    | .own => if j.nranks ≤ 1 then some (j.choose m) else none
    | _ => none
  else match m with
    | .point p => some p
    | _ => none

/-- JOB_RESTART of a job whose restart is under way: it completes once every get is answered, and at the lead once every
other rank has reported. -/
def State.restartGoOn (s : State) (j : Job) (m : RestartMsg) : State :=
  if s.greqs.any (fun r => r.core == 32 + j.table) then s
  else if (s.tbl j.table).failed.isSome then s.restartNone { j with restarting := false }
  else if j.rank = 0 ∧ 1 < j.nranks ∧ m ≠ .done then s
  else match j.point with
    | .step n => (s.restored j).restartDone j n
    | .inPlace n => s.restartDone j n
    | .none => s

/-- JOB_RESTART (R507 to R510): the lead chooses the point and sends it, each rank restores its shard, and the restart
completes. A device that takes the place of a lost one restarts at the lead's point although it has not stopped. -/
def execJobRestart (r : RestartReq) (s : State) : Res :=
  match s.job r.job with
  | none => .next s
  | some j =>
    let replaced : Bool := j.rank != 0 && j.cmds.isEmpty && j.lastCommit == 0
    if (j.stopped.isNone ∧ ¬ replaced) ∨ s.running j.table ∨ j.ending ∨ (s.tbl j.table).job ≠ r.job then .next s
    else if j.restarting then .next (s.restartGoOn j r.msg)
    else match j.pointFor r.msg with
      | some p => .next ((s.tellPoint j p).restartAt j p)
      | none => .next s

/-! ### Steward watchdogs (R511, R519) -/

/-- The period of a steward core's watchdog begins. -/
def State.petted (s : State) (core : Nat) : State := { s with pets := SMap.set (fun _ => 0) s.pets core s.gtime }

/-- STW_WDOG_EXPIRY (R511): the period has passed. The first expiry interrupts the core and signals its dealer; the second is the
reset source. -/
def execStwWdogExpiry (core : Nat) (s : State) : Res :=
  let a := R.stwWdog core
  if ¬ (core < 32 ∧ bit 63 (s.reg a)) then .next s
  else
    let s0 := (s.until (SMap.get (fun _ => 0) s.pets core + BitVec.ofNat 64 (s.fld a 39 0))).petted core
    if s0.fld a 41 40 = 0 then
      let s1 := (s0.setFld a 41 40 1).dealerSees (core / 16)
      .next { s1 with out := s1.out ++ [.nmi core] }
    else .next (s0.setFld a 41 40 2)

/-- STW_PET (R519). -/
def execStwPet (core : Nat) (s : State) : Res :=
  if core < 32 then .next ((s.petted core).setFld (R.stwWdog core) 41 40 0) else .next s

end Sys2Proof.Machine
end

