-- ==== Sys2Proof/Machine/Power.lean ====
section
/-! DEFINITION. Clocks, power and temperature (R482 to R489, R514, R537). -/

namespace Sys2Proof.Machine

open Sys2Proof

/-! ### Island clocks (R132, R482, R483) -/

/-- ISLAND_CLOCK_SLEW (R482). -/
def execIslandClockSlew (isl : Nat) (s : State) : Res :=
  if isl < 192 then .next (s.setFld (R.islClk isl) 13 7 (s.fld (R.islClk isl) 6 0)) else .next s

/-- SUPPLY_DROOP (R483): the next cycle lengthens, which ISL_SEQ.reason shows in that cycle; the extra ticks are counted
(R132). -/
def execSupplyDroop (isl : Nat) (extra : Nat) (s : State) : Res :=
  if isl < 192 then .next ((s.incFld (R.stallStretch isl) 47 0 extra).updIsl isl (fun i => { i with droop := true })) else .next s

/-- A microsecond at throttle h lengthens the cycles of an island that runs a hand by h/64 of its 1,000 ticks, counted in
ISL_STALL_STRETCH (R132, R483, R486). -/
def State.countStretch (s : State) (i : Nat) : State :=
  let st := s.fld (R.islSeq i) 2 0
  let h := s.fld (R.islClk i) 19 14
  if (st = 1 ∨ st = 2) ∧ h ≠ 0 then
    let n := (s.isl i).stretch + 1000 * h
    (s.incFld (R.stallStretch i) 47 0 (n / 64)).updIsl i (fun x => { x with stretch := n % 64 })
  else s

/-! ### Capping (R485, R486, R487, R537) -/

/-- PWR_CAP_WRITE (R485): the limits never rise above their reset values. -/
def execPwrCapWrite (value : Word) (s : State) : Res :=
  .next ((s.setFld R.pwrCap 15 0 (min 1400 (field 15 0 value))).setFld R.pwrCap 31 16 (min 1250 (field 31 16 value)))

/-- A limit, 5 % lower while the estimate runs uncalibrated (R487), times 100. -/
def State.limit100 (s : State) (hi lo : Nat) : Nat := s.fld R.pwrCap hi lo * (if bit 44 (s.reg R.pwrStat) then 95 else 100)

/-- GPIO7 takes throttle requests (R534). -/
def State.throttlePin (s : State) : Bool := s.fld R.pinFunc 31 28 == 4

/-- The throttle applied to every island: trump tables take their own. -/
def State.applyThrottle (s : State) (plain trump : Nat) : State :=
  (List.range 192).foldl (fun s i =>
    let t := (s.isl i).table
    s.setFld (R.islClk i) 19 14 (if t ≠ 0 ∧ bit 1 (s.reg (R.tblCtl 0 t)) then trump else plain)) s

/-- The throttles after a step: (plain, trump). -/
def capStep (raise lower : Bool) (plain trump : Nat) : Nat × Nat :=
  if raise then (if plain < 48 then (plain + 1, trump) else (plain, min 48 (trump + 1)))
  else if lower then (if 0 < trump then (plain, trump - 1) else (plain - 1, trump))
  else (plain, trump)

/-- CAPPING_STEP (R486): `fast` and `slow` are the averages found; the microsecond that ends is counted as stretched. Thermal throttling and throttle requests act as a limit
exceeded (R488, R537). -/
def execCappingStep (fast slow : BitVec 16) (s : State) : Res :=
  let lf := s.limit100 15 0
  let ls := s.limit100 31 16
  let hot := bit 24 (s.reg (R.telTemp 0)) || bit 24 (s.reg (R.telTemp 1)) || (s.throttlePin && s.throttleLow)
  let above := decide (lf < fast.toNat * 100) || decide (ls < slow.toNat * 100)
  let lower := decide (fast.toNat * 10000 ≤ lf * 98) && decide (slow.toNat * 10000 ≤ ls * 98)
  let (p, t) := capStep (above || hot) lower (s.fld R.pwrStat 37 32) (s.fld R.pwrStat 43 38)
  let s1 := (((s.setFld R.pwrStat 15 0 fast.toNat).setFld R.pwrStat 31 16 slow.toNat).setFld R.pwrStat 37 32 p).setFld R.pwrStat 43 38 t
  let full := p == 48 && t == 48 && decide (lf < fast.toNat * 100)
  let e := s.energyUj + fast.toNat
  let s2 := (List.range 192).foldl State.countStretch (s1.setReg R.pwrEnergy (s1.reg R.pwrEnergy + BitVec.ofNat 64 (e / 1000)))
  .next ({ s2 with capStreak := if full then s.capStreak + 1 else 0, energyUj := e % 1000 }.applyThrottle p t)

/-- VOUT_COMMAND (R487, R523): only to the regulators of VDD_CORE0 and VDD_CORE1 that PWR_PMB names, and only with a setpoint
from 0.70 V to 0.80 V. -/
def State.voutCommand (s : State) (core1 : Bool) (mv : Nat) : State :=
  let addr := if core1 then s.fld R.pwrPmb 14 8 else s.fld R.pwrPmb 6 0
  if mv < 700 ∨ 800 < mv ∨ addr = 0 then s
  else
    let s1 := { s with out := s.out ++ [Out.pmbus addr mv] }
    if core1 then { s1 with vset1 := mv } else { s1 with vset0 := mv }

/-- CAPPING_CALIBRATION (R486, R487): a regulator that fails leaves the estimate uncalibrated and raises E_PMBUS. `vout` is
the adaptive voltage that firmware then asks for: of VDD_CORE1 or VDD_CORE0, in mV. -/
def execCappingCalibration (r : Calibration) (s0 : State) : Res :=
  let s := match r.vout with | some (c, mv) => s0.voutCommand c mv | none => s0
  let s1 := s.setFld R.pwrStat 44 44 (b2n r.faulty)
  if r.faulty then .next ((s1.setFld (R.errSum 0) 2 2 1).report K.ePmbus 0) else .next s1

/-- The plain jobs lose their islands (R514). -/
def State.shedPlain (s : State) : State :=
  (s.jobs.filter (fun j => !j.trump && !j.evict && j.nw.isSome)).foldl (fun s j => s.evict j) s

/-- CAPPING_EVENT (R486, R514): both throttles have stood at 48 for 1 ms above the fast limit. A second event within 100 ms
sheds the plain jobs; clock targets change by melds, which are commands of their own. -/
def execCappingEvent (s : State) : Res :=
  if s.capStreak < 1000 then .next s
  else
    let again := match s.capLast with | some t => decide ((s.gtime - t).toNat ≤ 100000000) | none => false
    let s1 := { s.setFld (R.errSum 0) 3 3 1 with capStreak := 0, capLast := some s.gtime }
    .next (if again then s1.shedPlain else s1)

/-- THROTTLE_REQUEST (R537): the level of GPIO7. -/
def execThrottleRequest (low : Bool) (s : State) : Res :=
  .next { s.setFld R.pinIn 7 7 (b2n !low) with throttleLow := low }

/-! ### Temperature (R488, R489, R498) -/

/-- A field of TEL_TEMP for a temperature in °C. -/
def tempField (c : Nat) : Nat := (c + 40) * 4

/-- SMB_ALERT_N conditions that are in force (R532). -/
def State.alertConds (s : State) : List Nat :=
  (List.range 7).filter (fun i =>
    match i with
    | 0 => bit 0 (s.reg (R.errSum 0)) | 1 => bit 0 (s.reg (R.errSum 1))
    | 2 => bit 25 (s.reg (R.telTemp 0)) | 3 => bit 25 (s.reg (R.telTemp 1))
    | 4 => bit 26 (s.reg (R.telTemp 0)) | 5 => bit 26 (s.reg (R.telTemp 1))
    | _ => s.loadState == 4)

/-- A condition that is no longer in force can assert the alert again. -/
def State.alertPrune (s : State) : State := { s with alertAck := s.alertAck.filter (fun c => s.alertConds.contains c) }

/-- TEMPERATURE_THRESHOLD (R488): the sensed maxima of a die. -/
def execTemperatureThreshold (die : BitVec 1) (tj tdram : BitVec 12) (s : State) : Res :=
  let a := R.telTemp die.toNat
  let was := bit 24 (s.reg a)
  let hot := decide (tempField 95 ≤ tj.toNat) || decide (tempField 95 ≤ tdram.toNat)
  let cool := decide (tj.toNat ≤ tempField 93) && decide (tdram.toNat ≤ tempField 93)
  let alert := decide (tempField 100 ≤ tj.toNat)
  let s1 := ((s.setFld a 11 0 tj.toNat).setFld a 23 12 tdram.toNat).setFld a 24 24 (b2n (hot || (was && !cool)))
  let s2 := s1.setFld a 25 25 (b2n alert)
  .next ((if alert ∧ ¬ bit 25 (s.reg a) then { s2 with out := s2.out ++ [.alert die.toNat] } else s2).alertPrune)

/-- Every SerDes transmitter is disabled: no link and no port stays up. -/
def State.serdesOff (s : State) : State :=
  let s1 := (List.range 32).foldl (fun s l => s.setFld (R.gulLstat l) 1 0 0) s
  (s1.setFld (R.ethPstat 0) 4 0 0).setFld (R.ethPstat 1) 4 0 0

/-- THERMAL_TRIP (R489): every job stops with E_THERMAL_TRIP; TEL_TEMP.trip stands until a Cold episode ends. -/
def execThermalTrip (die : BitVec 1) (s : State) : Res :=
  let a := R.telTemp die.toNat
  if tempField 110 ≤ s.fld a 11 0 ∨ tempField 105 ≤ s.fld a 23 12 then
    let s1 := (s.jobs.map Job.handle).foldl (fun s h => s.stopJob h K.eThermalTrip true) s
    .next ((s1.serdesOff).setFld a 26 26 1)
  else .next s

end Sys2Proof.Machine
end

