-- ==== Sys2Proof/Machine/RegWrite.lean ====
section
/-! DEFINITION. Writes of control-space registers that have no row of their own (R16 to R18, R54, R142, R163, R183, R399,
R430, R492). -/

namespace Sys2Proof.Machine

open Sys2Proof

/-- What a write does beside the register itself: a fence discards tokens, flags clear, a link or a port goes down or into
training, a cleared alert condition can return, the period of a watchdog that was off begins. -/
def State.writeEffect (s : State) (a : Nat) (old v : Word) : State :=
  match regPlace a with
  | .island i o => if o = 0x10 then s.fenceIsl i else s
  | .cell i c o => if o = 0x060 then s.updCell ⟨i, c⟩ (fun x => { x with flags := x.flags &&& ~~~(v.setWidth 5) }) else s
  | .block d .gul o =>
    if 0x100 ≤ o ∧ o < 0x300 ∧ o % 0x20 = 0x08 then
      let l := 16 * d + (o - 0x100) / 0x20
      if ¬ bit 0 v then s.setFld (R.gulLstat l) 1 0 0 else if bit 0 old then s else s.setFld (R.gulLstat l) 1 0 1
    else s
  | .block d .eth o =>
    if o = 0 then (if ¬ bit 0 v then s.setFld (R.ethPstat d) 4 0 0 else if bit 0 old then s else s.setFld (R.ethPstat d) 4 0 1) else s
  | .block d .err o =>
    if o = 0x018 then s.alertPrune
    else if 0x400 ≤ o ∧ o < 0x500 ∧ o % 16 = 0 ∧ ¬ bit 63 old then { s with pets := SMap.set (fun _ => 0) s.pets (16 * d + (o - 0x400) / 16) s.gtime }
    else s
  | _ => s

/-- A write of a register: nothing where no register lies, where none of its fields can be written, or where the write is a
command of its own. The registers that D1 mirrors are written on D0. -/
def State.writeReg (s : State) (a : Nat) (v : Word) : State :=
  let b := match regPlace a with
    | .block 1 .rcp o => if rcpShared o then blkReg 0 .rcp o else a
    | _ => a
  match regSpec b with
  | none => s
  | some r => if ownRow b then s else ((s.setReg b (r.written (s.reg b) v)).writeEffect b (s.reg b) v).noteMelds

/-! ### The trace port (R536) -/

/-- PIN_TRACE_WRITE (R536). -/
def execPinTraceWrite (word : Word) (s : State) : Res :=
  if 64 ≤ s.trace.length then .next (s.satFld R.pinTraceStat 31 16 1) else .next { s with trace := s.trace ++ [word] }

end Sys2Proof.Machine
end

