-- ==== Sys2Proof/Machine/Reset.lean ====
section
/-! DEFINITION. Reset sources and episodes as events (R468 to R479, R511, R512). -/

namespace Sys2Proof.Machine

open Sys2Proof

/-! ### Package sources (R468) -/

/-- POWER_ON. -/
def execPowerOn (s : State) : Res := .next (s.assertPackage .powerOn (s.srcLevel .powerOn) false)

/-- BROWN_OUT. -/
def execBrownOut (s : State) : Res := .next (s.assertPackage .brownOut (s.srcLevel .brownOut) false)

/-- RESET_N is driven by the part itself (R474). -/
def State.drivesResetN (s : State) : Bool := match s.episode with | some e => !e.minOver | none => false

/-- PIN_RESET: a low RESET_N counts while the part does not drive it. -/
def execPinReset (s : State) : Res := if s.drivesResetN then .next s else .next (s.assertPackage .pin (s.srcLevel .pin) false)

/-- CLOCK_FAILURE. -/
def execClockFailure (s : State) : Res := .next (s.assertPackage .clockFailure (s.srcLevel .clockFailure) false)

/-! ### Steward cores (R468, R472, R511, R512) -/

/-- A watchdog or lock-up source of a core: at Block the core is fenced and drains first. -/
def State.coreSource (s : State) (src : RstSource) (core : Nat) : State :=
  let lvl := s.srcLevel src
  if lvl ≠ .block then s.assertPackage src lvl false
  else if s.drains.any (fun d => d.1 == core) then s
  else { s.setFld (R.rstFence (core / 16)) (core % 16) (core % 16) 1 with drains := s.drains ++ [(core, src)] }

/-- WATCHDOG (R468): 2 in STW_WDOG.expiries is the second expiry. -/
def execWatchdog (core : Nat) (s : State) : Res :=
  if core < 32 ∧ s.fld (R.stwWdog core) 41 40 = 2 then .next (s.coreSource .watchdog core) else .next s

/-- LOCK_UP (R512). -/
def execLockUp (core : Nat) (s : State) : Res := if core < 32 then .next (s.coreSource .lockUp core) else .next s

/-- CORE_DRAIN_TIMEOUT (R472): a drained core has a Block episode; otherwise the episode is taken at Warm. -/
def execCoreDrainTimeout (core : Nat) (drained : Bool) (s : State) : Res :=
  match s.drains.find? (fun d => d.1 == core) with
  | none => .next s
  | some (_, src) =>
    let s1 := { s with drains := s.drains.filter (fun d => d.1 != core) }
    if drained then .next (s1.assertBlock src true (core / 16) (core % 16)) else .next (s1.assertPackage src .warm true)

/-! ### Requests (R471) -/

/-- RST_REQ (R471). -/
def execRstReq (kind : Bool) (die : BitVec 1) (index : BitVec 7) (s : State) : Res := .next (s.request .software kind die.toNat index.toNat)

/-- The debug level in force (R448, R454). -/
def State.debugLevel (s : State) : Nat := if s.loadState = 4 then min 1 s.fuses.dbg.toNat else s.fuses.dbg.toNat

/-- DEBUG_REQUEST (R468): at debug level 3 only. -/
def execDebugRequest (kind : Bool) (die : BitVec 1) (index : BitVec 7) (s : State) : Res :=
  if s.debugLevel = 3 then .next (s.request .debug kind die.toNat index.toNat) else .next s

/-! ### Episodes (R474 to R477) -/

/-- SOURCE_RELEASE (R475). RESET_N that the sample found low ends the episode when it reads high. -/
def execSourceRelease (src : RstSource) (s : State) : Res :=
  let s1 := { s with blocks := s.blocks.map (fun (b : BlockEp) => { b with held := b.held.filter (fun x => x != src) }) }
  match s.episode with
  | none => .next s1
  | some e =>
    let held := e.held.filter (fun x => x != src)
    let high := e.high || (e.minOver && src == .pin && e.held.contains .pin && held.isEmpty)
    .next { s1 with episode := some { e with held := held, high := high } }

/-- EPISODE_MINIMUM_END (R474): of the package episode, or of the first Block episode whose minimum runs. -/
def execEpisodeMinimumEnd (s : State) : Res :=
  match s.episode with
  | some e =>
    if e.held.isEmpty ∧ ¬ e.minOver then .next { s.until (e.since + 10000) with episode := some { e with minOver := true } } else .next s
  | none =>
    match s.blocks.find? (fun b => b.held.isEmpty && !b.minOver) with
    | none => .next s
    | some b =>
      .next { s.until (b.since + 10000) with
        blocks := s.blocks.map (fun (x : BlockEp) =>
          if x.kind = b.kind ∧ x.die = b.die ∧ x.index = b.index then { x with minOver := true } else x) }

/-- RESET_N_SAMPLE (R474): 2 µs after the drive stops. -/
def execResetNSample (low : Bool) (s : State) : Res :=
  match s.episode with
  | none => .next s
  | some e =>
    if ¬ e.minOver ∨ e.high ∨ ¬ e.held.isEmpty then .next s
    else
      let s1 := s.advance 2000
      if low then .next (s1.assertPackage .pin (s.srcLevel .pin) false) else .next { s1 with episode := some { e with high := true } }

/-- EPISODE_RELEASE (R476, R477): the end of the package episode, unless a thermal trip makes it wait, or of the first
Block episode that is over. -/
def execEpisodeRelease (s : State) : Res :=
  match s.episode with
  | some e => if e.minOver ∧ e.high ∧ e.held.isEmpty ∧ ¬ s.tripWaits then .next (s.releasePackage e) else .next s
  | none =>
    match s.blocks.find? (fun b => b.held.isEmpty && b.minOver) with
    | some b => .next (s.releaseBlock b)
    | none => .next s

/-! ### References (R478, R479) -/

/-- Whether a reference is present, as CLK_STAT shows it. -/
def State.refOk (s : State) (ref : Bool) : Bool := bit (if ref then 2 else 1) (s.reg (R.clkStat 0))
/-- The reference in use. -/
def State.refSel (s : State) : Bool := bit 0 (s.reg (R.clkStat 0))
def State.setRef (s : State) (ref ok : Bool) : State :=
  let b := if ref then 2 else 1
  (s.setFld (R.clkStat 0) b b (b2n ok)).setFld (R.clkStat 1) b b (b2n ok)

/-- REFERENCE_CLOCK_PRESENCE (R479). -/
def execReferenceClockPresence (ref : Bool) (present : Bool) (s : State) : Res :=
  if ref = s.refSel then .next s else .next (s.setRef ref present)

/-- CLK_FAILOVER (R479): the selected reference is lost and the other is present. -/
def execClkFailover (s : State) : Res :=
  let sel := s.refSel
  if ¬ s.refOk (!sel) then .next s
  else
    let s1 := s.setRef sel false
    let s2 := (s1.setFld (R.clkStat 0) 0 0 (b2n !sel)).setFld (R.clkStat 1) 0 0 (b2n !sel)
    .next (((s2.satFld (R.clkStat 0) 31 16 1).satFld (R.clkStat 1) 31 16 1).report K.clkFailover 0)

end Sys2Proof.Machine
end

