-- ==== Sys2Proof/Machine/Streams.lean ====
section
/-! DEFINITION. Stream engines as events (R196, R199 to R211) and the damper (R204, R205). -/

namespace Sys2Proof.Machine

open Sys2Proof

/-! ### The damper (R204, R205) -/

/-- The class of an address: 0 cell SRAM, 1 near DRAM, 2 far DRAM. -/
def State.dampClass (s : State) (pa : Nat) : Nat :=
  match s.region pa with
  | .sram _ _ => 0 | .far _ _ => 2 | _ => 1

/-- The damper window of an island (R205). -/
def State.window (s : State) (i : Nat) : Nat := (s.reg (R.islCycle i)).toNat / 256

/-- A field of CELL_DAMP or ISL_DAMP: the budget of a class. -/
def budgetField (cls : Nat) (w : Word) : Nat := field (16 * cls + 15) (16 * cls) w

/-- What is left of a budget in this window, in beats; 0xFFFF is unpaced. A window in which nothing has been debited yet
has its field in full (R205). -/
def Cell.damp (c : Cell) (cls : Nat) : Nat := if cls = 0 then c.dampS else if cls = 1 then c.dampN else c.dampF
def Isl.damp (i : Isl) (cls : Nat) : Nat := if cls = 0 then i.dampS else if cls = 1 then i.dampN else i.dampF
def State.cellBudget (s : State) (k : CellRef) (cls : Nat) : Nat :=
  if (s.cell k).dampW = some (s.window k.isl) then (s.cell k).damp cls else budgetField cls (s.reg (R.cellDamp k))
def State.islBudget (s : State) (i cls : Nat) : Nat :=
  if (s.isl i).dampW = some (s.window i) then (s.isl i).damp cls else budgetField cls (s.reg (R.islDamp i))

/-- The budgets of the window stand beside their registers: what a meld changes from here on counts from the next window
(R207). -/
def State.holdCell (s : State) (k : CellRef) : State :=
  s.updCell k (fun c => { c with
    dampS := s.cellBudget k 0, dampN := s.cellBudget k 1, dampF := s.cellBudget k 2, dampW := some (s.window k.isl) })
def State.holdIsl (s : State) (i : Nat) : State :=
  s.updIsl i (fun x => { x with
    dampS := s.islBudget i 0, dampN := s.islBudget i 1, dampF := s.islBudget i 2, dampW := some (s.window i) })

def spend (n : Nat) : Nat := if n = 0xFFFF then n else n - 1
def Cell.debit (c : Cell) (cls : Nat) : Cell :=
  if cls = 0 then { c with dampS := spend c.dampS } else if cls = 1 then { c with dampN := spend c.dampN }
  else { c with dampF := spend c.dampF }
def Isl.debit (i : Isl) (cls : Nat) : Isl :=
  if cls = 0 then { i with dampS := spend i.dampS } else if cls = 1 then { i with dampN := spend i.dampN }
  else { i with dampF := spend i.dampF }

/-- A beat fits in the budgets of its cell and its island. -/
def State.dampOpen (s : State) (k : CellRef) (cls : Nat) : Bool := s.cellBudget k cls != 0 && s.islBudget k.isl cls != 0

/-- The damper lets a beat of an engine pass and debits it. -/
def State.debit (s : State) (k : CellRef) (e cls : Nat) : State :=
  (((s.holdCell k).holdIsl k.isl).updCell k (fun c => c.debit cls)).updIsl k.isl
    (fun i => { i.debit cls with dheld := i.dheld.filter (fun h => !(h.1 == k.c && h.2.1 == e)) })

/-- DAMPER_WINDOW (R205): island cycles pass until ISL_CYCLE is a multiple of 256, none if it is, and every budget of the
window that starts is its field. -/
def execDamperWindow (isl : Nat) (s : State) : Res :=
  if 192 ≤ isl then .next s
  else
    let c := (s.reg (R.islCycle isl)).toNat
    let n := (256 - c % 256) % 256
    let s1 := if n = 0 then s else s.passHeld isl n
    let s2 := s1.setReg (R.islCycle isl) (BitVec.ofNat 64 (c + n))
    .next ((s2.islCells isl).foldl (fun s k => s.holdCell k) (s2.holdIsl isl))

/-! ### Translating a beat (R208, R282, R286, R288) -/

/-- Where a byte of a beat goes. -/
inductive ByteTo where
  | pa (a : Nat)
  | mc (group target c off : Nat)
  deriving DecidableEq, Repr

/-- The outcome of translating a beat: halt at the first absent byte, refuse, wait for a version, or the bytes' places. -/
inductive BeatTrans where
  | absent (va : Nat)
  | refused (code : Code)
  | version (step : Bool) (e : PageEnt)
  | go (l : List (Nat × ByteTo))
  deriving DecidableEq, Repr

/-- Translate the bytes of a beat in walk order; an absent page comes first, then a refusal, then a version. -/
def transBytes (tr : Nat → Trans) (l : List (Nat × Nat)) : BeatTrans :=
  let ts := l.map (fun x => (x.1, x.2, tr x.2))
  match ts.find? (fun t => t.2.2 == .absent) with
  | some t => .absent t.2.1
  | none =>
    match ts.findSome? (fun t => match t.2.2 with | .refused c => some c | _ => none) with
    | some c => .refused c
    | none =>
      match ts.findSome? (fun t => match t.2.2 with | .version st e => some (st, e) | _ => none) with
      | some (st, e) => .version st e
      | none => .go (ts.filterMap (fun t => match t.2.2 with
          | .pa a => some (t.1, .pa a)
          | .multicast g tg c o => some (t.1, .mc g tg c o)
          | _ => none))

/-- The bytes of a beat that are not padding: offset in the beat and virtual address. -/
def Desc.bytes (d : Desc) (b : Nat) : List (Nat × Nat) :=
  (List.range 32).filterMap (fun j => (d.byteVA b j).map (fun a => (j, a)))

/-- A byte continues a run: same agent and next address, or next offset of the same multicast target. -/
def State.follows (s : State) (x y : ByteTo) (n : Nat) : Bool :=
  match x, y with
  | .pa a, .pa b => b == a + n && s.memAgent a == s.memAgent b
  | .mc g t c o, .mc g' t' c' o' => g == g' && t == t' && c == c' && o' == o + n
  | _, _ => false

/-- The runs of a beat: offset in the beat, length, place of the first byte. -/
def State.runs (s : State) : List (Nat × ByteTo) → List (Nat × Nat × ByteTo) → List (Nat × Nat × ByteTo)
  | [], acc => acc
  | (j, t) :: r, acc =>
    match acc.getLast? with
    | some (j0, n, t0) =>
      if j = j0 + n ∧ s.follows t0 t n then State.runs s r (acc.dropLast ++ [(j0, n + 1, t0)]) else State.runs s r (acc ++ [(j, 1, t)])
    | none => State.runs s r [(j, 1, t)]

/-- The class of the first byte of a beat. -/
def State.beatClass (s : State) (l : List (Nat × ByteTo)) : Nat :=
  match l with
  | (_, .pa a) :: _ => s.dampClass a
  | (_, .mc _ t _ _) :: _ => if t = 0 then 0 else 1
  | [] => 1

/-! ### Halts and refusals (R208, R209, R286) -/

def State.halt (s : State) (k : CellRef) (e : Nat) (b va : Nat) : State :=
  let c := s.cell k
  let x := c.eng e
  let kind := if (c.descOf x.slot).isScale b then 3 else if x.dir then 2 else 1
  (s.updCell k (fun c => c.setEng e { x with state := .halted, prev := x.state, fkind := kind, sfva := va, resume := false })).raise
    (s.homeDie (s.isl k.isl).table k.isl) (.translation k.isl k.c e va)

def State.refuseWalk (s : State) (k : CellRef) (e : Nat) (code : Code) : State :=
  (s.updCell k (fun c => c.setEng e { c.eng e with refused := true })).raise
    (s.homeDie (s.isl k.isl).table k.isl) (.stream k.isl k.c e code)

/-- The damper holds an engine's beat: the island cycles that pass from here on are counted once each (R215). -/
def State.dampHold (s : State) (k : CellRef) (e cls : Nat) : State :=
  s.updIsl k.isl (fun i => if i.dheld.any (fun h => h.1 == k.c && h.2.1 == e) then i else { i with dheld := i.dheld ++ [(k.c, e, cls)] })

/-! ### Inbound: request and land (R200, R201) -/

/-- Whether an inbound engine may request its next beat (R200). -/
def Cell.mayRequest (c : Cell) (e : Nat) : Bool :=
  let x := c.eng e
  let d := c.descOf x.slot
  x.state == .running && !x.dir && !x.refused && decide (x.next < d.totalBeats) && decide (x.ring.length < ringBeats d)
    && (d.runahead == 0 || decide (x.ring.length < d.runahead))

/-- Send the read requests of a beat: bytes of the cell's own SRAM are read directly; those of an uncorrectable block never
come (R297). -/
def State.requestRuns (s : State) (k : CellRef) (e b : Nat) (rs : List (Nat × Nat × ByteTo)) : State :=
  let t := (s.isl k.isl).table
  rs.foldl (fun s r =>
    match r.2.2 with
    | .pa a =>
      let ask : Asker := .stream (gid k) e b r.1
      (match s.region a with
       | .sram k' off =>
         if k' = k then
           let (s1, ok) := s.readRange (islDie k.isl) 0 t [] (blocksOf a r.2.1)
           if ok then s1.deliverReply ask false 0 (s1.sramN k off r.2.1) else s1
         else s.sendMem ⟨false, a, r.2.1, [], islAgent k.isl, ask, t, s.ecmd t⟩
       | _ => s.sendMem ⟨false, a, r.2.1, [], islAgent k.isl, ask, t, s.ecmd t⟩)
    | .mc _ _ _ _ => s) s

/-- The island's cache learns the pages of a beat (R285). -/
def State.learnBeat (s : State) (isl t : Nat) (l : List (Nat × Nat)) : State :=
  l.foldl (fun s x => s.learn (islAgent isl) t x.2) s

/-- The request of an inbound engine's next beat. -/
def State.beatRequest (s0 : State) (k : CellRef) (e : Nat) : State :=
  let c := s0.cell k
  let x := c.eng e
  if ¬ c.mayRequest e then s0
  else
    let t := (s0.isl k.isl).table
    let bs := (c.descOf x.slot).bytes x.next
    let s := s0.learnBeat k.isl t bs
    match transBytes (fun va => s.transRead (islAgent k.isl) t va (s.running t)) bs with
    | .absent va => s.halt k e x.next va
    | .refused code => s.refuseWalk k e code
    | .version _ _ => s
    | .go l =>
      if ¬ s.dampOpen k (s.beatClass l) then s.dampHold k e (s.beatClass l)
      else
        let rs := s.runs l []
        let y := { x with next := x.next + 1, ring := x.ring ++ [⟨x.next, List.replicate 32 0, rs.length, true⟩] }
        ((s.debit k e (s.beatClass l)).updCell k (fun c => c.setEng e y)).requestRuns k e x.next rs

/-- Put bytes at an offset of a beat. -/
def overlay (bs : List Byte) (off : Nat) (new : List Byte) : List Byte :=
  bs.take off ++ new ++ bs.drop (off + new.length)

/-- A beat with its unused positions 0 (R73, R193). -/
def maskBeat (d : Desc) (b : Nat) (bs : List Byte) : List Byte :=
  (List.range 32).zipWith (fun j v => v &&& d.byteMask b j) bs

/-- The first reply at an engine lands: the beat's bytes stand in the ring when all its parts have come, unused positions
0 (R73, R193, R201); a stopping engine discards it. -/
def State.beatLand (s : State) (k : CellRef) (e : Nat) : State :=
  let c := s.cell k
  let x := c.eng e
  match x.replies with
  | [] => s
  | r :: rest =>
    let d := c.descOf x.slot
    let upd (b : Beat) : Beat := if b.idx = r.idx then { b with bytes := overlay b.bytes r.off r.bytes, need := b.need - 1 } else b
    let ring := x.ring.map upd
    let x1 := { x with replies := rest, ring := ring }
    if x.state = .stopping then
      s.updCell k (fun c => c.setEng e { x1 with ring := ring.filter (fun b => b.need != 0) })
    else
      let s1 := s.updCell k (fun c => c.setEng e x1)
      match ring.find? (fun b => b.idx == r.idx && b.need == 0) with
      | none => s1
      | some b =>
        s1.sramLane k (ringAt d b.idx) (maskBeat d b.idx b.bytes) none

/-! ### Outbound: write and done (R200, R203) -/

/-- Whether an outbound engine may write. -/
def Engine.mayWrite (x : Engine) : Bool :=
  x.dir && !x.refused && (x.state == .running || x.state == .draining || x.state == .stopping)

/-- Send the writes of a beat; a multicast write has no acknowledgement and counts as done. -/
def State.writeRuns (s : State) (k : CellRef) (e b : Nat) (bs : List Byte) (rs : List (Nat × Nat × ByteTo)) : State :=
  let t := (s.isl k.isl).table
  rs.foldl (fun s r =>
    let data := (bs.drop r.1).take r.2.1
    let ask : Asker := .stream (gid k) e b r.1
    match r.2.2 with
    | .pa a =>
      (match s.region a with
       | .sram k' off =>
         if k' = k then (s.sramLane k off data none).deliverReply ask true 0 []
         else s.sendMem ⟨true, a, data.length, data, islAgent k.isl, ask, t, s.ecmd t⟩
       | _ => s.sendMem ⟨true, a, data.length, data, islAgent k.isl, ask, t, s.ecmd t⟩)
    | .mc g tg c off =>
      let p := { Packet.mk0 (islAgent k.isl) g .multicast with
        mc := true, len := data.length, cmd := s.ecmd t, table := t, arg := tg + c * 2 + off * 32, data := data }
      (s.inject p).deliverReply ask true 0 []) s

/-- A stopping engine that meets an absent page drops the beat and those after it, as a halted one does (R197). -/
def State.dropBeat (s : State) (k : CellRef) (e idx : Nat) : State :=
  s.updCell k (fun c => c.setEng e { c.eng e with ring := (c.eng e).ring.filter (fun b => decide (b.idx < idx) || b.issued) })

/-- The write of an outbound engine's oldest beat not yet written. -/
def State.beatWrite (s0 : State) (k : CellRef) (e : Nat) : State :=
  let c := s0.cell k
  let x := c.eng e
  if ¬ x.mayWrite then s0
  else
    match x.ring.find? (fun b => !b.issued) with
    | none => s0
    | some b =>
      let t := (s0.isl k.isl).table
      let d := c.descOf x.slot
      let s := s0.learnBeat k.isl t (d.bytes b.idx)
      match transBytes (fun va => s.transWrite (islAgent k.isl) t va (s.running t)) (d.bytes b.idx) with
      | .absent va => if x.state = .stopping then s.dropBeat k e b.idx else s.halt k e b.idx va
      | .refused code => s.refuseWalk k e code
      | .version st ent => s.startVersion t ent st
      | .go l =>
        if ¬ s.dampOpen k (s.beatClass l) then s.dampHold k e (s.beatClass l)
        else
          let rs := s.runs l []
          let ring := x.ring.map (fun y => if y.idx = b.idx then { y with need := rs.length, issued := true } else y)
          ((s.debit k e (s.beatClass l)).updCell k (fun c => c.setEng e { x with ring := ring })).writeRuns k e b.idx (maskBeat d b.idx b.bytes) rs

/-- The first acknowledged write of an engine: a beat whose writes are all done frees its ring space; a draining engine
that has none left is idle (R196, R200). -/
def State.writeDone (s : State) (k : CellRef) (e : Nat) : State :=
  let x := (s.cell k).eng e
  match x.dones with
  | [] => s
  | i :: rest =>
    let ring := (x.ring.map (fun b => if b.idx = i then { b with need := b.need - 1 } else b)).filter
      (fun b => !(b.issued && b.need == 0))
    let st := if x.state = .draining ∧ ring.isEmpty then EState.idle else x.state
    s.updCell k (fun c => c.setEng e { x with dones := rest, ring := ring, state := st })

/-! ### The commands -/

/-- STREAM_BEAT_REQUEST (R200). -/
def execStreamBeatRequest (c : CellRef) (e : BitVec 2) (s : State) : Res :=
  if s.cellExists c ∧ ¬ s.scanHeld c.isl then .next (s.beatRequest c e.toNat) else .next s

/-- STREAM_BEAT_WRITE (R200). -/
def execStreamBeatWrite (c : CellRef) (e : BitVec 2) (s : State) : Res :=
  if s.cellExists c ∧ ¬ s.scanHeld c.isl then .next (s.beatWrite c e.toNat) else .next s

/-- STREAM_BEAT_LAND (R201). -/
def execStreamBeatLand (c : CellRef) (e : BitVec 2) (s : State) : Res :=
  if s.cellExists c then .next (s.beatLand c e.toNat) else .next s

/-- STREAM_WRITE_DONE (R200). -/
def execStreamWriteDone (c : CellRef) (e : BitVec 2) (s : State) : Res :=
  if s.cellExists c then .next (s.writeDone c e.toNat) else .next s

/-- STREAM_STOP_DONE (R196): a stopping engine with nothing outstanding becomes idle. -/
def execStreamStopDone (c : CellRef) (e : BitVec 2) (s : State) : Res :=
  let x := (s.cell c).eng e.toNat
  if x.state = .stopping ∧ x.ring.isEmpty ∧ x.replies.isEmpty ∧ x.dones.isEmpty then
    .next (s.updCell c (fun z => z.setEng e.toNat { x with state := .idle }))
  else .next s

/-- STREAM_RESUME (R209, R210): a halted engine takes its resume and translates the same address again. -/
def execStreamResume (c : CellRef) (e : BitVec 2) (s : State) : Res :=
  let x := (s.cell c).eng e.toNat
  if x.state = .halted ∧ x.resume then
    let s1 := s.updCell c (fun z => z.setEng e.toNat { x with state := x.prev, resume := false })
    .next (if x.dir then s1.beatWrite c e.toNat else s1.beatRequest c e.toNat)
  else .next s

/-- CELL_SRESUME_WRITE (R143): a bit whose engine is not halted is ignored. -/
def execCellSresumeWrite (c : CellRef) (engines : BitVec 4) (s : State) : Res :=
  .next ((List.range 4).foldl (fun s e =>
    if engines.getLsbD e ∧ ((s.cell c).eng e).state = .halted then
      s.updCell c (fun z => z.setEng e { z.eng e with resume := true })
    else s) s)

end Sys2Proof.Machine
end

