-- ==== Sys2Proof/Machine/MeldUnit.lean ====
section
/-! DEFINITION. Melds (R251, R361 to R366, R535): staging, the ordered check, the apply. -/

namespace Sys2Proof.Machine

open Sys2Proof

namespace K
def eMeldState : Code := 0x0520
def eMeldRange : Code := 0x0521
def eMeldOwner : Code := 0x0522
def eMeldBusy : Code := 0x0523
def eMeldFence : Code := 0x0524
def eMeldTree : Code := 0x0525
def eMeldGroup : Code := 0x0526
def eMeldConflict : Code := 0x0527
def eMeldClock : Code := 0x0528
end K

/-! ### The state that the apply would make -/

def meldOverlay (s : State) (l : List (Nat × Word)) : State := l.foldl (fun s x => s.setReg x.1 x.2) s

/-! ### Group entries (R252) -/

def mcgRoot (w : Word) : Nat := 96 * field 15 15 w + field 14 8 w
def mcgOwner (w : Word) : Nat := field 23 16 w
def mcgValid (w : Word) : Bool := bit 31 w
def mcgLocal (w : Word) : Bool := bit 4 w

/-- The islands whose entry of a group is valid. -/
def State.mcgValids (s : State) (g : Nat) : List Nat := (List.range 192).filter (fun i => mcgValid (s.reg (R.islMcg i g)))

/-- Walk a group from a list of routers: the routers reached, none if one is reached twice, lacks a valid entry or lies
outside the package. -/
def State.mcgWalk (s : State) (g : Nat) : Nat → List Nat → List Nat → Option (List Nat)
  | 0, _, _ => none
  | _ + 1, [], seen => some seen
  | fuel + 1, i :: todo, seen =>
    let w := s.reg (R.islMcg i g)
    if seen.contains i ∨ ¬ mcgValid w then none
    else
      let ps := (List.range 4).filter (fun p => bit p w)
      if ps.any (fun p => (islNbr i p).isNone) then none
      else State.mcgWalk s g fuel (todo ++ ps.filterMap (islNbr i)) (seen ++ [i])

/-- The ports that a group marks form a tree from its root, each router reached once. A valid entry that marks nothing, as
that of a source stop may be (the example of R251), need not be on it. -/
def State.mcgTree (s : State) (g root : Nat) : Bool :=
  let v := s.mcgValids g
  if v.isEmpty then true
  else match s.mcgWalk g 400 [root] [] with
    | some l => v.all (fun i => l.contains i || field 4 0 (s.reg (R.islMcg i g)) == 0)
    | none => false

/-! ### GPIO functions (R534, R535) -/

def gpioCode (w : Word) (k : Nat) : Nat := field (4 * k + 3) (4 * k) w

/-- A code on a pin that does not allow it, a trace function without the others, or trace below debug level 2. -/
def pinFuncBad (w : Word) (debug : Nat) : Bool :=
  let code := gpioCode w
  let allowed (k c : Nat) : Bool :=
    c == 0 || (c == 1 && k != 4) || (c == 2 && decide (k < 4)) || (c == 3 && k == 4) || (c == 4 && k == 7)
  let trace := (List.range 8).any (fun k => code k == 2 || code k == 3)
  let whole := code 4 == 3 && (List.range 4).all (fun k => code k == 2)
  field 63 32 w != 0 || (List.range 8).any (fun k => !allowed k (code k)) || (trace && (!whole || decide (debug < 2)))

def pinAlertBad (al fn : Word) : Bool :=
  let pin := field 2 0 al
  field 63 4 al != 0 || (bit 3 al && !(pin == 4 || pin == 5 || pin == 6)) || (bit 3 al && (pin == 5 || pin == 6) && gpioCode fn pin != 0)

/-! ### The rules of R363, each on one entry of the would-be state `w` -/

/-- Rule 2. -/
def State.rule2 (s w : State) (a : Nat) (v : Word) : Bool :=
  match s.mreg a with
  | none => false
  | some (.cellDamp _) => field 63 48 v == 0
  | some (.islDamp _) => field 63 48 v == 0
  | some (.mcg _ _) => field 7 5 v == 0 && field 30 24 v == 0 && field 63 32 v == 0 && decide (field 14 8 v < 96)
  | some (.fence _) => field 63 4 v == 0
  | some (.link k _) => linksOk k (fun o => w.reg (Machine.cellReg k o)) (w.fenced k)
  | some (.wdog _) => field 62 40 v == 0
  | some (.slice _) => field 62 40 v == 0
  | some (.clk _) => field 63 7 v == 0
  | some .pinFunc => !pinFuncBad v w.fuses.dbg.toNat && !pinAlertBad (w.reg R.pinAlert) v
  | some .pinAlert => !pinAlertBad v (w.reg R.pinFunc)

/-- Rule 3. -/
def State.rule3 (s : State) (t a : Nat) (v : Word) : Bool :=
  match s.mreg a with
  | none => true
  | some r =>
    let isl := match r.isl with | some i => (s.isl i).table == t | none => true
    let grp := match r with
      | .mcg _ _ => (!mcgValid v || mcgOwner v == t) && (!mcgValid (s.reg a) || mcgOwner (s.reg a) == t)
      | _ => true
    isl && grp

/-- A command runs in an island. -/
def State.busyIsl (s : State) (i : Nat) : Bool := (s.isl i).table != 0 && s.running (s.isl i).table

/-- Rule 4: the fence of a boundary, and link settings. -/
def State.rule4 (s : State) (a : Nat) (v : Word) : Bool :=
  match s.mreg a with
  | some (.fence i) =>
    !s.busyIsl i && (List.range 4).all (fun p =>
      match islNbr i p with
      | some i' => bit p v == bit p (s.reg a) || !s.busyIsl i'
      | none => true)
  | some (.link k _) => !s.busyIsl k.isl
  | _ => true

/-- Rule 5. -/
def State.rule5 (s w : State) (a : Nat) : Bool :=
  match s.mreg a with
  | some (.fence i) =>
    (List.range 4).all (fun p =>
      match islNbr i p with
      | some i' => bit p (w.reg (R.islFence i)) || bit (facing p) (w.reg (R.islFence i')) || (s.isl i).table == (s.isl i').table
      | none => true)
  | _ => true

/-- Rule 6. -/
def State.rule6 (s w : State) (a : Nat) : Bool :=
  match s.mreg a with
  | some (.mcg _ g) =>
    (match (w.mcgValids g).head? with
     | some i => w.mcgTree g (mcgRoot (w.reg (R.islMcg i g)))
     | none => true)
  | _ => true

/-- Rule 7. -/
def State.rule7 (s w : State) (a : Nat) : Bool :=
  match s.mreg a with
  | some (.mcg i g) =>
    let v := w.reg a
    !mcgValid v || ((!mcgLocal v || (s.isl i).table == mcgOwner v) &&
      (w.mcgValids g).all (fun j => mcgRoot (w.reg (R.islMcg j g)) == mcgRoot v))
  | _ => true

/-- Rule 8 (R364). -/
def State.rule8 (s w : State) (a : Nat) : Bool :=
  let gpio4 := !(bit 3 (w.reg R.pinAlert) && field 2 0 (w.reg R.pinAlert) == 4 && gpioCode (w.reg R.pinFunc) 4 == 3)
  let timer (i : Nat) : Bool := !(bit 63 (w.reg (R.islWdog i)) && bit 63 (w.reg (R.islSlice i)))
  match s.mreg a with
  | some .pinFunc => gpio4
  | some .pinAlert => gpio4
  | some (.wdog i) => timer i
  | some (.slice i) => timer i
  | some (.mcg i g) =>
    !mcgValid (w.reg a) || (w.mcgValids g).all (fun j => islDie j != islDie i || mcgOwner (w.reg (R.islMcg j g)) == mcgOwner (w.reg a))
  | _ => true

/-- Rule 9 (R482). -/
def State.rule9 (s : State) (a : Nat) (v : Word) : Bool :=
  match s.mreg a with
  | some (.clk _) => decide (8 ≤ field 6 0 v) && decide (field 6 0 v ≤ 64)
  | _ => true

/-- The index of the first entry that breaks a rule. -/
def firstBad (ok : Nat → Word → Bool) (l : List (Nat × Word)) : Option Nat := l.findIdx? (fun x => !ok x.1 x.2)

/-- Rules 2 to 9 in order: the code and the entry of the first rule broken. -/
def State.meldRules (s : State) (t : Nat) (l : List (Nat × Word)) : Option (Code × Nat) :=
  let w := meldOverlay s l
  let rules : List (Code × (Nat → Word → Bool)) :=
    [(K.eMeldRange, s.rule2 w), (K.eMeldOwner, fun a v => t == 0 || s.rule3 t a v), (K.eMeldBusy, s.rule4),
     (K.eMeldFence, fun a _ => s.rule5 w a), (K.eMeldTree, fun a _ => s.rule6 w a), (K.eMeldGroup, fun a _ => s.rule7 w a),
     (K.eMeldConflict, fun a _ => s.rule8 w a), (K.eMeldClock, s.rule9)]
  rules.findSome? (fun r => (firstBad r.2 l).map (fun i => (r.1, i)))

/-! ### The commands -/

/-- MELD_OPEN (R361, R366): ignored while a meld is open on the die. -/
def execMeldOpen (die : BitVec 1) (t : BitVec 8) (s : State) : Res :=
  let d := die.toNat
  if s.meldState d ≠ 0 then .next s
  else .next ((s.setReg (R.meldStat d) 1).setMeld d { table := t.toNat })

/-- Stage a value for an address: a new one takes the next index, a known one keeps its own. -/
def stageEntry (a : Nat) (v : Word) (l : List (Nat × Word)) : List (Nat × Word) :=
  if l.any (fun x => x.1 == a) then l.map (fun x => if x.1 = a then (a, v) else x) else l ++ [(a, v)]

/-- MELD_STAGE (R361, R366): a write to MELD_SDATA for the address in MELD_SADDR. -/
def execMeldStage (die : BitVec 1) (value : Word) (s : State) : Res :=
  let d := die.toNat
  let m := s.meld d
  let a := s.fld (R.meldSaddr d) 47 0
  if s.meldState d = 0 then .next s
  else if 8192 ≤ m.entries.length ∧ ¬ m.entries.any (fun x => x.1 == a) then .next ((s.setFld (R.meldStat d) 59 59 1).setMeldState d 1)
  else
    let l := stageEntry a value m.entries
    .next (((s.setMeld d { m with entries := l }).setFld (R.meldStat d) 58 45 l.length).setMeldState d 1)

/-- MELD_CHECK (R363). -/
def execMeldCheck (die : BitVec 1) (s : State) : Res :=
  let d := die.toNat
  let m := s.meld d
  if s.meldState d = 0 then .next (s.meldFail d K.eMeldState 0)
  else if m.entries.isEmpty ∨ bit 59 (s.reg (R.meldStat d)) then .next ((s.meldFail d K.eMeldState 0).setMeldState d 5)
  else match s.meldRules m.table m.entries with
    | some (c, i) => .next ((s.meldFail d c i).setMeldState d 5)
    | none =>
      .next (((s.meldFail d 0 0).setFld (R.meldStat d) 3 0 3).setMeld d { m with snap := s.meldSnap m.table m.entries })

/-- Make one entry current; a damper budget counts from the next window (R207). -/
def State.applyEntry (s : State) (a : Nat) (v : Word) : State :=
  match s.mreg a with
  | some (.fence i) => (s.setFld a 3 0 v.toNat).fenceIsl i
  | some (.clk _) => s.setFld a 6 0 v.toNat
  | some (.cellDamp k) => (s.holdCell k).setReg a v
  | some (.islDamp i) => (s.holdIsl i).setReg a v
  | some _ => s.setReg a v
  | none => s

/-- A router still holds a packet of a group that the meld sets (R251). -/
def State.groupsBusy (s : State) (l : List (Nat × Word)) : Bool :=
  l.any (fun x => match s.mreg x.1 with | some (.mcg _ g) => s.mesh.any (fun p => p.mc && p.port != 5 && p.dst == g) | _ => false)

/-- The die of a register. -/
def regDie (a : Nat) : Nat := (a - ctlBase 0) / dieSpan

/-- A meld closes: nothing is staged; `full` stays until the next one opens (R371). -/
def State.closeMeld (s : State) (d : Nat) : State :=
  ((s.setMeld d { table := 0 }).setFld (R.meldStat d) 3 0 0).setFld (R.meldStat d) 58 45 0

/-- The apply instant (R366): every staged entry becomes current, on both dies, and the meld closes. -/
def State.applyMeld (s : State) (d : Nat) : State :=
  let m := s.meld d
  let s1 := s.dealerSees d
  let s2 := if m.entries.any (fun x => regDie x.1 != d) then s1.dealerSees (1 - d) else s1
  ((m.entries.foldl (fun s x => s.applyEntry x.1 x.2) s2).closeMeld d).noteMelds

/-- MELD_APPLY (R365, R366). While the mesh holds packets of a melded group the meld stays in state applying and new ones
wait at their agents (R251); the instant is then a later MELD_APPLY that finds none (log entry 120). -/
def execMeldApply (die : BitVec 1) (s : State) : Res :=
  let d := die.toNat
  let m := s.meld d
  let st := s.meldState d
  if st = 0 then .next (s.meldFail d K.eMeldState 0)
  else if st = 4 then (if s.groupsBusy m.entries then .next s else .next (s.applyMeld d))
  else if st ≠ 3 ∨ s.meldDirty d then
    .next (((s.meldFail d K.eMeldState 0).setFld (R.meldStat d) 3 3 (b2n (s.meldDirty d))).setMeldState d 5)
  else if s.groupsBusy m.entries then .next (s.setMeldState d 4)
  else .next (s.applyMeld d)

/-- MELD_ABORT (R366). -/
def execMeldAbort (die : BitVec 1) (s : State) : Res :=
  let d := die.toNat
  if s.meldState d = 0 then .next s else .next (s.closeMeld d)

end Sys2Proof.Machine
end

