-- ==== Sys2Proof/Machine/Scan.lean ====
section
/-! DEFINITION. The state scan (R356, R357): requests, the 4 MiB record of an island in physical memory, scan-out, scan-in
and resume. -/

namespace Sys2Proof.Machine

open Sys2Proof

/-! ### Reading registers for firmware -/

/-- A register as firmware reads it: MELD_STAT.dirty shows what R365 says of the checked meld. -/
def State.view (s : State) (a : Nat) : Word :=
  if a = R.meldStat 0 ∨ a = R.meldStat 1 then s.readReg a ||| BitVec.ofNat 64 (b2n (s.meldDirty (regDie a)) * 8) else s.readReg a

/-! ### Tokens in places of 64 bytes (log entry 14) -/

/-- A token with a number beside it: the cycles until it is usable, or the target port of a held output. -/
def tokenCode (t : Token) (extra : Nat) : BitVec 298 :=
  BitVec.ofNat 298 (t.payload.toNat + b2n t.kind * 2 ^ 256 + b2n t.unit * 2 ^ 257 + t.epoch.toNat * 2 ^ 258 + t.seat.toNat * 2 ^ 260
    + extra % 2 ^ 32 * 2 ^ 266)
def tokenOf (v : BitVec 298) : Token × Nat :=
  ({ payload := v.setWidth 256, kind := v.getLsbD 256, unit := v.getLsbD 257, epoch := v.extractLsb' 258 2, seat := v.extractLsb' 260 6 },
   (v.extractLsb' 266 32).toNat)

/-- Bytes of n places that hold a list of tokens; an empty place holds zeros. -/
def places (n : Nat) (l : List (Token × Nat)) : List Byte :=
  (List.range n).flatMap (fun i =>
    match l[i]? with
    | some (t, x) => ((Config.tokenBytes (tokenCode t x)).take 64) ++ List.replicate (64 - ((Config.tokenBytes (tokenCode t x)).take 64).length) 0
    | none => List.replicate 64 0)

/-- The tokens of n places; a place of zeros is empty. -/
def ofPlaces (n : Nat) (bs : List Byte) : List (Token × Nat) :=
  (List.range n).filterMap (fun i =>
    let p := (bs.drop (64 * i)).take 64
    if p.all (fun b => b == 0) then none else (Config.tokenOfBytes p).map tokenOf)

/-! ### The part of a cell -/

def potBytes (m : SMap PotEntry) : List Byte := (List.range 1024).flatMap (fun i => (SMap.get (fun _ => ({} : PotEntry)) m i).toBytes)
def potOfBytes (bs : List Byte) : SMap PotEntry :=
  (List.range 1024).foldl (fun m i => SMap.set (fun _ => ({} : PotEntry)) m i (PotEntry.ofNat (leNat ((bs.drop (16 * i)).take 16)))) []

/-- S, P, the loop counters, the return stack and the program counter. -/
def Cell.seqBytes (c : Cell) : List Byte :=
  (List.range 32).flatMap (fun r => leBytes 8 (c.rs (BitVec.ofNat 5 r)).toNat) ++
  (List.range 8).map (fun r => BitVec.ofNat 8 (b2n (c.rp (BitVec.ofNat 3 r)))) ++
  (List.range 3).flatMap (fun n => leBytes 8 (c.rlc n).toNat) ++
  (List.range 8).flatMap (fun i => leBytes 8 ((c.stack[i]?).getD 0)) ++ leBytes 8 c.pc

def cellRegOffsets : List Nat :=
  [0x000, 0x008, 0x040, 0x048, 0x060, 0x068, 0x070, 0x078, 0x080, 0x088, 0x090, 0x0F0, 0x100, 0x108, 0x110, 0x118, 0x120, 0x128,
   0x130, 0x138, 0x200, 0x208, 0x210, 0x218, 0x220, 0x240, 0x248, 0x250, 0x258, 0x260, 0x268, 0x270, 0x278, 0x300, 0x308, 0x310]

/-- The tokens of a cell in the order of their places: two per input port in the pass-through registers, then the buffers
of each port's units, then the outputs that units hold. -/
def Steer.tokens (x : Steer) : List Byte :=
  let l (q : List Token) := places 4 (q.map (fun t => (t, 0)))
  l x.swCtl ++ l x.swDat ++ l x.mgCtl ++ l x.mgA ++ l x.mgB
def outPlace (o : Option (Nat × Token)) : List Byte := places 1 (match o with | some (p, t) => [(t, p)] | none => [])

def Cell.tokenPlaces (c : Cell) (now : Nat) : List Byte :=
  (List.range 4).flatMap (fun p => places 2 ((c.wires.filter (fun w => w.port == p)).map (fun w => (w.tok, w.usable - now)))) ++
  (List.range 4).flatMap (fun p => (c.str p).tokens) ++
  (List.range 4).flatMap (fun p => outPlace (c.str p).swOut ++ outPlace (c.str p).mgOut)

def CellSave.dflt : Nat → CellSave := fun _ => ⟨[], [], [], [], {}⟩

/-- The registers that show what a save beside the record holds: run state and loops, engines, sieve. -/
def savedOffsets : List Nat := [0x008, 0x100, 0x108, 0x110, 0x118, 0x120, 0x128, 0x130, 0x138, 0x300]

/-- Write the part of a cell at a physical address. What R357 gives no layout is kept beside it (log entry 14). -/
def State.scanOutCell (s : State) (k : CellRef) (at_ : Nat) : State :=
  let c := s.cell k
  let s1 := s.wrN at_ (c.imem.readN 0 (16 * imemWords k))
  let s2 := s1.wrN (at_ + 0x10000) (c.tile.readN 0 0x8000)
  let s3 := (s2.wrN (at_ + 0x18000) (potBytes c.pot0)).wrN (at_ + 0x1C000) (potBytes c.pot1)
  let s4 := (s3.wrN (at_ + 0x20000) (c.vreg.readN 0 0x2000)).wrN (at_ + 0x22000) c.seqBytes
  let s5 := cellRegOffsets.foldl (fun x o => x.wrN (at_ + 0x23000 + o) (leBytes 8 (s.view (Machine.cellReg k o)).toNat)) s4
  let s6 := (s5.wrN (at_ + 0x24000) (c.desc.readN 0 0x400)).wrN (at_ + 0x24400) (c.tokenPlaces (s.isl k.isl).sched)
  let save : CellSave :=
    ⟨c.desc.readN 0 0x400, savedOffsets.map (fun o => s.view (Machine.cellReg k o)), c.engines, c.loops, c.sieve⟩
  { s6 with scans := SMap.set CellSave.dflt s6.scans at_ save }

/-! ### The island's part -/

/-- Registers of an island block that a scan moves. -/
def islRegOffsets : List Nat :=
  [0x0008, 0x0010, 0x0100, 0x0108, 0x0110, 0x0118, 0x0120, 0x0128, 0x0200, 0x0208, 0x0300, 0x0400, 0x0500, 0x0508, 0x0600] ++
    (List.range 4096).map (fun g => 0x80000 + 8 * g)

/-- The inbound links of an island: N, E, S, W with four cells each. -/
def inbound (i : Nat) : List (CellRef × Nat) :=
  (List.range 4).map (fun j => (⟨i, j⟩, 0)) ++ (List.range 4).map (fun j => (⟨i, 4 * j + 3⟩, 1)) ++
    (List.range 4).map (fun j => (⟨i, 12 + j⟩, 2)) ++ (List.range 4).map (fun j => (⟨i, 4 * j⟩, 3))

def State.scanOutIsl (s : State) (i at_ : Nat) : State :=
  let s1 := (s.islCells i).foldl (fun x k => x.scanOutCell k (at_ + 0x30000 * k.c)) s
  let s2 := ((0 : Nat) :: islRegOffsets).foldl (fun x o => x.wrN (at_ + 0x300000 + o) (leBytes 8 (s.view (islReg i o)).toNat)) s1
  (List.range 16).foldl (fun x n =>
    match (inbound i)[n]? with
    | some (k, p) => x.wrN (at_ + 0x3C0000 + 0x800 * n) (places 32 ((s.fifo k p ++ s.inFlight k p).map (fun t => (t, 0))))
    | none => x) s2

/-! ### Scan-in -/

def runOfCode (v : Nat) : Run := if v = 1 ∨ v = 2 then .running else if v = 3 then .ended else if v = 4 then .faulted else .idle
def eStateOf (v : Nat) : EState :=
  if v = 1 then .running else if v = 2 then .draining else if v = 3 then .stopping else if v = 4 then .halted else .idle
def potStateOf (v : Nat) : PotState :=
  let m : PMode := if v % 4 = 1 then .int else if v % 4 = 2 then .fx else if v % 4 = 3 then .f32 else .empty
  let e := v / 4 % 1024
  { mode := m, pe := if 512 ≤ e then (e : Int) - 1024 else e }

/-- An engine from CELL_SENG and CELL_SFVA alone, where no save tells its position: at the beats that it has moved. -/
def engineOf (w : Word) (va : Nat) : Engine :=
  { state := eStateOf (field 2 0 w), prev := if field 2 0 w = 4 then .running else .idle, slot := field 5 3 w, dir := bit 6 w,
    fkind := field 8 7 w, beats := field 47 16 w, sfva := va % 2 ^ 48, next := field 47 16 w, moved := field 47 16 w }

def State.scanLoops (s : State) (seq : Word) : List Loop × State :=
  (List.range 3).foldl (fun (r : List Loop × State) n =>
    if bit (15 + n) seq then
      -- the record does not place the bounds of a loop: free values
      let (a, s1) := r.2.fresh
      let (b, s2) := s1.fresh
      (r.1 ++ [⟨n, a.toNat % 4096, b.toNat % 4096⟩], s2)
    else r) ([], s)

/-- The units of an input port from their places. -/
def Steer.ofPlaces (b : Nat → List Byte) : Steer :=
  let l (i : Nat) : List Token := (Machine.ofPlaces 4 (b i)).map Prod.fst
  { swCtl := l 0, swDat := l 1, mgCtl := l 2, mgA := l 3, mgB := l 4 }

def outOf (bs : List Byte) : Option (Nat × Token) := ((ofPlaces 1 bs).head?).map (fun x => (x.2 % 4, x.1))

/-- The bits of a register that are no reserved ones, for a scan-in (R16): of an island block, and of a cell block. -/
def islScanMask (o : Nat) : Word :=
  if o = 0x0008 then bitsMask 11 0 ||| bitsMask 20 16
  else if o = 0x0010 then bitsMask 3 0
  else if o = 0x0100 then bitsMask 11 0 ||| bitsMask 31 16
  else if o = 0x0108 ∨ o = 0x0110 ∨ o = 0x0118 ∨ o = 0x0120 ∨ o = 0x0200 ∨ o = 0x0208 then bitsMask 47 0
  else if o = 0x0500 ∨ o = 0x0508 then bitsMask 39 0 ||| bitsMask 63 63
  else if o = 0x0600 then bitsMask 19 0
  else if 0x80000 ≤ o then bitsMask 4 0 ||| bitsMask 23 8 ||| bitsMask 31 31
  else bitsMask 63 0
def cellScanMask (o : Nat) : Word :=
  if o = 0x000 then bitsMask 29 0 ||| bitsMask 63 31
  else if o = 0x200 then bitsMask 11 0
  else if 0x208 ≤ o ∧ o < 0x228 then bitsMask 15 0
  else if 0x240 ≤ o ∧ o < 0x280 then bitsMask 13 0 ||| bitsMask 15 15
  else if o = 0x308 then bitsMask 55 0
  else bitsMask 47 0

/-- The part of a cell that registers show. -/
def Cell.scanRegs (c : Cell) (rd : Nat → Word) : Cell :=
  let seq := rd 0x008
  { c with
    run := runOfCode (field 14 12 seq), bubble := field 14 12 seq == 2, mcfg := rd 0x040,
    ps0 := potStateOf (field 11 0 (rd 0x048)), ps1 := potStateOf (field 23 12 (rd 0x048)),
    pv0 := potStateOf (field 11 0 (rd 0x048)), pv1 := potStateOf (field 23 12 (rd 0x048)),
    flags := (rd 0x060).setWidth 5, vcfg := rd 0x068,
    lanes := (List.range 64).foldl (fun m l => SMap.set (fun _ => 0) m l
      (BitVec.ofNat 5 ((List.range 5).map (fun f => b2n (bit l (rd (0x070 + 8 * f))) * 2 ^ f)).sum)) [],
    engines := (List.range 4).foldl (fun m e =>
      SMap.set Engine.dflt m e (engineOf (rd (0x100 + 16 * e)) (rd (0x108 + 16 * e)).toNat)) [],
    sieve := { c.sieve with cfg := (rd 0x300).setWidth 37, flushes := [] } }

/-- The part of a cell that its sequencer bytes hold. -/
def Cell.scanSeq (c : Cell) (rd : Nat → Nat) (depth : Nat) : Cell :=
  let c1 := (List.range 31).foldl (fun c r => c.ws (r + 1) (BitVec.ofNat 64 (rd (8 * (r + 1))))) c
  let c2 := (List.range 7).foldl (fun c r => c.wp (r + 1) (rd 256 / 2 ^ (8 * (r + 1)) % 2 == 1)) c1
  let c3 := (List.range 3).foldl (fun c n => c.wlc n (BitVec.ofNat 32 (rd (264 + 8 * n)))) c2
  { c3 with stack := (List.range (min 8 depth)).map (fun i => rd (288 + 8 * i)), pc := rd 352 }

def State.scanInCell (s : State) (k : CellRef) (at_ : Nat) : State :=
  let rd64 (o : Nat) : Word := BitVec.ofNat 64 (s.rdLE (at_ + 0x23000 + o) 8)
  let tok (i n : Nat) : List Byte := s.rdN (at_ + 0x24400 + 64 * i) (64 * n)
  let now := (s.isl k.isl).sched
  let desc := s.rdN (at_ + 0x24000) 0x400
  let save := SMap.get CellSave.dflt s.scans at_
  let kept := save.desc == desc && save.regs == savedOffsets.map rd64
  let (loops, s1) := if kept then (save.loops, s) else s.scanLoops (rd64 0x008)
  let old := s.cell k
  let c0 : Cell := { sieve := old.sieve, fe := old.fe, fe1 := old.fe1, fe2 := old.fe2, loops := loops }
  let c1 := (c0.scanRegs rd64).scanSeq (fun o => s.rdLE (at_ + 0x22000 + o) 8) (field 21 18 (rd64 0x008))
  let c2 : Cell := { c1 with
    imem := Bytes.writeN [] 0 (s.rdN at_ (16 * imemWords k)), tile := Bytes.writeN [] 0 (s.rdN (at_ + 0x10000) 0x8000),
    vreg := Bytes.writeN [] 0 (s.rdN (at_ + 0x20000) 0x2000), desc := Bytes.writeN [] 0 desc,
    descOk := (List.range 8).foldl (fun m j => if ((desc.drop (128 * j)).take 128).all (fun b => b == 0) then m else m ||| (1#8 <<< j)) 0,
    pot0 := potOfBytes (s.rdN (at_ + 0x18000) 0x4000), pot1 := potOfBytes (s.rdN (at_ + 0x1C000) 0x4000),
    dampS := old.dampS, dampN := old.dampN, dampF := old.dampF, dampW := old.dampW,
    engines := if kept then save.engines else c1.engines, sieve := if kept then save.sieve else c1.sieve }
  let c3 : Cell := { c2 with
    wires := (List.range 4).flatMap (fun p => (ofPlaces 2 (tok (2 * p) 2)).map (fun x => ⟨p, x.1, now + x.2, false⟩)),
    steer := (List.range 4).foldl (fun m p =>
      SMap.set Steer.dflt m p { Steer.ofPlaces (fun i => tok (8 + 20 * p + 4 * i) 4) with
        swOut := outOf (tok (88 + 2 * p) 1), mgOut := outOf (tok (89 + 2 * p) 1) }) [] }
  let s2 := s1.setCell k c3
  ([0x000, 0x0F0, 0x200] ++ (List.range 4).map (fun p => 0x208 + 8 * p) ++ (List.range 8).map (fun i => 0x240 + 8 * i) ++ [0x308, 0x310]).foldl
    (fun x o => x.setReg (Machine.cellReg k o) (rd64 o &&& cellScanMask o)) s2

def State.scanInIsl (s : State) (i at_ : Nat) : State :=
  let s1 := (s.islCells i).foldl (fun x k => x.scanInCell k (at_ + 0x30000 * k.c)) s
  let s2 := islRegOffsets.foldl (fun x o =>
    x.setReg (islReg i o) (BitVec.ofNat 64 (s.rdLE (at_ + 0x300000 + o) 8) &&& islScanMask o)) s1
  (List.range 16).foldl (fun x n =>
    match (inbound i)[n]? with
    | some (k, p) =>
      if s.cellExists k then
        (x.setFifo k p ((ofPlaces 32 (s.rdN (at_ + 0x3C0000 + 0x800 * n) 0x800)).map Prod.fst)).setFlight k p []
      else x
    | none => x) s2

/-! ### The commands -/

def State.scanBase (s : State) (t : Nat) : Nat := s.fld (R.tblScan 0 t) 47 12 * 4096

/-- A scan request (R356, R546). -/
def State.scanReq (s : State) (t : Nat) (allowed : Bool) (dir : Bool) : State :=
  if ¬ s.tvalid t ∨ s.tbusy t then s
  else if ¬ allowed ∨ s.running t then s.setRes t K.eTblState false
  else (s.setRes t 0 true).updTbl t (fun x => { x with scan := some dir })

/-- TBL_REQ_SCAN_OUT (R356). -/
def execTblReqScanOut (t : Nat) (s : State) : Res :=
  .next (s.scanReq t (s.tstate t == 0 || s.tstate t == 5 || s.tstate t == 6) false)

/-- TBL_REQ_SCAN_IN (R356). -/
def execTblReqScanIn (t : Nat) (s : State) : Res := .next (s.scanReq t (s.tstate t == 0) true)

/-- The blocks of a record that hold an upset. -/
def State.badBlocks (s : State) (a n : Nat) : List Nat := (s.bad.map Prod.fst).filter (fun b => decide (a ≤ b) && decide (b < a + n))

/-- STATE_SCAN_DONE (R356, R357): the records of the table's islands, in table row-major order, have moved. A record
with an uncorrectable block restores nothing (R297). -/
def execStateScanDone (t : Nat) (s : State) : Res :=
  let isls := s.tableIsls t
  let base := s.scanBase t
  let go (s : State) (f : State → Nat → Nat → State) : State :=
    (List.range isls.length).foldl (fun x n => f x ((isls[n]?).getD 0) (base + 0x400000 * n)) s
  match (s.tbl t).scan with
  | none => .next s
  | some dir =>
    let bad := s.badBlocks base (0x400000 * isls.length)
    let s0 := if dir then s.readBlocks t bad else s
    let done (x : State) (c : Code) : Res := .next ((x.setRes t c false).updTbl t (fun x => { x with scan := none }))
    if dir ∧ bad.any (fun b => (s0.blockOut b).isNone) then done s0 K.eMemUncorrectable
    else if dir then done (((go s0 State.scanInIsl).setTstate t 6).noteMelds) 0
    else done (go s0 State.scanOutIsl) 0

/-- TBL_REQ_RESUME (R356, R358, R546): the islands of a scan-held table go on from the scanned state, under the job's next
command where one waits. -/
def execTblReqResume (t : Nat) (s : State) : Res :=
  if ¬ s.tvalid t ∨ s.tbusy t then .next s
  else if s.tstate t ≠ 6 then .next (s.setRes t K.eTblState false)
  else
    let s1 := if s.mayAutoStart t then s.startCmd t ownStart else s.updTbl t (fun x => { x with scanned := true })
    .next (((s1.setRes t 0 false).setTstate t 2).homeSees t)

end Sys2Proof.Machine
end

