-- ==== Sys2Proof/Machine/BusWrite.lean ====
section
/-! DEFINITION. A write of any control-space register (R17): one that performs an action acts as the command of that
action's row; every other is a plain write. -/

namespace Sys2Proof.Machine

open Sys2Proof

/-- The state that an action leaves. -/
def stateAfter (s : State) : Res → State
  | .next t => t
  | _ => s

def bits (v : Word) (hi lo n : Nat) : BitVec n := BitVec.ofNat n (field hi lo v)

/-- A request written to TBL_REQ (R369); the sizes a program declares and faults reported so far come with the row's own
command. -/
def tblReqWrite (t : Nat) (v : Word) (s : State) : Res :=
  match field 3 0 v with
  | 1 => execTblReqDeal t (bits v 19 8 12) s
  | 2 => execTblReqCommit t ⟨bit 4 v, [], []⟩ s
  | 3 => execTblReqKill ⟨t, .rerun⟩ s
  | 4 => execTblReqCancel t s
  | 5 => execTblReqScanOut t s
  | 6 => execTblReqScanIn t s
  | 7 => execTblReqResume t s
  | _ => .next s

/-- MELD_CTL (R371). -/
def meldCtlWrite (die : BitVec 1) (v : Word) (s : State) : Res :=
  match field 2 0 v with
  | 1 => execMeldOpen die (bits v 15 8 8) s
  | 2 => execMeldCheck die s
  | 3 => execMeldApply die s
  | 4 => execMeldAbort die s
  | _ => .next s

/-- SYNC_PID of a steward core's port (R336). -/
def syncPidWrite (core : Nat) (v : Word) (s : State) : Res :=
  match field 25 24 v with
  | 0 => execStewardFeld core (bits v 15 0 16) (bits v 23 16 8) (bits v 29 26 4) (bit 30 v) s
  | 1 => execStewardFest core (bits v 15 0 16) (bits v 23 16 8) (bits v 29 26 4) (bit 30 v) s
  | 2 => execStewardRound core (bits v 15 0 16) (bits v 23 16 8) (bits v 29 26 4) (bit 30 v) s
  | _ => execStewardChannelSend core (bits v 15 0 16) s

/-- GUL_QOP of a steward core's port (R401); kind 3 is reserved. -/
def gulQopWrite (core : Nat) (v : Word) (s : State) : Res :=
  let t := bits v 9 2 8
  let sid := bits v 42 27 16
  match field 1 0 v with
  | 0 => execGulQopRead core t (bits v 25 10 16) (bit 26 v) sid (bits v 63 43 21) s
  | 1 => execGulQopWrite core t (bits v 25 10 16) (bit 26 v) sid (bits v 63 43 21) s
  | 2 => execGulQopCollective core t (bit 26 v) sid s
  | _ => .next s

/-- A mailbox word, its control register, the doorbells (R330 to R332, R337). A mailbox belongs to a steward core or a
session: this write is another agent's. -/
def mbxWrite (die : BitVec 1) (o : Nat) (v : Word) (s : State) : Res :=
  if o = 0x2000 then execMbxRing die v s
  else if o = 0x2008 then execMbxBellClear die v s
  else if o % 16 = 0 then execMbxDataWrite die (o / 16) .other v s
  else
    let s1 := s.writeReg (blkReg die.toNat .mbx o) v
    if bit 1 v then execMbxTake die (o / 16) s1 else .next s1

/-- A write that performs an action, by the block it lies in; none where it is a plain one. -/
def actionWrite (a : Nat) (v : Word) (s : State) : Option Res :=
  match regPlace a with
  | .cell i c o => if o = 0x020 then some (execCellSresumeWrite ⟨i, c⟩ (bits v 3 0 4) s) else none
  | .block d b o =>
    let die := BitVec.ofNat 1 d
    match b with
    | .mem =>
      if o = 0x0000 then some (execMmuInv die (bits v 7 0 8) (bit 8 v) (bits v 47 16 32) s)
      else if o = 0x0018 then some (execMmuPoolPush die (bits v 31 0 32) s)
      else if o = 0x0100 then some (execRakeCfgWrite die v s)
      else if o = 0x0108 then some (execRakeRateWrite die v s)
      else none
    | .sync =>
      if o = 0x0000 then some (execSyncInv die (bits v 7 0 8) (bit 8 v) (bits v 31 16 16) s)
      else if 0x4000 ≤ o ∧ o < 0x4400 ∧ o % 0x40 = 0 then some (syncPidWrite (16 * d + (o - 0x4000) / 0x40) v s)
      else none
    | .mbx => some (mbxWrite die o v s)
    | .chn => if o % 0x20 = 0x10 then some (execChnPosHeadWrite die (BitVec.ofNat 12 (o / 0x20)) (bits v 63 32 32) s) else none
    | .tbl => if o % 0x40 = 0x10 then some (tblReqWrite (o / 0x40) v s) else none
    | .meld => if o = 0 then some (meldCtlWrite die v s) else if o = 0x10 then some (execMeldStage die v s) else none
    | .gul =>
      if o = 0x8 then some (execGulRselWrite die (bit 0 v) s)
      else if o = 0x40 ∧ bit 6 v then some (execGtimeStep (s.writeReg a v))
      else if 0x4000 ≤ o ∧ o < 0x4400 ∧ o % 0x40 = 0 then some (gulQopWrite (16 * d + (o - 0x4000) / 0x40) v s)
      else none
    | .rcp =>
      if o = 0x008 then some (if bit 0 v then execRstReq (bit 1 v) (bits v 2 2 1) (bits v 9 3 7) s else .next s)
      else if o = 0x200 then some (execPwrCapWrite v s)
      else none
    | .err =>
      if 0x400 ≤ o ∧ o < 0x500 ∧ o % 16 = 8 then some (if bit 0 v then execStwPet (16 * d + (o - 0x400) / 16) s else .next s)
      else none
    | .pin => if d = 0 ∧ o = 0x28 then some (execPinTraceWrite v s) else none
    | _ => none
  | _ => none

/-- A write of control space by a master that reaches it: nothing where no register lies (R16). -/
def State.busWrite (s : State) (a : Nat) (v : Word) : State :=
  if (regSpec a).isNone then s
  else match actionWrite a v s with
    | some r => stateAfter s r
    | none => s.writeReg a v

/-- REGISTER_WRITE (R17). -/
def execRegisterWrite (addr : Nat) (value : Word) (s : State) : Res := .next (s.busWrite addr value)

end Sys2Proof.Machine
end

