-- ==== Sys2Proof/Machine/EthUnit.lean ====
section
/-! DEFINITION. The Ethernet ports (R404 to R408, R423, R425, R426, R430): frames, answers, pause, RoCE v2. -/

namespace Sys2Proof.Machine

open Sys2Proof

/-! ### Datagrams (R405, R406, R409) -/

/-- A big-endian number at an offset. -/
def beAt (bs : List Byte) (o n : Nat) : Nat := leNat ((bs.drop o).take n).reverse

/-- Whether a port holds an IPv4 address. -/
def State.hasV4 (s : State) (p : BitVec 1) (a : Nat) : Bool := s.nets.any (fun x => x.port == p.toNat && !x.v6 && x.addr.toNat == a)
/-- Whether a port holds an IPv6 address: its link-local one, or a global one. -/
def State.hasV6 (s : State) (p : BitVec 1) (a : Nat) : Bool :=
  (s.linkLocal p).toNat == a || s.nets.any (fun x => x.port == p.toNat && x.v6 && x.addr.toNat == a)

/-- A UDP datagram accepted by a port: source address, source port, destination port, payload. -/
structure Datagram where
  src : Nat
  sport : Nat
  dport : Nat
  data : List Byte
  deriving DecidableEq, Repr

def udpOf (src : Nat) (u : List Byte) : Option Datagram :=
  if u.length < 8 ∨ u.length < beAt u 4 2 ∨ beAt u 4 2 < 8 then none
  else some ⟨src, beAt u 0 2, beAt u 2 2, (u.drop 8).take (beAt u 4 2 - 8)⟩

/-- The network layer of R406: fragments, options and extension headers are dropped. -/
def State.ipOf (s : State) (p : BitVec 1) (etype : Nat) (b : List Byte) : Option Datagram :=
  if etype = 0x0800 then
    if b.length < 20 ∨ beAt b 0 1 ≠ 0x45 ∨ beAt b 6 2 % 2 ^ 14 ≠ 0 ∨ beAt b 9 1 ≠ 17 ∨ ¬ s.hasV4 p (beAt b 16 4) then none
    else udpOf (beAt b 12 4) ((b.take (beAt b 2 2)).drop 20)
  else if etype = 0x86DD then
    if b.length < 40 ∨ beAt b 0 1 / 16 ≠ 6 ∨ beAt b 6 1 ≠ 17 ∨ ¬ s.hasV6 p (beAt b 24 16) then none
    else udpOf (beAt b 8 16) ((b.drop 40).take (beAt b 4 2))
  else none

/-- The header of R409 of a datagram. -/
def tuHeaderOk (d : List Byte) : Bool :=
  let frag := leAt d 6 1
  let idx := frag % 8
  let last := frag / 8 % 8
  let len := leAt d 24 2
  decide (32 ≤ d.length) && leAt d 0 2 == 0x5455 && leAt d 2 1 == 1 && decide (frag < 64) && decide (idx ≤ last) && leAt d 7 1 == 0
    && leAt d 26 6 == 0 && len == d.length - 32 && decide (len ≤ 1408) && (idx == last || len == 1408)

/-- Message types that a host may send (R412, R434). -/
def hostTypes : List Nat :=
  [0x02, 0x03, 0x04, 0x06, 0x07, 0x08, 0x10, 0x11, 0x12, 0x13, 0x14, 0x20, 0x28, 0x29, 0x2A, 0x2B, 0x30, 0x31, 0x32, 0x38, 0x39]

/-- The payload length that a type fixes; CMD_SUBMIT's follows from its counts (R412, R419, R420, R434, R458). -/
def payloadLen (typ : Nat) (p : List Byte) : Option Nat :=
  match typ with
  | 0x06 => some 0 | 0x07 => some 32 | 0x08 => some 64 | 0x10 => some 0 | 0x12 => some 1 | 0x13 => some 0 | 0x14 => some 21
  | 0x20 => some 16 | 0x28 => some 32 | 0x29 => some 4 | 0x2A => some 32 | 0x2B => some 4 | 0x30 => some 32 | 0x31 => some 8
  | 0x32 => some 16 | 0x39 => some 16
  | 0x38 => some (40 + 16 * (leAt p 22 1 + leAt p 23 1) + (2 * leAt p 24 1 + 7) / 8 * 8 + leAt p 20 2)
  | _ => none

/-- What a whole message in one datagram shows to be wrong. -/
def badMessage (typ : Nat) (p : List Byte) : Option HReq :=
  if ¬ hostTypes.contains typ then some .bad
  else match payloadLen typ p with
    | some n => if n = p.length then none else some .malformed
    | none => none

/-- A datagram of a session: its arrival counts, and its message may become whole (R411). A message of one datagram with
a wrong type or layout is answered here; every other message acts as the command of its row. -/
def State.tuDatagram (s : State) (h : Hdr) (d : List Byte) : State :=
  let n := h.session.toNat
  let frag := leAt d 6 1
  let idx := frag % 8
  let last := frag / 8 % 8
  let s1 := s.updSess n (fun y => { y with heard := s.gtime })
  if last = 0 then
    match badMessage (leAt d 3 1) (d.drop 32) with
    | some r => s1.hostMsg h r
    | none => s1
  else
    s1.updSess n (fun y =>
      let old := match y.parts.find? (fun p => p.seq == h.seq) with
        | some p => p
        | none => { seq := h.seq, frags := [], since := s.gtime }
      let fr := if old.frags.contains idx then old.frags else old.frags ++ [idx]
      let rest := y.parts.filter (fun p => p.seq != h.seq)
      { y with parts := if fr.length = last + 1 then rest else rest ++ [{ old with frags := fr }] })

/-- A datagram to port 19,580. -/
def State.tuReceive (s : State) (port : BitVec 1) (g : Datagram) : State :=
  let d := g.data
  if ¬ tuHeaderOk d then s.tuDrop port
  else
    let h : Hdr :=
      { session := BitVec.ofNat 16 (leAt d 4 2), cookie := BitVec.ofNat 64 (leAt d 8 8), seq := BitVec.ofNat 32 (leAt d 16 4),
        ack := BitVec.ofNat 32 (leAt d 20 4), port := port, src := BitVec.ofNat 128 g.src, udp := BitVec.ofNat 16 g.sport }
    if h.session = 0xFFFF then s
    else match s.sessOf h with
      | none => s.tuDrop port
      | some _ => if s.mainRuns then s.tuDatagram h d else s

/-- ETH_FRAME_RECEIVE (R405, R406, R409, R411): the bytes of a frame with their FCS. -/
def execEthFrameReceive (port : BitVec 1) (bytes : List Byte) (s : State) : Res :=
  let n := bytes.length
  if ¬ s.portUp port ∨ n < 64 ∨ min 9216 (s.fld (R.ethPcfg port.toNat) 45 32) < n then .next s
  else if (Config.etherFcs (bytes.take (n - 4))).toNat ≠ leAt bytes (n - 4) 4 then .next (s.incFld (R.ethPcnt port.toNat) 31 0 1)
  else
    let b := (bytes.take (n - 4)).drop 12
    let (etype, body) := if beAt b 0 2 = 0x8100 then (beAt b 4 2, b.drop 6) else (beAt b 0 2, b.drop 2)
    match s.ipOf port etype body with
    | some g => if g.dport = 19580 then .next (s.tuReceive port g) else .next s
    | none => .next s

/-! ### Answers of the port (R406) -/

/-- ARP_REQUEST. -/
def execArpRequest (port : BitVec 1) (target : BitVec 32) (sender : BitVec 32) (_mac : BitVec 48) (s : State) : Res :=
  if s.portUp port ∧ s.hasV4 port target.toNat then .next { s with out := s.out ++ [.arp port target sender (s.macOf port)] } else .next s

/-- NEIGHBOUR_SOLICITATION. -/
def execNeighbourSolicitation (port : BitVec 1) (target : BitVec 128) (sender : BitVec 128) (s : State) : Res :=
  if s.portUp port ∧ s.hasV6 port target.toNat then .next { s with out := s.out ++ [.advert port target sender (s.macOf port)] } else .next s

/-- ICMP_ECHO. -/
def execIcmpEcho (port : BitVec 1) (v6 : Bool) (dst src : BitVec 128) (payload : List Byte) (s : State) : Res :=
  if s.portUp port ∧ (if v6 then s.hasV6 port dst.toNat else s.hasV4 port dst.toNat) then
    .next { s with out := s.out ++ [.echo port v6 dst src payload] }
  else .next s

/-! ### Pause (R407) -/

/-- PFC_PAUSE: obeyed on the priorities of ETH_PCFG.pfc. -/
def execPfcPause (port : BitVec 1) (prio : BitVec 3) (stop : Bool) (s : State) : Res :=
  let e := (port.toNat, prio.toNat)
  if ¬ (s.portUp port ∧ bit (4 + prio.toNat) (s.reg (R.ethPcfg port.toNat))) then .next s
  else
    let rest := s.paused.filter (fun x => x != e)
    .next { s with paused := if stop then rest ++ [e] else rest }

/-! ### Queue pairs (R408, R423) -/

/-- A queue pair of a port, unless it is in the error state. -/
def State.qp (s : State) (port : BitVec 1) (qpn : BitVec 32) : Option Qp := s.qps.find? (fun q => q.port == port && q.num == qpn && !q.error)
def State.updQp (s : State) (port : BitVec 1) (qpn : BitVec 32) (f : Qp → Qp) : State :=
  { s with qps := s.qps.map (fun (q : Qp) => if q.port = port ∧ q.num = qpn then f q else q) }

/-- A CE-marked packet: a congestion notification, at most one in 50 µs. -/
def State.ceMark (s : State) (port : BitVec 1) (q : Qp) : State :=
  let due := match q.lastCnp with | some t => decide (50000 ≤ (s.gtime - t).toNat) | none => true
  if due then
    let s1 := (s.updQp port q.num (fun q => { q with lastCnp := some s.gtime })).satFld (R.ethPcnt port.toNat) 63 48 1
    { s1 with out := s1.out ++ [.cnp q.hqpn] }
  else s

/-- CNP_RECEIVE (R408). -/
def execCnpReceive (port : BitVec 1) (qpn : BitVec 32) (s : State) : Res :=
  if s.portUp port then .next (s.updQp port qpn (fun q => { q with rate := max 1000 (q.rate / 2) })) else .next s

/-- ROCE_RATE_RISE (R408). -/
def execRoceRateRise (port : BitVec 1) (qpn : BitVec 32) (s : State) : Res :=
  .next (s.updQp port qpn (fun q => { q with rate := min (s.portRate port) (q.rate + 5000) }))

/-- An answer of the responder. -/
def State.rdmaAnswer (s : State) (q : Qp) (a : RdmaAns) : State := { s with out := s.out ++ [.rdma q.hqpn a] }

/-- A remote access error: NAK, and the queue pair enters the error state. -/
def State.rdmaDenied (s : State) (port : BitVec 1) (q : Qp) : State :=
  (s.updQp port q.num (fun q => { q with error := true })).rdmaAnswer q .nakAccess

/-- The first three checks of R425: the window, if it admits the operation. -/
def State.rdmaWindow (s : State) (q : Qp) (rkey : BitVec 32) (va len : Nat) (write : Bool) : Option Wndw :=
  (s.wndws.find? (fun w => w.rkey == rkey && w.session == q.session)).filter (fun w =>
    decide (w.va ≤ va) && decide (va + len ≤ w.va + w.len) && (if write then w.wr else w.rd)
      && (w.job == 0 || (match s.job w.job with | some j => s.mapped (ethAgent q.port.toNat) j.table va len write | none => false)))

/-- The table of a window's job. -/
def State.windowTable (s : State) (w : Wndw) : Nat := match s.job w.job with | some j => j.table | none => 0

/-- The fourth check: wmode = 1 keeps requests out while a command of the table runs. -/
def State.rdmaBusy (s : State) (w : Wndw) : Bool := w.wmode == 1 && w.job != 0 && s.running (s.windowTable w)

/-- The RNR NAK of a port. -/
def State.rnr (s : State) (port : BitVec 1) : RdmaAns := .rnr (s.fld (R.ethPcfg port.toNat) 23 19)

/-- A write lands: in a staging window, or in the job's space as an act outside every command (R426). -/
def State.rdmaLand (s : State) (port : BitVec 1) (q : Qp) (w : Wndw) (va : Nat) (data : List Byte) : State :=
  if w.job = 0 then
    { s with wndws := s.wndws.map (fun (x : Wndw) => if x.num = w.num then { x with data := x.data.writeN (va - x.va) data } else x) }.rdmaAnswer
      q .ack
  else match s.landVA (ethAgent q.port.toNat) (s.windowTable w) va false false data with
    | (s1, .done) => s1.rdmaAnswer q .ack
    | (_, .held) => s
    | (s1, .refused c) => if c = K.eMemUncorrectable then s1.rdmaAnswer q .nakError else s.rdmaDenied port q
    | (_, .absent) => s.rdmaDenied port q

/-- RDMA_WRITE (R425, R426). -/
def execRdmaWrite (port : BitVec 1) (qpn rkey : BitVec 32) (va : Nat) (data : List Byte) (ce : Bool) (s : State) : Res :=
  if ¬ (s.mainRuns ∧ s.portUp port) then .next s
  else match s.qp port qpn with
    | none => .next s
    | some q =>
      let s1 := if ce then s.ceMark port q else s
      match s1.rdmaWindow q rkey va data.length true with
      | none => .next (s1.rdmaDenied port q)
      | some w => if s1.rdmaBusy w then .next (s1.rdmaAnswer q (s1.rnr port)) else .next (s1.rdmaLand port q w va data)

/-- RDMA_READ (R425, R426). -/
def execRdmaRead (port : BitVec 1) (qpn rkey : BitVec 32) (va len : Nat) (ce : Bool) (s : State) : Res :=
  if ¬ (s.mainRuns ∧ s.portUp port) then .next s
  else match s.qp port qpn with
    | none => .next s
    | some q =>
      let s1 := if ce then s.ceMark port q else s
      match s1.rdmaWindow q rkey va len false with
      | none => .next (s1.rdmaDenied port q)
      | some w =>
        if s1.rdmaBusy w then .next (s1.rdmaAnswer q (s1.rnr port))
        else match s1.takeVA (ethAgent q.port.toNat) (s1.windowTable w) va len false with
          | (s2, .ok bs) => .next (s2.rdmaAnswer q (.data bs))
          | (s2, .error _) => .next (s2.rdmaAnswer q .nakError)

/-! ### Training (R404, R430) -/

/-- ETHERNET_PORT_TRAINED (R430). On an AUI the rate is ETH_PCFG.rate. -/
def execEthernetPortTrained (port : BitVec 1) (rate : BitVec 2) (s : State) : Res :=
  let p := port.toNat
  if ¬ bit 0 (s.reg (R.ethPcfg p)) then .next s
  else
    let r := if bit (2 + p) (s.reg R.pinStrap) then s.fld (R.ethPcfg p) 2 1 else rate.toNat
    .next (s.setFld (R.ethPstat p) 4 0 (2 + r * 4 + 16))

end Sys2Proof.Machine
end

