-- ==== Sys2Proof/Machine/Fabric.lean ====
section
/-! DEFINITION. Tokens arriving, handshake FIFOs and steering units as events (R127, R216 to R234). -/

namespace Sys2Proof.Machine

open Sys2Proof

/-! ### The code check of a receiving port (R218, R234, R296) -/

/-- The symbols of a payload as they arrive. -/
def tokenSymbols (payload : BitVec 256) (u : Upset) : List Byte := applyUpset (encodeBlock (leBytes 32 payload.toNat)) u

/-- The physical address logged for an event of a link: the island's register block (log entry 16). -/
def linkAddr (isl : Nat) : Nat := islReg isl 0

/-- The receiving port checks a token: clean and corrected tokens are delivered, an uncorrectable one is not; both are
accounted under the class (R218, R499). -/
def State.checkToken (s : State) (k : CellRef) (cls : Nat) (t : Token) (u : Upset) : State × Option Token :=
  let cs := tokenSymbols t.payload u
  let die := islDie k.isl
  match decodeBlock cs with
  | .uncorrectable => (s.ueEvent die cls (linkAddr k.isl) (s.isl k.isl).table, none)
  | .clean => (s, some { t with payload := BitVec.ofNat 256 (leNat (cs.take 32)) })
  | .corrected p x =>
    (s.ceEvent die cls (linkAddr k.isl), some { t with payload := BitVec.ofNat 256 (leNat ((applyUpset cs [(p, x)]).take 32)) })

/-! ### Inside links -/

/-- The first token on a port that has not been handled. -/
def State.nextWire (s : State) (k : CellRef) (p : Nat) : Option Wire :=
  (s.cell k).wires.find? (fun w => w.port == p && !w.seen && decide ((s.isl k.isl).sched ≤ w.usable))

/-- Island cycles pass until the next token of a port is usable; a link inside an island takes at most 2. -/
def State.untilUsable (s : State) (k : CellRef) (p : Nat) : Nat → State
  | 0 => s
  | n + 1 =>
    match s.nextWire k p with
    | some w => if w.usable ≤ (s.isl k.isl).sched then s else State.untilUsable (s.cycle k.isl) k p n
    | none => s

/-- Replace the first wire equal to the given one. -/
def setWire (w : Wire) (r : Option Wire) : List Wire → List Wire
  | [] => []
  | x :: t => if x = w then r.toList ++ t else x :: setWire w r t

/-- A usable token is handled: code check, forwarding, buffering; a data token that nothing takes waits for an XRECV of
this schedule cycle and is lost at its end. While the island stalls it stays where it is (R131). -/
def State.insideArrive (s : State) (k : CellRef) (w : Wire) (u : Upset) : State :=
  if ¬ (s.blockClasses k.isl).isEmpty then s.cycle k.isl
  else
    let (s1, o) := s.checkToken k 3 w.tok u
    match o with
    | none => s1.updCell k (fun c => { c with wires := setWire w none c.wires })
    | some t =>
      let (s2, took) := s1.arriveTok k w.port t
      s.raiseFaults k.isl <| s2.updCell k (fun c => { c with wires := setWire w (if t.kind then none else some { w with tok := t, seen := took }) c.wires })

/-- INSIDE_TOKEN_ARRIVE (R127). -/
def execInsideTokenArrive (c : CellRef) (port : BitVec 2) (upset : Upset) (s : State) : Res :=
  if ¬ s.cellExists c ∨ s.islFaulted c.isl then .next s
  else
    let s1 := s.untilUsable c port.toNat 2
    match s1.nextWire c port.toNat with
    | some w => if w.usable = (s1.isl c.isl).sched ∧ ¬ s1.islFaulted c.isl then .next (s1.insideArrive c w upset) else .next s1
    | none => .next s1

/-! ### Handshake FIFOs -/

/-- The error class of a token that crosses a boundary: 5 over the seam, 3 inside a die (R499). -/
def State.crossClass (s : State) (k : CellRef) (p : Nat) : Nat :=
  match s.nbr k p with
  | some k' => if islDie k'.isl = islDie k.isl then 3 else 5
  | none => 3

/-- FIFO_TOKEN_ARRIVE (R223). -/
def execFifoTokenArrive (c : CellRef) (port : BitVec 2) (upset : Upset) (s : State) : Res :=
  let p := port.toNat
  match s.inFlight c p with
  | [] => .next s
  | t :: rest =>
    let s1 := s.setFlight c p rest
    let (s2, o) := s1.checkToken c (s.crossClass c p) t upset
    match o with
    | none => .next s2
    | some t' => .next (s2.setFifo c p (s2.fifo c p ++ [t']))

/-- A stall holds the island: what units and FIFO heads do waits, and a stall cycle passes (R131, R226). -/
def State.unlessStalled (s : State) (i : Nat) (f : State → State) : State :=
  if (s.blockClasses i).isEmpty then s.raiseFaults i (f s) else s.cycle i

/-- FIFO_HEAD_DELIVER (R224, R232). -/
def execFifoHeadDeliver (c : CellRef) (port : BitVec 2) (s : State) : Res :=
  if ¬ s.isCrossing c port.toNat ∨ s.islFaulted c.isl then .next s
  else .next (s.unlessStalled c.isl (fun s => s.deliverHead c port.toNat))

/-! ### Steering units (R225 to R228) -/

/-- SWITCH_FIRE (R225). -/
def execSwitchFire (c : CellRef) (port : BitVec 2) (s : State) : Res :=
  if ¬ s.cellExists c ∨ s.islFaulted c.isl then .next s
  else .next (s.unlessStalled c.isl (fun s => s.fireSwitch c port.toNat))

/-- MERGE_FIRE (R225). -/
def execMergeFire (c : CellRef) (port : BitVec 2) (s : State) : Res :=
  if ¬ s.cellExists c ∨ s.islFaulted c.isl then .next s
  else .next (s.unlessStalled c.isl (fun s => s.fireMerge c port.toNat))

/-- STEER_OUTPUT_DRIVE (R228): an island cycle passes, at whose end a waiting unit drives its output if nothing else has. -/
def execSteerOutputDrive (c : CellRef) (port : BitVec 2) (unit : Bool) (s : State) : Res :=
  if s.cellExists c ∧ (s.cell c).waiting.any (fun w => w.1 == port.toNat && w.2.1 == unit) then .next (s.cycle c.isl) else .next s

end Sys2Proof.Machine
end

