-- ==== Sys2Proof/Machine/Host.lean ====
section
/-! DEFINITION. The host protocol as events (R410 to R427): sessions, timers and the requests of a session. -/

namespace Sys2Proof.Machine

open Sys2Proof

/-! ### Opening (R413) -/

/-- The management port of FUSE_PROT.mgmt_port (R453). -/
def State.mgmtPort (s : State) (p : BitVec 1) : Bool :=
  match s.fuses.mgmtPort.toNat with
  | 0 => p == 0
  | 1 => p == 1
  | 2 => true
  | _ => false

/-- The RESULT fields of SESSION_OPEN from offset 8. -/
def State.openFields (s : State) (n : Nat) (cookie : Word) (port : BitVec 1) : List Byte :=
  leBytes 2 n ++ List.replicate 6 0 ++ leBytes 8 cookie.toNat ++ leBytes 2 s.gulDev.toNat
    ++ [BitVec.ofNat 8 (b2n s.fuses.grade0), BitVec.ofNat 8 s.fuses.stepping0.toNat] ++ leBytes 4 ((s.sec.ifaces[0]?).getD 0).toNat
    ++ leBytes 2 (s.farSize / 2 ^ 30) ++ [BitVec.ofNat 8 port.toNat] ++ List.replicate 5 0

/-- A new session under the lowest free number. -/
def State.openSession (s : State) (h : Hdr) (n : Nat) (nonce : Word) (mgmt : Bool) (keepalive linger rto : Nat) : State :=
  let (cookie, s1) := s.fresh
  let m := resultMsg h.seq 0 (s.openFields n cookie h.port)
  let x : Sess :=
    { cookie := cookie, port := h.port, src := h.src, udp := h.udp, nonce := nonce, mgmt := mgmt,
      keep := if keepalive = 0 then 1000 else keepalive, linger := linger, rto := if rto = 0 then 200 else rto,
      expect := 0, heard := s.gtime, opened := m }
  ({ s1 with sess := s1.sess ++ [(n, x)] }).resultOut h.port h.src h.udp h.seq m

/-- SESSION_OPEN (R413). -/
def execSessionOpen (h : Hdr) (nonce : Word) (mgmt : Bool) (keepalive : BitVec 16) (linger : BitVec 16) (rto : BitVec 16) (s : State) : Res :=
  let refuse (c : Code) : Res := .next (s.resultOut h.port h.src h.udp h.seq (resultMsg h.seq c []))
  if ¬ (s.mainRuns ∧ s.portUp h.port) then .next s
  else if h.session ≠ 0xFFFF ∨ h.cookie ≠ 0 then .next (s.tuDrop h.port)
  else match s.sess.find? (fun x => x.2.nonce == nonce && x.2.port == h.port && x.2.src == h.src && x.2.udp == h.udp) with
    | some x => .next (s.resultOut h.port h.src h.udp h.seq x.2.opened)
    | none =>
      if 60000 < keepalive.toNat ∨ 3600 < linger.toNat ∨ (0 < rto.toNat ∧ rto.toNat < 20) then refuse K.eHostFormat
      else match (List.range 256).find? (fun n => (s.session n).isNone) with
        | none => refuse K.eHostSessions
        | some n =>
          if mgmt ∧ ¬ s.mgmtPort h.port then refuse K.eHostPriv
          else .next (s.openSession h n nonce mgmt keepalive.toNat linger.toNat rto.toNat)

/-! ### Acknowledgements and timers (R410, R411, R415) -/

/-- ACK (R412). -/
def execAck (h : Hdr) (s : State) : Res :=
  if ¬ (s.mainRuns ∧ s.portUp h.port) then .next s
  else match s.sessOf h with
    | none => .next (s.tuDrop h.port)
    | some _ =>
      let n := h.session.toNat
      .next ((s.updSess n (fun y => { y with heard := s.gtime })).hostAck n h.ack)

/-- DEVICE_ACK_TIMER (R410). -/
def execDeviceAckTimer (session : Nat) (s : State) : Res :=
  match s.session session with
  | some x => if x.ackDue then .next (s.sendAck session) else .next s
  | none => .next s

/-- MESSAGE_RESEND (R410): once the session's rto has passed, doubled for each resend up to 64 times; the sixteenth resend of a
message makes the session lost. -/
def execMessageResend (session : Nat) (seq : BitVec 32) (s : State) : Res :=
  match s.session session with
  | none => .next s
  | some x =>
    match x.unacked.find? (fun u => u.seq == seq) with
    | none => .next s
    | some u =>
      let st := s.until (u.sent + BitVec.ofNat 64 (1000 * x.rto * 2 ^ min 6 u.resends))
      let s0 := { st with out := st.out ++ [Out.host session u.seq (x.expect - 1) u.msg] }
      let s1 := s0.updSess session (fun y =>
        { y with
          ackDue := false
          unacked := y.unacked.map (fun (v : Unacked) => if v.seq = seq then { v with resends := v.resends + 1, sent := s0.gtime } else v) })
      if 16 ≤ u.resends + 1 then .next (s1.loseSession session) else .next s1

/-- REASSEMBLY_TIMEOUT (R411). -/
def execReassemblyTimeout (session : Nat) (seq : BitVec 32) (s : State) : Res :=
  match s.session session with
  | none => .next s
  | some x =>
    match x.parts.find? (fun p => p.seq == seq) with
    | none => .next s
    | some p =>
      .next ((s.until (p.since + 100000000)).updSess session (fun y => { y with parts := y.parts.filter (fun q => q.seq != seq) }))

/-- SESSION_LOST (R415). -/
def execSessionLost (session : Nat) (s : State) : Res :=
  match s.session session with
  | none => .next s
  | some x => .next ((s.until (x.heard + BitVec.ofNat 64 (3 * x.keep * 1000000))).loseSession session)

/-- LINGER_EXPIRY (R415). -/
def execLingerExpiry (job : Nat) (s : State) : Res :=
  match s.job job with
  | none => .next s
  | some j =>
    if j.session.isSome ∨ j.ending then .next s
    else .next ((s.until (j.detachedAt + BitVec.ofNat 64 (j.linger * 1000000000))).endJob job)

/-! ### Requests of a session -/

/-- SESSION_CLOSE (R415). -/
def execSessionClose (h : Hdr) (detach : Bool) (s : State) : Res := .next (s.hostMsg h (.close detach))

/-- KEEPALIVE (R412). -/
def execKeepalive (h : Hdr) (s : State) : Res := .next (s.hostMsg h .keepalive)

/-- NET_CONFIG (R406). -/
def execNetConfig (h : Hdr) (port kind index plen : BitVec 8) (addr : BitVec 128) (remove : Bool) (s : State) : Res :=
  .next (s.hostMsg h (.netConfig port kind index plen addr remove))

/-- MBX_WRITE (R417). -/
def execMbxWrite (h : Hdr) (die : BitVec 8) (value : Word) (s : State) : Res := .next (s.hostMsg h (.mbxWrite die value))

/-- WINDOW_GRANT (R424). -/
def execWindowGrant (h : Hdr) (job va len : Nat) (rd wr : Bool) (wmode : BitVec 8) (s : State) : Res :=
  .next (s.hostMsg h (.windowGrant job va len rd wr wmode))

/-- WINDOW_REVOKE (R427). -/
def execWindowRevoke (h : Hdr) (window : Nat) (s : State) : Res := .next (s.hostMsg h (.windowRevoke window))

/-- QP_CREATE (R423). -/
def execQpCreate (h : Hdr) (hqpn hpsn : BitVec 32) (gid : BitVec 128) (pmtu : BitVec 8) (s : State) : Res :=
  .next (s.hostMsg h (.qpCreate hqpn hpsn gid pmtu))

/-- QP_DESTROY (R412). -/
def execQpDestroy (h : Hdr) (qpn : BitVec 32) (s : State) : Res := .next (s.hostMsg h (.qpDestroy qpn))

/-- JOB_ADMIT (R340, R419). -/
def execJobAdmit (h : Hdr) (req : AdmitReq) (choice : AdmitChoice) (s : State) : Res :=
  .next (s.hostMsg h (.jobAdmit req choice.nw choice.maps))

/-- JOB_END (R418). -/
def execJobEnd (h : Hdr) (job : Nat) (s : State) : Res := .next (s.hostMsg h (.jobEnd job))

/-- JOB_ATTACH (R416). -/
def execJobAttach (h : Hdr) (job : Nat) (key : Word) (s : State) : Res := .next (s.hostMsg h (.jobAttach job key))

/-- CMD_SUBMIT (R420). -/
def execCmdSubmit (h : Hdr) (req : CmdReq) (s : State) : Res := .next (s.hostMsg h (.cmdSubmit req))

/-- CMD_CANCEL (R422). -/
def execCmdCancel (h : Hdr) (job : Nat) (tag : Word) (s : State) : Res := .next (s.hostMsg h (.cmdCancel job tag))

/-- KEYSTORE_PUT (R458). -/
def execKeystorePut (h : Hdr) (slot : Nat) (erase : Bool) (iv : BitVec 96) (wrapped : BitVec 256) (tag : BitVec 128) (s : State) : Res :=
  .next (s.hostMsg h (.keystorePut slot erase iv wrapped tag))

end Sys2Proof.Machine
end

