-- ==== Sys2Proof/Machine/MFamily.lean ====
section
/-! DEFINITION. The commands of the M-slot: each presents its instruction to a cell in a word of its own, under its guard, and
one island cycle passes (log entry 1). What the instruction does is in Matrix.lean and Issue.lean. -/

namespace Sys2Proof.Machine

open Sys2Proof

/-- MNOP (R147): a word of no-ops. -/
def execMnop (c : CellRef) (s : State) : Res := .next (drive c {} s)

/-- MCFG (R148). -/
def execMcfg (c : CellRef) (g : BitVec 4) (ra : BitVec 5) (s : State) : Res :=
  .next (drive c { mg := g, m := .mcfg ra } s)

/-- MMA (R149). -/
def execMma (c : CellRef) (g : BitVec 4) (d : Bool) (ta tb : BitVec 4) (idx : BitVec 5) (inc : Bool) (st : BitVec 4) (s : State) : Res :=
  .next (drive c { mg := g, m := .mma d ta tb idx inc st } s)

/-- MCLR (R156). -/
def execMclr (c : CellRef) (g : BitVec 4) (d : Bool) (s : State) : Res :=
  .next (drive c { mg := g, m := .mclr d } s)

/-- MOUT (R159). -/
def execMout (c : CellRef) (g : BitVec 4) (d : Bool) (td fmt : BitVec 4) (idx : BitVec 5) (inc : Bool) (rm : BitVec 3) (s : State) : Res :=
  .next (drive c { mg := g, m := .mout d td fmt idx inc rm } s)

/-- MOUT_RAW (R159). -/
def execMoutRaw (c : CellRef) (g : BitVec 4) (d : Bool) (td : BitVec 4) (idx : BitVec 5) (inc : Bool) (s : State) : Res :=
  .next (drive c { mg := g, m := .moutRaw d td idx inc } s)

/-- MMRG (R161). -/
def execMmrg (c : CellRef) (g : BitVec 4) (d : Bool) (ts : BitVec 4) (idx : BitVec 5) (inc : Bool) (s : State) : Res :=
  .next (drive c { mg := g, m := .mmrg d ts idx inc } s)

end Sys2Proof.Machine
end

