-- ==== Sys2Proof/Machine/Memory.lean ====
section
/-! DEFINITION. Vaults and far DRAM serving requests (R278, R280, R296, R297), and the end of LPDDR6 training (R281). -/

namespace Sys2Proof.Machine

open Sys2Proof

/-- Serve the read or write at the front of a queue. -/
def State.serveFront (s : State) (q here die cls : Nat) (r : MemReq) (rest : List MemReq) (u : Upset) : State :=
  let s0 := s.setQueue q rest
  if r.write then
    let (s1, ok) := s0.writeRange die cls r.table r.pa r.data u
    s1.replyMem here r (if ok then 0 else K.eMemUncorrectable) []
  else
    let (s1, ok) := s0.readRange die cls r.table u (blocksOf r.pa r.len)
    if ok then s1.replyMem here r 0 (s1.rdN r.pa r.len) else s1.replyMem here r K.eMemUncorrectable []

/-- VAULT_READ (R278): the read at the front of the vault's queue; `upset` is what its first block is found to hold. -/
def execVaultRead (isl : Nat) (upset : Upset) (s : State) : Res :=
  match s.queue (vaultQ isl) with
  | [] => .next s
  | r :: rest => if r.write then .next s else .next (s.serveFront (vaultQ isl) (islAgent isl) (islDie isl) 1 r rest upset)

/-- VAULT_WRITE (R278). -/
def execVaultWrite (isl : Nat) (upset : Upset) (s : State) : Res :=
  match s.queue (vaultQ isl) with
  | [] => .next s
  | r :: rest => if r.write then .next (s.serveFront (vaultQ isl) (islAgent isl) (islDie isl) 1 r rest upset) else .next s

/-- FAR_DRAM_ACCESS (R280). -/
def execFarDramAccess (ch : Nat) (upset : Upset) (s : State) : Res :=
  match s.queue (farQ ch) with
  | [] => .next s
  | r :: rest => .next (s.serveFront (farQ ch) (farAgent ch) (ch / 16) 2 r rest upset)

/-- The largest population of R280 that leaves out every failed channel of both dies. -/
def farUse (n : Nat) (failed0 failed1 : BitVec 16) : Nat :=
  let f := failed0 ||| failed1
  if 16 ≤ n ∧ f = 0 then 16 else if 8 ≤ n ∧ f.setWidth 8 = (0 : BitVec 8) then 8 else 0

/-- LPDDR6_TRAINING_DONE (R281): MEM_FAR of each die shows the population in use and its failed channels (R306). Density
code 3 names no part of R306; such a command has no effect. Failed channels are reported with E_FAR_TRAINING. -/
def execLpddr6TrainingDone (n : BitVec 5) (density : BitVec 2) (ranks rate : Bool) (failed0 failed1 : BitVec 16) (s : State) : Res :=
  let use := farUse n.toNat failed0 failed1
  let w (f : BitVec 16) : Word :=
    BitVec.ofNat 64 (use + density.toNat * 2 ^ 5 + b2n ranks * 2 ^ 7 + b2n rate * 2 ^ 8 + f.toNat * 2 ^ 16)
  if density = 3 then .next s
  else
    let s1 := (s.setReg (R.memFar 0) (w failed0)).setReg (R.memFar 1) (w failed1)
    .next { s1 with out := s1.out ++ (if failed0 ||| failed1 = 0 then [] else [.report K.eFarTraining (failed0.toNat + failed1.toNat * 2 ^ 16)]) }

end Sys2Proof.Machine
end

