-- ==== Sys2Proof/Machine/Mesh.lean ====
section
/-! DEFINITION. The packet mesh as events (R240 to R253): hops, ejection, multicast copies. -/

namespace Sys2Proof.Machine

open Sys2Proof

/-! ### Hops (R244, R245, R249) -/

/-- A packet moves one hop towards an island, if the buffer there has room. -/
def State.hopTo (s : State) (k dst : Nat) (p : Packet) (us : List (Nat × Upset)) : State :=
  match nextHop p.at_ dst with
  | none => s
  | some (n, seam) =>
    if s.meshRoom (p.hop n seam) then { s with mesh := s.mesh.eraseIdx k }.reach (p.hop n seam) seam us else s

/-- The neighbour on a side of an island in the package and whether the seam lies between. -/
def sideOf (isl p : Nat) : Option (Nat × Bool) :=
  let c := islCol isl
  (islNbr isl p).map (fun n => (n, (p == 1 && c == 11) || (p == 3 && c == 12)))

/-- The ports that a group's entry marks at a router: 0 to 3 with a neighbour, 4 the local stop. -/
def mcPorts (isl : Nat) (e : Word) : List Nat :=
  (List.range 5).filter (fun p => bit p e && (p == 4 || (islNbr isl p).isSome))

/-- A port of the tree takes its copy now: the local stop always, a neighbour when it has room. -/
def State.mcRoom (s : State) (p : Packet) (q : Nat) : Bool :=
  match sideOf p.at_ q with
  | some (n, seam) => q == 4 || s.meshRoom ({ p with root := none }.hop n seam)
  | none => true

/-- At its root and below it a multicast packet is copied to every marked port, one copy at a time as each finds room (R249).
Its buffer is released when the last copy has left; a packet of an invalid group is discarded (R252). -/
def State.fanOut (s : State) (k : Nat) (p : Packet) (us : List (Nat × Upset)) : State :=
  let e := s.reg (R.islMcg p.at_ p.dst)
  if ¬ bit 31 e then { s with mesh := s.mesh.eraseIdx k }.meshRefused p.at_
  else
    let todo := p.todo.getD (mcPorts p.at_ e)
    match todo.find? (s.mcRoom p) with
    | none => if todo.isEmpty then { s with mesh := s.mesh.eraseIdx k } else s
    | some q =>
      let left := todo.erase q
      let p0 := { p with root := none }
      let s1 := { s with mesh := if left.isEmpty then s.mesh.eraseIdx k else s.mesh.set k { p0 with todo := some left } }
      match sideOf p.at_ q with
      | some (n, seam) => if q = 4 then { s1 with mesh := s1.mesh ++ [{ p0 with arrived := true, todo := none }] } else s1.reach (p0.hop n seam) seam us
      | none => { s1 with mesh := s1.mesh ++ [{ p0 with arrived := true, todo := none }] }

/-- MESH_HOP (R244): a packet in the mesh advances, if it is the first of its buffer (R247); the upsets are those of its blocks on a
link across the seam. -/
def execMeshHop (h : LinkRead) (s : State) : Res :=
  match s.mesh[h.at_]? with
  | none => .next s
  | some p =>
    if p.arrived ∨ ¬ s.isHead h.at_ p then .next s
    else if p.port = 5 then .next (s.enter (s.mesh.eraseIdx h.at_) p)
    else if p.mc then
      match p.root with
      | some r => if p.at_ = r then .next (s.fanOut h.at_ p h.us) else .next (s.hopTo h.at_ r p h.us)
      | none => .next (s.fanOut h.at_ p h.us)
    else match agentStop p.dst with
      | some d => .next (s.hopTo h.at_ d p h.us)
      | none => .next ({ s with mesh := s.mesh.eraseIdx h.at_ }.meshRefused p.at_)

/-! ### Ejection (R240, R247, R248) -/

/-- A reply at an island router of a killed command is discarded (R248). -/
def State.staleReply (s : State) (p : Packet) : Bool :=
  agentType p.dst == 0 && p.op.cls == 1 && p.table != 0 && p.table == (s.isl p.at_).table && p.cmd != s.ecmd p.table

/-- What the destination does with a packet. -/
def State.takePacket (s : State) (p : Packet) : State :=
  match p.op with
  | .read => s.acceptMem p.dst ⟨false, p.addr, p.len, [], p.src, p.tag, p.table, p.cmd⟩
  | .write => s.acceptMem p.dst ⟨true, p.addr, p.len, p.data, p.src, p.tag, p.table, p.cmd⟩
  | .readReply => s.deliverReply p.tag false p.status p.data
  | .writeAck => s.deliverReply p.tag true p.status []
  | .sync => s.syncArrive p.syncId
  | .syncReply => s.setSync p.syncId (fun r =>
      match r.stage with
      | .replying st v => { r with stage := .replied st v }
      | .retrying => { r with stage := .retry, since := s.gtime }
      | _ => r)
  | _ => s

/-- Whether the packet is at its stop and the first of its buffer. -/
def State.mayEject (s : State) (k : Nat) (p : Packet) : Bool :=
  !p.mc && p.port != 5 && agentStop p.dst == some p.at_ && s.isHead k p

/-- MESH_PACKET_EJECT (R240); `us` are the upsets of the packet's blocks. A packet that a mistaken header sends elsewhere goes
on from here; a write to a deal area that a deal holds waits (R350). -/
def execMeshPacketEject (k : Nat) (us : List (Nat × Upset)) (s : State) : Res :=
  match s.mesh[k]? with
  | none => .next s
  | some p =>
    if ¬ s.mayEject k p then .next s
    else
      let s1 := { s with mesh := s.mesh.eraseIdx k }
      let (s2, o) := s1.checkPacket 4 p.at_ p us
      match o with
      | none => .next s2
      | some q =>
        if q.op = .write ∧ s2.dealHeldPA q.addr q.data.length then .next s
        else if q.mc ∨ agentStop q.dst ≠ some p.at_ then .next { s2 with mesh := s2.mesh ++ [q] }
        else if s2.staleReply q then
          .next ((s2.incFld (R.islMesh p.at_) 31 0 1).dropSync (if q.op = .syncReply then q.syncId else s2.syncNext))
        else .next (s2.takePacket q)

/-! ### Multicast (R250) -/

/-- A copy of a multicast write at an island: written at its target, or discarded and counted. A write of part of a block
reads and corrects it first, as in R255 and R278. -/
def State.takeCopy (s : State) (isl : Nat) (p : Packet) : State :=
  let off := p.arg / 32
  let kc : CellRef := ⟨isl, p.arg / 2 % 16⟩
  if s.fld (R.islMcg isl p.dst) 23 16 ≠ (s.isl isl).table ∨ 2 ^ 35 ≤ p.arg then s.meshRefused isl
  else if p.arg % 2 = 0 then
    if ¬ s.cellExists kc ∨ sramSize kc < off + p.data.length then s.meshRefused isl
    else
      let (s1, ok) := s.readRange (islDie isl) 0 p.table [] (blocksPart (sramBase kc + off) p.data.length)
      if ok then s1.sramLane kc off p.data (some (p.table, p.cmd)) else s1
  else if 0x40000000 < off + p.data.length then s.meshRefused isl
  else (s.writeRange (islDie isl) 1 p.table (vaultBase isl + off) p.data []).1

/-- MULTICAST_WRITE (R250): the first copy that has arrived at an island is checked and written. -/
def execMulticastWrite (c : LinkRead) (s : State) : Res :=
  match s.mesh.findIdx? (fun p => p.mc && p.arrived && p.at_ == c.at_) with
  | none => .next s
  | some k =>
    match s.mesh[k]? with
    | none => .next s
    | some p =>
      let (s1, o) := { s with mesh := s.mesh.eraseIdx k }.checkPacket 4 c.at_ p c.us
      match o with
      | none => .next s1
      | some q =>
        if q.arg % 2 = 0 ∧ s1.dealHeld ⟨c.at_, q.arg / 2 % 16⟩ (q.arg / 32) q.data.length then .next s else .next (s1.takeCopy c.at_ q)

end Sys2Proof.Machine
end

