-- ==== Sys2Proof/Machine/Pins.lean ====
section
/-! DEFINITION. SMBus, JTAG, the trace port (R454, R531 to R533, R536). -/

namespace Sys2Proof.Machine

open Sys2Proof

/-! ### SMBus (R531, R532) -/

/-- What the board management controller may read. -/
def smbusReadable (a : Nat) : Bool :=
  match regPlace a with
  | .block _ .geo o => o == 0
  | .block _ .fuse _ => true
  | .block _ .sec _ => true
  | .block _ .rcp o => o == 0x000 || o == 0x100 || o == 0x208 || o == 0x210 || o == 0x300
  | .block _ .err o => o == 0x000 || o == 0x008 || o == 0x010 || o == 0x018
  | _ => false

/-- SMBUS_READ (R531): a transaction with a bad PEC is not acknowledged, and nothing answers before the security block is
released from an episode. -/
def execSmbusRead (addr : Nat) (pecOk : Bool) (s : State) : Res :=
  if ¬ pecOk ∨ s.episode.isSome then .next s
  else
    let bs := if addr % 8 = 0 ∧ smbusReadable addr then (0 : Byte) :: leBytes 8 (s.readReg addr).toNat else 1 :: List.replicate 8 0
    .next { s with out := s.out ++ [.smbus bs] }

/-- SMB_ALERT_N is asserted. -/
def State.smbAlert (s : State) : Bool := s.alertConds.any (fun c => !s.alertAck.contains c)

/-- FAULT_N is asserted: a load fault, a thermal trip, or ERR_SUM.fault (R448, R489, R515, R529). -/
def State.faultN (s : State) : Bool :=
  s.loadState == 4 || bit 26 (s.reg (R.telTemp 0)) || bit 26 (s.reg (R.telTemp 1)) || bit 1 (s.reg (R.errSum 0)) || bit 1 (s.reg (R.errSum 1))

/-- RESET_N is driven low (R474, R528). -/
def State.resetN (s : State) : Bool := s.drivesResetN

/-- The GPIO that carries the thermal alert, if one does, and whether the alert is asserted (R488, R534). -/
def State.alertPin (s : State) : Option (Nat × Bool) :=
  if bit 3 (s.reg R.pinAlert) then
    some (s.fld R.pinAlert 2 0, bit 25 (s.reg (R.telTemp 0)) || bit 25 (s.reg (R.telTemp 1)) || bit 26 (s.reg (R.telTemp 0)) || bit 26 (s.reg (R.telTemp 1)))
  else none

/-- The target address of the straps (R530). -/
def State.smbAddress (s : State) : Nat := 0x60 + s.fld R.pinStrap 1 0

/-- SMBUS_ALERT_RESPONSE (R532). -/
def execSmbusAlertResponse (s : State) : Res :=
  if s.smbAlert ∧ s.episode.isNone then .next { s with out := s.out ++ [.smbus [BitVec.ofNat 8 (2 * s.smbAddress)]], alertAck := s.alertConds }
  else .next s

/-! ### JTAG (R454, R533) -/

/-- IDCODE. -/
def State.idcode (s : State) : Nat := s.fuses.stepping0.toNat % 16 * 2 ^ 28 + 0x9B09 * 2 ^ 12 + 0x2F3 * 2 + 1

/-- A state-scan buffer holds an address. -/
def State.inScanBuffer (s : State) (pa : Nat) : Bool :=
  (List.range 256).any (fun t => s.tvalid t && decide (s.fld (R.tblScan 0 t) 47 12 * 4096 ≤ pa)
    && decide (pa + 8 ≤ s.fld (R.tblScan 0 t) 47 12 * 4096 + 0x400000 * (s.tableIsls t).length))

/-- JTAG_INSTRUCTION (R454, R533): an instruction beyond the debug level acts as BYPASS. -/
def execJtagInstruction (inst : JtagInst) (s : State) : Res :=
  let n := s.debugLevel
  let show_ (o : Out) : Res := .next { s with out := s.out ++ [o] }
  match inst with
  | .idcode => show_ (.jtag (BitVec.ofNat 64 s.idcode))
  | .bypass => .next s
  | .boundary => if 1 ≤ n then show_ .boundary else .next s
  | .extest => if 1 ≤ n ∧ (s.loadState = 0 ∨ s.loadState = 4) then show_ .boundary else .next s
  | .clamp => if 1 ≤ n ∧ (s.loadState = 0 ∨ s.loadState = 4) then show_ .boundary else .next s
  | .readControl a => if 2 ≤ n then show_ (.jtag (s.readReg a)) else .next s
  | .readScan pa => if 2 ≤ n ∧ s.inScanBuffer pa then show_ (.jtag (BitVec.ofNat 64 (leNat (s.decN pa 8)))) else .next s
  | .writeControl a v => if 3 ≤ n then .next (s.busWrite a v) else .next s
  | .haltCore core => if 3 ≤ n ∧ core < 32 then show_ (.haltCore core) else .next s

/-! ### Trace (R536, R545) -/

/-- The trace functions are applied (R534). -/
def State.traceOn (s : State) : Bool := s.fld R.pinFunc 19 16 == 3 && (List.range 4).all (fun k => s.fld R.pinFunc (4 * k + 3) (4 * k) == 2)

/-- The nibbles of a word, least significant first. -/
def nibbles (w : Word) : List (BitVec 4) := (List.range 16).map (fun i => BitVec.ofNat 4 (w.toNat / 16 ^ i))

/-- TRACE_WORD_SENT (R536). -/
def execTraceWordSent (s : State) : Res :=
  match s.trace with
  | [] => .next s
  | w :: r => if s.traceOn then .next { s with trace := r, out := s.out ++ [.trace (nibbles w)] } else .next s

end Sys2Proof.Machine
end

