-- ==== Sys2Proof/Machine/SFamily.lean ====
section
/-! DEFINITION. The commands of the S-slot: each presents its instruction to a cell in a word of its own, under its guard, and
one island cycle passes (log entry 1). What the instruction does is in Sequencer.lean and Issue.lean. -/

namespace Sys2Proof.Machine

open Sys2Proof

/-- NOP (R114): a word of no-ops. -/
def execNop (c : CellRef) (s : State) : Res := .next (drive c {} s)

/-- ADD (R115). -/
def execAdd (c : CellRef) (g : BitVec 4) (rd ra rb : BitVec 5) (s : State) : Res :=
  .next (drive c { sg := g, s := .alu .add rd ra rb } s)

/-- SUB (R115). -/
def execSub (c : CellRef) (g : BitVec 4) (rd ra rb : BitVec 5) (s : State) : Res :=
  .next (drive c { sg := g, s := .alu .sub rd ra rb } s)

/-- AND (R115). -/
def execAnd (c : CellRef) (g : BitVec 4) (rd ra rb : BitVec 5) (s : State) : Res :=
  .next (drive c { sg := g, s := .alu .and rd ra rb } s)

/-- OR (R115). -/
def execOr (c : CellRef) (g : BitVec 4) (rd ra rb : BitVec 5) (s : State) : Res :=
  .next (drive c { sg := g, s := .alu .or rd ra rb } s)

/-- XOR (R115). -/
def execXor (c : CellRef) (g : BitVec 4) (rd ra rb : BitVec 5) (s : State) : Res :=
  .next (drive c { sg := g, s := .alu .xor rd ra rb } s)

/-- SHL (R115). -/
def execShl (c : CellRef) (g : BitVec 4) (rd ra rb : BitVec 5) (s : State) : Res :=
  .next (drive c { sg := g, s := .alu .shl rd ra rb } s)

/-- SHR (R115). -/
def execShr (c : CellRef) (g : BitVec 4) (rd ra rb : BitVec 5) (s : State) : Res :=
  .next (drive c { sg := g, s := .alu .shr rd ra rb } s)

/-- SRA (R115). -/
def execSra (c : CellRef) (g : BitVec 4) (rd ra rb : BitVec 5) (s : State) : Res :=
  .next (drive c { sg := g, s := .alu .sra rd ra rb } s)

/-- MIN (R115). -/
def execMinS (c : CellRef) (g : BitVec 4) (rd ra rb : BitVec 5) (s : State) : Res :=
  .next (drive c { sg := g, s := .alu .minS rd ra rb } s)

/-- MAX (R115). -/
def execMaxS (c : CellRef) (g : BitVec 4) (rd ra rb : BitVec 5) (s : State) : Res :=
  .next (drive c { sg := g, s := .alu .maxS rd ra rb } s)

/-- MINU (R115). -/
def execMinu (c : CellRef) (g : BitVec 4) (rd ra rb : BitVec 5) (s : State) : Res :=
  .next (drive c { sg := g, s := .alu .minu rd ra rb } s)

/-- MAXU (R115). -/
def execMaxu (c : CellRef) (g : BitVec 4) (rd ra rb : BitVec 5) (s : State) : Res :=
  .next (drive c { sg := g, s := .alu .maxu rd ra rb } s)

/-- MUL (R115). -/
def execMul (c : CellRef) (g : BitVec 4) (rd ra rb : BitVec 5) (s : State) : Res :=
  .next (drive c { sg := g, s := .alu .mul rd ra rb } s)

/-- MULHU (R115). -/
def execMulhu (c : CellRef) (g : BitVec 4) (rd ra rb : BitVec 5) (s : State) : Res :=
  .next (drive c { sg := g, s := .alu .mulhu rd ra rb } s)

/-- MULH (R115). -/
def execMulh (c : CellRef) (g : BitVec 4) (rd ra rb : BitVec 5) (s : State) : Res :=
  .next (drive c { sg := g, s := .alu .mulh rd ra rb } s)

/-- ADDI (R114). -/
def execAddi (c : CellRef) (g : BitVec 4) (rd ra : BitVec 5) (imm : BitVec 12) (s : State) : Res :=
  .next (drive c { sg := g, s := .alui .addi rd ra imm } s)

/-- ANDI (R113). -/
def execAndi (c : CellRef) (g : BitVec 4) (rd ra : BitVec 5) (imm : BitVec 12) (s : State) : Res :=
  .next (drive c { sg := g, s := .alui .andi rd ra imm } s)

/-- ORI (R113). -/
def execOri (c : CellRef) (g : BitVec 4) (rd ra : BitVec 5) (imm : BitVec 12) (s : State) : Res :=
  .next (drive c { sg := g, s := .alui .ori rd ra imm } s)

/-- XORI (R113). -/
def execXori (c : CellRef) (g : BitVec 4) (rd ra : BitVec 5) (imm : BitVec 12) (s : State) : Res :=
  .next (drive c { sg := g, s := .alui .xori rd ra imm } s)

/-- SHLI (R114). -/
def execShli (c : CellRef) (g : BitVec 4) (rd ra : BitVec 5) (sh : BitVec 6) (s : State) : Res :=
  .next (drive c { sg := g, s := .shi .shl rd ra sh } s)

/-- SHRI (R114). -/
def execShri (c : CellRef) (g : BitVec 4) (rd ra : BitVec 5) (sh : BitVec 6) (s : State) : Res :=
  .next (drive c { sg := g, s := .shi .shr rd ra sh } s)

/-- SRAI (R114). -/
def execSrai (c : CellRef) (g : BitVec 4) (rd ra : BitVec 5) (sh : BitVec 6) (s : State) : Res :=
  .next (drive c { sg := g, s := .shi .sra rd ra sh } s)

/-- MOVI (R114). -/
def execMovi (c : CellRef) (g : BitVec 4) (rd : BitVec 5) (imm : BitVec 17) (s : State) : Res :=
  .next (drive c { sg := g, s := .movi rd imm } s)

/-- SHORI (R114). -/
def execShori (c : CellRef) (g : BitVec 4) (rd : BitVec 5) (imm : BitVec 16) (s : State) : Res :=
  .next (drive c { sg := g, s := .shori rd imm } s)

/-- CMP_EQ (R115). -/
def execCmpEq (c : CellRef) (g : BitVec 4) (pd : BitVec 3) (ra rb : BitVec 5) (s : State) : Res :=
  .next (drive c { sg := g, s := .cmp .eq pd ra rb } s)

/-- CMP_NE (R115). -/
def execCmpNe (c : CellRef) (g : BitVec 4) (pd : BitVec 3) (ra rb : BitVec 5) (s : State) : Res :=
  .next (drive c { sg := g, s := .cmp .ne pd ra rb } s)

/-- CMP_LT (R115). -/
def execCmpLt (c : CellRef) (g : BitVec 4) (pd : BitVec 3) (ra rb : BitVec 5) (s : State) : Res :=
  .next (drive c { sg := g, s := .cmp .lt pd ra rb } s)

/-- CMP_GE (R115). -/
def execCmpGe (c : CellRef) (g : BitVec 4) (pd : BitVec 3) (ra rb : BitVec 5) (s : State) : Res :=
  .next (drive c { sg := g, s := .cmp .ge pd ra rb } s)

/-- CMP_LTU (R115). -/
def execCmpLtu (c : CellRef) (g : BitVec 4) (pd : BitVec 3) (ra rb : BitVec 5) (s : State) : Res :=
  .next (drive c { sg := g, s := .cmp .ltu pd ra rb } s)

/-- CMP_GEU (R115). -/
def execCmpGeu (c : CellRef) (g : BitVec 4) (pd : BitVec 3) (ra rb : BitVec 5) (s : State) : Res :=
  .next (drive c { sg := g, s := .cmp .geu pd ra rb } s)

/-- CMPI_EQ (R114). -/
def execCmpiEq (c : CellRef) (g : BitVec 4) (pd : BitVec 3) (ra : BitVec 5) (imm : BitVec 12) (s : State) : Res :=
  .next (drive c { sg := g, s := .cmpi .eq pd ra imm } s)

/-- CMPI_NE (R114). -/
def execCmpiNe (c : CellRef) (g : BitVec 4) (pd : BitVec 3) (ra : BitVec 5) (imm : BitVec 12) (s : State) : Res :=
  .next (drive c { sg := g, s := .cmpi .ne pd ra imm } s)

/-- CMPI_LT (R114). -/
def execCmpiLt (c : CellRef) (g : BitVec 4) (pd : BitVec 3) (ra : BitVec 5) (imm : BitVec 12) (s : State) : Res :=
  .next (drive c { sg := g, s := .cmpi .lt pd ra imm } s)

/-- CMPI_GE (R114). -/
def execCmpiGe (c : CellRef) (g : BitVec 4) (pd : BitVec 3) (ra : BitVec 5) (imm : BitVec 12) (s : State) : Res :=
  .next (drive c { sg := g, s := .cmpi .ge pd ra imm } s)

/-- CMPI_LTU (R113). -/
def execCmpiLtu (c : CellRef) (g : BitVec 4) (pd : BitVec 3) (ra : BitVec 5) (imm : BitVec 12) (s : State) : Res :=
  .next (drive c { sg := g, s := .cmpi .ltu pd ra imm } s)

/-- CMPI_GEU (R113). -/
def execCmpiGeu (c : CellRef) (g : BitVec 4) (pd : BitVec 3) (ra : BitVec 5) (imm : BitVec 12) (s : State) : Res :=
  .next (drive c { sg := g, s := .cmpi .geu pd ra imm } s)

/-- PLOG_AND (R114). -/
def execPlogAnd (c : CellRef) (g : BitVec 4) (pd pa pb : BitVec 3) (s : State) : Res :=
  .next (drive c { sg := g, s := .plog .and pd pa pb } s)

/-- PLOG_OR (R114). -/
def execPlogOr (c : CellRef) (g : BitVec 4) (pd pa pb : BitVec 3) (s : State) : Res :=
  .next (drive c { sg := g, s := .plog .or pd pa pb } s)

/-- PLOG_XOR (R114). -/
def execPlogXor (c : CellRef) (g : BitVec 4) (pd pa pb : BitVec 3) (s : State) : Res :=
  .next (drive c { sg := g, s := .plog .xor pd pa pb } s)

/-- PLOG_ANDN (R114). -/
def execPlogAndn (c : CellRef) (g : BitVec 4) (pd pa pb : BitVec 3) (s : State) : Res :=
  .next (drive c { sg := g, s := .plog .andn pd pa pb } s)

/-- LD8 (R116). -/
def execLd8 (c : CellRef) (g : BitVec 4) (rd ra : BitVec 5) (imm : BitVec 12) (s : State) : Res :=
  .next (drive c { sg := g, s := .ld 0 rd ra imm } s)

/-- LD16 (R116). -/
def execLd16 (c : CellRef) (g : BitVec 4) (rd ra : BitVec 5) (imm : BitVec 12) (s : State) : Res :=
  .next (drive c { sg := g, s := .ld 1 rd ra imm } s)

/-- LD32 (R116). -/
def execLd32 (c : CellRef) (g : BitVec 4) (rd ra : BitVec 5) (imm : BitVec 12) (s : State) : Res :=
  .next (drive c { sg := g, s := .ld 2 rd ra imm } s)

/-- LD64 (R116). -/
def execLd64 (c : CellRef) (g : BitVec 4) (rd ra : BitVec 5) (imm : BitVec 12) (s : State) : Res :=
  .next (drive c { sg := g, s := .ld 3 rd ra imm } s)

/-- ST8 (R116). -/
def execSt8 (c : CellRef) (g : BitVec 4) (rs ra : BitVec 5) (imm : BitVec 12) (s : State) : Res :=
  .next (drive c { sg := g, s := .st 0 rs ra imm } s)

/-- ST16 (R116). -/
def execSt16 (c : CellRef) (g : BitVec 4) (rs ra : BitVec 5) (imm : BitVec 12) (s : State) : Res :=
  .next (drive c { sg := g, s := .st 1 rs ra imm } s)

/-- ST32 (R116). -/
def execSt32 (c : CellRef) (g : BitVec 4) (rs ra : BitVec 5) (imm : BitVec 12) (s : State) : Res :=
  .next (drive c { sg := g, s := .st 2 rs ra imm } s)

/-- ST64 (R116). -/
def execSt64 (c : CellRef) (g : BitVec 4) (rs ra : BitVec 5) (imm : BitVec 12) (s : State) : Res :=
  .next (drive c { sg := g, s := .st 3 rs ra imm } s)

/-- MFSR (R104). -/
def execMfsr (c : CellRef) (g : BitVec 4) (rd sr : BitVec 5) (s : State) : Res :=
  .next (drive c { sg := g, s := .mfsr rd sr } s)

/-- MTSR (R104). -/
def execMtsr (c : CellRef) (g : BitVec 4) (sr ra : BitVec 5) (s : State) : Res :=
  .next (drive c { sg := g, s := .mtsr sr ra } s)

/-- BR (R117). -/
def execBr (c : CellRef) (g : BitVec 4) (target : BitVec 12) (s : State) : Res :=
  .next (drive c { sg := g, s := .br target } s)

/-- BRR (R117). -/
def execBrr (c : CellRef) (g : BitVec 4) (ra : BitVec 5) (s : State) : Res :=
  .next (drive c { sg := g, s := .brr ra } s)

/-- CALL (R118). -/
def execCall (c : CellRef) (g : BitVec 4) (target : BitVec 12) (s : State) : Res :=
  .next (drive c { sg := g, s := .call target } s)

/-- RET (R118). -/
def execRet (c : CellRef) (g : BitVec 4) (s : State) : Res :=
  .next (drive c { sg := g, s := .ret } s)

/-- LSETUP (R119). -/
def execLsetup (c : CellRef) (g : BitVec 4) (n : BitVec 2) (len : BitVec 8) (count : BitVec 12) (s : State) : Res :=
  .next (drive c { sg := g, s := .lsetup n len count } s)

/-- LSETUPR (R119). -/
def execLsetupr (c : CellRef) (g : BitVec 4) (n : BitVec 2) (len : BitVec 8) (ra : BitVec 5) (s : State) : Res :=
  .next (drive c { sg := g, s := .lsetupr n len ra } s)

/-- ASSERT (R114). -/
def execAssertP (c : CellRef) (g : BitVec 4) (p : BitVec 3) (s : State) : Res :=
  .next (drive c { sg := g, s := .assertP p } s)

/-- END (R121). -/
def execEndProg (c : CellRef) (g : BitVec 4) (s : State) : Res :=
  .next (drive c { sg := g, s := .endP } s)

/-- PC_OVERRUN (R118): the word past the end of instruction memory would issue. -/
def execPcOverrun (c : CellRef) (s : State) : Res :=
  if imemWords c ≤ (s.cell c).pc then .next (drive c {} s) else .next s

end Sys2Proof.Machine
end

