-- ==== Sys2Proof/Machine/Sieve.lean ====
section
/-! DEFINITION. The sieve as events (R263, R264, R266): writes landing, flush beats, fills. -/

namespace Sys2Proof.Machine

open Sys2Proof

/-- SIEVE_BEAT_LAND (R263): a write lands in a memory cell's SRAM; `seat` is the seat tag of an XRECV's token, `mesh` the
table and command epoch of a mesh write. -/
def execSieveBeatLand (c : CellRef) (off : Nat) (data : List Byte) (seat : Option (BitVec 6))
    (mesh : Option (Nat × BitVec 8)) (s : State) : Res :=
  if ¬ (s.cellExists c ∧ isMemCell c ∧ off + data.length ≤ sramSize c) then .next s
  else if s.sieveStale c off data.length mesh then .next (s.satFld (R.sieveStat c) 55 40 1)
  else .next (s.raiseFaults c.isl (s.sramLand c off data seat))

/-- The first flush whose image is not yet written whole: its place in the list. -/
def flushNext (l : List Flush) : Option Nat := l.findIdx? (fun f => !f.left.isEmpty)

/-- SIEVE_FLUSH_BEAT (R266): one beat of the oldest unfinished image is written through the sieve port. -/
def execSieveFlushBeat (c : CellRef) (s : State) : Res :=
  let v := (s.cell c).sieve
  match flushNext v.flushes with
  | none => .next s
  | some i =>
    match v.flushes[i]? with
    | none => .next s
    | some f =>
      let fs := v.flushes.set i { f with at_ := f.at_ + 32, left := f.left.drop 32 }
      .next ((s.wrN (sramBase c + f.at_) (f.left.take 32)).updCell c (fun z => { z with sieve := { z.sieve with flushes := fs } }))

/-- The fill of the oldest flush as a store-when-empty-and-fill operation at the word's home (R266, R313). -/
def State.flushFill (s : State) (k : CellRef) (f : Flush) : State :=
  let r : SyncReq :=
    { id := s.syncNext, who := .sieve (gid k), v := .stef, home := .sram k (f.word / 8), value := BitVec.ofNat 64 f.count,
      timed := false, deadline := 0, table := (s.isl k.isl).table, cmd := s.ecmd (s.isl k.isl).table, early := false,
      ruled := false, expired := false, stage := .atHome }
  let s1 := { s with syncNext := s.syncNext + 1, syncs := s.syncs ++ [r] }
  if r.v.ready (s1.wordGet r.home).2 then s1.applySync r else s1.park r false

/-- SIEVE_FLUSH_FILL (R266): after the last beat of the oldest image its word is filled; if the word is full, the fill
waits until it is empty. -/
def execSieveFlushFill (c : CellRef) (s : State) : Res :=
  match (s.cell c).sieve.flushes with
  | [] => .next s
  | f :: _ =>
    if ¬ f.left.isEmpty ∨ s.syncs.any (fun r => r.who == .sieve (gid c)) ∨ s.homeLocked (.sram c (f.word / 8)) then .next s else .next (s.flushFill c f)

end Sys2Proof.Machine
end

