-- ==== Sys2Proof/Machine/VFamily.lean ====
section
/-! DEFINITION. The commands of the V-slot: each presents its instruction to a cell in a word of its own, under its guard, and
one island cycle passes (log entry 1). What the instruction does is in Vector.lean and Issue.lean. -/

namespace Sys2Proof.Machine

open Sys2Proof

/-- VNOP (R168): a word of no-ops. -/
def execVnop (c : CellRef) (s : State) : Res := .next (drive c {} s)

/-- VADD (R169). -/
def execVadd (c : CellRef) (g : BitVec 4) (vd va vb : BitVec 5) (sb : Bool) (ty : BitVec 2) (rm : BitVec 3) (s : State) : Res :=
  .next (drive c { vg := g, v := .bin .add vd va vb sb ty rm } s)

/-- VSUB (R169). -/
def execVsub (c : CellRef) (g : BitVec 4) (vd va vb : BitVec 5) (sb : Bool) (ty : BitVec 2) (rm : BitVec 3) (s : State) : Res :=
  .next (drive c { vg := g, v := .bin .sub vd va vb sb ty rm } s)

/-- VMUL (R169). -/
def execVmul (c : CellRef) (g : BitVec 4) (vd va vb : BitVec 5) (sb : Bool) (ty : BitVec 2) (rm : BitVec 3) (s : State) : Res :=
  .next (drive c { vg := g, v := .bin .mul vd va vb sb ty rm } s)

/-- VFMA (R169). -/
def execVfma (c : CellRef) (g : BitVec 4) (vd va vb : BitVec 5) (sb : Bool) (ty : BitVec 2) (rm : BitVec 3) (s : State) : Res :=
  .next (drive c { vg := g, v := .bin .fma vd va vb sb ty rm } s)

/-- VDIV (R169). -/
def execVdiv (c : CellRef) (g : BitVec 4) (vd va vb : BitVec 5) (sb : Bool) (ty : BitVec 2) (rm : BitVec 3) (s : State) : Res :=
  .next (drive c { vg := g, v := .bin .div vd va vb sb ty rm } s)

/-- VMIN (R173). -/
def execVmin (c : CellRef) (g : BitVec 4) (vd va vb : BitVec 5) (sb : Bool) (ty : BitVec 2) (s : State) : Res :=
  .next (drive c { vg := g, v := .minmax false vd va vb sb ty } s)

/-- VMAX (R173). -/
def execVmax (c : CellRef) (g : BitVec 4) (vd va vb : BitVec 5) (sb : Bool) (ty : BitVec 2) (s : State) : Res :=
  .next (drive c { vg := g, v := .minmax true vd va vb sb ty } s)

/-- VSQRT (R171). -/
def execVsqrt (c : CellRef) (g : BitVec 4) (vd va : BitVec 5) (ty : BitVec 2) (rm : BitVec 3) (s : State) : Res :=
  .next (drive c { vg := g, v := .un .sqrt vd va ty rm } s)

/-- VRSQRT (R171). -/
def execVrsqrt (c : CellRef) (g : BitVec 4) (vd va : BitVec 5) (ty : BitVec 2) (rm : BitVec 3) (s : State) : Res :=
  .next (drive c { vg := g, v := .un .rsqrt vd va ty rm } s)

/-- VEXP2 (R171). -/
def execVexp2 (c : CellRef) (g : BitVec 4) (vd va : BitVec 5) (ty : BitVec 2) (rm : BitVec 3) (s : State) : Res :=
  .next (drive c { vg := g, v := .un .exp2 vd va ty rm } s)

/-- VABS (R169). -/
def execVabs (c : CellRef) (g : BitVec 4) (vd va : BitVec 5) (ty : BitVec 2) (s : State) : Res :=
  .next (drive c { vg := g, v := .sgn false vd va ty } s)

/-- VNEG (R169). -/
def execVneg (c : CellRef) (g : BitVec 4) (vd va : BitVec 5) (ty : BitVec 2) (s : State) : Res :=
  .next (drive c { vg := g, v := .sgn true vd va ty } s)

/-- VCEQ (R172). -/
def execVceq (c : CellRef) (g : BitVec 4) (vd va vb : BitVec 5) (sb : Bool) (ty : BitVec 2) (s : State) : Res :=
  .next (drive c { vg := g, v := .cmp .eq vd va vb sb ty } s)

/-- VCLT (R172). -/
def execVclt (c : CellRef) (g : BitVec 4) (vd va vb : BitVec 5) (sb : Bool) (ty : BitVec 2) (s : State) : Res :=
  .next (drive c { vg := g, v := .cmp .lt vd va vb sb ty } s)

/-- VCLE (R172). -/
def execVcle (c : CellRef) (g : BitVec 4) (vd va vb : BitVec 5) (sb : Bool) (ty : BitVec 2) (s : State) : Res :=
  .next (drive c { vg := g, v := .cmp .le vd va vb sb ty } s)

/-- VCUN (R172). -/
def execVcun (c : CellRef) (g : BitVec 4) (vd va vb : BitVec 5) (sb : Bool) (ty : BitVec 2) (s : State) : Res :=
  .next (drive c { vg := g, v := .cmp .un vd va vb sb ty } s)

/-- VSEL (R168). -/
def execVsel (c : CellRef) (g : BitVec 4) (vd va vb : BitVec 5) (sb : Bool) (ty : BitVec 2) (s : State) : Res :=
  .next (drive c { vg := g, v := .sel vd va vb sb ty } s)

/-- VANY (R168). -/
def execVany (c : CellRef) (g : BitVec 4) (pd : BitVec 3) (va : BitVec 5) (s : State) : Res :=
  .next (drive c { vg := g, v := .anyAll false pd va } s)

/-- VALL (R168). -/
def execVall (c : CellRef) (g : BitVec 4) (pd : BitVec 3) (va : BitVec 5) (s : State) : Res :=
  .next (drive c { vg := g, v := .anyAll true pd va } s)

/-- VAND (R168). -/
def execVand (c : CellRef) (g : BitVec 4) (vd va vb : BitVec 5) (sb : Bool) (s : State) : Res :=
  .next (drive c { vg := g, v := .logic .and vd va vb sb } s)

/-- VOR (R168). -/
def execVor (c : CellRef) (g : BitVec 4) (vd va vb : BitVec 5) (sb : Bool) (s : State) : Res :=
  .next (drive c { vg := g, v := .logic .or vd va vb sb } s)

/-- VXOR (R168). -/
def execVxor (c : CellRef) (g : BitVec 4) (vd va vb : BitVec 5) (sb : Bool) (s : State) : Res :=
  .next (drive c { vg := g, v := .logic .xor vd va vb sb } s)

/-- VSHL (R168). -/
def execVshl (c : CellRef) (g : BitVec 4) (vd va vb : BitVec 5) (sb : Bool) (s : State) : Res :=
  .next (drive c { vg := g, v := .logic .shl vd va vb sb } s)

/-- VSHR (R168). -/
def execVshr (c : CellRef) (g : BitVec 4) (vd va vb : BitVec 5) (sb : Bool) (s : State) : Res :=
  .next (drive c { vg := g, v := .logic .shr vd va vb sb } s)

/-- VSRA (R168). -/
def execVsra (c : CellRef) (g : BitVec 4) (vd va vb : BitVec 5) (sb : Bool) (s : State) : Res :=
  .next (drive c { vg := g, v := .logic .sra vd va vb sb } s)

/-- VBCAST (R168). -/
def execVbcast (c : CellRef) (g : BitVec 4) (vd ra : BitVec 5) (ty : BitVec 2) (s : State) : Res :=
  .next (drive c { vg := g, v := .bcast vd ra ty } s)

/-- VIOTA (R168). -/
def execViota (c : CellRef) (g : BitVec 4) (vd ra : BitVec 5) (s : State) : Res :=
  .next (drive c { vg := g, v := .iota vd ra } s)

/-- VEXT (R168). -/
def execVext (c : CellRef) (g : BitVec 4) (rd va rb : BitVec 5) (ty : BitVec 2) (s : State) : Res :=
  .next (drive c { vg := g, v := .ext rd va rb ty } s)

/-- VROT (R168). -/
def execVrot (c : CellRef) (g : BitVec 4) (vd va rb : BitVec 5) (s : State) : Res :=
  .next (drive c { vg := g, v := .rot vd va rb } s)

/-- VCFG (R175). -/
def execVcfg (c : CellRef) (g : BitVec 4) (ra : BitVec 5) (s : State) : Res :=
  .next (drive c { vg := g, v := .cfg ra } s)

/-- VCVT (R174). -/
def execVcvt (c : CellRef) (g : BitVec 4) (vd va : BitVec 5) (ta td : BitVec 2) (h : Bool) (rm : BitVec 3) (s : State) : Res :=
  .next (drive c { vg := g, v := .cvt vd va ta td h rm } s)

/-- VUNPK (R176). -/
def execVunpk (c : CellRef) (g : BitVec 4) (vd sv idx : BitVec 5) (tile : BitVec 4) (h : Bool) (td : BitVec 2) (s : State) : Res :=
  .next (drive c { vg := g, v := .unpk vd sv idx tile h td } s)

/-- VPACK (R176). -/
def execVpack (c : CellRef) (g : BitVec 4) (va sv idx : BitVec 5) (tile : BitVec 4) (h : Bool) (ta : BitVec 2) (s : State) : Res :=
  .next (drive c { vg := g, v := .pack va sv idx tile h ta } s)

/-- VPOT (R178). -/
def execVpot (c : CellRef) (g : BitVec 4) (vd idx : BitVec 5) (d : Bool) (ty : BitVec 2) (rm : BitVec 3) (inc : Bool) (s : State) : Res :=
  .next (drive c { vg := g, v := .pot false false vd 0 idx d ty rm inc } s)

/-- VPOTA (R178). -/
def execVpota (c : CellRef) (g : BitVec 4) (vd va idx : BitVec 5) (d : Bool) (ty : BitVec 2) (rm : BitVec 3) (inc : Bool) (s : State) : Res :=
  .next (drive c { vg := g, v := .pot true false vd va idx d ty rm inc } s)

/-- VPOTZ (R179). -/
def execVpotz (c : CellRef) (g : BitVec 4) (vd idx : BitVec 5) (d : Bool) (ty : BitVec 2) (rm : BitVec 3) (inc : Bool) (s : State) : Res :=
  .next (drive c { vg := g, v := .pot false true vd 0 idx d ty rm inc } s)

/-- VPOTZA (R179). -/
def execVpotza (c : CellRef) (g : BitVec 4) (vd va idx : BitVec 5) (d : Bool) (ty : BitVec 2) (rm : BitVec 3) (inc : Bool) (s : State) : Res :=
  .next (drive c { vg := g, v := .pot true true vd va idx d ty rm inc } s)

/-- VTRED_SUM (R181). -/
def execVtredSum (c : CellRef) (g : BitVec 4) (vd : BitVec 5) (tile : BitVec 4) (axis : Bool) (ty : BitVec 2) (rm : BitVec 3) (s : State) : Res :=
  .next (drive c { vg := g, v := .tred .sum vd tile axis ty rm } s)

/-- VTRED_MAX (R181). -/
def execVtredMax (c : CellRef) (g : BitVec 4) (vd : BitVec 5) (tile : BitVec 4) (axis : Bool) (ty : BitVec 2) (rm : BitVec 3) (s : State) : Res :=
  .next (drive c { vg := g, v := .tred .max vd tile axis ty rm } s)

/-- VTRED_MIN (R181). -/
def execVtredMin (c : CellRef) (g : BitVec 4) (vd : BitVec 5) (tile : BitVec 4) (axis : Bool) (ty : BitVec 2) (rm : BitVec 3) (s : State) : Res :=
  .next (drive c { vg := g, v := .tred .min vd tile axis ty rm } s)

/-- VTRED_ARGMAX (R181). -/
def execVtredArgmax (c : CellRef) (g : BitVec 4) (vd : BitVec 5) (tile : BitVec 4) (axis : Bool) (ty : BitVec 2) (rm : BitVec 3) (s : State) : Res :=
  .next (drive c { vg := g, v := .tred .argmax vd tile axis ty rm } s)

/-- VTRED_ARGMIN (R181). -/
def execVtredArgmin (c : CellRef) (g : BitVec 4) (vd : BitVec 5) (tile : BitVec 4) (axis : Bool) (ty : BitVec 2) (rm : BitVec 3) (s : State) : Res :=
  .next (drive c { vg := g, v := .tred .argmin vd tile axis ty rm } s)

/-- VRED_SUM (R181). -/
def execVredSum (c : CellRef) (g : BitVec 4) (rd va : BitVec 5) (ty : BitVec 2) (rm : BitVec 3) (s : State) : Res :=
  .next (drive c { vg := g, v := .red .sum rd va ty rm } s)

/-- VRED_MAX (R181). -/
def execVredMax (c : CellRef) (g : BitVec 4) (rd va : BitVec 5) (ty : BitVec 2) (rm : BitVec 3) (s : State) : Res :=
  .next (drive c { vg := g, v := .red .max rd va ty rm } s)

/-- VRED_MIN (R181). -/
def execVredMin (c : CellRef) (g : BitVec 4) (rd va : BitVec 5) (ty : BitVec 2) (rm : BitVec 3) (s : State) : Res :=
  .next (drive c { vg := g, v := .red .min rd va ty rm } s)

/-- VRED_ARGMAX (R181). -/
def execVredArgmax (c : CellRef) (g : BitVec 4) (rd va : BitVec 5) (ty : BitVec 2) (rm : BitVec 3) (s : State) : Res :=
  .next (drive c { vg := g, v := .red .argmax rd va ty rm } s)

/-- VRED_ARGMIN (R181). -/
def execVredArgmin (c : CellRef) (g : BitVec 4) (rd va : BitVec 5) (ty : BitVec 2) (rm : BitVec 3) (s : State) : Res :=
  .next (drive c { vg := g, v := .red .argmin rd va ty rm } s)

/-- VRANK (R182). -/
def execVrank (c : CellRef) (g : BitVec 4) (vd va vb : BitVec 5) (ty : BitVec 2) (s : State) : Res :=
  .next (drive c { vg := g, v := .rank vd va vb ty } s)

/-- VGETF (R183). -/
def execVgetf (c : CellRef) (g : BitVec 4) (vd : BitVec 5) (s : State) : Res :=
  .next (drive c { vg := g, v := .getf false vd } s)

/-- VGETF_CLR (R183). -/
def execVgetfClr (c : CellRef) (g : BitVec 4) (vd : BitVec 5) (s : State) : Res :=
  .next (drive c { vg := g, v := .getf true vd } s)

end Sys2Proof.Machine
end

