-- ==== Sys2Proof/Machine/XFamily.lean ====
section
/-! DEFINITION. The commands of the X-slot: each presents its instruction to a cell in a word of its own, under its guard, and
one island cycle passes (log entry 1). What the instruction does is in XUnit.lean and Issue.lean. -/

namespace Sys2Proof.Machine

open Sys2Proof

/-- X_NOP (R124): a word of no-ops. -/
def execXNop (c : CellRef) (s : State) : Res := .next (drive c {} s)

/-- XMOV (R123). -/
def execXmov (c : CellRef) (g : BitVec 4) (dst src : BitVec 8) (idx : BitVec 5) (inc : Bool) (s : State) : Res :=
  .next (drive c { xg := g, x := .mov dst src idx inc } s)

/-- XSEND (R124). -/
def execXsend (c : CellRef) (g : BitVec 4) (port : BitVec 2) (src : BitVec 8) (idx : BitVec 5) (inc : Bool) (s : State) : Res :=
  .next (drive c { xg := g, x := .send port src idx inc } s)

/-- XRECV (R127). -/
def execXrecv (c : CellRef) (g : BitVec 4) (dst : BitVec 8) (port : BitVec 2) (idx : BitVec 5) (inc : Bool) (s : State) : Res :=
  .next (drive c { xg := g, x := .recv dst port idx inc } s)

/-- XCTL (R124). -/
def execXctl (c : CellRef) (g : BitVec 4) (port : BitVec 2) (pa : BitVec 3) (unit : Bool) (s : State) : Res :=
  .next (drive c { xg := g, x := .ctl port pa unit } s)

/-- SDESC (R197). -/
def execSdesc (c : CellRef) (g : BitVec 4) (slot : BitVec 3) (ra : BitVec 5) (s : State) : Res :=
  .next (drive c { xg := g, x := .sdesc slot ra } s)

/-- SSTART (R195). -/
def execSstart (c : CellRef) (g : BitVec 4) (e : BitVec 2) (slot : BitVec 3) (s : State) : Res :=
  .next (drive c { xg := g, x := .sstart e slot } s)

/-- SSTOP (R197). -/
def execSstop (c : CellRef) (g : BitVec 4) (e : BitVec 2) (s : State) : Res :=
  .next (drive c { xg := g, x := .sstop e } s)

/-- SWAIT (R197). -/
def execSwait (c : CellRef) (g : BitVec 4) (e : BitVec 2) (s : State) : Res :=
  .next (drive c { xg := g, x := .swait e } s)

/-- LDFE (R313). -/
def execLdfe (c : CellRef) (g : BitVec 4) (rd ra rb : BitVec 5) (pd : BitVec 3) (s : State) : Res :=
  .next (drive c { xg := g, x := .sync .ldfe rd ra rb pd } s)

/-- LDFF (R313). -/
def execLdff (c : CellRef) (g : BitVec 4) (rd ra rb : BitVec 5) (pd : BitVec 3) (s : State) : Res :=
  .next (drive c { xg := g, x := .sync .ldff rd ra rb pd } s)

/-- LDXX (R313). -/
def execLdxx (c : CellRef) (g : BitVec 4) (rd ra rb : BitVec 5) (pd : BitVec 3) (s : State) : Res :=
  .next (drive c { xg := g, x := .sync .ldxx rd ra rb pd } s)

/-- LDXE (R313). -/
def execLdxe (c : CellRef) (g : BitVec 4) (rd ra rb : BitVec 5) (pd : BitVec 3) (s : State) : Res :=
  .next (drive c { xg := g, x := .sync .ldxe rd ra rb pd } s)

/-- STEF (R313). -/
def execStef (c : CellRef) (g : BitVec 4) (rs ra rb : BitVec 5) (pd : BitVec 3) (s : State) : Res :=
  .next (drive c { xg := g, x := .sync .stef rs ra rb pd } s)

/-- STXF (R313). -/
def execStxf (c : CellRef) (g : BitVec 4) (rs ra rb : BitVec 5) (pd : BitVec 3) (s : State) : Res :=
  .next (drive c { xg := g, x := .sync .stxf rs ra rb pd } s)

/-- STXE (R313). -/
def execStxe (c : CellRef) (g : BitVec 4) (rs ra rb : BitVec 5) (pd : BitVec 3) (s : State) : Res :=
  .next (drive c { xg := g, x := .sync .stxe rs ra rb pd } s)

/-- STFF (R313). -/
def execStff (c : CellRef) (g : BitVec 4) (rs ra rb : BitVec 5) (pd : BitVec 3) (s : State) : Res :=
  .next (drive c { xg := g, x := .sync .stff rs ra rb pd } s)

/-- RWAIT (R322). -/
def execRwait (c : CellRef) (g : BitVec 4) (ra rb : BitVec 5) (pd : BitVec 3) (s : State) : Res :=
  .next (drive c { xg := g, x := .sync .rwait 0 ra rb pd } s)

/-- RPASS (R322). -/
def execRpass (c : CellRef) (g : BitVec 4) (ra rb : BitVec 5) (pd : BitVec 3) (s : State) : Res :=
  .next (drive c { xg := g, x := .sync .rpass 0 ra rb pd } s)

/-- RSET (R322). -/
def execRset (c : CellRef) (g : BitVec 4) (ra rb : BitVec 5) (pd : BitVec 3) (s : State) : Res :=
  .next (drive c { xg := g, x := .sync .rset 0 ra rb pd } s)

/-- CHSEND (R328). -/
def execChsend (c : CellRef) (g : BitVec 4) (ra rs rl : BitVec 5) (s : State) : Res :=
  .next (drive c { xg := g, x := .chsend ra rs rl } s)

/-- SVCFG (R261). -/
def execSvcfg (c : CellRef) (g : BitVec 4) (ra : BitVec 5) (s : State) : Res :=
  .next (drive c { xg := g, x := .svcfg ra } s)

/-- SVCLR (R265). -/
def execSvclr (c : CellRef) (g : BitVec 4) (rl : BitVec 5) (s : State) : Res :=
  .next (drive c { xg := g, x := .svclr false rl } s)

/-- SVCLR_ALL (R265). -/
def execSvclrAll (c : CellRef) (g : BitVec 4) (s : State) : Res :=
  .next (drive c { xg := g, x := .svclr true 0 } s)

/-- SVFLUSH (R266). -/
def execSvflush (c : CellRef) (g : BitVec 4) (rl ra rf : BitVec 5) (f : Bool) (s : State) : Res :=
  .next (drive c { xg := g, x := .svflush rl ra rf f } s)

/-- PULL_POINT (R220): the cell presents a word at its program counter, with the pull points attached there. -/
def execPullPoint (c : CellRef) (s : State) : Res := .next (drive c {} s)

/-- STALL_RELEASE (R130): every running cell presents its next word, and one island cycle passes. -/
def execStallRelease (isl : Nat) (s : State) : Res := .next ((s.presentAll isl).cycle isl)

end Sys2Proof.Machine
end

