-- ==== Sys2Proof/Machine/Dispatch.lean ====
section
/-! DEFINITION. The effect of each command on everything but the queue: one arm per row of the table. -/

namespace Sys2Proof.Machine

open Sys2Proof

/-- The effect of a command. -/
def exec (i : Instr) (s : State) : Host.Outcome State Fault Refusal :=
  match i with
  | .nop c => Sys2Proof.Machine.execNop c s
  | .add c g rd ra rb => Sys2Proof.Machine.execAdd c g rd ra rb s
  | .sub c g rd ra rb => Sys2Proof.Machine.execSub c g rd ra rb s
  | .and c g rd ra rb => Sys2Proof.Machine.execAnd c g rd ra rb s
  | .or c g rd ra rb => Sys2Proof.Machine.execOr c g rd ra rb s
  | .xor c g rd ra rb => Sys2Proof.Machine.execXor c g rd ra rb s
  | .shl c g rd ra rb => Sys2Proof.Machine.execShl c g rd ra rb s
  | .shr c g rd ra rb => Sys2Proof.Machine.execShr c g rd ra rb s
  | .sra c g rd ra rb => Sys2Proof.Machine.execSra c g rd ra rb s
  | .minS c g rd ra rb => Sys2Proof.Machine.execMinS c g rd ra rb s
  | .maxS c g rd ra rb => Sys2Proof.Machine.execMaxS c g rd ra rb s
  | .minu c g rd ra rb => Sys2Proof.Machine.execMinu c g rd ra rb s
  | .maxu c g rd ra rb => Sys2Proof.Machine.execMaxu c g rd ra rb s
  | .mul c g rd ra rb => Sys2Proof.Machine.execMul c g rd ra rb s
  | .mulhu c g rd ra rb => Sys2Proof.Machine.execMulhu c g rd ra rb s
  | .mulh c g rd ra rb => Sys2Proof.Machine.execMulh c g rd ra rb s
  | .addi c g rd ra imm => Sys2Proof.Machine.execAddi c g rd ra imm s
  | .andi c g rd ra imm => Sys2Proof.Machine.execAndi c g rd ra imm s
  | .ori c g rd ra imm => Sys2Proof.Machine.execOri c g rd ra imm s
  | .xori c g rd ra imm => Sys2Proof.Machine.execXori c g rd ra imm s
  | .shli c g rd ra sh => Sys2Proof.Machine.execShli c g rd ra sh s
  | .shri c g rd ra sh => Sys2Proof.Machine.execShri c g rd ra sh s
  | .srai c g rd ra sh => Sys2Proof.Machine.execSrai c g rd ra sh s
  | .movi c g rd imm => Sys2Proof.Machine.execMovi c g rd imm s
  | .shori c g rd imm => Sys2Proof.Machine.execShori c g rd imm s
  | .cmpEq c g pd ra rb => Sys2Proof.Machine.execCmpEq c g pd ra rb s
  | .cmpNe c g pd ra rb => Sys2Proof.Machine.execCmpNe c g pd ra rb s
  | .cmpLt c g pd ra rb => Sys2Proof.Machine.execCmpLt c g pd ra rb s
  | .cmpGe c g pd ra rb => Sys2Proof.Machine.execCmpGe c g pd ra rb s
  | .cmpLtu c g pd ra rb => Sys2Proof.Machine.execCmpLtu c g pd ra rb s
  | .cmpGeu c g pd ra rb => Sys2Proof.Machine.execCmpGeu c g pd ra rb s
  | .cmpiEq c g pd ra imm => Sys2Proof.Machine.execCmpiEq c g pd ra imm s
  | .cmpiNe c g pd ra imm => Sys2Proof.Machine.execCmpiNe c g pd ra imm s
  | .cmpiLt c g pd ra imm => Sys2Proof.Machine.execCmpiLt c g pd ra imm s
  | .cmpiGe c g pd ra imm => Sys2Proof.Machine.execCmpiGe c g pd ra imm s
  | .cmpiLtu c g pd ra imm => Sys2Proof.Machine.execCmpiLtu c g pd ra imm s
  | .cmpiGeu c g pd ra imm => Sys2Proof.Machine.execCmpiGeu c g pd ra imm s
  | .plogAnd c g pd pa pb => Sys2Proof.Machine.execPlogAnd c g pd pa pb s
  | .plogOr c g pd pa pb => Sys2Proof.Machine.execPlogOr c g pd pa pb s
  | .plogXor c g pd pa pb => Sys2Proof.Machine.execPlogXor c g pd pa pb s
  | .plogAndn c g pd pa pb => Sys2Proof.Machine.execPlogAndn c g pd pa pb s
  | .ld8 c g rd ra imm => Sys2Proof.Machine.execLd8 c g rd ra imm s
  | .ld16 c g rd ra imm => Sys2Proof.Machine.execLd16 c g rd ra imm s
  | .ld32 c g rd ra imm => Sys2Proof.Machine.execLd32 c g rd ra imm s
  | .ld64 c g rd ra imm => Sys2Proof.Machine.execLd64 c g rd ra imm s
  | .st8 c g rs ra imm => Sys2Proof.Machine.execSt8 c g rs ra imm s
  | .st16 c g rs ra imm => Sys2Proof.Machine.execSt16 c g rs ra imm s
  | .st32 c g rs ra imm => Sys2Proof.Machine.execSt32 c g rs ra imm s
  | .st64 c g rs ra imm => Sys2Proof.Machine.execSt64 c g rs ra imm s
  | .mfsr c g rd sr => Sys2Proof.Machine.execMfsr c g rd sr s
  | .mtsr c g sr ra => Sys2Proof.Machine.execMtsr c g sr ra s
  | .br c g target => Sys2Proof.Machine.execBr c g target s
  | .brr c g ra => Sys2Proof.Machine.execBrr c g ra s
  | .call c g target => Sys2Proof.Machine.execCall c g target s
  | .ret c g => Sys2Proof.Machine.execRet c g s
  | .lsetup c g n len count => Sys2Proof.Machine.execLsetup c g n len count s
  | .lsetupr c g n len ra => Sys2Proof.Machine.execLsetupr c g n len ra s
  | .assertP c g p => Sys2Proof.Machine.execAssertP c g p s
  | .endProg c g => Sys2Proof.Machine.execEndProg c g s
  | .pcOverrun c => Sys2Proof.Machine.execPcOverrun c s
  | .xNop c => Sys2Proof.Machine.execXNop c s
  | .xmov c g dst src idx inc => Sys2Proof.Machine.execXmov c g dst src idx inc s
  | .xsend c g port src idx inc => Sys2Proof.Machine.execXsend c g port src idx inc s
  | .xrecv c g dst port idx inc => Sys2Proof.Machine.execXrecv c g dst port idx inc s
  | .xctl c g port pa unit => Sys2Proof.Machine.execXctl c g port pa unit s
  | .pullPoint c => Sys2Proof.Machine.execPullPoint c s
  | .stallRelease isl => Sys2Proof.Machine.execStallRelease isl s
  | .sdesc c g slot ra => Sys2Proof.Machine.execSdesc c g slot ra s
  | .sstart c g e slot => Sys2Proof.Machine.execSstart c g e slot s
  | .sstop c g e => Sys2Proof.Machine.execSstop c g e s
  | .swait c g e => Sys2Proof.Machine.execSwait c g e s
  | .ldfe c g rd ra rb pd => Sys2Proof.Machine.execLdfe c g rd ra rb pd s
  | .ldff c g rd ra rb pd => Sys2Proof.Machine.execLdff c g rd ra rb pd s
  | .ldxx c g rd ra rb pd => Sys2Proof.Machine.execLdxx c g rd ra rb pd s
  | .ldxe c g rd ra rb pd => Sys2Proof.Machine.execLdxe c g rd ra rb pd s
  | .stef c g rs ra rb pd => Sys2Proof.Machine.execStef c g rs ra rb pd s
  | .stxf c g rs ra rb pd => Sys2Proof.Machine.execStxf c g rs ra rb pd s
  | .stxe c g rs ra rb pd => Sys2Proof.Machine.execStxe c g rs ra rb pd s
  | .stff c g rs ra rb pd => Sys2Proof.Machine.execStff c g rs ra rb pd s
  | .rwait c g ra rb pd => Sys2Proof.Machine.execRwait c g ra rb pd s
  | .rpass c g ra rb pd => Sys2Proof.Machine.execRpass c g ra rb pd s
  | .rset c g ra rb pd => Sys2Proof.Machine.execRset c g ra rb pd s
  | .chsend c g ra rs rl => Sys2Proof.Machine.execChsend c g ra rs rl s
  | .svcfg c g ra => Sys2Proof.Machine.execSvcfg c g ra s
  | .svclr c g rl => Sys2Proof.Machine.execSvclr c g rl s
  | .svclrAll c g => Sys2Proof.Machine.execSvclrAll c g s
  | .svflush c g rl ra rf f => Sys2Proof.Machine.execSvflush c g rl ra rf f s
  | .mnop c => Sys2Proof.Machine.execMnop c s
  | .mcfg c g ra => Sys2Proof.Machine.execMcfg c g ra s
  | .mma c g d ta tb idx inc st => Sys2Proof.Machine.execMma c g d ta tb idx inc st s
  | .mclr c g d => Sys2Proof.Machine.execMclr c g d s
  | .mout c g d td fmt idx inc rm => Sys2Proof.Machine.execMout c g d td fmt idx inc rm s
  | .moutRaw c g d td idx inc => Sys2Proof.Machine.execMoutRaw c g d td idx inc s
  | .mmrg c g d ts idx inc => Sys2Proof.Machine.execMmrg c g d ts idx inc s
  | .vnop c => Sys2Proof.Machine.execVnop c s
  | .vadd c g vd va vb sb ty rm => Sys2Proof.Machine.execVadd c g vd va vb sb ty rm s
  | .vsub c g vd va vb sb ty rm => Sys2Proof.Machine.execVsub c g vd va vb sb ty rm s
  | .vmul c g vd va vb sb ty rm => Sys2Proof.Machine.execVmul c g vd va vb sb ty rm s
  | .vfma c g vd va vb sb ty rm => Sys2Proof.Machine.execVfma c g vd va vb sb ty rm s
  | .vdiv c g vd va vb sb ty rm => Sys2Proof.Machine.execVdiv c g vd va vb sb ty rm s
  | .vmin c g vd va vb sb ty => Sys2Proof.Machine.execVmin c g vd va vb sb ty s
  | .vmax c g vd va vb sb ty => Sys2Proof.Machine.execVmax c g vd va vb sb ty s
  | .vsqrt c g vd va ty rm => Sys2Proof.Machine.execVsqrt c g vd va ty rm s
  | .vrsqrt c g vd va ty rm => Sys2Proof.Machine.execVrsqrt c g vd va ty rm s
  | .vexp2 c g vd va ty rm => Sys2Proof.Machine.execVexp2 c g vd va ty rm s
  | .vabs c g vd va ty => Sys2Proof.Machine.execVabs c g vd va ty s
  | .vneg c g vd va ty => Sys2Proof.Machine.execVneg c g vd va ty s
  | .vceq c g vd va vb sb ty => Sys2Proof.Machine.execVceq c g vd va vb sb ty s
  | .vclt c g vd va vb sb ty => Sys2Proof.Machine.execVclt c g vd va vb sb ty s
  | .vcle c g vd va vb sb ty => Sys2Proof.Machine.execVcle c g vd va vb sb ty s
  | .vcun c g vd va vb sb ty => Sys2Proof.Machine.execVcun c g vd va vb sb ty s
  | .vsel c g vd va vb sb ty => Sys2Proof.Machine.execVsel c g vd va vb sb ty s
  | .vany c g pd va => Sys2Proof.Machine.execVany c g pd va s
  | .vall c g pd va => Sys2Proof.Machine.execVall c g pd va s
  | .vand c g vd va vb sb => Sys2Proof.Machine.execVand c g vd va vb sb s
  | .vor c g vd va vb sb => Sys2Proof.Machine.execVor c g vd va vb sb s
  | .vxor c g vd va vb sb => Sys2Proof.Machine.execVxor c g vd va vb sb s
  | .vshl c g vd va vb sb => Sys2Proof.Machine.execVshl c g vd va vb sb s
  | .vshr c g vd va vb sb => Sys2Proof.Machine.execVshr c g vd va vb sb s
  | .vsra c g vd va vb sb => Sys2Proof.Machine.execVsra c g vd va vb sb s
  | .vbcast c g vd ra ty => Sys2Proof.Machine.execVbcast c g vd ra ty s
  | .viota c g vd ra => Sys2Proof.Machine.execViota c g vd ra s
  | .vext c g rd va rb ty => Sys2Proof.Machine.execVext c g rd va rb ty s
  | .vrot c g vd va rb => Sys2Proof.Machine.execVrot c g vd va rb s
  | .vcfg c g ra => Sys2Proof.Machine.execVcfg c g ra s
  | .vcvt c g vd va ta td h rm => Sys2Proof.Machine.execVcvt c g vd va ta td h rm s
  | .vunpk c g vd sv idx tile h td => Sys2Proof.Machine.execVunpk c g vd sv idx tile h td s
  | .vpack c g va sv idx tile h ta => Sys2Proof.Machine.execVpack c g va sv idx tile h ta s
  | .vpot c g vd idx d ty rm inc => Sys2Proof.Machine.execVpot c g vd idx d ty rm inc s
  | .vpota c g vd va idx d ty rm inc => Sys2Proof.Machine.execVpota c g vd va idx d ty rm inc s
  | .vpotz c g vd idx d ty rm inc => Sys2Proof.Machine.execVpotz c g vd idx d ty rm inc s
  | .vpotza c g vd va idx d ty rm inc => Sys2Proof.Machine.execVpotza c g vd va idx d ty rm inc s
  | .vtredSum c g vd tile axis ty rm => Sys2Proof.Machine.execVtredSum c g vd tile axis ty rm s
  | .vtredMax c g vd tile axis ty rm => Sys2Proof.Machine.execVtredMax c g vd tile axis ty rm s
  | .vtredMin c g vd tile axis ty rm => Sys2Proof.Machine.execVtredMin c g vd tile axis ty rm s
  | .vtredArgmax c g vd tile axis ty rm => Sys2Proof.Machine.execVtredArgmax c g vd tile axis ty rm s
  | .vtredArgmin c g vd tile axis ty rm => Sys2Proof.Machine.execVtredArgmin c g vd tile axis ty rm s
  | .vredSum c g rd va ty rm => Sys2Proof.Machine.execVredSum c g rd va ty rm s
  | .vredMax c g rd va ty rm => Sys2Proof.Machine.execVredMax c g rd va ty rm s
  | .vredMin c g rd va ty rm => Sys2Proof.Machine.execVredMin c g rd va ty rm s
  | .vredArgmax c g rd va ty rm => Sys2Proof.Machine.execVredArgmax c g rd va ty rm s
  | .vredArgmin c g rd va ty rm => Sys2Proof.Machine.execVredArgmin c g rd va ty rm s
  | .vrank c g vd va vb ty => Sys2Proof.Machine.execVrank c g vd va vb ty s
  | .vgetf c g vd => Sys2Proof.Machine.execVgetf c g vd s
  | .vgetfClr c g vd => Sys2Proof.Machine.execVgetfClr c g vd s
  | .insideTokenArrive c port upset => Sys2Proof.Machine.execInsideTokenArrive c port upset s
  | .fifoTokenArrive c port upset => Sys2Proof.Machine.execFifoTokenArrive c port upset s
  | .fifoHeadDeliver c port => Sys2Proof.Machine.execFifoHeadDeliver c port s
  | .switchFire c port => Sys2Proof.Machine.execSwitchFire c port s
  | .mergeFire c port => Sys2Proof.Machine.execMergeFire c port s
  | .steerOutputDrive c port unit => Sys2Proof.Machine.execSteerOutputDrive c port unit s
  | .streamBeatRequest c e => Sys2Proof.Machine.execStreamBeatRequest c e s
  | .streamBeatWrite c e => Sys2Proof.Machine.execStreamBeatWrite c e s
  | .streamBeatLand c e => Sys2Proof.Machine.execStreamBeatLand c e s
  | .streamWriteDone c e => Sys2Proof.Machine.execStreamWriteDone c e s
  | .streamStopDone c e => Sys2Proof.Machine.execStreamStopDone c e s
  | .streamResume c e => Sys2Proof.Machine.execStreamResume c e s
  | .cellSresumeWrite c engines => Sys2Proof.Machine.execCellSresumeWrite c engines s
  | .damperWindow isl => Sys2Proof.Machine.execDamperWindow isl s
  | .sieveBeatLand c off data seat mesh => Sys2Proof.Machine.execSieveBeatLand c off data seat mesh s
  | .sieveFlushBeat c => Sys2Proof.Machine.execSieveFlushBeat c s
  | .sieveFlushFill c => Sys2Proof.Machine.execSieveFlushFill c s
  | .meshHop p => Sys2Proof.Machine.execMeshHop p s
  | .meshPacketEject k us => Sys2Proof.Machine.execMeshPacketEject k us s
  | .multicastWrite p => Sys2Proof.Machine.execMulticastWrite p s
  | .vaultRead isl upset => Sys2Proof.Machine.execVaultRead isl upset s
  | .vaultWrite isl upset => Sys2Proof.Machine.execVaultWrite isl upset s
  | .farDramAccess ch upset => Sys2Proof.Machine.execFarDramAccess ch upset s
  | .versionCopyDone die => Sys2Proof.Machine.execVersionCopyDone die s
  | .versionSweepDone t => Sys2Proof.Machine.execVersionSweepDone t s
  | .stepCopyPage t => Sys2Proof.Machine.execStepCopyPage t s
  | .stepCopyPageDone t => Sys2Proof.Machine.execStepCopyPageDone t s
  | .mmuInv die t all va => Sys2Proof.Machine.execMmuInv die t all va s
  | .mmuInvDone die => Sys2Proof.Machine.execMmuInvDone die s
  | .mmuPoolPush die frame => Sys2Proof.Machine.execMmuPoolPush die frame s
  | .rakeBlock die cls upset => Sys2Proof.Machine.execRakeBlock die cls upset s
  | .rakeCfgWrite die value => Sys2Proof.Machine.execRakeCfgWrite die value s
  | .rakeRateWrite die value => Sys2Proof.Machine.execRakeRateWrite die value s
  | .syncOperation id => Sys2Proof.Machine.execSyncOperation id s
  | .syncReply id => Sys2Proof.Machine.execSyncReply id s
  | .syncRetry id => Sys2Proof.Machine.execSyncRetry id s
  | .syncDeadline id => Sys2Proof.Machine.execSyncDeadline id s
  | .dealerSatisfy id => Sys2Proof.Machine.execDealerSatisfy id s
  | .dealerTimeout id => Sys2Proof.Machine.execDealerTimeout id s
  | .roundRelease home => Sys2Proof.Machine.execRoundRelease home s
  | .syncInv die t all id => Sys2Proof.Machine.execSyncInv die t all id s
  | .syncInvDone die => Sys2Proof.Machine.execSyncInvDone die s
  | .stewardFeld core id t variant timed => Sys2Proof.Machine.execStewardFeld core id t variant timed s
  | .stewardFest core id t variant timed => Sys2Proof.Machine.execStewardFest core id t variant timed s
  | .stewardRound core id t variant timed => Sys2Proof.Machine.execStewardRound core id t variant timed s
  | .stewardChannelSend core handle => Sys2Proof.Machine.execStewardChannelSend core handle s
  | .channelPlace die ch => Sys2Proof.Machine.execChannelPlace die ch s
  | .channelPublish die ch => Sys2Proof.Machine.execChannelPublish die ch s
  | .chnPosHeadWrite die ch head => Sys2Proof.Machine.execChnPosHeadWrite die ch head s
  | .channelOpen die ch base size_log2 reader skind sender => Sys2Proof.Machine.execChannelOpen die ch base size_log2 reader skind sender s
  | .channelOrphan die ch => Sys2Proof.Machine.execChannelOrphan die ch s
  | .mbxDataWrite die m writer value => Sys2Proof.Machine.execMbxDataWrite die m writer value s
  | .mbxTake die m => Sys2Proof.Machine.execMbxTake die m s
  | .mbxRing die bits => Sys2Proof.Machine.execMbxRing die bits s
  | .mbxBellClear die bits => Sys2Proof.Machine.execMbxBellClear die bits s
  | .jobAdmit h req choice => Sys2Proof.Machine.execJobAdmit h req choice s
  | .jobPlace job choice => Sys2Proof.Machine.execJobPlace job choice s
  | .grantEnd t => Sys2Proof.Machine.execGrantEnd t s
  | .cmdLimitExpiry t => Sys2Proof.Machine.execCmdLimitExpiry t s
  | .islWdogExpiry isl => Sys2Proof.Machine.execIslWdogExpiry isl s
  | .tblReqDeal t img => Sys2Proof.Machine.execTblReqDeal t img s
  | .dealCheck t => Sys2Proof.Machine.execDealCheck t s
  | .dealGo t => Sys2Proof.Machine.execDealGo t s
  | .dealLoadDone isl => Sys2Proof.Machine.execDealLoadDone isl s
  | .tblReqCommit t r => Sys2Proof.Machine.execTblReqCommit t r s
  | .commitLocalStep t => Sys2Proof.Machine.execCommitLocalStep t s
  | .tblReqKill r => Sys2Proof.Machine.execTblReqKill r s
  | .killRelease t => Sys2Proof.Machine.execKillRelease t s
  | .tblReqCancel t => Sys2Proof.Machine.execTblReqCancel t s
  | .tblReqScanOut t => Sys2Proof.Machine.execTblReqScanOut t s
  | .tblReqScanIn t => Sys2Proof.Machine.execTblReqScanIn t s
  | .tblReqResume t => Sys2Proof.Machine.execTblReqResume t s
  | .meldOpen die t => Sys2Proof.Machine.execMeldOpen die t s
  | .meldStage die value => Sys2Proof.Machine.execMeldStage die value s
  | .meldCheck die => Sys2Proof.Machine.execMeldCheck die s
  | .meldApply die => Sys2Proof.Machine.execMeldApply die s
  | .meldAbort die => Sys2Proof.Machine.execMeldAbort die s
  | .gulFrameReceive link fec frame => Sys2Proof.Machine.execGulFrameReceive link fec frame s
  | .gulAckTimeout link => Sys2Proof.Machine.execGulAckTimeout link s
  | .gulPacketRoute link => Sys2Proof.Machine.execGulPacketRoute link s
  | .gulRemoteAdmit k => Sys2Proof.Machine.execGulRemoteAdmit k s
  | .gulRemoteWrite k => Sys2Proof.Machine.execGulRemoteWrite k s
  | .gulRemoteRead k => Sys2Proof.Machine.execGulRemoteRead k s
  | .gulRetryResend k => Sys2Proof.Machine.execGulRetryResend k s
  | .gulQopRead core t ddev fill sid len => Sys2Proof.Machine.execGulQopRead core t ddev fill sid len s
  | .gulQopWrite core t ddev fill sid len => Sys2Proof.Machine.execGulQopWrite core t ddev fill sid len s
  | .gulQopCollective core t fill sid => Sys2Proof.Machine.execGulQopCollective core t fill sid s
  | .gulQopDone core => Sys2Proof.Machine.execGulQopDone core s
  | .collectiveUnitCombine t seq u => Sys2Proof.Machine.execCollectiveUnitCombine t seq u s
  | .commandStart r => Sys2Proof.Machine.execCommandStart r s
  | .prepareMsg m => Sys2Proof.Machine.execPrepareMsg m s
  | .readyMsg m child => Sys2Proof.Machine.execReadyMsg m child s
  | .commitMsg m => Sys2Proof.Machine.execCommitMsg m s
  | .abortMsg m => Sys2Proof.Machine.execAbortMsg m s
  | .killreq m => Sys2Proof.Machine.execKillreq m s
  | .doneMsg m child => Sys2Proof.Machine.execDoneMsg m child s
  | .decideTimeout t => Sys2Proof.Machine.execDecideTimeout t s
  | .kittyPut m src va parity data => Sys2Proof.Machine.execKittyPut m src va parity data s
  | .kittySeal m src count => Sys2Proof.Machine.execKittySeal m src count s
  | .kittyGet m src va len tag => Sys2Proof.Machine.execKittyGet m src va len tag s
  | .gulRselWrite die bank => Sys2Proof.Machine.execGulRselWrite die bank s
  | .routeHoldRelease die => Sys2Proof.Machine.execRouteHoldRelease die s
  | .timeExchange t1 t2 t3 t4 => Sys2Proof.Machine.execTimeExchange t1 t2 t3 t4 s
  | .gtimeStep => Sys2Proof.Machine.execGtimeStep s
  | .ethFrameReceive port bytes => Sys2Proof.Machine.execEthFrameReceive port bytes s
  | .pfcPause port prio stop => Sys2Proof.Machine.execPfcPause port prio stop s
  | .arpRequest port target sender mac => Sys2Proof.Machine.execArpRequest port target sender mac s
  | .neighbourSolicitation port target sender => Sys2Proof.Machine.execNeighbourSolicitation port target sender s
  | .icmpEcho port v6 dst src payload => Sys2Proof.Machine.execIcmpEcho port v6 dst src payload s
  | .reassemblyTimeout session seq => Sys2Proof.Machine.execReassemblyTimeout session seq s
  | .ack h => Sys2Proof.Machine.execAck h s
  | .deviceAckTimer session => Sys2Proof.Machine.execDeviceAckTimer session s
  | .messageResend session seq => Sys2Proof.Machine.execMessageResend session seq s
  | .sessionOpen h nonce mgmt keepalive linger rto => Sys2Proof.Machine.execSessionOpen h nonce mgmt keepalive linger rto s
  | .sessionClose h detach => Sys2Proof.Machine.execSessionClose h detach s
  | .keepalive h => Sys2Proof.Machine.execKeepalive h s
  | .sessionLost session => Sys2Proof.Machine.execSessionLost session s
  | .lingerExpiry job => Sys2Proof.Machine.execLingerExpiry job s
  | .netConfig h port kind index plen addr remove => Sys2Proof.Machine.execNetConfig h port kind index plen addr remove s
  | .mbxWrite h die value => Sys2Proof.Machine.execMbxWrite h die value s
  | .windowGrant h job va len rd wr wmode => Sys2Proof.Machine.execWindowGrant h job va len rd wr wmode s
  | .windowRevoke h window => Sys2Proof.Machine.execWindowRevoke h window s
  | .qpCreate h hqpn hpsn gid pmtu => Sys2Proof.Machine.execQpCreate h hqpn hpsn gid pmtu s
  | .qpDestroy h qpn => Sys2Proof.Machine.execQpDestroy h qpn s
  | .jobEnd h job => Sys2Proof.Machine.execJobEnd h job s
  | .jobAttach h job key => Sys2Proof.Machine.execJobAttach h job key s
  | .cmdSubmit h req => Sys2Proof.Machine.execCmdSubmit h req s
  | .cmdCancel h job tag => Sys2Proof.Machine.execCmdCancel h job tag s
  | .rdmaWrite port qpn rkey va data ce => Sys2Proof.Machine.execRdmaWrite port qpn rkey va data ce s
  | .rdmaRead port qpn rkey va len ce => Sys2Proof.Machine.execRdmaRead port qpn rkey va len ce s
  | .cnpReceive port qpn => Sys2Proof.Machine.execCnpReceive port qpn s
  | .roceRateRise port qpn => Sys2Proof.Machine.execRoceRateRise port qpn s
  | .kindlingEntry => Sys2Proof.Machine.execKindlingEntry s
  | .announce port => Sys2Proof.Machine.execAnnounce port s
  | .loadOffer h nonce length deadline => Sys2Proof.Machine.execLoadOffer h nonce length deadline s
  | .loadData h offset data => Sys2Proof.Machine.execLoadData h offset data s
  | .loadEnd h => Sys2Proof.Machine.execLoadEnd h s
  | .loadChecksDone => Sys2Proof.Machine.execLoadChecksDone s
  | .loadDeadline => Sys2Proof.Machine.execLoadDeadline s
  | .identity h => Sys2Proof.Machine.execIdentity h s
  | .attest h nonce => Sys2Proof.Machine.execAttest h nonce s
  | .keystorePut h slot erase iv wrapped tag => Sys2Proof.Machine.execKeystorePut h slot erase iv wrapped tag s
  | .powerOn => Sys2Proof.Machine.execPowerOn s
  | .brownOut => Sys2Proof.Machine.execBrownOut s
  | .pinReset => Sys2Proof.Machine.execPinReset s
  | .watchdog core => Sys2Proof.Machine.execWatchdog core s
  | .rstReq kind die index => Sys2Proof.Machine.execRstReq kind die index s
  | .debugRequest kind die index => Sys2Proof.Machine.execDebugRequest kind die index s
  | .clockFailure => Sys2Proof.Machine.execClockFailure s
  | .lockUp core => Sys2Proof.Machine.execLockUp core s
  | .sourceRelease src => Sys2Proof.Machine.execSourceRelease src s
  | .resetNSample low => Sys2Proof.Machine.execResetNSample low s
  | .episodeRelease => Sys2Proof.Machine.execEpisodeRelease s
  | .clkFailover => Sys2Proof.Machine.execClkFailover s
  | .supplyDroop isl extra => Sys2Proof.Machine.execSupplyDroop isl extra s
  | .cappingStep fast slow => Sys2Proof.Machine.execCappingStep fast slow s
  | .cappingCalibration r => Sys2Proof.Machine.execCappingCalibration r s
  | .cappingEvent => Sys2Proof.Machine.execCappingEvent s
  | .pwrCapWrite value => Sys2Proof.Machine.execPwrCapWrite value s
  | .temperatureThreshold die tj tdram => Sys2Proof.Machine.execTemperatureThreshold die tj tdram s
  | .thermalTrip die => Sys2Proof.Machine.execThermalTrip die s
  | .throttleRequest low => Sys2Proof.Machine.execThrottleRequest low s
  | .pinTraceWrite word => Sys2Proof.Machine.execPinTraceWrite word s
  | .smbusRead addr pecOk => Sys2Proof.Machine.execSmbusRead addr pecOk s
  | .smbusAlertResponse => Sys2Proof.Machine.execSmbusAlertResponse s
  | .jtagInstruction inst => Sys2Proof.Machine.execJtagInstruction inst s
  | .ueEvent die src => Sys2Proof.Machine.execUeEvent die src s
  | .stopNotice n => Sys2Proof.Machine.execStopNotice n s
  | .jobRestart r => Sys2Proof.Machine.execJobRestart r s
  | .frameRetire die frame => Sys2Proof.Machine.execFrameRetire die frame s
  | .registerParityError c => Sys2Proof.Machine.execRegisterParityError c s
  | .stwWdogExpiry core => Sys2Proof.Machine.execStwWdogExpiry core s
  | .stwPet core => Sys2Proof.Machine.execStwPet core s
  | .registerWrite addr value => Sys2Proof.Machine.execRegisterWrite addr value s
  | .episodeMinimumEnd => Sys2Proof.Machine.execEpisodeMinimumEnd s
  | .coreDrainTimeout core drained => Sys2Proof.Machine.execCoreDrainTimeout core drained s
  | .gulrasLinkTrained link peer plink => Sys2Proof.Machine.execGulrasLinkTrained link peer plink s
  | .ethernetPortTrained port rate => Sys2Proof.Machine.execEthernetPortTrained port rate s
  | .lpddr6TrainingDone n density ranks rate failed0 failed1 => Sys2Proof.Machine.execLpddr6TrainingDone n density ranks rate failed0 failed1 s
  | .referenceClockPresence ref present => Sys2Proof.Machine.execReferenceClockPresence ref present s
  | .vbatLoss => Sys2Proof.Machine.execVbatLoss s
  | .islandClockSlew isl => Sys2Proof.Machine.execIslandClockSlew isl s
  | .traceWordSent => Sys2Proof.Machine.execTraceWordSent s
  | .stateScanDone t => Sys2Proof.Machine.execStateScanDone t s

end Sys2Proof.Machine
end

