-- ==== Sys2Proof/Safety.lean ====
section
/-! DEFINITION. Safety: the canonical form of the machine's maps, and the terms in which statements speak about a cell
that issues alone. -/

namespace Sys2Proof.Machine

open Sys2Proof

/-- The canonical form: memory, control space, cells and islands list their keys strictly rising and list nothing that
an unlisted key reads as. -/
def State.Canon (s : State) : Prop :=
  Memory.wf s.mem = true ∧ SMap.wf resetValue s.regs = true ∧ SMap.wf Cell.dflt s.cells = true ∧ SMap.wf Isl.dflt s.isls = true

/-- The far DRAM in use is one that R280 and R306 allow: at most 16 channels on a die, of at most 32 GiB each. -/
def State.FarOk (s : State) : Prop := s.farN ≤ 16 ∧ s.fld (R.memFar 0) 6 5 ≤ 2

/-- Table numbers of jobs and islands fit in eight bits (R369), and the maps of tables and of links list their keys
strictly rising and nothing that an unlisted key reads as. -/
def State.TablesOk (s : State) : Prop :=
  (∀ j ∈ s.jobs, j.table < 256) ∧ (∀ i, (s.isl i).table < 256) ∧ SMap.wf Tbl.dflt s.tbls = true ∧ SMap.wf GLink.dflt s.glinks = true

/-- A cell that takes no part in a schedule cycle: it runs no program, and nothing of it is under way. -/
def Cell.atRest (c : Cell) : Prop :=
  c.run ≠ .running ∧ c.bubble = false ∧ c.pend = [] ∧ c.wires = []

/-- Nothing of island i acts in a schedule cycle but its words: no beat is held by the damper or waits for a sieve, no
steering unit holds a token, and no head of a FIFO goes to one. -/
def State.calm (s : State) (i : Nat) : Prop :=
  (s.isl i).dheld = [] ∧ ∀ c, c < s.cellCount i → (s.cell ⟨i, c⟩).steer = [] ∧ (s.cell ⟨i, c⟩).sieve.intake = [] ∧
    ∀ p, p < 4 → s.headSteers ⟨i, c⟩ p = false

/-- Cell k runs alone in its island, which is calm and has not faulted (and whose table number is below 256); no bubble, no
write and no token is on its way to k. -/
def Alone (s : State) (k : CellRef) : Prop :=
  s.Canon ∧ k.isl < 192 ∧ k.c < s.cellCount k.isl ∧ s.islFaulted k.isl = false ∧ (s.isl k.isl).table < 256 ∧
  (s.cell k).run = .running ∧ (s.cell k).held = none ∧ (s.cell k).bubble = false ∧ (s.cell k).pend = [] ∧
  (s.cell k).wires = [] ∧ s.calm k.isl ∧ ∀ c, c < s.cellCount k.isl → c ≠ k.c → (s.cell ⟨k.isl, c⟩).atRest

/-- Cell k runs alone and stands at a plain word of its program: in instruction memory, with no pull point on it, and
with no loop that ends there. -/
def Quiet (s : State) (k : CellRef) : Prop :=
  Alone s k ∧ (s.cell k).pc < imemWords k ∧ s.pullsAt k (s.cell k).pc = [] ∧ ∀ l ∈ (s.cell k).loops, l.last ≠ (s.cell k).pc

/-- The cell after a word that continues in sequence: the program counter has moved on. -/
def Cell.stepped (c : Cell) : Cell := { c with pc := c.pc + 1, last := c.pc }

/-- A write of the present word that lands in schedule cycle `due` and not before (R110). -/
def Cell.inFlight (c : Cell) (due : Nat) (w : PW) : Cell := { c with pend := c.pend ++ [⟨due, w⟩] }

/-- Several writes of the present word, each with its latency. -/
def Cell.inFlights (c : Cell) (sched : Nat) (ws : List (Nat × PW)) : Cell :=
  { c with pend := c.pend ++ ws.map (fun w => ⟨sched + w.1, w.2⟩) }

/-- The post-increment of an index register (R123, R147): none for S0. -/
def Cell.bumped (c : Cell) (idx : BitVec 5) (inc : Bool) (n : Word) : Cell :=
  if inc = true ∧ idx ≠ 0 then c.ws idx.toNat (c.rs idx + n) else c

/-- ISL_SEQ of a running island that is not stalled (R130): of its reasons bit 6 alone shows, when its clock is stretched
(R132, R139). -/
def seqRunning (stretched : Bool) (w : Word) : Word := putField 2 0 1 (putField 6 3 (b2n stretched * 8) w)

/-- A state with the cells, islands and registers of another. -/
def State.outside (t u : State) : State := { t with cells := u.cells, isls := u.isls, regs := u.regs }

/-- One island cycle has passed in which cell k became c' and its island stayed running: the schedule cycle and
ISL_CYCLE have counted it, a word issued at the present instant, every other cell, island and register is as before;
everything else is as in u. -/
def Cycled (s u t : State) (k : CellRef) (c' : Cell) : Prop :=
  t.cell k = c' ∧ (∀ j, gid j ≠ gid k → t.cell j = s.cell j) ∧
  t.isl k.isl = (s.isl k.isl).next s.gtime ∧
  (∀ i, i ≠ k.isl → t.isl i = s.isl i) ∧
  (∀ a, t.reg a = if a = R.islCycle k.isl then s.reg a + 1 else if a = R.islSeq k.isl then seqRunning (s.stretched k.isl) (s.reg a) else s.reg a) ∧
  t.outside u = u

/-- A command issues its word on cell k in one island cycle, and all it does is to make the cell c'. -/
def Issues (s : State) (k : CellRef) (r : Res) (c' : Cell) : Prop := ∃ t, r = .next t ∧ Cycled s s t k c'

/-- The same with a side effect: apart from cells, islands and registers the machine becomes u. -/
def IssuesWith (s u : State) (k : CellRef) (r : Res) (c' : Cell) : Prop := ∃ t, r = .next t ∧ Cycled s u t k c'

/-- CELL_FAULT as a fault writes it (R141): code, slot, word, valid, and the low half of ISL_CYCLE. -/
def faultWord (code : Code) (slot word : Nat) (cyc : Word) : Word :=
  BitVec.ofNat 64 (code.toNat + slot * 2 ^ 16 + word * 2 ^ 18 + 2 ^ 31 + cyc.toNat % 2 ^ 32 * 2 ^ 32)

/-- The word of cell k raises a fault (R136): the cell stops with nothing of the word done, CELL_FAULT, ISL_SEQ and the
dealer's event record it, and memory, the other cells and the links are as before. -/
def Faults (s : State) (k : CellRef) (r : Res) (code : Code) (slot word : Nat) : Prop :=
  ∃ t, r = .next t ∧ t.cell k = { s.cell k with run := .faulted, held := none, sync := .none } ∧
    (∀ j, gid j ≠ gid k → t.cell j = s.cell j) ∧
    t.reg (R.cellFault k) = faultWord code slot word (s.reg (R.islCycle k.isl)) ∧
    t.fld (R.islSeq k.isl) 2 0 = 3 ∧ t.fld (R.islSeq k.isl) 10 7 = k.c ∧ t.fld (R.islSeq k.isl) 11 11 = 1 ∧
    t.reg (R.islCycle k.isl) = s.reg (R.islCycle k.isl) + 1 ∧
    t.events = s.events ++ [(s.homeDie (s.isl k.isl).table k.isl, .fault k.isl code)] ∧
    t.mem = s.mem ∧ t.fifos = s.fifos ∧ t.flight = s.flight ∧ t.mesh = s.mesh ∧ t.pending = s.pending

/-- A state with the registers and islands of another. -/
def State.withRegs (t u : State) : State := { t with regs := u.regs, isls := u.isls }

/-- One stall cycle of class b (3 FIFO, 4 stream, 5 sync) of an island has passed since p (R130, R131, R139, R140): ISL_SEQ
shows the stall, its class and a stretch of the clock, ISL_CYCLE and the class's counter count it, and nothing else has
changed. -/
def Stalled (p t : State) (i b : Nat) : Prop :=
  (∀ j, t.isl j = if j = i then (p.isl i).ticked else p.isl j) ∧
  (∀ a, t.reg a = if a = R.islSeq i then putField 6 3 (2 ^ (b - 3) + b2n (p.stretched i) * 8) (putField 2 0 2 (p.reg a))
      else if a = R.islCycle i then p.reg a + 1
      else if a = (if b = 3 then R.stallFifo i else if b = 4 then R.stallStream i else R.stallSync i) then
        putField 47 0 (field 47 0 (p.reg a) + 1) (p.reg a)
      else p.reg a) ∧
  t.withRegs p = p

/-- A write to local SRAM that meets neither the window nor the area of a configured sieve (R262, R263). -/
def State.sieveTakes (s : State) (k : CellRef) (off n : Nat) : Bool := s.inWin k off n || s.inArea k off n

/-! ### Places of the X slot (R123) -/

/-- A place code of a tile or a vector register. -/
def unitPlace (p : BitVec 8) : Prop := p.toNat < 0x30

/-- The beat of a tile (64 to each) or of a vector register (8 to each) that an index names. -/
def Cell.unitBeat (c : Cell) (p : BitVec 8) (b : Nat) : List Byte :=
  if p.toNat < 0x10 then c.tile.readN (2048 * p.toNat + 32 * (b % 64)) 32
  else c.vreg.readN (256 * (p.toNat - 0x10) + 32 * (b % 8)) 32

/-- The write that puts a beat there. -/
def unitWrite (p : BitVec 8) (b : Nat) (bs : List Byte) : PW :=
  if p.toNat < 0x10 then .tile (2048 * p.toNat + 32 * (b % 64)) bs else .vreg (256 * (p.toNat - 0x10) + 32 * (b % 8)) bs

/-- Tokens on their way to a FIFO with one more behind them. -/
def State.sent (s : State) (k : CellRef) (p : Nat) (t : Token) : State := s.setFlight k p (s.inFlight k p ++ [t])

/-- A cell that has put a word on its sync port: it holds the word and waits for the answer of a request. -/
def Cell.asking (c : Cell) (w : HWord) (id : Nat) : Cell := { c with held := some w, sync := .waiting id }

end Sys2Proof.Machine
end

