-- ==== Sys2Proof/Certificates/Slice0/Obligations.lean ====
section
/-! DEFINITION. The statements for the provers. A docstring begins with the rules of spec/ that the statement rests on. -/

open Sys2Proof Sys2Proof.Machine

/-! ### The queue -/

/-- A step takes the command at the front of the queue and runs it on the machine with the queue's rest. -/
def Obligations.StepRunsFront : Prop :=
  ∀ (c : Instr) (rest : List Instr) (s : State), s.pending = c :: rest → step s = exec c { s with pending := rest }

/-! ### The S slot -/

/-- R114, R115, R113: at a cell that runs alone, a word with one of ADD, SUB, AND, OR, XOR, SHL, SHR, SRA, MIN, MAX,
MINU and MAXU issues in one island cycle: rd holds the result for the next word (a write of S0 is discarded), the
program counter moves on, and nothing else of the machine changes but the island's counts. So do ADDI, ANDI, ORI,
XORI, SHLI, SHRI, SRAI, MOVI and SHORI, the immediates of 12 and 17 bits sign-extended. -/
def Obligations.ScalarResults : Prop :=
  (∀ (s : State) (k : CellRef) (g : BitVec 4) (rd ra rb : BitVec 5), Quiet s k → (s.cell k).guard g = true →
     let c := s.cell k
     let a := c.rs ra
     let b := c.rs rb
     let rdIs := fun (v : Word) => c.stepped.ws rd.toNat v
     Issues s k (exec (.add k g rd ra rb) s) (rdIs (a + b)) ∧
     Issues s k (exec (.sub k g rd ra rb) s) (rdIs (a - b)) ∧
     Issues s k (exec (.and k g rd ra rb) s) (rdIs (a &&& b)) ∧
     Issues s k (exec (.or k g rd ra rb) s) (rdIs (a ||| b)) ∧
     Issues s k (exec (.xor k g rd ra rb) s) (rdIs (a ^^^ b)) ∧
     Issues s k (exec (.shl k g rd ra rb) s) (rdIs (a <<< (b.toNat % 64))) ∧
     Issues s k (exec (.shr k g rd ra rb) s) (rdIs (a >>> (b.toNat % 64))) ∧
     Issues s k (exec (.sra k g rd ra rb) s) (rdIs (a.sshiftRight (b.toNat % 64))) ∧
     Issues s k (exec (.minS k g rd ra rb) s) (rdIs (if a.toInt < b.toInt then a else b)) ∧
     Issues s k (exec (.maxS k g rd ra rb) s) (rdIs (if a.toInt < b.toInt then b else a)) ∧
     Issues s k (exec (.minu k g rd ra rb) s) (rdIs (if a.toNat < b.toNat then a else b)) ∧
     Issues s k (exec (.maxu k g rd ra rb) s) (rdIs (if a.toNat < b.toNat then b else a))) ∧
  (∀ (s : State) (k : CellRef) (g : BitVec 4) (rd ra : BitVec 5), Quiet s k → (s.cell k).guard g = true →
     let c := s.cell k
     let a := c.rs ra
     let rdIs := fun (v : Word) => c.stepped.ws rd.toNat v
     (∀ imm : BitVec 12,
       Issues s k (exec (.addi k g rd ra imm) s) (rdIs (a + imm.signExtend 64)) ∧
       Issues s k (exec (.andi k g rd ra imm) s) (rdIs (a &&& imm.signExtend 64)) ∧
       Issues s k (exec (.ori k g rd ra imm) s) (rdIs (a ||| imm.signExtend 64)) ∧
       Issues s k (exec (.xori k g rd ra imm) s) (rdIs (a ^^^ imm.signExtend 64))) ∧
     (∀ sh : BitVec 6,
       Issues s k (exec (.shli k g rd ra sh) s) (rdIs (a <<< sh.toNat)) ∧
       Issues s k (exec (.shri k g rd ra sh) s) (rdIs (a >>> sh.toNat)) ∧
       Issues s k (exec (.srai k g rd ra sh) s) (rdIs (a.sshiftRight sh.toNat))) ∧
     (∀ imm : BitVec 17, Issues s k (exec (.movi k g rd imm) s) (rdIs (imm.signExtend 64))) ∧
     (∀ imm : BitVec 16, Issues s k (exec (.shori k g rd imm) s) (rdIs ((c.rs rd <<< (16 : Nat)) ||| imm.setWidth 64))))

/-- R110, R112, R115, R116: MUL, MULHU, MULH and the loads have latency 3: their write is in flight and lands in the
third schedule cycle. A load of an aligned address within local SRAM, of blocks that hold no upset and outside the
list area of a sieve, takes its bytes zero-extended. -/
def Obligations.ScalarLatencyThree : Prop :=
  ∀ (s : State) (k : CellRef) (g : BitVec 4) (rd ra rb : BitVec 5) (imm : BitVec 12), Quiet s k → (s.cell k).guard g = true →
    let c := s.cell k
    let a := c.rs ra
    let b := c.rs rb
    let rdIs := fun (v : Word) => c.stepped.inFlight ((s.isl k.isl).sched + 3) (.s rd.toNat v)
    let at_ := fun (n : Nat) => (a + imm.signExtend 64 * BitVec.ofNat 64 n).toNat
    let ok := fun (n : Nat) => at_ n % n = 0 ∧ at_ n + n ≤ sramSize k ∧ s.plainRead k (at_ n) n = true
    let bytes := fun (n : Nat) => BitVec.ofNat 64 (leNat (s.rdN (sramBase k + at_ n) n))
    Issues s k (exec (.mul k g rd ra rb) s) (rdIs (a * b)) ∧
    Issues s k (exec (.mulhu k g rd ra rb) s) (rdIs (BitVec.ofNat 64 (a.toNat * b.toNat / 2 ^ 64))) ∧
    Issues s k (exec (.mulh k g rd ra rb) s) (rdIs (BitVec.ofInt 64 (a.toInt * b.toInt / 2 ^ 64))) ∧
    (ok 1 → Issues s k (exec (.ld8 k g rd ra imm) s) (rdIs (bytes 1))) ∧
    (ok 2 → Issues s k (exec (.ld16 k g rd ra imm) s) (rdIs (bytes 2))) ∧
    (ok 4 → Issues s k (exec (.ld32 k g rd ra imm) s) (rdIs (bytes 4))) ∧
    (ok 8 → Issues s k (exec (.ld64 k g rd ra imm) s) (rdIs (bytes 8)))

/-- R114, R116, R136: a store with an aligned address within local SRAM, in blocks that hold no upset and outside
window and list area of a sieve, writes the low bytes of its register there, lowest first, and no other byte of
memory; the cell only moves on. A load or store of 2, 4 or 8 bytes whose address is not a multiple of its size raises
E_ALIGN in slot 0; an aligned access of any size that does not lie within local SRAM raises E_SRAM_RANGE; neither
writes memory or changes another cell. -/
def Obligations.LocalSramAccess : Prop :=
  (∀ (s : State) (k : CellRef) (g : BitVec 4) (rs ra : BitVec 5) (imm : BitVec 12), Quiet s k → (s.cell k).guard g = true →
     let c := s.cell k
     let at_ := fun (n : Nat) => (c.rs ra + imm.signExtend 64 * BitVec.ofNat 64 n).toNat
     let ok := fun (n : Nat) => at_ n % n = 0 ∧ at_ n + n ≤ sramSize k ∧ s.sieveTakes k (at_ n) n = false ∧
       s.plain (sramBase k + at_ n) n = true
     let stores := fun (n : Nat) (r : Res) =>
       IssuesWith s (s.wrN (sramBase k + at_ n) (leBytes n (c.rs rs).toNat)) k r c.stepped ∧
       ∀ t, r = .next t → (∀ i, i < n → t.rd (sramBase k + at_ n + i) = (c.rs rs).extractLsb' (8 * i) 8) ∧
         ∀ b, (b < sramBase k + at_ n ∨ sramBase k + at_ n + n ≤ b) → t.rd b = s.rd b
     (ok 1 → stores 1 (exec (.st8 k g rs ra imm) s)) ∧ (ok 2 → stores 2 (exec (.st16 k g rs ra imm) s)) ∧
     (ok 4 → stores 4 (exec (.st32 k g rs ra imm) s)) ∧ (ok 8 → stores 8 (exec (.st64 k g rs ra imm) s))) ∧
  (∀ (s : State) (k : CellRef) (g : BitVec 4) (r ra : BitVec 5) (imm : BitVec 12), Quiet s k → (s.cell k).guard g = true →
     let c := s.cell k
     let at_ := fun (n : Nat) => (c.rs ra + imm.signExtend 64 * BitVec.ofNat 64 n).toNat
     let both := fun (n : Nat) (x : Res) =>
       (at_ n % n ≠ 0 → Faults s k x K.eAlign 0 c.pc) ∧
       (at_ n % n = 0 → sramSize k < at_ n + n → Faults s k x K.eSramRange 0 c.pc)
     both 1 (exec (.ld8 k g r ra imm) s) ∧ both 2 (exec (.ld16 k g r ra imm) s) ∧
     both 4 (exec (.ld32 k g r ra imm) s) ∧ both 8 (exec (.ld64 k g r ra imm) s) ∧
     both 1 (exec (.st8 k g r ra imm) s) ∧ both 2 (exec (.st16 k g r ra imm) s) ∧
     both 4 (exec (.st32 k g r ra imm) s) ∧ both 8 (exec (.st64 k g r ra imm) s))

/-- R114, R115, R104: the six conditions of CMP and CMPI and the four operations of PLOG write P[pd] for the next
word (a write of P0 is discarded), and the word changes nothing else of the machine but the program counter and the
island's counts. MFSR of the special registers 0 to 9 gives their values, and a number above 9 raises
E_FIELD_RESERVED; MTSR of 2 clears the bits of SR_FLAG that its register holds, of 3, 4 and 5 writes a loop counter,
of 6 SR_SEAT, and of any other number raises E_FIELD_RESERVED. -/
def Obligations.PredicatesAndSpecialRegisters : Prop :=
  (∀ (s : State) (k : CellRef) (g : BitVec 4) (pd pa pb : BitVec 3) (ra rb : BitVec 5) (imm : BitVec 12),
     Quiet s k → (s.cell k).guard g = true →
     let c := s.cell k
     let a := c.rs ra
     let pdIs := fun (v : Bool) => c.stepped.wp pd.toNat v
     let all := fun (b : Word) (eq ne lt ge ltu geu : Instr) =>
       Issues s k (exec eq s) (pdIs (decide (a = b))) ∧ Issues s k (exec ne s) (pdIs (decide (a ≠ b))) ∧
       Issues s k (exec lt s) (pdIs (decide (a.toInt < b.toInt))) ∧ Issues s k (exec ge s) (pdIs (decide (b.toInt ≤ a.toInt))) ∧
       Issues s k (exec ltu s) (pdIs (decide (a.toNat < b.toNat))) ∧ Issues s k (exec geu s) (pdIs (decide (b.toNat ≤ a.toNat)))
     all (c.rs rb) (.cmpEq k g pd ra rb) (.cmpNe k g pd ra rb) (.cmpLt k g pd ra rb) (.cmpGe k g pd ra rb)
       (.cmpLtu k g pd ra rb) (.cmpGeu k g pd ra rb) ∧
     all (imm.signExtend 64) (.cmpiEq k g pd ra imm) (.cmpiNe k g pd ra imm) (.cmpiLt k g pd ra imm) (.cmpiGe k g pd ra imm)
       (.cmpiLtu k g pd ra imm) (.cmpiGeu k g pd ra imm) ∧
     Issues s k (exec (.plogAnd k g pd pa pb) s) (pdIs (c.rp pa && c.rp pb)) ∧
     Issues s k (exec (.plogOr k g pd pa pb) s) (pdIs (c.rp pa || c.rp pb)) ∧
     Issues s k (exec (.plogXor k g pd pa pb) s) (pdIs (c.rp pa != c.rp pb)) ∧
     Issues s k (exec (.plogAndn k g pd pa pb) s) (pdIs (c.rp pa && !c.rp pb))) ∧
  (∀ (s : State) (k : CellRef) (g : BitVec 4) (rd ra sr : BitVec 5), Quiet s k →
     let c := s.cell k
     let a := c.rs ra
     let reads := fun (n : BitVec 5) (v : Word) =>
       (s.cell k).guard g = true → Issues s k (exec (.mfsr k g rd n) s) (c.stepped.ws rd.toNat v)
     let writes := fun (n : BitVec 5) (c' : Cell) => (s.cell k).guard g = true → Issues s k (exec (.mtsr k g n ra) s) c'
     reads 0 (s.reg (R.islTpos k.isl)) ∧
     reads 1 (BitVec.ofNat 64 (k.c % 4 + 4 * (k.c / 4) + (if isMemCell k then 16 else 0))) ∧
     reads 2 (c.flags.setWidth 64) ∧ reads 3 (c.lc0.setWidth 64) ∧ reads 4 (c.lc1.setWidth 64) ∧ reads 5 (c.lc2.setWidth 64) ∧
     reads 6 (c.seat.setWidth 64) ∧ reads 7 ((s.isl k.isl).epoch.setWidth 64) ∧ reads 8 (s.reg (R.islCycle k.isl)) ∧
     reads 9 s.gtime ∧
     writes 2 { c.stepped with flags := c.flags &&& ~~~(a.setWidth 5) } ∧ writes 3 { c.stepped with lc0 := a.setWidth 32 } ∧
     writes 4 { c.stepped with lc1 := a.setWidth 32 } ∧ writes 5 { c.stepped with lc2 := a.setWidth 32 } ∧
     writes 6 { c.stepped with seat := a.setWidth 6 } ∧
     (9 < sr.toNat → Faults s k (exec (.mfsr k g rd sr) s) K.eFieldReserved 0 c.pc) ∧
     (sr.toNat < 2 ∨ 6 < sr.toNat → Faults s k (exec (.mtsr k g sr ra) s) K.eFieldReserved 0 c.pc))

/-- R117, R118, R121, R136: a taken branch goes on at its target after one bubble; BR and BRR end the loops whose
body the target leaves; CALL pushes the next word's address on the return stack and RET pops it. A target of BR, BRR
or CALL beyond instruction memory raises E_IMEM_RANGE, CALL with 8 entries on the stack and RET with none E_STACK (a
CALL that is both raises E_STACK, the model's choice, log entry 117). A word of no-ops at the last address issues and
leaves the program counter past the end; there the cell raises E_IMEM_RANGE with slot 3 and the word that issued
last. -/
def Obligations.BranchesAndOverrun : Prop :=
  (∀ (s : State) (k : CellRef) (g : BitVec 4) (target : BitVec 12) (ra : BitVec 5), Quiet s k → (s.cell k).guard g = true →
     let c := s.cell k
     let to_ := fun (t : Nat) => { c.stepped with pc := t, bubble := true }
     let inBody := fun (t : Nat) => c.loops.filter (fun l => decide (l.first ≤ t) && decide (t ≤ l.last))
     let faults := fun (i : Instr) (e : Code) => Faults s k (exec i s) e 0 c.pc
     (target.toNat < imemWords k → Issues s k (exec (.br k g target) s) { to_ target.toNat with loops := inBody target.toNat }) ∧
     (imemWords k ≤ target.toNat → faults (.br k g target) K.eImemRange) ∧
     ((c.rs ra).toNat < imemWords k → Issues s k (exec (.brr k g ra) s) { to_ (c.rs ra).toNat with loops := inBody (c.rs ra).toNat }) ∧
     (imemWords k ≤ (c.rs ra).toNat → faults (.brr k g ra) K.eImemRange) ∧
     (8 ≤ c.stack.length → faults (.call k g target) K.eStack) ∧
     (c.stack.length < 8 → target.toNat < imemWords k →
       Issues s k (exec (.call k g target) s) { to_ target.toNat with stack := (c.pc + 1) :: c.stack }) ∧
     (c.stack.length < 8 → imemWords k ≤ target.toNat → faults (.call k g target) K.eImemRange) ∧
     (c.stack = [] → faults (.ret k g) K.eStack) ∧
     (∀ t rest, c.stack = t :: rest → t < imemWords k → Issues s k (exec (.ret k g) s) { to_ t with stack := rest })) ∧
  (∀ (s : State) (k : CellRef),
     (Quiet s k → (s.cell k).pc + 1 = imemWords k → Issues s k (exec (.nop k) s) { s.cell k with pc := imemWords k, last := imemWords k - 1 }) ∧
     (Alone s k → imemWords k ≤ (s.cell k).pc → Faults s k (exec (.pcOverrun k) s) K.eImemRange 3 (s.cell k).last))

/-- R119, R120, R121, R138: LSETUP and LSETUPR of a counter whose loop is not active set it and make the loop of the
words that follow active; a count of 0 goes on behind the body with one bubble and ends the outer loops that this
leaves (the model's choice, log entry 114). A body beyond instruction memory, or a count of 0 with no word behind the
body, raises E_IMEM_RANGE; a counter whose loop is active raises E_LOOP, unless the body is beyond; counter field 3
raises E_FIELD_RESERVED. A word of no-ops at the end of one active loop's body: with LCn above 1 the loop goes round
without a bubble and LCn is one less; with LCn at 1 it is 0 and the loop is over. END at the one running cell of an
island: the cell has ended and keeps its program counter, its bit of ISL_SEQ is set, ISL_CYCLE counts the cycle, and
the island's state becomes ended exactly if every other cell of the island has ended; nothing else of the machine
changes but the island's counts. -/
def Obligations.LoopsAndProgramEnd : Prop :=
  (∀ (s : State) (k : CellRef) (g : BitVec 4) (n : BitVec 2) (len : BitVec 8) (count : BitVec 12) (ra : BitVec 5),
     Quiet s k → (s.cell k).guard g = true →
     let c := s.cell k
     let last := c.pc + 1 + len.toNat
     let setup := fun (i : Instr) (v : BitVec 32) =>
       (n = 3 → Faults s k (exec i s) K.eFieldReserved 0 c.pc) ∧
       (n ≠ 3 → imemWords k ≤ last → Faults s k (exec i s) K.eImemRange 0 c.pc) ∧
       (n ≠ 3 → last < imemWords k → (∃ l ∈ c.loops, l.n = n.toNat) → Faults s k (exec i s) K.eLoop 0 c.pc) ∧
       (n ≠ 3 → last < imemWords k → (∀ l ∈ c.loops, l.n ≠ n.toNat) → v ≠ 0 →
         Issues s k (exec i s) ({ c.stepped with loops := ⟨n.toNat, c.pc + 1, last⟩ :: c.loops }.wlc n.toNat v)) ∧
       (n ≠ 3 → last + 1 < imemWords k → (∀ l ∈ c.loops, l.n ≠ n.toNat) → v = 0 →
         Issues s k (exec i s) ({ c.stepped with pc := last + 1, bubble := true,
                                                 loops := c.loops.filter (fun l => decide (l.first ≤ last + 1) && decide (last + 1 ≤ l.last)) }.wlc n.toNat 0)) ∧
       (n ≠ 3 → last + 1 = imemWords k → (∀ l ∈ c.loops, l.n ≠ n.toNat) → v = 0 → Faults s k (exec i s) K.eImemRange 0 c.pc)
     setup (.lsetup k g n len count) (count.setWidth 32) ∧ setup (.lsetupr k g n len ra) ((c.rs ra).setWidth 32)) ∧
  (∀ (s : State) (k : CellRef) (l : Loop) (rest : List Loop), Alone s k → (s.cell k).pc < imemWords k →
     s.pullsAt k (s.cell k).pc = [] → (s.cell k).loops = l :: rest → l.last = (s.cell k).pc → (∀ x ∈ rest, x.last ≠ (s.cell k).pc) →
     let c := s.cell k
     (1 < (c.rlc l.n).toNat → Issues s k (exec (.nop k) s) ({ c.stepped with pc := l.first }.wlc l.n (c.rlc l.n - 1))) ∧
     ((c.rlc l.n).toNat = 1 → Issues s k (exec (.nop k) s) ({ c.stepped with loops := rest }.wlc l.n 0))) ∧
  (∀ (s : State) (k : CellRef) (g : BitVec 4), Quiet s k → (s.cell k).guard g = true →
     let others := ∀ j, j < s.cellCount k.isl → j ≠ k.c → (s.cell ⟨k.isl, j⟩).run = .ended
     let seq := putField 6 3 (b2n (s.stretched k.isl) * 8) (putField (16 + k.c) (16 + k.c) 1 (s.reg (R.islSeq k.isl)))
     ∃ t, exec (.endProg k g) s = .next t ∧
       t.cell k = { s.cell k with run := .ended, last := (s.cell k).pc } ∧
       (∀ j, gid j ≠ gid k → t.cell j = s.cell j) ∧
       t.isl k.isl = (s.isl k.isl).next s.gtime ∧ (∀ i, i ≠ k.isl → t.isl i = s.isl i) ∧
       (others → t.reg (R.islSeq k.isl) = putField 2 0 4 seq) ∧ (¬ others → t.reg (R.islSeq k.isl) = seq) ∧
       t.reg (R.islCycle k.isl) = s.reg (R.islCycle k.isl) + 1 ∧
       (∀ a, a ≠ R.islSeq k.isl → a ≠ R.islCycle k.isl → t.reg a = s.reg a) ∧ t.outside s = s)

/-- R107, R114, R124, R147, R168: the four no-ops, an ASSERT whose predicate is 1, and fifteen named instructions
whose guard is false only move the program counter on. An ASSERT whose guard is true and whose predicate is 0 raises
E_ASSERT. -/
def Obligations.NoEffectWords : Prop :=
  ∀ (s : State) (k : CellRef) (g : BitVec 4) (rd ra rb : BitVec 5) (p : BitVec 3) (imm target : BitVec 12), Quiet s k →
    let c := s.cell k
    let nothing := fun (i : Instr) => Issues s k (exec i s) c.stepped
    nothing (.nop k) ∧ nothing (.xNop k) ∧ nothing (.mnop k) ∧ nothing (.vnop k) ∧
    (c.guard g = true → c.rp p = true → nothing (.assertP k g p)) ∧
    (c.guard g = true → c.rp p = false → Faults s k (exec (.assertP k g p) s) K.eAssert 0 c.pc) ∧
    (c.guard g = false →
      nothing (.add k g rd ra rb) ∧ nothing (.mulh k g rd ra rb) ∧ nothing (.addi k g rd ra imm) ∧ nothing (.cmpLt k g p ra rb) ∧
      nothing (.ld64 k g rd ra imm) ∧ nothing (.st64 k g rd ra imm) ∧ nothing (.br k g target) ∧ nothing (.call k g target) ∧
      nothing (.ret k g) ∧ nothing (.assertP k g p) ∧ nothing (.endProg k g) ∧ nothing (.xctl k g 0 p false) ∧
      nothing (.sdesc k g 0 ra) ∧ nothing (.chsend k g rd ra rb) ∧ nothing (.ldfe k g rd ra rb p))

/-- R110: a write in flight lands in its schedule cycle and in no earlier one. -/
def Obligations.WritesLandWhenDue : Prop :=
  ∀ (s : State) (k : CellRef) (r : Nat) (v : Word) (due : Nat) (c0 : Cell), Quiet (s.setCell k c0) k → s.Canon →
    s.cell k = c0.inFlight due (.s r v) →
    let now := (s.isl k.isl).sched + 1
    (due = now → Issues s k (exec (.nop k) s) (c0.stepped.ws r v)) ∧
    (now < due → Issues s k (exec (.nop k) s) (c0.stepped.inFlight due (.s r v)))

/-! ### The M slot -/

/-- R146 to R149, R155, R156: in a compute cell MCFG copies its register into the configuration for the next word or
raises the fault of mcfgFault; MCLR makes the pot empty for the words that follow and clears its entries after 8
cycles; MMA with a pair of R146 on a pot that is empty or of the same mode and exponent puts the terms of fxSlice, or
of f32Slice in F32 mode, under way to the pot, whose mode and exponent become those of the configuration, and
increments its index register if inc is 1; else it raises E_SHAPE. In a memory cell the three raise E_UNIT_ABSENT. -/
def Obligations.MatrixAccumulation : Prop :=
  ∀ (s : State) (k : CellRef) (g : BitVec 4) (ra idx : BitVec 5) (d inc : Bool) (ta tb st : BitVec 4),
    Quiet s k → (s.cell k).guard g = true →
    let c := s.cell k
    let now := (s.isl k.isl).sched
    let mcfg := exec (.mcfg k g ra) s
    let mclr := exec (.mclr k g d) s
    let mma := exec (.mma k g d ta tb idx inc st) s
    (isMemCell k = true → Faults s k mcfg K.eUnitAbsent 1 c.pc ∧ Faults s k mclr K.eUnitAbsent 1 c.pc ∧ Faults s k mma K.eUnitAbsent 1 c.pc) ∧
    (isMemCell k = false →
      (mcfgFault (c.rs ra) = none → Issues s k mcfg { c.stepped with mcfg := c.rs ra }) ∧
      (∀ e, mcfgFault (c.rs ra) = some e → Faults s k mcfg e 1 c.pc) ∧
      Issues s k mclr ((c.stepped.setPst d {}).inFlights now [(8, .potClear d)]) ∧
      (∀ sh ps, mcPair c.mcfg = some sh → potNext (c.pst d) sh (mcPe c.mcfg) = some ps →
        Issues s k mma
          (((c.stepped.setPst d ps).bumped idx inc 1).inFlights now
            [(8, .potMode d ps),
             (8, if sh.mode = .f32 then .potF32 d (mcRm c.mcfg) (f32Slice c sh ta.toNat tb.toNat (c.rs idx).toNat)
                 else .potAdd d (fxSlice c c.mcfg sh ps.pe ta.toNat tb.toNat st.toNat (c.rs idx).toNat))])) ∧
      (∀ sh, mcPair c.mcfg = some sh → potNext (c.pst d) sh (mcPe c.mcfg) = none → Faults s k mma K.eShape 1 c.pc) ∧
      (mcPair c.mcfg = none → Faults s k mma K.eShape 1 c.pc))

/-- R147, R156, R159, R161: in a compute cell MOUT into binary16 or binary32, and into INT32 from a pot in INT mode
or an empty one, reads the entries that R159 names for its slice number, converts each with potRead, and writes a
tile row and the joined flags after 3 cycles; MOUT_RAW writes four raw entries; MMRG puts four raw entries of a tile
row under way to a pot that takes them; each increments its index register if inc is 1. Other formats, other modes of
the pot and pairs that fit no merge raise E_SHAPE, reserved codes E_FIELD_RESERVED, and in a memory cell the three
raise E_UNIT_ABSENT. -/
def Obligations.MatrixReadOutAndMerge : Prop :=
  ∀ (s : State) (k : CellRef) (g : BitVec 4) (idx : BitVec 5) (d inc : Bool) (td fmt : BitVec 4) (rm : BitVec 3),
    Quiet s k → (s.cell k).guard g = true →
    let c := s.cell k
    let now := (s.isl k.isl).sched
    let n := (c.rs idx).toNat
    let after := fun (ws : List (Nat × PW)) => (c.stepped.bumped idx inc 1).inFlights now ws
    let row := fun (m : Nat) => 2048 * td.toNat + 64 * (m % 32)
    let mout := exec (.mout k g d td fmt idx inc rm) s
    let raw := exec (.moutRaw k g d td idx inc) s
    let mmrg := exec (.mmrg k g d td idx inc) s
    let reads := fun (f : EFmt) (r : Rm) (count first : Nat) => (List.range count).map (fun i => potRead (c.pvis d) (c.entry d (first + i)) f r)
    let puts := fun (m bytes : Nat) (l : List (Nat × Fl)) => Issues s k mout
      (after ((3, .tile (row m) (l.flatMap (fun o => leBytes bytes o.1))) :: cellFlagWrites 3 (l.foldl (fun a o => a ||| o.2) 0)))
    let mode := (c.pst d).mode
    (9 < fmt.toNat ∨ 4 < rm.toNat → Faults s k mout K.eFieldReserved 1 c.pc) ∧
    (isMemCell k = true → (fmt.toNat ≤ 9 → rm.toNat ≤ 4 → Faults s k mout K.eUnitAbsent 1 c.pc) ∧
      Faults s k raw K.eUnitAbsent 1 c.pc ∧ Faults s k mmrg K.eUnitAbsent 1 c.pc) ∧
    (isMemCell k = false →
      (∀ r, Rm.ofCode rm.toNat = some r →
        (fmt = 6 → puts (n % 32) 2 (reads .f16 r 32 (32 * (n % 32)))) ∧
        (fmt = 7 → puts (n % 64) 4 (reads .f32 r 16 (32 * (n % 64 / 2) + 16 * (n % 64 % 2)))) ∧
        (fmt = 9 → mode = .int ∨ mode = .empty → puts (n % 64) 4 (reads .int32 r 16 (32 * (n % 64 / 2) + 16 * (n % 64 % 2)))) ∧
        (fmt = 9 → mode = .fx ∨ mode = .f32 → Faults s k mout K.eShape 1 c.pc) ∧
        (fmt.toNat ≤ 9 → fmt ≠ 6 → fmt ≠ 7 → fmt ≠ 9 → Faults s k mout K.eShape 1 c.pc)) ∧
      Issues s k raw
        (after [(3, .tile (row (n % 256))
          ((List.range 4).flatMap (fun i => (c.entry d (32 * (n % 256 / 8) + 4 * (n % 256 % 8) + i)).toBytes)))]) ∧
      (∀ sh ps, mcPair c.mcfg = some sh → sh.mode ≠ .f32 → potNext (c.pst d) sh (mcPe c.mcfg) = some ps →
        Issues s k mmrg
          (((c.stepped.setPst d ps).bumped idx inc 1).inFlights now
            [(8, .potMode d ps),
             (8, .potAdd d ((List.range 4).map (fun i =>
               (32 * (n % 256 / 8) + 4 * (n % 256 % 8) + i,
                { PotEntry.ofNat (c.tile.readLE (row (n % 256)) 64 / 2 ^ (128 * i) % 2 ^ 128) with uf := false }))))])) ∧
      (∀ sh, mcPair c.mcfg = some sh → sh.mode = .f32 ∨ potNext (c.pst d) sh (mcPe c.mcfg) = none → Faults s k mmrg K.eShape 1 c.pc) ∧
      (mcPair c.mcfg = none → Faults s k mmrg K.eShape 1 c.pc))

/-- R151, R153: a term of two INT8 elements in an INT pot is their exact product, and combining two entries adds
their sums modulo 2^96; for entries whose NaN code is 0 unless they hold a NaN, combining is commutative and
associative. -/
def Obligations.PotSumsAreExact : Prop :=
  (∀ a b : BitVec 8, fxTerm 0 (decodeVal .int8 a.toNat, false) (decodeVal .int8 b.toNat, false)
      = { p := BitVec.ofInt 96 (a.toInt * b.toInt) }) ∧
  (∀ x y : PotEntry, (x.combine y).p = x.p + y.p) ∧
  (∀ x y z : PotEntry, (x.nan = false → x.code = 0) → (y.nan = false → y.code = 0) → (z.nan = false → z.code = 0) →
    x.combine y = y.combine x ∧ (x.combine y).combine z = x.combine (y.combine z))

/-! ### The V slot -/

/-- R167 to R173, R183, R185, R170, R172: in a compute cell VADD, VSUB, VMUL, VFMA, VDIV, VMIN, VMAX, VSQRT, VRSQRT,
VEXP2, VABS, VNEG and the four compares give every element of vd the element function of the lane type on the
registers as they stand before the word, and put the values and lane flags in flight with the latency of R185 (VABS
and VNEG for the next word). VDIV and VSQRT of INT32, VRSQRT and VEXP2 of INT32 and of binary64 raise E_SHAPE; a
reserved rounding field, or one other than 0 with INT32, raises E_FIELD_RESERVED; in a memory cell the instructions
raise E_UNIT_ABSENT. On INT32 elements addition, subtraction, multiplication and the fused step give the result
modulo 2^32, and set OF exactly when the exact result does not fit; minimum, maximum, less-than and equality are
those of signed integers. -/
def Obligations.VectorElements : Prop :=
  (∀ (s : State) (k : CellRef) (g : BitVec 4) (vd va vb : BitVec 5) (sb : Bool) (ty : BitVec 2) (rm : BitVec 3),
     Quiet s k → (s.cell k).guard g = true →
     let c := s.cell k
     let t := vty ty
     let r := (Rm.ofCode rm.toNat).getD .rne
     let a := fun j => vElem c t va.toNat j
     let b := fun j => vOperandB c t vb sb j
     let d := fun j => vElem c t vd.toNat j
     let outs := fun (lat : Nat) (f : Nat → Nat × Fl) => vOuts lat vd.toNat t ((List.range (if ty = 3 then 32 else 64)).map f)
     let absent := fun (i : Instr) => isMemCell k = true → Faults s k (exec i s) K.eUnitAbsent 2 c.pc
     let gives := fun (i : Instr) (lat : Nat) (f : Nat → Nat × Fl) =>
       absent i ∧ (isMemCell k = false → Issues s k (exec i s) (c.stepped.inFlights (s.isl k.isl).sched (outs lat f)))
     let lacks := fun (i : Instr) => isMemCell k = false → Faults s k (exec i s) K.eShape 2 c.pc
     let reserved := fun (i : Instr) => Faults s k (exec i s) K.eFieldReserved 2 c.pc
     let l24 := if ty = 3 then 4 else 2
     let l46 := if ty = 3 then 6 else 4
     let long := if ty = 3 then 20 else 12
     (4 < rm.toNat ∨ (ty = 0 ∧ rm ≠ 0) →
       reserved (.vadd k g vd va vb sb ty rm) ∧ reserved (.vsub k g vd va vb sb ty rm) ∧ reserved (.vmul k g vd va vb sb ty rm) ∧
       reserved (.vfma k g vd va vb sb ty rm) ∧ reserved (.vdiv k g vd va vb sb ty rm) ∧ reserved (.vsqrt k g vd va ty rm) ∧
       reserved (.vrsqrt k g vd va ty rm) ∧ reserved (.vexp2 k g vd va ty rm)) ∧
     (rm.toNat ≤ 4 → (ty = 0 → rm = 0) →
       gives (.vadd k g vd va vb sb ty rm) l24 (fun j => binElem .add t r (a j) (b j) (d j)) ∧
       gives (.vsub k g vd va vb sb ty rm) l24 (fun j => binElem .sub t r (a j) (b j) (d j)) ∧
       gives (.vmul k g vd va vb sb ty rm) l46 (fun j => binElem .mul t r (a j) (b j) (d j)) ∧
       gives (.vfma k g vd va vb sb ty rm) l46 (fun j => binElem .fma t r (a j) (b j) (d j)) ∧
       (ty ≠ 0 → gives (.vdiv k g vd va vb sb ty rm) long (fun j => binElem .div t r (a j) (b j) (d j)) ∧
         gives (.vsqrt k g vd va ty rm) long (fun j => unElem .sqrt t r (a j))) ∧
       (ty = 0 → lacks (.vdiv k g vd va vb sb ty rm) ∧ lacks (.vsqrt k g vd va ty rm)) ∧
       (ty = 1 ∨ ty = 2 →
         gives (.vrsqrt k g vd va ty rm) 12 (fun j => unElem .rsqrt t r (a j)) ∧
         gives (.vexp2 k g vd va ty rm) 12 (fun j => unElem .exp2 t r (a j))) ∧
       (ty = 0 ∨ ty = 3 → lacks (.vrsqrt k g vd va ty rm) ∧ lacks (.vexp2 k g vd va ty rm))) ∧
     gives (.vmin k g vd va vb sb ty) l24 (fun j => minmaxElem false t (a j) (b j)) ∧
     gives (.vmax k g vd va vb sb ty) l24 (fun j => minmaxElem true t (a j) (b j)) ∧
     gives (.vceq k g vd va vb sb ty) l24 (fun j => (maskElem t (vcmpElem .eq t (a j) (b j)).1, (vcmpElem .eq t (a j) (b j)).2)) ∧
     gives (.vclt k g vd va vb sb ty) l24 (fun j => (maskElem t (vcmpElem .lt t (a j) (b j)).1, (vcmpElem .lt t (a j) (b j)).2)) ∧
     gives (.vcle k g vd va vb sb ty) l24 (fun j => (maskElem t (vcmpElem .le t (a j) (b j)).1, (vcmpElem .le t (a j) (b j)).2)) ∧
     gives (.vcun k g vd va vb sb ty) l24 (fun j => (maskElem t (vcmpElem .un t (a j) (b j)).1, (vcmpElem .un t (a j) (b j)).2)) ∧
     absent (.vabs k g vd va ty) ∧ absent (.vneg k g vd va ty) ∧
     (isMemCell k = false →
       Issues s k (exec (.vabs k g vd va ty) s)
         ((outs 1 (fun j => sgnElem false t (a j))).foldl (fun c w => c.applyPW w.2) c.stepped) ∧
       Issues s k (exec (.vneg k g vd va ty) s)
         ((outs 1 (fun j => sgnElem true t (a j))).foldl (fun c w => c.applyPW w.2) c.stepped))) ∧
  (∀ (a b d : BitVec 32) (r : Rm),
     let fits := fun (v : Int) => -(2 : Int) ^ 31 ≤ v ∧ v < 2 ^ 31
     let flag := fun (x : Nat × Fl) (v : Int) => (x.2.getLsbD 2 = true ↔ ¬ fits v)
     let add := binElem .add .int32 r a.toNat b.toNat d.toNat
     let sub := binElem .sub .int32 r a.toNat b.toNat d.toNat
     let mul := binElem .mul .int32 r a.toNat b.toNat d.toNat
     let fma := binElem .fma .int32 r a.toNat b.toNat d.toNat
     add.1 = (a + b).toNat ∧ flag add (a.toInt + b.toInt) ∧ sub.1 = (a - b).toNat ∧ flag sub (a.toInt - b.toInt) ∧
     mul.1 = (a * b).toNat ∧ flag mul (a.toInt * b.toInt) ∧
     fma.1 = (a * b + d).toNat ∧ flag fma (a.toInt * b.toInt + d.toInt) ∧
     (minmaxElem false .int32 a.toNat b.toNat).1 = (if b.toInt < a.toInt then b else a).toNat ∧
     (minmaxElem true .int32 a.toNat b.toNat).1 = (if a.toInt < b.toInt then b else a).toNat ∧
     (vcmpElem .lt .int32 a.toNat b.toNat).1 = decide (a.toInt < b.toInt) ∧
     (vcmpElem .eq .int32 a.toNat b.toNat).1 = decide (a = b))

/-- R167, R168: in a compute cell VAND, VOR, VXOR, the three shifts, VIOTA, VROT, VBCAST and VSEL write vd for the
next word; VANY and VALL write a predicate and VEXT a scalar register after 2 cycles; VCFG copies its register into
the packing configuration for the next word or raises the fault of vcfgFault. In a memory cell they raise
E_UNIT_ABSENT. -/
def Obligations.VectorLanesAndMasks : Prop :=
  ∀ (s : State) (k : CellRef) (g : BitVec 4) (vd va vb : BitVec 5) (pd : BitVec 3) (sb : Bool) (ty : BitVec 2),
    Quiet s k → (s.cell k).guard g = true →
    let c := s.cell k
    let t := vty ty
    let now := (s.isl k.isl).sched
    let a := fun l => BitVec.ofNat 32 (vElem c .int32 va.toNat l)
    let b := fun l => BitVec.ofNat 32 (vOperandB c .int32 vb sb l)
    let lanes := fun (f : Nat → Nat) =>
      { c.stepped with vreg := Bytes.writeN c.vreg (256 * vd.toNat) ((List.range 64).flatMap (fun l => leBytes 4 (f l))) }
    let is_ := fun (i : Instr) (c' : Cell) =>
      (isMemCell k = false → Issues s k (exec i s) c') ∧ (isMemCell k = true → Faults s k (exec i s) K.eUnitAbsent 2 c.pc)
    let gives := fun (i : Instr) (f : Nat → Nat) => is_ i (lanes f)
    gives (.vand k g vd va vb sb) (fun l => (a l &&& b l).toNat) ∧
    gives (.vor k g vd va vb sb) (fun l => (a l ||| b l).toNat) ∧
    gives (.vxor k g vd va vb sb) (fun l => (a l ^^^ b l).toNat) ∧
    gives (.vshl k g vd va vb sb) (fun l => (a l <<< ((b l).toNat % 32)).toNat) ∧
    gives (.vshr k g vd va vb sb) (fun l => (a l >>> ((b l).toNat % 32)).toNat) ∧
    gives (.vsra k g vd va vb sb) (fun l => ((a l).sshiftRight ((b l).toNat % 32)).toNat) ∧
    gives (.viota k g vd va) (fun l => (l + (c.rs va).toNat) % 2 ^ 32) ∧
    gives (.vrot k g vd va vb) (fun l => vElem c .int32 va.toNat ((l + (c.rs vb).toNat) % 64)) ∧
    is_ (.vbcast k g vd va ty) (c.stepped.applyPW
      (.vreg (256 * vd.toNat) ((List.range (if ty = 3 then 32 else 64)).flatMap (fun _ => elemBytes t ((c.rs va).toNat % 2 ^ t.bits))))) ∧
    is_ (.vsel k g vd va vb sb ty) (c.stepped.applyPW
      (.vreg (256 * vd.toNat) ((List.range (if ty = 3 then 32 else 64)).flatMap (fun j => elemBytes t
        (if vElem c t vd.toNat j ≠ 0 then vElem c t va.toNat j else vOperandB c t vb sb j))))) ∧
    is_ (.vany k g pd va)
      (c.stepped.inFlights now [(2, .p pd.toNat ((List.range 64).any (fun l => vElem c .int32 va.toNat l != 0)))]) ∧
    is_ (.vall k g pd va)
      (c.stepped.inFlights now [(2, .p pd.toNat ((List.range 64).all (fun l => vElem c .int32 va.toNat l != 0)))]) ∧
    is_ (.vext k g vd va vb ty)
      (c.stepped.inFlights now [(2, .s vd.toNat
        (let e := vElem c t va.toNat ((c.rs vb).toNat % (if ty = 3 then 32 else 64))
         if ty = 0 then (BitVec.ofNat 32 e).signExtend 64 else BitVec.ofNat 64 e))]) ∧
    (isMemCell k = false → vcfgFault (c.rs va) = none → Issues s k (exec (.vcfg k g va) s) { c.stepped with vcfg := c.rs va }) ∧
    (isMemCell k = false → ∀ e, vcfgFault (c.rs va) = some e → Faults s k (exec (.vcfg k g va) s) e 2 c.pc) ∧
    (isMemCell k = true → Faults s k (exec (.vcfg k g va) s) K.eUnitAbsent 2 c.pc)

/-- R174 to R179: in a compute cell VCVT, VUNPK and VPACK put the writes of evalVcvt, evalVunpk and evalVpack in
flight; VPOT, VPOTA, VPOTZ and VPOTZA put the read-outs of 64 pot entries, with those of va added for VPOTA and
VPOTZA, and their flags in flight for 4 cycles, VPOTZ and VPOTZA also the zeroing of the two pot rows for 8 cycles,
and increment the index register if inc is 1. A binary64 lane type of VUNPK, VPACK or a pot read, and INT32 from a
pot in FX or F32 mode, raise E_SHAPE; a reserved rounding field, one other than 0 with INT32, and an h that the
formats do not allow raise E_FIELD_RESERVED; in a memory cell the instructions raise E_UNIT_ABSENT. -/
def Obligations.VectorConversionAndPots : Prop :=
  ∀ (s : State) (k : CellRef) (g : BitVec 4) (vd va idx : BitVec 5) (ty td : BitVec 2) (h d inc : Bool) (tile : BitVec 4) (rm : BitVec 3),
    Quiet s k → (s.cell k).guard g = true →
    let c := s.cell k
    let now := (s.isl k.isl).sched
    let r := (Rm.ofCode rm.toNat).getD .rne
    let absent := fun (i : Instr) => isMemCell k = true → Faults s k (exec i s) K.eUnitAbsent 2 c.pc
    let gives := fun (i : Instr) (ws : List (Nat × PW)) =>
      absent i ∧ (isMemCell k = false → Issues s k (exec i s) (c.stepped.inFlights now ws))
    let shape := fun (i : Instr) => isMemCell k = false → Faults s k (exec i s) K.eShape 2 c.pc
    let reserved := fun (i : Instr) => Faults s k (exec i s) K.eFieldReserved 2 c.pc
    let packs := (Rm.ofCode (vcRm c.vcfg)).isSome = true ∧ packHBad (vcFmt c.vcfg) h = false
    (4 < rm.toNat ∨ (h = true ∧ ty ≠ 3 ∧ td ≠ 3) → reserved (.vcvt k g vd va ty td h rm)) ∧
    (rm.toNat ≤ 4 → (h = false ∨ ty = 3 ∨ td = 3) → gives (.vcvt k g vd va ty td h rm) (evalVcvt c vd va ty td h r).writes) ∧
    (td ≠ 3 → packs →
      gives (.vunpk k g vd va idx tile h td) (evalVunpk c vd va idx tile h (vty td)).writes ∧
      gives (.vpack k g va vd idx tile h td) (evalVpack c va vd idx tile h (vty td)).writes) ∧
    (td = 3 → shape (.vunpk k g vd va idx tile h td) ∧ shape (.vpack k g va vd idx tile h td)) ∧
    (td ≠ 3 → ¬ packs → isMemCell k = false →
      reserved (.vunpk k g vd va idx tile h td) ∧ reserved (.vpack k g va vd idx tile h td)) ∧
    (let s' := (c.rs idx).toNat % 16
     let e := fun l => c.entry d (64 * s' + l)
     let reads := fun (i : Instr) (ws : List (Nat × PW)) =>
       absent i ∧ (isMemCell k = false → Issues s k (exec i s) ((c.stepped.bumped idx inc 1).inFlights now ws))
     let plain := vOuts 4 vd.toNat (vty ty) ((List.range 64).map (fun l => potRead (c.pvis d) (e l) (vty ty) r))
     let sum := vOuts 4 vd.toNat (vty ty)
       ((List.range 64).map (fun l => potReadAdd (c.pvis d) (e l) (vty ty) r (vElem c (vty ty) va.toNat l)))
     let zero : Nat × PW := (8, .potZero d [2 * s', 2 * s' + 1])
     let fits := ty ≠ 3 ∧ (ty = 0 → (c.pst d).mode = .int ∨ (c.pst d).mode = .empty)
     (4 < rm.toNat ∨ (ty = 0 ∧ rm ≠ 0) →
       reserved (.vpot k g vd idx d ty rm inc) ∧ reserved (.vpota k g vd va idx d ty rm inc) ∧
       reserved (.vpotz k g vd idx d ty rm inc) ∧ reserved (.vpotza k g vd va idx d ty rm inc)) ∧
     (rm.toNat ≤ 4 → (ty = 0 → rm = 0) →
       (fits → reads (.vpot k g vd idx d ty rm inc) plain ∧ reads (.vpota k g vd va idx d ty rm inc) sum ∧
         reads (.vpotz k g vd idx d ty rm inc) (zero :: plain) ∧ reads (.vpotza k g vd va idx d ty rm inc) (zero :: sum)) ∧
       (¬ fits → shape (.vpot k g vd idx d ty rm inc) ∧ shape (.vpota k g vd va idx d ty rm inc) ∧
         shape (.vpotz k g vd idx d ty rm inc) ∧ shape (.vpotza k g vd va idx d ty rm inc))))

/-- R180 to R183: in a compute cell the five VRED put the reduction of a register, and its flags in lane 0, in flight
for 8 cycles; the five VTRED put the writes of evalVtred in flight; VRANK puts the sorted scores in vd and their keys
in vd + 1 after 12 cycles; VGETF writes the lane flags to vd for the next word, and VGETF_CLR also clears them. VTRED
and VRANK of binary64 raise E_SHAPE; a reserved rounding field, one other than 0 with INT32, and an odd vd of VRANK
raise E_FIELD_RESERVED; in a memory cell the instructions raise E_UNIT_ABSENT. -/
def Obligations.VectorReductions : Prop :=
  ∀ (s : State) (k : CellRef) (g : BitVec 4) (vd va vb : BitVec 5) (ty : BitVec 2) (tile : BitVec 4) (axis : Bool) (rm : BitVec 3),
    Quiet s k → (s.cell k).guard g = true →
    let c := s.cell k
    let t := vty ty
    let now := (s.isl k.isl).sched
    let r := (Rm.ofCode rm.toNat).getD .rne
    let els := (List.range (if ty = 3 then 32 else 64)).map (fun j => vElem c t va.toNat j)
    let rounds := rm.toNat ≤ 4 ∧ (ty = 0 → rm = 0)
    let is_ := fun (i : Instr) (c' : Cell) =>
      (isMemCell k = false → Issues s k (exec i s) c') ∧ (isMemCell k = true → Faults s k (exec i s) K.eUnitAbsent 2 c.pc)
    let red := fun (i : Instr) (f : RedF) =>
      (rounds → is_ i (c.stepped.inFlights now ((8, .s vd.toNat (redWord f (reduce f t r els).2.1 (reduce f t r els).1)) ::
        flagWrites 8 [(0, (reduce f t r els).2.2)]))) ∧
      (¬ rounds → Faults s k (exec i s) K.eFieldReserved 2 c.pc)
    let tred := fun (i : Instr) (f : RedF) =>
      (rounds → ty ≠ 3 → is_ i (c.stepped.inFlights now (evalVtred c f vd tile axis t r).writes)) ∧
      (rounds → ty = 3 → isMemCell k = false → Faults s k (exec i s) K.eShape 2 c.pc) ∧
      (¬ rounds → Faults s k (exec i s) K.eFieldReserved 2 c.pc)
    let flagLanes := Bytes.writeN c.vreg (256 * vd.toNat) ((List.range 64).flatMap (fun l => leBytes 4 (SMap.get (fun _ => 0) c.lanes l).toNat))
    red (.vredSum k g vd va ty rm) .sum ∧ red (.vredMax k g vd va ty rm) .max ∧ red (.vredMin k g vd va ty rm) .min ∧
    red (.vredArgmax k g vd va ty rm) .argmax ∧ red (.vredArgmin k g vd va ty rm) .argmin ∧
    tred (.vtredSum k g vd tile axis ty rm) .sum ∧ tred (.vtredMax k g vd tile axis ty rm) .max ∧
    tred (.vtredMin k g vd tile axis ty rm) .min ∧ tred (.vtredArgmax k g vd tile axis ty rm) .argmax ∧
    tred (.vtredArgmin k g vd tile axis ty rm) .argmin ∧
    (vd.getLsbD 0 = false → ty ≠ 3 →
      let l := rankSort t ((List.range 64).map (fun j => (vElem c t va.toNat j, vElem c .int32 vb.toNat j)))
      is_ (.vrank k g vd va vb ty)
        (c.stepped.inFlights now [vWrite 12 vd.toNat t (l.map Prod.fst), vWrite 12 (vd.toNat + 1) .int32 (l.map Prod.snd)])) ∧
    (vd.getLsbD 0 = false → ty = 3 → isMemCell k = false → Faults s k (exec (.vrank k g vd va vb ty) s) K.eShape 2 c.pc) ∧
    (vd.getLsbD 0 = true → Faults s k (exec (.vrank k g vd va vb ty) s) K.eFieldReserved 2 c.pc) ∧
    is_ (.vgetf k g vd) { c.stepped with vreg := flagLanes } ∧
    is_ (.vgetfClr k g vd) { c.stepped with vreg := flagLanes, lanes := [] }

/-- R182: for INT32 scores the rank sort gives a permutation of its pairs; when the keys differ, the scores descend,
and among equal scores the keys ascend. -/
def Obligations.RankSortSorts : Prop :=
  ∀ (l : List (Nat × Nat)),
    (rankSort .int32 l).Perm l ∧
    (l.Pairwise (fun x y => x.2 ≠ y.2) → (∀ x ∈ l, x.1 < 2 ^ 32) →
      (rankSort .int32 l).Pairwise (fun x y => toInt32 y.1 < toInt32 x.1 ∨ (toInt32 x.1 = toInt32 y.1 ∧ x.2 < y.2)))

/-! ### The X slot -/

/-- R123: XMOV between tiles, vector registers and local SRAM (read of blocks that hold no upset, outside the list
area of a sieve) puts one beat in flight: for two schedule cycles, for three from local SRAM. An index beyond a tile
or a register wraps in its beats; with an SRAM place the index is a byte address and its beat number the address over
32. With inc the index register is stepped by 1, by 32 with an SRAM place. A misaligned SRAM place raises E_ALIGN,
one that ends beyond local SRAM E_SRAM_RANGE, a reserved place code E_FIELD_RESERVED, and a tile or vector place in a
memory cell E_UNIT_ABSENT. -/
def Obligations.XMovMovesBeats : Prop :=
  ∀ (s : State) (k : CellRef) (g : BitVec 4) (dst src : BitVec 8) (idx : BitVec 5) (inc : Bool),
    Quiet s k → (s.cell k).guard g = true →
    let c := s.cell k
    let i := (c.rs idx).toNat
    let now := (s.isl k.isl).sched
    let fits := i % 32 = 0 ∧ i + 32 ≤ sramSize k
    let here := isMemCell k = false
    let readable := s.plainRead k i 32 = true
    let r := exec (.xmov k g dst src idx inc) s
    (here → unitPlace dst → unitPlace src →
      Issues s k r ((c.stepped.bumped idx inc 1).inFlight (now + 2) (unitWrite dst i (c.unitBeat src i)))) ∧
    (here → unitPlace dst → src = 0x38 → fits → readable →
      Issues s k r ((c.stepped.bumped idx inc 32).inFlight (now + 3) (unitWrite dst (i / 32) (s.sramN k i 32)))) ∧
    (here → dst = 0x38 → unitPlace src → fits →
      Issues s k r ((c.stepped.bumped idx inc 32).inFlight (now + 2) (.sram i (c.unitBeat src (i / 32)) none))) ∧
    (dst = 0x38 → src = 0x38 → fits → readable →
      Issues s k r ((c.stepped.bumped idx inc 32).inFlight (now + 3) (.sram i (s.sramN k i 32) none))) ∧
    (((here ∧ unitPlace dst ∧ src = 0x38) ∨ (here ∧ dst = 0x38 ∧ unitPlace src) ∨ (dst = 0x38 ∧ src = 0x38)) →
      (i % 32 ≠ 0 → Faults s k r K.eAlign 3 c.pc) ∧
      (i % 32 = 0 → sramSize k < i + 32 → Faults s k r K.eSramRange 3 c.pc)) ∧
    ((placeOk dst && placeOk src) = false → Faults s k r K.eFieldReserved 3 c.pc) ∧
    (isMemCell k = true → placeOk dst = true → placeOk src = true → unitPlace dst ∨ unitPlace src →
      Faults s k r K.eUnitAbsent 3 c.pc)

/-- R123, R196, R198, R200: in a compute cell a move from a running inbound engine, whose head beat has landed in
blocks that hold no upset, takes that beat to a tile or a vector register, and a move from one of those to a running
outbound engine whose ring has space writes the beat into the ring; both count the beat and step the index register
if inc is 1, and the last beat of a walk makes the engine idle (inbound) or draining (outbound). An engine that is
idle, draining or stopping or that runs the other way raises E_STREAM_STATE. -/
def Obligations.StreamPlaces : Prop :=
  ∀ (s : State) (k : CellRef) (g : BitVec 4) (u : BitVec 8) (e : BitVec 2) (idx : BitVec 5) (inc : Bool),
    Quiet s k → (s.cell k).guard g = true → isMemCell k = false → unitPlace u →
    let c := s.cell k
    let i := (c.rs idx).toNat
    let x := c.eng e.toNat
    let d := c.descOf x.slot
    let place : BitVec 8 := 0x30 + e.setWidth 8
    let pull := exec (.xmov k g u place idx inc) s
    let push := exec (.xmov k g place u idx inc) s
    (∀ b rest, x.state = .running → x.dir = false → x.ring = b :: rest → b.need = 0 →
      s.plainRead k (ringAt d b.idx) 32 = true →
      Issues s k pull (((c.stepped.setEng e.toNat
          { x with ring := rest, moved := x.moved + 1, beats := x.beats + 1,
                   state := if d.totalBeats ≤ x.moved + 1 then .idle else .running }).bumped idx inc 1).inFlight
        ((s.isl k.isl).sched + 2) (unitWrite u i (s.sramN k (ringAt d b.idx) 32)))) ∧
    (x.state = .running → x.dir = true → x.span < ringBeats d →
      IssuesWith s (s.wrN (sramBase k + ringAt d x.moved) (c.unitBeat u i)) k push ((c.stepped.setEng e.toNat
          { x with ring := x.ring ++ [⟨x.moved, c.unitBeat u i, 0, false⟩], moved := x.moved + 1, beats := x.beats + 1,
                   state := if d.totalBeats ≤ x.moved + 1 then .draining else .running }).bumped idx inc 1)) ∧
    (x.state = .idle ∨ x.state = .draining ∨ x.state = .stopping ∨ x.dir = true → Faults s k pull K.eStreamState 3 c.pc) ∧
    (x.state = .idle ∨ x.state = .draining ∨ x.state = .stopping ∨ x.dir = false → Faults s k push K.eStreamState 3 c.pc)

/-- R124, R127, R216, R222, R223: XSEND of a beat of a tile, a vector register or local SRAM and XCTL send a token
with the island's epoch, XSEND's with the seat tag, XCTL's with the predicate and its unit bit: over a crossing link
that is not fenced and whose FIFO has space into the flow towards that FIFO, over an inside link onto the wire of the
neighbour's port, usable 1 schedule cycle later over an east or west port and 2 later over a north or south one. A
fenced port raises E_PORT_FENCED; a full FIFO stalls the island in class 3. -/
def Obligations.TokensSent : Prop :=
  ∀ (s : State) (k : CellRef) (g : BitVec 4) (port : BitVec 2) (src : BitVec 8) (idx : BitVec 5) (inc unit : Bool) (pa : BitVec 3)
    (beat : List Byte) (step : Word),
    let c := s.cell k
    let p := port.toNat
    let i := (c.rs idx).toNat
    let isl := s.isl k.isl
    Quiet s k → c.guard g = true → isl.drives = [] →
    (isMemCell k = false ∧ unitPlace src ∧ beat = c.unitBeat src i ∧ step = 1) ∨
      (src = 0x38 ∧ i % 32 = 0 ∧ i + 32 ≤ sramSize k ∧ s.plainRead k i 32 = true ∧ beat = s.rdN (sramBase k + i) 32 ∧ step = 32) →
    let data : Token := ⟨BitVec.ofNat 256 (leNat beat), false, false, isl.epoch, c.seat⟩
    let ctl : Token := ⟨if c.rp pa then 1 else 0, true, unit, isl.epoch, 0⟩
    let xsend := exec (.xsend k g port src idx inc) s
    let xctl := exec (.xctl k g port pa unit) s
    let c1 := c.stepped.bumped idx inc step
    let held := fun (x : XOp) => s.setCell k { c with held := some { xg := g, x := x } }
    (∀ k', s.link k p = .crossing k' → s.fenced k p = false → s.outFull k p = false →
      IssuesWith s (s.sent k' (facing p) data) k xsend c1 ∧ IssuesWith s (s.sent k' (facing p) ctl) k xctl c.stepped) ∧
    (∀ k' lat, s.link k p = .inside k' lat →
      let wired := fun (t : Token) => s.setCell k' { s.cell k' with wires := [⟨facing p, t, isl.sched + (if p % 2 = 0 then 2 else 1), false⟩] }
      (∃ t, xsend = .next t ∧ Cycled (wired data) (wired data) t k c1) ∧
      ∃ t, xctl = .next t ∧ Cycled (wired ctl) (wired ctl) t k c.stepped) ∧
    (s.fenced k p = true → Faults s k xsend K.ePortFenced 3 c.pc ∧ Faults s k xctl K.ePortFenced 3 c.pc) ∧
    (∀ k', s.link k p = .crossing k' → s.fenced k p = false → s.outFull k p = true →
      (∃ t, xsend = .next t ∧ Stalled (held (.send port src idx inc)) t k.isl 3) ∧
      ∃ t, xctl = .next t ∧ Stalled (held (.ctl port pa unit)) t k.isl 3)

/-- R123, R124, R127, R224, R232: XRECV into a tile, a vector register or local SRAM takes the data token at the head
of a crossing FIFO, if that has the island's epoch and feeds no steering unit, or the data token that is usable on an
inside port in this schedule cycle, and puts its 32 bytes (with its seat tag into local SRAM) in flight for two
schedule cycles. With an empty FIFO it stalls the island in class 3, without a token on an inside port it raises
E_LINK_UNDERRUN, on a fenced port E_PORT_FENCED. -/
def Obligations.TokensReceived : Prop :=
  ∀ (s : State) (k : CellRef) (g : BitVec 4) (port : BitVec 2) (dst : BitVec 8) (idx : BitVec 5) (inc : Bool) (c : Cell)
    (step : Word) (write : Token → PW),
    let p := port.toNat
    let isl := s.isl k.isl
    let i := (c.rs idx).toNat
    Quiet (s.setCell k c) k → c.guard g = true → s.Canon → isl.pops = [] →
    (isMemCell k = false ∧ unitPlace dst ∧ step = 1 ∧ write = fun t => unitWrite dst i (leBytes 32 t.payload.toNat)) ∨
      (dst = 0x38 ∧ i % 32 = 0 ∧ i + 32 ≤ sramSize k ∧ step = 32 ∧
        write = fun t => .sram i (leBytes 32 t.payload.toNat) (some t.seat)) →
    let r := exec (.xrecv k g dst port idx inc) s
    let got := fun (t : Token) => (c.stepped.bumped idx inc step).inFlight (isl.sched + 2) (write t)
    (∀ k' t rest, s.cell k = c → s.link k p = .crossing k' → s.fenced k p = false → s.steerFed k p = [] →
      s.fifo k p = t :: rest → t.epoch = isl.epoch → t.kind = false → IssuesWith s (s.setFifo k p rest) k r (got t)) ∧
    (∀ k' lat t, s.cell k = { c with wires := [⟨p, t, isl.sched, false⟩] } → s.link k p = .inside k' lat → t.kind = false →
      s.routeOuts k p = [] → s.steerFed k p = [] → Issues s k r (got t)) ∧
    (∀ k', s.cell k = c → s.link k p = .crossing k' → s.fenced k p = false → s.fifo k p = [] →
      ∃ t, r = .next t ∧ Stalled (s.setCell k { c with held := some { xg := g, x := .recv dst port idx inc } }) t k.isl 3) ∧
    (∀ k' lat, s.cell k = c → s.link k p = .inside k' lat → Faults s k r K.eLinkUnderrun 3 c.pc) ∧
    (s.cell k = c → s.fenced k p = true → Faults s k r K.ePortFenced 3 c.pc)

/-- R125, R195, R197, R261, R265, R266: SDESC loads a descriptor slot that no engine uses from an aligned address of
local SRAM, in blocks that hold no upset and outside the list area of a sieve; SSTART starts an idle engine on a
loaded slot that no engine uses and whose descriptor passes the checks; SSTOP makes an engine that is not idle stop;
SWAIT issues when its engine is idle and else stalls the island in class 4. Else SDESC, SSTART and SSTOP raise
E_STREAM_STATE, E_ALIGN, E_SRAM_RANGE or the code of the check. In a memory cell SVCFG sets the sieve's configuration
and empties its lists, or raises the fault of svcfgFault; SVCLR empties one list and SVCLR_ALL all, and SVFLUSH
queues the image of a list if fewer than 64 are queued. Without a configured sieve these three raise E_STREAM_STATE,
for a list that does not exist SVCLR and SVFLUSH raise E_FIELD_RESERVED. R328: CHSEND of a message in local SRAM, on
a live channel of the table that has credit while the island's buffer has space, hands the message to the channel
port. In a compute cell the sieve instructions raise E_UNIT_ABSENT. -/
def Obligations.StreamSieveAndChannelWords : Prop :=
  (∀ (s : State) (k : CellRef) (g : BitVec 4) (e : BitVec 2) (slot : BitVec 3) (ra : BitVec 5),
     Quiet s k → (s.cell k).guard g = true →
     let c := s.cell k
     let a := (c.rs ra).toNat
     let x := c.eng e.toNat
     let used := ∃ f, f < 4 ∧ (c.eng f).state ≠ .idle ∧ (c.eng f).slot = slot.toNat
     let sdesc := exec (.sdesc k g slot ra) s
     let sstart := exec (.sstart k g e slot) s
     let check := Desc.check (c.desc.readN (128 * slot.toNat) 128) (sramSize k)
     (used → Faults s k sdesc K.eStreamState 3 c.pc) ∧
     (¬ used → a % 128 ≠ 0 → Faults s k sdesc K.eAlign 3 c.pc) ∧
     (¬ used → a % 128 = 0 → sramSize k < a + 128 → Faults s k sdesc K.eSramRange 3 c.pc) ∧
     (¬ used → a % 128 = 0 → a + 128 ≤ sramSize k → s.plainRead k a 128 = true →
       Issues s k sdesc { c.stepped with desc := Bytes.writeN c.desc (128 * slot.toNat) (s.sramN k a 128),
                                         descOk := c.descOk ||| (1#8 <<< slot.toNat) }) ∧
     (x.state ≠ .idle ∨ c.descOk.getLsbD slot.toNat = false ∨ used → Faults s k sstart K.eStreamState 3 c.pc) ∧
     (x.state = .idle → c.descOk.getLsbD slot.toNat = true → ¬ used →
       (∀ code, check = some code → Faults s k sstart (BitVec.ofNat 16 code) 3 c.pc) ∧
       (check = none → Issues s k sstart (c.stepped.setEng e.toNat
         { state := .running, slot := slot.toNat, dir := (c.descOf slot.toNat).dir, fkind := x.fkind, sfva := x.sfva }))) ∧
     (x.state = .idle → Faults s k (exec (.sstop k g e) s) K.eStreamState 3 c.pc) ∧
     (x.state ≠ .idle → Issues s k (exec (.sstop k g e) s) (c.stepped.setEng e.toNat
       (if x.state = .stopping then x
        else if x.dir = true then
          { x with state := .stopping, resume := false,
                   ring := if x.state = .halted then x.ring.filter (fun b => b.issued) else x.ring }
        else { x with state := .stopping, resume := false, ring := x.ring.filter (fun b => b.need != 0) }))) ∧
     (x.state = .idle → Issues s k (exec (.swait k g e) s) c.stepped) ∧
     (x.state ≠ .idle → ∃ t, exec (.swait k g e) s = .next t ∧
       Stalled (s.setCell k { c with held := some { xg := g, x := .swait e } }) t k.isl 4)) ∧
  (∀ (s : State) (k : CellRef) (g : BitVec 4) (ra rl rf : BitVec 5) (f : Bool), Quiet s k → (s.cell k).guard g = true →
     let c := s.cell k
     let sv := c.sieve
     let with_ := fun (v : Sieve) => { c.stepped with sieve := v }
     let a := (c.rs ra).toNat
     let l := (c.rs rl).toNat
     let w := (c.rs rf).toNat
     let img := flushImage (svFmt sv.cfg) f l (sv.list l)
     let svcfg := exec (.svcfg k g ra) s
     let svclr := exec (.svclr k g rl) s
     let all := exec (.svclrAll k g) s
     let flush := exec (.svflush k g rl ra rf f) s
     (isMemCell k = false → Faults s k svcfg K.eUnitAbsent 3 c.pc ∧ Faults s k svclr K.eUnitAbsent 3 c.pc ∧
       Faults s k all K.eUnitAbsent 3 c.pc ∧ Faults s k flush K.eUnitAbsent 3 c.pc) ∧
     (isMemCell k = true →
       (∀ e, svcfgFault k (c.rs ra) = some e → Faults s k svcfg e 3 c.pc) ∧
       (svcfgFault k (c.rs ra) = none → Issues s k svcfg (with_ { sv with cfg := (c.rs ra).setWidth 37, lists := [] })) ∧
       (svEn sv.cfg = false → Faults s k svclr K.eStreamState 3 c.pc ∧ Faults s k all K.eStreamState 3 c.pc ∧
         Faults s k flush K.eStreamState 3 c.pc) ∧
       (svEn sv.cfg = true → Issues s k all (with_ { sv with lists := [] })) ∧
       (svEn sv.cfg = true → svLists sv.cfg ≤ l → Faults s k svclr K.eFieldReserved 3 c.pc ∧ Faults s k flush K.eFieldReserved 3 c.pc) ∧
       (svEn sv.cfg = true → l < svLists sv.cfg →
         Issues s k svclr (with_ { sv with lists := SMap.set (fun _ => []) sv.lists l [] })) ∧
       (svEn sv.cfg = true → l < svLists sv.cfg → a % 32 = 0 → w % 8 = 0 → a + img.length ≤ sramSize k → w + 8 ≤ sramSize k →
         overlap a img.length (svABase sv.cfg) (svASize sv.cfg) = false →
         overlap a img.length (svWBase sv.cfg) (svWSize sv.cfg) = false → sv.flushes.length < 64 →
         Issues s k flush (with_ { sv with flushes := sv.flushes ++ [⟨a, img, w, (sv.list l).length, a, img.length⟩] }))) ∧
     (∀ die ch, s.chsendCheck k (c.rs ra) (c.rs rf) = .ok (die, ch) → s.chState die ch = 1 → s.chCredit die ch (c.rs rf).toNat = true →
       (s.isl k.isl).chbuf + (c.rs rf).toNat ≤ 16384 → l % 32 = 0 → l + (c.rs rf).toNat ≤ sramSize k →
       s.plainRead k l (c.rs rf).toNat = true →
       let t := (s.isl k.isl).table
       let s1 := { s.updIsl k.isl (fun i => { i with chbuf := i.chbuf + (c.rs rf).toNat }) with
         chmsgs := s.chmsgs ++ [⟨die, ch, .cell (gid k), t, s.ecmd t, s.sramN k l (c.rs rf).toNat, false, 0, false⟩] }
       ∃ t, exec (.chsend k g ra rl rf) s = .next t ∧ Cycled s1 s1 t k c.stepped))

/-- R313, R314, R322: when a word with a synchronisation instruction is first presented and its identifier
translates, its request goes out, and the island stalls in class 5; while the request waits, it stalls again and
sends nothing more; when the answer is there the word issues: a load that completed writes its value to rd, and a
request with a deadline writes to pd whether it completed. RSET has no deadline and sends the low 16 bits of rb. -/
def Obligations.SyncInstructions : Prop :=
  ∀ (s : State) (k : CellRef) (g : BitVec 4) (rd ra rb : BitVec 5) (pd : BitVec 3) (c : Cell),
    Quiet (s.setCell k c) k → c.guard g = true → s.Canon →
    let sync := fun (v : SyncV) (load : Bool) (i : Instr) (rd : BitVec 5) =>
      let w : HWord := { xg := g, x := .sync v rd ra rb pd }
      let timed := v ≠ SyncV.rset ∧ rb ≠ 0
      let t := (s.isl k.isl).table
      let s0 := (s.setCell k { c with held := some w }).syncLearn (islAgent k.isl) (islDie k.isl) t (c.rs ra)
      let home := s0.syncTrans (islAgent k.isl) (islDie k.isl) t (c.rs ra)
      (∀ h, s.cell k = c → c.sync = .none → home = .ok h →
        ∃ u, exec i s = .next u ∧ Stalled
          (({ s0 with syncNext := s0.syncNext + 1 }.setCell k (c.asking w s0.syncNext)).sendSync
            { id := s0.syncNext, who := .cell (gid k), v := v, home := h,
              value := if v = SyncV.rset then (c.rs rb) &&& 0xFFFF else c.rs rd, timed := decide timed,
              deadline := if timed then s0.gtime + c.rs rb else 0, table := t,
              cmd := s0.ecmd t, early := false, ruled := false, expired := false, stage := .travelling })
          u k.isl 5) ∧
      (∀ id, s.cell k = { c with held := some w, sync := .waiting id } → ∃ u, exec i s = .next u ∧ Stalled s u k.isl 5) ∧
      (∀ ok val, s.cell k = { c with held := some w, sync := .answered ok val } →
        let c1 := { c.stepped with sync := .none }
        let c2 := if load = true ∧ ok = true then c1.ws rd.toNat val else c1
        Issues s k (exec i s) (if timed then c2.wp pd.toNat ok else c2))
    sync .ldfe true (.ldfe k g rd ra rb pd) rd ∧ sync .ldff true (.ldff k g rd ra rb pd) rd ∧
    sync .ldxx true (.ldxx k g rd ra rb pd) rd ∧ sync .ldxe true (.ldxe k g rd ra rb pd) rd ∧
    sync .stef false (.stef k g rd ra rb pd) rd ∧ sync .stxf false (.stxf k g rd ra rb pd) rd ∧
    sync .stxe false (.stxe k g rd ra rb pd) rd ∧ sync .stff false (.stff k g rd ra rb pd) rd ∧
    sync .rwait false (.rwait k g ra rb pd) 0 ∧ sync .rpass false (.rpass k g ra rb pd) 0 ∧
    sync .rset false (.rset k g ra rb pd) 0

/-- R106, R130, R219, R220: when one cell of an island runs, STALL_RELEASE makes it present the word that its
instruction memory holds at the program counter, as the command of that word does, and a word of zeros only moves on;
PULL_POINT at a word of no-ops with one pull point takes the data token at the head of a crossing FIFO and forwards
it over a crossing port that the route names, if that is not full. -/
def Obligations.ProgramWordsAndPullPoints : Prop :=
  ∀ (s : State) (k : CellRef), Alone s k → (s.cell k).pc < imemWords k → (∀ l ∈ (s.cell k).loops, l.last ≠ (s.cell k).pc) →
    exec (.stallRelease k.isl) s = .next (drive k (fetchWord (isMemCell k) (s.cell k).imem (s.cell k).pc) s) ∧
    (Quiet s k → (s.cell k).imem.readN (16 * (s.cell k).pc) 16 = List.replicate 16 0 →
      Issues s k (exec (.stallRelease k.isl) s) (s.cell k).stepped) ∧
    (∀ p o k1 k2 t rest, p < 4 → s.pullsAt k (s.cell k).pc = [p] → s.link k p = .crossing k1 → s.fenced k p = false →
      s.steerFed k p = [] → s.routeOuts k p = [o] → s.link k o = .crossing k2 → s.outFull k o = false →
      (s.isl k.isl).drives = [] → (s.isl k.isl).pops = [] → s.fifo k p = t :: rest → t.epoch = (s.isl k.isl).epoch → t.kind = false →
      IssuesWith s ((s.setFifo k p rest).sent k2 (facing o) t) k (exec (.pullPoint k) s) (s.cell k).stepped)

/-! ### Tokens, streams, memory -/

/-- R47, R49, R275 (with R46 and R50): where islands, cells, vaults and SRAM slots lie. The north-west cell of every
island is a compute cell and compute cells and memory cells alternate inside an island; a port of a cell that has a
neighbour faces a cell of the other kind, which faces back. Island (i, j) is island 12 i + j − 12 d of die d = j div
12, with its register block at the die's base plus 0x0010_0000 times that number. The vault above island n of die d
starts at 0x4000_0000 × (96 d + n), the slot of its cell c at 0x0200_0000_0000 + 0x0100_0000 × (96 d + n) +
0x0010_0000 × c; a memory cell uses its whole slot, a compute cell the first 256 KiB, and a cell that a short island
lacks nothing of it. -/
def Obligations.FloorPlan : Prop :=
  (∀ (s : State) (k k' : CellRef) (p : Nat), s.cellExists k = true → p < 4 → s.nbr k p = some k' →
    s.cellExists k' = true ∧ isMemCell k' = !isMemCell k ∧ s.nbr k' (facing p) = some k) ∧
  (∀ i : Nat, isMemCell ⟨i, 0⟩ = false) ∧
  (∀ i r c : Nat, r < 4 → c < 4 → isMemCell ⟨i, 4 * r + c⟩ = decide ((r + c) % 2 = 1)) ∧
  (∀ i j : Nat, i < 8 → j < 24 →
    islDie (islAt i j) = j / 12 ∧ islNum (islAt i j) = 12 * i + (j - 12 * (j / 12)) ∧
    islReg (islAt i j) 0 = (if j / 12 = 0 then 0x030000000000 else 0x030800000000) + 0x00100000 * (12 * i + (j - 12 * (j / 12)))) ∧
  (∀ (s : State) (d n : Nat), d < 2 → n < 96 → s.FarOk →
    s.cellCount (96 * d + n) = (if s.grade1440 d = true ∧ 84 ≤ n then 8 else 16) ∧ vaultBase (96 * d + n) = 0x40000000 * (96 * d + n) ∧
    ∀ c, c < 16 → sramBase ⟨96 * d + n, c⟩ = 0x020000000000 + 0x01000000 * (96 * d + n) + 0x00100000 * c ∧
      ∀ o, o < 0x00100000 → (s.populated (sramBase ⟨96 * d + n, c⟩ + o) 1 = true ↔
        c < s.cellCount (96 * d + n) ∧ (isMemCell ⟨96 * d + n, c⟩ = true ∨ o < 0x40000)))

/-- R127, R218, R219, R223, R224, R227, R232, R222, R225, R226, R228: tokens that check clean, arriving at an
unfaulted cell of an island that has not faulted and does not stall. On an inside link a control token of an enabled
unit with space enters its buffer and one of a disabled unit or a full buffer is lost with E_TOKEN_LOST; a data token
that no route forwards enters the one steering buffer its port feeds, or is lost when that is full. A token in flight
enters the handshake FIFO behind those there. The first head that a FIFO delivers in an island cycle goes on, if it
has the island's epoch, to the steering buffer with space, and stays while that is full; a control token whose unit
is disabled is lost. A stale head is discarded and counted. At an unfaulted cell of an island that has not faulted
and does not stall, a switch takes its control and its data token and gives the data token to the target that the
control value selects, or discards it (target code 4 and above); a merge gives the token of the input that the
control value selects. With inside inputs only the output is driven at once, or the second driver of an output raises
E_LINK_OVERRUN; with a crossing input the output waits. A unit fires at most once in a schedule cycle. In an island
where nothing else happens a waiting output is driven in the island cycle that passes, if its port is free. While the
island stalls a unit does not fire: a stall cycle passes. -/
def Obligations.TokensAndSteering : Prop :=
  (∀ (s : State) (c : CellRef) (port : BitVec 2) (u : Upset) (tok : Token),
     s.Canon → s.cellExists c = true → s.islFaulted c.isl = false → s.blockClasses c.isl = [] → (s.cell c).run ≠ .faulted →
     let p := port.toNat
     let cs := tokenSymbols tok.payload u
     let tok' := { tok with payload := BitVec.ofNat 256 (leNat (cs.take 32)) }
     let isl := s.isl c.isl
     let head := exec (.fifoHeadDeliver c port) s
     let wire : Wire := ⟨p, tok, isl.sched, false⟩
     let arrives := exec (.insideTokenArrive c port u) s
     let wires := fun (l : List Wire) (x : State) => x.updCell c (fun z => { z with wires := l })
     let lost := fun (x : State) => x.faultNoWord c K.eTokenLost
     let taken := { isl with pops := isl.pops ++ [(c.c, p)] }
     let off := fun (rest : List Token) => (s.setFifo c p rest).setIsl c.isl taken
     (decodeBlock cs = .clean → (s.cell c).wires = [wire] →
       (tok.kind = true → s.ctlEnabled c p tok = true → s.bufFull c p (ctlBuf tok) = false →
         arrives = .next (wires [] (s.bufPush c p (ctlBuf tok) tok'))) ∧
       (tok.kind = true → (s.ctlEnabled c p tok = false ∨ s.bufFull c p (ctlBuf tok) = true) →
         arrives = .next ((wires [] (lost s)).islandFault c K.eTokenLost)) ∧
       (∀ q b, tok.kind = false → s.routeOuts c p = [] → s.steerFed c p = [(q, b)] → s.bufFull c q b = false →
         arrives = .next (wires [⟨p, tok', isl.sched, true⟩] (s.bufPush c q b tok'))) ∧
       (∀ q b, tok.kind = false → s.routeOuts c p = [] → s.steerFed c p = [(q, b)] → s.bufFull c q b = true →
         arrives = .next ((wires [⟨p, tok', isl.sched, true⟩] (lost s)).islandFault c K.eTokenLost))) ∧
     (∀ rest, s.inFlight c p = tok :: rest → decodeBlock cs = .clean →
       exec (.fifoTokenArrive c port u) s = .next ((s.setFlight c p rest).setFifo c p (s.fifo c p ++ [tok']))) ∧
     (∀ rest, s.isCrossing c p = true → s.fifo c p = tok :: rest → tok.epoch = isl.epoch → isl.pops.contains (c.c, p) = false →
       (tok.kind = true → s.ctlEnabled c p tok = true → s.bufFull c p (ctlBuf tok) = false →
         head = .next ((off rest).bufPush c p (ctlBuf tok) tok)) ∧
       (tok.kind = true → s.ctlEnabled c p tok = true → s.bufFull c p (ctlBuf tok) = true → head = .next s) ∧
       (tok.kind = true → s.ctlEnabled c p tok = false → head = .next ((lost (off rest)).islandFault c K.eTokenLost)) ∧
       (∀ q b more, tok.kind = false → s.steerFed c p = (q, b) :: more → s.bufFull c q b = false →
         head = .next ((off rest).bufPush c q b tok)) ∧
       (∀ q b more, tok.kind = false → s.steerFed c p = (q, b) :: more → s.bufFull c q b = true →
         head = .next s)) ∧
     (SMap.wf (fun _ => []) s.fifos = true → s.isCrossing c p = true → s.fifo c p = [tok] → tok.epoch ≠ isl.epoch → tok.epoch ≠ isl.epoch + 1 →
       head = .next ((s.setFifo c p []).incFld (R.islStale c.isl) 63 32 1))) ∧
  (∀ (s : State) (c : CellRef) (port : BitVec 2) (ct d : Token) (cs ds : List Token),
     s.Canon → s.cellExists c = true → s.islFaulted c.isl = false → (s.cell c).run ≠ .faulted →
     let p := port.toNat
     let w := s.steerCfg c p
     let x := (s.cell c).str p
     let isl := s.isl c.isl
     let now := isl.sched
     let value := ct.payload.getLsbD 0
     let put := fun (y : Steer) => s.updCell c (fun z => z.setStr p y)
     let drives := fun (r : Res) (t : State) (o : Nat) =>
       (t.driven c o = false → r = .next (t.driveTok c o d)) ∧
       (t.driven c o = true → r = .next ((t.faultNoWord c K.eLinkOverrun).islandFault c K.eLinkOverrun))
     let swOk := x.swCtl = ct :: cs ∧ x.swDat = d :: ds ∧ swEn w = true ∧ x.swLast ≠ some now ∧ x.swOut = none
     let swX := { x with swCtl := cs, swDat := ds, swLast := some now }
     let sw := exec (.switchFire c port) s
     let o := if value then swT w else swF w
     let m := mgOutPort w
     let mgOk := x.mgCtl = ct :: cs ∧ (if value then x.mgB else x.mgA) = d :: ds ∧ mgEn w = true ∧ x.mgLast ≠ some now ∧ x.mgOut = none
     let mgX := if value then { x with mgCtl := cs, mgB := ds, mgLast := some now } else { x with mgCtl := cs, mgA := ds, mgLast := some now }
     let mg := exec (.mergeFire c port) s
     let swInside := insidePort c p = true ∧ insidePort c (swData w) = true
     let mgInside := insidePort c p = true ∧ insidePort c (mgAPort w) = true ∧ insidePort c (mgBPort w) = true
     (s.blockClasses c.isl = [] →
       (swOk → 4 ≤ o → sw = .next (put swX)) ∧
       (swOk → o < 4 → swInside → drives sw (put swX) o) ∧
       (swOk → o < 4 → ¬ swInside → sw = .next (put { swX with swOut := some (o, d) })) ∧
       (x.swLast = some now → sw = .next s) ∧
       (mgOk → mgInside → drives mg (put mgX) m) ∧
       (mgOk → ¬ mgInside → mg = .next (put { mgX with mgOut := some (m, d) })) ∧
       (x.mgLast = some now → mg = .next s)) ∧
     (s.blockClasses c.isl ≠ [] → c.isl < 192 →
       sw = .next (s.stallCycle c.isl (s.blockClasses c.isl)) ∧ mg = .next (s.stallCycle c.isl (s.blockClasses c.isl))) ∧
     (isl.dheld = [] → (∀ j, j < s.cellCount c.isl →
         let z := s.cell ⟨c.isl, j⟩
         z.presented = none ∧ z.wires = [] ∧ z.sieve.intake = [] ∧ z.pend = [] ∧ z.bubble = false ∧ (j ≠ c.c → z.steer = []) ∧
           ∀ q, q < 4 → s.headSteers ⟨c.isl, j⟩ q = false) →
       let after := fun (y : Steer) (o' : Nat) =>
         ((((put y).sendTok c o' d).updIsl c.isl (Isl.next isl.issued)).incFld (R.islCycle c.isl) 63 0 1).islState c.isl (s.reason c.isl [])
       (∀ o' l, (s.cell c).steer = [(p, { swOut := some (o', d), swLast := l })] → s.driven c o' = false → s.outFull c o' = false →
         exec (.steerOutputDrive c port false) s = .next (after { swLast := l } o')) ∧
       (∀ o' l, (s.cell c).steer = [(p, { mgOut := some (o', d), mgLast := l })] → s.driven c o' = false → s.outFull c o' = false →
         exec (.steerOutputDrive c port true) s = .next (after { mgLast := l } o'))))

/-- R143, R196, R197, R200, R201, R205, R208, R209, R210, R215, R286, R207: the events of a stream engine of an
island that no scan holds. The request of an inbound engine's next beat translates its bytes at the island: it is
sent when every byte has a place and the damper has budget, is held when it has none, and an absent page halts the
engine, a refused byte refuses the walk. A reply lands in the ring; one of a stopping engine is discarded. An
outbound engine writes its oldest beat not yet written, in the same way; a stopping one drops it at an absent page,
and a version that must be made first is started. An acknowledged beat leaves the ring, the last one making a
draining engine idle. A stopping engine with nothing outstanding becomes idle. CELL_SRESUME gives the halted engines
among those written their resume and changes nothing else; a halted engine with its resume is in the state before its
halt again and translates once more. Island cycles pass until ISL_CYCLE is a multiple of 256, none if it is. The
budgets of the island and of its cells in the window that then starts are the fields of ISL_DAMP and CELL_DAMP,
unless they have been held in that window already; cells and islands change in nothing else but the beats that the
damper holds, and no register but ISL_CYCLE and, when a beat is held, the count of cycles it is. -/
def Obligations.StreamEngineEvents : Prop :=
  (∀ (s : State) (c : CellRef) (e : BitVec 2), s.cellExists c = true → s.scanHeld c.isl = false →
     let z := s.cell c
     let n := e.toNat
     let x := z.eng n
     let d := z.descOf x.slot
     let t := (s.isl c.isl).table
     let ag := islAgent c.isl
     let put := fun (y : Engine) => s.updCell c (fun z => z.setEng n y)
     let request := exec (.streamBeatRequest c e) s
     let write := exec (.streamBeatWrite c e) s
     (z.mayRequest n = false → request = .next s) ∧
     (z.mayRequest n = true →
       let u := s.learnBeat c.isl t (d.bytes x.next)
       let reads := transBytes (fun va => u.transRead ag t va (u.running t)) (d.bytes x.next)
       (∀ va, reads = .absent va → request = .next (u.halt c n x.next va)) ∧
       (∀ code, reads = .refused code → request = .next (u.refuseWalk c n code)) ∧
       (∀ l, reads = .go l → u.dampOpen c (u.beatClass l) = true →
         request = .next (((u.debit c n (u.beatClass l)).updCell c (fun z => z.setEng n
           { x with next := x.next + 1, ring := x.ring ++ [⟨x.next, List.replicate 32 0, (u.runs l []).length, true⟩] })).requestRuns
             c n x.next (u.runs l []))) ∧
       (∀ l, reads = .go l → u.dampOpen c (u.beatClass l) = false → request = .next (u.dampHold c n (u.beatClass l)))) ∧
     (x.mayWrite = false → write = .next s) ∧
     (∀ b, x.mayWrite = true → x.ring.find? (fun b => !b.issued) = some b →
       let u := s.learnBeat c.isl t (d.bytes b.idx)
       let writes := transBytes (fun va => u.transWrite ag t va (u.running t)) (d.bytes b.idx)
       (∀ va, writes = .absent va → x.state ≠ .stopping → write = .next (u.halt c n b.idx va)) ∧
       (∀ va, writes = .absent va → x.state = .stopping → write = .next (u.dropBeat c n b.idx)) ∧
       (∀ code, writes = .refused code → write = .next (u.refuseWalk c n code)) ∧
       (∀ st p, writes = .version st p → write = .next (u.startVersion t p st)) ∧
       (∀ l, writes = .go l → u.dampOpen c (u.beatClass l) = true →
         write = .next (((u.debit c n (u.beatClass l)).updCell c (fun z => z.setEng n
           { x with ring := x.ring.map (fun y => if y.idx = b.idx then { y with need := (u.runs l []).length, issued := true } else y) })).writeRuns
             c n b.idx (maskBeat d b.idx b.bytes) (u.runs l []))) ∧
       (∀ l, writes = .go l → u.dampOpen c (u.beatClass l) = false → write = .next (u.dampHold c n (u.beatClass l)))) ∧
     (∀ (r : Landing) rest b, x.replies = r :: rest → x.ring = [b] → b.idx = r.idx → b.need = 1 →
       let bs := overlay b.bytes r.off r.bytes
       (x.state ≠ .stopping → exec (.streamBeatLand c e) s = .next ((put { x with replies := rest, ring := [{ b with bytes := bs, need := 0 }] }).sramLane
         c (ringAt d b.idx) (maskBeat d b.idx bs) none)) ∧
       (x.state = .stopping → exec (.streamBeatLand c e) s = .next (put { x with replies := rest, ring := [] }))) ∧
     (∀ i rest b, x.dones = i :: rest → x.ring = [b] → b.idx = i → b.need = 1 → b.issued = true →
       exec (.streamWriteDone c e) s = .next (put { x with dones := rest, ring := [], state := if x.state = .draining then .idle else x.state })) ∧
     (x.state = .stopping → x.ring = [] → x.replies = [] → x.dones = [] →
       exec (.streamStopDone c e) s = .next (put { x with state := .idle })) ∧
     (∀ engines : BitVec 4, s.Canon → SMap.wf Engine.dflt z.engines = true →
       ∃ u, exec (.cellSresumeWrite c engines) s = .next u ∧
         (∀ j, j < 4 → (u.cell c).eng j =
           if engines.getLsbD j = true ∧ (z.eng j).state = .halted then { z.eng j with resume := true } else z.eng j) ∧
         { u.cell c with engines := z.engines } = z ∧ (∀ k, gid k ≠ gid c → u.cell k = s.cell k) ∧ { u with cells := s.cells } = s) ∧
     (x.state = .halted → x.resume = true →
       let s1 := put { x with state := x.prev, resume := false }
       exec (.streamResume c e) s = exec (if x.dir then .streamBeatWrite c e else .streamBeatRequest c e) s1) ∧
     (x.state ≠ .halted ∨ x.resume = false → exec (.streamResume c e) s = .next s)) ∧
  (∀ (s : State) (i : Nat), s.Canon → i < 192 →
     let cyc := (s.reg (R.islCycle i)).toNat
     let next := BitVec.ofNat 64 (cyc + (256 - cyc % 256) % 256)
     let w := next.toNat / 256
     let f := fun (cls a : Nat) => budgetField cls (s.reg a)
     ∃ t, exec (.damperWindow i) s = .next t ∧
       t.reg (R.islCycle i) = next ∧ (∀ a, a ≠ R.islCycle i → a ≠ R.dampHeld i → t.reg a = s.reg a) ∧
       ((s.isl i).dheld = [] → t.reg (R.dampHeld i) = s.reg (R.dampHeld i) ∧ (t.isl i).dheld = []) ∧
       (let x := s.isl i
        let a := R.islDamp i
        t.isl i = if x.dampW = some w then { x with dheld := (t.isl i).dheld }
          else { x with dampS := f 0 a, dampN := f 1 a, dampF := f 2 a, dampW := some w, dheld := (t.isl i).dheld }) ∧
       (∀ j, j ≠ i → t.isl j = s.isl j) ∧
       (∀ c, c < s.cellCount i →
         let x := s.cell ⟨i, c⟩
         let a := R.cellDamp ⟨i, c⟩
         t.cell ⟨i, c⟩ = if x.dampW = some w then x else { x with dampS := f 0 a, dampN := f 1 a, dampF := f 2 a, dampW := some w }) ∧
       (∀ k, k.isl ≠ i → k.c < 16 → t.cell k = s.cell k) ∧ { t with regs := s.regs, isls := s.isls, cells := s.cells } = s)

/-- R255, R262, R263, R264, R266, R313: a write that lands in a memory cell's SRAM outside a sieve's window and area
writes its bytes and nothing else; whole beats inside the window whose pairs all have a list are also taken as pairs,
counted in SIEVE_STAT; one that is not whole beats raises E_ALIGN, and a pair without a list E_FIELD_RESERVED, at a
cell and island that have not faulted; a mesh write of an earlier command of the cell's table into the window is
discarded and counted. A flush writes its image a beat at a time, and once its image is written the word of the
oldest flush, in a block that holds no upset, is filled if it is empty and no other request is under way; a full word
makes the fill wait. -/
def Obligations.SieveTakesAndFlushes : Prop :=
  ∀ (s : State) (c : CellRef) (off : Nat) (data : List Byte), s.Canon → s.cellExists c = true → isMemCell c = true →
    off + data.length ≤ sramSize c →
    let v := (s.cell c).sieve
    let land := fun (mesh : Option (Nat × BitVec 8)) => exec (.sieveBeatLand c off data none mesh) s
    let written := s.wrN (sramBase c + off) data
    let took := fun (m : SMap (List Pair)) (n : Nat) =>
      (written.updCell c (fun x => { x with sieve := { x.sieve with lists := m } })).incFld (R.sieveStat c) 39 0 n
    let faults := fun (u : State) (e : Code) => .next ((u.faultNoWord c e).islandFault c e)
    let runs := s.islFaulted c.isl = false ∧ (s.cell c).run ≠ .faulted
    let inside := svEn v.cfg = true ∧ svWBase v.cfg ≤ off ∧ off + data.length ≤ svWBase v.cfg + svWSize v.cfg ∧ s.inArea c off data.length = false
    let flush := exec (.sieveFlushBeat c) s
    (s.sieveTakes c off data.length = false → land none = .next written) ∧
    (∀ m n bad, off % 32 = 0 → data.length % 32 = 0 → 0 < data.length → inside →
      sieveTake (svFmt v.cfg) (svK v.cfg) (svLists v.cfg) none (pairsOf data) v.lists 0 = (m, n, bad) →
      (bad = false → land none = .next (took m n)) ∧ (bad = true → runs → land none = faults (took m n) K.eFieldReserved)) ∧
    (off % 32 ≠ 0 ∨ data.length % 32 ≠ 0 → 0 < data.length → inside → runs → land none = faults written K.eAlign) ∧
    (∀ ep, s.inWin c off data.length = true → ep ≠ s.ecmd (s.isl c.isl).table →
      land (some ((s.isl c.isl).table, ep)) = .next (s.satFld (R.sieveStat c) 55 40 1)) ∧
    (∀ f fs, v.flushes = f :: fs → f.left ≠ [] →
      flush = .next ((s.wrN (sramBase c + f.at_) (f.left.take 32)).updCell c (fun z => { z with
        sieve := { z.sieve with flushes := { f with at_ := f.at_ + 32, left := f.left.drop 32 } :: fs } }))) ∧
    (∀ f fs, v.flushes = f :: fs → f.left = [] → s.syncs = [] →
      let fill := exec (.sieveFlushFill c) s
      ((s.cell c).feBit (f.word / 8) = false → s.plain (sramBase c + 8 * (f.word / 8)) 8 = true →
        fill = .next (({ s with syncNext := s.syncNext + 1 }.wordSet (.sram c (f.word / 8)) (BitVec.ofNat 64 f.count) true).popFlush (gid c))) ∧
      ((s.cell c).feBit (f.word / 8) = true → ∃ r, fill = .next { s with syncNext := s.syncNext + 1, syncs := [r] } ∧
        r.who = .sieve (gid c) ∧ r.v = .stef ∧ r.home = .sram c (f.word / 8) ∧ r.value = BitVec.ofNat 64 f.count ∧ r.stage = .parked))

/-- R244, R245: a step of the dimension-ordered route goes along the island row until the packet stands in its
destination's column, then along the column; it brings the packet one island closer. -/
def Obligations.RoutesApproach : Prop :=
  ∀ (a d : Nat), a < 192 → d < 192 → a ≠ d →
    ∃ n seam, nextHop a d = some (n, seam) ∧ n < 192 ∧
      (islCol a ≠ islCol d → islRow n = islRow a ∧
        (if islCol a < islCol d then islCol n = islCol a + 1 else islCol n + 1 = islCol a)) ∧
      (islCol a = islCol d → islCol n = islCol a ∧
        (if islRow a < islRow d then islRow n = islRow a + 1 else islRow n + 1 = islRow a)) ∧
      (seam = true ↔ islDie a ≠ islDie n)

/-- R240, R242, R244, R245, R247, R248, R250: a packet with no symbol upset that is first of its buffer and not
waiting to enter advances a hop towards its destination when the buffer it would come into has room, counting 1 mesh
cycle and 8 more over the seam; at its stop it is taken by its agent, a reply of a killed command being discarded and
counted; a multicast copy is written in the SRAM or the vault it names, in blocks that hold no upset, or counted as
refused where its island is of another table. -/
def Obligations.MeshPackets : Prop :=
  ∀ (s : State) (k : Nat) (p : Packet), s.mesh[k]? = some p →
    let s1 := { s with mesh := s.mesh.eraseIdx k }
    let hop := exec (.meshHop ⟨k, []⟩) s
    let eject := exec (.meshPacketEject k []) s
    let goes := p.arrived = false ∧ p.port ≠ 5 ∧ s.isHead k p = true
    let atStop := p.mc = false ∧ p.port ≠ 5 ∧ agentStop p.dst = some p.at_ ∧ s.isHead k p = true
    (∀ d n seam, goes → p.mc = false → agentStop p.dst = some d → nextHop p.at_ d = some (n, seam) →
      let q := { p with at_ := n, port := entryPort p.at_ n, cyc := p.cyc + (if seam then 9 else 1), todo := none }
      (s.bufFlits q + p.flits ≤ 5 → hop = .next { s with mesh := s.mesh.eraseIdx k ++ [q] }) ∧
      (5 < s.bufFlits q + p.flits → hop = .next s)) ∧
    (s.isHead k p = false → hop = .next s ∧ eject = .next s) ∧
    (atStop → s.staleReply p = false → p.op = .read →
      eject = .next (s1.acceptMem p.dst ⟨false, p.addr, p.len, [], p.src, p.tag, p.table, p.cmd⟩)) ∧
    (atStop → s.staleReply p = false → p.op = .write → s.dealHeldPA p.addr p.data.length = false →
      eject = .next (s1.acceptMem p.dst ⟨true, p.addr, p.len, p.data, p.src, p.tag, p.table, p.cmd⟩)) ∧
    (atStop → p.op = .write → s.dealHeldPA p.addr p.data.length = true → eject = .next s) ∧
    (atStop → s.staleReply p = false → p.op = .readReply → eject = .next (s1.deliverReply p.tag false p.status p.data)) ∧
    (atStop → s.staleReply p = false → p.op = .writeAck → eject = .next (s1.deliverReply p.tag true p.status [])) ∧
    (atStop → s.staleReply p = false → p.op = .sync → eject = .next (s1.syncArrive p.syncId)) ∧
    (∀ r st v, atStop → s.staleReply p = false → p.op = .syncReply → s.syncs = [r] → r.id = p.syncId → r.stage = .replying st v →
      eject = .next { s1 with syncs := [{ r with stage := .replied st v }] }) ∧
    (atStop → s.staleReply p = true → p.op = .readReply ∨ p.op = .writeAck → (∀ r ∈ s.syncs, r.id ≠ s.syncNext) →
      eject = .next (s1.incFld (R.islMesh p.at_) 31 0 1)) ∧
    (atStop → s.staleReply p = true → p.op = .syncReply →
      eject = .next ((s1.incFld (R.islMesh p.at_) 31 0 1).dropSync p.syncId)) ∧
    (p.mc = true → p.arrived = true → (∀ q ∈ s.mesh.take k, (q.mc && q.arrived && q.at_ == p.at_) = false) →
      let copy := exec (.multicastWrite ⟨p.at_, []⟩) s
      let kc : CellRef := ⟨p.at_, p.arg / 2 % 16⟩
      let off := p.arg / 32
      let member := s.fld (R.islMcg p.at_ p.dst) 23 16 = (s.isl p.at_).table ∧ p.arg < 2 ^ 35
      (p.arg % 2 = 1 ∨ s.dealHeld kc off p.data.length = false →
        s.fld (R.islMcg p.at_ p.dst) 23 16 ≠ (s.isl p.at_).table → copy = .next (s1.incFld (R.islMesh p.at_) 63 32 1)) ∧
      (member → p.arg % 2 = 0 → s.dealHeld kc off p.data.length = false → s.cellExists kc = true → off + p.data.length ≤ sramSize kc →
        s.sieveTakes kc off p.data.length = false → s.plain (sramBase kc + off) p.data.length = true →
        (∃ u, copy = .next u ∧ (∀ j, j < p.data.length → u.rd (sramBase kc + off + j) = p.data.getD j 0) ∧
          (∀ a, (a < sramBase kc + off ∨ sramBase kc + off + p.data.length ≤ a) → u.rd a = s.rd a) ∧ { u with mem := s.mem, bad := s.bad } = s1)) ∧
      (member → p.arg % 2 = 1 → off + p.data.length ≤ 0x40000000 → s.plain (vaultBase p.at_ + off) p.data.length = true →
        (∃ u, copy = .next u ∧ (∀ j, j < p.data.length → u.rd (vaultBase p.at_ + off + j) = p.data.getD j 0) ∧
          (∀ a, (a < vaultBase p.at_ + off ∨ vaultBase p.at_ + off + p.data.length ≤ a) → u.rd a = s.rd a) ∧ { u with mem := s.mem, bad := s.bad } = s1)))

/-- R278, R280, R281, R296, R297, R306: a vault and a far channel serve the request at the front of their queue: the
bytes of a read and the acknowledgement of a write go back, and where a block is uncorrectable the error
E_MEM_UNCORRECTABLE. The end of LPDDR6 training shows the population in use, the density and the failed channels in
MEM_FAR of both dies, reports failed channels with E_FAR_TRAINING, and changes nothing else. -/
def Obligations.MemoryServes : Prop :=
  ∀ (s : State) (i : Nat) (u : Upset) (r : MemReq) (rest : List MemReq),
    let served := fun (q here die cls : Nat) (rd wr : Res) =>
      s.queue q = r :: rest →
      (r.write = false → ∀ s1 ok, (s.setQueue q rest).readRange die cls r.table u (blocksOf r.pa r.len) = (s1, ok) →
        rd = .next (if ok then s1.replyMem here r 0 (s1.rdN r.pa r.len) else s1.replyMem here r 0x0203 [])) ∧
      (r.write = true → ∀ s1 ok, (s.setQueue q rest).writeRange die cls r.table r.pa r.data u = (s1, ok) →
        wr = .next (s1.replyMem here r (if ok then 0 else 0x0203) []))
    served (vaultQ i) (islAgent i) (islDie i) 1 (exec (.vaultRead i u) s) (exec (.vaultWrite i u) s) ∧
    served (farQ i) (farAgent i) (i / 16) 2 (exec (.farDramAccess i u) s) (exec (.farDramAccess i u) s) ∧
    ∀ (n : BitVec 5) (density : BitVec 2) (ranks rate : Bool) (f0 f1 : BitVec 16), s.Canon → density ≠ 3 →
      ∃ t, exec (.lpddr6TrainingDone n density ranks rate f0 f1) s = .next t ∧
        (∀ d, d < 2 → t.fld (R.memFar d) 4 0 = farUse n.toNat f0 f1 ∧ t.fld (R.memFar d) 6 5 = density.toNat ∧
          t.fld (R.memFar d) 31 16 = (if d = 0 then f0 else f1).toNat) ∧
        (∀ a, a ≠ R.memFar 0 → a ≠ R.memFar 1 → t.reg a = s.reg a) ∧ { t with regs := s.regs, out := s.out } = s ∧
        (f0 ||| f1 = 0 → t.out = s.out) ∧ (f0 ||| f1 ≠ 0 → ∃ a, t.out = s.out ++ [.report K.eFarTraining a])

/-- R285, R287 to R289, R291, R292, R304, R305: a version copy in progress completes. The sweep after a commit passes
over every record and ends with no version held; of a table with one record, whose blocks hold no upset, a version of
the committed command becomes the page and its old frame returns to the pool, and in a drop after a kill, or when it
is of another command, the version returns. The copy engine reads the next step-pending page, sends it to the kitty
if the job has a partner, and when its copy is complete counts it, the last one ending the copy with a seal. An
invalidation shows busy until it is done, and then every translation cache has lost the entries it names and no
others. A free populated DRAM frame outside the reserved windows joins the pool of its class. -/
def Obligations.PageEvents : Prop :=
  ∀ (s : State) (die : BitVec 1) (t : Nat),
    let d := die.toNat
    let swept := exec (.versionSweepDone t) s
    let ended := fun (u : State) =>
      ((u.setBoth (fun d => R.mmuTcmd d t) 17 17 0).setBoth (fun d => R.mmuTcmd d t) 47 32 0).updTbl t (fun x => { x with dropping := false, armNow := false })
    (∀ v, s.copying d = some v → exec (.versionCopyDone die) s = .next (s.finishVersion d v)) ∧
    (s.sweeping t = true → s.Canon → ∃ u, swept = .next u ∧ u.sweeping t = false ∧ u.fld (R.mmuTcmd 0 t) 47 32 = 0) ∧
    (∀ pa, s.sweeping t = true → s.nrec t = 1 → s.recEntry t 0 = some pa → s.upsetOf (blockOf (s.recAddr t 0)) = [] → s.upsetOf (blockOf pa) = [] →
      (s.vrec t 0).wvalid = true → (s.vrec t 0).kvalid = false →
      let r := s.vrec t 0
      let none_ : VRec := ⟨0, r.k, 0, false, false⟩
      ((s.tbl t).dropping = false → r.wcmd = s.ccmd t → s.stepPending t ⟨pa, s.rd64 pa, false⟩ = false → swept = .next (ended
        ((((s.wrEntry pa (PageEnt.withFrame (s.rd64 pa) r.w)).giveFrame (PageEnt.frame ⟨pa, s.rd64 pa, false⟩)).setVrec t 0 none_).freeEntry t 0 pa))) ∧
      ((s.tbl t).dropping = true ∨ r.wcmd ≠ s.ccmd t → swept = .next (ended (((s.giveFrame r.w).setVrec t 0 none_).freeEntry t 0 pa)))) ∧
    (∀ va e rest s1 bs, s.fld (R.mmuTstep 0 t) 0 0 = 1 → (s.tbl t).copyPage = none → s.stepPages t = (va, e) :: rest →
      s.takePA t (s.stepFrame t e) 0x10000 = (s1, some bs) →
      let s2 := s1.updTbl t (fun x => { x with copyPage := some va })
      (bit 33 (s2.reg (R.gulJmap1 0 t)) = false → exec (.stepCopyPage t) s = .next s2) ∧
      (bit 33 (s2.reg (R.gulJmap1 0 t)) = true → exec (.stepCopyPage t) s =
        .next (s2.sendAll (s2.tableDie t) (kittyPuts (s2.toPartner t) va (s2.fld (R.mmuTstep 0 t) 1 1) bs)))) ∧
    (∀ va e, (s.tbl t).copyPage = some va →
      let s0 := s.updTbl t (fun x => { x with copyPage := none })
      let s1 := s0.copied t e
      let n := s1.fld (R.mmuTstep 0 t) 63 32
      let s2 := s1.setBoth (fun d => R.mmuTstep d t) 63 32 (n - 1)
      s0.walk t va = .page e →
      (1 < n → exec (.stepCopyPageDone t) s = .next s2) ∧
      (n = 1 → exec (.stepCopyPageDone t) s = .next ((s2.setBoth (fun d => R.mmuTstep d t) 0 0 0).sendSeal t))) ∧
    (∀ (tb : BitVec 8) (all : Bool) (va : BitVec 32), exec (.mmuInv die tb all va) s =
      .next { s.setFld (R.mmuInvStat d) 0 0 1 with invs := s.invs ++ [(d, tb.toNat, if all then none else some va.toNat)] }) ∧
    (∃ u, exec (.mmuInvDone die) s = .next u ∧ u.reg (R.mmuInvStat d) = (s.setFld (R.mmuInvStat d) 0 0 0).reg (R.mmuInvStat d) ∧
      (∀ v, v ∈ u.invs ↔ v ∈ s.invs ∧ v.1 ≠ d) ∧
      (∀ x, x ∈ u.tlb ↔ x ∈ s.tlb ∧ ∀ v ∈ s.invs, v.1 = d → x.named v.2.1 v.2.2 = false) ∧
      { u with regs := s.regs, invs := s.invs, tlb := s.tlb } = s) ∧
    (∀ (frame : BitVec 32) die' far, let a := frame.toNat * 2 ^ 16
      s.populated a 0x10000 = true → s.inWindow a = false → s.retired.contains a = false → s.frameClass a = some (die', far) →
      exec (.mmuPoolPush die frame) s = .next (s.setPool d far (s.pool d far ++ [a])))

/-- R299, R301: a write of RAKE_CFG or RAKE_RATE sets all three copies, so that the majority is the value written
whatever one copy then holds; the rake reads the next block of its class and moves on, and behind the last block it
starts its class anew, counts the pass and votes over its copies. -/
def Obligations.RakeCopiesAndBlocks : Prop :=
  ∀ (s : State) (die : BitVec 1) (value : Word) (cls : BitVec 2) (u : Upset),
    let d := die.toNat
    let r := s.rake d
    (∃ r', exec (.rakeCfgWrite die value) s = .next (s.setRake d r') ∧ r'.cfg = value &&& 1 ∧
      r'.rate = r.rate ∧ r'.sram = r.sram ∧ r'.near = r.near ∧ r'.far = r.far ∧
      ∀ x, ({ r' with cfg0 := x }).cfg = value &&& 1 ∧ ({ r' with cfg1 := x }).cfg = value &&& 1 ∧ ({ r' with cfg2 := x }).cfg = value &&& 1) ∧
    (∃ r', exec (.rakeRateWrite die value) s = .next (s.setRake d r') ∧ r'.rate = value &&& 0xFFFFFFFFFFFF ∧ r'.cfg = r.cfg ∧
      r'.sram = r.sram ∧ r'.near = r.near ∧ r'.far = r.far ∧ ∀ x, ({ r' with rate0 := x }).rate = value &&& 0xFFFFFFFFFFFF ∧
        ({ r' with rate1 := x }).rate = value &&& 0xFFFFFFFFFFFF ∧ ({ r' with rate2 := x }).rate = value &&& 0xFFFFFFFFFFFF) ∧
    (∀ a s1 o, cls.toNat < 3 → bit 0 r.cfg = true → field (16 * cls.toNat + 15) (16 * cls.toNat) r.rate ≠ 0 →
      s.rakeBlock d cls.toNat (r.pos cls.toNat) = some a →
      s.readBlock d cls.toNat (s.blockTable a) a u = (s1, o) →
      let more := (s1.rakeBlock d cls.toNat (r.pos cls.toNat + 1)).isSome
      let s2 := if more then s1.setRake d (r.setPos cls.toNat (r.pos cls.toNat + 1))
        else ((s1.setRake d (r.setPos cls.toNat 0)).incFld (R.rakeStat d) 31 0 1).rakeVote d
      exec (.rakeBlock die cls u) s = .next (s2.setFld (R.rakePos d) 47 0 ((s2.rakeBlock d 1 (s2.rake d).near).getD 0)))

/-! ### Synchronisation, channels, mailboxes -/

/-- R297, R309, R312, R313, R315, R319, R321, R322: a request alone at its home, whose block the memory has read. The
variants of FELD and FEST act on the word and its full/empty bit as R313's table says, answering the old value, and
those that must wait become waiters; RSET sets a round up that is not under way; RWAIT and RPASS count an arrival,
complete a generation, or arrive early for the next while one is released. A round that is not set up, and a reset of
one under way, answer E_ROUND_STATE, an arrival too many E_ROUND_OVER. A cell's request for a word of another table
gets E_SYNC_FOREIGN, one for a word in an uncorrectable block E_MEM_UNCORRECTABLE. -/
def Obligations.SyncOperationsAtHome : Prop :=
  ∀ (s : State) (x : SyncReq), s.syncs = [x] → x.stage = .atHome →
    let h := x.home
    let u := s.readBlocks x.table (State.homeBlocks h)
    let v := (u.wordGet h).1
    let full := (u.wordGet h).2
    let own := u.wordOwner h
    let r := exec (.syncOperation x.id) s
    let rd := u.round h
    let foreign := (∃ g, x.who = .cell g) ∧ own ≠ x.table ∧ own ≠ 0
    let answers := fun (code : Code) => r = .next (u.syncAnswer x code 0)
    let becomes := fun (w : Word) (f : Bool) => r = .next ((u.wordSet h w f).syncAnswer x 0 v)
    let waits := r = .next { u with syncs := [{ x with stage := .parked, early := false }] }
    let arrival := full = true ∧ rd.n ≠ 0
    let early := u.setRound h { rd with e := rd.e + 1 }
    (foreign → answers K.eSyncForeign) ∧
    (¬ foreign → u.homeSpoilt h = true → answers K.eMemUncorrectable) ∧
    (¬ foreign → u.homeSpoilt h = false →
      (x.v = .ldfe → (full = true → becomes v false) ∧ (full = false → waits)) ∧
      (x.v = .ldff → (full = true → becomes v true) ∧ (full = false → waits)) ∧
      (x.v = .ldxx → becomes v full) ∧ (x.v = .ldxe → becomes v false) ∧
      (x.v = .stef → (full = false → becomes x.value true) ∧ (full = true → waits)) ∧
      (x.v = .stxf → becomes x.value true) ∧ (x.v = .stxe → becomes x.value false) ∧
      (x.v = .stff → (full = true → becomes x.value true) ∧ (full = false → waits)) ∧
      (x.v = .rset →
        (field 15 0 x.value ≠ 0 → (full = false ∨ (rd.a = 0 ∧ rd.e = 0 ∧ rd.drain = false)) → becomes (x.value &&& 0xFFFF) true) ∧
        (field 15 0 x.value = 0 ∨ (full = true ∧ (rd.a ≠ 0 ∨ rd.e ≠ 0 ∨ rd.drain = true)) → answers K.eRoundState)) ∧
      (x.v = .rwait ∨ x.v = .rpass → ¬ arrival → answers K.eRoundState) ∧
      (x.v = .rwait ∨ x.v = .rpass → arrival → rd.drain = true → rd.n ≤ rd.e → answers K.eRoundOver) ∧
      (x.v = .rpass → arrival →
        (rd.drain = false → rd.a + 1 < rd.n → r = .next ((u.setRound h { rd with a := rd.a + 1 }).syncAnswer x 0 0)) ∧
        (rd.drain = false → rd.n ≤ rd.a + 1 →
          r = .next (((u.setRound h { rd with a := rd.n, drain := true }).syncAnswer x 0 0).roundSettle h)) ∧
        (rd.drain = true → rd.e < rd.n → r = .next (early.syncAnswer x 0 0))) ∧
      (x.v = .rwait → arrival →
        (rd.drain = false → rd.a + 1 < rd.n → r = .next ((u.setRound h { rd with a := rd.a + 1 }).park x false)) ∧
        (rd.drain = false → rd.n ≤ rd.a + 1 →
          r = .next (((u.setRound h { rd with a := rd.n, drain := true }).park { x with ruled := true } false).roundSettle h)) ∧
        (rd.drain = true → rd.e < rd.n → r = .next (early.park x true))))

/-- R311, R314, R316, R317, R318, R321, R322, R334, R310, R312, R313, R336: a reply gives the cell's word its answer,
TIMED_OUT one that failed, any other status a sync event, and a steward core's reply shows in SYNC_PRES and
SYNC_PRVAL; a refused request is sent again 32 ticks after its retry reply; a waiter's timeout event goes out at its
deadline, and the dealer's order of the two events decides the wait; a released round answers its waiters in arrival
order with its generation. A reset of its words shows busy in SYNC_INV_STAT until it is done, and then the ports have
lost the identifiers it names and no others. A write of SYNC_PID on a steward core's port that has no request
outstanding and whose core is not fenced translates its identifier, the port keeping the entry, and sends the
operation of its variant for the word it names, the port then showing not done; a failed translation shows its code
in SYNC_PRES; a write while one is outstanding is discarded. -/
def Obligations.SyncRepliesAndPorts : Prop :=
  (∀ (s : State) (x : SyncReq) (die : BitVec 1) (tb : BitVec 8) (all : Bool) (sid : BitVec 16), s.syncReq x.id = some x →
     let s1 := s.dropSync x.id
     let d := die.toNat
     let reply := exec (.syncReply x.id) s
     (∀ g v, x.stage = .replied 0 v → x.who = .cell g → (s.cell (ofGid g)).sync = .waiting x.id →
       reply = .next (s1.updCell (ofGid g) (fun c => { c with sync := .answered true v }))) ∧
     (∀ g v, x.stage = .replied 0x0401 v → x.who = .cell g → (s.cell (ofGid g)).sync = .waiting x.id →
       reply = .next (s1.updCell (ofGid g) (fun c => { c with sync := .answered false v }))) ∧
     (∀ g st v, x.stage = .replied st v → st ≠ 0 → st ≠ 0x0401 → x.who = .cell g → (s.cell (ofGid g)).sync = .waiting x.id →
       reply = .next (s1.syncFailed (ofGid g) st)) ∧
     (∀ n st v, x.stage = .replied st v → x.who = .core n →
       reply = .next ((s1.setReg (R.syncPres n) (BitVec.ofNat 64 (st.toNat + 2 ^ 16))).setReg (R.syncPrval n) v)) ∧
     (x.stage = .retry → exec (.syncRetry x.id) s = .next (((s.until (x.since + 32)).dropSync x.id).sendSync x)) ∧
     (x.timed = true → x.stage = .parked ∨ x.stage = .satisfiable → x.ruled = false → x.expired = false →
       exec (.syncDeadline x.id) s = .next ((s.setSync x.id (fun r => { r with expired := true })).until x.deadline)) ∧
     (x.stage = .satisfiable → x.v.isRound = false →
       exec (.dealerSatisfy x.id) s = .next (((s.perform x).dealerSees (homeDieOf x.home)).wordGoesOn x.home)) ∧
     (x.stage = .satisfiable → x.v.isRound = true → exec (.dealerSatisfy x.id) s = .next
       (((s.setSync x.id (fun r => { r with ruled := true, stage := .parked })).dealerSees (homeDieOf x.home)).roundGoesOn x.home)) ∧
     (x.expired = true → x.ruled = false → x.stage = .parked ∨ x.stage = .satisfiable →
       (x.v.isRound = false →
         exec (.dealerTimeout x.id) s = .next (((s.syncAnswer x 0x0401 0).dealerSees (homeDieOf x.home)).wordGoesOn x.home)) ∧
       (x.v.isRound = true → exec (.dealerTimeout x.id) s = .next
         ((((s.roundWithdraw x).syncAnswer x 0x0401 0).dealerSees (homeDieOf x.home)).roundGoesOn x.home))) ∧
     ((s.wordGet x.home).2 = true → (s.round x.home).drain = true →
       (∀ rest, s.roundWaiters x.home = x :: rest →
         exec (.roundRelease x.home) s = .next ((s.syncAnswer x 0 (BitVec.ofNat 64 ((s.round x.home).gen % 4))).roundSettle x.home)) ∧
       (s.roundWaiters x.home = [] → exec (.roundRelease x.home) s = .next (s.roundSettle x.home))) ∧
     exec (.syncInv die tb all sid) s =
       .next { s.setFld (R.syncInvStat d) 0 0 1 with sinvs := s.sinvs ++ [(d, tb.toNat, if all then none else some sid.toNat)] } ∧
     (∃ u, exec (.syncInvDone die) s = .next u ∧ u.reg (R.syncInvStat d) = (s.setFld (R.syncInvStat d) 0 0 0).reg (R.syncInvStat d) ∧
       (∀ v, v ∈ u.sinvs ↔ v ∈ s.sinvs ∧ v.1 ≠ d) ∧
       (∀ y, y ∈ u.slb ↔ y ∈ s.slb ∧ ∀ v ∈ s.sinvs, v.1 = d → ¬ (y.table = v.2.1 ∧ (v.2.2 = none ∨ v.2.2 = some y.id))) ∧
       { u with regs := s.regs, sinvs := s.sinvs, slb := s.slb } = s)) ∧
  (∀ (s : State) (core : Nat) (id : BitVec 16) (t : BitVec 8) (timed : Bool), core < 32 →
     let done := bit 16 (s.reg (R.syncPres core)) = true ∧ bit (core % 16) (s.reg (R.rstFence (core / 16))) = false
     let u := s.syncLearn (coreAgent core) (core / 16) t.toNat (id.setWidth 64)
     let trans := u.syncTrans (coreAgent core) (core / 16) t.toNat (id.setWidth 64)
     let op := fun (v : SyncV) (i : Instr) =>
       (bit 16 (s.reg (R.syncPres core)) = false → exec i s = .next s) ∧
       (∀ e, done → trans = .error e → exec i s = .next (u.setReg (R.syncPres core) (BitVec.ofNat 64 (e.toNat + 2 ^ 16)))) ∧
       (∀ h, done → trans = .ok h →
         exec i s = .next (({ u with syncNext := u.syncNext + 1 }.setReg (R.syncPres core) 0).sendSync
           { id := u.syncNext, who := .core core, v := v, home := h,
             value := if v = SyncV.rset then u.reg (R.syncPval core) &&& 0xFFFF else u.reg (R.syncPval core),
             timed := timed && v != SyncV.rset, deadline := u.gtime + u.reg (R.syncPtmo core), table := t.toNat,
             cmd := u.ecmd t.toNat, early := false, ruled := false, expired := false, stage := .travelling }))
     op .ldfe (.stewardFeld core id t 0 timed) ∧ op .ldff (.stewardFeld core id t 1 timed) ∧
     op .ldxx (.stewardFeld core id t 2 timed) ∧ op .ldxe (.stewardFeld core id t 3 timed) ∧
     op .stef (.stewardFest core id t 0 timed) ∧ op .stxf (.stewardFest core id t 1 timed) ∧
     op .stxe (.stewardFest core id t 2 timed) ∧ op .stff (.stewardFest core id t 3 timed) ∧
     op .rwait (.stewardRound core id t 0 timed) ∧ op .rpass (.stewardRound core id t 1 timed) ∧
     op .rset (.stewardRound core id t 2 timed))

/-- R323 to R327, R329, R336, R338: a channel that is not open opens empty with its ring, reader and sender; a
steward core's message on a channel it may send on waits in the channel, its payload read from memory without an
uncorrectable block, is placed when the ring has credit for it, and a steward sender's is then published by moving
the tail past it, a table's only once its command has committed; the reader moves the head forwards up to the tail by
multiples of 32 and not otherwise; an open channel is orphaned, and a message that is placed or published then is
dropped and counted. -/
def Obligations.Channels : Prop :=
  ∀ (s : State) (die : BitVec 1) (ch : BitVec 12) (m : ChMsg) (head : BitVec 32) (core : Nat) (handle : BitVec 16),
    let d := die.toNat
    let c := ch.toNat
    let on := m.die = d ∧ m.ch = c
    let place := exec (.channelPlace die ch) s
    let publish := exec (.channelPublish die ch) s
    let fits := placeMsg (s.chSize d c) (s.rtail d c) (s.chHead d c) m.bytes.length
    (∀ base l2 (reader sender : BitVec 12) skind, s.chmsgs = [] → s.chState d c ≠ 1 → 12 ≤ l2 → l2 ≤ 24 → base % 2 ^ l2 = 0 →
      (s.frameClass base).isSome = true →
      exec (.channelOpen die ch base l2 reader skind sender) s = .next ((((s.setReg (R.chnRing d c) (BitVec.ofNat 64 (base + l2 * 2 ^ 48))).setReg
        (R.chnPeer d c) (BitVec.ofNat 64 (reader.toNat + b2n skind * 2 ^ 12 + sender.toNat * 2 ^ 13 + 2 ^ 25))).setReg (R.chnPos d c) 0).setRtail d c 0)) ∧
    (∀ skip off rt, s.chmsgs = [m] → on → m.placed = false → s.chState d c ≠ 2 → fits = some (skip, off, rt) →
      place = .next (s.placeNow 0 m skip off rt)) ∧
    (s.chmsgs = [m] → on → m.placed = false → s.chState d c ≠ 2 → fits = none → place = .next s) ∧
    (s.chmsgs = [m] → on → m.placed = true → s.chState d c ≠ 2 → (s.chSkind d c = false ∨ m.committed = true) →
      publish = .next (({ s with chmsgs := [] }.setFld (R.chnPos d c) 31 0 m.slotEnd.toNat).incFld (R.chnStat d c) 47 32 1)) ∧
    (s.chmsgs = [m] → on → s.chSkind d c = true → m.committed = false → publish = .next s) ∧
    (s.chmsgs = [m] → on → s.chState d c = 2 →
      (m.placed = false → place = .next ((({ s with chmsgs := [] }.incFld (R.chnStat d c) 31 0 1).freeChbuf m).chPortDone m K.orphan)) ∧
      (m.placed = true → (s.chSkind d c = false ∨ m.committed = true) → publish = .next ({ s with chmsgs := [] }.incFld (R.chnStat d c) 31 0 1))) ∧
    (head.toNat % 32 = 0 → (head - s.chHead d c).toNat ≤ (s.chTail d c - s.chHead d c).toNat →
      exec (.chnPosHeadWrite die ch head) s = .next (s.setFld (R.chnPos d c) 63 32 head.toNat)) ∧
    (head.toNat % 32 ≠ 0 ∨ (s.chTail d c - s.chHead d c).toNat < (head - s.chHead d c).toNat →
      exec (.chnPosHeadWrite die ch head) s = .next s) ∧
    (s.chState d c = 1 → s.chmsgs = [] →
      exec (.channelOrphan die ch) s = .next ((s.setFld (R.chnPeer d c) 26 25 2).dealerSees d)) ∧
    (∀ d' c', s.portOpen core = true →
      s.sendCheck (handle.setWidth 64) (s.reg (R.syncPtmo core)).toNat 65528
        (fun die ch => s.chOfCore core die ch || (s.chSkind die ch && s.running (s.chSender die ch % 256))) = .ok (d', c') →
      (s.chState d' c' = 2 → exec (.stewardChannelSend core handle) s =
        .next ((s.setPres core K.orphan true).incFld (R.chnStat d' c') 31 0 1)) ∧
      (s.chState d' c' ≠ 2 →
        let a := (s.reg (R.syncPval core)).toNat
        let n := (s.reg (R.syncPtmo core)).toNat
        let u := s.readBlocks (s.chTable d' c') (blocksOf a n)
        u.spoilt a n = false →
        exec (.stewardChannelSend core handle) s = .next { u.setReg (R.syncPres core) 0 with
          chmsgs := u.chmsgs ++ [⟨d', c', .core core, s.chTable d' c', u.ecmd (s.chTable d' c'), s.decN a n, false, 0, false⟩] })) ∧
    (∀ e, s.portOpen core = true →
      s.sendCheck (handle.setWidth 64) (s.reg (R.syncPtmo core)).toNat 65528
        (fun die ch => s.chOfCore core die ch || (s.chSkind die ch && s.running (s.chSender die ch % 256))) = .error e →
      exec (.stewardChannelSend core handle) s = .next (s.setPres core e true)) ∧
    (s.portOpen core = false → exec (.stewardChannelSend core handle) s = .next s)

/-- R332: a ring sets its bits in MBX_BELL and passes a doorbell event to firmware for each bit newly set, in the
order of the bits, and none for a bit already set; firmware clears the bits it writes as 1. Nothing else changes but
the sequence number that the dealer gives each event. -/
def Obligations.Doorbells : Prop :=
  ∀ (s : State) (die : BitVec 1) (bits : Word), s.Canon →
    let d := die.toNat
    let old := s.reg (R.mbxBell d)
    (∃ t, exec (.mbxRing die bits) s = .next t ∧ t.reg (R.mbxBell d) = old ||| bits ∧
      t.events = s.events ++ ((List.range 64).filter (fun b => bit b bits && !bit b old)).map (fun b => (d, .doorbell b)) ∧
      (∀ a, a ≠ R.mbxBell d → a ≠ R.dlrSeq d → t.reg a = s.reg a) ∧ { t with regs := s.regs, events := s.events } = s) ∧
    (∃ t, exec (.mbxBellClear die bits) s = .next t ∧ t.reg (R.mbxBell d) = old &&& ~~~bits ∧
      (∀ a, a ≠ R.mbxBell d → t.reg a = s.reg a) ∧ t.withRegs s = s)

/-- R330, R331: a write of its owner (steward core m for mailbox m below 32, session n for mailbox 32 + n) to
MBX_DATA of an empty mailbox fills it and its dealer passes a mailbox event to firmware; one to a full mailbox is
discarded and MBX_CTL.overrun is set; one of anybody else only counts in MBX_CTL. Taking the word empties the mailbox
at a dealer instant and notifies its sender: a steward core by its MBXE interrupt, unless it has been reset since its
write, and a host session by a datagram. -/
def Obligations.Mailboxes : Prop :=
  ∀ (s : State) (die : BitVec 1) (m : Nat) (value : Word) (w : MbxWriter), s.Canon → m < 288 →
    let d := die.toNat
    let ctl := R.mbxCtl d m
    let write := exec (.mbxDataWrite die m w value) s
    let owner := (m < 32 ∧ w = .core m) ∨ (32 ≤ m ∧ w = .session (m - 32))
    let take := exec (.mbxTake die m) s
    let emptied := (s.setFld ctl 0 0 0).dealerSees d
    (owner → s.mbxFull d m = false → ∃ t, write = .next t ∧ t.mbxFull d m = true ∧ t.reg (R.mbxData d m) = value ∧
      t.events = s.events ++ [(d, .mailbox m)] ∧ t.mem = s.mem ∧ t.out = s.out) ∧
    (owner → s.mbxFull d m = true → ∃ t, write = .next t ∧ bit 2 (t.reg ctl) = true ∧ t.reg (R.mbxData d m) = s.reg (R.mbxData d m) ∧
      t.mbxFull d m = true ∧ t.events = s.events ∧ t.withRegs s = s) ∧
    (¬ owner → write = .next (s.satFld ctl 31 16 1)) ∧
    (s.mbxFull d m = true → ∃ t, take = .next t ∧ t.mbxFull d m = false ∧ t.reg (R.mbxData d m) = s.reg (R.mbxData d m) ∧
      t.fld (R.dlrSeq d) 47 0 = (s.fld (R.dlrSeq d) 47 0 + 1) % 2 ^ 48) ∧
    (s.mbxFull d m = true → m < 32 → s.mbxStale.contains (d * 288 + m) = false →
      take = .next { emptied with out := s.out ++ [.mbxe m] }) ∧
    (s.mbxFull d m = true → m < 32 → s.mbxStale.contains (d * 288 + m) = true → take = .next emptied) ∧
    (s.mbxFull d m = true → 32 ≤ m → take = .next (emptied.sendDev (m - 32) ⟨0x21, [BitVec.ofNat 8 d]⟩)) ∧
    (s.mbxFull d m = false → take = .next s)

/-! ### Tables, commands, jobs -/

/-- R27 to R29, R248, R303, R346, R348, R349, R356, R358, R360, R370, R380, R506, R546, R341, R342, R344: the life of
a table's command. A start takes the next command epoch, a rerun keeps the one its kill set; the lead of a spanning
job adds 1 to the job's command number and sends it to every rank, another rank takes the number sent. A commit
request of a dealt table is taken, waits for it to drain and then commits, or fails on tokens left by a clean-exit
hand, after a scan-in, a fault event or an uncorrectable error; of a table in another state it is refused. A kill and
a cancel request stop the table at once, or after a deal that has gone past its wait, and without a running command
only take their place in the dealer's order; the release ends them. The run-time limit, and an island's watchdog when
its period has passed without an issued word, fail the command. When the slice counter of a job's north-west island
ends, it stands at 0 and is off, and the grant is over: a plain job for whose islands no other waits gets a new one
and its run of kills is broken, a trump job keeps its islands. A waiting job is placed at the islands kept for it
once they are free, or, as the only job, at a free place of its shape, and stands there. -/
def Obligations.CommandsGrantsAndPlacement : Prop :=
  (∀ (s : State) (t : Nat) (m : StartMsg), s.Canon → SMap.wf Tbl.dflt s.tbls = true → t < 256 →
     let x := s.tbl t
     let start := exec (.commandStart ⟨t, m⟩) s
     let started := fun (ep : BitVec 8) (u : State) => start = .next u ∧ u.running t = true ∧ u.ecmd t = ep ∧ u.fld (R.mmuTcmd 0 t) 47 32 = 0 ∧
       (u.tbl t).since = s.gtime ∧ { u with regs := s.regs, tbls := s.tbls, jobs := s.jobs, out := s.out } = s
     let kill := fun (i : Instr) (k : KillTo) =>
       let s2 := (s.setRes t 0 (s.tbusy t)).homeSees t
       (s.tvalid t = true → s.running t = false → exec i s = .next s2) ∧
       (s.tvalid t = true → s.running t = true → s.spanning t = false →
         ((x.deal = .none ∨ ∃ img, x.deal = .wait img) → exec i s = .next (s2.beginKill t k)) ∧
         (∀ l, x.deal = .go l ∨ x.deal = .load l →
           exec i s = .next (s2.updTbl t (fun y => { y with kill := some (mergeKill y.kill k) })))) ∧
       (s.tvalid t = false → exec i s = .next s)
     (s.canStart t = true → s.spanning t = false → s.isRerun t m = false → ∃ u, started (s.ecmd t + 1) u ∧ u.out = s.out) ∧
     (s.canStart t = true → s.spanning t = false → s.isRerun t m = true → ∃ u, started (s.ecmd t) u ∧ u.out = s.out) ∧
     (s.canStart t = true → s.spanning t = true → s.rank t = 0 →
       ∃ u, started (if s.isRerun t m then s.ecmd t else s.ecmd t + 1) u ∧ u.cnum t = s.cnum t + 1 ∧
         ∀ r, r ∈ s.others t → ∃ num seqs, Out.start (s.jid t) ⟨s.cnum t + 1, num, seqs⟩ r ∈ u.out) ∧
     (s.canStart t = true → s.spanning t = true → s.rank t ≠ 0 →
       ∃ u, started (if s.isRerun t m then s.ecmd t else s.ecmd t + 1) u ∧ u.cnum t = m.cnum ∧ u.out = s.out) ∧
     (s.canStart t = false → start = .next s) ∧
     (∀ se sizes reports, s.tvalid t = true → s.tbusy t = false →
       let commit := exec (.tblReqCommit t ⟨se, sizes, reports⟩) s
       (s.tstate t ≠ 2 ∨ s.running t = false → commit = .next (s.setRes t K.eTblState false)) ∧
       (s.tstate t = 2 → s.running t = true →
         (x.scanned = true → commit = .next (s.orderKill t (.fail K.eJobScanned) false)) ∧
         (x.scanned = false → x.ue = true → commit = .next (s.ueTable t)) ∧
         (∀ c, x.scanned = false → x.ue = false → x.failed = some c → commit = .next (s.orderKill t (.fail c) false)) ∧
         (x.scanned = false → x.ue = false → x.failed = none → commit = .next ((s.setRes t 0 true).updTbl t (fun y =>
           { y with commit := some se, sizes := sizes, skip := s.spanning t && s.rank t == 0 && !s.allSealed t reports }))))) ∧
     (∀ se, x.commit = some se → s.tstate t = 2 →
       let go := exec (.commitLocalStep t) s
       let s0 := (s.homeSees t).setTstate t 3
       let s1 := s0.closingDeal t
       (s.drained t = false → go = .next s) ∧
       (s.drained t = true → x.ue = true → go = .next ((s.ueTable t).settleJob t)) ∧
       (∀ c, s.drained t = true → x.ue = false → x.failed = some c → go = .next (s.orderKill t (.fail c) false)) ∧
       (s.drained t = true → x.ue = false → x.failed = none → s.spanning t = false →
         (s1.uncleanSum t = 0 → go = .next
           (((((s1.commitInstant t se).contextClear t).setTstate t 0).setRes t 0 false).flushTable t |>.settleJob t)) ∧
         (s1.uncleanSum t ≠ 0 → go = .next ((s1.failNow t K.eUncleanExit).settleJob t)))) ∧
     kill (.tblReqKill ⟨t, .rerun⟩) .rerun ∧ kill (.tblReqKill ⟨t, .vaUnmapped⟩) (.fail K.eVaUnmapped) ∧
     kill (.tblReqKill ⟨t, .versionPool⟩) (.fail K.eVersionPool) ∧ kill (.tblReqCancel t) .cancel ∧
     (∀ k, x.kill = some k → s.tstate t = 4 → exec (.killRelease t) s = .next ((s.releaseKill t k).settleJob t)) ∧
     (∀ c, (s.jobOf t).bind Job.running = some c → c.req.limit ≠ 0 → s.running t = true →
       exec (.cmdLimitExpiry t) s =
         .next ((s.until (x.since + BitVec.ofNat 64 (c.req.limit - c.used))).orderKill t (.fail K.eCmdLimit) false)) ∧
     (∀ i, i < 192 → (s.isl i).table = t → t ≠ 0 → bit 63 (s.reg (R.islWdog i)) = true → s.fld (R.islSeq i) 2 0 = 1 ∨ s.fld (R.islSeq i) 2 0 = 2 →
       exec (.islWdogExpiry i) s =
         .next ((s.until ((s.isl i).issued + BitVec.ofNat 64 (s.fld (R.islWdog i) 39 0))).orderKill t (.fail K.eJobHung) false))) ∧
  (∀ (s : State),
     (∀ t nw rest, s.tableIsls t = nw :: rest → t ≠ 0 → bit 63 (s.reg (R.islSlice nw)) = true →
       let s1 := (((s.advance (field 39 0 (s.reg (R.islSlice nw)))).setFld (R.islSlice nw) 39 0 0).setFld (R.islSlice nw) 63 63 0).noteMelds
       let s2 := s1.homeSees t
       exec (.grantEnd t) s = .next (s2.grantOver t) ∧
       (∀ j w, s2.jobOf t = some j → j.nw = some w →
         (j.trump = true → s2.grantOver t = s2) ∧
         (j.trump = false → s2.waiterFor t = none →
           s2.grantOver t = ((s2.updJob j.handle (fun j => { j with kills := 0 })).startGrant j w).noteMelds))) ∧
     (∀ h j w choice, s.job h = some j → j.nw = none → j.ending = false → j.restarting = false → j.want = some w →
       (∀ i ∈ rect w j.rows j.cols, (s.isl i).table = 0) → exec (.jobPlace h choice) s = .next (s.placeJob j w)) ∧
     (∀ h j rest choice w, s.jobs = j :: rest → j.handle = h → j.nw = none → j.ending = false → j.restarting = false →
       j.want = none → s.freePlace h j.rows j.cols j.short choice = some w →
       exec (.jobPlace h choice) s = .next (s.placeJob j w)) ∧
     (∀ j w, j.reply = none → s.jobs = [j] → ∃ j', (s.placeJob j w).jobs = [j'] ∧ j'.nw = some w ∧ j'.want = none))

/-- R380, R388, R389, R505: the two-phase commit of a job that spans devices. Of the messages of the current command
PREPARE goes down the tree and READY comes up it; a prepared rank commits on COMMIT; an ABORT, or a KILLREQ at the
lead, kills the command here, for a rerun or with the code it carries; DONE comes up. A message of an earlier command
is discarded and counted as stale, one of a later command counted as answered E_LINK_RETRY. A prepared rank that
learns no decision in time stops its job. -/
def Obligations.TwoPhaseCommit : Prop :=
  ∀ (s : State) (t child : Nat) (cn : BitVec 32) (skip se : Bool) (status : Code), s.spanning t = true →
    let x := s.tbl t
    let prepare := exec (.prepareMsg ⟨t, cn⟩) s
    let ready := exec (.readyMsg ⟨t, cn⟩ child) s
    let commit := exec (.commitMsg ⟨⟨t, cn⟩, skip⟩) s
    let abort := exec (.abortMsg ⟨⟨t, cn⟩, status⟩) s
    let killreq := exec (.killreq ⟨t, cn⟩) s
    let done := exec (.doneMsg ⟨t, cn⟩ child) s
    let all := fun (r : Res) => prepare = r ∧ ready = r ∧ commit = r ∧ abort = r ∧ killreq = r ∧ done = r
    (cn.toNat < (s.cnum t).toNat → all (.next (s.gulStale t))) ∧
    ((s.cnum t).toNat < cn.toNat → all (.next ((s.satFld (R.gulJstat 0 t) 63 56 1).satFld (R.gulJstat 1 t) 63 56 1))) ∧
    (cn = s.cnum t →
      (s.rank t ≠ 0 → s.running t = true → x.prep = false → prepare =
        .next (((s.updTbl t (fun y => { y with prep := true })).tellRanks t 1 (s.children t)).tryReady t)) ∧
      (s.running t = true → (s.children t).contains child = true → x.ready.contains child = false → ready =
        .next (((s.updTbl t (fun y => { y with ready := y.ready ++ [child] })).tryReady t).settleJob t)) ∧
      (x.commit = some se → s.gphase t = 2 → commit = .next (((s.updTbl t (fun y => { y with skip := skip })).decideCommit t se).settleJob t)) ∧
      (status = 0 → abort = .next (s.orderKill t .rerun true)) ∧ (status ≠ 0 → abort = .next (s.orderKill t (.fail status) true)) ∧
      (s.rank t = 0 → killreq = .next (s.orderKill t .rerun true)) ∧
      ((s.children t).contains child = true → x.done.contains child = false → done =
        .next ((s.updTbl t (fun y => { y with done := y.done ++ [child] })).tryDone t))) ∧
    (s.gphase t = 2 →
      let s1 := (s.until (x.prepAt + BitVec.ofNat 64 (s.fld (R.gulJcfg 0 t) 31 0))).homeSees t
      (∀ j, s1.jobOf t = some j → exec (.decideTimeout t) s = .next (s1.stopJob j.handle K.eLinkDecide true)) ∧
      (s1.jobOf t = none → exec (.decideTimeout t) s = .next (s1.orderKill t .rerun true)))

/-- R385, R388: the ranks of a job form a tree below rank 0: every other rank has a parent of a lower number, whose
child it is; a rank is no child of any other. -/
def Obligations.RanksFormATree : Prop :=
  ∀ (n r : Nat), 0 < r → r < n → n ≤ 65536 →
    treeParent r < r ∧ r ∈ treeChildren n (treeParent r) ∧ ∀ q, r ∈ treeChildren n q → q = treeParent r

/-- R297, R346, R350, R351, R353, R355, R356, R357, R546: deals and scans. A deal request is taken for a running
command, or starts the job's next one, and waits; in a table that commits or is killed it is refused. Once the table
is drained the images are read and checked, which lets go be given or fails the command; at go the islands' tokens
are discarded, an unclean exit of the hand before fails the command, the hand epoch grows and the cells are cleared;
an island that has loaded starts, and the last ends the deal. A scan request of a table without a running command is
taken in its states and refused in others; done it moves the records, and a resume runs the scan-held table on, with
or without a command of its job. -/
def Obligations.DealsAndScans : Prop :=
  ∀ (s : State) (t : Nat) (img : BitVec 12),
    let x := s.tbl t
    let base := s.fld (R.tblScan 0 t) 47 12 * 4096
    let refused := fun (r : Res) => r = .next (s.setRes t K.eTblState false)
    let waiting := fun (u : State) =>
      (((u.setRes t 0 true).setTstate t 1).updTbl t (fun y => { y with deal := .wait img.toNat })).homeSees t
    let deal := exec (.tblReqDeal t img) s
    let resume := exec (.tblReqResume t) s
    (s.tvalid t = true → s.tbusy t = false →
      (s.tstate t ≠ 3 → s.tstate t ≠ 4 → s.running t = true → deal = .next (waiting s)) ∧
      (s.tstate t ≠ 3 → s.tstate t ≠ 4 → s.running t = false → s.mayAutoStart t = true → deal = .next (waiting (s.startCmd t ownStart))) ∧
      (s.tstate t = 3 ∨ s.tstate t = 4 ∨ (s.running t = false ∧ s.mayAutoStart t = false) → refused deal) ∧
      (s.running t = false → (s.tstate t = 0 ∨ s.tstate t = 5 ∨ s.tstate t = 6) →
        exec (.tblReqScanOut t) s = .next ((s.setRes t 0 true).updTbl t (fun y => { y with scan := some false }))) ∧
      (s.running t = false → s.tstate t = 0 →
        exec (.tblReqScanIn t) s = .next ((s.setRes t 0 true).updTbl t (fun y => { y with scan := some true }))) ∧
      (s.running t = true ∨ (s.tstate t ≠ 0 ∧ s.tstate t ≠ 5 ∧ s.tstate t ≠ 6) → refused (exec (.tblReqScanOut t) s)) ∧
      (s.running t = true ∨ s.tstate t ≠ 0 → refused (exec (.tblReqScanIn t) s)) ∧
      (s.tstate t = 6 → s.mayAutoStart t = true →
        resume = .next ((((s.startCmd t ownStart).setRes t 0 false).setTstate t 2).homeSees t)) ∧
      (s.tstate t = 6 → s.mayAutoStart t = false →
        resume = .next ((((s.updTbl t (fun y => { y with scanned := true })).setRes t 0 false).setTstate t 2).homeSees t)) ∧
      (s.tstate t ≠ 6 → refused resume)) ∧
    (s.tvalid t = false ∨ s.tbusy t = true → deal = .next s ∧ resume = .next s) ∧
    (∀ i s1 ok, x.deal = .wait i → s.drained t = true → s.readImgs t i = (s1, ok) →
      (ok = false → exec (.dealCheck t) s = .next ((s1.failNow t K.eMemUncorrectable).settleJob t)) ∧
      (∀ l, ok = true → s1.checkAll t i (s1.tableIsls t) = .ok l →
        exec (.dealCheck t) s = .next (s1.updTbl t (fun y => { y with deal := .go l }))) ∧
      (∀ c, ok = true → s1.checkAll t i (s1.tableIsls t) = .error c → exec (.dealCheck t) s = .next ((s1.failNow t c).settleJob t))) ∧
    (∀ i, x.deal = .wait i → s.drained t = false → exec (.dealCheck t) s = .next s) ∧
    (∀ l, x.deal = .go l →
      let s1 := s.discardTable t
      (x.dealt = false ∨ s1.uncleanSum t = 0 → exec (.dealGo t) s =
        .next (((s1.tableIsls t).foldl (fun s i => s.clearIsl i) (s1.nextEpoch t)).updTbl t (fun y => { y with deal := .load l, dealt := true }))) ∧
      (x.dealt = true → s1.uncleanSum t ≠ 0 → exec (.dealGo t) s = .next ((s1.failNow t K.eUncleanExit).settleJob t))) ∧
    (∀ i y, (s.isl i).table = t → x.deal = .load [y] → y.isl = i →
      exec (.dealLoadDone i) s = .next (((s.loadIsl y).updTbl t (fun z => { z with deal := .load [] })).dealOver t)) ∧
    (∀ i y z, (s.isl i).table = t → x.deal = .load [y, z] → y.isl = i → z.isl ≠ i →
      exec (.dealLoadDone i) s = .next ((s.loadIsl y).updTbl t (fun w => { w with deal := .load [z] }))) ∧
    (∀ i, s.tableIsls t = [i] → s.badBlocks base 0x400000 = [] →
      (x.scan = some false → exec (.stateScanDone t) s =
        .next (((s.scanOutIsl i base).setRes t 0 false).updTbl t (fun y => { y with scan := none }))) ∧
      (x.scan = some true → exec (.stateScanDone t) s =
        .next (((((s.scanInIsl i base).setTstate t 6).noteMelds).setRes t 0 false).updTbl t (fun y => { y with scan := none }))))

/-- R251, R361 to R363, R365, R366, R371: a meld opens on a die that has none, takes entries by address until it is
full, is checked in the order of the rules, applies only as checked and not dirty, every entry becoming current at
one dealer instant, and closes; while the mesh holds packets of a melded group it waits in state applying. An abort
closes it. -/
def Obligations.Melds : Prop :=
  ∀ (s : State) (die : BitVec 1) (t : BitVec 8) (value : Word),
    let d := die.toNat
    let m := s.meld d
    let a := s.fld (R.meldSaddr d) 47 0
    let st := s.fld (R.meldStat d) 2 0
    let put := fun (hi lo v : Nat) (u : State) => u.setFld (R.meldStat d) hi lo v
    let failed := fun (c : Code) (i : Nat) => put 44 32 i (put 31 16 c.toNat s)
    let stage := exec (.meldStage die value) s
    let check := exec (.meldCheck die) s
    let apply := exec (.meldApply die) s
    let abort := exec (.meldAbort die) s
    let known := m.entries.any (fun x => x.1 == a)
    let sees := if m.entries.any (fun x => regDie x.1 != d) then (s.dealerSees d).dealerSees (1 - d) else s.dealerSees d
    let applied := apply = .next (((m.entries.foldl (fun s x => s.applyEntry x.1 x.2) sees).closeMeld d).noteMelds)
    (st = 0 → exec (.meldOpen die t) s = .next ((s.setReg (R.meldStat d) 1).setMeld d { table := t.toNat })) ∧
    (st ≠ 0 → exec (.meldOpen die t) s = .next s) ∧
    (st = 0 → stage = .next s ∧ check = .next (failed K.eMeldState 0) ∧ apply = .next (failed K.eMeldState 0) ∧ abort = .next s) ∧
    (st ≠ 0 →
      (known = false → m.entries.length < 8192 →
        stage = .next (put 2 0 1 (put 58 45 (m.entries.length + 1) (s.setMeld d { m with entries := m.entries ++ [(a, value)] })))) ∧
      (∀ w, m.entries = [(a, w)] → stage = .next (put 2 0 1 (put 58 45 1 (s.setMeld d { m with entries := [(a, value)] })))) ∧
      (known = false → 8192 ≤ m.entries.length → stage = .next (put 2 0 1 (put 59 59 1 s))) ∧
      (m.entries = [] ∨ bit 59 (s.reg (R.meldStat d)) = true → check = .next (put 2 0 5 (failed K.eMeldState 0))) ∧
      (m.entries ≠ [] → bit 59 (s.reg (R.meldStat d)) = false →
        (∀ c i, s.meldRules m.table m.entries = some (c, i) → check = .next (put 2 0 5 (failed c i))) ∧
        (s.meldRules m.table m.entries = none →
          check = .next ((put 3 0 3 (failed 0 0)).setMeld d { m with snap := s.meldSnap m.table m.entries }))) ∧
      abort = .next (s.closeMeld d)) ∧
    (st = 3 → s.meldDirty d = false → s.groupsBusy m.entries = false → applied) ∧
    (st = 3 → s.meldDirty d = false → s.groupsBusy m.entries = true → apply = .next (put 2 0 4 s)) ∧
    (st = 4 → s.groupsBusy m.entries = false → applied) ∧ (st = 4 → s.groupsBusy m.entries = true → apply = .next s) ∧
    (st = 3 → s.meldDirty d = true → apply = .next (put 2 0 5 (put 3 3 1 (failed K.eMeldState 0)))) ∧
    (st = 1 ∨ st = 5 → s.meldDirty d = false → apply = .next (put 2 0 5 (put 3 3 0 (failed K.eMeldState 0))))

/-! ### Gulras -/

/-- R373, R375, R377: reading the head slot of a packet whose fields fit their widths gives back every field of the
link header (the data and the sending die are no part of it). A frame of at most 19 slots carries a CRC-32C that
frameOk accepts, and its number, acknowledgement, flags, credits, tags and slots stand in it where the receiver reads
them. -/
def Obligations.FramesRoundTrip : Prop :=
  (∀ p : GPkt, p.dagent < 2 ^ 12 → p.op < 16 → p.hops < 64 → p.cls < 4 → p.len < 512 → p.addr < 2 ^ 48 → p.tag < 2 ^ 16 →
    GPkt.ofHead p.head = { p with data := [], die := 0 }) ∧
  (∀ (fseq ack credits : Nat) (nak idle tstamp : Bool) (slots : List (Nat × Nat)), credits < 2 ^ 24 → slots.length ≤ 19 →
    (∀ x ∈ slots, x.1 < 16 ∧ x.2 < 2 ^ 256) →
    let f := (frameBits fseq ack nak idle tstamp credits slots).toNat
    frameOk (frameBits fseq ack nak idle tstamp credits slots) = true ∧
    f % 4096 = fseq % 4096 ∧ f / 2 ^ 12 % 4096 = ack % 4096 ∧ f.testBit 24 = nak ∧ f.testBit 25 = idle ∧ f.testBit 26 = tstamp ∧
      f / 2 ^ 32 % 2 ^ 24 = credits ∧
    ∀ i x, slots[i]? = some x → f / 2 ^ (64 + 4 * i) % 16 = x.1 ∧ f / 2 ^ (140 + 256 * i) % 2 ^ 256 = x.2)

/-- R373, R374, R378, R379, R394, R395, R399: what each event of a Gulras link does. On an up link a codeword that
cannot be corrected and a frame whose CRC fails are answered with a nak and nothing of the frame is taken; an intact
frame first acknowledges, returns credits and, with its nak, has the replay buffer resent; an idle frame ends there;
of another the slots are taken if its number is the next, nothing is taken of one received before, and a gap is asked
for with a nak. Unacknowledged frames unheard for 10 µs take the link down. The oldest received packet goes to this
device's engine or out by its die's route, its slots are credited back, and a reply without a route is counted as
lost. A trained link that is enabled is up with fresh numbers, keeping the packets that wait. A bank switch holds the
destinations whose entries differ, and ROUTE_HOLD_RELEASE frees exactly those toward which no link owes a frame. A
time exchange gives the offset, and locks after three in a row within 4 ticks; GTIME goes forward by the last offset
only while no table of a job that spans devices is held. Out of these conditions the command changes nothing. -/
def Obligations.GulrasLinks : Prop :=
  ∀ (s : State) (l n : Nat) (frame : BitVec 5140) (die : BitVec 1) (bank : Bool) (peer : BitVec 16) (plink : BitVec 5)
    (t1 t2 t3 t4 : Word),
    let x := s.glink l
    let f := frame.toNat
    let nak := fun (u : State) => (u.setGlink l { u.glink l with nak := true }).sendIdle l
    let s1 := s.incFld (R.gulLerr l) 31 0 n
    let s2 := s1.frameAck l (f / 2 ^ 12 % 4096)
    let s3 := s2.setGlink l ((s2.glink l).gain (f / 2 ^ 32 % 64) (f / 2 ^ 38 % 64) (f / 2 ^ 44 % 64) (f / 2 ^ 50 % 64))
    let s4 := if f.testBit 24 then s3.frameNak l else s3
    let x4 := s4.glink l
    let receive := exec (.gulFrameReceive l (some n) frame) s
    let isUp := l < 32 ∧ s.linkState l = 2
    let d := die.toNat
    let up := s.fld (R.gulTcfg 0) 4 0
    let off := ((t2 - t1).toInt - (t4 - t3).toInt).tdiv 2 - (BitVec.ofNat 16 (s.fld (R.gulTcfg 0) 31 16)).toInt
    let k := if -4 ≤ off ∧ off ≤ 4 then s.locks + 1 else 0
    let back := (BitVec.ofNat 32 (s.fld (R.gulTstat 0) 31 0)).toInt
    let frees := fun (dev : Nat) => ∀ i, i < 32 → (s.glink i).owes dev = false
    (isUp → exec (.gulFrameReceive l none frame) s = .next (nak s)) ∧
    (isUp → frameOk frame = false → receive = .next (nak s1)) ∧
    (isUp → frameOk frame = true → f.testBit 25 = true → receive = .next (s4.pump l)) ∧
    (isUp → frameOk frame = true → f.testBit 25 = false → f % 4096 = x4.rx →
      receive = .next ((s4.setGlink l { takeSlots f (f.testBit 26) x4 with rx := (x4.rx + 1) % 4096 }).answerFrame l)) ∧
    (isUp → frameOk frame = true → f.testBit 25 = false → f % 4096 ≠ x4.rx → (x4.rx + 4096 - f % 4096) % 4096 ≤ 2048 →
      receive = .next (s4.answerFrame l)) ∧
    (isUp → frameOk frame = true → f.testBit 25 = false → f % 4096 ≠ x4.rx → 2048 < (x4.rx + 4096 - f % 4096) % 4096 →
      receive = .next ((s4.setGlink l { x4 with nak := true }).answerFrame l)) ∧
    (¬ isUp → ∀ fec, exec (.gulFrameReceive l fec frame) s = .next s) ∧
    (isUp → x.replay ≠ [] → exec (.gulAckTimeout l) s = .next ((s.until (x.heard + 10000)).linkDown l)) ∧
    (¬ isUp ∨ x.replay = [] → exec (.gulAckTimeout l) s = .next s) ∧
    (∀ p r, l < 32 → x.rxq = p :: r →
      let u := (s.setGlink l ({ x with rxq := r }.owe (p.cls % 4) p.slots)).gulSend (l / 16) l p
      exec (.gulPacketRoute l) s = .next (if u.linkState l = 2 ∧ (u.glink l).owed ≠ 0 then u.sendIdle l else u)) ∧
    (32 ≤ l ∨ x.rxq = [] → exec (.gulPacketRoute l) s = .next s) ∧
    (∀ (u : State) (p : GPkt), (p.ddev = u.gulDev → p.isReply = false →
        u.gulSend d l p = { u with gin := u.gin ++ [⟨p, d, l, none⟩] }) ∧
      (∀ v, p.ddev ≠ u.gulDev → u.routeOut d p = .ok v → u.gulSend d l p = v) ∧
      (∀ c, p.ddev ≠ u.gulDev → u.routeOut d p = .error c → p.isReply = true → u.gulSend d l p = u.gulLost l)) ∧
    (l < 32 → bit 0 (s.reg (R.gulLcfg l)) = true → s.linkState l ≠ 2 →
      exec (.gulrasLinkTrained l peer plink) s = .next (((s.setReg (R.gulLstat l) (BitVec.ofNat 64 (2 + peer.toNat * 2 ^ 16 +
        plink.toNat * 2 ^ 32))).setGlink l { txq := x.txq, rxq := x.rxq, heard := s.gtime }).pump l)) ∧
    (32 ≤ l ∨ bit 0 (s.reg (R.gulLcfg l)) = false ∨ s.linkState l = 2 → exec (.gulrasLinkTrained l peer plink) s = .next s) ∧
    (s.routeBank d = b2n bank → exec (.gulRselWrite die bank) s = .next s) ∧
    (s.routeBank d ≠ b2n bank →
      let u := { s.setFld (R.gulRsel d) 0 0 (b2n bank) with
        holds := s.holds ++ ((s.changedDevs d).map (fun y => (d, y))).filter (fun h => !s.holds.contains h) }
      exec (.gulRselWrite die bank) s = .next ((u.setFld (R.gulRsel d) 1 1 (b2n (u.holds.any (fun h => h.1 == d)))).reroute d)) ∧
    (∃ t, exec (.routeHoldRelease die) s = .next t ∧
      ∀ e dev, (e, dev) ∈ t.holds ↔ (e, dev) ∈ s.holds ∧ (e = d → ¬ frees dev)) ∧
    (bit 5 (s.reg (R.gulTcfg 0)) = false → s.linkState up = 2 → exec (.timeExchange t1 t2 t3 t4) s = .next
      (({ s with slew := off, slewPhase := 0, locks := k, out := s.out ++ [Out.time up] }.setFld (R.gulTstat 0) 31 0
        (off % 2 ^ 32).toNat).setFld (R.gulTstat 0) 32 32 (if 3 ≤ k then 1 else 0))) ∧
    (bit 5 (s.reg (R.gulTcfg 0)) = true ∨ s.linkState up ≠ 2 → exec (.timeExchange t1 t2 t3 t4) s = .next s) ∧
    (s.spanHeld = false → 0 < back → exec .gtimeStep s = .next { s.advance back.toNat with slew := 0, slewPhase := 0 }) ∧
    (s.spanHeld = true ∨ back ≤ 0 → exec .gtimeStep s = .next s)

/-- R380, R381, R383, R384, R385, R387: remote memory at the destination and at the requester. Of the one packet at
this device's engines, a read or write of job 0 is admitted; one of a job that no table here holds is answered
E_LINK_JOB; one with the number of the table's command is admitted while that command runs or is ready and else
discarded; one of a command to come is counted and answered E_LINK_RETRY, and one of an earlier command is discarded
and counted. An admitted write lands and is acknowledged, waits while its page is held, or is answered with the code
of its refusal; an admitted read is answered with its bytes or with a code. A request answered E_LINK_RETRY is sent
again. A steward core's port that is open takes a read or write of 1 byte to 1 MiB: without a job it ends at once
with E_LINK_JOB, else its packets of at most 256 bytes are sent in address order, a write's local data having been
read first. Otherwise the command changes nothing. Collectives. A steward core's port that is open takes a collective
of a table whose job spans devices: its descriptor is read from local memory; one that R384 does not allow, one out
of turn and one that cannot be read fail the command, and else the collective is entered and the next number
expected; without such a job the request ends at once with E_LINK_JOB. A unit not placed yet goes up at rank 0, and
at another rank until it has been sent there; its children's partial results are combined with this rank's input in
the order of the list of children, the result goes to the parent or, at rank 0, is finished and placed, and later,
where every rank has the result, it is taken from the parent. GUL_QOP_DONE shows the port done, with its status and
flags, and makes the fill it asked for, once no packet of it is unanswered and its collective is complete here or has
failed. Otherwise the command changes nothing. -/
def Obligations.RemoteMemoryAndCollectives : Prop :=
  (∀ (s : State) (g : GIn) (core : Nat) (t : BitVec 8) (ddev sid : BitVec 16) (fill : Bool) (len : BitVec 21),
     let p := g.pkt
     let empty := { s with gin := [] }
     let wait := fun (k : Nat) => { s with gin := [{ g with admitted := some (k, s.ecmd k) }] }
     let here := s.gin = [g] ∧ g.admitted = none
     let data := p.op = 0 ∨ p.op = 2
     let held := fun (k : Nat) => p.job ≠ 0 ∧ data ∧ s.jobTable p.job = some k
     let taken := exec (.gulRemoteAdmit 0) s
     let n := len.toNat
     let isOpen := core < 32 ∧ bit 16 (s.reg (R.gulQres core)) = true ∧ s.coreFenced core = false
     let inLen := 0 < n ∧ n ≤ 1048576
     let lva := s.fld (R.gulQlva core) 47 0
     let rva := s.fld (R.gulQrva core) 47 0
     let start := fun (c : Option Nat) => s.qopStart core t.toNat fill sid c
     let read := exec (.gulQopRead core t ddev fill sid len) s
     let write := exec (.gulQopWrite core t ddev fill sid len) s
     let ended := s.qopEnd core t.toNat fill sid K.eLinkJob
     (here → p.job = 0 → data → taken = .next { s with gin := [{ g with admitted := some (0, 0) }] }) ∧
     (here → p.job ≠ 0 → data → s.jobTable p.job = none → taken = .next (empty.gulReply g K.eLinkJob [])) ∧
     (∀ k, here → held k → p.cnum = s.cnum k → s.gphase k = 1 ∨ s.gphase k = 2 → taken = .next (wait k)) ∧
     (∀ k, here → held k → p.cnum = s.cnum k → s.gphase k ≠ 1 → s.gphase k ≠ 2 → taken = .next (empty.gulStale k)) ∧
     (∀ k, here → held k → (s.cnum k).toNat < p.cnum.toNat → taken = .next
       (((empty.satFld (R.gulJstat 0 k) 63 56 1).satFld (R.gulJstat 1 k) 63 56 1).gulReply g K.eLinkRetry [])) ∧
     (∀ k, here → held k → p.cnum.toNat < (s.cnum k).toNat → taken = .next (empty.gulStale k)) ∧
     (here → p.isReply = true → taken = .next (empty.gulAnswer p)) ∧
     (s.gin = [g] → g.admitted.isSome = true → taken = .next s) ∧
     (∀ i, s.gin[i]? = none → exec (.gulRemoteAdmit i) s = .next s ∧ exec (.gulRemoteWrite i) s = .next s ∧
       exec (.gulRemoteRead i) s = .next s) ∧
     (∀ k c s1 r, s.gin = [g] → g.admitted = some (k, c) → p.op = 2 → s.remoteLand g.link k p = (s1, r) →
       exec (.gulRemoteWrite 0) s = .next (match (r : Land) with
         | .done => (s1.dropGin 0).gulReply g 0 []
         | .held => s
         | _ => empty.gulReply g r.code [])) ∧
     (s.gin = [g] → g.admitted = none ∨ p.op ≠ 2 → exec (.gulRemoteWrite 0) s = .next s) ∧
     (∀ k c s1 bs, s.gin = [g] → g.admitted = some (k, c) → p.op = 0 → k ≠ 0 → s.takeVA (gulAgent g.link) k p.addr p.len true = (s1, .ok bs) →
       exec (.gulRemoteRead 0) s = .next ((s1.dropGin 0).gulReply g 0 bs)) ∧
     (∀ k c s1 e, s.gin = [g] → g.admitted = some (k, c) → p.op = 0 → k ≠ 0 → s.takeVA (gulAgent g.link) k p.addr p.len true = (s1, .error e) →
       exec (.gulRemoteRead 0) s = .next ((s1.dropGin 0).gulReply g e.code [])) ∧
     (∀ c s1 bs, s.gin = [g] → g.admitted = some (0, c) → p.op = 0 → s.takeFor 0 0 p.addr p.len = (s1, .ok bs) →
       exec (.gulRemoteRead 0) s = .next ((s1.dropGin 0).gulReply g 0 bs)) ∧
     (s.gin = [g] → g.admitted = none ∨ p.op ≠ 0 → exec (.gulRemoteRead 0) s = .next s) ∧
     (∀ r, s.greqs = [r] → r.retry = true → r.core < 32 → exec (.gulRetryResend 0) s =
       .next ({ s with greqs := [{ r with retry := false }] }.gulSend (r.core / 16) (16 * (r.core / 16)) r.pkt)) ∧
     (∀ r, s.greqs = [r] → r.retry = false → exec (.gulRetryResend 0) s = .next s) ∧
     (¬ isOpen ∨ ¬ inLen → read = .next s ∧ write = .next s) ∧
     (∀ job cnum, isOpen → inLen → s.qopJob t.toNat = some (job, cnum) →
       read = .next ((start none).qopSend core (s.qopBase 0 ddev job cnum) rva lva [] (qopParts n))) ∧
     (isOpen → inLen → s.qopJob t.toNat = none → read = .next ended ∧ write = .next ended) ∧
     (∀ job cnum s2 bs, isOpen → inLen → s.qopJob t.toNat = some (job, cnum) → (start none).takeFor (core / 16) t.toNat lva n = (s2, .ok bs) →
       write = .next (s2.qopSend core (s.qopBase 2 ddev job cnum) rva 0 bs (qopParts n))) ∧
     (∀ job cnum s2 e, isOpen → inLen → s.qopJob t.toNat = some (job, cnum) → (start none).takeFor (core / 16) t.toNat lva n = (s2, .error e) →
       write = .next (s2.gulFail core t.toNat e.code)) ∧
     (qopParts n).map Prod.snd = List.replicate (n / 256) 256 ++ (if n % 256 = 0 then [] else [n % 256]) ∧
     (qopParts n).map Prod.fst = (List.range ((n + 255) / 256)).map (fun i => 256 * i)) ∧
  (∀ (s : State) (core : Nat) (t : BitVec 8) (sid : BitVec 16) (fill : Bool) (seq : BitVec 32) (u : Nat),
     let isOpen := core < 32 ∧ bit 16 (s.reg (R.gulQres core)) = true ∧ s.coreFenced core = false
     let k := t.toNat
     let got := s.takeFor (core / 16) k (s.fld (R.gulQlva core) 47 0) 32
     let coll := exec (.gulQopCollective core t fill sid) s
     let combine := exec (.collectiveUnitCombine k seq u) s
     let finish := fun (o : GOp) =>
       let s1 := { s.setQres core o.status true o.flags with
         gops := s.gops.filter (fun x => x.1 != core)
         colls := s.colls.filter (fun c => !(c.table == o.table && o.coll == some c.seq)) }
       (if o.fill then s1.fillSync (core / 16) o.table o.sid (o.status.setWidth 64) else s1).tryReady o.table
     let entered := fun (v : State) (q : Nat) (bs : List Byte) =>
       ({ table := k, seq := q, core := core, job := (v.jid k).toNat, num := (v.tbl k).num, desc := bs } : Coll)
     let fails := fun (v : State) (code : Code) => (v.qopStart core k fill sid none).gulFail core k code
     (¬ isOpen → coll = .next s) ∧
     (isOpen → t = 0 ∨ s.spanning k = false → coll = .next (s.qopEnd core k fill sid K.eLinkJob)) ∧
     (∀ s1 e, isOpen → t ≠ 0 → s.spanning k = true → got = (s1, .error e) → coll = .next (fails s1 e.code)) ∧
     (∀ s1 bs, isOpen → t ≠ 0 → s.spanning k = true → got = (s1, .ok bs) →
       let d := CDesc.of (s1.jid k).toNat (s1.tbl k).num bs
       (descOk bs = false ∨ d.seq ≠ (s1.tbl k).colls → coll = .next (fails s1 K.eLinkColl)) ∧
       (descOk bs = true → d.seq = (s1.tbl k).colls → coll =
         .next { (s1.qopStart core k fill sid (some d.seq)).updTbl k (fun x => { x with colls := x.colls + 1 }) with
           colls := s1.colls ++ [entered s1 d.seq bs] })) ∧
     (s.coll k seq.toNat = none → combine = .next s) ∧
     (∀ c, s.coll k seq.toNat = some c →
       (c.d.units ≤ u ∨ c.placed.contains u = true → combine = .next s) ∧
       (u < c.d.units → c.placed.contains u = false → s.rank k = 0 ∨ (c.d.op ≠ 3 ∧ c.sent.contains u = false) →
         combine = .next (s.unitUp c u)) ∧
       (u < c.d.units → c.placed.contains u = false → s.rank k ≠ 0 → c.d.op = 3 ∨ c.sent.contains u = true →
         combine = .next (if c.d.all then s.unitDown c u else s))) ∧
     (∀ c : Coll,
       let d := c.d
       let m := d.elems u
       let own := s.takeVA (gulAgent (16 * (c.core / 16))) c.table (d.src + u * d.per * d.isz) (m * d.isz) true
       (d.op ≠ 3 → (s.children c.table).mapM (fun r => c.stream r (u * d.per * d.msz) (m * d.msz)) = none → s.unitUp c u = s) ∧
       (∀ parts s1 bs, d.op ≠ 3 → (s.children c.table).mapM (fun r => c.stream r (u * d.per * d.msz) (m * d.msz)) = some parts →
         own = (s1, .ok bs) →
         let (x, fl) := d.combineAll u m (d.enter m bs) parts
         (s1.rank c.table ≠ 0 → s.unitUp c u = ((s1.collFlags c.core fl).updColl c.table c.seq
           (fun c => { c with sent := c.sent ++ [u] })).sendUnit c u x [treeParent (s1.rank c.table)]) ∧
         (s1.rank c.table = 0 → s.unitUp c u =
           (s1.collFlags c.core (fl ||| (d.finish m x).2)).placeUnit c u (d.finish m x).1))) ∧
     (s.gop core = none → exec (.gulQopDone core) s = .next s) ∧
     (∀ o, s.gop core = some o →
       ((∃ r ∈ s.greqs, r.core = core) → exec (.gulQopDone core) s = .next s) ∧
       (∀ q c, o.coll = some q → s.coll o.table q = some c → s.collDone c = false → o.status = 0 → exec (.gulQopDone core) s = .next s) ∧
       ((∀ r ∈ s.greqs, r.core ≠ core) → (∀ q c, o.coll = some q → s.coll o.table q = some c → s.collDone c = true ∨ o.status ≠ 0) →
         exec (.gulQopDone core) s = .next (finish o))))

/-- R391 to R393: a put, a seal and a get of a rank's device at its partner. Without a kitty map all three are
refused with E_LINK_KITTY, and a put or a get outside the map's pages as well. A put of the sealed parity changes
nothing; one of the other parity lands in that parity's frame of its page and is remembered. A seal that counts the
pages that have come whole makes that parity the sealed one, forgets the puts of the other and is acknowledged;
another seal changes nothing. A get is answered with the bytes of the sealed parity's frame, with E_MEM_UNCORRECTABLE
where they cannot be corrected, and with E_LINK_KITTY while nothing is sealed. -/
def Obligations.Kitties : Prop :=
  ∀ (s : State) (job : BitVec 32) (src tag : BitVec 16) (va len count : Nat) (cnum : BitVec 32) (parity : Bool) (data : List Byte),
    let put := exec (.kittyPut ⟨⟨job, cnum⟩, tag⟩ src va parity data) s
    let sealing := exec (.kittySeal ⟨⟨job, cnum⟩, tag⟩ src count) s
    let get := exec (.kittyGet ⟨job, cnum⟩ src va len tag) s
    let r : KReq := ⟨job, src, va, cnum, tag⟩
    let g := (va / 0x10000, va % 0x10000 / 256)
    (s.kitty job src = none → put = .next (s.kittyReply 0 r K.eLinkKitty []) ∧ get = .next (s.kittyReply 0 r K.eLinkKitty []) ∧
      sealing = .next (s.kittyReply 0 { r with va := 0 } K.eLinkKitty [])) ∧
    (∀ k, s.kitty job src = some k →
      (k.page va = none → put = .next (s.kittyReply 0 r K.eLinkKitty [])) ∧
      (∀ p, k.page va = some p → k.isSealed = some parity → put = .next s) ∧
      (∀ p, k.page va = some p → k.isSealed ≠ some parity →
        put = .next ((s.landPA 0 (p.frame parity + va % 0x10000) data).1.setKitty
          (k.setGot parity (if (k.got parity).contains g then k.got parity else k.got parity ++ [g])))) ∧
      (k.whole k.next = count → sealing = .next
        ((s.setKitty ({ k with isSealed := some k.next, lost := false }.setGot (!k.next) [])).kittyReply 0 { r with va := 0 } 0 [])) ∧
      (k.whole k.next ≠ count → sealing = .next s) ∧
      (k.page va = none ∨ k.isSealed = none → get = .next (s.kittyReply 0 r K.eLinkKitty [])) ∧
      (∀ p par s1 o, k.page va = some p → k.isSealed = some par → s.takePA 0 (p.frame par + va % 0x10000) len = (s1, o) →
        get = .next (match (o : Option (List Byte)) with
          | some bs => s1.kittyReply 0 r 0 bs
          | none => s1.kittyReply 0 r K.eMemUncorrectable [])))

/-! ### Hosts -/

/-- R410, R411, R413, R415: sessions. While main firmware runs and the port is up, an opening outside a session gets
the lowest free number and an answer; a repeat gets the same answer again; fields out of range, no free number and a
management session asked for on another port are refused in that order; an opening that names a session is dropped
and counted. An acknowledgement of a session counts as heard. The timers send an ACK that is due, resend a message
and lose the session at the sixteenth resend, drop a message that did not come whole in 100 ms, lose a session that
has been silent for three keepalive intervals, and end a detached job after its linger; without such a message,
session or job they change nothing. -/
def Obligations.HostSessions : Prop :=
  ∀ (s : State) (h : Hdr) (nonce : Word) (mgmt : Bool) (keep linger rto : BitVec 16) (n : Nat) (seq : BitVec 32),
    let open_ := exec (.sessionOpen h nonce mgmt keep linger rto) s
    let runs := s.mainRuns = true ∧ s.portUp h.port = true
    let outside := runs ∧ h.session = 0xFFFF ∧ h.cookie = 0
    let same := fun (y : Nat × Sess) => y.2.nonce == nonce && y.2.port == h.port && y.2.src == h.src && y.2.udp == h.udp
    let fieldsOk := keep.toNat ≤ 60000 ∧ linger.toNat ≤ 3600 ∧ (rto = 0 ∨ 20 ≤ rto.toNat)
    let privOk := mgmt = false ∨ s.mgmtPort h.port = true
    let refused := fun (c : Code) => Host.Outcome.next (s.resultOut h.port h.src h.udp h.seq (resultMsg h.seq c []))
    let slot := (List.range 256).find? (fun k => (s.session k).isNone)
    (¬ runs → open_ = .next s ∧ exec (.ack h) s = .next s) ∧
    (runs → ¬ outside → open_ = .next (s.tuDrop h.port)) ∧
    (∀ y, outside → s.sess.find? same = some y → open_ = .next (s.resultOut h.port h.src h.udp h.seq y.2.opened)) ∧
    (outside → s.sess.find? same = none → ¬ fieldsOk → open_ = refused K.eHostFormat) ∧
    (outside → s.sess.find? same = none → fieldsOk → slot = none → open_ = refused K.eHostSessions) ∧
    (∀ k, outside → s.sess.find? same = none → fieldsOk → slot = some k → ¬ privOk → open_ = refused K.eHostPriv) ∧
    (∀ k, outside → s.sess.find? same = none → fieldsOk → slot = some k → privOk →
      ∃ t y, open_ = .next t ∧ t.sess = s.sess ++ [(k, y)] ∧ y.nonce = nonce ∧ y.mgmt = mgmt ∧ y.port = h.port ∧ y.src = h.src ∧ y.udp = h.udp ∧
        y.expect = 0 ∧ y.linger = linger.toNat ∧ y.keep = (if keep = 0 then 1000 else keep.toNat) ∧ y.rto = (if rto = 0 then 200 else rto.toNat) ∧
        y.opened = resultMsg h.seq 0 (s.openFields k y.cookie h.port) ∧
        t.out = s.out ++ [.hostless h.port h.src h.udp h.seq y.opened] ∧ t.regs = s.regs ∧ t.mem = s.mem) ∧
    (∀ y, runs → s.sessOf h = some y → exec (.ack h) s =
      .next ((s.updSess h.session.toNat (fun z => { z with heard := s.gtime })).hostAck h.session.toNat h.ack)) ∧
    (runs → s.sessOf h = none → exec (.ack h) s = .next (s.tuDrop h.port)) ∧
    (∀ y, s.session n = some y →
      (y.ackDue = true → exec (.deviceAckTimer n) s =
        .next { s.updSess n (fun z => { z with ackDue := false }) with out := s.out ++ [.host n y.next (y.expect - 1) ⟨0x10, []⟩] }) ∧
      (y.ackDue = false → exec (.deviceAckTimer n) s = .next s) ∧
      (∀ u, y.unacked.find? (fun v => v.seq == seq) = some u →
        let st := s.until (u.sent + BitVec.ofNat 64 (1000 * y.rto * 2 ^ min 6 u.resends))
        let s0 := { st with out := st.out ++ [Out.host n u.seq (y.expect - 1) u.msg] }
        let s1 := s0.updSess n (fun z =>
          { z with ackDue := false, unacked := z.unacked.map (fun (v : Unacked) =>
              if v.seq = seq then { v with resends := v.resends + 1, sent := s0.gtime } else v) })
        (u.resends < 15 → exec (.messageResend n seq) s = .next s1) ∧
        (15 ≤ u.resends → exec (.messageResend n seq) s = .next (s1.loseSession n))) ∧
      (y.unacked.find? (fun v => v.seq == seq) = none → exec (.messageResend n seq) s = .next s) ∧
      (∀ p, y.parts.find? (fun q => q.seq == seq) = some p → exec (.reassemblyTimeout n seq) s =
        .next ((s.until (p.since + 100000000)).updSess n (fun z => { z with parts := z.parts.filter (fun q => q.seq != seq) }))) ∧
      (y.parts.find? (fun q => q.seq == seq) = none → exec (.reassemblyTimeout n seq) s = .next s) ∧
      exec (.sessionLost n) s = .next ((s.until (y.heard + BitVec.ofNat 64 (3 * y.keep * 1000000))).loseSession n)) ∧
    (s.session n = none → exec (.deviceAckTimer n) s = .next s ∧ exec (.messageResend n seq) s = .next s ∧
      exec (.reassemblyTimeout n seq) s = .next s ∧ exec (.sessionLost n) s = .next s) ∧
    (∀ j, s.job n = some j → j.session = none → j.ending = false → exec (.lingerExpiry n) s =
      .next ((s.until (j.detachedAt + BitVec.ofNat 64 (j.linger * 1000000000))).endJob n)) ∧
    (∀ j, s.job n = some j → j.session ≠ none ∨ j.ending = true → exec (.lingerExpiry n) s = .next s) ∧
    (s.job n = none → exec (.lingerExpiry n) s = .next s)

/-- R409, R410: a request of a session, whatever it asks, acknowledges what its header names; if it is next in order
it is handled, followed by those accepted ahead of their turn as long as the next of them is there and the session
does not close; up to 63 ahead of its turn it waits, and earlier than its turn it gets its RESULT again or an ACK. A
closing session and one farther ahead take no request; a message of no session is dropped and counted; while main
firmware does not run or the port is down nothing happens. -/
def Obligations.HostRequests : Prop :=
  ∀ (s : State) (h : Hdr),
    let n := h.session.toNat
    let heard := (s.updSess n (fun z => { z with heard := s.gtime })).hostAck n h.ack
    let rule := fun (r : HReq) (out : Res) =>
      (¬ (s.mainRuns = true ∧ s.portUp h.port = true) → out = .next s) ∧
      (s.mainRuns = true → s.portUp h.port = true → s.sessOf h = none → out = .next (s.tuDrop h.port)) ∧
      (∀ x, s.mainRuns = true → s.portUp h.port = true → s.sessOf h = some x →
        let d := (h.seq - x.expect).toNat
        (x.closing ≠ none → out = .next heard) ∧
        (x.closing = none → d = 0 → out = .next (heard.handOn 65 n h.seq r)) ∧
        (x.closing = none → 0 < d → d < 64 → out = .next (heard.updSess n (fun z =>
          { z with ackDue := true, early := if z.early.any (fun e => e.1 == h.seq) then z.early else z.early ++ [(h.seq, r)] }))) ∧
        (x.closing = none → 64 ≤ d → d < 2 ^ 31 → out = .next heard) ∧
        (x.closing = none → 2 ^ 31 ≤ d → out = .next (heard.hostAgain n h.seq)))
    (∀ (t : State) (f k : Nat) (seq : BitVec 32) (r : HReq),
      let u := (t.updSess k (fun y => { y with expect := seq + 1, ackDue := true })).handle k seq r
      (∀ y, u.session k = some y → y.closing = none → y.early.find? (fun e => e.1 == y.expect) = none → t.handOn (f + 1) k seq r = u) ∧
      (∀ y q r', u.session k = some y → y.closing = none → y.early.find? (fun e => e.1 == y.expect) = some (q, r') →
        t.handOn (f + 1) k seq r = (u.updSess k (fun y => { y with early := y.early.filter (fun e => e.1 != q) })).handOn f k q r') ∧
      (u.session k = none → t.handOn (f + 1) k seq r = u)) ∧
    (∀ d, rule (.close d) (exec (.sessionClose h d) s)) ∧ rule .keepalive (exec (.keepalive h) s) ∧
    (∀ port kind index plen addr remove,
      rule (.netConfig port kind index plen addr remove) (exec (.netConfig h port kind index plen addr remove) s)) ∧
    (∀ die value, rule (.mbxWrite die value) (exec (.mbxWrite h die value) s)) ∧
    (∀ job va len rd wr m, rule (.windowGrant job va len rd wr m) (exec (.windowGrant h job va len rd wr m) s)) ∧
    (∀ w, rule (.windowRevoke w) (exec (.windowRevoke h w) s)) ∧
    (∀ a b gid m, rule (.qpCreate a b gid m) (exec (.qpCreate h a b gid m) s)) ∧
    (∀ q, rule (.qpDestroy q) (exec (.qpDestroy h q) s)) ∧
    (∀ req choice maps, rule (.jobAdmit req choice maps) (exec (.jobAdmit h req ⟨choice, maps⟩) s)) ∧
    (∀ job, rule (.jobEnd job) (exec (.jobEnd h job) s)) ∧
    (∀ job key, rule (.jobAttach job key) (exec (.jobAttach h job key) s)) ∧
    (∀ req, rule (.cmdSubmit req) (exec (.cmdSubmit h req) s)) ∧
    (∀ job tag, rule (.cmdCancel job tag) (exec (.cmdCancel h job tag) s)) ∧
    (∀ slot erase iv wrapped tag, rule (.keystorePut slot erase iv wrapped tag) (exec (.keystorePut h slot erase iv wrapped tag) s))

/-- R406, R412, R415 to R420, R422 to R424, R427, R458, R462: what a request that a session hands on does, for every
kind of request, and the RESULT it answers: the code of each refusal in the order of the checks, and where none
refuses it the change it makes with status 0 and its fields (an address set or removed, a mailbox written, a window
or a queue pair made or taken away, a job admitted, ended or attached, a command queued or cancelled, a key stored, a
report signed). A JOB_ADMIT is answered when the job is placed, a JOB_END when it has ended. While fewer than 64
messages wait for their acknowledgement a RESULT goes out at once. -/
def Obligations.HostRequestResults : Prop :=
  ∀ (s : State) (n : Nat) (seq : BitVec 32) (x : Sess), s.session n = some x →
    let answers := fun (r : HReq) (c : Code) => s.handle n seq r = s.result n seq c []
    let code := fun (c : Bool) (a b : Code) => if c then a else b
    answers .keepalive 0 ∧ answers .bad K.eHostType ∧ answers .malformed K.eHostFormat ∧ answers .load K.eLoadStage ∧
    s.handle n seq .identity = s.result n seq 0 s.identityFields ∧
    s.handle n seq (.close true) = ((s.detachJobs n).result n seq 0 []).dropSession n ∧
    ((∀ j ∈ s.jobs, j.session ≠ some n) → s.handle n seq (.close false) =
      ((s.updSess n (fun y => { y with closing := some seq })).result n seq 0 []).dropSession n) ∧
    (∀ port kind index plen addr remove,
      let bad := 1 < BitVec.toNat port ∨ 1 < BitVec.toNat kind ∨ 3 < BitVec.toNat index ∨ (if kind = 0 then 32 else 128) < BitVec.toNat plen
      let a : NetAddr := ⟨BitVec.toNat port, kind == 1, if kind = 0 then 0 else BitVec.toNat index, BitVec.toNat plen, if kind = 0 then addr &&& 0xFFFFFFFF else addr⟩
      let rest := s.nets.filter (fun y => !(y.port == a.port && y.v6 == a.v6 && y.index == a.index))
      (x.mgmt = false → answers (.netConfig port kind index plen addr remove) K.eHostPriv) ∧
      (x.mgmt = true → bad → answers (.netConfig port kind index plen addr remove) K.eHostFormat) ∧
      (x.mgmt = true → ¬ bad → s.handle n seq (.netConfig port kind index plen addr remove) =
        { s with nets := if remove then rest else rest ++ [a] }.result n seq 0 [])) ∧
    (∀ die value,
      (1 < BitVec.toNat die → answers (.mbxWrite die value) K.eHostFormat) ∧
      (BitVec.toNat die ≤ 1 → s.handle n seq (.mbxWrite die value) =
        (s.mbxPut die.toNat (32 + n) true value).result n seq (code (s.mbxFull die.toNat (32 + n)) K.eHostMbxFull 0) [])) ∧
    (∀ job va len rd wr m,
      let bad := va % 0x10000 ≠ 0 ∨ len % 0x10000 ≠ 0 ∨ len = 0 ∨ 1 < BitVec.toNat m ∨ 2 ^ 48 < va + len ∨
        1024 ≤ (s.wndws.filter (fun w => w.session == n)).length ∨ (job = 0 ∧ 2 ^ 30 < len)
      (job ≠ 0 → s.ownJob n job = none → answers (.windowGrant job va len rd wr m) K.eHostJob) ∧
      (job = 0 ∨ s.ownJob n job ≠ none → bad → answers (.windowGrant job va len rd wr m) K.eHostWindow) ∧
      (job = 0 ∨ s.ownJob n job ≠ none → ¬ bad → ∃ (w : Wndw) (u : State), s.handle n seq (.windowGrant job va len rd wr m) =
          u.result n seq 0 (leBytes 4 w.num ++ leBytes 4 w.rkey.toNat ++ leBytes 8 w.va) ∧ u.wndws = s.wndws ++ [w] ∧
          w.num = s.wndwNext ∧ w.session = n ∧ w.job = job ∧ w.len = len ∧ w.wmode = m.toNat ∧
          (job ≠ 0 → w.va = va ∧ w.rd = rd ∧ w.wr = wr) ∧ (job = 0 → w.rd = false ∧ w.wr = true))) ∧
    (∀ w, ((∃ y ∈ s.wndws, y.num = w ∧ y.session = n) → s.handle n seq (.windowRevoke w) =
        { s with wndws := s.wndws.filter (fun y => y.num != w) }.result n seq 0 []) ∧
      ((∀ y ∈ s.wndws, ¬ (y.num = w ∧ y.session = n)) → answers (.windowRevoke w) K.eHostWindow)) ∧
    (∀ q, ((∃ y ∈ s.qps, y.num = q ∧ y.session = n) → s.handle n seq (.qpDestroy q) =
        { s with qps := s.qps.filter (fun y => y.num != q) }.result n seq 0 []) ∧
      ((∀ y ∈ s.qps, ¬ (y.num = q ∧ y.session = n)) → answers (.qpDestroy q) K.eHostQp)) ∧
    (∀ a b gid m,
      let bad := 2 ^ 24 ≤ BitVec.toNat a ∨ 2 ^ 24 ≤ BitVec.toNat b ∨ 2 < BitVec.toNat m ∨ 4096 ≤ (s.qps.filter (fun q => q.port == x.port)).length
      (bad → answers (.qpCreate a b gid m) K.eHostQp) ∧
      (¬ bad → ∃ (q : Qp) (u : State), s.handle n seq (.qpCreate a b gid m) =
        u.result n seq 0 (leBytes 4 q.num.toNat ++ leBytes 4 q.psn.toNat ++ beBytes 16 (s.linkLocal x.port).toNat) ∧ u.qps = s.qps ++ [q] ∧
        q.session = n ∧ q.port = x.port ∧ q.hqpn = a ∧ q.hpsn = b ∧ q.gid = gid ∧ q.pmtu = 1024 * 2 ^ m.toNat)) ∧
    (∀ r choice maps,
      (∀ c, s.admitCheck n r = .error c → answers (.jobAdmit r choice maps) c) ∧
      (∀ g, s.admitCheck n r = .ok g → s.noRoom g.1 r choice = true → answers (.jobAdmit r choice maps) K.eJobNoRoom) ∧
      (∀ g, s.admitCheck n r = .ok g → s.noRoom g.1 r choice = false →
        let s1 := s.fresh.2
        let j := s1.newJob n r g.1 g.2 s.fresh.1 (s1.freeTable.getD 0)
        s.handle n seq (.jobAdmit r choice maps) = (s1.enrol { j with maps := { maps with bytes := [] } } r.window maps).admitPlace n seq j choice)) ∧
    (∀ job,
      (s.ownJob n job = none → answers (.jobEnd job) K.eHostJob) ∧
      (∀ j, s.ownJob n job = some j → j.ending = true → answers (.jobEnd job) K.eHostJob) ∧
      (∀ j, s.ownJob n job = some j → j.ending = false → s.handle n seq (.jobEnd job) =
        (s.updJob job (fun j => { j with reply := some (n, seq, false) })).endJob job)) ∧
    (∀ job key,
      ((∀ j, s.job job = some j → j.key ≠ key ∨ j.ending = true) → answers (.jobAttach job key) K.eHostJob) ∧
      (∀ j, s.job job = some j → j.key = key → j.ending = false →
        let s1 := if j.session.isSome ∧ j.session ≠ some n then s.jobStatus j K.eHostJob else s
        s.handle n seq (.jobAttach job key) = (((s1.updJob job (fun j => { j with
          session := some n
          reply := none
          cmds := j.cmds.map (fun (c : Cmd) => if c.acked then c else { c with sent := false }) })).result n seq 0 []).revive job).flushDone job)) ∧
    (∀ r : CmdReq,
      (s.ended.contains r.job = true → answers (.cmdSubmit r) K.eJobEnded) ∧
      (s.ended.contains r.job = false → s.ownJob n r.job = none → answers (.cmdSubmit r) K.eHostJob) ∧
      (∀ j, s.ended.contains r.job = false → s.ownJob n r.job = some j →
        (j.ending = true → answers (.cmdSubmit r) K.eJobEnded) ∧
        (j.ending = false → j.rank ≠ 0 → answers (.cmdSubmit r) K.eHostNotLead) ∧
        (j.ending = false → j.rank = 0 → 256 ≤ j.open_.length → answers (.cmdSubmit r) K.eHostQueue) ∧
        (j.ending = false → j.rank = 0 → j.open_.length < 256 → cmdOk j r = false → answers (.cmdSubmit r) K.eHostFormat) ∧
        (j.ending = false → j.rank = 0 → j.open_.length < 256 → cmdOk j r = true → ∃ k, mapSeqs r.seqs j = some k ∧
          s.handle n seq (.cmdSubmit r) = (s.updJob j.handle (fun _ =>
            { k with cmds := k.cmds ++ [{ num := j.next, req := r }], next := j.next + 1 })).result n seq 0 (leBytes 8 j.next)))) ∧
    (∀ job tag,
      (s.ownJob n job = none → answers (.cmdCancel job tag) K.eHostJob) ∧
      (∀ j, s.ownJob n job = some j →
        (∀ c, j.open_.find? (fun c => c.req.tag == tag) = some c → c.st = .running →
          s.handle n seq (.cmdCancel job tag) = (s.result n seq 0 []).orderKill j.table .cancel false) ∧
        (∀ c, j.open_.find? (fun c => c.req.tag == tag) = some c → c.st ≠ .running → s.handle n seq (.cmdCancel job tag) =
          ((s.updJob job (fun y => y.setCmd c.num (fun c => { c with st := .ended K.cancelled }))).result n seq 0 []).flushDone job) ∧
        (j.open_.find? (fun c => c.req.tag == tag) = none →
          answers (.cmdCancel job tag) (code (j.cmds.any (fun c => c.req.tag == tag)) K.eHostCmdDone K.eHostCmd)))) ∧
    (∀ slot erase iv wrapped tag,
      (x.mgmt = false → answers (.keystorePut slot erase iv wrapped tag) K.eHostPriv) ∧
      (x.mgmt = true → s.handle n seq (.keystorePut slot erase iv wrapped tag) =
        (s.putKey slot erase iv wrapped tag).1.result n seq (s.putKey slot erase iv wrapped tag).2 [])) ∧
    (∀ nonce,
      (s.attestReport nonce = none → answers (.attest nonce) K.eAttestExhausted) ∧
      (∀ bs u, s.attestReport nonce = some (bs, u) → s.handle n seq (.attest nonce) = u.result n seq 0 bs)) ∧
    (x.unacked.length < 64 → (s.result n seq 0 []).out = s.out ++ [.host n x.next (x.expect - 1) (resultMsg seq 0 [])])

/-- R404 to R409, R425, R426, R430: the events of an Ethernet port. A frame too short or too long is discarded, one
with a wrong check is discarded and counted, and of the rest only a datagram to port 19,580 at an address of the port
is taken; one whose header is wrong is dropped and counted. An up port answers ARP, neighbour solicitations and
echoes for its own addresses and for no others; pause is obeyed on the priorities enabled and changes nothing else; a
CNP halves a queue pair's rate down to 1 Gb/s, and a rise adds 5 Gb/s up to the port's rate. An RDMA operation that
no window admits is denied and ends its queue pair; one whose table is busy is answered RNR; a write goes into its
staging window or to the job's space, waits while a page is held, and is answered; a read is answered with its bytes
or with an error. An enabled port that has trained is up at the trained rate, or at the configured one on an AUI.
Without the port, main firmware or the queue pair the command changes nothing. -/
def Obligations.EthernetPorts : Prop :=
  ∀ (s : State) (port : BitVec 1) (bytes : List Byte) (v6 : Bool) (dst src : BitVec 128) (prio : BitVec 3) (stop ce : Bool)
    (qpn rkey : BitVec 32) (va len : Nat) (rate : BitVec 2),
    let n := bytes.length
    let d := s.portUp port = true
    let receive := exec (.ethFrameReceive port bytes) s
    let fits := 64 ≤ n ∧ n ≤ 9216 ∧ n ≤ s.fld (R.ethPcfg port.toNat) 45 32
    let fcsOk := (Config.etherFcs (bytes.take (n - 4))).toNat = leAt bytes (n - 4) 4
    let b := (bytes.take (n - 4)).drop 12
    let datagram := if beAt b 0 2 = 0x8100 then s.ipOf port (beAt b 4 2) (b.drop 6) else s.ipOf port (beAt b 0 2) (b.drop 2)
    let holds := if v6 then s.hasV6 port dst.toNat else s.hasV4 port dst.toNat
    let pfc := bit (4 + prio.toNat) (s.reg (R.ethPcfg port.toNat))
    let runs := s.mainRuns = true ∧ d
    let s1 := fun (q : Qp) => if ce then s.ceMark port q else s
    let write := exec (.rdmaWrite port qpn rkey va bytes ce) s
    let read := exec (.rdmaRead port qpn rkey va len ce) s
    let trained := fun (r : Nat) => s.setFld (R.ethPstat port.toNat) 4 0 (2 + r * 4 + 16)
    (¬ (d ∧ fits) → receive = .next s) ∧
    (d → fits → ¬ fcsOk → receive = .next (s.incFld (R.ethPcnt port.toNat) 31 0 1)) ∧
    (∀ g, d → fits → fcsOk → datagram = some g → g.dport = 19580 → receive = .next (s.tuReceive port g)) ∧
    (∀ g, d → fits → fcsOk → datagram = some g → g.dport ≠ 19580 → receive = .next s) ∧
    (d → fits → fcsOk → datagram = none → receive = .next s) ∧
    (∀ g, tuHeaderOk g.data = false → s.tuReceive port g = s.tuDrop port) ∧
    (∀ target sender mac,
      (d → s.hasV4 port target.toNat = true →
        exec (.arpRequest port target sender mac) s = .next { s with out := s.out ++ [.arp port target sender (s.macOf port)] }) ∧
      (¬ d ∨ s.hasV4 port target.toNat = false → exec (.arpRequest port target sender mac) s = .next s)) ∧
    (∀ target sender,
      (d → s.hasV6 port target.toNat = true →
        exec (.neighbourSolicitation port target sender) s = .next { s with out := s.out ++ [.advert port target sender (s.macOf port)] }) ∧
      (¬ d ∨ s.hasV6 port target.toNat = false → exec (.neighbourSolicitation port target sender) s = .next s)) ∧
    (d → holds = true → exec (.icmpEcho port v6 dst src bytes) s = .next { s with out := s.out ++ [.echo port v6 dst src bytes] }) ∧
    (¬ d ∨ holds = false → exec (.icmpEcho port v6 dst src bytes) s = .next s) ∧
    (d → pfc = true → ∃ t, exec (.pfcPause port prio stop) s = .next t ∧
      ((port.toNat, prio.toNat) ∈ t.paused ↔ stop = true) ∧ (∀ e, e ≠ (port.toNat, prio.toNat) → (e ∈ t.paused ↔ e ∈ s.paused)) ∧
      t = { s with paused := t.paused }) ∧
    (¬ d ∨ pfc = false → exec (.pfcPause port prio stop) s = .next s) ∧
    (d → exec (.cnpReceive port qpn) s = .next { s with qps := s.qps.map (fun (q : Qp) =>
      if q.port = port ∧ q.num = qpn then { q with rate := max 1000 (q.rate / 2) } else q) }) ∧
    (¬ d → exec (.cnpReceive port qpn) s = .next s) ∧
    exec (.roceRateRise port qpn) s = .next { s with qps := s.qps.map (fun (q : Qp) =>
      if q.port = port ∧ q.num = qpn then { q with rate := min (s.portRate port) (q.rate + 5000) } else q) } ∧
    (¬ runs ∨ s.qp port qpn = none → write = .next s ∧ read = .next s) ∧
    (∀ q, runs → s.qp port qpn = some q →
      let u := s1 q
      (u.rdmaWindow q rkey va n true = none → write = .next (u.rdmaDenied port q)) ∧
      (u.rdmaWindow q rkey va len false = none → read = .next (u.rdmaDenied port q)) ∧
      (∀ w, u.rdmaWindow q rkey va n true = some w →
        (u.rdmaBusy w = true → write = .next (u.rdmaAnswer q (u.rnr port))) ∧
        (u.rdmaBusy w = false → w.job = 0 → write = .next ({ u with wndws := u.wndws.map (fun (x : Wndw) =>
          if x.num = w.num then { x with data := x.data.writeN (va - x.va) bytes } else x) }.rdmaAnswer q .ack)) ∧
        (∀ v r, u.rdmaBusy w = false → w.job ≠ 0 → u.landVA (ethAgent q.port.toNat) (u.windowTable w) va false false bytes = (v, r) →
          write = .next (match (r : Land) with
            | .done => v.rdmaAnswer q .ack
            | .held => u
            | .refused c => if c = K.eMemUncorrectable then v.rdmaAnswer q .nakError else u.rdmaDenied port q
            | .absent => u.rdmaDenied port q))) ∧
      (∀ w, u.rdmaWindow q rkey va len false = some w →
        (u.rdmaBusy w = true → read = .next (u.rdmaAnswer q (u.rnr port))) ∧
        (∀ v bs, u.rdmaBusy w = false → u.takeVA (ethAgent q.port.toNat) (u.windowTable w) va len false = (v, .ok bs) →
          read = .next (v.rdmaAnswer q (.data bs))) ∧
        (∀ v e, u.rdmaBusy w = false → u.takeVA (ethAgent q.port.toNat) (u.windowTable w) va len false = (v, .error e) →
          read = .next (v.rdmaAnswer q .nakError)))) ∧
    (bit 0 (s.reg (R.ethPcfg port.toNat)) = true → exec (.ethernetPortTrained port rate) s =
      .next (trained (if bit (2 + port.toNat) (s.reg R.pinStrap) then s.fld (R.ethPcfg port.toNat) 2 1 else rate.toNat))) ∧
    (bit 0 (s.reg (R.ethPcfg port.toNat)) = false → exec (.ethernetPortTrained port rate) s = .next s)

/-! ### Boot, reset, power, pins -/

/-- R432, R435 to R440, R446, R448, R449, R456, R461, R462: kindling and the load. Outside an episode kindling is
entered once; after a load fault it stays idle, and with fuse copies that differ the load fails at once. While
firmware runs on an up port it announces itself. The first offer in range is taken, a repeat gets the same answer,
another source finds it busy, and an offer out of range is refused; the main stage refuses every load message. A
message of the load is taken in its turn, waits up to 63 ahead of it, and is answered again if it comes twice: a
chunk that is next and fits is stored, another is a format error, and the end starts the checks. The checks fail the
load with their code or commit it; in the tick of the deadline it fails, as it does at the deadline. Identity and
attestation are answered outside a session too, a report asked for again within 1 s by its copy. The store loses
marker, keys and count with its battery while the power-on source asserts. Otherwise the command changes nothing or
is dropped and counted. -/
def Obligations.KindlingAndLoad : Prop :=
  ∀ (s : State) (h : Hdr) (nonce : Word) (len deadline off : Nat) (data : List Byte) (a : BitVec 256),
    let isUp := s.portUp h.port = true
    let kind := s.kindlingRuns = true ∧ isUp
    let mainUp := s.mainRuns = true ∧ isUp
    let runs := s.mainRuns = true ∨ s.kindlingRuns = true
    let outside := h.session = 0xFFFF
    let offer := exec (.loadOffer h nonce len deadline) s
    let bound := fun (l : Load) => outside ∧ h.cookie = l.cookie ∧ l.sameSource h = true
    let turn := fun (l : Load) => kind ∧ s.sec.load = some l ∧ bound l ∧ h.seq = l.expect ∧ l.early = []
    let next := s.setLoad (fun l => { l with expect := h.seq + 1 })
    let n := data.length
    let fits := fun (l : Load) => off = l.next ∧ off + n ≤ l.len ∧ 0 < n ∧ (n = 8192 ∨ (n < 8192 ∧ off + n = l.len)) ∧ l.endSeq = none
    let entered := s.updSec (fun x => { x with entered := true, load := none })
    let entry := exec .kindlingEntry s
    let same := s.fuses.stepping0 = s.fuses.stepping1 ∧ s.fuses.grade0 = s.fuses.grade1
    let msg := fun (m : Option (Nat × List Byte)) (out : Res) =>
      (¬ isUp ∨ ¬ runs → out = .next s) ∧
      (mainUp → outside → out = .next (s.answerOut h K.eLoadStage [])) ∧
      (mainUp → ¬ outside → out = .next (s.hostMsg h .load)) ∧
      (kind → s.sec.load = none → out = .next (if h.session = 0xFFFF then s.answerOut h K.eLoadStage [] else s.tuDrop h.port)) ∧
      (∀ l, kind → s.sec.load = some l → ¬ bound l → out = .next (s.tuDrop h.port)) ∧
      (∀ l, kind → s.sec.load = some l → bound l →
        let d := (h.seq - l.expect).toNat
        (d = 0 → out = .next (s.loadOn 65 h.seq m)) ∧
        (0 < d → d < 64 → out = .next (s.setLoad (fun l =>
          { l with early := if l.early.any (fun e => e.1 == h.seq) then l.early else l.early ++ [(h.seq, m)] }))) ∧
        (64 ≤ d → d < 2 ^ 31 → out = .next s) ∧
        (∀ r, 2 ^ 31 ≤ d → l.results.find? (fun r => r.1 == h.seq) = some r → out = .next (s.resultOut l.port l.src l.udp h.seq r.2)) ∧
        (2 ^ 31 ≤ d → l.results.find? (fun r => r.1 == h.seq) = none → out = .next s))
    let answers := fun (i : Instr) (r : HReq) (answer : State) =>
      (¬ isUp ∨ ¬ runs → exec i s = .next s) ∧
      (isUp → runs → ¬ outside → exec i s = .next (s.hostMsg h r)) ∧
      (isUp → runs → outside → h.cookie ≠ 0 → exec i s = .next (s.tuDrop h.port)) ∧
      (isUp → runs → outside → h.cookie = 0 → exec i s = .next answer)
    (s.sec.entered = true ∨ s.episode ≠ none → entry = .next s) ∧
    (s.sec.entered = false → s.episode = none → s.loadState = 4 → entry = .next entered) ∧
    (s.sec.entered = false → s.episode = none → s.loadState ≠ 4 → same →
      entry = .next ((((entered.setFld R.secLoad 2 0 0).checkStore).bringUp 0).bringUp 1)) ∧
    (s.sec.entered = false → s.episode = none → s.loadState ≠ 4 → ¬ same →
      entry = .next ((entered.setFld R.secLoad 2 0 0).loadFail K.eFuseInconsistent 0)) ∧
    (runs → isUp → exec (.announce h.port) s = .next { s with out := s.out ++ [.announce h.port (s.announcePayload h.port)] }) ∧
    (¬ isUp ∨ ¬ runs → exec (.announce h.port) s = .next s) ∧
    (¬ isUp ∨ ¬ runs → offer = .next s) ∧
    (mainUp → outside → offer = .next (s.answerOut h K.eLoadStage [])) ∧ (mainUp → ¬ outside → offer = .next (s.hostMsg h .load)) ∧
    (kind → ¬ outside ∨ h.cookie ≠ 0 → offer = .next (s.tuDrop h.port)) ∧
    (kind → outside → h.cookie = 0 → s.sec.load = none → 8272 ≤ len → len ≤ 268435536 → 0 < deadline → deadline ≤ 600000 →
      offer = .next (s.acceptOffer h nonce len deadline)) ∧
    (kind → outside → h.cookie = 0 → s.sec.load = none → len < 8272 ∨ 268435536 < len ∨ deadline = 0 ∨ 600000 < deadline →
      offer = .next (s.answerOut h K.eLoadOffer [])) ∧
    (∀ l, kind → outside → h.cookie = 0 → s.sec.load = some l →
      (l.sameSource h = false → offer = .next (s.answerOut h K.eLoadBusy [])) ∧
      (l.sameSource h = true → l.nonce = nonce → offer = .next (s.resultOut h.port h.src h.udp h.seq l.offer)) ∧
      (l.sameSource h = true → l.nonce ≠ nonce → offer = .next (s.answerOut h K.eLoadStage []))) ∧
    msg (some (off, data)) (exec (.loadData h off data) s) ∧ msg none (exec (.loadEnd h) s) ∧
    (∀ l, turn l → fits l → exec (.loadData h off data) s =
      .next (((next.wrN off data).setLoad (fun l => { l with next := l.next + n })).loadResult l h.seq 0)) ∧
    (∀ l, turn l → ¬ fits l → exec (.loadData h off data) s = .next (next.loadResult l h.seq K.eLoadFormat)) ∧
    (∀ l, turn l → l.endSeq = none →
      exec (.loadEnd h) s = .next ((next.setLoad (fun l => { l with endSeq := some h.seq })).setFld R.secLoad 2 0 2)) ∧
    (∀ l, turn l → l.endSeq ≠ none → exec (.loadEnd h) s = .next (next.loadResult l h.seq K.eLoadStage)) ∧
    (∀ l, s.sec.load = some l → s.kindlingRuns = true → s.loadState = 2 →
      (l.deadline.toNat ≤ s.gtime.toNat → exec .loadChecksDone s = .next (s.loadFail K.eLoadDeadline 0)) ∧
      (∀ c d, s.gtime.toNat < l.deadline.toNat → s.checkImage (s.decN 0 l.next) l.len = .error (c, d) →
        exec .loadChecksDone s = .next (s.loadFail c d)) ∧
      (∀ pt, s.gtime.toNat < l.deadline.toNat → s.checkImage (s.decN 0 l.next) l.len = .ok pt →
        exec .loadChecksDone s = .next (s.loadCommit l pt))) ∧
    (s.sec.load = none ∨ s.kindlingRuns = false ∨ s.loadState ≠ 2 → exec .loadChecksDone s = .next s) ∧
    (∀ l, s.sec.load = some l → s.kindlingRuns = true → exec .loadDeadline s = .next ((s.until l.deadline).loadFail K.eLoadDeadline 0)) ∧
    (s.sec.load = none ∨ s.kindlingRuns = false → exec .loadDeadline s = .next s) ∧
    answers (.identity h) .identity (s.answerOut h 0 s.identityFields) ∧
    answers (.attest h a) (.attest a) (match s.sec.attested with
      | some (src, udp, v, t, m) =>
        if src = h.src ∧ udp = h.udp ∧ v = a ∧ (s.gtime - t).toNat ≤ 1000000000 then s.resultOut h.port h.src h.udp h.seq m else s.attestOut h a
      | none => s.attestOut h a) ∧
    (∀ e, s.episode = some e → e.held.contains .powerOn = true → exec .vbatLoss s =
      .next (((s.updSec (fun x => { x with marker := 0, keys := [none, none, none, none] })).setFld R.secBbk 21 8 0).setFullBits)) ∧
    (s.episode = none ∨ (∃ e, s.episode = some e ∧ e.held.contains .powerOn = false) → exec .vbatLoss s = .next s)

/-- R452, R457, R461: no step ever unburns a fuse bit, and no other fuse changes: the rollback count, the epochs and
the revocations only grow. -/
def Obligations.FusesOnlyBurn : Prop :=
  ∀ (s t : State), step s = .next t →
    s.fuses.svn &&& t.fuses.svn = s.fuses.svn ∧ s.fuses.epoch &&& t.fuses.epoch = s.fuses.epoch ∧
    s.fuses.keyrev &&& t.fuses.keyrev = s.fuses.keyrev ∧
    t.fuses = { s.fuses with svn := t.fuses.svn, epoch := t.fuses.epoch, keyrev := t.fuses.keyrev }

/-- R468, R469, R471, R472, R474 to R477, R479, R511, R512: reset. A package source is taken at its level: with no
episode of any kind it begins one and the level's reset happens, and it joins a running episode, which it raises to
its level if that is higher. RESET_N counts while the part does not drive it. At Block level a core that locks up, or
whose watchdog has expired twice, is fenced to drain, and then has a Block episode if it drained in time, or else a
package episode at Warm. A Block request for no target, or for one not ready, shows its code, and one that is ready
begins its episode. A source releases; once none asserts, the minimum of 10 µs passes, RESET_N is sampled 2 µs later,
and the release ends the episode unless a trip makes it wait; a Block episode ends after its minimum. The reference
fails over to the other one if that is present. Otherwise the command changes nothing. -/
def Obligations.ResetEpisodes : Prop :=
  ∀ (s : State) (core : Nat) (kind : Bool) (die : BitVec 1) (index : BitVec 7) (src : RstSource),
    let begins := fun (i : Instr) (r : RstSource) => exec i s = .next (s.assertPackage r (s.srcLevel r) false)
    let ofCore := fun (i : Instr) (r : RstSource) =>
      (32 ≤ core → exec i s = .next s) ∧
      (core < 32 → s.srcLevel r ≠ .block → begins i r) ∧
      (core < 32 → s.srcLevel r = .block → s.drains.any (fun d => d.1 == core) = true → exec i s = .next s) ∧
      (core < 32 → s.srcLevel r = .block → s.drains.any (fun d => d.1 == core) = false →
        exec i s = .next { s.setFld (R.rstFence (core / 16)) (core % 16) (core % 16) 1 with drains := s.drains ++ [(core, r)] })
    let requests := fun (i : Instr) (r : RstSource) =>
      (s.srcLevel r ≠ .block → begins i r) ∧
      (s.srcLevel r = .block → blockTarget kind index.toNat = false →
        exec i s = .next (s.setReg R.rstRes (BitVec.ofNat 64 K.eRstTarget.toNat))) ∧
      (s.srcLevel r = .block → blockTarget kind index.toNat = true → s.blockReady kind die.toNat index.toNat = false →
        exec i s = .next (s.setReg R.rstRes (BitVec.ofNat 64 K.eRstBusy.toNat))) ∧
      (s.srcLevel r = .block → blockTarget kind index.toNat = true → s.blockReady kind die.toNat index.toNat = true →
        exec i s = .next ((s.setReg R.rstRes 0x10000).assertBlock r kind die.toNat index.toNat))
    let unheld := fun (b : BlockEp) => { b with held := b.held.filter (fun x => x != src) }
    let drained := { s with drains := s.drains.filter (fun d => d.1 != core) }
    let sel := s.refSel
    let lost := s.setRef sel false
    begins .powerOn .powerOn ∧ begins .brownOut .brownOut ∧ begins .clockFailure .clockFailure ∧
    (s.drivesResetN = false → begins .pinReset .pin) ∧ (s.drivesResetN = true → exec .pinReset s = .next s) ∧
    (∀ (u : State) (r : RstSource) (l : Level) (esc : Bool),
      (u.episode = none → u.blocks = [] → u.assertPackage r l esc = { u.applyLevel l with
        episode := some { level := l, held := [r], seen := [r], since := u.gtime, escalated := esc } }) ∧
      (∀ e, u.episode = some e → e.level.index < l.index → u.assertPackage r l esc = { u.applyLevel l with
        episode := some { e with held := addSrc e.held r, seen := addSrc e.seen r, high := false, escalated := e.escalated || esc, level := l, since := u.gtime, minOver := false } }) ∧
      (∀ e, u.episode = some e → l.index ≤ e.level.index → u.assertPackage r l esc =
        { u with episode := some { e with held := addSrc e.held r, seen := addSrc e.seen r, high := false, escalated := e.escalated || esc } })) ∧
    (s.fld (R.stwWdog core) 41 40 = 2 → ofCore (.watchdog core) .watchdog) ∧
    (s.fld (R.stwWdog core) 41 40 ≠ 2 → exec (.watchdog core) s = .next s) ∧ ofCore (.lockUp core) .lockUp ∧
    requests (.rstReq kind die index) .software ∧ (s.debugLevel = 3 → requests (.debugRequest kind die index) .debug) ∧
    (s.debugLevel ≠ 3 → exec (.debugRequest kind die index) s = .next s) ∧
    (∀ d, s.drains.find? (fun d => d.1 == core) = some d →
      exec (.coreDrainTimeout core true) s = .next (drained.assertBlock d.2 true (core / 16) (core % 16)) ∧
      exec (.coreDrainTimeout core false) s = .next (drained.assertPackage d.2 .warm true)) ∧
    (∀ b, s.drains.find? (fun d => d.1 == core) = none → exec (.coreDrainTimeout core b) s = .next s) ∧
    (s.episode = none → exec (.sourceRelease src) s = .next { s with blocks := s.blocks.map unheld } ∧ ∀ b, exec (.resetNSample b) s = .next s) ∧
    (∀ e, s.episode = some e →
      let held := e.held.filter (fun x => x != src)
      exec (.sourceRelease src) s = .next { s with blocks := s.blocks.map unheld, episode := some { e with
        held := held, high := e.high || (e.minOver && src == .pin && e.held.contains .pin && held.isEmpty) } } ∧
      (e.held = [] → e.minOver = false →
        exec .episodeMinimumEnd s = .next { s.until (e.since + 10000) with episode := some { e with minOver := true } }) ∧
      (e.held ≠ [] ∨ e.minOver = true → exec .episodeMinimumEnd s = .next s) ∧
      (e.held = [] → e.minOver = true → e.high = false →
        exec (.resetNSample false) s = .next { s.advance 2000 with episode := some { e with high := true } } ∧
        exec (.resetNSample true) s = .next ((s.advance 2000).assertPackage .pin (s.srcLevel .pin) false)) ∧
      (e.held ≠ [] ∨ e.minOver = false ∨ e.high = true → ∀ b, exec (.resetNSample b) s = .next s) ∧
      (e.held = [] → e.minOver = true → e.high = true → s.tripWaits = false →
        exec .episodeRelease s = .next (s.releasePackage e) ∧ (s.releasePackage e).episode = none) ∧
      (e.held ≠ [] ∨ e.minOver = false ∨ e.high = false ∨ s.tripWaits = true → exec .episodeRelease s = .next s)) ∧
    (∀ b, s.episode = none → s.blocks.find? (fun b => b.held.isEmpty && !b.minOver) = some b → exec .episodeMinimumEnd s =
      .next { s.until (b.since + 10000) with blocks := s.blocks.map (fun (x : BlockEp) =>
        if x.kind = b.kind ∧ x.die = b.die ∧ x.index = b.index then { x with minOver := true } else x) }) ∧
    (s.episode = none → s.blocks.find? (fun b => b.held.isEmpty && !b.minOver) = none → exec .episodeMinimumEnd s = .next s) ∧
    (∀ b, s.episode = none → s.blocks.find? (fun b => b.held.isEmpty && b.minOver) = some b →
      exec .episodeRelease s = .next (s.releaseBlock b)) ∧
    (s.episode = none → s.blocks.find? (fun b => b.held.isEmpty && b.minOver) = none → exec .episodeRelease s = .next s) ∧
    (s.refOk (!sel) = false → exec .clkFailover s = .next s) ∧
    (s.refOk (!sel) = true → exec .clkFailover s = .next (((((lost.setFld (R.clkStat 0) 0 0 (if sel then 0 else 1)).setFld
      (R.clkStat 1) 0 0 (if sel then 0 else 1)).satFld (R.clkStat 0) 31 16 1).satFld (R.clkStat 1) 31 16 1).report K.clkFailover 0)) ∧
    (∀ ref present, ref ≠ sel → exec (.referenceClockPresence ref present) s = .next (s.setRef ref present)) ∧
    (∀ present, exec (.referenceClockPresence sel present) s = .next s)

/-- R482, R483, R485 to R489, R514, R523, R531 to R534, R536, R537, R545: clocks, power, temperature and pins, in any
state whose sparse maps are in form. An island's clock takes its target, and a droop lengthens the island's next
cycle and is counted. Power limits never rise above 1,400 W and 1,250 W. A capping step shows both averages, adds the
energy, and above the fast limit raises the plain throttle by one while that is below 48. A calibration shows whether
a regulator failed, and may set a core supply between 0.70 V and 0.80 V and no other voltage. A capping event after 1
ms is shown, and a second within 100 ms sheds the plain jobs. Alert and throttling of a die follow 100 °C, 95 °C and
93 °C. A trip stops every job, disables the SerDes and is shown. SMBus answers with status 0 and the register, or
with status 1, and the alert response with the address; JTAG does what the debug level allows, a register write as
the write of a register, and otherwise nothing; a trace word is taken while fewer than 64 wait, and sent least
significant nibble first. -/
def Obligations.PowerAndPins : Prop :=
  ∀ (s : State) (isl extra : Nat) (v : Word) (fast slow : BitVec 16) (die : BitVec 1) (tj td : BitVec 12) (low : Bool) (a core : Nat), s.Canon →
    let tel := R.telTemp die.toNat
    let n := s.debugLevel
    let stops := fun (i : Instr) => exec i s = .next s
    let tells := fun (i : Instr) (o : Out) => exec i s = .next { s with out := s.out ++ [o] }
    let jtag := fun (j : JtagInst) (ok : Prop) (o : Out) => (ok → tells (.jtagInstruction j) o) ∧ (¬ ok → stops (.jtagInstruction j))
    let unloaded := s.loadState = 0 ∨ s.loadState = 4
    let event := { s.setFld (R.errSum 0) 3 3 1 with capStreak := 0, capLast := some s.gtime }
    let again := ∃ t0, s.capLast = some t0 ∧ (s.gtime - t0).toNat ≤ 100000000
    let tripped := (s.jobs.map Job.handle).foldl (fun s h => s.stopJob h K.eThermalTrip true) s
    (isl < 192 → exec (.islandClockSlew isl) s = .next (s.setFld (R.islClk isl) 13 7 (s.fld (R.islClk isl) 6 0))) ∧
    (isl < 192 → exec (.supplyDroop isl extra) s =
      .next ((s.incFld (R.stallStretch isl) 47 0 extra).updIsl isl (fun i => { i with droop := true }))) ∧
    (192 ≤ isl → stops (.islandClockSlew isl) ∧ stops (.supplyDroop isl extra)) ∧
    (∃ t, exec (.pwrCapWrite v) s = .next t ∧ t.fld R.pwrCap 15 0 = min 1400 (field 15 0 v) ∧ t.fld R.pwrCap 31 16 = min 1250 (field 31 16 v) ∧
      t.withRegs s = s ∧ ∀ b, b ≠ R.pwrCap → t.reg b = s.reg b) ∧
    (∃ t, exec (.cappingStep fast slow) s = .next t ∧ t.fld R.pwrStat 15 0 = fast.toNat ∧ t.fld R.pwrStat 31 16 = slow.toNat ∧
      t.reg R.pwrEnergy = s.reg R.pwrEnergy + BitVec.ofNat 64 ((s.energyUj + fast.toNat) / 1000) ∧ t.energyUj = (s.energyUj + fast.toNat) % 1000 ∧
      (∀ i, i < 192 → s.isl i = {} → t.fld (R.islClk i) 19 14 = t.fld R.pwrStat 37 32) ∧
      (s.limit100 15 0 < fast.toNat * 100 → s.fld R.pwrStat 37 32 < 48 → t.fld R.pwrStat 37 32 = s.fld R.pwrStat 37 32 + 1 ∧
        t.fld R.pwrStat 43 38 = s.fld R.pwrStat 43 38)) ∧
    (∀ vout : Option (Bool × Nat),
      let u := match vout with | some (c, mv) => s.voutCommand c mv | none => s
      exec (.cappingCalibration ⟨false, vout⟩) s = .next (u.setFld R.pwrStat 44 44 0) ∧
      exec (.cappingCalibration ⟨true, vout⟩) s = .next (((u.setFld R.pwrStat 44 44 1).setFld (R.errSum 0) 2 2 1).report K.ePmbus 0)) ∧
    (∀ (c : Bool) (mv : Nat),
      let regulator := if c then s.fld R.pwrPmb 14 8 else s.fld R.pwrPmb 6 0
      (mv < 700 ∨ 800 < mv ∨ regulator = 0 → s.voutCommand c mv = s) ∧
      (700 ≤ mv → mv ≤ 800 → regulator ≠ 0 → ∃ t, s.voutCommand c mv = t ∧ t.out = s.out ++ [.pmbus regulator mv] ∧
        t.vset0 = (if c then s.vset0 else mv) ∧ t.vset1 = (if c then mv else s.vset1) ∧ t.regs = s.regs ∧ t.mem = s.mem)) ∧
    (s.capStreak < 1000 → stops .cappingEvent) ∧
    (1000 ≤ s.capStreak → ¬ again → exec .cappingEvent s = .next event) ∧
    (1000 ≤ s.capStreak → again → exec .cappingEvent s = .next event.shedPlain) ∧
    exec (.throttleRequest low) s = .next { s.setFld R.pinIn 7 7 (if low then 0 else 1) with throttleLow := low } ∧
    (∃ t, exec (.temperatureThreshold die tj td) s = .next t ∧ t.fld tel 11 0 = tj.toNat ∧ t.fld tel 23 12 = td.toNat ∧
      (bit 25 (t.reg tel) = true ↔ 560 ≤ tj.toNat) ∧ (540 ≤ tj.toNat ∨ 540 ≤ td.toNat → bit 24 (t.reg tel) = true) ∧
      (tj.toNat ≤ 532 → td.toNat ≤ 532 → bit 24 (t.reg tel) = false) ∧
      (tj.toNat < 540 → td.toNat < 540 → 532 < tj.toNat ∨ 532 < td.toNat → bit 24 (t.reg tel) = bit 24 (s.reg tel))) ∧
    (600 ≤ s.fld tel 11 0 ∨ 580 ≤ s.fld tel 23 12 → exec (.thermalTrip die) s = .next (tripped.serdesOff.setFld tel 26 26 1)) ∧
    (s.fld tel 11 0 < 600 → s.fld tel 23 12 < 580 → stops (.thermalTrip die)) ∧
    (s.serdesOff.portUp 0 = false ∧ s.serdesOff.portUp 1 = false ∧ ∀ l, l < 32 → s.serdesOff.linkState l = 0) ∧
    (s.episode = none → a % 8 = 0 → smbusReadable a = true → tells (.smbusRead a true) (.smbus (0 :: leBytes 8 (s.readReg a).toNat))) ∧
    (s.episode = none → a % 8 ≠ 0 ∨ smbusReadable a = false → tells (.smbusRead a true) (.smbus (1 :: List.replicate 8 0))) ∧
    (s.episode ≠ none → stops (.smbusRead a true) ∧ stops .smbusAlertResponse) ∧ stops (.smbusRead a false) ∧
    (s.smbAlert = true → s.episode = none → exec .smbusAlertResponse s =
      .next { s with out := s.out ++ [.smbus [BitVec.ofNat 8 (2 * (0x60 + s.fld R.pinStrap 1 0))]], alertAck := s.alertConds }) ∧
    (s.smbAlert = false → stops .smbusAlertResponse) ∧
    jtag .idcode True (.jtag (BitVec.ofNat 64 (s.fuses.stepping0.toNat % 16 * 2 ^ 28 + 0x09B095E7))) ∧ stops (.jtagInstruction .bypass) ∧
    jtag .boundary (1 ≤ n) .boundary ∧ jtag .extest (1 ≤ n ∧ unloaded) .boundary ∧ jtag .clamp (1 ≤ n ∧ unloaded) .boundary ∧
    jtag (.readControl a) (2 ≤ n) (.jtag (s.readReg a)) ∧
    jtag (.readScan a) (2 ≤ n ∧ s.inScanBuffer a = true) (.jtag (BitVec.ofNat 64 (leNat (s.decN a 8)))) ∧
    jtag (.haltCore core) (3 ≤ n ∧ core < 32) (.haltCore core) ∧
    (3 ≤ n → exec (.jtagInstruction (.writeControl a v)) s = exec (.registerWrite a v) s) ∧
    (n < 3 → stops (.jtagInstruction (.writeControl a v))) ∧
    (s.trace.length < 64 → exec (.pinTraceWrite v) s = .next { s with trace := s.trace ++ [v] }) ∧
    (64 ≤ s.trace.length → exec (.pinTraceWrite v) s = .next (s.satFld R.pinTraceStat 31 16 1)) ∧
    (∀ w rest, s.trace = w :: rest → s.traceOn = true →
      exec .traceWordSent s = .next { s with trace := rest, out := s.out ++ [.trace ((List.range 16).map (fun i => w.extractLsb' (4 * i) 4))] }) ∧
    (s.trace = [] ∨ s.traceOn = false → stops .traceWordSent)

/-- R17, R500, R503, R504, R505, R507, R508, R511, R519: register writes, errors, restarts, watchdogs. A write where
no register lies has no effect, a plain one leaves the register's writable fields as written, and one that performs
an action is the command of that action (shown for four of them). Each source of an uncorrectable error acts on its
own victim: the job that names the frame stops, a frame that no job names is retired, an island's or a table's job
stops, lost firmware resets the package, a kitty is lost or its copy refused. A register parity error stops the
island. A frame corrected twice is retired, its bytes first moved to a fresh frame where a job that does not run
names it; a retired frame is in no pool. A job that has stopped, runs nothing and keeps its table restarts at the
point it is brought or chooses, in place if nothing is damaged and it has one rank. The period of a steward core's
watchdog first interrupts it and then shows the second expiry, and a pet clears it. Otherwise the command changes
nothing. -/
def Obligations.RegistersAndErrors : Prop :=
  ∀ (s : State) (a h core frame pa : Nat) (v : Word) (die : BitVec 1) (k : CellRef) (cause : Code) (m : RestartMsg),
    let d := die.toNat
    let wd := R.stwWdog core
    let f := frame * 0x10000
    let write := exec (.registerWrite a v) s
    let ue := fun (x : UeSource) => exec (.ueEvent die x) s
    let retire := exec (.frameRetire die frame) s
    let restart := exec (.jobRestart ⟨h, m⟩) s
    let s0 := (s.until (SMap.get (fun _ => 0) s.pets core + BitVec.ofNat 64 (s.fld wd 39 0))).petted core
    let on := core < 32 ∧ bit 63 (s.reg wd) = true
    let shown := fun (t : State) (w : Word) => Host.Outcome.next ((t.writeEffect a (s.reg a) w).noteMelds)
    (regSpec a = none → write = .next s) ∧
    (∀ r, regSpec a = some r → actionWrite a v s = none → ownRow a = false → (∀ o, regPlace a ≠ .block 1 .rcp o) →
      write = shown (s.setReg a (r.written (s.reg a) v)) v) ∧
    (∀ r t, regSpec a = some r → actionWrite a v s = some (.next t) → write = .next t) ∧
    exec (.registerWrite R.pwrCap v) s = exec (.pwrCapWrite v) s ∧
    exec (.registerWrite (blkReg d .mem 0x18) v) s = exec (.mmuPoolPush die (v.setWidth 32)) s ∧
    exec (.registerWrite (blkReg d .gul 0x8) v) s = exec (.gulRselWrite die (bit 0 v)) s ∧
    (∀ i c, i < 192 → c < 16 → exec (.registerWrite (cellReg ⟨i, c⟩ 0x020) v) s = exec (.cellSresumeWrite ⟨i, c⟩ (v.setWidth 4)) s) ∧
    (∀ j, s.namedBy pa = some j → ue (.block pa) = .next (s.ueStop d j.table [pa / 0x10000 * 0x10000])) ∧
    (s.namedBy pa = none → ue (.block pa) = .next (s.retire (pa / 0x10000 * 0x10000))) ∧
    ue (.unowned pa) = .next (s.retire (pa / 0x10000 * 0x10000)) ∧
    (∀ i n, ue (.island i n) = .next (if (s.isl i).table = 0 then s else s.ueStop d (s.isl i).table [])) ∧
    (∀ t n, ue (.tablePacket t n) = .next (s.ueStop d t [])) ∧ (∀ t n, ue (.tableMap t n) = .next (s.ueStop d t [])) ∧
    (∀ n, ue (.firmware n true) = .next s ∧ ue (.firmware n false) = .next (s.assertPackage .software ((s.srcLevel .software).max .warm) false)) ∧
    (∀ job, ue (.kitty job true) = .next { s with kitties := s.kitties.map (fun (k : Kitty) => if k.job = job then { k with lost := true } else k) }) ∧
    (∀ job,
      let u := { s with kitties := s.kitties.map (fun (k : Kitty) => if k.job = job then k.setGot k.next [] else k) }
      ue (.kitty job false) = .next ((u.kitties.filter (fun k => k.job == job)).foldl
        (fun s k => s.kittyReply d ⟨k.job, k.src, 0, 0, 0⟩ K.eMemUncorrectable []) u)) ∧
    (s.cellExists k = true → exec (.registerParityError k) s =
      .next ((s.ueEvent (islDie k.isl) 7 (islReg k.isl 0) (s.isl k.isl).table).setFld (R.islSeq k.isl) 2 0 3)) ∧
    (s.cellExists k = false → exec (.registerParityError k) s = .next s) ∧
    exec (.stopNotice ⟨h, cause⟩) s = .next (s.stopJob h cause false) ∧
    (s.frameClass f = none → retire = .next s) ∧
    (∀ x far, s.frameClass f = some (x, far) →
      (x ≠ d ∨ s.retired.contains f = true ∨ s.correctedTwice x f = false → retire = .next s) ∧
      (x = d → s.retired.contains f = false → s.correctedTwice d f = true → s.namedBy f = none → retire = .next (s.retire f)) ∧
      (∀ j, x = d → s.retired.contains f = false → s.correctedTwice d f = true → s.namedBy f = some j →
        (s.running j.table = true ∨ s.takeFrame d far = none → retire = .next s) ∧
        (∀ f' s1, s.running j.table = false → s.takeFrame d far = some (f', s1) → retire =
          .next ((((s1.readPage j.table f).wrN f' ((s1.readPage j.table f).decN f 0x10000)).repoint j.table f f').retire f)))) ∧
    (f ∈ (s.retire f).retired ∧ ∀ e ∈ (s.retire f).pools, f ∉ e.2) ∧
    (s.job h = none → restart = .next s) ∧
    (∀ j, s.job h = some j →
      let here := s.running j.table = false ∧ j.ending = false ∧ (s.tbl j.table).job = h
      let due := j.stopped ≠ none ∨ (j.rank ≠ 0 ∧ j.cmds = [] ∧ j.lastCommit = 0)
      (¬ here ∨ ¬ due → restart = .next s) ∧
      (here → due → j.restarting = true → restart = .next (s.restartGoOn j m)) ∧
      (here → due → j.restarting = false → j.pointFor m = none → restart = .next s) ∧
      (∀ p, here → due → j.restarting = false → j.pointFor m = some p → restart = .next ((s.tellPoint j p).restartAt j p)) ∧
      (j.damaged = [] → j.rank = 0 → j.nranks ≤ 1 → j.pointFor .own = some (.inPlace j.lastCommit))) ∧
    (on → s0.fld wd 41 40 = 0 → exec (.stwWdogExpiry core) s =
      .next { (s0.setFld wd 41 40 1).dealerSees (core / 16) with out := ((s0.setFld wd 41 40 1).dealerSees (core / 16)).out ++ [.nmi core] }) ∧
    (on → s0.fld wd 41 40 ≠ 0 → exec (.stwWdogExpiry core) s = .next (s0.setFld wd 41 40 2)) ∧
    (¬ on → exec (.stwWdogExpiry core) s = .next s) ∧
    (core < 32 → exec (.stwPet core) s = .next ((s.petted core).setFld wd 41 40 0)) ∧
    (32 ≤ core → exec (.stwPet core) s = .next s)

/-! ### The machine as a whole -/

/-- Every command completes from every state: it neither faults nor is refused, and it leaves the queue of waiting
commands as it is. -/
def Obligations.EveryCommandCompletes : Prop :=
  ∀ (i : Instr) (s : State), ∃ t, exec i s = .next t ∧ t.pending = s.pending

/-- Every step keeps the canonical form of memory, registers, cells and islands, and a far DRAM that R280 allows. -/
def Obligations.StepsKeepTheInvariant : Prop :=
 ∀ (s t : State), s.Canon → s.FarOk → step s = .next t → t.Canon ∧ t.FarOk

/-- Every step keeps the table numbers of jobs and islands below 256 and the maps of tables and links in form. -/
def Obligations.StepsKeepTables : Prop :=
 ∀ (s t : State), s.Canon → s.TablesOk → step s = .next t → t.TablesOk

/-- R12, R17, R103, R142, R466 and the reset columns of the register tables: what reset leaves. The sparse maps are
in form, no command waits, every cell is idle at word 0 with cleared scalar registers, every register of control
space but RST_CAUSE and CLK_STAT is at its reset value, no table runs, there is no session and no job, no link is up
and no load has begun; that memory which nothing has written reads 0 is the model's choice (log entry 3). -/
def Obligations.ResetState : Prop :=
  let s := State.reset
  s.Canon ∧ s.FarOk ∧ s.TablesOk ∧ s.pending = [] ∧ s.gtime = 0 ∧ (∀ a, s.rd a = 0) ∧ (∀ a, a ≠ R.rstCause → a ≠ R.clkStat 0 → a ≠ R.clkStat 1 → s.reg a = resetValue a) ∧
  (∀ k, s.cell k = {} ∧ (s.cell k).run = .idle ∧ (s.cell k).pc = 0 ∧ ∀ r, (s.cell k).rs r = 0) ∧
  (∀ t, t < 256 → s.running t = false) ∧ (∀ l, l < 32 → s.linkState l = 0) ∧ s.sess = [] ∧ s.jobs = [] ∧ s.loadState = 0 ∧
  s.reg R.pwrCap = 1400 + 1250 * 2 ^ 16 ∧ (∀ core, core < 32 → bit 16 (s.reg (R.gulQres core)) = true)
end

