-- ==== Sys2Proof/Laws/Sparse.lean ====
section
/-! SUPPORT. Laws of sparse maps and byte memories: reads after writes, and the canonical form. -/

namespace Sys2Proof.Machine

variable {α : Type}

@[simp] theorem SMap.get_nil (d : Nat → α) (k : Nat) : SMap.get d ([] : SMap α) k = d k := rfl

theorem SMap.get_insert_same (d : Nat → α) (m : SMap α) (k : Nat) (v : α) : SMap.get d (SMap.insert k v m) k = v := by
  induction m with
  | nil => simp [SMap.insert, SMap.get]
  | cons e t ih =>
    obtain ⟨k', v'⟩ := e
    simp only [SMap.insert]
    split
    · simp [SMap.get]
    · split
      · simp [SMap.get]
      · rename_i h1 h2
        simp [SMap.get, h1, h2, ih]

theorem SMap.get_insert_other (d : Nat → α) (m : SMap α) {k j : Nat} (v : α) (h : j ≠ k) :
    SMap.get d (SMap.insert k v m) j = SMap.get d m j := by
  induction m with
  | nil => simp [SMap.insert, SMap.get, h]
  | cons e t ih =>
    obtain ⟨k', v'⟩ := e
    simp only [SMap.insert]
    split
    · rename_i hk
      subst hk
      simp [SMap.get, h]
    · split
      · rename_i h1 h2
        by_cases hj : j < k
        · simp [SMap.get, h, hj, show j ≠ k' by omega, show j < k' by omega]
        · simp [SMap.get, h, hj]
      · simp [SMap.get, ih]

/-! ### The canonical form -/

variable [DecidableEq α]

theorem SMap.wfFrom_cons (d : Nat → α) (lo : Option Nat) (k : Nat) (v : α) (t : SMap α) :
    SMap.wfFrom d lo ((k, v) :: t) = true ↔ (∀ l, lo = some l → l < k) ∧ v ≠ d k ∧ SMap.wfFrom d (some k) t = true := by
  cases lo <;> simp [SMap.wfFrom, and_assoc]

theorem SMap.wfFrom_weaken (d : Nat → α) {a b : Nat} (h : a ≤ b) (m : SMap α) (w : SMap.wfFrom d (some b) m = true) :
    SMap.wfFrom d (some a) m = true := by
  cases m with
  | nil => rfl
  | cons e t =>
    obtain ⟨k, v⟩ := e
    rw [SMap.wfFrom_cons] at *
    exact ⟨fun l hl => by cases hl; have := w.1 b rfl; omega, w.2⟩

theorem SMap.wfFrom_none (d : Nat → α) {a : Nat} (m : SMap α) (w : SMap.wfFrom d (some a) m = true) :
    SMap.wfFrom d none m = true := by
  cases m with
  | nil => rfl
  | cons e t =>
    obtain ⟨k, v⟩ := e
    rw [SMap.wfFrom_cons] at *
    exact ⟨fun l hl => (by cases hl), w.2⟩

/-- Keys up to the bound read as unlisted. -/
theorem SMap.get_below (d : Nat → α) (m : SMap α) {lo k : Nat} (w : SMap.wfFrom d (some lo) m = true) (h : k ≤ lo) :
    SMap.get d m k = d k := by
  cases m with
  | nil => rfl
  | cons e t =>
    obtain ⟨k', v'⟩ := e
    rw [SMap.wfFrom_cons] at w
    have := w.1 lo rfl
    simp [SMap.get, show k ≠ k' by omega, show k < k' by omega]

theorem SMap.wfFrom_insert (d : Nat → α) (m : SMap α) (lo : Option Nat) {k : Nat} {v : α} (hlo : ∀ l, lo = some l → l < k)
    (hv : v ≠ d k) (w : SMap.wfFrom d lo m = true) : SMap.wfFrom d lo (SMap.insert k v m) = true := by
  induction m generalizing lo with
  | nil => rw [SMap.insert, SMap.wfFrom_cons]; exact ⟨hlo, hv, rfl⟩
  | cons e t ih =>
    obtain ⟨k', v'⟩ := e
    have w' := (SMap.wfFrom_cons d lo k' v' t).1 w
    simp only [SMap.insert]
    split
    · rename_i h; subst h
      rw [SMap.wfFrom_cons]; exact ⟨hlo, hv, w'.2.2⟩
    · split
      · rename_i h1 h2
        rw [SMap.wfFrom_cons, SMap.wfFrom_cons]
        exact ⟨hlo, hv, fun l hl => by cases hl; exact h2, w'.2⟩
      · rename_i h1 h2
        rw [SMap.wfFrom_cons]
        exact ⟨w'.1, w'.2.1, ih _ (fun l hl => by cases hl; omega) w'.2.2⟩

theorem SMap.wfFrom_erase (d : Nat → α) (m : SMap α) (lo : Option Nat) (k : Nat) (w : SMap.wfFrom d lo m = true) :
    SMap.wfFrom d lo (SMap.erase k m) = true := by
  induction m generalizing lo with
  | nil => exact w
  | cons e t ih =>
    obtain ⟨k', v'⟩ := e
    have w' := (SMap.wfFrom_cons d lo k' v' t).1 w
    simp only [SMap.erase]
    split
    · cases lo with
      | none => exact SMap.wfFrom_none d t w'.2.2
      | some l => exact SMap.wfFrom_weaken d (Nat.le_of_lt (w'.1 l rfl)) t w'.2.2
    · split
      · exact w
      · rw [SMap.wfFrom_cons]; exact ⟨w'.1, w'.2.1, ih _ w'.2.2⟩

/-- A write keeps the canonical form. -/
theorem SMap.wf_set (d : Nat → α) (m : SMap α) (k : Nat) (v : α) (w : SMap.wf d m = true) : SMap.wf d (SMap.set d m k v) = true := by
  unfold SMap.set
  split
  · exact SMap.wfFrom_erase d m none k w
  · exact SMap.wfFrom_insert d m none (fun l hl => by cases hl) ‹_› w

theorem SMap.wf_erase (d : Nat → α) (m : SMap α) (k : Nat) (w : SMap.wf d m = true) : SMap.wf d (SMap.erase k m) = true :=
  SMap.wfFrom_erase d m none k w

theorem SMap.wfFrom_keep (d : Nat → α) (p : Nat → Bool) (m : SMap α) (lo : Option Nat) (w : SMap.wfFrom d lo m = true) :
    SMap.wfFrom d lo (SMap.keep p m) = true := by
  induction m generalizing lo with
  | nil => exact w
  | cons e t ih =>
    obtain ⟨k', v'⟩ := e
    have w' := (SMap.wfFrom_cons d lo k' v' t).1 w
    simp only [SMap.keep, List.filter_cons]
    split
    · rw [SMap.wfFrom_cons]; exact ⟨w'.1, w'.2.1, ih _ w'.2.2⟩
    · cases lo with
      | none => exact ih none (SMap.wfFrom_none d t w'.2.2)
      | some l => exact ih _ (SMap.wfFrom_weaken d (Nat.le_of_lt (w'.1 l rfl)) t w'.2.2)

/-- Keeping some keys keeps the canonical form. -/
theorem SMap.wf_keep (d : Nat → α) (p : Nat → Bool) (m : SMap α) (w : SMap.wf d m = true) : SMap.wf d (SMap.keep p m) = true :=
  SMap.wfFrom_keep d p m none w

theorem SMap.get_erase_same (d : Nat → α) (m : SMap α) (lo : Option Nat) (k : Nat) (w : SMap.wfFrom d lo m = true) :
    SMap.get d (SMap.erase k m) k = d k := by
  induction m generalizing lo with
  | nil => rfl
  | cons e t ih =>
    obtain ⟨k', v'⟩ := e
    have w' := (SMap.wfFrom_cons d lo k' v' t).1 w
    simp only [SMap.erase]
    split
    · rename_i h; subst h; exact SMap.get_below d t w'.2.2 (Nat.le_refl _)
    · split
      · rename_i h1 h2; simp [SMap.get, h1, h2]
      · rename_i h1 h2; simp [SMap.get, h1, h2, ih _ w'.2.2]

theorem SMap.get_erase_other (d : Nat → α) (m : SMap α) (lo : Option Nat) {k j : Nat} (h : j ≠ k)
    (w : SMap.wfFrom d lo m = true) : SMap.get d (SMap.erase k m) j = SMap.get d m j := by
  induction m generalizing lo with
  | nil => rfl
  | cons e t ih =>
    obtain ⟨k', v'⟩ := e
    have w' := (SMap.wfFrom_cons d lo k' v' t).1 w
    simp only [SMap.erase]
    split
    · rename_i hk; subst hk
      by_cases hj : j < k
      · simp [SMap.get, h, hj, SMap.get_below d t w'.2.2 (Nat.le_of_lt hj)]
      · simp [SMap.get, h, hj]
    · split
      · rfl
      · simp [SMap.get, ih _ w'.2.2]

/-- Reading a key after it is written gives what was written. -/
theorem SMap.get_set_same (d : Nat → α) (m : SMap α) (k : Nat) (v : α) (w : SMap.wf d m = true) :
    SMap.get d (SMap.set d m k v) k = v := by
  unfold SMap.set
  split
  · rename_i h; rw [SMap.get_erase_same d m none k w, h]
  · exact SMap.get_insert_same d m k v

/-- A write leaves every other key alone. -/
theorem SMap.get_set_other (d : Nat → α) (m : SMap α) {k j : Nat} (v : α) (h : j ≠ k) (w : SMap.wf d m = true) :
    SMap.get d (SMap.set d m k v) j = SMap.get d m j := by
  unfold SMap.set
  split
  · exact SMap.get_erase_other d m none h w
  · exact SMap.get_insert_other d m v h

theorem SMap.get_set (d : Nat → α) (m : SMap α) (k j : Nat) (v : α) (w : SMap.wf d m = true) :
    SMap.get d (SMap.set d m k v) j = if j = k then v else SMap.get d m j := by
  split
  · rename_i h; subst h; exact SMap.get_set_same d m j v w
  · exact SMap.get_set_other d m v ‹_› w

end Sys2Proof.Machine
end

