-- ==== Sys2Proof/Laws/State.lean ====
section
/-! SUPPORT. What the plain updates of the state leave alone, one lemma for each field and update. -/

namespace Sys2Proof.Machine

open Sys2Proof

@[simp] theorem State.setCell_pending (s : State) (k : CellRef) (c : Cell) : (s.setCell k c).pending = s.pending := rfl
@[simp] theorem State.setCell_free (s : State) (k : CellRef) (c : Cell) : (s.setCell k c).free = s.free := rfl
@[simp] theorem State.setCell_gtime (s : State) (k : CellRef) (c : Cell) : (s.setCell k c).gtime = s.gtime := rfl
@[simp] theorem State.setCell_fuses (s : State) (k : CellRef) (c : Cell) : (s.setCell k c).fuses = s.fuses := rfl
@[simp] theorem State.setCell_regs (s : State) (k : CellRef) (c : Cell) : (s.setCell k c).regs = s.regs := rfl
@[simp] theorem State.setCell_mem (s : State) (k : CellRef) (c : Cell) : (s.setCell k c).mem = s.mem := rfl
@[simp] theorem State.setCell_bad (s : State) (k : CellRef) (c : Cell) : (s.setCell k c).bad = s.bad := rfl
@[simp] theorem State.setCell_isls (s : State) (k : CellRef) (c : Cell) : (s.setCell k c).isls = s.isls := rfl
@[simp] theorem State.setCell_fifos (s : State) (k : CellRef) (c : Cell) : (s.setCell k c).fifos = s.fifos := rfl
@[simp] theorem State.setCell_flight (s : State) (k : CellRef) (c : Cell) : (s.setCell k c).flight = s.flight := rfl
@[simp] theorem State.setCell_memq (s : State) (k : CellRef) (c : Cell) : (s.setCell k c).memq = s.memq := rfl
@[simp] theorem State.setCell_mesh (s : State) (k : CellRef) (c : Cell) : (s.setCell k c).mesh = s.mesh := rfl
@[simp] theorem State.setCell_wins (s : State) (k : CellRef) (c : Cell) : (s.setCell k c).wins = s.wins := rfl
@[simp] theorem State.setCell_syncs (s : State) (k : CellRef) (c : Cell) : (s.setCell k c).syncs = s.syncs := rfl
@[simp] theorem State.setCell_syncNext (s : State) (k : CellRef) (c : Cell) : (s.setCell k c).syncNext = s.syncNext := rfl
@[simp] theorem State.setCell_chmsgs (s : State) (k : CellRef) (c : Cell) : (s.setCell k c).chmsgs = s.chmsgs := rfl
@[simp] theorem State.setCell_rtails (s : State) (k : CellRef) (c : Cell) : (s.setCell k c).rtails = s.rtails := rfl
@[simp] theorem State.setCell_pools (s : State) (k : CellRef) (c : Cell) : (s.setCell k c).pools = s.pools := rfl
@[simp] theorem State.setCell_vcopy (s : State) (k : CellRef) (c : Cell) : (s.setCell k c).vcopy = s.vcopy := rfl
@[simp] theorem State.setCell_vpages (s : State) (k : CellRef) (c : Cell) : (s.setCell k c).vpages = s.vpages := rfl
@[simp] theorem State.setCell_events (s : State) (k : CellRef) (c : Cell) : (s.setCell k c).events = s.events := rfl
@[simp] theorem State.setCell_out (s : State) (k : CellRef) (c : Cell) : (s.setCell k c).out = s.out := rfl
@[simp] theorem State.setCell_tbls (s : State) (k : CellRef) (c : Cell) : (s.setCell k c).tbls = s.tbls := rfl
@[simp] theorem State.setCell_jobs (s : State) (k : CellRef) (c : Cell) : (s.setCell k c).jobs = s.jobs := rfl
@[simp] theorem State.setCell_jobNext (s : State) (k : CellRef) (c : Cell) : (s.setCell k c).jobNext = s.jobNext := rfl
@[simp] theorem State.setCell_ended (s : State) (k : CellRef) (c : Cell) : (s.setCell k c).ended = s.ended := rfl
@[simp] theorem State.setCell_progress (s : State) (k : CellRef) (c : Cell) : (s.setCell k c).progress = s.progress := rfl
@[simp] theorem State.setCell_melds (s : State) (k : CellRef) (c : Cell) : (s.setCell k c).melds = s.melds := rfl
@[simp] theorem State.setCell_rakes (s : State) (k : CellRef) (c : Cell) : (s.setCell k c).rakes = s.rakes := rfl
@[simp] theorem State.setCell_glinks (s : State) (k : CellRef) (c : Cell) : (s.setCell k c).glinks = s.glinks := rfl
@[simp] theorem State.setCell_gin (s : State) (k : CellRef) (c : Cell) : (s.setCell k c).gin = s.gin := rfl
@[simp] theorem State.setCell_greqs (s : State) (k : CellRef) (c : Cell) : (s.setCell k c).greqs = s.greqs := rfl
@[simp] theorem State.setCell_gops (s : State) (k : CellRef) (c : Cell) : (s.setCell k c).gops = s.gops := rfl
@[simp] theorem State.setCell_gtag (s : State) (k : CellRef) (c : Cell) : (s.setCell k c).gtag = s.gtag := rfl
@[simp] theorem State.setCell_colls (s : State) (k : CellRef) (c : Cell) : (s.setCell k c).colls = s.colls := rfl
@[simp] theorem State.setCell_kitties (s : State) (k : CellRef) (c : Cell) : (s.setCell k c).kitties = s.kitties := rfl
@[simp] theorem State.setCell_holds (s : State) (k : CellRef) (c : Cell) : (s.setCell k c).holds = s.holds := rfl
@[simp] theorem State.setCell_slew (s : State) (k : CellRef) (c : Cell) : (s.setCell k c).slew = s.slew := rfl
@[simp] theorem State.setCell_slewPhase (s : State) (k : CellRef) (c : Cell) : (s.setCell k c).slewPhase = s.slewPhase := rfl
@[simp] theorem State.setCell_locks (s : State) (k : CellRef) (c : Cell) : (s.setCell k c).locks = s.locks := rfl
@[simp] theorem State.setCell_sess (s : State) (k : CellRef) (c : Cell) : (s.setCell k c).sess = s.sess := rfl
@[simp] theorem State.setCell_wndws (s : State) (k : CellRef) (c : Cell) : (s.setCell k c).wndws = s.wndws := rfl
@[simp] theorem State.setCell_wndwNext (s : State) (k : CellRef) (c : Cell) : (s.setCell k c).wndwNext = s.wndwNext := rfl
@[simp] theorem State.setCell_qps (s : State) (k : CellRef) (c : Cell) : (s.setCell k c).qps = s.qps := rfl
@[simp] theorem State.setCell_qpNext (s : State) (k : CellRef) (c : Cell) : (s.setCell k c).qpNext = s.qpNext := rfl
@[simp] theorem State.setCell_nets (s : State) (k : CellRef) (c : Cell) : (s.setCell k c).nets = s.nets := rfl
@[simp] theorem State.setCell_paused (s : State) (k : CellRef) (c : Cell) : (s.setCell k c).paused = s.paused := rfl
@[simp] theorem State.setCell_sec (s : State) (k : CellRef) (c : Cell) : (s.setCell k c).sec = s.sec := rfl
@[simp] theorem State.setCell_episode (s : State) (k : CellRef) (c : Cell) : (s.setCell k c).episode = s.episode := rfl
@[simp] theorem State.setCell_blocks (s : State) (k : CellRef) (c : Cell) : (s.setCell k c).blocks = s.blocks := rfl
@[simp] theorem State.setCell_drains (s : State) (k : CellRef) (c : Cell) : (s.setCell k c).drains = s.drains := rfl
@[simp] theorem State.setCell_capStreak (s : State) (k : CellRef) (c : Cell) : (s.setCell k c).capStreak = s.capStreak := rfl
@[simp] theorem State.setCell_capLast (s : State) (k : CellRef) (c : Cell) : (s.setCell k c).capLast = s.capLast := rfl
@[simp] theorem State.setCell_energyUj (s : State) (k : CellRef) (c : Cell) : (s.setCell k c).energyUj = s.energyUj := rfl
@[simp] theorem State.setCell_throttleLow (s : State) (k : CellRef) (c : Cell) : (s.setCell k c).throttleLow = s.throttleLow := rfl
@[simp] theorem State.setCell_vset0 (s : State) (k : CellRef) (c : Cell) : (s.setCell k c).vset0 = s.vset0 := rfl
@[simp] theorem State.setCell_vset1 (s : State) (k : CellRef) (c : Cell) : (s.setCell k c).vset1 = s.vset1 := rfl
@[simp] theorem State.setCell_trace (s : State) (k : CellRef) (c : Cell) : (s.setCell k c).trace = s.trace := rfl
@[simp] theorem State.setCell_alertAck (s : State) (k : CellRef) (c : Cell) : (s.setCell k c).alertAck = s.alertAck := rfl
@[simp] theorem State.setCell_pets (s : State) (k : CellRef) (c : Cell) : (s.setCell k c).pets = s.pets := rfl
@[simp] theorem State.setCell_mbxStale (s : State) (k : CellRef) (c : Cell) : (s.setCell k c).mbxStale = s.mbxStale := rfl
@[simp] theorem State.setCell_retired (s : State) (k : CellRef) (c : Cell) : (s.setCell k c).retired = s.retired := rfl
@[simp] theorem State.setCell_scans (s : State) (k : CellRef) (c : Cell) : (s.setCell k c).scans = s.scans := rfl
@[simp] theorem State.setCell_tlb (s : State) (k : CellRef) (c : Cell) : (s.setCell k c).tlb = s.tlb := rfl
@[simp] theorem State.setCell_invs (s : State) (k : CellRef) (c : Cell) : (s.setCell k c).invs = s.invs := rfl
@[simp] theorem State.setCell_slb (s : State) (k : CellRef) (c : Cell) : (s.setCell k c).slb = s.slb := rfl
@[simp] theorem State.setCell_sinvs (s : State) (k : CellRef) (c : Cell) : (s.setCell k c).sinvs = s.sinvs := rfl

@[simp] theorem State.setIsl_pending (s : State) (i : Nat) (x : Isl) : (s.setIsl i x).pending = s.pending := rfl
@[simp] theorem State.setIsl_free (s : State) (i : Nat) (x : Isl) : (s.setIsl i x).free = s.free := rfl
@[simp] theorem State.setIsl_gtime (s : State) (i : Nat) (x : Isl) : (s.setIsl i x).gtime = s.gtime := rfl
@[simp] theorem State.setIsl_fuses (s : State) (i : Nat) (x : Isl) : (s.setIsl i x).fuses = s.fuses := rfl
@[simp] theorem State.setIsl_regs (s : State) (i : Nat) (x : Isl) : (s.setIsl i x).regs = s.regs := rfl
@[simp] theorem State.setIsl_mem (s : State) (i : Nat) (x : Isl) : (s.setIsl i x).mem = s.mem := rfl
@[simp] theorem State.setIsl_bad (s : State) (i : Nat) (x : Isl) : (s.setIsl i x).bad = s.bad := rfl
@[simp] theorem State.setIsl_cells (s : State) (i : Nat) (x : Isl) : (s.setIsl i x).cells = s.cells := rfl
@[simp] theorem State.setIsl_fifos (s : State) (i : Nat) (x : Isl) : (s.setIsl i x).fifos = s.fifos := rfl
@[simp] theorem State.setIsl_flight (s : State) (i : Nat) (x : Isl) : (s.setIsl i x).flight = s.flight := rfl
@[simp] theorem State.setIsl_memq (s : State) (i : Nat) (x : Isl) : (s.setIsl i x).memq = s.memq := rfl
@[simp] theorem State.setIsl_mesh (s : State) (i : Nat) (x : Isl) : (s.setIsl i x).mesh = s.mesh := rfl
@[simp] theorem State.setIsl_wins (s : State) (i : Nat) (x : Isl) : (s.setIsl i x).wins = s.wins := rfl
@[simp] theorem State.setIsl_syncs (s : State) (i : Nat) (x : Isl) : (s.setIsl i x).syncs = s.syncs := rfl
@[simp] theorem State.setIsl_syncNext (s : State) (i : Nat) (x : Isl) : (s.setIsl i x).syncNext = s.syncNext := rfl
@[simp] theorem State.setIsl_chmsgs (s : State) (i : Nat) (x : Isl) : (s.setIsl i x).chmsgs = s.chmsgs := rfl
@[simp] theorem State.setIsl_rtails (s : State) (i : Nat) (x : Isl) : (s.setIsl i x).rtails = s.rtails := rfl
@[simp] theorem State.setIsl_pools (s : State) (i : Nat) (x : Isl) : (s.setIsl i x).pools = s.pools := rfl
@[simp] theorem State.setIsl_vcopy (s : State) (i : Nat) (x : Isl) : (s.setIsl i x).vcopy = s.vcopy := rfl
@[simp] theorem State.setIsl_vpages (s : State) (i : Nat) (x : Isl) : (s.setIsl i x).vpages = s.vpages := rfl
@[simp] theorem State.setIsl_events (s : State) (i : Nat) (x : Isl) : (s.setIsl i x).events = s.events := rfl
@[simp] theorem State.setIsl_out (s : State) (i : Nat) (x : Isl) : (s.setIsl i x).out = s.out := rfl
@[simp] theorem State.setIsl_tbls (s : State) (i : Nat) (x : Isl) : (s.setIsl i x).tbls = s.tbls := rfl
@[simp] theorem State.setIsl_jobs (s : State) (i : Nat) (x : Isl) : (s.setIsl i x).jobs = s.jobs := rfl
@[simp] theorem State.setIsl_jobNext (s : State) (i : Nat) (x : Isl) : (s.setIsl i x).jobNext = s.jobNext := rfl
@[simp] theorem State.setIsl_ended (s : State) (i : Nat) (x : Isl) : (s.setIsl i x).ended = s.ended := rfl
@[simp] theorem State.setIsl_progress (s : State) (i : Nat) (x : Isl) : (s.setIsl i x).progress = s.progress := rfl
@[simp] theorem State.setIsl_melds (s : State) (i : Nat) (x : Isl) : (s.setIsl i x).melds = s.melds := rfl
@[simp] theorem State.setIsl_rakes (s : State) (i : Nat) (x : Isl) : (s.setIsl i x).rakes = s.rakes := rfl
@[simp] theorem State.setIsl_glinks (s : State) (i : Nat) (x : Isl) : (s.setIsl i x).glinks = s.glinks := rfl
@[simp] theorem State.setIsl_gin (s : State) (i : Nat) (x : Isl) : (s.setIsl i x).gin = s.gin := rfl
@[simp] theorem State.setIsl_greqs (s : State) (i : Nat) (x : Isl) : (s.setIsl i x).greqs = s.greqs := rfl
@[simp] theorem State.setIsl_gops (s : State) (i : Nat) (x : Isl) : (s.setIsl i x).gops = s.gops := rfl
@[simp] theorem State.setIsl_gtag (s : State) (i : Nat) (x : Isl) : (s.setIsl i x).gtag = s.gtag := rfl
@[simp] theorem State.setIsl_colls (s : State) (i : Nat) (x : Isl) : (s.setIsl i x).colls = s.colls := rfl
@[simp] theorem State.setIsl_kitties (s : State) (i : Nat) (x : Isl) : (s.setIsl i x).kitties = s.kitties := rfl
@[simp] theorem State.setIsl_holds (s : State) (i : Nat) (x : Isl) : (s.setIsl i x).holds = s.holds := rfl
@[simp] theorem State.setIsl_slew (s : State) (i : Nat) (x : Isl) : (s.setIsl i x).slew = s.slew := rfl
@[simp] theorem State.setIsl_slewPhase (s : State) (i : Nat) (x : Isl) : (s.setIsl i x).slewPhase = s.slewPhase := rfl
@[simp] theorem State.setIsl_locks (s : State) (i : Nat) (x : Isl) : (s.setIsl i x).locks = s.locks := rfl
@[simp] theorem State.setIsl_sess (s : State) (i : Nat) (x : Isl) : (s.setIsl i x).sess = s.sess := rfl
@[simp] theorem State.setIsl_wndws (s : State) (i : Nat) (x : Isl) : (s.setIsl i x).wndws = s.wndws := rfl
@[simp] theorem State.setIsl_wndwNext (s : State) (i : Nat) (x : Isl) : (s.setIsl i x).wndwNext = s.wndwNext := rfl
@[simp] theorem State.setIsl_qps (s : State) (i : Nat) (x : Isl) : (s.setIsl i x).qps = s.qps := rfl
@[simp] theorem State.setIsl_qpNext (s : State) (i : Nat) (x : Isl) : (s.setIsl i x).qpNext = s.qpNext := rfl
@[simp] theorem State.setIsl_nets (s : State) (i : Nat) (x : Isl) : (s.setIsl i x).nets = s.nets := rfl
@[simp] theorem State.setIsl_paused (s : State) (i : Nat) (x : Isl) : (s.setIsl i x).paused = s.paused := rfl
@[simp] theorem State.setIsl_sec (s : State) (i : Nat) (x : Isl) : (s.setIsl i x).sec = s.sec := rfl
@[simp] theorem State.setIsl_episode (s : State) (i : Nat) (x : Isl) : (s.setIsl i x).episode = s.episode := rfl
@[simp] theorem State.setIsl_blocks (s : State) (i : Nat) (x : Isl) : (s.setIsl i x).blocks = s.blocks := rfl
@[simp] theorem State.setIsl_drains (s : State) (i : Nat) (x : Isl) : (s.setIsl i x).drains = s.drains := rfl
@[simp] theorem State.setIsl_capStreak (s : State) (i : Nat) (x : Isl) : (s.setIsl i x).capStreak = s.capStreak := rfl
@[simp] theorem State.setIsl_capLast (s : State) (i : Nat) (x : Isl) : (s.setIsl i x).capLast = s.capLast := rfl
@[simp] theorem State.setIsl_energyUj (s : State) (i : Nat) (x : Isl) : (s.setIsl i x).energyUj = s.energyUj := rfl
@[simp] theorem State.setIsl_throttleLow (s : State) (i : Nat) (x : Isl) : (s.setIsl i x).throttleLow = s.throttleLow := rfl
@[simp] theorem State.setIsl_vset0 (s : State) (i : Nat) (x : Isl) : (s.setIsl i x).vset0 = s.vset0 := rfl
@[simp] theorem State.setIsl_vset1 (s : State) (i : Nat) (x : Isl) : (s.setIsl i x).vset1 = s.vset1 := rfl
@[simp] theorem State.setIsl_trace (s : State) (i : Nat) (x : Isl) : (s.setIsl i x).trace = s.trace := rfl
@[simp] theorem State.setIsl_alertAck (s : State) (i : Nat) (x : Isl) : (s.setIsl i x).alertAck = s.alertAck := rfl
@[simp] theorem State.setIsl_pets (s : State) (i : Nat) (x : Isl) : (s.setIsl i x).pets = s.pets := rfl
@[simp] theorem State.setIsl_mbxStale (s : State) (i : Nat) (x : Isl) : (s.setIsl i x).mbxStale = s.mbxStale := rfl
@[simp] theorem State.setIsl_retired (s : State) (i : Nat) (x : Isl) : (s.setIsl i x).retired = s.retired := rfl
@[simp] theorem State.setIsl_scans (s : State) (i : Nat) (x : Isl) : (s.setIsl i x).scans = s.scans := rfl
@[simp] theorem State.setIsl_tlb (s : State) (i : Nat) (x : Isl) : (s.setIsl i x).tlb = s.tlb := rfl
@[simp] theorem State.setIsl_invs (s : State) (i : Nat) (x : Isl) : (s.setIsl i x).invs = s.invs := rfl
@[simp] theorem State.setIsl_slb (s : State) (i : Nat) (x : Isl) : (s.setIsl i x).slb = s.slb := rfl
@[simp] theorem State.setIsl_sinvs (s : State) (i : Nat) (x : Isl) : (s.setIsl i x).sinvs = s.sinvs := rfl

@[simp] theorem State.setReg_pending (s : State) (a : Nat) (v : Word) : (s.setReg a v).pending = s.pending := rfl
@[simp] theorem State.setReg_free (s : State) (a : Nat) (v : Word) : (s.setReg a v).free = s.free := rfl
@[simp] theorem State.setReg_gtime (s : State) (a : Nat) (v : Word) : (s.setReg a v).gtime = s.gtime := rfl
@[simp] theorem State.setReg_fuses (s : State) (a : Nat) (v : Word) : (s.setReg a v).fuses = s.fuses := rfl
@[simp] theorem State.setReg_mem (s : State) (a : Nat) (v : Word) : (s.setReg a v).mem = s.mem := rfl
@[simp] theorem State.setReg_bad (s : State) (a : Nat) (v : Word) : (s.setReg a v).bad = s.bad := rfl
@[simp] theorem State.setReg_cells (s : State) (a : Nat) (v : Word) : (s.setReg a v).cells = s.cells := rfl
@[simp] theorem State.setReg_isls (s : State) (a : Nat) (v : Word) : (s.setReg a v).isls = s.isls := rfl
@[simp] theorem State.setReg_fifos (s : State) (a : Nat) (v : Word) : (s.setReg a v).fifos = s.fifos := rfl
@[simp] theorem State.setReg_flight (s : State) (a : Nat) (v : Word) : (s.setReg a v).flight = s.flight := rfl
@[simp] theorem State.setReg_memq (s : State) (a : Nat) (v : Word) : (s.setReg a v).memq = s.memq := rfl
@[simp] theorem State.setReg_mesh (s : State) (a : Nat) (v : Word) : (s.setReg a v).mesh = s.mesh := rfl
@[simp] theorem State.setReg_wins (s : State) (a : Nat) (v : Word) : (s.setReg a v).wins = s.wins := rfl
@[simp] theorem State.setReg_syncs (s : State) (a : Nat) (v : Word) : (s.setReg a v).syncs = s.syncs := rfl
@[simp] theorem State.setReg_syncNext (s : State) (a : Nat) (v : Word) : (s.setReg a v).syncNext = s.syncNext := rfl
@[simp] theorem State.setReg_chmsgs (s : State) (a : Nat) (v : Word) : (s.setReg a v).chmsgs = s.chmsgs := rfl
@[simp] theorem State.setReg_rtails (s : State) (a : Nat) (v : Word) : (s.setReg a v).rtails = s.rtails := rfl
@[simp] theorem State.setReg_pools (s : State) (a : Nat) (v : Word) : (s.setReg a v).pools = s.pools := rfl
@[simp] theorem State.setReg_vcopy (s : State) (a : Nat) (v : Word) : (s.setReg a v).vcopy = s.vcopy := rfl
@[simp] theorem State.setReg_vpages (s : State) (a : Nat) (v : Word) : (s.setReg a v).vpages = s.vpages := rfl
@[simp] theorem State.setReg_events (s : State) (a : Nat) (v : Word) : (s.setReg a v).events = s.events := rfl
@[simp] theorem State.setReg_out (s : State) (a : Nat) (v : Word) : (s.setReg a v).out = s.out := rfl
@[simp] theorem State.setReg_tbls (s : State) (a : Nat) (v : Word) : (s.setReg a v).tbls = s.tbls := rfl
@[simp] theorem State.setReg_jobs (s : State) (a : Nat) (v : Word) : (s.setReg a v).jobs = s.jobs := rfl
@[simp] theorem State.setReg_jobNext (s : State) (a : Nat) (v : Word) : (s.setReg a v).jobNext = s.jobNext := rfl
@[simp] theorem State.setReg_ended (s : State) (a : Nat) (v : Word) : (s.setReg a v).ended = s.ended := rfl
@[simp] theorem State.setReg_progress (s : State) (a : Nat) (v : Word) : (s.setReg a v).progress = s.progress := rfl
@[simp] theorem State.setReg_melds (s : State) (a : Nat) (v : Word) : (s.setReg a v).melds = s.melds := rfl
@[simp] theorem State.setReg_rakes (s : State) (a : Nat) (v : Word) : (s.setReg a v).rakes = s.rakes := rfl
@[simp] theorem State.setReg_glinks (s : State) (a : Nat) (v : Word) : (s.setReg a v).glinks = s.glinks := rfl
@[simp] theorem State.setReg_gin (s : State) (a : Nat) (v : Word) : (s.setReg a v).gin = s.gin := rfl
@[simp] theorem State.setReg_greqs (s : State) (a : Nat) (v : Word) : (s.setReg a v).greqs = s.greqs := rfl
@[simp] theorem State.setReg_gops (s : State) (a : Nat) (v : Word) : (s.setReg a v).gops = s.gops := rfl
@[simp] theorem State.setReg_gtag (s : State) (a : Nat) (v : Word) : (s.setReg a v).gtag = s.gtag := rfl
@[simp] theorem State.setReg_colls (s : State) (a : Nat) (v : Word) : (s.setReg a v).colls = s.colls := rfl
@[simp] theorem State.setReg_kitties (s : State) (a : Nat) (v : Word) : (s.setReg a v).kitties = s.kitties := rfl
@[simp] theorem State.setReg_holds (s : State) (a : Nat) (v : Word) : (s.setReg a v).holds = s.holds := rfl
@[simp] theorem State.setReg_slew (s : State) (a : Nat) (v : Word) : (s.setReg a v).slew = s.slew := rfl
@[simp] theorem State.setReg_slewPhase (s : State) (a : Nat) (v : Word) : (s.setReg a v).slewPhase = s.slewPhase := rfl
@[simp] theorem State.setReg_locks (s : State) (a : Nat) (v : Word) : (s.setReg a v).locks = s.locks := rfl
@[simp] theorem State.setReg_sess (s : State) (a : Nat) (v : Word) : (s.setReg a v).sess = s.sess := rfl
@[simp] theorem State.setReg_wndws (s : State) (a : Nat) (v : Word) : (s.setReg a v).wndws = s.wndws := rfl
@[simp] theorem State.setReg_wndwNext (s : State) (a : Nat) (v : Word) : (s.setReg a v).wndwNext = s.wndwNext := rfl
@[simp] theorem State.setReg_qps (s : State) (a : Nat) (v : Word) : (s.setReg a v).qps = s.qps := rfl
@[simp] theorem State.setReg_qpNext (s : State) (a : Nat) (v : Word) : (s.setReg a v).qpNext = s.qpNext := rfl
@[simp] theorem State.setReg_nets (s : State) (a : Nat) (v : Word) : (s.setReg a v).nets = s.nets := rfl
@[simp] theorem State.setReg_paused (s : State) (a : Nat) (v : Word) : (s.setReg a v).paused = s.paused := rfl
@[simp] theorem State.setReg_sec (s : State) (a : Nat) (v : Word) : (s.setReg a v).sec = s.sec := rfl
@[simp] theorem State.setReg_episode (s : State) (a : Nat) (v : Word) : (s.setReg a v).episode = s.episode := rfl
@[simp] theorem State.setReg_blocks (s : State) (a : Nat) (v : Word) : (s.setReg a v).blocks = s.blocks := rfl
@[simp] theorem State.setReg_drains (s : State) (a : Nat) (v : Word) : (s.setReg a v).drains = s.drains := rfl
@[simp] theorem State.setReg_capStreak (s : State) (a : Nat) (v : Word) : (s.setReg a v).capStreak = s.capStreak := rfl
@[simp] theorem State.setReg_capLast (s : State) (a : Nat) (v : Word) : (s.setReg a v).capLast = s.capLast := rfl
@[simp] theorem State.setReg_energyUj (s : State) (a : Nat) (v : Word) : (s.setReg a v).energyUj = s.energyUj := rfl
@[simp] theorem State.setReg_throttleLow (s : State) (a : Nat) (v : Word) : (s.setReg a v).throttleLow = s.throttleLow := rfl
@[simp] theorem State.setReg_vset0 (s : State) (a : Nat) (v : Word) : (s.setReg a v).vset0 = s.vset0 := rfl
@[simp] theorem State.setReg_vset1 (s : State) (a : Nat) (v : Word) : (s.setReg a v).vset1 = s.vset1 := rfl
@[simp] theorem State.setReg_trace (s : State) (a : Nat) (v : Word) : (s.setReg a v).trace = s.trace := rfl
@[simp] theorem State.setReg_alertAck (s : State) (a : Nat) (v : Word) : (s.setReg a v).alertAck = s.alertAck := rfl
@[simp] theorem State.setReg_pets (s : State) (a : Nat) (v : Word) : (s.setReg a v).pets = s.pets := rfl
@[simp] theorem State.setReg_mbxStale (s : State) (a : Nat) (v : Word) : (s.setReg a v).mbxStale = s.mbxStale := rfl
@[simp] theorem State.setReg_retired (s : State) (a : Nat) (v : Word) : (s.setReg a v).retired = s.retired := rfl
@[simp] theorem State.setReg_scans (s : State) (a : Nat) (v : Word) : (s.setReg a v).scans = s.scans := rfl
@[simp] theorem State.setReg_tlb (s : State) (a : Nat) (v : Word) : (s.setReg a v).tlb = s.tlb := rfl
@[simp] theorem State.setReg_invs (s : State) (a : Nat) (v : Word) : (s.setReg a v).invs = s.invs := rfl
@[simp] theorem State.setReg_slb (s : State) (a : Nat) (v : Word) : (s.setReg a v).slb = s.slb := rfl
@[simp] theorem State.setReg_sinvs (s : State) (a : Nat) (v : Word) : (s.setReg a v).sinvs = s.sinvs := rfl

@[simp] theorem State.setTbl_pending (s : State) (t : Nat) (x : Tbl) : (s.setTbl t x).pending = s.pending := rfl
@[simp] theorem State.setTbl_free (s : State) (t : Nat) (x : Tbl) : (s.setTbl t x).free = s.free := rfl
@[simp] theorem State.setTbl_gtime (s : State) (t : Nat) (x : Tbl) : (s.setTbl t x).gtime = s.gtime := rfl
@[simp] theorem State.setTbl_fuses (s : State) (t : Nat) (x : Tbl) : (s.setTbl t x).fuses = s.fuses := rfl
@[simp] theorem State.setTbl_regs (s : State) (t : Nat) (x : Tbl) : (s.setTbl t x).regs = s.regs := rfl
@[simp] theorem State.setTbl_mem (s : State) (t : Nat) (x : Tbl) : (s.setTbl t x).mem = s.mem := rfl
@[simp] theorem State.setTbl_bad (s : State) (t : Nat) (x : Tbl) : (s.setTbl t x).bad = s.bad := rfl
@[simp] theorem State.setTbl_cells (s : State) (t : Nat) (x : Tbl) : (s.setTbl t x).cells = s.cells := rfl
@[simp] theorem State.setTbl_isls (s : State) (t : Nat) (x : Tbl) : (s.setTbl t x).isls = s.isls := rfl
@[simp] theorem State.setTbl_fifos (s : State) (t : Nat) (x : Tbl) : (s.setTbl t x).fifos = s.fifos := rfl
@[simp] theorem State.setTbl_flight (s : State) (t : Nat) (x : Tbl) : (s.setTbl t x).flight = s.flight := rfl
@[simp] theorem State.setTbl_memq (s : State) (t : Nat) (x : Tbl) : (s.setTbl t x).memq = s.memq := rfl
@[simp] theorem State.setTbl_mesh (s : State) (t : Nat) (x : Tbl) : (s.setTbl t x).mesh = s.mesh := rfl
@[simp] theorem State.setTbl_wins (s : State) (t : Nat) (x : Tbl) : (s.setTbl t x).wins = s.wins := rfl
@[simp] theorem State.setTbl_syncs (s : State) (t : Nat) (x : Tbl) : (s.setTbl t x).syncs = s.syncs := rfl
@[simp] theorem State.setTbl_syncNext (s : State) (t : Nat) (x : Tbl) : (s.setTbl t x).syncNext = s.syncNext := rfl
@[simp] theorem State.setTbl_chmsgs (s : State) (t : Nat) (x : Tbl) : (s.setTbl t x).chmsgs = s.chmsgs := rfl
@[simp] theorem State.setTbl_rtails (s : State) (t : Nat) (x : Tbl) : (s.setTbl t x).rtails = s.rtails := rfl
@[simp] theorem State.setTbl_pools (s : State) (t : Nat) (x : Tbl) : (s.setTbl t x).pools = s.pools := rfl
@[simp] theorem State.setTbl_vcopy (s : State) (t : Nat) (x : Tbl) : (s.setTbl t x).vcopy = s.vcopy := rfl
@[simp] theorem State.setTbl_vpages (s : State) (t : Nat) (x : Tbl) : (s.setTbl t x).vpages = s.vpages := rfl
@[simp] theorem State.setTbl_events (s : State) (t : Nat) (x : Tbl) : (s.setTbl t x).events = s.events := rfl
@[simp] theorem State.setTbl_out (s : State) (t : Nat) (x : Tbl) : (s.setTbl t x).out = s.out := rfl
@[simp] theorem State.setTbl_jobs (s : State) (t : Nat) (x : Tbl) : (s.setTbl t x).jobs = s.jobs := rfl
@[simp] theorem State.setTbl_jobNext (s : State) (t : Nat) (x : Tbl) : (s.setTbl t x).jobNext = s.jobNext := rfl
@[simp] theorem State.setTbl_ended (s : State) (t : Nat) (x : Tbl) : (s.setTbl t x).ended = s.ended := rfl
@[simp] theorem State.setTbl_progress (s : State) (t : Nat) (x : Tbl) : (s.setTbl t x).progress = s.progress := rfl
@[simp] theorem State.setTbl_melds (s : State) (t : Nat) (x : Tbl) : (s.setTbl t x).melds = s.melds := rfl
@[simp] theorem State.setTbl_rakes (s : State) (t : Nat) (x : Tbl) : (s.setTbl t x).rakes = s.rakes := rfl
@[simp] theorem State.setTbl_glinks (s : State) (t : Nat) (x : Tbl) : (s.setTbl t x).glinks = s.glinks := rfl
@[simp] theorem State.setTbl_gin (s : State) (t : Nat) (x : Tbl) : (s.setTbl t x).gin = s.gin := rfl
@[simp] theorem State.setTbl_greqs (s : State) (t : Nat) (x : Tbl) : (s.setTbl t x).greqs = s.greqs := rfl
@[simp] theorem State.setTbl_gops (s : State) (t : Nat) (x : Tbl) : (s.setTbl t x).gops = s.gops := rfl
@[simp] theorem State.setTbl_gtag (s : State) (t : Nat) (x : Tbl) : (s.setTbl t x).gtag = s.gtag := rfl
@[simp] theorem State.setTbl_colls (s : State) (t : Nat) (x : Tbl) : (s.setTbl t x).colls = s.colls := rfl
@[simp] theorem State.setTbl_kitties (s : State) (t : Nat) (x : Tbl) : (s.setTbl t x).kitties = s.kitties := rfl
@[simp] theorem State.setTbl_holds (s : State) (t : Nat) (x : Tbl) : (s.setTbl t x).holds = s.holds := rfl
@[simp] theorem State.setTbl_slew (s : State) (t : Nat) (x : Tbl) : (s.setTbl t x).slew = s.slew := rfl
@[simp] theorem State.setTbl_slewPhase (s : State) (t : Nat) (x : Tbl) : (s.setTbl t x).slewPhase = s.slewPhase := rfl
@[simp] theorem State.setTbl_locks (s : State) (t : Nat) (x : Tbl) : (s.setTbl t x).locks = s.locks := rfl
@[simp] theorem State.setTbl_sess (s : State) (t : Nat) (x : Tbl) : (s.setTbl t x).sess = s.sess := rfl
@[simp] theorem State.setTbl_wndws (s : State) (t : Nat) (x : Tbl) : (s.setTbl t x).wndws = s.wndws := rfl
@[simp] theorem State.setTbl_wndwNext (s : State) (t : Nat) (x : Tbl) : (s.setTbl t x).wndwNext = s.wndwNext := rfl
@[simp] theorem State.setTbl_qps (s : State) (t : Nat) (x : Tbl) : (s.setTbl t x).qps = s.qps := rfl
@[simp] theorem State.setTbl_qpNext (s : State) (t : Nat) (x : Tbl) : (s.setTbl t x).qpNext = s.qpNext := rfl
@[simp] theorem State.setTbl_nets (s : State) (t : Nat) (x : Tbl) : (s.setTbl t x).nets = s.nets := rfl
@[simp] theorem State.setTbl_paused (s : State) (t : Nat) (x : Tbl) : (s.setTbl t x).paused = s.paused := rfl
@[simp] theorem State.setTbl_sec (s : State) (t : Nat) (x : Tbl) : (s.setTbl t x).sec = s.sec := rfl
@[simp] theorem State.setTbl_episode (s : State) (t : Nat) (x : Tbl) : (s.setTbl t x).episode = s.episode := rfl
@[simp] theorem State.setTbl_blocks (s : State) (t : Nat) (x : Tbl) : (s.setTbl t x).blocks = s.blocks := rfl
@[simp] theorem State.setTbl_drains (s : State) (t : Nat) (x : Tbl) : (s.setTbl t x).drains = s.drains := rfl
@[simp] theorem State.setTbl_capStreak (s : State) (t : Nat) (x : Tbl) : (s.setTbl t x).capStreak = s.capStreak := rfl
@[simp] theorem State.setTbl_capLast (s : State) (t : Nat) (x : Tbl) : (s.setTbl t x).capLast = s.capLast := rfl
@[simp] theorem State.setTbl_energyUj (s : State) (t : Nat) (x : Tbl) : (s.setTbl t x).energyUj = s.energyUj := rfl
@[simp] theorem State.setTbl_throttleLow (s : State) (t : Nat) (x : Tbl) : (s.setTbl t x).throttleLow = s.throttleLow := rfl
@[simp] theorem State.setTbl_vset0 (s : State) (t : Nat) (x : Tbl) : (s.setTbl t x).vset0 = s.vset0 := rfl
@[simp] theorem State.setTbl_vset1 (s : State) (t : Nat) (x : Tbl) : (s.setTbl t x).vset1 = s.vset1 := rfl
@[simp] theorem State.setTbl_trace (s : State) (t : Nat) (x : Tbl) : (s.setTbl t x).trace = s.trace := rfl
@[simp] theorem State.setTbl_alertAck (s : State) (t : Nat) (x : Tbl) : (s.setTbl t x).alertAck = s.alertAck := rfl
@[simp] theorem State.setTbl_pets (s : State) (t : Nat) (x : Tbl) : (s.setTbl t x).pets = s.pets := rfl
@[simp] theorem State.setTbl_mbxStale (s : State) (t : Nat) (x : Tbl) : (s.setTbl t x).mbxStale = s.mbxStale := rfl
@[simp] theorem State.setTbl_retired (s : State) (t : Nat) (x : Tbl) : (s.setTbl t x).retired = s.retired := rfl
@[simp] theorem State.setTbl_scans (s : State) (t : Nat) (x : Tbl) : (s.setTbl t x).scans = s.scans := rfl
@[simp] theorem State.setTbl_tlb (s : State) (t : Nat) (x : Tbl) : (s.setTbl t x).tlb = s.tlb := rfl
@[simp] theorem State.setTbl_invs (s : State) (t : Nat) (x : Tbl) : (s.setTbl t x).invs = s.invs := rfl
@[simp] theorem State.setTbl_slb (s : State) (t : Nat) (x : Tbl) : (s.setTbl t x).slb = s.slb := rfl
@[simp] theorem State.setTbl_sinvs (s : State) (t : Nat) (x : Tbl) : (s.setTbl t x).sinvs = s.sinvs := rfl

@[simp] theorem State.wrN_pending (s : State) (a : Nat) (bs : List Byte) : (s.wrN a bs).pending = s.pending := rfl
@[simp] theorem State.wrN_free (s : State) (a : Nat) (bs : List Byte) : (s.wrN a bs).free = s.free := rfl
@[simp] theorem State.wrN_gtime (s : State) (a : Nat) (bs : List Byte) : (s.wrN a bs).gtime = s.gtime := rfl
@[simp] theorem State.wrN_fuses (s : State) (a : Nat) (bs : List Byte) : (s.wrN a bs).fuses = s.fuses := rfl
@[simp] theorem State.wrN_regs (s : State) (a : Nat) (bs : List Byte) : (s.wrN a bs).regs = s.regs := rfl
@[simp] theorem State.wrN_cells (s : State) (a : Nat) (bs : List Byte) : (s.wrN a bs).cells = s.cells := rfl
@[simp] theorem State.wrN_isls (s : State) (a : Nat) (bs : List Byte) : (s.wrN a bs).isls = s.isls := rfl
@[simp] theorem State.wrN_fifos (s : State) (a : Nat) (bs : List Byte) : (s.wrN a bs).fifos = s.fifos := rfl
@[simp] theorem State.wrN_flight (s : State) (a : Nat) (bs : List Byte) : (s.wrN a bs).flight = s.flight := rfl
@[simp] theorem State.wrN_memq (s : State) (a : Nat) (bs : List Byte) : (s.wrN a bs).memq = s.memq := rfl
@[simp] theorem State.wrN_mesh (s : State) (a : Nat) (bs : List Byte) : (s.wrN a bs).mesh = s.mesh := rfl
@[simp] theorem State.wrN_wins (s : State) (a : Nat) (bs : List Byte) : (s.wrN a bs).wins = s.wins := rfl
@[simp] theorem State.wrN_syncs (s : State) (a : Nat) (bs : List Byte) : (s.wrN a bs).syncs = s.syncs := rfl
@[simp] theorem State.wrN_syncNext (s : State) (a : Nat) (bs : List Byte) : (s.wrN a bs).syncNext = s.syncNext := rfl
@[simp] theorem State.wrN_chmsgs (s : State) (a : Nat) (bs : List Byte) : (s.wrN a bs).chmsgs = s.chmsgs := rfl
@[simp] theorem State.wrN_rtails (s : State) (a : Nat) (bs : List Byte) : (s.wrN a bs).rtails = s.rtails := rfl
@[simp] theorem State.wrN_pools (s : State) (a : Nat) (bs : List Byte) : (s.wrN a bs).pools = s.pools := rfl
@[simp] theorem State.wrN_vcopy (s : State) (a : Nat) (bs : List Byte) : (s.wrN a bs).vcopy = s.vcopy := rfl
@[simp] theorem State.wrN_vpages (s : State) (a : Nat) (bs : List Byte) : (s.wrN a bs).vpages = s.vpages := rfl
@[simp] theorem State.wrN_events (s : State) (a : Nat) (bs : List Byte) : (s.wrN a bs).events = s.events := rfl
@[simp] theorem State.wrN_out (s : State) (a : Nat) (bs : List Byte) : (s.wrN a bs).out = s.out := rfl
@[simp] theorem State.wrN_tbls (s : State) (a : Nat) (bs : List Byte) : (s.wrN a bs).tbls = s.tbls := rfl
@[simp] theorem State.wrN_jobs (s : State) (a : Nat) (bs : List Byte) : (s.wrN a bs).jobs = s.jobs := rfl
@[simp] theorem State.wrN_jobNext (s : State) (a : Nat) (bs : List Byte) : (s.wrN a bs).jobNext = s.jobNext := rfl
@[simp] theorem State.wrN_ended (s : State) (a : Nat) (bs : List Byte) : (s.wrN a bs).ended = s.ended := rfl
@[simp] theorem State.wrN_progress (s : State) (a : Nat) (bs : List Byte) : (s.wrN a bs).progress = s.progress := rfl
@[simp] theorem State.wrN_melds (s : State) (a : Nat) (bs : List Byte) : (s.wrN a bs).melds = s.melds := rfl
@[simp] theorem State.wrN_rakes (s : State) (a : Nat) (bs : List Byte) : (s.wrN a bs).rakes = s.rakes := rfl
@[simp] theorem State.wrN_glinks (s : State) (a : Nat) (bs : List Byte) : (s.wrN a bs).glinks = s.glinks := rfl
@[simp] theorem State.wrN_gin (s : State) (a : Nat) (bs : List Byte) : (s.wrN a bs).gin = s.gin := rfl
@[simp] theorem State.wrN_greqs (s : State) (a : Nat) (bs : List Byte) : (s.wrN a bs).greqs = s.greqs := rfl
@[simp] theorem State.wrN_gops (s : State) (a : Nat) (bs : List Byte) : (s.wrN a bs).gops = s.gops := rfl
@[simp] theorem State.wrN_gtag (s : State) (a : Nat) (bs : List Byte) : (s.wrN a bs).gtag = s.gtag := rfl
@[simp] theorem State.wrN_colls (s : State) (a : Nat) (bs : List Byte) : (s.wrN a bs).colls = s.colls := rfl
@[simp] theorem State.wrN_kitties (s : State) (a : Nat) (bs : List Byte) : (s.wrN a bs).kitties = s.kitties := rfl
@[simp] theorem State.wrN_holds (s : State) (a : Nat) (bs : List Byte) : (s.wrN a bs).holds = s.holds := rfl
@[simp] theorem State.wrN_slew (s : State) (a : Nat) (bs : List Byte) : (s.wrN a bs).slew = s.slew := rfl
@[simp] theorem State.wrN_slewPhase (s : State) (a : Nat) (bs : List Byte) : (s.wrN a bs).slewPhase = s.slewPhase := rfl
@[simp] theorem State.wrN_locks (s : State) (a : Nat) (bs : List Byte) : (s.wrN a bs).locks = s.locks := rfl
@[simp] theorem State.wrN_sess (s : State) (a : Nat) (bs : List Byte) : (s.wrN a bs).sess = s.sess := rfl
@[simp] theorem State.wrN_wndws (s : State) (a : Nat) (bs : List Byte) : (s.wrN a bs).wndws = s.wndws := rfl
@[simp] theorem State.wrN_wndwNext (s : State) (a : Nat) (bs : List Byte) : (s.wrN a bs).wndwNext = s.wndwNext := rfl
@[simp] theorem State.wrN_qps (s : State) (a : Nat) (bs : List Byte) : (s.wrN a bs).qps = s.qps := rfl
@[simp] theorem State.wrN_qpNext (s : State) (a : Nat) (bs : List Byte) : (s.wrN a bs).qpNext = s.qpNext := rfl
@[simp] theorem State.wrN_nets (s : State) (a : Nat) (bs : List Byte) : (s.wrN a bs).nets = s.nets := rfl
@[simp] theorem State.wrN_paused (s : State) (a : Nat) (bs : List Byte) : (s.wrN a bs).paused = s.paused := rfl
@[simp] theorem State.wrN_sec (s : State) (a : Nat) (bs : List Byte) : (s.wrN a bs).sec = s.sec := rfl
@[simp] theorem State.wrN_episode (s : State) (a : Nat) (bs : List Byte) : (s.wrN a bs).episode = s.episode := rfl
@[simp] theorem State.wrN_blocks (s : State) (a : Nat) (bs : List Byte) : (s.wrN a bs).blocks = s.blocks := rfl
@[simp] theorem State.wrN_drains (s : State) (a : Nat) (bs : List Byte) : (s.wrN a bs).drains = s.drains := rfl
@[simp] theorem State.wrN_capStreak (s : State) (a : Nat) (bs : List Byte) : (s.wrN a bs).capStreak = s.capStreak := rfl
@[simp] theorem State.wrN_capLast (s : State) (a : Nat) (bs : List Byte) : (s.wrN a bs).capLast = s.capLast := rfl
@[simp] theorem State.wrN_energyUj (s : State) (a : Nat) (bs : List Byte) : (s.wrN a bs).energyUj = s.energyUj := rfl
@[simp] theorem State.wrN_throttleLow (s : State) (a : Nat) (bs : List Byte) : (s.wrN a bs).throttleLow = s.throttleLow := rfl
@[simp] theorem State.wrN_vset0 (s : State) (a : Nat) (bs : List Byte) : (s.wrN a bs).vset0 = s.vset0 := rfl
@[simp] theorem State.wrN_vset1 (s : State) (a : Nat) (bs : List Byte) : (s.wrN a bs).vset1 = s.vset1 := rfl
@[simp] theorem State.wrN_trace (s : State) (a : Nat) (bs : List Byte) : (s.wrN a bs).trace = s.trace := rfl
@[simp] theorem State.wrN_alertAck (s : State) (a : Nat) (bs : List Byte) : (s.wrN a bs).alertAck = s.alertAck := rfl
@[simp] theorem State.wrN_pets (s : State) (a : Nat) (bs : List Byte) : (s.wrN a bs).pets = s.pets := rfl
@[simp] theorem State.wrN_mbxStale (s : State) (a : Nat) (bs : List Byte) : (s.wrN a bs).mbxStale = s.mbxStale := rfl
@[simp] theorem State.wrN_retired (s : State) (a : Nat) (bs : List Byte) : (s.wrN a bs).retired = s.retired := rfl
@[simp] theorem State.wrN_scans (s : State) (a : Nat) (bs : List Byte) : (s.wrN a bs).scans = s.scans := rfl
@[simp] theorem State.wrN_tlb (s : State) (a : Nat) (bs : List Byte) : (s.wrN a bs).tlb = s.tlb := rfl
@[simp] theorem State.wrN_invs (s : State) (a : Nat) (bs : List Byte) : (s.wrN a bs).invs = s.invs := rfl
@[simp] theorem State.wrN_slb (s : State) (a : Nat) (bs : List Byte) : (s.wrN a bs).slb = s.slb := rfl
@[simp] theorem State.wrN_sinvs (s : State) (a : Nat) (bs : List Byte) : (s.wrN a bs).sinvs = s.sinvs := rfl

end Sys2Proof.Machine
end

