-- ==== Sys2Proof/Laws/Ops.lean ====
section
/-! SUPPORT. What the named operations do: reading after writing of cells, islands, registers and memory, fields of a
word, and that each of them keeps the canonical form. -/

namespace Sys2Proof.Machine

open Sys2Proof

/-! ### Canonical form -/

theorem State.Canon.mem {s : State} (h : s.Canon) : Memory.wf s.mem = true := h.1
theorem State.Canon.regs {s : State} (h : s.Canon) : SMap.wf resetValue s.regs = true := h.2.1
theorem State.Canon.cells {s : State} (h : s.Canon) : SMap.wf Cell.dflt s.cells = true := h.2.2.1
theorem State.Canon.isls {s : State} (h : s.Canon) : SMap.wf Isl.dflt s.isls = true := h.2.2.2

theorem State.Canon.setReg {s : State} (h : s.Canon) (a : Nat) (v : Word) : (s.setReg a v).Canon :=
  ⟨h.1, SMap.wf_set _ _ _ _ h.2.1, h.2.2⟩
theorem State.Canon.setCell {s : State} (h : s.Canon) (k : CellRef) (c : Cell) : (s.setCell k c).Canon :=
  ⟨h.1, h.2.1, SMap.wf_set _ _ _ _ h.2.2.1, h.2.2.2⟩
theorem State.Canon.setIsl {s : State} (h : s.Canon) (i : Nat) (x : Isl) : (s.setIsl i x).Canon :=
  ⟨h.1, h.2.1, h.2.2.1, SMap.wf_set _ _ _ _ h.2.2.2⟩
theorem State.Canon.setTbl {s : State} (h : s.Canon) (t : Nat) (x : Tbl) : (s.setTbl t x).Canon := h
theorem State.Canon.updCell {s : State} (h : s.Canon) (k : CellRef) (f : Cell → Cell) : (s.updCell k f).Canon := h.setCell k _
theorem State.Canon.updIsl {s : State} (h : s.Canon) (i : Nat) (f : Isl → Isl) : (s.updIsl i f).Canon := h.setIsl i _
theorem State.Canon.setFld {s : State} (h : s.Canon) (a hi lo v : Nat) : (s.setFld a hi lo v).Canon := h.setReg a _
theorem State.Canon.incFld {s : State} (h : s.Canon) (a hi lo n : Nat) : (s.incFld a hi lo n).Canon := h.setReg a _
theorem State.Canon.satFld {s : State} (h : s.Canon) (a hi lo n : Nat) : (s.satFld a hi lo n).Canon := h.setReg a _

theorem Phys.wr_dflt (m : Phys) (a : Nat) (v : Byte) : (m.wr a v).dflt = m.dflt := rfl

theorem Memory.wf_wr (m : Phys) (a : Nat) (v : Byte) (h : Memory.wf m = true) : Memory.wf (m.wr a v) = true :=
  SMap.wf_set _ _ _ _ h

/-- Writing bytes keeps the canonical form of memory. -/
theorem Memory.wf_writeN (m : Phys) (a : Nat) (bs : List Byte) (h : Memory.wf m = true) : Memory.wf (m.writeN a bs) = true := by
  induction bs generalizing m a with
  | nil => exact h
  | cons b t ih => exact ih _ _ (Memory.wf_wr m a b h)

theorem State.Canon.wrN {s : State} (h : s.Canon) (a : Nat) (bs : List Byte) : (s.wrN a bs).Canon :=
  ⟨Memory.wf_writeN _ _ _ h.1, h.2⟩

/-! ### Memory -/

theorem Phys.rd_wr (m : Phys) (a b : Nat) (v : Byte) (h : Memory.wf m = true) :
    (m.wr a v).rd b = if b = a then v else m.rd b := by
  unfold Phys.rd Phys.wr
  exact SMap.get_set _ _ _ _ _ h

/-- A byte outside those written reads as before. -/
theorem Phys.rd_writeN_other (m : Phys) (a b : Nat) (bs : List Byte) (h : Memory.wf m = true)
    (hb : b < a ∨ a + bs.length ≤ b) : (m.writeN a bs).rd b = m.rd b := by
  induction bs generalizing m a with
  | nil => rfl
  | cons x t ih =>
    have hl : (x :: t).length = t.length + 1 := rfl
    have hne : b ≠ a := by omega
    show (Phys.writeN (m.wr a x) (a + 1) t).rd b = _
    rw [ih _ _ (Memory.wf_wr m a x h) (by omega), Phys.rd_wr m a b x h, if_neg hne]

/-- A byte written reads as the byte of the list at its place. -/
theorem Phys.rd_writeN_same (m : Phys) (a i : Nat) (bs : List Byte) (h : Memory.wf m = true) (hi : i < bs.length) :
    (m.writeN a bs).rd (a + i) = bs[i] := by
  induction bs generalizing m a i with
  | nil => simp at hi
  | cons x t ih =>
    show (Phys.writeN (m.wr a x) (a + 1) t).rd (a + i) = _
    cases i with
    | zero =>
      rw [Phys.rd_writeN_other _ _ _ _ (Memory.wf_wr m a x h) (by omega), Phys.rd_wr m a _ x h]
      simp
    | succ j =>
      have := ih (m.wr a x) (a + 1) j (Memory.wf_wr m a x h) (by simpa using hi)
      rw [show a + (j + 1) = a + 1 + j by omega]
      simpa using this

/-! ### Cells, islands and registers -/

theorem gid_inj {a b : CellRef} (ha : a.c < 16) (hb : b.c < 16) (h : gid a = gid b) : a = b := by
  obtain ⟨i, c⟩ := a; obtain ⟨j, d⟩ := b
  simp only [gid] at *
  have : i = j := by omega
  have : c = d := by omega
  simp_all

theorem State.cell_setCell {s : State} (h : s.Canon) (k : CellRef) (c : Cell) : (s.setCell k c).cell k = c :=
  SMap.get_set_same _ _ _ _ h.cells
theorem State.cell_setCell_other {s : State} (h : s.Canon) {k j : CellRef} (c : Cell) (hne : gid j ≠ gid k) :
    (s.setCell k c).cell j = s.cell j := SMap.get_set_other _ _ _ hne h.cells
theorem State.cell_updCell {s : State} (h : s.Canon) (k : CellRef) (f : Cell → Cell) : (s.updCell k f).cell k = f (s.cell k) :=
  s.cell_setCell h k _
theorem State.cell_updCell_other {s : State} (h : s.Canon) {k j : CellRef} (f : Cell → Cell) (hne : gid j ≠ gid k) :
    (s.updCell k f).cell j = s.cell j := s.cell_setCell_other h _ hne

theorem State.isl_setIsl {s : State} (h : s.Canon) (i : Nat) (x : Isl) : (s.setIsl i x).isl i = x :=
  SMap.get_set_same _ _ _ _ h.isls
theorem State.isl_setIsl_other {s : State} (h : s.Canon) {i j : Nat} (x : Isl) (hne : j ≠ i) :
    (s.setIsl i x).isl j = s.isl j := SMap.get_set_other _ _ _ hne h.isls

theorem State.isl_updIsl {s : State} (h : s.Canon) (i : Nat) (f : Isl → Isl) : (s.updIsl i f).isl i = f (s.isl i) :=
  State.isl_setIsl h _ _
theorem State.isl_updIsl_other {s : State} (h : s.Canon) {i j : Nat} (f : Isl → Isl) (hne : j ≠ i) : (s.updIsl i f).isl j = s.isl j :=
  State.isl_setIsl_other h _ hne
theorem State.reg_updIsl (s : State) (i : Nat) (f : Isl → Isl) (a : Nat) : (s.updIsl i f).reg a = s.reg a := rfl
theorem State.cell_updIsl (s : State) (i : Nat) (f : Isl → Isl) (k : CellRef) : (s.updIsl i f).cell k = s.cell k := rfl
theorem State.cell_incFld (s : State) (a hi lo n : Nat) (k : CellRef) : (s.incFld a hi lo n).cell k = s.cell k := rfl
theorem State.isl_incFld (s : State) (a hi lo n : Nat) (i : Nat) : (s.incFld a hi lo n).isl i = s.isl i := rfl
theorem State.cell_setFld (s : State) (a hi lo n : Nat) (k : CellRef) : (s.setFld a hi lo n).cell k = s.cell k := rfl
theorem State.isl_setFld (s : State) (a hi lo n : Nat) (i : Nat) : (s.setFld a hi lo n).isl i = s.isl i := rfl
theorem State.reg_updCell (s : State) (k : CellRef) (f : Cell → Cell) (a : Nat) : (s.updCell k f).reg a = s.reg a := rfl
theorem State.isl_updCell (s : State) (k : CellRef) (f : Cell → Cell) (i : Nat) : (s.updCell k f).isl i = s.isl i := rfl

theorem State.reg_setReg {s : State} (h : s.Canon) (a b : Nat) (v : Word) :
    (s.setReg a v).reg b = if b = a then v else s.reg b := SMap.get_set _ _ _ _ _ h.regs

@[simp] theorem State.isl_setCell (s : State) (k : CellRef) (c : Cell) (i : Nat) : (s.setCell k c).isl i = s.isl i := rfl
@[simp] theorem State.reg_setCell (s : State) (k : CellRef) (c : Cell) (a : Nat) : (s.setCell k c).reg a = s.reg a := rfl
@[simp] theorem State.cell_setIsl (s : State) (i : Nat) (x : Isl) (k : CellRef) : (s.setIsl i x).cell k = s.cell k := rfl
@[simp] theorem State.reg_setIsl (s : State) (i : Nat) (x : Isl) (a : Nat) : (s.setIsl i x).reg a = s.reg a := rfl
@[simp] theorem State.cell_setReg (s : State) (a : Nat) (v : Word) (k : CellRef) : (s.setReg a v).cell k = s.cell k := rfl
@[simp] theorem State.isl_setReg (s : State) (a : Nat) (v : Word) (i : Nat) : (s.setReg a v).isl i = s.isl i := rfl
@[simp] theorem State.cell_wrN (s : State) (a : Nat) (bs : List Byte) (k : CellRef) : (s.wrN a bs).cell k = s.cell k := rfl
@[simp] theorem State.isl_wrN (s : State) (a : Nat) (bs : List Byte) (i : Nat) : (s.wrN a bs).isl i = s.isl i := rfl
@[simp] theorem State.reg_wrN (s : State) (a : Nat) (bs : List Byte) (b : Nat) : (s.wrN a bs).reg b = s.reg b := rfl

/-! ### Fields of a word -/

theorem putField_toNat_full (w : Word) (n : Nat) : putField 63 0 n w = BitVec.ofNat 64 n := by
  apply BitVec.eq_of_toNat_eq
  simp [putField]

theorem inc_full (w : Word) (n : Nat) : putField 63 0 (field 63 0 w + n) w = w + BitVec.ofNat 64 n := by
  apply BitVec.eq_of_toNat_eq
  simp [putField_toNat_full, field, BitVec.toNat_add, BitVec.toNat_ofNat]

theorem State.reg_incFull {s : State} (h : s.Canon) (a b n : Nat) :
    (s.incFld a 63 0 n).reg b = if b = a then s.reg a + BitVec.ofNat 64 n else s.reg b := by
  unfold State.incFld State.setFld State.fld
  rw [State.reg_setReg h, inc_full]

/-! ### Addresses and fields -/

theorem islCycle_ne_islSeq (i : Nat) : R.islCycle i ≠ R.islSeq i := by simp [R.islCycle, R.islSeq, islReg]

theorem islReg_lt {i off : Nat} (hi : i < 192) (ho : off < 0x100000) :
    ctlBase (islDie i) ≤ islReg i off ∧ islReg i off < ctlBase (islDie i) + 0x07000000 ∧ islDie i < 2 := by
  unfold islReg islNum islDie islandSpan
  refine ⟨by omega, ?_, by omega⟩
  have : i % 96 < 96 := by omega
  omega

theorem islReg_ne_blkReg {i off d o : Nat} (b : Block) (hi : i < 192) (ho : off < 0x100000) (hd : d < 2) (hb : o < 0x100000) :
    islReg i off ≠ blkReg d b o := by
  have hl := islReg_lt hi ho
  have h0 : ctlBase 0 + 0x800000000 = ctlBase 1 := by decide
  have h1 : 0x07000000 ≤ b.off := by cases b <;> decide
  have h2 : b.off + 0x100000 < 0x10000000 := by cases b <;> decide
  unfold blkReg
  have hdi : islDie i = 0 ∨ islDie i = 1 := by omega
  have hdd : d = 0 ∨ d = 1 := by omega
  rcases hdi with e | e <;> rcases hdd with rfl | rfl <;> rw [e] at hl <;> omega

theorem cellReg_ne_islReg {k : CellRef} {a b : Nat} (hb : b < 0x10000) : cellReg k a ≠ islReg k.isl b := by
  unfold cellReg islReg; omega

theorem field_toNat (hi lo : Nat) (w : Word) : field hi lo w = w.toNat / 2 ^ lo % 2 ^ (hi - lo + 1) := by
  rw [field, Nat.shiftRight_eq_div_pow]

theorem putField_bit (hi lo v : Nat) (w : Word) (i : Nat) (hl : lo ≤ hi) (hi64 : i < 64) :
    (putField hi lo v w).getLsbD i = if lo ≤ i ∧ i ≤ hi then v.testBit (i - lo) else w.getLsbD i := by
  unfold putField
  simp only [BitVec.getLsbD_or, BitVec.getLsbD_and, BitVec.getLsbD_not, BitVec.getLsbD_ofNat, Nat.testBit_shiftLeft,
    Nat.testBit_two_pow_sub_one, Nat.testBit_mod_two_pow, hi64, decide_true, Bool.true_and]
  by_cases a : lo ≤ i
  · by_cases b : i ≤ hi
    · have : i - lo < hi - lo + 1 := by omega
      simp [a, b, this]
    · have : ¬ i - lo < hi - lo + 1 := by omega
      simp [a, b, this]
  · have : ¬ i ≥ lo := a
    simp [a]

theorem field_testBit (hi lo : Nat) (w : Word) (i : Nat) :
    (field hi lo w).testBit i = (decide (i < hi - lo + 1) && w.getLsbD (lo + i)) := by
  unfold field
  rw [Nat.testBit_mod_two_pow, Nat.testBit_shiftRight]
  rfl

/-- A field written reads as what was written, modulo its width. -/
theorem field_putField_same (hi lo v : Nat) (w : Word) (h : hi < 64) (hl : lo ≤ hi) :
    field hi lo (putField hi lo v w) = v % 2 ^ (hi - lo + 1) := by
  apply Nat.eq_of_testBit_eq
  intro i
  rw [field_testBit, Nat.testBit_mod_two_pow]
  by_cases a : i < hi - lo + 1
  · rw [putField_bit hi lo v w (lo + i) hl (by omega), if_pos ⟨by omega, by omega⟩]
    simp
  · simp [a]

/-- Another field reads as before. -/
theorem field_putField_other (hi lo hi' lo' v : Nat) (w : Word) (hl : lo ≤ hi) (h' : hi' < 64) (hl' : lo' ≤ hi')
    (hd : hi < lo' ∨ hi' < lo) : field hi' lo' (putField hi lo v w) = field hi' lo' w := by
  apply Nat.eq_of_testBit_eq
  intro i
  rw [field_testBit, field_testBit]
  by_cases a : i < hi' - lo' + 1
  · rw [putField_bit hi lo v w (lo' + i) hl (by omega), if_neg (by omega)]
  · simp [a]

theorem State.fld_setFld_same {s : State} (h : s.Canon) (a hi lo v : Nat) (hh : hi < 64) (hl : lo ≤ hi) :
    (s.setFld a hi lo v).fld a hi lo = v % 2 ^ (hi - lo + 1) := by
  unfold State.fld State.setFld
  rw [State.reg_setReg h, if_pos rfl, field_putField_same _ _ _ _ hh hl]

theorem State.fld_setFld_other {s : State} (h : s.Canon) (a hi lo v hi' lo' : Nat) (hl : lo ≤ hi) (h' : hi' < 64) (hl' : lo' ≤ hi')
    (hd : hi < lo' ∨ hi' < lo) : (s.setFld a hi lo v).fld a hi' lo' = s.fld a hi' lo' := by
  unfold State.fld State.setFld
  rw [State.reg_setReg h, if_pos rfl, field_putField_other _ _ _ _ _ _ hl h' hl' hd]

theorem State.fld_congr {s t : State} {a : Nat} (h : t.reg a = s.reg a) (hi lo : Nat) : t.fld a hi lo = s.fld a hi lo := by
  unfold State.fld; rw [h]

theorem State.reg_setFld_ne {s : State} (h : s.Canon) {a b : Nat} (hi lo v : Nat) (hne : b ≠ a) :
    (s.setFld a hi lo v).reg b = s.reg b := by
  unfold State.setFld
  rw [State.reg_setReg h, if_neg hne]

theorem State.reg_incFld_ne {s : State} (h : s.Canon) {a b : Nat} (hi lo n : Nat) (hne : b ≠ a) :
    (s.incFld a hi lo n).reg b = s.reg b := State.reg_setFld_ne h _ _ _ hne

end Sys2Proof.Machine
end

