-- ==== Sys2Proof/Laws/Drive.lean ====
section
/-! SUPPORT. What driving one word does when its cell runs alone (Safety.lean's Quiet): the island cycle reduces to the
issue of that word, the landing of its writes and the counts of the island. -/

namespace Sys2Proof.Machine

open Sys2Proof

/-! ### Lists of cells -/

theorem foldl_fixed {α β : Type} (f : α → β → α) (a : α) (l : List β) (h : ∀ x ∈ l, f a x = a) : l.foldl f a = a := by
  induction l with
  | nil => rfl
  | cons x t ih =>
    rw [List.foldl_cons, h x (by simp)]
    exact ih (fun y hy => h y (by simp [hy]))

/-- A fold over cells of an island in which only one cell acts. -/
theorem foldl_one {α : Type} (f : α → Nat → α) (a : α) (n c : Nat) (hc : c < n) (h1 : ∀ j, j < n → j ≠ c → f a j = a)
    (h2 : ∀ j, j < n → j ≠ c → f (f a c) j = f a c) : (List.range n).foldl f a = f a c := by
  induction n with
  | zero => omega
  | succ n ih =>
    rw [List.range_succ, List.foldl_append]
    by_cases hn : c = n
    · subst hn
      rw [foldl_fixed f a _ (fun x hx => h1 x (by have := List.mem_range.mp hx; omega) (by have := List.mem_range.mp hx; omega))]
      rfl
    · rw [ih (by omega) (fun j hj hne => h1 j (by omega) hne) (fun j hj hne => h2 j (by omega) hne)]
      exact h2 n (by omega) (fun e => hn e.symm)

theorem filterMap_one {α : Type} (f : Nat → Option α) (n c : Nat) (hc : c < n) (h : ∀ j, j < n → j ≠ c → f j = none) :
    (List.range n).filterMap f = (f c).toList := by
  induction n with
  | zero => omega
  | succ n ih =>
    rw [List.range_succ, List.filterMap_append]
    by_cases hn : c = n
    · subst hn
      have : (List.range c).filterMap f = [] := by
        rw [List.filterMap_eq_nil_iff]
        intro x hx
        have := List.mem_range.mp hx
        exact h x (by omega) (by omega)
      rw [this]
      cases hf : f c <;> simp [hf]
    · rw [ih (by omega) (fun j hj hne => h j (by omega) hne)]
      simp [h n (by omega) (fun e => hn e.symm)]

/-! ### A state in which one cell presents a word -/

/-- Cell k holds the word it presents, alone in its island. -/
structure Presents (p : State) (k : CellRef) (w : HWord) : Prop where
  canon : p.Canon
  isl : k.isl < 192
  idx : k.c < p.cellCount k.isl
  live : p.islFaulted k.isl = false
  tbl : (p.isl k.isl).table < 256
  run : (p.cell k).run = .running
  held : (p.cell k).held = some w
  bub : (p.cell k).bubble = false
  wires : (p.cell k).wires = []
  pc : (p.cell k).pc < imemWords k
  calm : p.calm k.isl
  others : ∀ c, c < p.cellCount k.isl → c ≠ k.c → (p.cell ⟨k.isl, c⟩).atRest

theorem State.islCells_foldl {α : Type} (p : State) (i : Nat) (f : α → CellRef → α) (a : α) :
    (p.islCells i).foldl f a = (List.range (p.cellCount i)).foldl (fun x c => f x ⟨i, c⟩) a := by
  unfold State.islCells
  rw [List.foldl_map]

theorem Presents.word {p : State} {k : CellRef} {w : HWord} (h : Presents p k w) (c : Nat) (hc : c < p.cellCount k.isl) :
    (p.cell ⟨k.isl, c⟩).wires = [] ∧ (p.cell ⟨k.isl, c⟩).bubble = false ∧
      (c ≠ k.c → (p.cell ⟨k.isl, c⟩).presented = none) := by
  by_cases e : c = k.c
  · subst e; exact ⟨h.wires, h.bub, fun x => absurd rfl x⟩
  · obtain ⟨a, b, d, e'⟩ := h.others c hc e
    exact ⟨e', b, fun _ => by simp [Cell.presented, a]⟩

theorem Presents.presented {p : State} {k : CellRef} {w : HWord} (h : Presents p k w) : (p.cell k).presented = some w := by
  simp [Cell.presented, h.run, h.bub, h.held]

/-- No cell of the island blocks. -/
theorem Presents.unblocked {p : State} {k : CellRef} {w : HWord} (h : Presents p k w)
    (hp : p.pullsAt k (p.cell k).pc = []) (hx : p.liveX k w = true → blockX p k w.x = []) :
    p.blockClasses k.isl = [] := by
  unfold State.blockClasses State.islCells
  rw [List.flatMap_eq_nil_iff]
  intro x hx'
  obtain ⟨c, hc, rfl⟩ := List.mem_map.mp hx'
  have hc := List.mem_range.mp hc
  obtain ⟨hw, _, hn⟩ := h.word c hc
  have ha : p.arrivalBlocked ⟨k.isl, c⟩ = false := by simp [State.arrivalBlocked, hw]
  have hf : p.fireBlocked ⟨k.isl, c⟩ = false := by simp [State.fireBlocked, hw, (h.calm.2 c hc).1]
  rw [ha, hf]
  by_cases e : c = k.c
  · subst e
    show _ ++ (match (p.cell k).presented with | none => _ | some w => _) = _
    rw [h.presented]
    simp only [hp, Bool.false_eq_true, if_false, List.nil_append, Bool.or_self, List.any_nil]
    split
    · rfl
    · by_cases hg : p.liveX k w = true
      · simp [hg, hx hg]
      · simp [hg]
  · simp [hn e]

theorem Presents.outcomes {p : State} {k : CellRef} {w : HWord} (h : Presents p k w) :
    p.outcomes k.isl = [(k, evalWord p k w)] := by
  unfold State.outcomes State.islCells
  rw [List.filterMap_map, filterMap_one _ _ k.c h.idx]
  · show (match (p.cell k).presented with | none => _ | some w => _ : Option _).toList = _
    rw [h.presented]
    have : ¬ imemWords k ≤ (p.cell k).pc := by have := h.pc; omega
    simp [this]
  · intro j hj hne
    have := (h.word j hj).2.2 hne
    simp [this]

theorem Presents.opened {p : State} {k : CellRef} {w : HWord} (h : Presents p k w) : p.openCycle k.isl = p := by
  have h1 : (p.islCells k.isl).foldl (fun s k => s.intakeStep k) p = p := by
    rw [State.islCells_foldl]
    refine foldl_fixed _ _ _ (fun c hc => ?_)
    simp [State.intakeStep, (h.calm.2 c (List.mem_range.mp hc)).2.1]
  have h2 : p.deliverHeads k.isl = p := by
    unfold State.deliverHeads
    rw [State.islCells_foldl]
    refine foldl_fixed _ _ _ (fun c hc => foldl_fixed _ _ _ (fun q hq => ?_))
    rw [(h.calm.2 c (List.mem_range.mp hc)).2.2 q (List.mem_range.mp hq)]
    rfl
  have h3 : (p.islCells k.isl).foldl (fun s k => s.arrivals k) p = p := by
    rw [State.islCells_foldl]
    refine foldl_fixed _ _ _ (fun c hc => ?_)
    simp [State.arrivals, (h.word c (List.mem_range.mp hc)).1]
  have h4 : (p.islCells k.isl).foldl (fun s k => s.fireAll k) p = p := by
    rw [State.islCells_foldl]
    refine foldl_fixed _ _ _ (fun c hc => ?_)
    simp [State.fireAll, (h.calm.2 c (List.mem_range.mp hc)).1]
  unfold State.openCycle
  simp only [h1, h2, h3, h4]

theorem Presents.cycle {p : State} {k : CellRef} {w : HWord} (h : Presents p k w)
    (hp : p.pullsAt k (p.cell k).pc = []) (hx : p.liveX k w = true → blockX p k w.x = [])
    (hf : (evalWord p k w).fault = none) :
    p.cycle k.isl = State.closeCycle p (p.issueWord k (evalWord p k w)) k.isl p.gtime := by
  have hi := h.isl
  unfold State.cycle
  rw [if_neg (by rw [h.live]; simp; omega), h.unblocked hp hx]
  simp only [List.isEmpty_nil, if_true]
  have hb : (p.islCells k.isl).foldl (fun s k => s.consumeBubble k) p = p := by
    rw [State.islCells_foldl]
    refine foldl_fixed _ _ _ (fun c hc => ?_)
    simp [State.consumeBubble, (h.word c (List.mem_range.mp hc)).2.1]
  unfold State.schedCycle
  simp only [h.opened, hb, h.outcomes, hf, List.filter_cons, List.filter_nil, Option.isNone_none, if_true, List.foldl_cons,
    List.foldl_nil, List.filterMap_cons, List.filterMap_nil, Option.map_none, State.recordFaults, List.isEmpty_cons,
    Bool.false_eq_true, if_false]

/-! ### Writes that land -/

/-- A write that goes to the cell's own state. -/
def PW.isOwn : PW → Bool
  | .sram _ _ _ => false
  | _ => true

/-- t is s but for cell k, which is c'. -/
structure CellOnly (s t : State) (k : CellRef) (c' : Cell) : Prop where
  canon : t.Canon
  rest : { t with cells := s.cells } = s
  self : t.cell k = c'
  other : ∀ j, gid j ≠ gid k → t.cell j = s.cell j

theorem CellOnly.refl {s : State} (h : s.Canon) (k : CellRef) : CellOnly s s k (s.cell k) := ⟨h, rfl, rfl, fun _ _ => rfl⟩

theorem CellOnly.updCell {s t : State} {k : CellRef} {c : Cell} (h : CellOnly s t k c) (f : Cell → Cell) :
    CellOnly s (t.updCell k f) k (f c) :=
  ⟨h.canon.updCell k f, h.rest, by rw [State.cell_updCell h.canon, h.self],
   fun j hj => by rw [State.cell_updCell_other h.canon f hj, h.other j hj]⟩

theorem CellOnly.applyPW {s t : State} {k : CellRef} {c : Cell} (h : CellOnly s t k c) (w : PW) (hw : w.isOwn = true) :
    CellOnly s (t.applyPW k w) k (c.applyPW w) := by
  cases w <;> first | exact h.updCell (fun c => c.applyPW _) | simp [PW.isOwn] at hw

theorem CellOnly.foldPW {s t : State} {k : CellRef} {c : Cell} (l : List Pend) (h : CellOnly s t k c)
    (hw : ∀ x ∈ l, x.w.isOwn = true) :
    CellOnly s (l.foldl (fun s x => s.applyPW k x.w) t) k (l.foldl (fun c x => c.applyPW x.w) c) := by
  induction l generalizing t c with
  | nil => exact h
  | cons x r ih => exact ih (h.applyPW x.w (hw x (by simp))) (fun y hy => hw y (by simp [hy]))

/-- A cell after the landing of what is due. -/
def Cell.landed (c : Cell) (now : Nat) : Cell :=
  let due := c.pend.filter (fun x => decide (x.due ≤ now))
  ((due.filter (fun x => x.w.isClear)) ++ (due.filter (fun x => !x.w.isClear))).foldl (fun c x => c.applyPW x.w)
    { c with pend := c.pend.filter (fun x => !decide (x.due ≤ now)) }

theorem State.settle_own {s : State} (h : s.Canon) (k : CellRef) (hw : ∀ x ∈ (s.cell k).pend, x.w.isOwn = true) :
    CellOnly s (s.settle k) k ((s.cell k).landed (s.isl k.isl).sched) := by
  unfold State.settle Cell.landed
  by_cases he : (s.cell k).pend = []
  · simp only [he, List.isEmpty_nil, if_true, List.filter_nil, List.append_nil, List.foldl_nil]
    have : { s.cell k with pend := [] } = s.cell k := by
      rw [← he]
    rw [this]
    exact CellOnly.refl h k
  · have : (s.cell k).pend.isEmpty = false := by simpa using he
    simp only [this, Bool.false_eq_true, if_false]
    refine CellOnly.foldPW _ ((CellOnly.refl h k).updCell _) (fun x hx => hw x ?_)
    simp only [List.mem_append, List.mem_filter] at hx
    rcases hx with ⟨⟨a, _⟩, _⟩ | ⟨⟨a, _⟩, _⟩ <;> exact a

/-! ### The registers of an island -/

theorem islOff_ne_telTemp {i off d : Nat} (hi : i < 192) (ho : off < 0x100000) (hd : d < 2) : R.telTemp d ≠ islReg i off :=
  (islReg_ne_blkReg .rcp hi ho hd (by omega)).symm

theorem islOff_ne_tblState {i off t : Nat} (hi : i < 192) (ho : off < 0x100000) (ht : t < 256) : R.tblState 0 t ≠ islReg i off :=
  (islReg_ne_blkReg .tbl hi ho (by omega) (by omega)).symm

theorem State.islFaulted_congr {s t : State} {i : Nat} (hi : i < 192) (ht : (s.isl i).table < 256) (hti : (t.isl i).table = (s.isl i).table)
    (hq : t.fld (R.islSeq i) 2 0 = s.fld (R.islSeq i) 2 0)
    (hr : ∀ a, a ≠ R.islCycle i → a ≠ R.islSeq i → t.reg a = s.reg a) : t.islFaulted i = s.islFaulted i := by
  have h2 : ∀ d, d < 2 → t.reg (R.telTemp d) = s.reg (R.telTemp d) := fun d hd =>
    hr _ (islOff_ne_telTemp hi (by omega) hd) (islOff_ne_telTemp hi (by omega) hd)
  have h3 : t.reg (R.tblState 0 (s.isl i).table) = s.reg (R.tblState 0 (s.isl i).table) :=
    hr _ (islOff_ne_tblState hi (by omega) ht) (islOff_ne_tblState hi (by omega) ht)
  unfold State.islFaulted State.scanHeld State.tripped
  rw [hq, hti]
  unfold State.fld
  rw [h3, h2 0 (by omega), h2 1 (by omega)]

/-! ### The end of the cycle -/

theorem Cell.applyPW_run (c : Cell) (w : PW) : (c.applyPW w).run = c.run := by
  cases w <;> simp only [Cell.applyPW] <;>
    simp only [Cell.ws, Cell.wp, Cell.wlc, Cell.orLanes, Cell.setPst, Cell.setPvis, Cell.setPot] <;> (repeat' split) <;> rfl

theorem Cell.foldPW_run (l : List Pend) (c : Cell) : (l.foldl (fun c x => c.applyPW x.w) c).run = c.run := by
  induction l generalizing c with
  | nil => rfl
  | cons x t ih => rw [List.foldl_cons, ih, Cell.applyPW_run]

theorem Cell.landed_run (c : Cell) (now : Nat) : (c.landed now).run = c.run := by
  unfold Cell.landed
  rw [Cell.foldPW_run]

/-- The state in which a schedule cycle ends that began in b, when only cell k has writes under way, no token is on a wire
and nothing else of the island acts. -/
structure Ends (b s2 : State) (k : CellRef) : Prop where
  canon : s2.Canon
  isl : k.isl < 192
  idx : k.c < s2.cellCount k.isl
  live : s2.islFaulted k.isl = false
  tbl : (s2.isl k.isl).table < 256
  run : (s2.cell k).run = .running
  dheld : (s2.isl k.isl).dheld = []
  wires : ∀ c, c < s2.cellCount k.isl → (s2.cell ⟨k.isl, c⟩).wires = [] ∧ (s2.cell ⟨k.isl, c⟩).steer = []
  pend : ∀ c, c < s2.cellCount k.isl → c ≠ k.c → (s2.cell ⟨k.isl, c⟩).pend = []
  runs : ∀ c, c < s2.cellCount k.isl → c ≠ k.c → (s2.cell ⟨k.isl, c⟩).run = (b.cell ⟨k.isl, c⟩).run
  str : b.stretched k.isl = s2.stretched k.isl

theorem State.cellCount_le (s : State) (i : Nat) : s.cellCount i ≤ 16 := by
  unfold State.cellCount; split <;> omega

theorem gid_ne {k : CellRef} {c : Nat} (h : c ≠ k.c) : gid ⟨k.isl, c⟩ ≠ gid k := by
  simp only [gid, ne_eq]; omega

/-- An island but for the ports that have been driven and the FIFOs that have delivered in its present cycle. -/
def Isl.still (x : Isl) : Isl := { x with drives := [], pops := [] }

/-- The island's count of schedule cycles moves on. -/
def State.count (s : State) (i : Nat) (n : Word) : State := s.updIsl i (Isl.next n)

/-- st is s2 with the cycle counted and k's writes landed; apart from cells, islands and registers it is u. -/
structure Settled (s2 u st : State) (k : CellRef) (n : Word) (c' : Cell) : Prop where
  canon : st.Canon
  self : st.cell k = c'
  other : ∀ j, gid j ≠ gid k → st.cell j = s2.cell j
  isls : st.isls = (s2.count k.isl n).isls
  regs : st.regs = s2.regs
  fuses : st.fuses = s2.fuses
  rest : st.outside u = u

theorem CellOnly.settled {s2 st : State} {k : CellRef} {n : Word} {c' : Cell} (h : CellOnly (s2.count k.isl n) st k c') :
    Settled s2 s2 st k n c' := by
  obtain ⟨h1, h2, h3, h4⟩ := h
  refine ⟨h1, h3, h4, ?_, ?_, ?_, ?_⟩
  · have e := congrArg State.isls h2; exact e
  · have e := congrArg State.regs h2; exact e
  · have e := congrArg State.fuses h2; exact e
  · have e := congrArg (fun x : State => x.outside s2) h2
    exact e

theorem State.outside_setFld (t u : State) (a hi lo v : Nat) : (t.setFld a hi lo v).outside u = t.outside u := rfl
theorem State.outside_updCell (t u : State) (k : CellRef) (f : Cell → Cell) : (t.updCell k f).outside u = t.outside u := rfl
theorem State.outside_outside (t u v : State) : (t.outside u).outside v = t.outside v := rfl
theorem State.outside_incFld (t u : State) (a hi lo n : Nat) : (t.incFld a hi lo n).outside u = t.outside u := rfl

theorem State.cellCount_congr {s t : State} (h : t.fuses = s.fuses) (i : Nat) : t.cellCount i = s.cellCount i := by
  unfold State.cellCount State.short State.grade1440; rw [h]

theorem State.islCells_congr {s t : State} (h : t.fuses = s.fuses) (i : Nat) : t.islCells i = s.islCells i := by
  unfold State.islCells; rw [State.cellCount_congr h]

theorem State.reason_nil (s : State) (i : Nat) : s.reason i [] = b2n (s.stretched i) * 8 := by
  unfold State.reason
  rw [foldl_fixed _ 0 _ (fun x _ => by simp)]
  omega

/-- Nothing is held by the damper: the cycle changes no damper register. -/
theorem State.passHeld_nil {s : State} {i : Nat} (n : Nat) (h : (s.isl i).dheld = []) : s.passHeld i n = s := by
  simp [State.passHeld, h]

/-- No cell of the island has faulted since b. -/
theorem State.raiseFaults_none {b s : State} {i : Nat}
    (h : ∀ c, c < s.cellCount i → (s.cell ⟨i, c⟩).run = .faulted → (b.cell ⟨i, c⟩).run = .faulted) : b.raiseFaults i s = s := by
  unfold State.raiseFaults
  split
  · rfl
  · have : (s.islCells i).find? (fun k => (s.cell k).run == .faulted && (b.cell k).run != .faulted) = none := by
      rw [List.find?_eq_none]
      intro x hx
      unfold State.islCells at hx
      obtain ⟨c, hc, rfl⟩ := List.mem_map.mp hx
      have := h c (List.mem_range.mp hc)
      simp only [Bool.and_eq_true, beq_iff_eq, bne_iff_ne, ne_eq, not_and, not_not]
      exact this
    rw [this]

/-- Wires and outputs of units at the end of a cycle in which there are none. -/
theorem State.closeLinks {s2 : State} {i : Nat}
    (h : ∀ c, c < s2.cellCount i → (s2.cell ⟨i, c⟩).wires = [] ∧ (s2.cell ⟨i, c⟩).steer = []) :
    (s2.islCells i).foldl (fun s k => s.closeWires k) s2 = s2 ∧ (s2.islCells i).foldl (fun s k => s.lateDrives k) s2 = s2 := by
  constructor
  · rw [State.islCells_foldl]
    refine foldl_fixed _ _ _ (fun c hc => ?_)
    simp [State.closeWires, (h c (List.mem_range.mp hc)).1]
  · rw [State.islCells_foldl]
    refine foldl_fixed _ _ _ (fun c hc => ?_)
    simp [State.lateDrives, (h c (List.mem_range.mp hc)).2]

theorem Ends.cycled {b s2 u st : State} {k : CellRef} {n : Word} {c' : Cell} (h : Ends b s2 k)
    (hst : (s2.count k.isl n).settle k = st) (hs : Settled s2 u st k n c') (hrun : c'.run = .running) :
    ∃ t, State.closeCycle b s2 k.isl n = t ∧ t.cell k = c' ∧ (∀ j, gid j ≠ gid k → t.cell j = s2.cell j) ∧
      t.isl k.isl = (s2.isl k.isl).next n ∧ (∀ i, i ≠ k.isl → t.isl i = s2.isl i) ∧
      (∀ a, t.reg a = if a = R.islCycle k.isl then s2.reg a + 1
        else if a = R.islSeq k.isl then seqRunning (s2.stretched k.isl) (s2.reg a) else s2.reg a) ∧
      t.outside u = u := by
  have hfus : ∀ n, (s2.count k.isl n).fuses = s2.fuses := fun _ => rfl
  obtain ⟨hcl, hlt⟩ := State.closeLinks h.wires
  have hse : (s2.islCells k.isl).foldl (fun s k => s.settle k) (s2.count k.isl n) = st := by
    rw [State.islCells_foldl, foldl_one _ _ _ k.c h.idx]
    · exact hst
    · intro j hj hne
      have : ((s2.count k.isl n).cell ⟨k.isl, j⟩).pend = [] := h.pend j hj hne
      simp [State.settle, this]
    · intro j hj hne
      show ((s2.count k.isl n).settle k).settle ⟨k.isl, j⟩ = (s2.count k.isl n).settle k
      rw [hst]
      have : (st.cell ⟨k.isl, j⟩).pend = [] := by
        rw [hs.other _ (gid_ne hne)]
        exact h.pend j hj hne
      simp [State.settle, this]
  have hreg : ∀ a, st.reg a = s2.reg a := fun a => by unfold State.reg; rw [hs.regs]
  have hisl : ∀ i, st.isl i = if i = k.isl then (s2.isl k.isl).next n else s2.isl i := by
    intro i
    have e : st.isl i = (s2.count k.isl n).isl i := by unfold State.isl; rw [hs.isls]
    rw [e]
    split
    · rename_i hi; subst hi; exact State.isl_setIsl h.canon _ _
    · rename_i hi; exact State.isl_setIsl_other h.canon _ hi
  have hrf : b.raiseFaults k.isl st = st := by
    refine State.raiseFaults_none (fun c hc hx => ?_)
    rw [State.cellCount_congr hs.fuses] at hc
    by_cases e : c = k.c
    · subst e
      rw [show (⟨k.isl, k.c⟩ : CellRef) = k from rfl, hs.self, hrun] at hx
      exact absurd hx (by decide)
    · rw [hs.other _ (gid_ne e), h.runs c hc e] at hx
      exact hx
  have hpass : st.passHeld k.isl 1 = st := State.passHeld_nil _ (by rw [hisl, if_pos rfl]; exact h.dheld)
  refine ⟨_, rfl, ?_⟩
  unfold State.closeCycle
  simp only [hcl, hlt]
  rw [show s2.updIsl k.isl (Isl.next n) = s2.count k.isl n from rfl, hse, hrf, hpass, State.reason_nil, h.str]
  -- the count of the cycle
  generalize hv : st.incFld (R.islCycle k.isl) 63 0 1 = v
  have cv : v.Canon := hv ▸ hs.canon.incFld _ _ _ _
  have vreg : ∀ a, v.reg a = if a = R.islCycle k.isl then s2.reg a + 1 else s2.reg a := by
    intro a
    rw [← hv, State.reg_incFull hs.canon, hreg, hreg]
    split
    · rename_i e; rw [e]; rfl
    · rfl
  have vcell : ∀ j, v.cell j = st.cell j := fun j => by rw [← hv]; rfl
  have visl : ∀ j, v.isl j = st.isl j := fun j => by rw [← hv]; rfl
  have hne := islCycle_ne_islSeq k.isl
  generalize hrs : b2n (s2.stretched k.isl) * 8 = rs
  have vlive : (v.setFld (R.islSeq k.isl) 6 3 rs).islFaulted k.isl = false := by
    rw [← h.live]
    refine State.islFaulted_congr h.isl h.tbl ?_ ?_ ?_
    · show (v.isl k.isl).table = _
      rw [visl, hisl, if_pos rfl]; rfl
    · rw [State.fld_setFld_other cv _ _ _ _ _ _ (by omega) (by omega) (by omega) (by omega)]
      exact State.fld_congr (by rw [vreg, if_neg hne.symm]) _ _
    · intro a ha ha'
      rw [State.reg_setFld_ne cv _ _ _ ha', vreg, if_neg ha]
  have vcount : v.cellCount k.isl = s2.cellCount k.isl := by
    have : v.fuses = s2.fuses := by rw [← hv]; exact hs.fuses
    exact State.cellCount_congr this _
  unfold State.islState
  simp only [vlive, Bool.false_eq_true, if_false]
  have hany : (v.islCells k.isl).any (fun j => (v.cell j).run == .running) = true := by
    rw [List.any_eq_true]
    refine ⟨k, ?_, ?_⟩
    · unfold State.islCells
      rw [List.mem_map]
      refine ⟨k.c, List.mem_range.mpr ?_, rfl⟩
      show k.c < v.cellCount k.isl
      rw [vcount]; exact h.idx
    · show (v.cell k).run == .running
      rw [vcell, hs.self, hrun]; rfl
  simp only [hany, if_true]
  refine ⟨?_, ?_, ?_, ?_, ?_, ?_⟩
  · show v.cell k = c'
    rw [vcell, hs.self]
  · intro j hj
    show v.cell j = _
    rw [vcell, hs.other j hj]
  · show v.isl k.isl = _
    rw [visl, hisl, if_pos rfl]
  · intro i hi
    show v.isl i = _
    rw [visl, hisl, if_neg hi]
  · intro a
    unfold State.setFld
    rw [State.reg_setReg (cv.setReg _ _), State.reg_setReg cv, State.reg_setReg cv, vreg]
    by_cases e : a = R.islSeq k.isl
    · subst e
      simp [hne.symm, seqRunning, hrs]
    · simp [e, vreg]
  · rw [State.outside_setFld, State.outside_setFld, ← hv, State.outside_incFld]
    exact hs.rest

/-! ### One word -/

theorem Cell.applyPW_wires (c : Cell) (w : PW) : (c.applyPW w).wires = c.wires := by
  cases w <;> simp only [Cell.applyPW] <;>
    simp only [Cell.ws, Cell.wp, Cell.wlc, Cell.orLanes, Cell.setPst, Cell.setPvis, Cell.setPot] <;> (repeat' split) <;> rfl

theorem Cell.applyPW_steer (c : Cell) (w : PW) : (c.applyPW w).steer = c.steer := by
  cases w <;> simp only [Cell.applyPW] <;>
    simp only [Cell.ws, Cell.wp, Cell.wlc, Cell.orLanes, Cell.setPst, Cell.setPvis, Cell.setPot] <;> (repeat' split) <;> rfl

theorem Cell.applyPW_pend (c : Cell) (w : PW) : (c.applyPW w).pend = c.pend := by
  cases w <;> simp only [Cell.applyPW] <;>
    simp only [Cell.ws, Cell.wp, Cell.wlc, Cell.orLanes, Cell.setPst, Cell.setPvis, Cell.setPot] <;> (repeat' split) <;> rfl

theorem Cell.foldNow (l : List PW) (c : Cell) : (l.foldl Cell.applyPW c).wires = c.wires ∧ (l.foldl Cell.applyPW c).pend = c.pend ∧
    (l.foldl Cell.applyPW c).run = c.run ∧ (l.foldl Cell.applyPW c).steer = c.steer := by
  induction l generalizing c with
  | nil => exact ⟨rfl, rfl, rfl, rfl⟩
  | cons x t ih =>
    obtain ⟨a, b, d, e⟩ := ih (c.applyPW x)
    rw [List.foldl_cons, a, b, d, e, Cell.applyPW_wires, Cell.applyPW_pend, Cell.applyPW_run, Cell.applyPW_steer]
    exact ⟨rfl, rfl, rfl, rfl⟩

/-- The cell when its word has issued in schedule cycle `now`. -/
def Cell.issued (c : Cell) (o : WordOut) (now : Nat) : Cell :=
  let c1 := o.now.foldl Cell.applyPW c
  { c1 with
    pend := c1.pend ++ o.writes.map (fun w => ⟨now + w.1, w.2⟩), last := c.pc, pc := o.pc, bubble := o.bubble,
    loops := o.loops, stack := o.stack, held := none }

/-- q is p after the actions of the word that cell k issues: apart from cells, islands and registers it is u. -/
structure Acted (p u q : State) (k : CellRef) (c : Cell) : Prop where
  canon : q.Canon
  self : q.cell k = c
  other : ∀ j, gid j ≠ gid k → q.cell j = p.cell j
  isl : ∀ i, i ≠ k.isl → q.isl i = p.isl i
  still : (q.isl k.isl).still = (p.isl k.isl).still
  regs : q.regs = p.regs
  fuses : q.fuses = p.fuses
  rest : q.outside u = u

theorem CellOnly.acted {p q : State} {k : CellRef} {c : Cell} (h : CellOnly p q k c) : Acted p p q k c := by
  obtain ⟨h1, h2, h3, h4⟩ := h
  have ei : q.isls = p.isls := by have e := congrArg State.isls h2; exact e
  have hi : ∀ i, q.isl i = p.isl i := fun i => by unfold State.isl; rw [ei]
  refine ⟨h1, h3, h4, fun i _ => hi i, by rw [hi], ?_, ?_, ?_⟩
  · have e := congrArg State.regs h2; exact e
  · have e := congrArg State.fuses h2; exact e
  · have e := congrArg (fun x : State => x.outside p) h2; exact e

/-- The cell while it presents a word. -/
def Cell.holding (c : Cell) (w : HWord) : Cell := { c with held := some w }

theorem State.calm.holding {s : State} {k : CellRef} (h : s.calm k.isl) (hc : s.Canon) (w : HWord) :
    (s.updCell k (fun c => c.holding w)).calm k.isl := by
  refine ⟨h.1, fun c hl => ?_⟩
  have hx := h.2 c hl
  by_cases e : c = k.c
  · subst e
    rw [show (⟨k.isl, k.c⟩ : CellRef) = k from rfl, State.cell_updCell hc]
    exact hx
  · rw [State.cell_updCell_other hc _ (gid_ne e)]
    exact hx

theorem Quiet.presents {s : State} {k : CellRef} (h : Quiet s k) (w : HWord) :
    Presents (s.updCell k (fun c => c.holding w)) k w := by
  obtain ⟨⟨hc, h1, h2, h3, ht, h4, h5, h6, h7, h8, h13, h12⟩, h9, h10, h11⟩ := h
  have e := State.cell_updCell hc k (fun c => c.holding w)
  refine ⟨hc.updCell _ _, h1, h2, h3, ht, ?_, ?_, ?_, ?_, ?_, h13.holding hc w, ?_⟩
  · rw [e]; exact h4
  · rw [e]; rfl
  · rw [e]; exact h6
  · rw [e]; exact h8
  · rw [e]; exact h9
  · intro c hl hne
    rw [State.cell_updCell_other hc _ (gid_ne hne)]
    exact h12 c hl hne

theorem Quiet.drive_eq {s : State} {k : CellRef} (h : Quiet s k) (w : HWord) : drive k w s = (s.present k w).cycle k.isl := by
  obtain ⟨⟨hc, h1, h2, h3, ht, h4, h5, h6, h7, h8, h13, h12⟩, h9, h10, h11⟩ := h
  have hd : s.drivable k = true := by
    simp [State.drivable, State.cellExists, h1, h2, h3, h4]
  have hr : (s.cell k).ready = true := by simp [Cell.ready, h5, h6]
  unfold drive
  simp [hd, hr, h5]

/-- s2 is s after the issue of a word by cell k, which is now c, in the cycle that began in b; apart from cells, islands and
registers s2 is u. -/
structure IssuedAs (s u b s2 : State) (k : CellRef) (c : Cell) : Prop where
  ends : Ends b s2 k
  cell : s2.cell k = c
  other : ∀ j, gid j ≠ gid k → s2.cell j = s.cell j
  isl : ∀ i, i ≠ k.isl → s2.isl i = s.isl i
  still : (s2.isl k.isl).still = (s.isl k.isl).still
  reg : ∀ a, s2.reg a = s.reg a
  rest : s2.outside u = u

theorem State.liveX_holding {s : State} {k : CellRef} (hc : s.Canon) (w : HWord) :
    (s.updCell k (fun c => c.holding w)).liveX k w = s.liveX k w := by
  unfold State.liveX
  rw [State.cell_updCell hc]; rfl

/-- Driving one word at a cell that runs alone, up to the issue. `p` is the state in which the cell holds the word, `q`
the one after the actions of the word, `u` what they leave outside cells, islands and registers. -/
theorem Quiet.drive_issue {s u q : State} {k : CellRef} {w : HWord} {o : WordOut} {c : Cell} (h : Quiet s k)
    (hpres : s.present k w = s.updCell k (fun c => c.holding w))
    (hx : s.liveX k w = true → blockX (s.updCell k (fun c => c.holding w)) k w.x = [])
    (ho : evalWord (s.updCell k (fun c => c.holding w)) k w = o) (hf : o.fault = none) (hpl : o.pulls = []) (hst : o.stop = false)
    (hq : o.acts.foldl (fun s a => s.act k [] a) (s.updCell k (fun c => c.holding w)) = q)
    (ha : Acted (s.updCell k (fun c => c.holding w)) u q k c)
    (hrun : c.run = .running) (hwires : c.wires = []) (hsteer : c.steer = []) :
    ∃ b s2, drive k w s = State.closeCycle b s2 k.isl s.gtime ∧ IssuedAs s u b s2 k (c.issued o (s.isl k.isl).sched) := by
  have hc := h.1.1
  have hP := h.presents w
  have hpc : (s.updCell k (fun c => c.holding w)).pullsAt k ((s.updCell k (fun c => c.holding w)).cell k).pc = [] := by
    rw [State.cell_updCell hc]
    exact h.2.2.1
  have hlive : (s.updCell k (fun c => c.holding w)).liveX k w = s.liveX k w := State.liveX_holding hc w
  rw [h.drive_eq, hpres, hP.cycle hpc (fun hg => hx (hlive ▸ hg)) (by rw [ho]; exact hf), ho]
  have hcalm := h.1.2.2.2.2.2.2.2.2.2.2.1
  generalize hp : s.updCell k (fun c => c.holding w) = p at *
  have cp : p.Canon := hP.canon
  have sched : (p.isl k.isl).sched = (s.isl k.isl).sched := by rw [← hp]; rfl
  -- the state after the issue
  have hissue : p.issueWord k o = q.updCell k (fun c => c.issued o (s.isl k.isl).sched) := by
    unfold State.issueWord
    simp only [hpl, hst, List.foldl_nil, hq, Bool.false_eq_true, if_false, sched]
    rfl
  have ecell : (p.issueWord k o).cell k = c.issued o (s.isl k.isl).sched := by
    rw [hissue, State.cell_updCell ha.canon, ha.self]
  have eoth : ∀ j, gid j ≠ gid k → (p.issueWord k o).cell j = s.cell j := by
    intro j hj
    rw [hissue, State.cell_updCell_other ha.canon _ hj, ha.other j hj, ← hp, State.cell_updCell_other hc _ hj]
  have eisl : ∀ i, i ≠ k.isl → (p.issueWord k o).isl i = s.isl i := by
    intro i hi
    have : (p.issueWord k o).isl i = q.isl i := by rw [hissue]; rfl
    rw [this, ha.isl i hi, ← hp]; rfl
  have eislk : ((p.issueWord k o).isl k.isl).still = (s.isl k.isl).still := by
    have : (p.issueWord k o).isl k.isl = q.isl k.isl := by rw [hissue]; rfl
    rw [this, ha.still, ← hp]; rfl
  have ereg : ∀ a, (p.issueWord k o).reg a = s.reg a := by
    intro a
    have : (p.issueWord k o).regs = q.regs := by rw [hissue]; rfl
    unfold State.reg
    rw [this, ha.regs, ← hp]; rfl
  have efus : (p.issueWord k o).fuses = s.fuses := by
    have : (p.issueWord k o).fuses = q.fuses := by rw [hissue]; rfl
    rw [this, ha.fuses, ← hp]; rfl
  have ecount : (p.issueWord k o).cellCount k.isl = s.cellCount k.isl := State.cellCount_congr efus _
  have etab : ((p.issueWord k o).isl k.isl).table = (s.isl k.isl).table := by
    have e := congrArg Isl.table eislk; exact e
  obtain ⟨⟨_, h1, h2, h3, ht, h4, h5, h6, h7, h8, h13, h12⟩, h9, h10, h11⟩ := h
  obtain ⟨n1, n2, n3, n4⟩ := Cell.foldNow o.now c
  have erow : ∀ j, j < (p.issueWord k o).cellCount k.isl → j < s.cellCount k.isl := fun j hj => by rw [ecount] at hj; exact hj
  have hE : Ends p (p.issueWord k o) k := by
    refine ⟨?_, h1, by rw [ecount]; exact h2, ?_, by rw [etab]; exact ht, ?_, ?_, ?_, ?_, ?_, ?_⟩
    · rw [hissue]; exact ha.canon.updCell _ _
    · rw [State.islFaulted_congr (s := s) h1 ht etab (State.fld_congr (ereg _) _ _) (fun a _ _ => ereg a)]; exact h3
    · rw [ecell]; exact n3.trans hrun
    · have e := congrArg Isl.dheld eislk
      exact Eq.trans e hcalm.1
    · intro j hj
      by_cases e : j = k.c
      · subst e
        rw [ecell]; exact ⟨n1.trans hwires, n4.trans hsteer⟩
      · rw [eoth _ (gid_ne e)]
        exact ⟨(h12 j (erow j hj) e).2.2.2, (hcalm.2 j (erow j hj)).1⟩
    · intro j hj e
      rw [eoth _ (gid_ne e)]
      exact (h12 j (erow j hj) e).2.2.1
    · intro j hj e
      rw [eoth _ (gid_ne e), ← hp, State.cell_updCell_other hc _ (gid_ne e)]
    · have e := congrArg Isl.droop eislk
      unfold State.stretched State.fld
      rw [ereg, show ((p.issueWord k o).isl k.isl).droop = (s.isl k.isl).droop from e, ← hp]
      rfl
  refine ⟨p, p.issueWord k o, by rw [← hp]; rfl, hE, ecell, eoth, eisl, eislk, ereg, ?_⟩
  rw [hissue, State.outside_updCell]
  exact ha.rest

/-- The cycle in which an issued word's writes land. -/
theorem IssuedAs.cycled {s u u' b s2 st : State} {k : CellRef} {c c' : Cell} (h : IssuedAs s u b s2 k c)
    (hst : (s2.count k.isl s.gtime).settle k = st) (hs : Settled s2 u' st k s.gtime c') (hrun : c'.run = .running) :
    Cycled s u' (State.closeCycle b s2 k.isl s.gtime) k c' := by
  obtain ⟨t, rfl, c1, c2, c3, c4, c5, c6⟩ := h.ends.cycled hst hs hrun
  refine ⟨c1, fun j hj => (c2 j hj).trans (h.other j hj), ?_, fun i hi => (c4 i hi).trans (h.isl i hi), ?_, c6⟩
  · rw [c3]
    have e := congrArg (Isl.next s.gtime) h.still
    exact e
  · intro a
    have e : s2.stretched k.isl = s.stretched k.isl := by
      have e := congrArg Isl.droop h.still
      unfold State.stretched State.fld
      rw [h.reg, show (s2.isl k.isl).droop = (s.isl k.isl).droop from e]
    rw [c5, h.reg, e]

theorem IssuedAs.sched {s u b s2 : State} {k : CellRef} {c : Cell} (h : IssuedAs s u b s2 k c) (n : Word) :
    ((s2.count k.isl n).isl k.isl).sched = (s.isl k.isl).sched + 1 := by
  show ((s2.setIsl k.isl _).isl k.isl).sched = _
  rw [State.isl_setIsl h.ends.canon]
  have e := congrArg Isl.sched h.still
  show (s2.isl k.isl).sched + 1 = _
  rw [show (s2.isl k.isl).sched = (s.isl k.isl).sched from e]

theorem State.cell_count (s : State) (i : Nat) (n : Word) (k : CellRef) : (s.count i n).cell k = s.cell k := rfl
theorem State.count_canon {s : State} (h : s.Canon) (i : Nat) (n : Word) : (s.count i n).Canon := h.updIsl i _

/-- Driving one word at a cell that runs alone, when its writes go to the cell's own state. -/
theorem Quiet.drive_word {s u q : State} {k : CellRef} {w : HWord} {o : WordOut} {c : Cell} (h : Quiet s k)
    (hpres : s.present k w = s.updCell k (fun c => c.holding w))
    (hx : s.liveX k w = true → blockX (s.updCell k (fun c => c.holding w)) k w.x = [])
    (ho : evalWord (s.updCell k (fun c => c.holding w)) k w = o) (hf : o.fault = none) (hpl : o.pulls = []) (hst : o.stop = false)
    (hq : o.acts.foldl (fun s a => s.act k [] a) (s.updCell k (fun c => c.holding w)) = q)
    (ha : Acted (s.updCell k (fun c => c.holding w)) u q k c)
    (hrun : c.run = .running) (hwires : c.wires = []) (hsteer : c.steer = []) (hpend : c.pend = [])
    (hown : ∀ x ∈ o.writes, x.2.isOwn = true) :
    Cycled s u (drive k w s) k ((c.issued o (s.isl k.isl).sched).landed ((s.isl k.isl).sched + 1)) := by
  obtain ⟨b, s2, he, hi⟩ := h.drive_issue hpres hx ho hf hpl hst hq ha hrun hwires hsteer
  obtain ⟨n1, n2, n3, n4⟩ := Cell.foldNow o.now c
  rw [he]
  have hset := State.settle_own (State.count_canon hi.ends.canon k.isl s.gtime) k (by
    intro x hx
    rw [State.cell_count, hi.cell] at hx
    have hx' : x ∈ c.pend ++ o.writes.map (fun w => (⟨(s.isl k.isl).sched + w.1, w.2⟩ : Pend)) := by
      have e : (c.issued o (s.isl k.isl).sched).pend = c.pend ++ o.writes.map (fun w => (⟨(s.isl k.isl).sched + w.1, w.2⟩ : Pend)) := by
        show (o.now.foldl Cell.applyPW c).pend ++ _ = _
        rw [n2]
      rw [e] at hx; exact hx
    rw [hpend, List.nil_append] at hx'
    obtain ⟨y, hy, rfl⟩ := List.mem_map.mp hx'
    exact hown y hy)
  rw [hi.sched, State.cell_count, hi.cell] at hset
  have hS := hset.settled (k := k) (s2 := s2)
  have hU : Settled s2 u ((s2.count k.isl s.gtime).settle k) k s.gtime
      ((c.issued o (s.isl k.isl).sched).landed ((s.isl k.isl).sched + 1)) := by
    refine ⟨hS.canon, hS.self, hS.other, hS.isls, hS.regs, hS.fuses, ?_⟩
    have e1 := congrArg (fun x : State => x.outside u) hS.rest
    simp only [State.outside_outside] at e1
    rw [e1]
    exact hi.rest
  exact hi.cycled rfl hU (by rw [Cell.landed_run]; exact n3.trans hrun)

end Sys2Proof.Machine
end

