-- ==== Sys2Proof/Laws/Word.lean ====
section
/-! SUPPORT. What a word of one operation evaluates to when its cell runs alone: the writes, actions and control flow of
that operation, and nothing else. -/

namespace Sys2Proof.Machine

open Sys2Proof

@[simp] theorem clashes_nil_left (now : Nat) (ws : List (Nat × PW)) : clashes now [] ws = false := by
  unfold clashes
  rw [List.any_eq_false]
  intro x _
  cases x.2.clashKey <;> simp

@[simp] theorem clashes_nil_right (now : Nat) (e : List Pend) : clashes now e [] = false := rfl
@[simp] theorem sramClash_nil_left (ws : List (Nat × PW)) : sramClash [] ws = false := rfl
@[simp] theorem sramClash_nil_right (ws : List (Nat × PW)) : sramClash ws [] = false := by
  unfold sramClash
  rw [List.any_eq_false]
  intro x _
  cases x.2 <;> simp

/-- No loop ends on the word: loop-back leaves the loops alone. -/
theorem loopBack_none (c : Cell) (skip : Option Nat) (pc : Nat) (l : List Loop) (h : ∀ x ∈ l, x.last ≠ pc) :
    loopBack c skip pc l = (none, [], l) := by
  induction l with
  | nil => rfl
  | cons x t ih =>
    rw [loopBack, if_neg (h x (by simp)), ih (fun y hy => h y (by simp [hy]))]

@[simp] theorem SlotOut.empty_fault : ({} : SlotOut).fault = none := rfl
@[simp] theorem Cell.guard_zero (c : Cell) : c.guard 0 = true := by simp [Cell.guard, Cell.rp]

/-- The writes of an operation as its word gives them: those that clear pot rows first, those of the present cycle
apart. -/
def WordOut.ofSlot (o : SlotOut) (base : WordOut) : WordOut :=
  { base with
    writes := o.writes.filter (fun x => match x.2 with | .potZero _ _ => true | _ => false) ++
      (o.writes.filter (fun x => match x.2 with | .potZero _ _ => false | _ => true)).filter (fun x => x.1 != 0),
    now := ((o.writes.filter (fun x => match x.2 with | .potZero _ _ => false | _ => true)).filter (fun x => x.1 == 0)).map Prod.snd,
    acts := o.acts, pulls := [] }

/-- Where a word goes on: in sequence, or as its control operation says. -/
def Cell.nextOf (c : Cell) (ctl : Ctl) : WordOut :=
  match ctl with
  | .branch t => { pc := t, bubble := true, loops := loopsAfterBranch c.loops t, stack := c.stack }
  | .call t => { pc := t, bubble := true, loops := c.loops, stack := (c.pc + 1) :: c.stack }
  | .ret t => { pc := t, bubble := true, loops := c.loops, stack := c.stack.drop 1 }
  | .loop l => { pc := c.pc + 1, loops := l :: c.loops, stack := c.stack }
  | .stop => { pc := c.pc + 1, loops := c.loops, stack := c.stack, stop := true }
  | .seq => { pc := c.pc + 1, loops := c.loops, stack := c.stack }

theorem seqNext_plain (c : Cell) (ctl : Ctl) (skip : Option Nat) (h : ∀ x ∈ c.loops, x.last ≠ c.pc) :
    seqNext c ctl skip = (c.nextOf ctl, []) := by
  cases ctl <;> simp [seqNext, Cell.nextOf, loopBack_none _ _ _ _ h]

section
variable {p : State} {k : CellRef} {c : Cell} (hc : p.cell k = c) (hpend : c.pend = []) (hl : ∀ x ∈ c.loops, x.last ≠ c.pc)
  (hp : p.pullsAt k c.pc = []) {g : BitVec 4} (hg : c.guard g = true)

include hc hpend hl hp hg

theorem evalWord_s {op : SOp} {out : SlotOut} (hd : op.decodeFault = none) (he : evalS p k op = out) (hf : out.fault = none) :
    evalWord p k { sg := g, s := op } = WordOut.ofSlot out (c.nextOf out.ctl) := by
  have hdec : HWord.decodeFault (isMemCell k) { sg := g, s := op } = none := by
    simp [HWord.decodeFault, hd, MOp.decodeFault, VOp.decodeFault, XOp.decodeFault]
  unfold evalWord
  simp only [hdec]
  simp [evalSlots, hc, hg, he, hf, hp, hpend, evalM, evalV, evalX, seqNext_plain _ _ _ hl, firstFault, State.pullFault,
    WordOut.ofSlot]
  all_goals exact ⟨rfl, rfl⟩

theorem evalWord_m {op : MOp} {out : SlotOut} (hd : op.decodeFault (isMemCell k) = none) (he : evalM p k op = out)
    (hf : out.fault = none) : evalWord p k { mg := g, m := op } = WordOut.ofSlot out (c.nextOf .seq) := by
  have hdec : HWord.decodeFault (isMemCell k) { mg := g, m := op } = none := by
    simp [HWord.decodeFault, hd, SOp.decodeFault, VOp.decodeFault, XOp.decodeFault]
  unfold evalWord
  simp only [hdec]
  simp [evalSlots, hc, hg, he, hf, hp, hpend, evalS, evalV, evalX, seqNext_plain _ _ _ hl, firstFault, State.pullFault,
    WordOut.ofSlot]
  all_goals exact ⟨rfl, rfl⟩

theorem evalWord_v {op : VOp} {out : SlotOut} (hd : op.decodeFault (isMemCell k) = none) (he : evalV p k op = out)
    (hf : out.fault = none) : evalWord p k { vg := g, v := op } = WordOut.ofSlot out (c.nextOf .seq) := by
  have hdec : HWord.decodeFault (isMemCell k) { vg := g, v := op } = none := by
    simp [HWord.decodeFault, hd, SOp.decodeFault, MOp.decodeFault, XOp.decodeFault]
  unfold evalWord
  simp only [hdec]
  simp [evalSlots, hc, hg, he, hf, hp, hpend, evalS, evalM, evalX, seqNext_plain _ _ _ hl, firstFault, State.pullFault,
    WordOut.ofSlot]
  all_goals exact ⟨rfl, rfl⟩

theorem evalWord_x {op : XOp} {out : SlotOut} (hd : op.decodeFault (isMemCell k) = none) (he : evalX p k op = out)
    (hf : out.fault = none) : evalWord p k { xg := g, x := op } = WordOut.ofSlot out (c.nextOf .seq) := by
  have hdec : HWord.decodeFault (isMemCell k) { xg := g, x := op } = none := by
    simp [HWord.decodeFault, hd, SOp.decodeFault, MOp.decodeFault, VOp.decodeFault]
  unfold evalWord
  simp only [hdec]
  simp [evalSlots, hc, hg, he, hf, hp, hpend, evalS, evalM, evalV, seqNext_plain _ _ _ hl, firstFault, State.pullFault,
    WordOut.ofSlot]
  all_goals exact ⟨rfl, rfl⟩

end

/-! ### One operation -/

theorem SlotOut.isOwn_iff (l : List (Nat × PW)) : (∀ x ∈ l, x.2.isOwn = true) ↔ l.all (fun x => x.2.isOwn) = true := by
  simp

/-- What a cell becomes through a word of one operation with no action. -/
def Cell.after (c : Cell) (o : SlotOut) (sched : Nat) : Cell :=
  (c.issued (WordOut.ofSlot o (c.nextOf o.ctl)) sched).landed (sched + 1)

theorem mem_ofSlot_writes (o : SlotOut) (b : WordOut) (x : Nat × PW) (h : x ∈ (WordOut.ofSlot o b).writes) : x ∈ o.writes := by
  simp only [WordOut.ofSlot, List.mem_append, List.mem_filter] at h
  rcases h with ⟨a, _⟩ | ⟨⟨a, _⟩, _⟩ <;> exact a

theorem nextOf_fault (c : Cell) (ctl : Ctl) : (c.nextOf ctl).fault = none := by cases ctl <;> rfl
theorem nextOf_stop (c : Cell) (ctl : Ctl) (h : ctl ≠ .stop) : (c.nextOf ctl).stop = false := by cases ctl <;> first | rfl | exact absurd rfl h

theorem Quiet.cell_holding {s : State} {k : CellRef} (h : Quiet s k) (w : HWord) :
    (s.updCell k (fun c => c.holding w)).cell k = (s.cell k).holding w := State.cell_updCell h.1.1 _ _

/-- A word of one operation without actions issues: the cell is what its writes and its control flow make it. -/
theorem Quiet.plain {s : State} {k : CellRef} (h : Quiet s k) {w : HWord} {out : SlotOut}
    (hpres : s.present k w = s.updCell k (fun c => c.holding w))
    (hx : s.liveX k w = true → blockX (s.updCell k (fun c => c.holding w)) k w.x = [])
    (he : evalWord (s.updCell k (fun c => c.holding w)) k w = WordOut.ofSlot out (((s.cell k).holding w).nextOf out.ctl))
    (hact : out.acts = []) (hstop : out.ctl ≠ .stop) (hown : ∀ x ∈ out.writes, x.2.isOwn = true) :
    Issues s k (.next (drive k w s)) (((s.cell k).holding w).after out (s.isl k.isl).sched) := by
  obtain ⟨⟨hc, h1, h2, h3, ht, h4, h5, h6, h7, h8, h13, h12⟩, h9, h10, h11⟩ := h
  have h : Quiet s k := ⟨⟨hc, h1, h2, h3, ht, h4, h5, h6, h7, h8, h13, h12⟩, h9, h10, h11⟩
  refine ⟨_, rfl, ?_⟩
  refine h.drive_word (q := s.updCell k (fun c => c.holding w)) (u := s) (c := (s.cell k).holding w) hpres hx he (nextOf_fault _ _) rfl
    (nextOf_stop _ _ hstop) ?_ ?_ h4 h8 (h13.2 k.c h2).1 h7 (fun x hx => hown x (mem_ofSlot_writes _ _ x hx))
  · simp [WordOut.ofSlot, hact]
  · have := (CellOnly.updCell (CellOnly.refl hc k) (fun c => c.holding w)).acted
    obtain ⟨a1, a2, a3, a4, a5, a6, a7, a8⟩ := this
    refine ⟨hc.updCell _ _, h.cell_holding w, fun j hj => rfl, fun i _ => rfl, rfl, rfl, rfl, ?_⟩
    rw [State.outside_updCell]
    rfl

theorem present_s {s : State} {k : CellRef} (g : BitVec 4) (op : SOp) :
    s.present k { sg := g, s := op } = s.updCell k (fun c => c.holding { sg := g, s := op }) := by
  unfold State.present
  simp only [State.presentX, Cell.holding]
  split <;> rfl
theorem present_m {s : State} {k : CellRef} (g : BitVec 4) (op : MOp) :
    s.present k { mg := g, m := op } = s.updCell k (fun c => c.holding { mg := g, m := op }) := by
  unfold State.present
  simp only [State.presentX, Cell.holding]
  split <;> rfl
theorem present_v {s : State} {k : CellRef} (g : BitVec 4) (op : VOp) :
    s.present k { vg := g, v := op } = s.updCell k (fun c => c.holding { vg := g, v := op }) := by
  unfold State.present
  simp only [State.presentX, Cell.holding]
  split <;> rfl

theorem Quiet.s_slot {s : State} {k : CellRef} {g : BitVec 4} (h : Quiet s k) (hg : (s.cell k).guard g = true) {op : SOp} {out : SlotOut}
    (hd : op.decodeFault = none) (he : evalS (s.updCell k (fun c => c.holding { sg := g, s := op })) k op = out) (hf : out.fault = none)
    (hact : out.acts = []) (hstop : out.ctl ≠ .stop) (hown : ∀ x ∈ out.writes, x.2.isOwn = true) :
    Issues s k (.next (drive k { sg := g, s := op } s)) (((s.cell k).holding { sg := g, s := op }).after out (s.isl k.isl).sched) := by
  obtain ⟨⟨hc, h1, h2, h3, ht, h4, h5, h6, h7, h8, h13, h12⟩, h9, h10, h11⟩ := id h
  exact h.plain (present_s g op) (fun _ => rfl) (evalWord_s (h.cell_holding _) h7 h11 h10 hg hd he hf) hact hstop hown

theorem Quiet.m_slot {s : State} {k : CellRef} {g : BitVec 4} (h : Quiet s k) (hg : (s.cell k).guard g = true) {op : MOp} {out : SlotOut}
    (hd : op.decodeFault (isMemCell k) = none) (he : evalM (s.updCell k (fun c => c.holding { mg := g, m := op })) k op = out)
    (hf : out.fault = none) (hctl : out.ctl = .seq)
    (hact : out.acts = []) (hown : ∀ x ∈ out.writes, x.2.isOwn = true) :
    Issues s k (.next (drive k { mg := g, m := op } s)) (((s.cell k).holding { mg := g, m := op }).after out (s.isl k.isl).sched) := by
  obtain ⟨⟨hc, h1, h2, h3, ht, h4, h5, h6, h7, h8, h13, h12⟩, h9, h10, h11⟩ := id h
  exact h.plain (present_m g op) (fun _ => rfl) (hctl ▸ evalWord_m (h.cell_holding _) h7 h11 h10 hg hd he hf) hact (by rw [hctl]; simp) hown

theorem Quiet.v_slot {s : State} {k : CellRef} {g : BitVec 4} (h : Quiet s k) (hg : (s.cell k).guard g = true) {op : VOp} {out : SlotOut}
    (hd : op.decodeFault (isMemCell k) = none) (he : evalV (s.updCell k (fun c => c.holding { vg := g, v := op })) k op = out)
    (hf : out.fault = none) (hctl : out.ctl = .seq)
    (hact : out.acts = []) (hown : ∀ x ∈ out.writes, x.2.isOwn = true) :
    Issues s k (.next (drive k { vg := g, v := op } s)) (((s.cell k).holding { vg := g, v := op }).after out (s.isl k.isl).sched) := by
  obtain ⟨⟨hc, h1, h2, h3, ht, h4, h5, h6, h7, h8, h13, h12⟩, h9, h10, h11⟩ := id h
  exact h.plain (present_v g op) (fun _ => rfl) (hctl ▸ evalWord_v (h.cell_holding _) h7 h11 h10 hg hd he hf) hact (by rw [hctl]; simp) hown

/-- One write of latency 1 has landed when the cycle ends. -/
theorem Cell.after_one {c : Cell} (h5 : c.held = none) (h6 : c.bubble = false) (h7 : c.pend = []) (w : HWord) (pw : PW)
    (sched : Nat) : (c.holding w).after (SlotOut.one 1 pw) sched = c.stepped.applyPW pw := by
  have e : (c.holding w).after (SlotOut.one 1 pw) sched
      = ({ c.stepped with held := none, bubble := false, pend := [] } : Cell).applyPW pw := by
    unfold Cell.after Cell.landed
    cases pw <;>
      simp [WordOut.ofSlot, SlotOut.one, Cell.issued, Cell.nextOf, Cell.holding, PW.isClear, h7, Cell.stepped, List.filter_cons]
  rw [e]
  have : ({ c.stepped with held := none, bubble := false, pend := [] } : Cell) = c.stepped := by
    rw [← h5, ← h6, ← h7]; rfl
  rw [this]

/-- One write of a longer latency is in flight. -/
theorem Cell.after_later {c : Cell} (h5 : c.held = none) (h6 : c.bubble = false) (h7 : c.pend = []) (w : HWord) (pw : PW)
    (n sched : Nat) :
    (c.holding w).after (SlotOut.one (n + 2) pw) sched = c.stepped.inFlight (sched + (n + 2)) pw := by
  have e : (c.holding w).after (SlotOut.one (n + 2) pw) sched
      = ({ c.stepped with held := none, bubble := false, pend := [⟨sched + (n + 2), pw⟩] } : Cell) := by
    unfold Cell.after Cell.landed
    cases pw <;>
      simp [WordOut.ofSlot, SlotOut.one, Cell.issued, Cell.nextOf, Cell.holding, h7, Cell.stepped]
  rw [e]
  have : c.stepped.inFlight (sched + (n + 2)) pw
      = ({ c.stepped with held := c.held, bubble := c.bubble, pend := c.pend ++ [⟨sched + (n + 2), pw⟩] } : Cell) := rfl
  rw [this, h5, h6, h7]
  rfl

end Sys2Proof.Machine
end

