-- ==== Sys2Proof/Laws/Slot.lean ====
section
/-! SUPPORT. Words of the X slot, words that stall and words that fault, at a cell that runs alone. -/

namespace Sys2Proof.Machine

open Sys2Proof

/-! ### The X slot -/

/-- Operations that send nothing when they are presented. -/
def XOp.silent : XOp → Bool
  | .sync _ _ _ _ _ => false
  | .chsend _ _ _ => false
  | _ => true

theorem present_x {s : State} {k : CellRef} (g : BitVec 4) (op : XOp) (h : op.silent = true) :
    s.present k { xg := g, x := op } = s.updCell k (fun c => c.holding { xg := g, x := op }) := by
  have hx : ∀ s' : State, s'.presentX k op = s' := fun s' => by
    cases op <;> first | rfl | simp [XOp.silent] at h
  unfold State.present
  simp only [hx, ite_self]
  rfl

/-- An operation of the X slot at a cell that runs alone: it issues, with its actions. -/
theorem Quiet.x_slot {s u q : State} {k : CellRef} {g : BitVec 4} {c : Cell} (h : Quiet s k) (hg : (s.cell k).guard g = true)
    {op : XOp} {out : SlotOut}
    (hs : op.silent = true) (hd : op.decodeFault (isMemCell k) = none)
    (hb : blockX (s.updCell k (fun c => c.holding { xg := g, x := op })) k op = [])
    (he : evalX (s.updCell k (fun c => c.holding { xg := g, x := op })) k op = out) (hf : out.fault = none)
    (hown : ∀ x ∈ out.writes, x.2.isOwn = true)
    (hq : out.acts.foldl (fun s a => s.act k [] a) (s.updCell k (fun c => c.holding { xg := g, x := op })) = q)
    (ha : Acted (s.updCell k (fun c => c.holding { xg := g, x := op })) u q k c)
    (hrun : c.run = .running) (hwires : c.wires = []) (hsteer : c.steer = []) (hpend : c.pend = []) :
    IssuesWith s u k (.next (drive k { xg := g, x := op } s))
      ((c.issued (WordOut.ofSlot out ((s.cell k).nextOf .seq)) (s.isl k.isl).sched).landed ((s.isl k.isl).sched + 1)) := by
  obtain ⟨⟨hc, h1, h2, h3, ht, h4, h5, h6, h7, h8, h13, h12⟩, h9, h10, h11⟩ := id h
  refine ⟨_, rfl, ?_⟩
  exact h.drive_word (present_x g op hs) (fun _ => hb) (evalWord_x (h.cell_holding _) h7 h11 h10 hg hd he hf) rfl rfl rfl hq ha
    hrun hwires hsteer hpend (fun x hx => hown x (mem_ofSlot_writes _ _ x hx))

/-! ### Stalls -/

theorem flatMap_one {α β : Type} [DecidableEq α] (f : α → List β) (l : List α) (a : α) (hn : l.Nodup) (ha : a ∈ l)
    (h : ∀ x ∈ l, x ≠ a → f x = []) : l.flatMap f = f a := by
  induction l with
  | nil => simp at ha
  | cons y t ih =>
    rw [List.nodup_cons] at hn
    rw [List.flatMap_cons]
    by_cases e : y = a
    · subst e
      have : t.flatMap f = [] := by
        rw [List.flatMap_eq_nil_iff]
        intro x hx
        exact h x (by simp [hx]) (fun e => hn.1 (e ▸ hx))
      rw [this, List.append_nil]
    · rw [h y (by simp) e, List.nil_append]
      exact ih hn.2 (by simpa [Ne.symm e] using ha) (fun x hx hne => h x (by simp [hx]) hne)

theorem Presents.blocked {p : State} {k : CellRef} {w : HWord} (h : Presents p k w) {b : Nat}
    (hp : p.pullsAt k (p.cell k).pc = []) (hg : p.liveX k w = true)
    (hx : blockX p k w.x = [b]) : p.blockClasses k.isl = [b] := by
  unfold State.blockClasses
  rw [flatMap_one _ _ k]
  · have ha : p.arrivalBlocked k = false := by simp [State.arrivalBlocked, h.wires]
    have hf : p.fireBlocked k = false := by simp [State.fireBlocked, h.wires, (h.calm.2 k.c h.idx).1]
    rw [h.presented, ha, hf]
    have : ¬ imemWords k ≤ (p.cell k).pc := by have := h.pc; omega
    simp [hp, hg, hx, this]
  · unfold State.islCells
    refine List.Nodup.map (fun a b e => ?_) List.nodup_range
    simpa using e
  · unfold State.islCells
    exact List.mem_map.mpr ⟨k.c, List.mem_range.mpr h.idx, rfl⟩
  · intro x hx hne
    obtain ⟨c, hc, rfl⟩ := List.mem_map.mp hx
    have hc := List.mem_range.mp hc
    obtain ⟨hw, _, hn⟩ := h.word c hc
    have ha : p.arrivalBlocked ⟨k.isl, c⟩ = false := by simp [State.arrivalBlocked, hw]
    have hf : p.fireBlocked ⟨k.isl, c⟩ = false := by simp [State.fireBlocked, hw, (h.calm.2 c hc).1]
    have : c ≠ k.c := fun e => hne (by rw [e])
    simp [ha, hf, hn this]

theorem islReg_ne {i a b : Nat} (h : a ≠ b) : islReg i a ≠ islReg i b := by unfold islReg; omega

theorem State.withRegs_setFld (t u : State) (a hi lo v : Nat) : (t.setFld a hi lo v).withRegs u = t.withRegs u := rfl
theorem State.withRegs_incFld (t u : State) (a hi lo n : Nat) : (t.incFld a hi lo n).withRegs u = t.withRegs u := rfl
theorem State.withRegs_updIsl (t u : State) (i : Nat) (f : Isl → Isl) : (t.updIsl i f).withRegs u = t.withRegs u := rfl

/-- ISL_SEQ.reason of a cycle with one class. -/
theorem State.reason_one (s : State) (i : Nat) {b : Nat} (hb : b = 3 ∨ b = 4 ∨ b = 5) :
    s.reason i [b] = 2 ^ (b - 3) + b2n (s.stretched i) * 8 := by
  unfold State.reason
  congr 1
  rcases hb with rfl | rfl | rfl <;> rfl

/-- A presented word that blocks: one stall cycle. -/
theorem Presents.stalled {p : State} {k : CellRef} {w : HWord} (h : Presents p k w) {b : Nat} (hb : b = 3 ∨ b = 4 ∨ b = 5)
    (hp : p.pullsAt k (p.cell k).pc = []) (hg : p.liveX k w = true)
    (hx : blockX p k w.x = [b]) : Stalled p (p.cycle k.isl) k.isl b := by
  have hi := h.isl
  have hc := h.canon
  have hin : (p.islCells k.isl).foldl (fun s k => s.intakeStep k) p = p := by
    rw [State.islCells_foldl]
    refine foldl_fixed _ _ _ (fun c hc => ?_)
    simp [State.intakeStep, (h.calm.2 c (List.mem_range.mp hc)).2.1]
  have hra : p.raiseFaults k.isl p = p := State.raiseFaults_none (fun _ _ e => e)
  unfold State.cycle
  rw [if_neg (by rw [h.live]; simp; omega), h.blocked hp hg hx]
  have n1 : R.islSeq k.isl ≠ R.islCycle k.isl := islReg_ne (by omega)
  have n2 : R.stallFifo k.isl ≠ R.islCycle k.isl := islReg_ne (by omega)
  have n3 : R.stallFifo k.isl ≠ R.islSeq k.isl := islReg_ne (by omega)
  have n4 : R.stallStream k.isl ≠ R.islCycle k.isl := islReg_ne (by omega)
  have n5 : R.stallStream k.isl ≠ R.islSeq k.isl := islReg_ne (by omega)
  have n6 : R.stallSync k.isl ≠ R.islCycle k.isl := islReg_ne (by omega)
  have n7 : R.stallSync k.isl ≠ R.islSeq k.isl := islReg_ne (by omega)
  simp only [List.isEmpty_cons, Bool.false_eq_true, if_false, State.stallCycle, hin, hra, p.reason_one k.isl hb]
  generalize hrs : 2 ^ (b - 3) + b2n (p.stretched k.isl) * 8 = rs
  have c1 : ((p.setFld (R.islSeq k.isl) 2 0 2).setFld (R.islSeq k.isl) 6 3 rs).Canon := (hc.setFld _ _ _ _).setFld _ _ _ _
  have r1 : ∀ a, ((p.setFld (R.islSeq k.isl) 2 0 2).setFld (R.islSeq k.isl) 6 3 rs).reg a
      = if a = R.islSeq k.isl then putField 6 3 rs (putField 2 0 2 (p.reg a)) else p.reg a := by
    intro a
    unfold State.setFld
    rw [State.reg_setReg (hc.setReg _ _), State.reg_setReg hc, State.reg_setReg hc]
    by_cases e : a = R.islSeq k.isl
    · subst e; simp
    · simp [e]
  rw [State.passHeld_nil (s := (p.setFld (R.islSeq k.isl) 2 0 2).setFld (R.islSeq k.isl) 6 3 rs) 1 h.calm.1]
  have i1 : ∀ j, ((p.setFld (R.islSeq k.isl) 2 0 2).setFld (R.islSeq k.isl) 6 3 rs).isl j = p.isl j := fun j => by
    rw [State.isl_setFld, State.isl_setFld]
  generalize he : (p.setFld (R.islSeq k.isl) 2 0 2).setFld (R.islSeq k.isl) 6 3 rs = v at *
  have hrest : ∀ r, (((v.incFld (R.islCycle k.isl) 63 0 1).updIsl k.isl Isl.ticked).incFld r 47 0 1).withRegs p = p := fun r => by
    rw [State.withRegs_incFld, State.withRegs_updIsl, State.withRegs_incFld, ← he, State.withRegs_setFld, State.withRegs_setFld]; rfl
  have r2 : ∀ a, ((v.incFld (R.islCycle k.isl) 63 0 1).updIsl k.isl Isl.ticked).reg a
      = if a = R.islSeq k.isl then putField 6 3 rs (putField 2 0 2 (p.reg a))
        else if a = R.islCycle k.isl then p.reg a + 1 else p.reg a := by
    intro a
    rw [State.reg_updIsl, State.reg_incFull c1, r1, r1]
    by_cases e : a = R.islCycle k.isl
    · subst e; simp [n1.symm]
    · simp [e]
  have c2 : ((v.incFld (R.islCycle k.isl) 63 0 1).updIsl k.isl Isl.ticked).Canon := (c1.incFld _ _ _ _).updIsl _ _
  have i2 : ∀ r j, (((v.incFld (R.islCycle k.isl) 63 0 1).updIsl k.isl Isl.ticked).incFld r 47 0 1).isl j
      = if j = k.isl then (p.isl k.isl).ticked else p.isl j := by
    intro r j
    rw [State.isl_incFld]
    by_cases e : j = k.isl
    · subst e
      rw [if_pos rfl, State.isl_updIsl (c1.incFld _ _ _ _), State.isl_incFld, i1]
    · rw [if_neg e, State.isl_updIsl_other (c1.incFld _ _ _ _) _ e, State.isl_incFld, i1]
  have fin : ∀ r, r ≠ R.islCycle k.isl → r ≠ R.islSeq k.isl → ∀ a,
      (((v.incFld (R.islCycle k.isl) 63 0 1).updIsl k.isl Isl.ticked).incFld r 47 0 1).reg a
      = if a = R.islSeq k.isl then putField 6 3 rs (putField 2 0 2 (p.reg a))
        else if a = R.islCycle k.isl then p.reg a + 1
        else if a = r then putField 47 0 (field 47 0 (p.reg a) + 1) (p.reg a) else p.reg a := by
    intro r hr1 hr2 a
    rw [State.incFld, State.setFld, State.fld, State.reg_setReg c2, r2, r2]
    by_cases e : a = r
    · subst e; simp [hr1, hr2]
    · simp [e]
  rcases hb with rfl | rfl | rfl
  · exact ⟨i2 _, hrs ▸ fin _ n2 n3, hrest _⟩
  · exact ⟨i2 _, hrs ▸ fin _ n4 n5, hrest _⟩
  · exact ⟨i2 _, hrs ▸ fin _ n6 n7, hrest _⟩

end Sys2Proof.Machine
end

