-- ==== Sys2Proof/Laws/Fault.lean ====
section
/-! SUPPORT. A word that raises a program fault at a cell that runs alone. -/

namespace Sys2Proof.Machine

open Sys2Proof

/-! ### The fault -/

theorem State.noteFail_eq (s : State) (e : DEvent) : ∃ m, s.noteFail e = { s with tbls := m } := by
  unfold State.noteFail
  split
  · split
    · exact ⟨s.tbls, rfl⟩
    · exact ⟨_, rfl⟩
  · split
    · exact ⟨s.tbls, rfl⟩
    · exact ⟨_, rfl⟩
  · exact ⟨s.tbls, rfl⟩

/-- A state with other table notes and events. -/
def State.noted (s : State) (m : SMap Tbl) (l : List (Nat × DEvent)) : State := { s with tbls := m, events := s.events ++ l }

theorem State.noted_eq (s : State) (m : SMap Tbl) (l : List (Nat × DEvent)) :
    ({ ({ s with tbls := m } : State) with events := ({ s with tbls := m } : State).events ++ l } : State) = s.noted m l := rfl

/-- An event of a dealer changes its sequence number, the events, and what a table notes of a failure. -/
theorem State.raise_eq (s : State) (die : Nat) (e : DEvent) :
    ∃ m, s.raise die e = (s.incFld (R.dlrSeq die) 47 0 1).noted m [(die, e)] := by
  unfold State.raise State.dealerSees
  generalize s.incFld (R.dlrSeq die) 47 0 1 = x
  obtain ⟨m, hm⟩ := State.noteFail_eq x e
  refine ⟨m, ?_⟩
  simp only [hm]
  exact State.noted_eq x m _

theorem State.noted_canon {s : State} (h : s.Canon) (m : SMap Tbl) (l : List (Nat × DEvent)) : (s.noted m l).Canon := h
theorem State.noted_cell (s : State) (m : SMap Tbl) (l : List (Nat × DEvent)) (k : CellRef) : (s.noted m l).cell k = s.cell k := rfl
theorem State.noted_isl (s : State) (m : SMap Tbl) (l : List (Nat × DEvent)) (i : Nat) : (s.noted m l).isl i = s.isl i := rfl
theorem State.noted_reg (s : State) (m : SMap Tbl) (l : List (Nat × DEvent)) (a : Nat) : (s.noted m l).reg a = s.reg a := rfl
theorem State.noted_rest (s : State) (m : SMap Tbl) (l : List (Nat × DEvent)) :
    (s.noted m l).events = s.events ++ l ∧ (s.noted m l).mem = s.mem ∧ (s.noted m l).fifos = s.fifos ∧
    (s.noted m l).flight = s.flight ∧ (s.noted m l).mesh = s.mesh ∧ (s.noted m l).pending = s.pending ∧
    (s.noted m l).fuses = s.fuses := ⟨rfl, rfl, rfl, rfl, rfl, rfl, rfl⟩
theorem State.incFld_rest (s : State) (a hi lo n : Nat) :
    (s.incFld a hi lo n).events = s.events ∧ (s.incFld a hi lo n).mem = s.mem ∧ (s.incFld a hi lo n).fifos = s.fifos ∧
    (s.incFld a hi lo n).flight = s.flight ∧ (s.incFld a hi lo n).mesh = s.mesh ∧ (s.incFld a hi lo n).pending = s.pending ∧
    (s.incFld a hi lo n).fuses = s.fuses := ⟨rfl, rfl, rfl, rfl, rfl, rfl, rfl⟩

theorem State.setFld_rest (s : State) (a hi lo n : Nat) :
    (s.setFld a hi lo n).events = s.events ∧ (s.setFld a hi lo n).mem = s.mem ∧ (s.setFld a hi lo n).fifos = s.fifos ∧
    (s.setFld a hi lo n).flight = s.flight ∧ (s.setFld a hi lo n).mesh = s.mesh ∧ (s.setFld a hi lo n).pending = s.pending ∧
    (s.setFld a hi lo n).fuses = s.fuses := ⟨rfl, rfl, rfl, rfl, rfl, rfl, rfl⟩
theorem State.updCell_rest (s : State) (k : CellRef) (f : Cell → Cell) :
    (s.updCell k f).events = s.events ∧ (s.updCell k f).mem = s.mem ∧ (s.updCell k f).fifos = s.fifos ∧
    (s.updCell k f).flight = s.flight ∧ (s.updCell k f).mesh = s.mesh ∧ (s.updCell k f).pending = s.pending :=
  ⟨rfl, rfl, rfl, rfl, rfl, rfl⟩
/-- A fault of a cell as a write of CELL_FAULT and the cell's stop. -/
theorem State.recordFault_eq (s : State) (k : CellRef) (code : Code) (slot word : Nat) :
    s.recordFault k code slot word = (s.setReg (R.cellFault k) (faultWord code slot word (s.reg (R.islCycle k.isl)))).updCell k
      (fun c => { c with run := .faulted, held := none, sync := .none }) := by
  unfold State.recordFault faultWord
  rfl

theorem State.setReg_updCell_rest (s : State) (a : Nat) (v : Word) (k : CellRef) (f : Cell → Cell) :
    ((s.setReg a v).updCell k f).events = s.events ∧ ((s.setReg a v).updCell k f).mem = s.mem ∧
    ((s.setReg a v).updCell k f).fifos = s.fifos ∧ ((s.setReg a v).updCell k f).flight = s.flight ∧
    ((s.setReg a v).updCell k f).mesh = s.mesh ∧ ((s.setReg a v).updCell k f).pending = s.pending ∧
    ((s.setReg a v).updCell k f).fuses = s.fuses := ⟨rfl, rfl, rfl, rfl, rfl, rfl, rfl⟩


theorem State.raise_canon {s : State} (h : s.Canon) (die : Nat) (e : DEvent) : (s.raise die e).Canon := by
  obtain ⟨m, hm⟩ := s.raise_eq die e
  rw [hm]
  exact State.noted_canon (h.incFld _ _ _ _) _ _

theorem State.raise_cell (s : State) (die : Nat) (e : DEvent) (k : CellRef) : (s.raise die e).cell k = s.cell k := by
  obtain ⟨m, hm⟩ := s.raise_eq die e
  rw [hm, State.noted_cell]; exact State.cell_incFld s _ _ _ _ k

theorem State.raise_reg {s : State} (h : s.Canon) (die : Nat) (e : DEvent) (a : Nat) (hne : a ≠ R.dlrSeq die) :
    (s.raise die e).reg a = s.reg a := by
  obtain ⟨m, hm⟩ := s.raise_eq die e
  rw [hm, State.noted_reg]
  exact State.reg_incFld_ne h _ _ _ hne

theorem State.raise_keeps (s : State) (die : Nat) (e : DEvent) :
    (s.raise die e).events = s.events ++ [(die, e)] ∧ (s.raise die e).mem = s.mem ∧ (s.raise die e).fifos = s.fifos ∧
    (s.raise die e).flight = s.flight ∧ (s.raise die e).mesh = s.mesh ∧ (s.raise die e).pending = s.pending ∧
    (s.raise die e).fuses = s.fuses := by
  obtain ⟨m, hm⟩ := s.raise_eq die e
  obtain ⟨a1, a2, a3, a4, a5, a6, a7⟩ := (s.incFld (R.dlrSeq die) 47 0 1).noted_rest m [(die, e)]
  obtain ⟨b1, b2, b3, b4, b5, b6, b7⟩ := s.incFld_rest (R.dlrSeq die) 47 0 1
  rw [hm, a1, a2, a3, a4, a5, a6, a7, b1, b2, b3, b4, b5, b6, b7]
  exact ⟨rfl, rfl, rfl, rfl, rfl, rfl, rfl⟩

theorem State.raise_isl (s : State) (die : Nat) (e : DEvent) (i : Nat) : (s.raise die e).isl i = s.isl i := by
  obtain ⟨m, hm⟩ := s.raise_eq die e
  rw [hm, State.noted_isl]; exact State.isl_incFld s _ _ _ _ i

theorem State.updIsl_rest (s : State) (i : Nat) (f : Isl → Isl) :
    (s.updIsl i f).events = s.events ∧ (s.updIsl i f).mem = s.mem ∧ (s.updIsl i f).fifos = s.fifos ∧
    (s.updIsl i f).flight = s.flight ∧ (s.updIsl i f).mesh = s.mesh ∧ (s.updIsl i f).pending = s.pending ∧
    (s.updIsl i f).fuses = s.fuses := ⟨rfl, rfl, rfl, rfl, rfl, rfl, rfl⟩

/-- q is s with a fault of cell k recorded in CELL_FAULT, the island's schedule cycle counted, and nothing else changed. -/
structure Noted (s p q : State) (k : CellRef) (fc : Code) (slot word : Nat) : Prop where
  canon : q.Canon
  cell : q.cell k = { s.cell k with run := .faulted, held := none, sync := .none }
  other : ∀ j, gid j ≠ gid k → q.cell j = s.cell j
  cellFault : q.reg (R.cellFault k) = faultWord fc slot word (s.reg (R.islCycle k.isl))
  reg : ∀ a, a ≠ R.cellFault k → q.reg a = s.reg a
  table : (q.isl k.isl).table = (s.isl k.isl).table
  dheld : (q.isl k.isl).dheld = (s.isl k.isl).dheld
  fuses : q.fuses = p.fuses
  rest : q.events = s.events ∧ q.mem = s.mem ∧ q.fifos = s.fifos ∧ q.flight = s.flight ∧ q.mesh = s.mesh ∧ q.pending = s.pending

theorem Presents.noted {s p : State} {k : CellRef} {w : HWord} (h : Presents p k w) (hs : s.Canon)
    (hp : p = s.updCell k (fun c => c.holding w)) (fc : Code) (slot word : Nat) (n : Word) :
    Noted s p ((p.recordFault k fc slot word).count k.isl n) k fc slot word := by
  have cp := h.canon
  have epk : p.cell k = (s.cell k).holding w := by rw [hp]; exact State.cell_updCell hs _ _
  have epo : ∀ j, gid j ≠ gid k → p.cell j = s.cell j := fun j hj => by rw [hp]; exact State.cell_updCell_other hs _ hj
  have eisl : ∀ i, p.isl i = s.isl i := fun i => by rw [hp]; rfl
  have ereg : ∀ a, p.reg a = s.reg a := fun a => by rw [hp]; rfl
  have cr : (p.recordFault k fc slot word).Canon := by rw [State.recordFault_eq]; exact (cp.setReg _ _).updCell _ _
  have hi : (p.recordFault k fc slot word).isl k.isl = s.isl k.isl := by
    rw [State.recordFault_eq, State.isl_updCell, State.isl_setReg, eisl]
  refine ⟨cr.updIsl _ _, ?_, ?_, ?_, ?_, ?_, ?_, ?_, ?_⟩
  · rw [State.cell_count, State.recordFault_eq, State.cell_updCell (cp.setReg _ _), State.cell_setReg, epk]
    rfl
  · intro j hj
    rw [State.cell_count, State.recordFault_eq, State.cell_updCell_other (cp.setReg _ _) _ hj, State.cell_setReg, epo j hj]
  · unfold State.count
    rw [State.reg_updIsl, State.recordFault_eq, State.reg_updCell, State.reg_setReg cp, if_pos rfl, ereg]
  · intro a ha
    unfold State.count
    rw [State.reg_updIsl, State.recordFault_eq, State.reg_updCell, State.reg_setReg cp, if_neg ha, ereg]
  · unfold State.count
    rw [State.isl_updIsl cr, hi]; rfl
  · unfold State.count
    rw [State.isl_updIsl cr, hi]; rfl
  · obtain ⟨_, _, _, _, _, _, x7⟩ := State.updIsl_rest (p.recordFault k fc slot word) k.isl (Isl.next n)
    obtain ⟨_, _, _, _, _, _, y7⟩ := State.setReg_updCell_rest p (R.cellFault k) (faultWord fc slot word (p.reg (R.islCycle k.isl))) k
      (fun c => { c with run := .faulted, held := none, sync := .none })
    rw [← State.recordFault_eq] at y7
    exact x7.trans y7
  · obtain ⟨x1, x2, x3, x4, x5, x6, _⟩ := State.updIsl_rest (p.recordFault k fc slot word) k.isl (Isl.next n)
    obtain ⟨y1, y2, y3, y4, y5, y6, _⟩ := State.setReg_updCell_rest p (R.cellFault k) (faultWord fc slot word (p.reg (R.islCycle k.isl))) k
      (fun c => { c with run := .faulted, held := none, sync := .none })
    rw [← State.recordFault_eq] at y1 y2 y3 y4 y5 y6
    obtain ⟨z1, z2, z3, z4, z5, z6⟩ := State.updCell_rest s k (fun c => c.holding w)
    rw [← hp] at z1 z2 z3 z4 z5 z6
    exact ⟨x1.trans (y1.trans z1), x2.trans (y2.trans z2), x3.trans (y3.trans z3), x4.trans (y4.trans z4), x5.trans (y5.trans z5),
      x6.trans (y6.trans z6)⟩

/-- q is s with the fault of cell k recorded and its island stopped. -/
structure Recorded (s p q : State) (k : CellRef) (fc : Code) (slot word : Nat) : Prop where
  canon : q.Canon
  cell : q.cell k = { s.cell k with run := .faulted, held := none, sync := .none }
  other : ∀ j, gid j ≠ gid k → q.cell j = s.cell j
  cellFault : q.reg (R.cellFault k) = faultWord fc slot word (s.reg (R.islCycle k.isl))
  state : q.fld (R.islSeq k.isl) 2 0 = 3
  fcell : q.fld (R.islSeq k.isl) 10 7 = k.c
  fvalid : q.fld (R.islSeq k.isl) 11 11 = 1
  cycles : q.reg (R.islCycle k.isl) = s.reg (R.islCycle k.isl)
  dheld : (q.isl k.isl).dheld = (s.isl k.isl).dheld
  fuses : q.fuses = p.fuses
  rest : q.events = s.events ++ [(s.homeDie (s.isl k.isl).table k.isl, .fault k.isl fc)] ∧ q.mem = s.mem ∧ q.fifos = s.fifos ∧
    q.flight = s.flight ∧ q.mesh = s.mesh ∧ q.pending = s.pending

theorem Noted.recorded {s p r : State} {k : CellRef} {fc : Code} {slot word : Nat} (h : Noted s p r k fc slot word)
    (hi : k.isl < 192) (hk16 : k.c < 16) (ht : (s.isl k.isl).table < 256) : Recorded s p (r.islandFault k fc) k fc slot word := by
  obtain ⟨cr, hcell, hoth, hcf, hreg, htab, hdh, hfus, hrest⟩ := h
  generalize hq0 : ((r.setFld (R.islSeq k.isl) 2 0 3).setFld (R.islSeq k.isl) 10 7 k.c).setFld (R.islSeq k.isl) 11 11 1 = q0
  have c0 : q0.Canon := by rw [← hq0]; exact ((cr.setFld _ _ _ _).setFld _ _ _ _).setFld _ _ _ _
  have hcell0 : ∀ j, q0.cell j = r.cell j := fun j => by
    rw [← hq0, State.cell_setFld, State.cell_setFld, State.cell_setFld]
  have hdie : r.homeDie (r.isl k.isl).table k.isl = s.homeDie (s.isl k.isl).table k.isl := by
    rw [htab]
    unfold State.homeDie State.fld
    have ne : R.tblCtl 0 (s.isl k.isl).table ≠ R.cellFault k :=
      Ne.symm (islReg_ne_blkReg Block.tbl (i := k.isl) (off := 0x10000 + 0x1000 * k.c + 0) (d := 0)
        (o := 0x40 * (s.isl k.isl).table) hi (by omega) (by omega) (by omega))
    rw [hreg _ ne]
  generalize hd : s.homeDie (s.isl k.isl).table k.isl = die at hdie ⊢
  have hd2 : die < 2 := by
    rw [← hd]
    unfold State.homeDie
    split
    · unfold islDie; omega
    · unfold State.fld field; omega
  have hq : r.islandFault k fc = q0.raise die (.fault k.isl fc) := by
    unfold State.islandFault
    simp only [hq0]
    rw [hdie]
  rw [hq]
  generalize hq1 : q0.raise die (.fault k.isl fc) = q at *
  have cq : q.Canon := by rw [← hq1]; exact State.raise_canon c0 _ _
  have hqreg : ∀ a, a ≠ R.dlrSeq die → q.reg a = q0.reg a := fun a ha => by rw [← hq1]; exact State.raise_reg c0 _ _ _ ha
  have hqcell : ∀ j, q.cell j = r.cell j := fun j => by rw [← hq1, State.raise_cell, hcell0]
  have hqisl : q.isl k.isl = r.isl k.isl := by
    rw [← hq1, State.raise_isl, ← hq0, State.isl_setFld, State.isl_setFld, State.isl_setFld]
  obtain ⟨k1, k2, k3, k4, k5, k6, k7⟩ := State.raise_keeps q0 die (.fault k.isl fc)
  rw [hq1] at k1 k2 k3 k4 k5 k6 k7
  have nSeq : R.islSeq k.isl ≠ R.dlrSeq die := islReg_ne_blkReg _ hi (by omega) hd2 (by omega)
  have nCyc : R.islCycle k.isl ≠ R.dlrSeq die := islReg_ne_blkReg _ hi (by omega) hd2 (by omega)
  have nCel : R.cellFault k ≠ R.dlrSeq die := islReg_ne_blkReg _ hi (by omega) hd2 (by omega)
  have nCs : R.cellFault k ≠ R.islSeq k.isl := cellReg_ne_islReg (by omega)
  have nCc : R.cellFault k ≠ R.islCycle k.isl := cellReg_ne_islReg (by omega)
  have nSc : R.islSeq k.isl ≠ R.islCycle k.isl := islReg_ne (by omega)
  have f1 : q.fld (R.islSeq k.isl) 2 0 = 3 := by
    rw [State.fld_congr (hqreg _ nSeq), ← hq0]
    rw [State.fld_setFld_other ((cr.setFld _ _ _ _).setFld _ _ _ _) _ _ _ _ _ _ (by omega) (by omega) (by omega) (by omega),
      State.fld_setFld_other (cr.setFld _ _ _ _) _ _ _ _ _ _ (by omega) (by omega) (by omega) (by omega),
      State.fld_setFld_same cr _ _ _ _ (by omega) (by omega)]
    rfl
  have f2 : q.fld (R.islSeq k.isl) 10 7 = k.c := by
    rw [State.fld_congr (hqreg _ nSeq), ← hq0]
    rw [State.fld_setFld_other ((cr.setFld _ _ _ _).setFld _ _ _ _) _ _ _ _ _ _ (by omega) (by omega) (by omega) (by omega),
      State.fld_setFld_same (cr.setFld _ _ _ _) _ _ _ _ (by omega) (by omega)]
    exact Nat.mod_eq_of_lt (by omega)
  have f3 : q.fld (R.islSeq k.isl) 11 11 = 1 := by
    rw [State.fld_congr (hqreg _ nSeq), ← hq0]
    rw [State.fld_setFld_same ((cr.setFld _ _ _ _).setFld _ _ _ _) _ _ _ _ (by omega) (by omega)]
    rfl
  have r1 : q.reg (R.cellFault k) = faultWord fc slot word (s.reg (R.islCycle k.isl)) := by
    rw [hqreg _ nCel, ← hq0, State.reg_setFld_ne ((cr.setFld _ _ _ _).setFld _ _ _ _) _ _ _ nCs,
      State.reg_setFld_ne (cr.setFld _ _ _ _) _ _ _ nCs, State.reg_setFld_ne cr _ _ _ nCs, hcf]
  have r2 : q.reg (R.islCycle k.isl) = s.reg (R.islCycle k.isl) := by
    rw [hqreg _ nCyc, ← hq0, State.reg_setFld_ne ((cr.setFld _ _ _ _).setFld _ _ _ _) _ _ _ nSc.symm,
      State.reg_setFld_ne (cr.setFld _ _ _ _) _ _ _ nSc.symm, State.reg_setFld_ne cr _ _ _ nSc.symm, hreg _ nCc.symm]
  have e0 : q0.events = r.events ∧ q0.mem = r.mem ∧ q0.fifos = r.fifos ∧ q0.flight = r.flight ∧ q0.mesh = r.mesh ∧
      q0.pending = r.pending ∧ q0.fuses = r.fuses := by
    obtain ⟨a1, a2, a3, a4, a5, a6, a7⟩ := State.setFld_rest r (R.islSeq k.isl) 2 0 3
    obtain ⟨b1, b2, b3, b4, b5, b6, b7⟩ := State.setFld_rest (r.setFld (R.islSeq k.isl) 2 0 3) (R.islSeq k.isl) 10 7 k.c
    obtain ⟨c1, c2, c3, c4, c5, c6, c7⟩ := State.setFld_rest ((r.setFld (R.islSeq k.isl) 2 0 3).setFld (R.islSeq k.isl) 10 7 k.c) (R.islSeq k.isl) 11 11 1
    rw [hq0] at c1 c2 c3 c4 c5 c6 c7
    exact ⟨c1.trans (b1.trans a1), c2.trans (b2.trans a2), c3.trans (b3.trans a3), c4.trans (b4.trans a4), c5.trans (b5.trans a5),
      c6.trans (b6.trans a6), c7.trans (b7.trans a7)⟩
  obtain ⟨z1, z2, z3, z4, z5, z6, z7⟩ := e0
  obtain ⟨y1, y2, y3, y4, y5, y6⟩ := hrest
  exact ⟨cq, (hqcell k).trans hcell, fun j hj => (hqcell j).trans (hoth j hj), r1, f1, f2, f3, r2, by rw [hqisl]; exact hdh,
    k7.trans (z7.trans hfus), by rw [k1, z1, y1, hd], k2.trans (z2.trans y2), k3.trans (z3.trans y3), k4.trans (z4.trans y4),
    k5.trans (z5.trans y5), k6.trans (z6.trans y6)⟩

/-- CELL_FAULT shows the code in bits [15:0]. -/
theorem faultWord_code (fc : Code) (slot word : Nat) (cyc : Word) : BitVec.ofNat 16 (field 15 0 (faultWord fc slot word cyc)) = fc := by
  unfold field faultWord
  apply BitVec.eq_of_toNat_eq
  have := fc.isLt
  simp only [BitVec.toNat_ofNat, Nat.shiftRight_zero]
  omega

/-- A cell that has faulted since b, the only one of its island, stops the island. -/
theorem State.raiseFaults_one {b r : State} {k : CellRef} (hb : b.fld (R.islSeq k.isl) 2 0 ≠ 3) (hk : k.c < r.cellCount k.isl)
    (hr : (r.cell k).run = .faulted) (hbr : (b.cell k).run ≠ .faulted)
    (ho : ∀ c, c < r.cellCount k.isl → c ≠ k.c → (r.cell ⟨k.isl, c⟩).run = (b.cell ⟨k.isl, c⟩).run) :
    b.raiseFaults k.isl r = r.islandFault k (BitVec.ofNat 16 (r.fld (R.cellFault k) 15 0)) := by
  unfold State.raiseFaults
  rw [if_neg hb]
  have hf : (r.islCells k.isl).find? (fun k => (r.cell k).run == .faulted && (b.cell k).run != .faulted) = some k := by
    cases hh : (r.islCells k.isl).find? (fun k => (r.cell k).run == .faulted && (b.cell k).run != .faulted) with
    | none =>
      rw [List.find?_eq_none] at hh
      have := hh k (List.mem_map.mpr ⟨k.c, List.mem_range.mpr hk, rfl⟩)
      simp [hr, hbr] at this
    | some x =>
      have hx := List.mem_of_find?_eq_some hh
      have hp := List.find?_some hh
      unfold State.islCells at hx
      obtain ⟨c, hc, rfl⟩ := List.mem_map.mp hx
      by_cases e : c = k.c
      · subst e; rfl
      · have := ho c (List.mem_range.mp hc) e
        simp only [Bool.and_eq_true, beq_iff_eq, bne_iff_ne, ne_eq, this] at hp
        exact absurd hp.1 hp.2
  rw [hf]

/-- The counts at the end of the cycle in which the island has stopped. -/
theorem Recorded.closes {s p q : State} {k : CellRef} {fc : Code} {slot word : Nat} (h : Recorded s p q k fc slot word) (rs : Nat) :
    ∃ t, (q.incFld (R.islCycle k.isl) 63 0 1).islState k.isl rs = t ∧
      t.cell k = { s.cell k with run := .faulted, held := none, sync := .none } ∧
      (∀ j, gid j ≠ gid k → t.cell j = s.cell j) ∧
      t.reg (R.cellFault k) = faultWord fc slot word (s.reg (R.islCycle k.isl)) ∧
      t.fld (R.islSeq k.isl) 2 0 = 3 ∧ t.fld (R.islSeq k.isl) 10 7 = k.c ∧ t.fld (R.islSeq k.isl) 11 11 = 1 ∧
      t.reg (R.islCycle k.isl) = s.reg (R.islCycle k.isl) + 1 ∧
      t.events = s.events ++ [(s.homeDie (s.isl k.isl).table k.isl, .fault k.isl fc)] ∧
      t.mem = s.mem ∧ t.fifos = s.fifos ∧ t.flight = s.flight ∧ t.mesh = s.mesh ∧ t.pending = s.pending := by
  obtain ⟨cq, hqk, hqo, r1, f1, f2, f3, r2, qd, qf, k1, k2, k3, k4, k5, k6⟩ := h
  have nSc : R.islSeq k.isl ≠ R.islCycle k.isl := islReg_ne (by omega)
  have nCc : R.cellFault k ≠ R.islCycle k.isl := cellReg_ne_islReg (by omega)
  have nCs : R.cellFault k ≠ R.islSeq k.isl := cellReg_ne_islReg (by omega)
  obtain ⟨l1, l2, l3, l4, l5, l6, _⟩ := State.incFld_rest q (R.islCycle k.isl) 63 0 1
  have vcell : ∀ j, (q.incFld (R.islCycle k.isl) 63 0 1).cell j = q.cell j := State.cell_incFld q _ _ _ _
  have cv : (q.incFld (R.islCycle k.isl) 63 0 1).Canon := cq.incFld _ _ _ _
  have vr : ∀ a, (q.incFld (R.islCycle k.isl) 63 0 1).reg a = if a = R.islCycle k.isl then q.reg a + 1 else q.reg a := by
    intro a
    rw [State.reg_incFull cq]
    by_cases e : a = R.islCycle k.isl
    · subst e; rfl
    · simp [e]
  generalize q.incFld (R.islCycle k.isl) 63 0 1 = v at *
  have fr : ∀ hi' lo', lo' ≤ hi' → hi' < 64 → (hi' < 3 ∨ 6 < lo') →
      (v.setFld (R.islSeq k.isl) 6 3 rs).fld (R.islSeq k.isl) hi' lo' = q.fld (R.islSeq k.isl) hi' lo' := by
    intro a b h1 h2 h3
    rw [State.fld_setFld_other cv _ _ _ _ _ _ (by omega) h2 h1 (by omega)]
    exact State.fld_congr (by rw [vr, if_neg nSc]) _ _
  have flt : (v.setFld (R.islSeq k.isl) 6 3 rs).islFaulted k.isl = true := by
    unfold State.islFaulted
    rw [fr 2 0 (by omega) (by omega) (by omega), f1]; rfl
  have hst : v.islState k.isl rs = v.setFld (R.islSeq k.isl) 6 3 rs := by
    unfold State.islState
    simp only [flt, if_true]
  obtain ⟨m1, m2, m3, m4, m5, m6, _⟩ := State.setFld_rest v (R.islSeq k.isl) 6 3 rs
  refine ⟨_, hst, ?_, ?_, ?_, ?_, ?_, ?_, ?_, ?_, ?_, ?_, ?_, ?_, ?_⟩
  · rw [State.cell_setFld, vcell, hqk]
  · intro j hj
    rw [State.cell_setFld, vcell, hqo j hj]
  · rw [State.reg_setFld_ne cv _ _ _ nCs, vr, if_neg nCc, r1]
  · rw [fr 2 0 (by omega) (by omega) (by omega), f1]
  · rw [fr 10 7 (by omega) (by omega) (by omega), f2]
  · rw [fr 11 11 (by omega) (by omega) (by omega), f3]
  · rw [State.reg_setFld_ne cv _ _ _ nSc.symm, vr, if_pos rfl, r2]
  · exact m1.trans (l1.trans k1)
  · exact m2.trans (l2.trans k2)
  · exact m3.trans (l3.trans k3)
  · exact m4.trans (l4.trans k4)
  · exact m5.trans (l5.trans k5)
  · exact m6.trans (l6.trans k6)

/-- A cycle in which the word of k faults, as a close of the cycle. -/
theorem Presents.cycle_fault {s p : State} {k : CellRef} {w : HWord} (h : Presents p k w)
    (hs : s.Canon) (hp : p = s.updCell k (fun c => c.holding w)) {fc : Code} {fs : Nat}
    (hb : p.blockClasses k.isl = []) {o : WordOut} (ho : p.outcomes k.isl = [(k, o)]) (hf : o.fault = some (fc, fs)) :
    p.cycle k.isl = State.closeCycle p
      (p.recordFault k fc (if fs = 4 then 3 else fs) (if fs = 4 then (s.cell k).last else (s.cell k).pc)) k.isl (p.isl k.isl).issued := by
  have hi := h.isl
  have epk : p.cell k = (s.cell k).holding w := by rw [hp]; exact State.cell_updCell hs _ _
  have hbub : (p.islCells k.isl).foldl (fun s k => s.consumeBubble k) p = p := by
    rw [State.islCells_foldl]
    refine foldl_fixed _ _ _ (fun c hc => ?_)
    simp [State.consumeBubble, (h.word c (List.mem_range.mp hc)).2.1]
  have hrec : p.recordFaults [(k, fc, fs)]
      = p.recordFault k fc (if fs = 4 then 3 else fs) (if fs = 4 then (s.cell k).last else (s.cell k).pc) := by
    unfold State.recordFaults
    simp only [List.foldl_cons, List.foldl_nil]
    rw [epk]
    by_cases e : fs = 4
    · subst e; simp only [if_true]; rfl
    · simp only [if_neg e]; rfl
  unfold State.cycle
  rw [if_neg (by rw [h.live]; simp; omega), hb]
  simp only [List.isEmpty_nil, if_true]
  unfold State.schedCycle
  simp only [h.opened, hbub, ho, hf, List.filter_cons, List.filter_nil, Option.isNone_some, Bool.false_eq_true, if_false, List.foldl_nil,
    List.filterMap_cons, List.filterMap_nil, Option.map_some, hrec, List.isEmpty_nil, if_true]

/-- The close of that cycle: nothing lands, and the island stops with the code of the cell. -/
theorem Presents.close_fault {s p r0 : State} {k : CellRef} {w : HWord} (h : Presents p k w) (hs : s.Canon)
    (hp : p = s.updCell k (fun c => c.holding w)) (hpend : (p.cell k).pend = []) {fc : Code} {slot word : Nat} {n : Word}
    (hN : Noted s p (r0.count k.isl n) k fc slot word) (hR : Recorded s p ((r0.count k.isl n).islandFault k fc) k fc slot word) :
    State.closeCycle p r0 k.isl n
      = (((r0.count k.isl n).islandFault k fc).incFld (R.islCycle k.isl) 63 0 1).islState k.isl (b2n (p.stretched k.isl) * 8) := by
  have epk : p.cell k = (s.cell k).holding w := by rw [hp]; exact State.cell_updCell hs _ _
  have epo : ∀ j, gid j ≠ gid k → p.cell j = s.cell j := fun j hj => by rw [hp]; exact State.cell_updCell_other hs _ hj
  have eisl : ∀ i, p.isl i = s.isl i := fun i => by rw [hp]; rfl
  have r0cell : ∀ j, r0.cell j = (r0.count k.isl n).cell j := fun j => (State.cell_count _ _ _ _).symm
  have r0count : r0.cellCount k.isl = p.cellCount k.isl := State.cellCount_congr hN.fuses _
  have hlinks : ∀ c, c < r0.cellCount k.isl → (r0.cell ⟨k.isl, c⟩).wires = [] ∧ (r0.cell ⟨k.isl, c⟩).steer = [] ∧ (r0.cell ⟨k.isl, c⟩).pend = [] := by
    intro c hc
    rw [r0count] at hc
    have hsteer := (h.calm.2 c hc).1
    rw [r0cell]
    by_cases e : c = k.c
    · subst e
      rw [show (⟨k.isl, k.c⟩ : CellRef) = k from rfl] at hsteer ⊢
      rw [hN.cell]
      have hw := h.wires
      rw [epk] at hw hsteer hpend
      exact ⟨hw, hsteer, hpend⟩
    · rw [hN.other _ (gid_ne e), ← epo _ (gid_ne e)]
      obtain ⟨a, b, d, e'⟩ := h.others c hc e
      exact ⟨e', hsteer, d⟩
  obtain ⟨hcl, hlt⟩ := State.closeLinks (s2 := r0) (i := k.isl) (fun c hc => ⟨(hlinks c hc).1, (hlinks c hc).2.1⟩)
  have hse : (r0.islCells k.isl).foldl (fun s k => s.settle k) (r0.count k.isl n) = r0.count k.isl n := by
    rw [State.islCells_foldl]
    refine foldl_fixed _ _ _ (fun c hc => ?_)
    have : ((r0.count k.isl n).cell ⟨k.isl, c⟩).pend = [] := by rw [← r0cell]; exact (hlinks c (List.mem_range.mp hc)).2.2
    simp [State.settle, this]
  have hlive : p.fld (R.islSeq k.isl) 2 0 ≠ 3 := by
    intro e
    have := h.live
    unfold State.islFaulted at this
    rw [e] at this
    simp at this
  have hrf : p.raiseFaults k.isl (r0.count k.isl n) = (r0.count k.isl n).islandFault k fc := by
    rw [State.raiseFaults_one hlive]
    · congr 1
      unfold State.fld
      rw [hN.cellFault, faultWord_code]
    · rw [State.cellCount_congr hN.fuses]; exact h.idx
    · rw [hN.cell]
    · rw [h.run]; decide
    · intro c _ e
      rw [hN.other _ (gid_ne e), epo _ (gid_ne e)]
  have hdh := h.calm.1
  rw [eisl] at hdh
  have hpass := State.passHeld_nil 1 (hR.dheld.trans hdh)
  unfold State.closeCycle
  simp only [hcl, hlt]
  rw [show r0.updIsl k.isl (Isl.next n) = r0.count k.isl n from rfl, hse, hrf, hpass, State.reason_nil]

/-- The one outcome of a cycle is a fault. -/
theorem Presents.faulted {s p : State} {k : CellRef} {w : HWord} (h : Presents p k w) (hs : s.Canon)
    (hp : p = s.updCell k (fun c => c.holding w)) (hpend : (p.cell k).pend = []) {code : Code} {f : Code × Nat}
    (hb : p.blockClasses k.isl = []) {o : WordOut} (ho : p.outcomes k.isl = [(k, o)]) (hf : o.fault = some f) (hcode : f.1 = code) :
    Faults s k (.next (p.cycle k.isl)) code (if f.2 = 4 then 3 else f.2) (if f.2 = 4 then (s.cell k).last else (s.cell k).pc) := by
  obtain ⟨fc, fs⟩ := f
  subst hcode
  have ht : (s.isl k.isl).table < 256 := by
    have := h.tbl
    rw [hp, State.isl_updCell] at this
    exact this
  have hN := h.noted hs hp fc (if fs = 4 then 3 else fs) (if fs = 4 then (s.cell k).last else (s.cell k).pc) (p.isl k.isl).issued
  have hR := hN.recorded h.isl (lt_of_lt_of_le h.idx (p.cellCount_le _)) ht
  obtain ⟨t, e, rest⟩ := hR.closes (b2n (p.stretched k.isl) * 8)
  refine ⟨_, rfl, ?_⟩
  rw [h.cycle_fault hs hp hb ho hf, h.close_fault hs hp hpend hN hR, e]
  exact rest

end Sys2Proof.Machine
end

