-- ==== Sys2Proof/Laws/Land.lean ====
section
/-! SUPPORT. Writes to local SRAM that land with their word, and a word that a cell has held since an earlier cycle. -/

namespace Sys2Proof.Machine

open Sys2Proof

/-- A write to local SRAM that meets neither window nor area of a sieve (R262, R263). -/
theorem State.sramLand_plain {s : State} {k : CellRef} {off : Nat} {bs : List Byte} {seat : Option (BitVec 6)}
    (h : s.sieveTakes k off bs.length = false) : s.sramLand k off bs seat = s.wrN (sramBase k + off) bs := by
  unfold State.sieveTakes at h
  rw [Bool.or_eq_false_iff] at h
  unfold State.sramLand State.touchArea
  simp [h.1, h.2]

/-- A store whose blocks hold no upset lands so. -/
theorem State.sramStore_plain {s : State} {k : CellRef} {off : Nat} {bs : List Byte} {seat : Option (BitVec 6)}
    (h : s.sieveTakes k off bs.length = false) (hp : s.plain (sramBase k + off) bs.length = true) :
    s.sramStore k off bs seat = s.wrN (sramBase k + off) bs := by
  unfold State.sramStore
  rw [if_pos hp, State.sramLand_plain h]

theorem State.outside_wrN (t u : State) (a : Nat) (bs : List Byte) : (t.wrN a bs).outside u = (t.outside u).wrN a bs := rfl

theorem State.plain_count (s : State) (i : Nat) (n : Word) (k : CellRef) (f : Cell → Cell) (a m : Nat) :
    ((s.count i n).updCell k f).plain a m = s.plain a m := rfl

/-- An issued word whose one write is a store that lands with it. -/
theorem IssuedAs.stored {s u b s2 : State} {k : CellRef} {c : Cell} (h : IssuedAs s u b s2 k c) {a : Nat} {bs : List Byte}
    {seat : Option (BitVec 6)} (hp : c.pend = [⟨(s.isl k.isl).sched + 1, .sram a bs seat⟩]) (hrun : c.run = .running)
    (hs : s2.sieveTakes k a bs.length = false) (hpl : s2.plain (sramBase k + a) bs.length = true) :
    Cycled s (u.wrN (sramBase k + a) bs) (State.closeCycle b s2 k.isl s.gtime) k { c with pend := [] } := by
  have hc := State.count_canon h.ends.canon k.isl s.gtime
  have hset : (s2.count k.isl s.gtime).settle k
      = ((s2.count k.isl s.gtime).updCell k (fun c => { c with pend := [] })).wrN (sramBase k + a) bs := by
    unfold State.settle
    rw [h.sched, State.cell_count, h.cell, hp]
    simp only [List.isEmpty_cons, Bool.false_eq_true, if_false, List.filter_cons, le_refl, decide_true, List.filter_nil, if_true,
      PW.isClear, Bool.not_false, List.nil_append, List.foldl_cons, List.foldl_nil, State.applyPW]
    rw [State.sramStore_plain]
    · congr 1
      unfold State.updCell
      rw [State.cell_count, h.cell]
      congr 2
      dsimp only
      rw [hp]
      simp
    · have e : ∀ f : Cell → Cell, (∀ x, (f x).sieve = x.sieve) →
          ((s2.count k.isl s.gtime).updCell k f).sieveTakes k a bs.length = s2.sieveTakes k a bs.length := by
        intro f hf
        unfold State.sieveTakes State.inWin State.inArea
        rw [State.cell_updCell hc, hf, State.cell_count]
      rw [e (fun c => { c with pend := c.pend.filter (fun x => !decide (x.due ≤ (s.isl k.isl).sched + 1)) }) (fun x => rfl)]
      exact hs
    · rw [State.plain_count]; exact hpl
  refine h.cycled hset ⟨?_, ?_, ?_, ?_, ?_, ?_, ?_⟩ hrun
  · exact (hc.updCell _ _).wrN _ _
  · rw [State.cell_wrN, State.cell_updCell hc, State.cell_count, h.cell]
  · intro j hj
    rw [State.cell_wrN, State.cell_updCell_other hc _ hj, State.cell_count]
  · rfl
  · rfl
  · rfl
  · rw [State.outside_wrN, State.outside_updCell]
    have e1 : ((s2.count k.isl s.gtime).outside (u.wrN (sramBase k + a) bs)) = s2.outside u := rfl
    rw [e1, h.rest]

@[simp] theorem Cell.rs_holding (c : Cell) (w : HWord) (r : BitVec 5) : (c.holding w).rs r = c.rs r := rfl
@[simp] theorem Cell.rp_holding (c : Cell) (w : HWord) (r : BitVec 3) : (c.holding w).rp r = c.rp r := rfl

/-- An operation of the S slot with one write of latency 1. -/
theorem Quiet.s_one {s : State} {k : CellRef} {g : BitVec 4} (h : Quiet s k) (hg : (s.cell k).guard g = true) {op : SOp} {pw : PW}
    (hd : op.decodeFault = none) (ho : pw.isOwn = true)
    (he : evalS (s.updCell k (fun c => c.holding { sg := g, s := op })) k op = SlotOut.one 1 pw) :
    Issues s k (.next (drive k { sg := g, s := op } s)) ((s.cell k).stepped.applyPW pw) := by
  obtain ⟨⟨hc, h1, h2, h3, ht, h4, h5, h6, h7, h8, h13, h12⟩, h9, h10, h11⟩ := id h
  have := h.s_slot hg hd he rfl rfl (by simp [SlotOut.one]) (by simpa [SlotOut.one] using ho)
  rwa [Cell.after_one h5 h6 h7] at this

/-- An operation of the S slot with one write of a longer latency. -/
theorem Quiet.s_later {s : State} {k : CellRef} {g : BitVec 4} (h : Quiet s k) (hg : (s.cell k).guard g = true) {op : SOp} {pw : PW} (n : Nat)
    (hd : op.decodeFault = none) (ho : pw.isOwn = true)
    (he : evalS (s.updCell k (fun c => c.holding { sg := g, s := op })) k op = SlotOut.one (n + 2) pw) :
    Issues s k (.next (drive k { sg := g, s := op } s)) ((s.cell k).stepped.inFlight ((s.isl k.isl).sched + (n + 2)) pw) := by
  obtain ⟨⟨hc, h1, h2, h3, ht, h4, h5, h6, h7, h8, h13, h12⟩, h9, h10, h11⟩ := id h
  have := h.s_slot hg hd he rfl rfl (by simp [SlotOut.one]) (by simpa [SlotOut.one] using ho)
  rwa [Cell.after_later h5 h6 h7 _ _ n] at this

/-- A word that faults at a cell that runs alone. -/
theorem Quiet.word_fault {s : State} {k : CellRef} {w : HWord} (h : Quiet s k)
    (hpres : s.present k w = s.updCell k (fun c => c.holding w))
    (hb : s.liveX k w = true → blockX (s.updCell k (fun c => c.holding w)) k w.x = [])
    {code : Code} {slot : Nat} (hslot : slot < 4)
    (hf : (evalWord (s.updCell k (fun c => c.holding w)) k w).fault = some (code, slot)) :
    Faults s k (.next (drive k w s)) code slot (s.cell k).pc := by
  have hP := h.presents w
  have hpc : (s.updCell k (fun c => c.holding w)).pullsAt k ((s.updCell k (fun c => c.holding w)).cell k).pc = [] := by
    rw [h.cell_holding]; exact h.2.2.1
  have hpend : ((s.updCell k (fun c => c.holding w)).cell k).pend = [] := by
    rw [h.cell_holding]; exact h.1.2.2.2.2.2.2.2.2.1
  have hbl : (s.updCell k (fun c => c.holding w)).blockClasses k.isl = [] :=
    hP.unblocked hpc (fun hg => hb (State.liveX_holding h.1.1 w ▸ hg))
  have := hP.faulted h.1.1 rfl hpend hbl hP.outcomes hf rfl
  rw [h.drive_eq, hpres]
  rw [if_neg (by show ¬ slot = 4; omega), if_neg (by show ¬ slot = 4; omega)] at this
  exact this

theorem evalWord_s_fault {p : State} {k : CellRef} {c : Cell} (hc : p.cell k = c) {g : BitVec 4} (hg : c.guard g = true) {op : SOp} {code : Code}
    (hd : op.decodeFault = none) (he : (evalS p k op).fault = some code) :
    (evalWord p k { sg := g, s := op }).fault = some (code, 0) := by
  have hdec : HWord.decodeFault (isMemCell k) { sg := g, s := op } = none := by
    simp [HWord.decodeFault, hd, MOp.decodeFault, VOp.decodeFault, XOp.decodeFault]
  unfold evalWord
  simp only [hdec, hc, evalSlots, hg, if_true, he, Option.isSome_some, firstFault]

/-- A fault of the S slot. -/
theorem Quiet.s_fault {s : State} {k : CellRef} {g : BitVec 4} (h : Quiet s k) (hg : (s.cell k).guard g = true) {op : SOp} {code : Code}
    (hd : op.decodeFault = none)
    (he : (evalS (s.updCell k (fun c => c.holding { sg := g, s := op })) k op).fault = some code) :
    Faults s k (.next (drive k { sg := g, s := op } s)) code 0 (s.cell k).pc := by
  exact h.word_fault (present_s g op) (fun _ => rfl) (by omega) (evalWord_s_fault (h.cell_holding _) hg hd he)

/-- A decode fault of the S slot, whatever the guard (R108). -/
theorem Quiet.s_decode {s : State} {k : CellRef} {g : BitVec 4} (h : Quiet s k) {op : SOp} {code : Code} (hd : op.decodeFault = some code) :
    Faults s k (.next (drive k { sg := g, s := op } s)) code 0 (s.cell k).pc := by
  refine h.word_fault (present_s g op) (fun _ => rfl) (by omega) ?_
  have hdec : HWord.decodeFault (isMemCell k) { sg := g, s := op } = some (code, 0) := by
    simp [HWord.decodeFault, hd]
  unfold evalWord
  simp only [hdec]

end Sys2Proof.Machine
end

