-- ==== Sys2Proof/Laws/After.lean ====
section
/-! SUPPORT. The cell behind a word of one operation: which of its writes have landed when the word's cycle ends, and which
are in flight. -/

namespace Sys2Proof.Machine

open Sys2Proof

/-- The fields that a word's control flow sets, no write does. -/
def Cell.placed (c d : Cell) : Cell :=
  { c with pend := d.pend, last := d.last, pc := d.pc, bubble := d.bubble, loops := d.loops, stack := d.stack, held := d.held }

theorem Cell.applyPW_placed (c d : Cell) (w : PW) : (c.placed d).applyPW w = (c.applyPW w).placed d := by
  cases w <;> simp only [Cell.applyPW] <;>
    simp only [Cell.ws, Cell.wp, Cell.wlc, Cell.orLanes, Cell.setPst, Cell.setPvis, Cell.setPot, Cell.placed] <;> (repeat' split) <;> rfl

theorem Cell.fold_placed (l : List PW) (c d : Cell) : l.foldl Cell.applyPW (c.placed d) = (l.foldl Cell.applyPW c).placed d := by
  induction l generalizing c with
  | nil => rfl
  | cons x t ih => rw [List.foldl_cons, List.foldl_cons, Cell.applyPW_placed, ih]

/-- A write that zeroes pot rows: it stands before the others of its word (R179). -/
def PW.isZero : PW → Bool
  | .potZero _ _ => true
  | _ => false

theorem fold_snd (l : List (Nat × PW)) (n : Nat) (c : Cell) :
    (l.map (fun w => (⟨n + w.1, w.2⟩ : Pend))).foldl (fun c x => c.applyPW x.w) c = (l.map Prod.snd).foldl Cell.applyPW c := by
  induction l generalizing c with
  | nil => rfl
  | cons x t ih => simp only [List.map_cons, List.foldl_cons]; exact ih _

theorem filter_pend (p : Nat → Bool) (q : Nat → PW → Bool) (l : List (Nat × PW)) (n : Nat) (h : ∀ m w, q (n + m) w = p m) :
    (l.map (fun w => (⟨n + w.1, w.2⟩ : Pend))).filter (fun x => q x.due x.w) = (l.filter (fun x => p x.1)).map (fun w => ⟨n + w.1, w.2⟩) := by
  induction l with
  | nil => rfl
  | cons x t ih => simp only [List.map_cons, List.filter_cons, h, ih]; split <;> rfl

theorem filter_pendW (p : PW → Bool) (l : List (Nat × PW)) (n : Nat) :
    (l.map (fun w => (⟨n + w.1, w.2⟩ : Pend))).filter (fun x => p x.w) = (l.filter (fun x => p x.2)).map (fun w => ⟨n + w.1, w.2⟩) := by
  induction l with
  | nil => rfl
  | cons x t ih => simp only [List.map_cons, List.filter_cons, ih]; split <;> rfl

/-- Writes of a word in the order in which they count. -/
def laterWrites (l : List (Nat × PW)) : List (Nat × PW) :=
  l.filter (fun x => x.2.isZero) ++ (l.filter (fun x => !x.2.isZero)).filter (fun x => x.1 != 0)

theorem WordOut.ofSlot_eq (o : SlotOut) (b : WordOut) :
    WordOut.ofSlot o b = { b with
      writes := laterWrites o.writes
      now := ((o.writes.filter (fun x => !x.2.isZero)).filter (fun x => x.1 == 0)).map Prod.snd
      acts := o.acts, pulls := [] } := by
  unfold WordOut.ofSlot laterWrites
  generalize hz : o.writes.filter (fun x => x.2.isZero) = Z
  have a : ∀ f, (∀ x, f x = PW.isZero (Prod.snd x)) → o.writes.filter f = Z :=
    fun f h => hz ▸ List.filter_congr (fun x _ => h x)
  have b : ∀ f, (∀ x, f x = !PW.isZero (Prod.snd x)) → o.writes.filter f = o.writes.filter (fun x => !x.2.isZero) :=
    fun f h => List.filter_congr (fun x _ => h x)
  rw [a _ (fun x => by cases x.2 <;> rfl), b _ (fun x => by cases x.2 <;> rfl)]

/-- The cell behind a word in sequence: writes of latency 0 and 1 have landed, the rest is in flight. -/
theorem Cell.after_seq {c : Cell} (h5 : c.held = none) (h6 : c.bubble = false) (h7 : c.pend = []) (w : HWord) (out : SlotOut)
    (hctl : out.ctl = .seq) (sched : Nat) :
    (c.holding w).after out sched =
      (((((laterWrites out.writes).filter (fun x => decide (x.1 ≤ 1))).filter (fun x => x.2.isClear) ++
        ((laterWrites out.writes).filter (fun x => decide (x.1 ≤ 1))).filter (fun x => !x.2.isClear)).map Prod.snd).foldl Cell.applyPW
        ((((out.writes.filter (fun x => !x.2.isZero)).filter (fun x => x.1 == 0)).map Prod.snd).foldl Cell.applyPW c.stepped)).inFlights sched
        ((laterWrites out.writes).filter (fun x => !decide (x.1 ≤ 1))) := by
  unfold Cell.after
  rw [hctl]
  unfold Cell.landed Cell.issued
  rw [WordOut.ofSlot_eq]
  have e2 : (c.holding w) = ({ c with held := some w } : Cell) := rfl
  generalize hnow : ((out.writes.filter (fun x => !x.2.isZero)).filter (fun x => x.1 == 0)).map Prod.snd = now
  dsimp only
  generalize laterWrites out.writes = L
  have p0 : (now.foldl Cell.applyPW (c.holding w)).pend = [] := by rw [(Cell.foldNow now _).2.1]; exact h7
  simp only [p0, List.nil_append]
  rw [filter_pend (fun m => decide (m ≤ 1)) (fun d _ => decide (d ≤ sched + 1)) L sched (by intro m w; simp)]
  rw [filter_pend (fun m => !decide (m ≤ 1)) (fun d _ => !decide (d ≤ sched + 1)) L sched (by intro m w; simp)]
  rw [filter_pendW PW.isClear, filter_pendW (fun w => !w.isClear), ← List.map_append, fold_snd]
  generalize ((L.filter (fun x => decide (x.1 ≤ 1))).filter (fun x => x.2.isClear) ++ (L.filter (fun x => decide (x.1 ≤ 1))).filter (fun x => !x.2.isClear)).map Prod.snd = due
  have hs : c.stepped.pend = [] := h7
  -- both sides are the same cell up to the fields that the control flow sets
  have key : ∀ (a : Cell) (l : List PW), (l.foldl Cell.applyPW a).placed a = l.foldl Cell.applyPW a := by
    intro a l
    have := Cell.fold_placed l a a
    have ea : a.placed a = a := rfl
    rw [ea] at this
    exact this.symm
  have e1 : now.foldl Cell.applyPW (c.holding w) = (now.foldl Cell.applyPW c).placed (c.holding w) := by
    have : c.holding w = c.placed (c.holding w) := rfl
    rw [this, Cell.fold_placed]; rfl
  have e3 : now.foldl Cell.applyPW c.stepped = (now.foldl Cell.applyPW c).placed c.stepped := by
    have : c.stepped = c.placed c.stepped := rfl
    rw [this, Cell.fold_placed]; rfl
  rw [e1, e3]
  generalize now.foldl Cell.applyPW c = b
  let d : Cell := { c with
    pend := (L.filter (fun x => !decide (x.1 ≤ 1))).map (fun w => ⟨sched + w.1, w.2⟩), last := c.pc, pc := c.pc + 1, bubble := false, held := none }
  have lhs : due.foldl Cell.applyPW (b.placed d) = (due.foldl Cell.applyPW b).placed d := Cell.fold_placed _ _ _
  have rhs : (due.foldl Cell.applyPW (b.placed c.stepped)) = (due.foldl Cell.applyPW b).placed c.stepped := Cell.fold_placed _ _ _
  rw [rhs]
  refine Eq.trans ?_ (Eq.trans lhs ?_)
  · rfl
  · unfold Cell.inFlights Cell.placed
    simp only [d, Cell.stepped, h5, h6, h7, List.nil_append]

/-- Writes of a latency of 2 or more, none of which zeroes pot rows, are all in flight. -/
theorem Cell.after_flying {c : Cell} (h5 : c.held = none) (h6 : c.bubble = false) (h7 : c.pend = []) (w : HWord) (out : SlotOut)
    (hctl : out.ctl = .seq) (sched : Nat) (h : ∀ x ∈ out.writes, 2 ≤ x.1 ∧ x.2.isZero = false) :
    (c.holding w).after out sched = c.stepped.inFlights sched out.writes := by
  have z0 : out.writes.filter (fun x => !x.2.isZero) = out.writes := by
    rw [List.filter_eq_self]; intro x hx; simp [(h x hx).2]
  have l0 : laterWrites out.writes = out.writes := by
    unfold laterWrites
    rw [List.filter_eq_nil_iff.mpr (by intro x hx; simp [(h x hx).2]), List.nil_append, z0, List.filter_eq_self]
    intro x hx
    have := (h x hx).1
    simp only [bne_iff_ne, ne_eq]
    omega
  rw [Cell.after_seq h5 h6 h7 w out hctl sched, l0]
  have n0 : (out.writes.filter (fun x => !x.2.isZero)).filter (fun x => x.1 == 0) = [] := by
    rw [List.filter_eq_nil_iff]; intro x hx; have := (h x (List.mem_of_mem_filter hx)).1; simp; omega
  have d0 : out.writes.filter (fun x => decide (x.1 ≤ 1)) = [] := by
    rw [List.filter_eq_nil_iff]; intro x hx; have := (h x hx).1; simp; omega
  have f0 : out.writes.filter (fun x => !decide (x.1 ≤ 1)) = out.writes := by
    rw [List.filter_eq_self]; intro x hx; have := (h x hx).1; simp; omega
  rw [n0, d0, f0]; rfl

/-! ### The V slot -/

/-- Lane flags are written with the latency of their instruction. -/
theorem mem_flagWrites {lat : Nat} {l : List (Nat × Fl)} {x : Nat × PW} (h : x ∈ flagWrites lat l) : x.1 = lat ∧ x.2.isZero = false ∧ x.2.isOwn = true := by
  unfold flagWrites at h
  dsimp only at h
  split at h
  · simp at h
  · simp at h; rcases h with rfl | rfl <;> exact ⟨rfl, rfl, rfl⟩

/-- The values and the lane flags of a vector instruction have its latency. -/
theorem mem_vOuts {lat vd : Nat} {t : EFmt} {l : List (Nat × Fl)} {x : Nat × PW} (h : x ∈ vOuts lat vd t l) : x.1 = lat ∧ x.2.isZero = false ∧ x.2.isOwn = true := by
  unfold vOuts at h
  rcases List.mem_cons.mp h with rfl | h
  · exact ⟨rfl, rfl, rfl⟩
  · exact mem_flagWrites h

/-- An operation of the V slot whose writes all have a latency of 2 or more: they are in flight behind its word. -/
theorem Quiet.v_fly {s : State} {k : CellRef} {g : BitVec 4} (h : Quiet s k) (hg : (s.cell k).guard g = true) {op : VOp} {ws : List (Nat × PW)}
    (hd : op.decodeFault (isMemCell k) = none) (he : evalV (s.updCell k (fun c => c.holding { vg := g, v := op })) k op = .ws ws)
    (hw : ∀ x ∈ ws, 2 ≤ x.1 ∧ x.2.isZero = false ∧ x.2.isOwn = true) :
    Issues s k (.next (drive k { vg := g, v := op } s)) ((s.cell k).stepped.inFlights (s.isl k.isl).sched ws) := by
  have := h.v_slot hg hd he rfl rfl rfl (fun x hx => (hw x hx).2.2)
  rwa [Cell.after_flying h.1.2.2.2.2.2.2.1 h.1.2.2.2.2.2.2.2.1 h.1.2.2.2.2.2.2.2.2.1 _ _ rfl _ (fun x hx => ⟨(hw x hx).1, (hw x hx).2.1⟩)] at this

/-- An operation of the V slot whose writes all have latency 1: they have landed behind its word. -/
theorem Quiet.v_now {s : State} {k : CellRef} {g : BitVec 4} (h : Quiet s k) (hg : (s.cell k).guard g = true) {op : VOp} {ws : List (Nat × PW)}
    (hd : op.decodeFault (isMemCell k) = none) (he : evalV (s.updCell k (fun c => c.holding { vg := g, v := op })) k op = .ws ws)
    (hw : ∀ x ∈ ws, x.1 = 1 ∧ x.2.isZero = false ∧ x.2.isClear = false ∧ x.2.isOwn = true) :
    Issues s k (.next (drive k { vg := g, v := op } s)) (ws.foldl (fun c w => c.applyPW w.2) (s.cell k).stepped) := by
  have := h.v_slot hg hd he rfl rfl rfl (fun x hx => (hw x hx).2.2.2)
  rw [Cell.after_seq h.1.2.2.2.2.2.2.1 h.1.2.2.2.2.2.2.2.1 h.1.2.2.2.2.2.2.2.2.1 _ _ rfl] at this
  have z0 : ws.filter (fun x => !x.2.isZero) = ws := by
    rw [List.filter_eq_self]; intro x hx; simp [(hw x hx).2.1]
  have l0 : laterWrites ws = ws := by
    unfold laterWrites
    rw [List.filter_eq_nil_iff.mpr (by intro x hx; simp [(hw x hx).2.1]), List.nil_append, z0, List.filter_eq_self]
    intro x hx; simp [(hw x hx).1]
  have n0 : ws.filter (fun x => x.1 == 0) = [] := by
    rw [List.filter_eq_nil_iff]; intro x hx; simp [(hw x hx).1]
  have d1 : ws.filter (fun x => decide (x.1 ≤ 1)) = ws := by
    rw [List.filter_eq_self]; intro x hx; simp [(hw x hx).1]
  have d2 : ws.filter (fun x => !decide (x.1 ≤ 1)) = [] := by
    rw [List.filter_eq_nil_iff]; intro x hx; simp [(hw x hx).1]
  have c1 : ws.filter (fun x => x.2.isClear) = [] := by
    rw [List.filter_eq_nil_iff]; intro x hx; simp [(hw x hx).2.2.1]
  have c2 : ws.filter (fun x => !x.2.isClear) = ws := by
    rw [List.filter_eq_self]; intro x hx; simp [(hw x hx).2.2.1]
  simp only [SlotOut.ws, l0, z0, n0, d1, d2, c1, c2, List.nil_append, List.map_nil, List.foldl_nil, List.foldl_map] at this
  have e : ∀ c : Cell, c.inFlights (s.isl k.isl).sched [] = c := by intro c; simp [Cell.inFlights]
  rwa [e] at this

end Sys2Proof.Machine
end

