-- ==== Sys2Proof/WellFormed.lean ====
section
/-! DEFINITION. Well-formed commands: every operand lies in the range that its field or its unit has in the spec. Operands
held as bit vectors are in range by their type; a cell that this part's grade lacks (R3) is a matter of the state, not of
the command. A program fault is no ill-formed command: a reserved field of a schedule word has its own effect (R137). -/

namespace Sys2Proof

/-- A cell of the package: 192 islands (R49) of 16 cells (R10). -/
def CellRef.wf (c : CellRef) : Bool := decide (c.isl < 192) && decide (c.c < 16)

/-- The home of a sync word: a word of a memory cell's 1 MiB SRAM or one of the 16,384 window words of a die (R308, R309). -/
def Home.wf : Home → Bool
  | .sram cell word => cell.wf && decide (word < 131072)
  | .window die index => decide (die < 2) && decide (index < 16384)

/-- Bad symbols of a 36/32 block: indices 0 to 35 (R295). -/
def upsetWf (u : Upset) : Bool := u.all (fun x => decide (x.1 < 36))

/-- The fields of JOB_ADMIT in their widths (R419). -/
def AdmitReq.wf (r : AdmitReq) : Bool :=
  decide (r.window < 2 ^ 32) && decide (r.length < 2 ^ 32) && decide (r.seats < 256) && decide (r.dsize < 256) &&
    decide (r.grant < 2 ^ 16) && decide (r.nranks < 2 ^ 16) && decide (r.rank < 2 ^ 16)

/-- What firmware writes for a table's maps: bytes at physical addresses of 48 bits (R340), and the pages of seats at
addresses of 48 bits (R31). -/
def TblMaps.wf (m : TblMaps) : Bool :=
  m.bytes.all (fun x => decide (x.1 < 2 ^ 48)) && m.kv.all (fun l => l.all (fun a => decide (a < 2 ^ 48)))

/-- A list of (VA, length) regions in their widths (R420). -/
def regionsWf (l : List (Nat × Nat)) : Bool := l.all (fun x => decide (x.1 < 2 ^ 64) && decide (x.2 < 2 ^ 64))

/-- The fields of CMD_SUBMIT in their widths (R420). -/
def CmdReq.wf (r : CmdReq) : Bool :=
  decide (r.job < 2 ^ 64) && decide (r.limit < 2 ^ 64) && regionsWf r.inputs && regionsWf r.outputs &&
    decide (r.inputs.length < 256) && decide (r.outputs.length < 256) && decide (r.seqs.length < 256) &&
    r.seqs.all (fun q => decide (q < 2 ^ 16)) && decide (r.params.length < 2 ^ 16)

/-- What an uncorrectable event names: islands of the package, tables, physical addresses of 48 bits (R504). -/
def UeSource.wf : UeSource → Bool
  | .block pa => decide (pa < 2 ^ 48)
  | .kitty _ _ => true
  | .island isl _ => decide (isl < 192)
  | .tablePacket t _ => decide (t < 256)
  | .tableMap t pa => decide (t < 256) && decide (pa < 2 ^ 48)
  | .firmware pa _ => decide (pa < 2 ^ 48)
  | .unowned pa => decide (pa < 2 ^ 48)

/-- JTAG instructions: addresses of 48 bits, one of the 32 steward cores (R454, R533). -/
def JtagInst.wf : JtagInst → Bool
  | .idcode => true
  | .bypass => true
  | .boundary => true
  | .extest => true
  | .clamp => true
  | .readControl a => decide (a < 2 ^ 48)
  | .readScan a => decide (a < 2 ^ 48)
  | .writeControl a _ => decide (a < 2 ^ 48)
  | .haltCore core => decide (core < 32)

/-- The operands of a command lie in their ranges. -/
def Instr.wf : Instr → Bool
  | .nop c => c.wf
  | .add c _ _ _ _ => c.wf
  | .sub c _ _ _ _ => c.wf
  | .and c _ _ _ _ => c.wf
  | .or c _ _ _ _ => c.wf
  | .xor c _ _ _ _ => c.wf
  | .shl c _ _ _ _ => c.wf
  | .shr c _ _ _ _ => c.wf
  | .sra c _ _ _ _ => c.wf
  | .minS c _ _ _ _ => c.wf
  | .maxS c _ _ _ _ => c.wf
  | .minu c _ _ _ _ => c.wf
  | .maxu c _ _ _ _ => c.wf
  | .mul c _ _ _ _ => c.wf
  | .mulhu c _ _ _ _ => c.wf
  | .mulh c _ _ _ _ => c.wf
  | .addi c _ _ _ _ => c.wf
  | .andi c _ _ _ _ => c.wf
  | .ori c _ _ _ _ => c.wf
  | .xori c _ _ _ _ => c.wf
  | .shli c _ _ _ _ => c.wf
  | .shri c _ _ _ _ => c.wf
  | .srai c _ _ _ _ => c.wf
  | .movi c _ _ _ => c.wf
  | .shori c _ _ _ => c.wf
  | .cmpEq c _ _ _ _ => c.wf
  | .cmpNe c _ _ _ _ => c.wf
  | .cmpLt c _ _ _ _ => c.wf
  | .cmpGe c _ _ _ _ => c.wf
  | .cmpLtu c _ _ _ _ => c.wf
  | .cmpGeu c _ _ _ _ => c.wf
  | .cmpiEq c _ _ _ _ => c.wf
  | .cmpiNe c _ _ _ _ => c.wf
  | .cmpiLt c _ _ _ _ => c.wf
  | .cmpiGe c _ _ _ _ => c.wf
  | .cmpiLtu c _ _ _ _ => c.wf
  | .cmpiGeu c _ _ _ _ => c.wf
  | .plogAnd c _ _ _ _ => c.wf
  | .plogOr c _ _ _ _ => c.wf
  | .plogXor c _ _ _ _ => c.wf
  | .plogAndn c _ _ _ _ => c.wf
  | .ld8 c _ _ _ _ => c.wf
  | .ld16 c _ _ _ _ => c.wf
  | .ld32 c _ _ _ _ => c.wf
  | .ld64 c _ _ _ _ => c.wf
  | .st8 c _ _ _ _ => c.wf
  | .st16 c _ _ _ _ => c.wf
  | .st32 c _ _ _ _ => c.wf
  | .st64 c _ _ _ _ => c.wf
  | .mfsr c _ _ _ => c.wf
  | .mtsr c _ _ _ => c.wf
  | .br c _ _ => c.wf
  | .brr c _ _ => c.wf
  | .call c _ _ => c.wf
  | .ret c _ => c.wf
  | .lsetup c _ _ _ _ => c.wf
  | .lsetupr c _ _ _ _ => c.wf
  | .assertP c _ _ => c.wf
  | .endProg c _ => c.wf
  | .pcOverrun c => c.wf
  | .xNop c => c.wf
  | .xmov c _ _ _ _ _ => c.wf
  | .xsend c _ _ _ _ _ => c.wf
  | .xrecv c _ _ _ _ _ => c.wf
  | .xctl c _ _ _ _ => c.wf
  | .pullPoint c => c.wf
  | .stallRelease isl => decide (isl < 192)
  | .sdesc c _ _ _ => c.wf
  | .sstart c _ _ _ => c.wf
  | .sstop c _ _ => c.wf
  | .swait c _ _ => c.wf
  | .ldfe c _ _ _ _ _ => c.wf
  | .ldff c _ _ _ _ _ => c.wf
  | .ldxx c _ _ _ _ _ => c.wf
  | .ldxe c _ _ _ _ _ => c.wf
  | .stef c _ _ _ _ _ => c.wf
  | .stxf c _ _ _ _ _ => c.wf
  | .stxe c _ _ _ _ _ => c.wf
  | .stff c _ _ _ _ _ => c.wf
  | .rwait c _ _ _ _ => c.wf
  | .rpass c _ _ _ _ => c.wf
  | .rset c _ _ _ _ => c.wf
  | .chsend c _ _ _ _ => c.wf
  | .svcfg c _ _ => c.wf
  | .svclr c _ _ => c.wf
  | .svclrAll c _ => c.wf
  | .svflush c _ _ _ _ _ => c.wf
  | .mnop c => c.wf
  | .mcfg c _ _ => c.wf
  | .mma c _ _ _ _ _ _ _ => c.wf
  | .mclr c _ _ => c.wf
  | .mout c _ _ _ _ _ _ _ => c.wf
  | .moutRaw c _ _ _ _ _ => c.wf
  | .mmrg c _ _ _ _ _ => c.wf
  | .vnop c => c.wf
  | .vadd c _ _ _ _ _ _ _ => c.wf
  | .vsub c _ _ _ _ _ _ _ => c.wf
  | .vmul c _ _ _ _ _ _ _ => c.wf
  | .vfma c _ _ _ _ _ _ _ => c.wf
  | .vdiv c _ _ _ _ _ _ _ => c.wf
  | .vmin c _ _ _ _ _ _ => c.wf
  | .vmax c _ _ _ _ _ _ => c.wf
  | .vsqrt c _ _ _ _ _ => c.wf
  | .vrsqrt c _ _ _ _ _ => c.wf
  | .vexp2 c _ _ _ _ _ => c.wf
  | .vabs c _ _ _ _ => c.wf
  | .vneg c _ _ _ _ => c.wf
  | .vceq c _ _ _ _ _ _ => c.wf
  | .vclt c _ _ _ _ _ _ => c.wf
  | .vcle c _ _ _ _ _ _ => c.wf
  | .vcun c _ _ _ _ _ _ => c.wf
  | .vsel c _ _ _ _ _ _ => c.wf
  | .vany c _ _ _ => c.wf
  | .vall c _ _ _ => c.wf
  | .vand c _ _ _ _ _ => c.wf
  | .vor c _ _ _ _ _ => c.wf
  | .vxor c _ _ _ _ _ => c.wf
  | .vshl c _ _ _ _ _ => c.wf
  | .vshr c _ _ _ _ _ => c.wf
  | .vsra c _ _ _ _ _ => c.wf
  | .vbcast c _ _ _ _ => c.wf
  | .viota c _ _ _ => c.wf
  | .vext c _ _ _ _ _ => c.wf
  | .vrot c _ _ _ _ => c.wf
  | .vcfg c _ _ => c.wf
  | .vcvt c _ _ _ _ _ _ _ => c.wf
  | .vunpk c _ _ _ _ _ _ _ => c.wf
  | .vpack c _ _ _ _ _ _ _ => c.wf
  | .vpot c _ _ _ _ _ _ _ => c.wf
  | .vpota c _ _ _ _ _ _ _ _ => c.wf
  | .vpotz c _ _ _ _ _ _ _ => c.wf
  | .vpotza c _ _ _ _ _ _ _ _ => c.wf
  | .vtredSum c _ _ _ _ _ _ => c.wf
  | .vtredMax c _ _ _ _ _ _ => c.wf
  | .vtredMin c _ _ _ _ _ _ => c.wf
  | .vtredArgmax c _ _ _ _ _ _ => c.wf
  | .vtredArgmin c _ _ _ _ _ _ => c.wf
  | .vredSum c _ _ _ _ _ => c.wf
  | .vredMax c _ _ _ _ _ => c.wf
  | .vredMin c _ _ _ _ _ => c.wf
  | .vredArgmax c _ _ _ _ _ => c.wf
  | .vredArgmin c _ _ _ _ _ => c.wf
  | .vrank c _ _ _ _ _ => c.wf
  | .vgetf c _ _ => c.wf
  | .vgetfClr c _ _ => c.wf
  | .insideTokenArrive c _ upset => c.wf && upsetWf upset
  | .fifoTokenArrive c _ upset => c.wf && upsetWf upset
  | .fifoHeadDeliver c _ => c.wf
  | .switchFire c _ => c.wf
  | .mergeFire c _ => c.wf
  | .steerOutputDrive c _ _ => c.wf
  | .streamBeatRequest c _ => c.wf
  | .streamBeatWrite c _ => c.wf
  | .streamBeatLand c _ => c.wf
  | .streamWriteDone c _ => c.wf
  | .streamStopDone c _ => c.wf
  | .streamResume c _ => c.wf
  | .cellSresumeWrite c _ => c.wf
  | .damperWindow isl => decide (isl < 192)
  | .sieveBeatLand c off data _ mesh => c.wf && decide (off < 0x100000) && decide (data.length ≤ 32) && mesh.all (fun x => decide (x.1 < 256))
  | .sieveFlushBeat c => c.wf
  | .sieveFlushFill c => c.wf
  | .meshHop p => p.us.all (fun x => upsetWf x.2)
  | .meshPacketEject _ us => us.all (fun x => upsetWf x.2)
  | .multicastWrite p => decide (p.at_ < 192) && p.us.all (fun x => upsetWf x.2)
  | .vaultRead isl upset => decide (isl < 192) && upsetWf upset
  | .vaultWrite isl upset => decide (isl < 192) && upsetWf upset
  | .farDramAccess ch upset => decide (ch < 32) && upsetWf upset
  | .versionCopyDone _ => true
  | .versionSweepDone t => decide (t < 256)
  | .stepCopyPage t => decide (t < 256)
  | .stepCopyPageDone t => decide (t < 256)
  | .mmuInv _ _ _ _ => true
  | .mmuInvDone _ => true
  | .mmuPoolPush _ _ => true
  | .rakeBlock _ _ upset => upsetWf upset
  | .rakeCfgWrite _ _ => true
  | .rakeRateWrite _ _ => true
  | .syncOperation _ => true
  | .syncReply _ => true
  | .syncRetry _ => true
  | .syncDeadline _ => true
  | .dealerSatisfy _ => true
  | .dealerTimeout _ => true
  | .roundRelease home => home.wf
  | .syncInv _ _ _ _ => true
  | .syncInvDone _ => true
  | .stewardFeld core _ _ _ _ => decide (core < 32)
  | .stewardFest core _ _ _ _ => decide (core < 32)
  | .stewardRound core _ _ _ _ => decide (core < 32)
  | .stewardChannelSend core _ => decide (core < 32)
  | .channelPlace _ _ => true
  | .channelPublish _ _ => true
  | .chnPosHeadWrite _ _ _ => true
  | .channelOpen _ _ base size_log2 _ _ _ => decide (base < 2 ^ 48) && decide (size_log2 < 32)
  | .channelOrphan _ _ => true
  | .mbxDataWrite _ m _ _ => decide (m < 288)
  | .mbxTake _ m => decide (m < 288)
  | .mbxRing _ _ => true
  | .mbxBellClear _ _ => true
  | .jobAdmit _ req choice => req.wf && choice.maps.wf
  | .jobPlace job _ => decide (job < 2 ^ 64)
  | .grantEnd t => decide (t < 256)
  | .cmdLimitExpiry t => decide (t < 256)
  | .islWdogExpiry isl => decide (isl < 192)
  | .tblReqDeal t _ => decide (t < 256)
  | .dealCheck t => decide (t < 256)
  | .dealGo t => decide (t < 256)
  | .dealLoadDone isl => decide (isl < 192)
  | .tblReqCommit t r =>
      decide (t < 256) && decide (r.sizes.length ≤ 16) && r.sizes.all (fun x => decide (x.getD 0 < 2 ^ 64)) && r.reports.all (fun x => decide (x < 2 ^ 16))
  | .commitLocalStep t => decide (t < 256)
  | .tblReqKill r => decide (r.table < 256)
  | .killRelease t => decide (t < 256)
  | .tblReqCancel t => decide (t < 256)
  | .tblReqScanOut t => decide (t < 256)
  | .tblReqScanIn t => decide (t < 256)
  | .tblReqResume t => decide (t < 256)
  | .meldOpen _ _ => true
  | .meldStage _ _ => true
  | .meldCheck _ => true
  | .meldApply _ => true
  | .meldAbort _ => true
  | .gulFrameReceive link _ _ => decide (link < 32)
  | .gulAckTimeout link => decide (link < 32)
  | .gulPacketRoute link => decide (link < 32)
  | .gulRemoteAdmit _ => true
  | .gulRemoteWrite _ => true
  | .gulRemoteRead _ => true
  | .gulRetryResend _ => true
  | .gulQopRead core _ _ _ _ _ => decide (core < 32)
  | .gulQopWrite core _ _ _ _ _ => decide (core < 32)
  | .gulQopCollective core _ _ _ => decide (core < 32)
  | .gulQopDone core => decide (core < 32)
  | .collectiveUnitCombine t _ u => decide (t < 256) && decide (u < 2 ^ 32)
  | .commandStart r =>
    decide (r.table < 256) && decide (r.msg.num < 2 ^ 64) && decide (r.msg.seqs.length ≤ 64) && r.msg.seqs.all (fun q => decide (q < 2 ^ 16))
  | .prepareMsg m => decide (m.table < 256)
  | .readyMsg m child => decide (m.table < 256) && decide (child < 2 ^ 16)
  | .commitMsg m => decide (m.table < 256)
  | .abortMsg m => decide (m.table < 256)
  | .killreq m => decide (m.table < 256)
  | .doneMsg m child => decide (m.table < 256) && decide (child < 2 ^ 16)
  | .decideTimeout t => decide (t < 256)
  | .kittyPut _ _ va _ data => decide (va < 2 ^ 48) && decide (data.length ≤ 256)
  | .kittySeal _ _ count => decide (count < 2 ^ 32)
  | .kittyGet _ _ va len _ => decide (va < 2 ^ 48) && decide (len ≤ 256)
  | .gulRselWrite _ _ => true
  | .routeHoldRelease _ => true
  | .timeExchange _ _ _ _ => true
  | .gtimeStep => true
  | .ethFrameReceive _ bytes => decide (bytes.length ≤ 9216)
  | .pfcPause _ _ _ => true
  | .arpRequest _ _ _ _ => true
  | .neighbourSolicitation _ _ _ => true
  | .icmpEcho _ _ _ _ payload => decide (payload.length ≤ 9216)
  | .reassemblyTimeout session _ => decide (session < 2 ^ 16)
  | .ack _ => true
  | .deviceAckTimer session => decide (session < 2 ^ 16)
  | .messageResend session _ => decide (session < 2 ^ 16)
  | .sessionOpen _ _ _ _ _ _ => true
  | .sessionClose _ _ => true
  | .keepalive _ => true
  | .sessionLost session => decide (session < 2 ^ 16)
  | .lingerExpiry job => decide (job < 2 ^ 64)
  | .netConfig _ _ _ _ _ _ _ => true
  | .mbxWrite _ _ _ => true
  | .windowGrant _ job va len _ _ _ => decide (job < 2 ^ 64) && decide (va < 2 ^ 64) && decide (len < 2 ^ 64)
  | .windowRevoke _ window => decide (window < 2 ^ 32)
  | .qpCreate _ _ _ _ _ => true
  | .qpDestroy _ _ => true
  | .jobEnd _ job => decide (job < 2 ^ 64)
  | .jobAttach _ job _ => decide (job < 2 ^ 64)
  | .cmdSubmit _ req => req.wf
  | .cmdCancel _ job _ => decide (job < 2 ^ 64)
  | .rdmaWrite _ _ _ va data _ => decide (va < 2 ^ 64) && decide (data.length ≤ 2 ^ 32)
  | .rdmaRead _ _ _ va len _ => decide (va < 2 ^ 64) && decide (len < 2 ^ 64)
  | .cnpReceive _ _ => true
  | .roceRateRise _ _ => true
  | .kindlingEntry => true
  | .announce _ => true
  | .loadOffer _ _ length deadline => decide (length < 2 ^ 64) && decide (deadline < 2 ^ 32)
  | .loadData _ offset data => decide (offset < 2 ^ 64) && decide (data.length ≤ 65536)
  | .loadEnd _ => true
  | .loadChecksDone => true
  | .loadDeadline => true
  | .identity _ => true
  | .attest _ _ => true
  | .keystorePut _ slot _ _ _ _ => decide (slot < 256)
  | .powerOn => true
  | .brownOut => true
  | .pinReset => true
  | .watchdog core => decide (core < 32)
  | .rstReq _ _ _ => true
  | .debugRequest _ _ _ => true
  | .clockFailure => true
  | .lockUp core => decide (core < 32)
  | .sourceRelease _ => true
  | .resetNSample _ => true
  | .episodeRelease => true
  | .clkFailover => true
  | .supplyDroop isl extra => decide (isl < 192) && decide (extra < 2 ^ 64)
  | .cappingStep _ _ => true
  | .cappingCalibration r => (match r.vout with | some (_, mv) => decide (mv < 65536) | none => true)
  | .cappingEvent => true
  | .pwrCapWrite _ => true
  | .temperatureThreshold _ _ _ => true
  | .thermalTrip _ => true
  | .throttleRequest _ => true
  | .pinTraceWrite _ => true
  | .smbusRead addr _ => decide (addr < 2 ^ 48)
  | .smbusAlertResponse => true
  | .jtagInstruction inst => inst.wf
  | .ueEvent _ src => src.wf
  | .stopNotice n => decide (n.job < 2 ^ 64)
  | .jobRestart r => decide (r.job < 2 ^ 64)
  | .frameRetire _ frame => decide (frame < 2 ^ 48)
  | .registerParityError c => c.wf
  | .stwWdogExpiry core => decide (core < 32)
  | .stwPet core => decide (core < 32)
  | .registerWrite addr _ => decide (addr < 2 ^ 48)
  | .episodeMinimumEnd => true
  | .coreDrainTimeout core _ => decide (core < 32)
  | .gulrasLinkTrained link _ _ => decide (link < 32)
  | .ethernetPortTrained _ _ => true
  | .lpddr6TrainingDone _ density _ _ _ _ => density != 3
  | .referenceClockPresence _ _ => true
  | .vbatLoss => true
  | .islandClockSlew isl => decide (isl < 192)
  | .traceWordSent => true
  | .stateScanDone t => decide (t < 256)

end Sys2Proof
end

