-- ==== Sys2Proof/Tests/Slice0.lean ====
section
/-! SUPPORT. Tests: ill-formed commands are refused by the check; worked examples of the spec; and, for every statement with
hypotheses, a concrete state and operands that meet them. Expected values come from spec/ (the rule is named) or from
arithmetic by hand. -/

namespace Sys2Proof.Tests

open Sys2Proof Sys2Proof.Machine

/-! ### Helpers -/

/-- The compute cell at the north-west of island 0, and the memory cell east of it. -/
def k0 : CellRef := ⟨0, 0⟩
def k1 : CellRef := ⟨0, 1⟩

/-- The machine after reset with one cell made as given, running. -/
def one (k : CellRef) (c : Cell) : State := State.reset.setCell k { c with run := .running }

/-- The state that an outcome answers. -/
def next (r : Res) : State := match r with | .next t => t | _ => State.reset

/-- Registers set one after the other. -/
def regs (s : State) (l : List (Nat × Word)) : State := l.foldl (fun s x => s.setReg x.1 x.2) s

def hdr : Hdr := ⟨0, 0, 0, 0, 0, 0, 0⟩
def hdrNone : Hdr := ⟨0xFFFF, 0, 0, 0, 0, 0, 0⟩
def req0 : AdmitReq := ⟨0, 0, false, 0, 0, 0, 0, 0, 0, 0, 0⟩
def cmd0 : CmdReq := ⟨0, 0, 0, 0, [], [], [], []⟩
def maps0 : TblMaps := ⟨0, 0, 0, [], []⟩
def start0 : StartMsg := ⟨1, 1, []⟩

theorem quiet_of (s : State) (k : CellRef)
    (h : ((Memory.wf s.mem = true ∧ SMap.wf resetValue s.regs = true ∧ SMap.wf Cell.dflt s.cells = true ∧ SMap.wf Isl.dflt s.isls = true) ∧
        k.isl < 192 ∧ k.c < s.cellCount k.isl ∧ s.islFaulted k.isl = false ∧ (s.isl k.isl).table < 256 ∧
        (s.cell k).run = .running ∧ (s.cell k).held = none ∧ (s.cell k).bubble = false ∧ (s.cell k).pend = [] ∧ (s.cell k).wires = [] ∧
        ((s.isl k.isl).dheld = [] ∧ ∀ c, c < s.cellCount k.isl → (s.cell ⟨k.isl, c⟩).steer = [] ∧ (s.cell ⟨k.isl, c⟩).sieve.intake = [] ∧
          ∀ p, p < 4 → s.headSteers ⟨k.isl, c⟩ p = false) ∧
        ∀ c, c < s.cellCount k.isl → c ≠ k.c →
          (s.cell ⟨k.isl, c⟩).run ≠ .running ∧ (s.cell ⟨k.isl, c⟩).bubble = false ∧ (s.cell ⟨k.isl, c⟩).pend = [] ∧ (s.cell ⟨k.isl, c⟩).wires = []) ∧
      (s.cell k).pc < imemWords k ∧ s.pullsAt k (s.cell k).pc = [] ∧ ∀ l ∈ (s.cell k).loops, l.last ≠ (s.cell k).pc) : Quiet s k := h

theorem canon_of (s : State) (h : Memory.wf s.mem = true ∧ SMap.wf resetValue s.regs = true ∧ SMap.wf Cell.dflt s.cells = true ∧
    SMap.wf Isl.dflt s.isls = true) : s.Canon := h

/-! ### Ill-formed commands -/

theorem test_wf_cell : (Instr.nop ⟨192, 0⟩).wf = false ∧ (Instr.nop ⟨0, 16⟩).wf = false ∧ (Instr.nop ⟨191, 15⟩).wf = true := by decide
theorem test_wf_home : (Instr.roundRelease (.sram ⟨192, 0⟩ 0)).wf = false ∧ (Instr.roundRelease (.sram k1 131072)).wf = false ∧
    (Instr.roundRelease (.window 2 0)).wf = false ∧ (Instr.roundRelease (.window 0 16384)).wf = false := by decide
theorem test_wf_island : (Instr.stallRelease 192).wf = false ∧ (Instr.damperWindow 192).wf = false ∧ (Instr.multicastWrite ⟨192, []⟩).wf = false ∧
    (Instr.islWdogExpiry 192).wf = false ∧ (Instr.dealLoadDone 192).wf = false ∧ (Instr.supplyDroop 192 0).wf = false ∧
    (Instr.islandClockSlew 192).wf = false ∧ (Instr.vaultRead 192 []).wf = false ∧ (Instr.vaultWrite 192 []).wf = false := by decide
theorem test_wf_upset : (Instr.vaultRead 0 [(36, 1)]).wf = false ∧ (Instr.vaultWrite 0 [(36, 1)]).wf = false ∧
    (Instr.insideTokenArrive k0 0 [(36, 1)]).wf = false ∧ (Instr.fifoTokenArrive k0 0 [(36, 1)]).wf = false ∧
    (Instr.meshPacketEject 0 [(0, [(36, 1)])]).wf = false ∧ (Instr.meshHop ⟨0, [(0, [(36, 1)])]⟩).wf = false ∧ (Instr.multicastWrite ⟨0, [(0, [(36, 1)])]⟩).wf = false ∧ (Instr.farDramAccess 0 [(36, 1)]).wf = false ∧ (Instr.rakeBlock 0 0 [(36, 1)]).wf = false := by
  decide
theorem test_wf_far_and_links : (Instr.farDramAccess 32 []).wf = false ∧ (Instr.gulFrameReceive 32 none 0).wf = false ∧
    (Instr.gulAckTimeout 32).wf = false ∧ (Instr.gulPacketRoute 32).wf = false ∧ (Instr.gulrasLinkTrained 32 0 0).wf = false ∧
    (Instr.lpddr6TrainingDone 1 3 false false 0 0).wf = false := by decide
theorem test_wf_core : (Instr.stewardFeld 32 0 0 0 false).wf = false ∧ (Instr.stewardFest 32 0 0 0 false).wf = false ∧
    (Instr.stewardRound 32 0 0 0 false).wf = false ∧ (Instr.stewardChannelSend 32 0).wf = false ∧ (Instr.gulQopRead 32 0 0 false 0 0).wf = false ∧
    (Instr.gulQopWrite 32 0 0 false 0 0).wf = false ∧ (Instr.gulQopCollective 32 0 false 0).wf = false ∧ (Instr.gulQopDone 32).wf = false ∧
    (Instr.watchdog 32).wf = false ∧ (Instr.lockUp 32).wf = false ∧ (Instr.stwWdogExpiry 32).wf = false ∧ (Instr.stwPet 32).wf = false ∧
    (Instr.coreDrainTimeout 32 true).wf = false := by decide
theorem test_wf_table : (Instr.versionSweepDone 256).wf = false ∧ (Instr.stepCopyPage 256).wf = false ∧ (Instr.stepCopyPageDone 256).wf = false ∧
    (Instr.grantEnd 256).wf = false ∧ (Instr.cmdLimitExpiry 256).wf = false ∧ (Instr.tblReqDeal 256 0).wf = false ∧ (Instr.dealCheck 256).wf = false ∧
    (Instr.dealGo 256).wf = false ∧ (Instr.tblReqCommit 256 ⟨false, [], []⟩).wf = false ∧ (Instr.tblReqCommit 0 ⟨false, List.replicate 17 none, []⟩).wf = false ∧
    (Instr.tblReqCommit 0 ⟨false, [some (2 ^ 64)], []⟩).wf = false ∧ (Instr.tblReqCommit 0 ⟨false, [], [2 ^ 16]⟩).wf = false ∧ (Instr.commitLocalStep 256).wf = false ∧
    (Instr.tblReqKill ⟨256, .rerun⟩).wf = false ∧ (Instr.killRelease 256).wf = false ∧ (Instr.tblReqCancel 256).wf = false := by decide
theorem test_wf_table_too : (Instr.tblReqScanOut 256).wf = false ∧ (Instr.tblReqScanIn 256).wf = false ∧ (Instr.tblReqResume 256).wf = false ∧
    (Instr.stateScanDone 256).wf = false ∧ (Instr.commandStart ⟨256, start0⟩).wf = false ∧ (Instr.commandStart ⟨0, { start0 with seqs := [2 ^ 16] }⟩).wf = false ∧
    (Instr.commandStart ⟨0, { start0 with seqs := List.replicate 65 0 }⟩).wf = false ∧ (Instr.prepareMsg ⟨256, 0⟩).wf = false ∧
    (Instr.readyMsg ⟨256, 0⟩ 0).wf = false ∧ (Instr.readyMsg ⟨0, 0⟩ 65536).wf = false ∧ (Instr.commitMsg ⟨⟨256, 0⟩, false⟩).wf = false ∧ (Instr.abortMsg ⟨⟨256, 0⟩, 0⟩).wf = false ∧
    (Instr.killreq ⟨256, 0⟩).wf = false ∧ (Instr.doneMsg ⟨256, 0⟩ 0).wf = false ∧ (Instr.doneMsg ⟨0, 0⟩ 65536).wf = false ∧ (Instr.decideTimeout 256).wf = false ∧
    (Instr.collectiveUnitCombine 256 0 0).wf = false ∧ (Instr.collectiveUnitCombine 0 0 (2 ^ 32)).wf = false := by decide
theorem test_wf_sieve_beat : (Instr.sieveBeatLand k1 0x100000 [] none none).wf = false ∧
    (Instr.sieveBeatLand k1 0 (List.replicate 33 0) none none).wf = false ∧ (Instr.sieveBeatLand k1 0 [] none (some (256, 0))).wf = false := by decide
theorem test_wf_channels : (Instr.channelOpen 0 0 (2 ^ 48) 12 0 false 0).wf = false ∧ (Instr.channelOpen 0 0 0 32 0 false 0).wf = false ∧
    (Instr.mbxDataWrite 0 288 .other 0).wf = false ∧ (Instr.mbxTake 0 288).wf = false := by decide
theorem test_wf_admit : (Instr.jobAdmit hdr { req0 with window := 2 ^ 32 } ⟨0, maps0⟩).wf = false ∧ (Instr.jobAdmit hdr { req0 with length := 2 ^ 32 } ⟨0, maps0⟩).wf = false ∧
    (Instr.jobAdmit hdr { req0 with seats := 256 } ⟨0, maps0⟩).wf = false ∧ (Instr.jobAdmit hdr { req0 with dsize := 256 } ⟨0, maps0⟩).wf = false ∧
    (Instr.jobAdmit hdr { req0 with grant := 2 ^ 16 } ⟨0, maps0⟩).wf = false ∧ (Instr.jobAdmit hdr { req0 with nranks := 2 ^ 16 } ⟨0, maps0⟩).wf = false ∧
    (Instr.jobAdmit hdr { req0 with rank := 2 ^ 16 } ⟨0, maps0⟩).wf = false ∧ (Instr.jobAdmit hdr req0 ⟨0, maps0⟩).wf = true ∧
    (Instr.jobAdmit hdr req0 ⟨0, { maps0 with bytes := [(2 ^ 48, [])] }⟩).wf = false ∧
    (Instr.jobAdmit hdr req0 ⟨0, { maps0 with kv := [[2 ^ 48]] }⟩).wf = false := by decide
theorem test_wf_submit : (Instr.cmdSubmit hdr { cmd0 with job := 2 ^ 64 }).wf = false ∧ (Instr.cmdSubmit hdr { cmd0 with limit := 2 ^ 64 }).wf = false ∧
    (Instr.cmdSubmit hdr { cmd0 with inputs := [(2 ^ 64, 0)] }).wf = false ∧ (Instr.cmdSubmit hdr { cmd0 with outputs := [(0, 2 ^ 64)] }).wf = false ∧
    (Instr.cmdSubmit hdr { cmd0 with seqs := [2 ^ 16] }).wf = false ∧ (Instr.cmdSubmit hdr cmd0).wf = true := by decide
set_option maxRecDepth 4000 in
theorem test_wf_submit_counts : (Instr.cmdSubmit hdr { cmd0 with inputs := List.replicate 256 (0, 0) }).wf = false ∧
    (Instr.cmdSubmit hdr { cmd0 with outputs := List.replicate 256 (0, 0) }).wf = false ∧
    (Instr.cmdSubmit hdr { cmd0 with seqs := List.replicate 256 0 }).wf = false := by decide
theorem test_wf_submit_params (l : List Byte) (h : l.length = 2 ^ 16) : (Instr.cmdSubmit hdr { cmd0 with params := l }).wf = false := by
  have hl : decide (l.length < 2 ^ 16) = false := decide_eq_false (by omega)
  simp only [Instr.wf, CmdReq.wf, hl, Bool.and_false]
theorem test_wf_jobs : (Instr.jobPlace (2 ^ 64) 0).wf = false ∧ (Instr.lingerExpiry (2 ^ 64)).wf = false ∧ (Instr.jobEnd hdr (2 ^ 64)).wf = false ∧
    (Instr.jobAttach hdr (2 ^ 64) 0).wf = false ∧ (Instr.cmdCancel hdr (2 ^ 64) 0).wf = false ∧ (Instr.stopNotice ⟨2 ^ 64, 0⟩).wf = false ∧
    (Instr.jobRestart ⟨2 ^ 64, .own⟩).wf = false := by decide
set_option maxRecDepth 2000 in
theorem test_wf_kitties : (Instr.kittyPut ⟨⟨0, 0⟩, 0⟩ 0 (2 ^ 48) false []).wf = false ∧ (Instr.kittyPut ⟨⟨0, 0⟩, 0⟩ 0 0 false (List.replicate 257 0)).wf = false ∧
    (Instr.kittySeal ⟨⟨0, 0⟩, 0⟩ 0 (2 ^ 32)).wf = false ∧ (Instr.kittyGet ⟨0, 0⟩ 0 (2 ^ 48) 0 0).wf = false ∧ (Instr.kittyGet ⟨0, 0⟩ 0 0 257 0).wf = false := by decide
theorem test_wf_sessions : (Instr.reassemblyTimeout 65536 0).wf = false ∧ (Instr.deviceAckTimer 65536).wf = false ∧
    (Instr.messageResend 65536 0).wf = false ∧ (Instr.sessionLost 65536).wf = false ∧ (Instr.windowRevoke hdr (2 ^ 32)).wf = false := by decide
theorem test_wf_windows : (Instr.windowGrant hdr (2 ^ 64) 0 0 true true 0).wf = false ∧ (Instr.windowGrant hdr 0 (2 ^ 64) 0 true true 0).wf = false ∧
    (Instr.windowGrant hdr 0 0 (2 ^ 64) true true 0).wf = false ∧ (Instr.rdmaWrite 0 0 0 (2 ^ 64) [] false).wf = false ∧
    (Instr.rdmaRead 0 0 0 (2 ^ 64) 0 false).wf = false ∧ (Instr.rdmaRead 0 0 0 0 (2 ^ 64) false).wf = false := by decide
theorem test_wf_long (l : List Byte) (h : l.length = 2 ^ 33) : (Instr.ethFrameReceive 0 l).wf = false ∧ (Instr.icmpEcho 0 true 0 0 l).wf = false ∧
    (Instr.rdmaWrite 0 0 0 0 l false).wf = false ∧ (Instr.loadData hdr 0 l).wf = false := by
  have h1 : decide (l.length ≤ 9216) = false := decide_eq_false (by omega)
  have h2 : decide (l.length ≤ 2 ^ 32) = false := decide_eq_false (by omega)
  have h3 : decide (l.length ≤ 65536) = false := decide_eq_false (by omega)
  simp only [Instr.wf, h1, h2, h3, Bool.and_false, and_self]
theorem test_wf_load : (Instr.loadOffer hdr 0 (2 ^ 64) 0).wf = false ∧ (Instr.loadOffer hdr 0 0 (2 ^ 32)).wf = false ∧
    (Instr.loadData hdr (2 ^ 64) []).wf = false ∧ (Instr.keystorePut hdr 256 true 0 0 0).wf = false := by decide
theorem test_wf_addresses : (Instr.supplyDroop 0 (2 ^ 64)).wf = false ∧ (Instr.cappingCalibration ⟨false, some (true, 65536)⟩).wf = false ∧ (Instr.smbusRead (2 ^ 48) true).wf = false ∧
    (Instr.frameRetire 0 (2 ^ 48)).wf = false ∧ (Instr.registerWrite (2 ^ 48) 0).wf = false := by decide
theorem test_wf_errors : (Instr.ueEvent 0 (.block (2 ^ 48))).wf = false ∧ (Instr.ueEvent 0 (.island 192 0)).wf = false ∧
    (Instr.ueEvent 0 (.tablePacket 256 0)).wf = false ∧ (Instr.ueEvent 0 (.tableMap 256 0)).wf = false ∧ (Instr.ueEvent 0 (.tableMap 0 (2 ^ 48))).wf = false ∧
    (Instr.ueEvent 0 (.firmware (2 ^ 48) true)).wf = false ∧ (Instr.ueEvent 0 (.unowned (2 ^ 48))).wf = false := by decide
theorem test_wf_jtag : (Instr.jtagInstruction (.readControl (2 ^ 48))).wf = false ∧ (Instr.jtagInstruction (.readScan (2 ^ 48))).wf = false ∧
    (Instr.jtagInstruction (.writeControl (2 ^ 48) 0)).wf = false ∧ (Instr.jtagInstruction (.haltCore 32)).wf = false := by decide

/-! ### Worked examples -/

set_option maxRecDepth 20000 in
/-- R122: LSETUP LC0, a body of 2 words, a count of 3; BR to word 0x020 guarded by "P1 false". -/
theorem test_lsetup_word : decodeS 0x0D001003 = .lsetup 0 1 3 := by decide
set_option maxRecDepth 20000 in
theorem test_br_word : decodeS 0x9C000020 = .br 0x20 ∧ BitVec.extractLsb' 28 4 (0x9C000020 : BitVec 32) = 9 := by decide
set_option maxRecDepth 20000 in
/-- R147's example: MMA into A0 from T0 and T2, scales in T8, index S7, post-increment. -/
theorem test_mma_word : decodeM 0x02011F00 = .mma false 0 2 7 true 8 := by decide
set_option maxRecDepth 20000 in
/-- The example after R177: VPACK V3, V4, S8, T5, part 0, binary16. -/
theorem test_vpack_word : decodeV 0x0AC64429 = .pack 3 4 8 5 false 1 := by decide
set_option maxRecDepth 20000 in
/-- R124: XSEND to port E (1) from V0 (0x10), index S2, post-increment: op 0x02, bits 20, 10, 2 and 0. -/
theorem test_xsend_word : decodeX false 0x00900405 = .send 1 0x10 2 true := by decide
set_option maxRecDepth 20000 in
/-- R103, R107: guard field 9 holds when P1 is false. -/
theorem test_guard : ({ p := 0 } : Cell).guard 9 = true ∧ ({ p := 2 } : Cell).guard 9 = false := by decide

/-- R298's block: byte 31 is 1 and every other byte is 0. -/
def block : List Byte := List.replicate 31 0 ++ [1]
set_option maxRecDepth 20000 in
theorem test_code_check_bytes : (encodeBlock block).drop 32 = [0x0F, 0x36, 0x78, 0x40] := by decide
set_option maxRecDepth 20000 in
theorem test_code_corrects : decodeBlock (applyUpset (encodeBlock block) [(35, 5)]) = .corrected 35 5 := by decide
set_option maxRecDepth 20000 in
theorem test_code_detects : decodeBlock (applyUpset (encodeBlock block) [(12, 1), (13, 2), (14, 4)]) = .uncorrectable := by decide
/-- R298: the symbols of a failed DQ 4. -/
theorem test_pin_fails : pinUpset 4 0x040201#24 = [(12, 1), (13, 2), (14, 4)] := by decide

set_option maxRecDepth 20000 in
/-- The search job's SVCFG value (chapter 10): k = 100, 64 lists, area at 512 KiB. -/
theorem test_svcfg_value : svcfgFault k1 0x1000806463 = none ∧ svK 0x1000806463 = 100 ∧ svLists 0x1000806463 = 64 ∧
    svABase 0x1000806463 = 0x80000 ∧ svWSize 0x1000806463 = 4096 := by decide

set_option maxRecDepth 20000 in
/-- The quantisation example of chapter 03: 37.5, -0.01 and 0.0004 with the scale 0.125. -/
theorem test_scale_choice : chooseScale .vf8a [.fin false 75 (-1), .fin true 1 (-7)] = (0x7C, 0) := by decide
set_option maxRecDepth 20000 in
theorem test_scaled_codes : deliverScaled .vf8a .rne (.fin false 75 (-1)) (scaleVal false 0x7C) = (0x79, flNX) ∧
    deliverScaled .vf8a .rne (decodeVal .f16 0xA11F) (scaleVal false 0x7C) = (0x9A, flNX) ∧
    deliverScaled .vf8a .rne (decodeVal .f16 0x0E8E) (scaleVal false 0x7C) = (0x02, flUF ||| flNX) := by decide
set_option maxRecDepth 20000 in
/-- The conversion table of chapter 03: 600 into VF8b is 640; -0.1 into VF8b is 0xAE. -/
theorem test_conversions : convertCode .f32 .vf8b .rne 0x44160000 = (0x61, flNX) ∧ convertCode .f32 .vf8b .rne 0xBDCCCCCD = (0xAE, flNX) ∧
    convertCode .f32 .vf4 .rne 0xBDCCCCCD = (0x0, flUF ||| flNX) := by decide
set_option maxRecDepth 20000 in
/-- The tables of chapter 03: 0.3 into VF8a (RNE and RTZ), VF6 and VF4; 2.25 into VF6; 600 saturates in VF8a. -/
theorem test_conversions_too : convertCode .f32 .vf8a .rne 0x3E99999A = (0x2A, flNX) ∧ convertCode .f32 .vf8a .rtz 0x3E99999A = (0x29, flNX) ∧
    convertCode .f32 .vf6 .rtz 0x3E99999A = (0x08, flNX) ∧ convertCode .f32 .vf4 .rne 0x3E99999A = (0x1, flUF ||| flNX) ∧
    convertCode .f16 .vf6 .rne 0x4080 = (0x14, flNX) ∧ convertCode .f16 .vf8a .rne 0x60B0 = (0x7F, flOF ||| flNX) := by decide
set_option maxRecDepth 20000 in
/-- IEEE 754 sums by hand: 1 + 2 = 3; 1/3 rounds to 0x3EAAAAAB; sqrt 4 = 2. -/
theorem test_binary32 : binElem .add .f32 .rne 0x3F800000 0x40000000 0 = (0x40400000, 0) ∧
    binElem .div .f32 .rne 0x3F800000 0x40400000 0 = (0x3EAAAAAB, flNX) ∧ unElem .sqrt .f32 .rne 0x40800000 = (0x40000000, 0) := by decide
set_option exponentiation.threshold 2000 in
set_option maxRecDepth 20000 in
/-- R173: 2 to the power 3 is exactly 8. -/
theorem test_exp2 : unElem .exp2 .f32 .rne 0x40400000 = (0x41000000, 0) := by decide

/-! ### Steps -/

set_option maxRecDepth 20000 in
/-- R114: an addition wraps modulo 2^64; R103: a write of S0 is discarded. -/
theorem test_add_wraps : ((next (exec (.add k0 0 3 1 2) (one k0 { s := [(1, 2), (2, 0xFFFFFFFFFFFFFFFF)] }))).cell k0).rs 3 = 1 := by decide
set_option maxRecDepth 20000 in
theorem test_add_s0 : ((next (exec (.add k0 0 0 1 2) (one k0 { s := [(1, 2), (2, 5)] }))).cell k0).rs 0 = 0 := by decide
set_option maxRecDepth 20000 in
/-- R110: a product lands in the third schedule cycle, so the next word still reads the old value. -/
theorem test_mul_latency : ((next (exec (.mul k0 0 3 1 1) (one k0 { s := [(1, 5)] }))).cell k0).rs 3 = 0 := by decide
set_option maxRecDepth 20000 in
/-- R114: an arithmetic shift keeps the sign. -/
theorem test_srai : ((next (exec (.srai k0 0 2 1 63) (one k0 { s := [(1, 0x8000000000000000)] }))).cell k0).rs 2 = 0xFFFFFFFFFFFFFFFF := by decide
set_option maxRecDepth 20000 in
/-- R19, R116: ST32 stores four bytes, lowest first, and no fifth. -/
theorem test_st32 : let t := next (exec (.st32 k0 0 1 0 1) (one k0 { s := [(1, 0x1122334455667788)] }))
    t.rd (sramBase k0 + 4) = 0x88 ∧ t.rd (sramBase k0 + 7) = 0x55 ∧ t.rd (sramBase k0 + 8) = 0 := by decide
set_option maxRecDepth 20000 in
/-- R136: a misaligned load faults in slot 0 and the cell stops. -/
theorem test_align_fault : let t := next (exec (.ld64 k0 0 1 2 0) (one k0 { s := [(2, 4)] }))
    (t.cell k0).run = .faulted ∧ field 15 0 (t.reg (R.cellFault k0)) = K.eAlign.toNat := by decide
set_option maxRecDepth 20000 in
/-- R117: a taken branch goes on at its target after a bubble. -/
theorem test_branch : let t := next (exec (.br k0 0 0x20) (one k0 {})); (t.cell k0).pc = 0x20 ∧ (t.cell k0).bubble = true := by decide
set_option maxRecDepth 20000 in
/-- R119: a loop set up with a count of 3. -/
theorem test_lsetup : let t := next (exec (.lsetup k0 0 0 1 3) (one k0 { pc := 8 })); (t.cell k0).loops = [⟨0, 9, 10⟩] ∧ (t.cell k0).lc0 = 3 := by
  decide
set_option maxRecDepth 20000 in
/-- R104: bits of SR_FLAG are cleared by writing 1. -/
theorem test_flag_clear : ((next (exec (.mtsr k0 0 2 1) (one k0 { flags := 0x1F, s := [(1, 5)] }))).cell k0).flags = 0x1A := by decide
set_option maxRecDepth 20000 in
/-- R332: ringing a bell twice passes one event. -/
theorem test_bell : (next (exec (.mbxRing 0 1) (next (exec (.mbxRing 0 1) State.reset)))).events = [(0, .doorbell 0)] := by decide
set_option maxRecDepth 20000 in
/-- R331: a write to a full mailbox is discarded. -/
theorem test_mailbox_overrun : (next (exec (.mbxDataWrite 0 0 (.core 0) 2) (next (exec (.mbxDataWrite 0 0 (.core 0) 1) State.reset)))).reg (R.mbxData 0 0) = 1 := by
  decide
set_option maxRecDepth 20000 in
/-- R533: IDCODE of stepping 0. -/
theorem test_idcode : (next (exec (.jtagInstruction .idcode) State.reset)).out = [.jtag 0x09B095E7] := by decide
set_option maxRecDepth 20000 in
/-- R485: limits above the maximum are clamped. -/
theorem test_power_cap : (next (exec (.pwrCapWrite 0xFFFFFFFF) State.reset)).reg R.pwrCap = 0x04E20578 := by decide

/-! ### Hypotheses of the statements are met: cells -/

/-- A compute cell with a crossing link to the east (island 1), its western neighbour there, and tokens. -/
def kE : CellRef := ⟨0, 7⟩
def kF : CellRef := ⟨1, 4⟩
def dat : Token := ⟨7, false, false, 0, 0⟩
def ctl : Token := ⟨1, true, false, 0, 0⟩
/-- Cell kE running with open fences on both sides of its crossing link. -/
def open_ (c : Cell) : State := regs (one kE c) [(R.islFence 0, 0), (R.islFence 1, 0)]

set_option maxRecDepth 20000 in
theorem test_meets_StepRunsFront : ({ State.reset with pending := [.nop k0] } : State).pending = .nop k0 :: [] := rfl
set_option maxRecDepth 20000 in
theorem test_meets_ScalarResults : Quiet (one k0 {}) k0 ∧ ((one k0 {}).cell k0).guard 0 = true := ⟨quiet_of _ _ (by decide), by decide⟩
set_option maxRecDepth 20000 in
/-- The last doubleword of local SRAM. -/
theorem test_meets_ScalarLatencyThree : let s := one k0 { s := [(1, 0x3FFF8)] }
    Quiet s k0 ∧ ((s.cell k0).rs 1 + (0 : BitVec 12).signExtend 64 * BitVec.ofNat 64 8).toNat % 8 = 0 ∧
      ((s.cell k0).rs 1 + (0 : BitVec 12).signExtend 64 * BitVec.ofNat 64 8).toNat + 8 ≤ sramSize k0 ∧ s.plainRead k0 0x3FFF8 8 = true :=
  ⟨quiet_of _ _ (by decide), by decide⟩
set_option maxRecDepth 20000 in
/-- The last byte of a memory cell takes a store; a byte behind it is out of range; an odd address is misaligned. -/
theorem test_meets_LocalSramAccess : let s := one k1 { s := [(1, 0xFFFFF), (2, 0x100000)] }
    Quiet s k1 ∧ ((s.cell k1).rs 1).toNat + 1 ≤ sramSize k1 ∧ s.sieveTakes k1 ((s.cell k1).rs 1).toNat 1 = false ∧ s.plain (sramBase k1 + 0xFFFFF) 1 = true ∧
      ((s.cell k1).rs 1).toNat % 2 ≠ 0 ∧ sramSize k1 < ((s.cell k1).rs 2).toNat + 1 := ⟨quiet_of _ _ (by decide), by decide⟩
set_option maxRecDepth 20000 in
theorem test_meets_PredicatesAndSpecialRegisters : Quiet (one k1 {}) k1 ∧ ((one k1 {}).cell k1).guard 0 = true ∧ 9 < (10 : BitVec 5).toNat ∧
    (1 : BitVec 5).toNat < 2 ∧ 6 < (7 : BitVec 5).toNat := ⟨quiet_of _ _ (by decide), by decide⟩
set_option maxRecDepth 20000 in
theorem test_meets_BranchesAndOverrun :
    (let s := one k1 { s := [(1, 1023), (2, 1024)], stack := [1023] }
     Quiet s k1 ∧ (1023 : BitVec 12).toNat < imemWords k1 ∧ imemWords k1 ≤ (1024 : BitVec 12).toNat ∧ ((s.cell k1).rs 1).toNat < imemWords k1 ∧
       imemWords k1 ≤ ((s.cell k1).rs 2).toNat ∧ (s.cell k1).stack.length < 8 ∧ (s.cell k1).stack = 1023 :: []) ∧
    (let s := one k1 { stack := List.replicate 8 0 }
     Quiet s k1 ∧ 8 ≤ (s.cell k1).stack.length ∧ imemWords k1 ≤ (1024 : BitVec 12).toNat) ∧ ((one k1 {}).cell k1).stack = [] ∧
    (Quiet (one k1 { pc := 1023 }) k1 ∧ ((one k1 { pc := 1023 }).cell k1).pc + 1 = imemWords k1) ∧
    Alone (one k1 { pc := 1024 }) k1 ∧ imemWords k1 ≤ ((one k1 { pc := 1024 }).cell k1).pc :=
  ⟨⟨quiet_of _ _ (by decide), by decide⟩, ⟨quiet_of _ _ (by decide), by decide⟩, by decide, ⟨quiet_of _ _ (by decide), by decide⟩,
    by unfold Alone State.Canon Cell.atRest State.calm; decide, by decide⟩
set_option maxRecDepth 20000 in
/-- A body that ends in the last word of a compute cell, one that ends behind it; a body of one word on its last pass and before. -/
theorem test_meets_LoopsAndProgramEnd :
    (Quiet (one k0 { pc := 4094 }) k0 ∧ 4094 + 1 + (0 : BitVec 8).toNat < imemWords k0 ∧ 4094 + 1 + (0 : BitVec 8).toNat + 1 = imemWords k0 ∧
      ((one k0 { pc := 4094 }).cell k0).loops = [] ∧ (4093 : Nat) + 1 + (0 : BitVec 8).toNat + 1 < imemWords k0 ∧ imemWords k0 ≤ 4094 + 1 + (1 : BitVec 8).toNat) ∧
    (let s := one k0 { pc := 5, loops := [⟨2, 3, 9⟩] }
     Quiet s k0 ∧ (∃ l ∈ (s.cell k0).loops, l.n = (2 : BitVec 2).toNat) ∧ ∀ l ∈ (s.cell k0).loops, l.n ≠ (1 : BitVec 2).toNat) ∧
    (let s := one k0 { pc := 5, loops := [⟨0, 5, 5⟩], lc0 := 2 }
     Alone s k0 ∧ s.pullsAt k0 5 = [] ∧ (s.cell k0).loops = ⟨0, 5, 5⟩ :: [] ∧ 1 < ((s.cell k0).rlc 0).toNat) ∧
    ((one k0 { pc := 5, loops := [⟨0, 5, 5⟩], lc0 := 1 }).cell k0).rlc 0 = 1 ∧
    (let s := { State.reset with cells := (List.range 16).map (fun c => (c, { run := if c = 0 then .running else .ended })) }
     Quiet s k0 ∧ ∀ j, j < s.cellCount 0 → j ≠ 0 → (s.cell ⟨0, j⟩).run = .ended) :=
  ⟨⟨quiet_of _ _ (by decide), by decide⟩, ⟨quiet_of _ _ (by decide), by decide⟩,
    ⟨by unfold Alone State.Canon Cell.atRest State.calm; decide, by decide⟩, by decide, ⟨quiet_of _ _ (by decide), by decide⟩⟩
set_option maxRecDepth 20000 in
theorem test_meets_NoEffectWords : Quiet (one k0 { p := 2 }) k0 ∧ ((one k0 { p := 2 }).cell k0).guard 9 = false ∧
    ((one k0 { p := 2 }).cell k0).rp 1 = true ∧ ((one k0 { p := 2 }).cell k0).rp 2 = false := ⟨quiet_of _ _ (by decide), by decide⟩
set_option maxRecDepth 20000 in
theorem test_meets_WritesLandWhenDue : let s := (one k0 {}).setCell k0 (({ run := .running } : Cell).inFlight 1 (.s 3 4))
    Quiet (s.setCell k0 { run := .running }) k0 ∧ s.Canon ∧ s.cell k0 = ({ run := .running } : Cell).inFlight 1 (.s 3 4) ∧
      1 = (s.isl 0).sched + 1 := ⟨quiet_of _ _ (by decide), canon_of _ (by decide), by decide⟩
set_option maxRecDepth 20000 in
/-- INT8 against INT8 (code 1 in both fields, R148) is a pair of R146; a reserved format code is none. -/
theorem test_meets_MatrixAccumulation : let s := one k0 { mcfg := 0x1001, s := [(1, 0x1001), (2, 0xF)] }
    Quiet s k0 ∧ isMemCell k0 = false ∧ mcfgFault ((s.cell k0).rs 1) = none ∧ (mcfgFault ((s.cell k0).rs 2)).isSome = true ∧
      (mcPair (s.cell k0).mcfg).isSome = true ∧ ((mcPair (s.cell k0).mcfg).bind (fun sh => potNext ((s.cell k0).pst false) sh (mcPe (s.cell k0).mcfg))).isSome = true :=
  ⟨quiet_of _ _ (by decide), by decide⟩
set_option maxRecDepth 20000 in
theorem test_meets_MatrixReadOutAndMerge : let s := one k0 { mcfg := 0x1001 }
    Quiet s k0 ∧ isMemCell k0 = false ∧ Rm.ofCode (4 : BitVec 3).toNat = some .rdn ∧ (mcPair (s.cell k0).mcfg).map PairShape.mode = some .int :=
  ⟨quiet_of _ _ (by decide), by decide⟩
set_option maxRecDepth 20000 in
theorem test_meets_VectorElements : Quiet (one k0 {}) k0 ∧ ((one k0 {}).cell k0).guard 0 = true ∧ isMemCell k0 = false ∧ (4 : BitVec 3).toNat ≤ 4 ∧
    ((1 : BitVec 2) = 0 → (4 : BitVec 3) = 0) := ⟨quiet_of _ _ (by decide), by decide⟩
set_option maxRecDepth 20000 in
theorem test_meets_VectorLanesAndMasks : let s := one k0 { s := [(9, 0x8224), (10, 0x10000)] }
    Quiet s k0 ∧ vcfgFault ((s.cell k0).rs 9) = none ∧ (vcfgFault ((s.cell k0).rs 10)).isSome = true := ⟨quiet_of _ _ (by decide), by decide⟩
set_option maxRecDepth 20000 in
theorem test_meets_VectorConversionAndPots : let s := one k0 { vcfg := 0x8224 }
    Quiet s k0 ∧ (5 : BitVec 3).toNat > 4 ∧ packHBad (vcFmt 0x8224) false = false ∧ (Rm.ofCode (vcRm 0x8224)).isSome = true ∧ packHBad .f32 true = true ∧ isMemCell k0 = false ∧ ((s.cell k0).pst false).mode = .empty := ⟨quiet_of _ _ (by decide), by decide⟩
set_option maxRecDepth 20000 in
theorem test_meets_VectorReductions : Quiet (one k0 {}) k0 ∧ (4 : BitVec 3).toNat ≤ 4 ∧ (1 : BitVec 2) ≠ 3 ∧ (30 : BitVec 5).getLsbD 0 = false ∧ (31 : BitVec 5).getLsbD 0 = true :=
  ⟨quiet_of _ _ (by decide), by decide⟩
set_option maxRecDepth 20000 in
theorem test_meets_RankSortSorts : ([(0xFFFFFFFF, 1), (5, 2)] : List (Nat × Nat)).Pairwise (fun x y => x.2 ≠ y.2) ∧
    ∀ x ∈ ([(0xFFFFFFFF, 1), (5, 2)] : List (Nat × Nat)), x.1 < 2 ^ 32 := by decide
set_option maxRecDepth 20000 in
/-- The last beat of local SRAM, one behind it, and a misaligned one. -/
theorem test_meets_XMovMovesBeats : let s := one k0 { s := [(1, 0x3FFE0), (2, 0x40000), (3, 8)] }
    Quiet s k0 ∧ unitPlace 0x2F ∧ ((s.cell k0).rs 1).toNat % 32 = 0 ∧ ((s.cell k0).rs 1).toNat + 32 ≤ sramSize k0 ∧
      ((s.cell k0).rs 2).toNat % 32 = 0 ∧ sramSize k0 < ((s.cell k0).rs 2).toNat + 32 ∧ ((s.cell k0).rs 3).toNat % 32 ≠ 0 ∧
      (s.plainRead k0 0x3FFE0 32 = true ∧ (placeOk 0x34 && placeOk 0) = false) ∧ Quiet (one k1 {}) k1 ∧ isMemCell k1 = true :=
  ⟨quiet_of _ _ (by decide), by unfold unitPlace; decide, by decide, by decide, by decide, by decide, by decide, by decide, quiet_of _ _ (by decide), by decide⟩
set_option maxRecDepth 20000 in
theorem test_meets_StreamPlaces :
    (let s := one k0 { engines := [(0, { state := .running, ring := [⟨0, [], 0, true⟩] })] }
     Quiet s k0 ∧ s.plainRead k0 (ringAt ((s.cell k0).descOf 0) 0) 32 = true ∧ ((s.cell k0).eng 0).state = .running ∧ ((s.cell k0).eng 0).dir = false ∧ ((s.cell k0).eng 0).ring = [⟨0, [], 0, true⟩]) ∧
    (let s := one k0 { engines := [(0, { state := .running, dir := true })], desc := (Bytes.writeN [] 120 (leBytes 8 (10 * 1024))) }
     Quiet s k0 ∧ ((s.cell k0).eng 0).dir = true ∧ ((s.cell k0).eng 0).span < ringBeats ((s.cell k0).descOf 0)) ∧
    ((one k0 {}).cell k0 |>.eng 0).state = .idle :=
  ⟨⟨quiet_of _ _ (by decide), by decide⟩, ⟨quiet_of _ _ (by decide), by decide⟩, by decide⟩
set_option maxRecDepth 20000 in
/-- Over the crossing link, over an inside link, at a fenced port, and at a full FIFO. -/
theorem test_meets_TokensSent :
    (Quiet (open_ {}) kE ∧ (open_ {}).link kE 1 = .crossing kF ∧ (open_ {}).fenced kE 1 = false ∧ (open_ {}).outFull kE 1 = false ∧
      ((open_ {}).isl 0).drives = []) ∧
    (open_ {}).link kE 3 = .inside ⟨0, 6⟩ 1 ∧ (one kE {}).fenced kE 1 = true ∧
    ((open_ {}).setFifo kF 3 (List.replicate 64 dat)).outFull kE 1 = true ∧ unitPlace 0 :=
  ⟨⟨quiet_of _ _ (by decide), by decide⟩, by decide, by decide, by decide, by unfold unitPlace; decide⟩
set_option maxRecDepth 20000 in
theorem test_meets_TokensReceived :
    (let s := (open_ {}).setFifo kE 1 [dat]
     Quiet (s.setCell kE { run := .running }) kE ∧ s.Canon ∧ s.cell kE = { run := .running } ∧ s.link kE 1 = .crossing kF ∧ s.fenced kE 1 = false ∧
       s.steerFed kE 1 = [] ∧ (s.isl 0).pops = [] ∧ s.fifo kE 1 = dat :: [] ∧ dat.epoch = (s.isl 0).epoch ∧ (open_ {}).fifo kE 1 = []) ∧
    (let s := open_ { wires := [⟨3, dat, 0, false⟩] }
     Quiet (s.setCell kE { run := .running }) kE ∧ s.cell kE = { ({ run := .running } : Cell) with wires := [⟨3, dat, (s.isl 0).sched, false⟩] } ∧
       s.link kE 3 = .inside ⟨0, 6⟩ 1 ∧ s.routeOuts kE 3 = []) :=
  ⟨⟨quiet_of _ _ (by decide), canon_of _ (by decide), by decide⟩, ⟨quiet_of _ _ (by decide), by decide⟩⟩

/-! ### Hypotheses of the statements are met: streams, fabric, memory -/

/-- Little-endian doublewords. -/
def words (l : List Nat) : List Byte := l.flatMap (leBytes 8)
/-- A walk of one INT8 element (R190): every count 1, a ring of 1 KiB at 0; inbound at address 0x10000 of the job. -/
def walk1 : List Byte := words [2 ^ 48 + 0x10000, 0, 2 ^ 32 + 1, 2 ^ 32 + 1, 1, 0, 0, 0, 0, 0, 0, 0, 0, 0, 0, 10 * 1024]
def desc1 : Bytes := Bytes.writeN [] 0 walk1
/-- Cell k0 of table 1 with an engine; a page map of table 1 with one page, writable, at 0x10000 in frame 0x500000. -/
def paged (s : State) : State :=
  regs ((((s.wr64 0x200000 0x400001).wr64 0x400000 0x401001).wr64 0x401008 0x50000A).updIsl 0 (fun i => { i with table := 1 }))
    [(R.mmuTroot 0 1, 0x200001), (R.mmuTroot 1 1, 0x200001)]
def svCfg : BitVec 37 := 0x1000806463
/-- A channel of die 0 with a ring of 4 KiB at 0, whose sender is table 1. -/
def chan1 (s : State) : State := regs s [(R.chnRing 0 0, 12 * 2 ^ 48), (R.chnPeer 0 0, 2 ^ 25 + 2 ^ 12 + 2 ^ 13)]

set_option maxRecDepth 20000 in
theorem test_meets_StreamSieveAndChannelWords_start :
    (let s := one k0 { desc := desc1, descOk := 1, s := [(1, 0x3FF80), (2, 64), (3, 0x40000)] }
     Quiet s k0 ∧ (s.cell k0).eng 0 = {} ∧ (s.plainRead k0 0x3FF80 128 = true ∧ (s.cell k0).descOk.getLsbD 0 = true) ∧ Desc.check ((s.cell k0).desc.readN 0 128) (sramSize k0) = none ∧
       ¬ (∃ f, f < 4 ∧ ((s.cell k0).eng f).state ≠ .idle ∧ ((s.cell k0).eng f).slot = 0) ∧
       ((s.cell k0).rs 1).toNat % 128 = 0 ∧ ((s.cell k0).rs 1).toNat + 128 ≤ sramSize k0 ∧ ((s.cell k0).rs 2).toNat % 128 ≠ 0 ∧
       sramSize k0 < ((s.cell k0).rs 3).toNat + 128) ∧
    (Desc.check (Bytes.readN [] 0 128) (sramSize k0)).isSome = true ∧
    (let s := one k0 { engines := [(1, { state := .running, slot := 2 })] }
     Quiet s k0 ∧ (∃ f, f < 4 ∧ ((s.cell k0).eng f).state ≠ .idle ∧ ((s.cell k0).eng f).slot = 2)) :=
  ⟨⟨quiet_of _ _ (by decide), by decide⟩, by decide, quiet_of _ _ (by decide), by decide⟩
set_option maxRecDepth 20000 in
/-- The last list, one beyond; a flush of it that fits. -/
theorem test_meets_StreamSieveAndChannelWords_sieve :
    let s := one k1 { sieve := { cfg := svCfg }, s := [(1, 0x1000806463), (2, 0x2000000000), (3, 64), (4, 0x2000), (5, 0x2008)] }
    let v := (s.cell k1).sieve
    Quiet s k1 ∧ isMemCell k1 = true ∧ svcfgFault k1 ((s.cell k1).rs 1) = none ∧ (svcfgFault k1 ((s.cell k1).rs 2)).isSome = true ∧ svEn v.cfg = true ∧
      63 < svLists v.cfg ∧ svLists v.cfg ≤ 64 ∧ ((s.cell k1).rs 4).toNat % 32 = 0 ∧ ((s.cell k1).rs 5).toNat % 8 = 0 ∧
      0x2000 + (flushImage (svFmt v.cfg) false 63 (v.list 63)).length ≤ sramSize k1 ∧
      overlap 0x2000 (flushImage (svFmt v.cfg) false 63 (v.list 63)).length (svABase v.cfg) (svASize v.cfg) = false ∧
      overlap 0x2000 (flushImage (svFmt v.cfg) false 63 (v.list 63)).length (svWBase v.cfg) (svWSize v.cfg) = false ∧ v.flushes.length < 64 ∧
      svEn ((one k1 {}).cell k1).sieve.cfg = false := ⟨quiet_of _ _ (by decide), by decide⟩
set_option maxRecDepth 20000 in
theorem test_meets_StreamSieveAndChannelWords_send :
    let s := chan1 ((one k0 { s := [(1, 32)] }).updIsl 0 (fun i => { i with table := 1 }))
    Quiet s k0 ∧ s.chsendCheck k0 ((s.cell k0).rs 0) ((s.cell k0).rs 1) = .ok (0, 0) ∧ s.chState 0 0 = 1 ∧ s.chCredit 0 0 32 = true ∧
      (s.isl 0).chbuf + 32 ≤ 16384 ∧ 32 ≤ sramSize k0 ∧ s.plainRead k0 0 32 = true := ⟨quiet_of _ _ (by decide), by decide⟩
set_option maxRecDepth 20000 in
theorem test_meets_SyncInstructions :
    let s := (regs (paged (one k0 {})) [(R.syncTmap 0 1, 0x600000 + 1)]).wr64 0x600000 2
    Quiet (s.setCell k0 { run := .running }) k0 ∧ s.Canon ∧ s.cell k0 = { run := .running } ∧
      s.syncTrans (islAgent k0.isl) (islDie k0.isl) (s.isl k0.isl).table 0 = .ok (.window 0 0) := ⟨quiet_of _ _ (by decide), canon_of _ (by decide), by decide⟩
set_option maxRecDepth 20000 in
theorem test_meets_ProgramWordsAndPullPoints :
    (Quiet (one k0 {}) k0 ∧ ((one k0 {}).cell k0).imem.readN 0 16 = List.replicate 16 0) ∧
    (let s := regs ((open_ {}).setFifo kE 1 [dat]) [(R.cellPull kE 0, 0x8000 + 1 * 2 ^ 12), (R.islFence 12, 0), (R.cellRoute kE, 0x8)]
     s.pullsAt kE 0 = [1] ∧ s.fifo kE 1 = [dat] ∧ (s.isl 0).pops = [] ∧ dat.kind = false ∧ s.steerFed kE 1 = [] ∧ (s.isl 0).drives = []) :=
  ⟨⟨quiet_of _ _ (by decide), by decide⟩, by decide⟩
set_option maxRecDepth 20000 in
theorem test_meets_FloorPlan : State.reset.cellExists k0 = true ∧ State.reset.nbr k0 1 = some k1 ∧ State.reset.FarOk ∧
    State.reset.nbr ⟨11, 3⟩ 1 = some ⟨96, 0⟩ := by unfold State.FarOk; decide
set_option maxRecDepth 20000 in
theorem test_meets_TokensAndSteering_arrival :
    (let s := regs (one k0 { wires := [⟨3, ctl, 0, false⟩] }) [(R.cellSteer k0 3, 1)]
     s.Canon ∧ s.cellExists k0 = true ∧ s.islFaulted 0 = false ∧ (s.cell k0).wires = [⟨3, ctl, (s.isl 0).sched, false⟩] ∧
       s.ctlEnabled k0 3 ctl = true ∧ s.bufFull k0 3 (ctlBuf ctl) = false ∧ decodeBlock (tokenSymbols ctl.payload []) = .clean) ∧
    (let s := regs (one k0 { wires := [⟨3, dat, 0, false⟩] }) [(R.cellSteer k0 2, 1 + 3 * 2)]
     s.routeOuts k0 3 = [] ∧ s.steerFed k0 3 = [(2, 0)] ∧ s.bufFull k0 2 0 = false) ∧
    (let s := regs (((open_ {}).setFlight kE 1 [dat]).setFifo kE 1 [ctl]) [(R.cellSteer kE 1, 1)]
     s.inFlight kE 1 = dat :: [] ∧ s.isCrossing kE 1 = true ∧ s.fifo kE 1 = ctl :: [] ∧ s.ctlEnabled kE 1 ctl = true ∧ ctl.epoch = (s.isl 0).epoch) ∧
    (let s := (open_ {}).setFifo kE 1 [{ dat with epoch := 2 }]
     SMap.wf (fun _ => []) s.fifos = true ∧ (2 : BitVec 2) ≠ (s.isl 0).epoch ∧ (2 : BitVec 2) ≠ (s.isl 0).epoch + 1) := by
  refine ⟨⟨canon_of _ (by decide), by decide⟩, by decide, by decide, by decide⟩
set_option maxRecDepth 20000 in
/-- A switch whose control is 1: true target East (1), or 4, which discards; a merge; waiting outputs. -/
theorem test_meets_TokensAndSteering_units :
    let x : Steer := { swCtl := [ctl], swDat := [dat], mgCtl := [ctl], mgB := [dat] }
    let s := regs (one ⟨0, 5⟩ { steer := [(3, x)] }) [(R.cellSteer ⟨0, 5⟩ 3, 1 + 2 * 2 + 1 * 8 + 4 * 64 + 512 + 3 * 1024 + 2 * 4096 + 1 * 16384)]
    let w := s.steerCfg ⟨0, 5⟩ 3
    s.cellExists ⟨0, 5⟩ = true ∧ ((s.cell ⟨0, 5⟩).str 3).swCtl = ctl :: [] ∧ swEn w = true ∧ swT w = 1 ∧ swF w = 4 ∧ insidePort ⟨0, 5⟩ 3 = true ∧
      insidePort ⟨0, 5⟩ (swData w) = true ∧ s.outFull ⟨0, 5⟩ 1 = false ∧ s.driven ⟨0, 5⟩ 1 = false ∧ mgEn w = true ∧
      insidePort ⟨0, 5⟩ (mgAPort w) = true ∧ insidePort ⟨0, 5⟩ (mgBPort w) = true ∧ mgOutPort w = 1 ∧
      ((one ⟨0, 5⟩ { steer := [(3, { swOut := some (1, dat) })] }).cell ⟨0, 5⟩).waiting = [(3, false, 1, dat)] := by decide
set_option maxRecDepth 20000 in
theorem test_meets_StreamEngineEvents_request :
    (let s := paged (one k0 { desc := desc1, engines := [(0, { state := .running })] })
     s.cellExists k0 = true ∧ s.scanHeld 0 = false ∧ (s.cell k0).mayRequest 0 = true ∧ ((s.cell k0).descOf 0).bytes 0 = [(0, 0x10000)] ∧
       (let u := s.learnBeat 0 1 [(0, 0x10000)]
        transBytes (fun va => u.transRead (islAgent 0) 1 va (u.running 1)) [(0, 0x10000)] = .go [(0, .pa 0x500000)] ∧
          u.dampOpen k0 (u.beatClass [(0, .pa 0x500000)]) = true)) ∧
    (let s := one k0 { desc := desc1, engines := [(0, { state := .running })] }
     (s.cell k0).mayRequest 0 = true ∧
       (let u := s.learnBeat 0 0 [(0, 0x10000)]
        transBytes (fun va => u.transRead (islAgent 0) 0 va (u.running 0)) [(0, 0x10000)] = .absent 0x10000)) ∧
    (let s := (paged (one k0 { desc := desc1, engines := [(0, { state := .running })] })).wr64 0x401008 4
     (s.cell k0).mayRequest 0 = true ∧
       (let u := s.learnBeat 0 1 [(0, 0x10000)]
        transBytes (fun va => u.transRead (islAgent 0) 1 va (u.running 1)) [(0, 0x10000)] = .refused K.ePageFormat)) ∧
    (let s := paged (one k0 { desc := desc1, engines := [(0, { state := .running })], dampN := 0, dampW := some 0 })
     (s.cell k0).mayRequest 0 = true ∧
       (let u := s.learnBeat 0 1 [(0, 0x10000)]
        u.dampOpen k0 (u.beatClass [(0, .pa 0x500000)]) = false)) ∧
    ((one k0 {}).cell k0).mayRequest 0 = false := by decide
set_option maxRecDepth 20000 in
theorem test_meets_StreamEngineEvents_rest :
    (let s := regs (paged (one k0 { desc := desc1, engines := [(0, { state := .draining, dir := true, ring := [⟨0, [7], 0, false⟩], moved := 1 })] }))
       [(R.tblState 0 1, 0)]
     ((s.cell k0).eng 0).mayWrite = true ∧ ((s.cell k0).eng 0).ring.find? (fun b => !b.issued) = some ⟨0, [7], 0, false⟩ ∧
       ((s.cell k0).descOf 0).bytes 0 = [(0, 0x10000)] ∧
       (let u := s.learnBeat 0 1 [(0, 0x10000)]
        transBytes (fun va => u.transWrite (islAgent 0) 1 va (u.running 1)) [(0, 0x10000)] = .go [(0, .pa 0x500000)])) ∧
    (let s := (regs (paged (one k0 { desc := desc1, engines := [(0, { state := .stopping, dir := true, ring := [⟨0, [7], 0, false⟩], moved := 1 })] }))
       [(R.mmuTcmd 0 1, 0x10000)]).wr64 0x401008 0x50001A
     ((s.cell k0).eng 0).mayWrite = true ∧
       (let u := s.learnBeat 0 1 [(0, 0x10000)]
        (match transBytes (fun va => u.transWrite (islAgent 0) 1 va (u.running 1)) [(0, 0x10000)] with | .version _ _ => true | _ => false) = true)) ∧
    (let s := one k0 { desc := desc1, engines := [(0, { state := .stopping, dir := true, ring := [⟨0, [7], 0, false⟩], moved := 1 })] }
     ((s.cell k0).eng 0).mayWrite = true ∧
       (let u := s.learnBeat 0 0 [(0, 0x10000)]
        transBytes (fun va => u.transWrite (islAgent 0) 0 va (u.running 0)) [(0, 0x10000)] = .absent 0x10000)) ∧
    (let x : Engine := { state := .running, ring := [⟨0, List.replicate 32 0, 1, true⟩], replies := [⟨0, 0, [7]⟩] }
     x.replies = ⟨0, 0, [7]⟩ :: [] ∧ x.ring = [⟨0, List.replicate 32 0, 1, true⟩]) ∧
    (let x : Engine := { state := .draining, ring := [⟨0, [], 1, true⟩], dones := [0] }
     x.dones = 0 :: [] ∧ x.ring = [⟨0, [], 1, true⟩]) ∧
    ({ state := .stopping } : Engine).ring = [] ∧ ({ state := .halted, resume := true } : Engine).resume = true ∧ ({} : Engine).mayWrite = false ∧
    (State.reset.reg (R.islCycle 191)).toNat % 256 = 0 ∧ ((regs State.reset [(R.islCycle 191, 257)]).reg (R.islCycle 191)).toNat % 256 = 1 ∧
    (State.reset.isl 191).dampW = none ∧ (State.reset.isl 191).dheld = [] := by decide
set_option maxRecDepth 20000 in
theorem test_meets_StreamEngineEvents_windows : State.reset.Canon := canon_of _ (by decide)
set_option maxRecDepth 20000 in
theorem test_meets_SieveTakesAndFlushes :
    (let s := one k1 { sieve := { cfg := svCfg, flushes := [⟨0x2000, [1, 2], 0x3000, 1, 0x2000, 2⟩] } }
     s.cellExists k1 = true ∧ isMemCell k1 = true ∧ s.sieveTakes k1 0xFFFE0 32 = false ∧ 0xFFFE0 + 32 ≤ sramSize k1 ∧
       (s.cell k1).sieve.flushes = ⟨0x2000, [1, 2], 0x3000, 1, 0x2000, 2⟩ :: [] ∧ s.islFaulted 0 = false ∧ (s.cell k1).run ≠ .faulted ∧
       svEn svCfg = true ∧ svWBase svCfg ≤ 4064 ∧ 4064 + 32 ≤ svWBase svCfg + svWSize svCfg ∧ s.inArea k1 4064 32 = false ∧
       (sieveTake (svFmt svCfg) (svK svCfg) (svLists svCfg) none (pairsOf (List.replicate 32 0)) [] 0).2.2 = false ∧
       (sieveTake (svFmt svCfg) (svK svCfg) 32 none (pairsOf (List.replicate 12 0 ++ [32, 0, 0, 0x80] ++ List.replicate 16 0)) [] 0).2.2 = true ∧ svLists 0x1000805463 = 32 ∧
       s.inWin k1 4064 32 = true ∧ (1 : BitVec 8) ≠ s.ecmd (s.isl k1.isl).table) ∧
    (let s := one k1 { sieve := { cfg := svCfg, flushes := [⟨0x2020, [], 0x3000, 1, 0x2000, 2⟩] } }
     (s.cell k1).sieve.flushes = ⟨0x2020, [], 0x3000, 1, 0x2000, 2⟩ :: [] ∧ s.syncs = [] ∧ (s.cell k1).feBit (0x3000 / 8) = false ∧
       s.plain (sramBase k1 + 8 * (0x3000 / 8)) 8 = true ∧ ((s.cell k1).setFe (0x3000 / 8) true).feBit (0x3000 / 8) = true) := by decide
set_option maxRecDepth 20000 in
theorem test_meets_SieveTakesAndFlushes_canon : (one k1 { sieve := { cfg := svCfg } }).Canon := canon_of _ (by decide)
set_option maxRecDepth 20000 in
theorem test_meets_RoutesApproach : (0 : Nat) < 192 ∧ (191 : Nat) < 192 ∧ (0 : Nat) ≠ 191 := by decide

/-! ### Hypotheses of the statements are met: mesh, memory, pages -/

/-- A read of 32 bytes of vault 0 from island 13, one router on its way; a reply at its island; a multicast copy that arrived. -/
def pktRead : Packet := { Packet.mk0 13 0 .read with len := 32, at_ := 0 }
def pktReply : Packet := { Packet.mk0 0 1 .readReply with data := [7], table := 1, cmd := 1, at_ := 1 }
def pktCopy : Packet := { Packet.mk0 0 3 .multicast with mc := true, arrived := true, at_ := 0, data := [1, 2] }

set_option maxRecDepth 20000 in
theorem test_meets_MeshPackets :
    (let s : State := { State.reset with mesh := [{ pktRead with at_ := 13 }] }
     s.mesh[0]? = some { pktRead with at_ := 13 } ∧ agentStop pktRead.dst = some 0 ∧ nextHop 13 0 = some (12, false) ∧
       s.isHead 0 { pktRead with at_ := 13 } = true ∧
       s.bufFlits { pktRead with at_ := 12, port := entryPort 13 12, cyc := 1, todo := none } + pktRead.flits ≤ 5 ∧ pktRead.arrived = false ∧ pktRead.port ≠ 5) ∧
    (let s : State := { State.reset with mesh := { pktRead with at_ := 13 } :: List.replicate 5 { pktRead with at_ := 12, port := entryPort 13 12 } }
     s.isHead 0 { pktRead with at_ := 13 } = true ∧
       5 < s.bufFlits { pktRead with at_ := 12, port := entryPort 13 12, cyc := 1, todo := none } + pktRead.flits ∧
       s.mesh[2]? = some { pktRead with at_ := 12, port := entryPort 13 12 } ∧ s.isHead 2 { pktRead with at_ := 12, port := entryPort 13 12 } = false) ∧
    (let s : State := { State.reset with mesh := [pktRead] }
     agentStop pktRead.dst = some pktRead.at_ ∧ s.isHead 0 pktRead = true ∧ s.staleReply pktRead = false ∧ pktRead.op = .read) ∧
    (let s : State := (regs (State.reset.updIsl 0 (fun i => { i with table := 1 })) [(R.tblCtl 0 1, 0x11)]).setTbl 1 { deal := .go [] }
     s.dealHeldPA (sramBase k1 + 0xFFFF0) 16 = true ∧ State.reset.dealHeldPA (sramBase k1 + 0xFFFF0) 16 = false) ∧
    (let s : State := ({ State.reset with mesh := [pktReply] } : State).updIsl 1 (fun i => { i with table := 1 })
     agentStop pktReply.dst = some pktReply.at_ ∧ s.staleReply pktReply = true ∧ State.reset.staleReply pktReply = false) ∧
    (let s : State := { State.reset with mesh := [pktCopy] }
     (∀ q ∈ s.mesh.take 0, (q.mc && q.arrived && q.at_ == pktCopy.at_) = false) ∧ s.fld (R.islMcg 0 3) 23 16 = (s.isl 0).table ∧
       s.cellExists ⟨0, 0⟩ = true ∧ s.sieveTakes ⟨0, 0⟩ 0 2 = false ∧ s.dealHeld ⟨0, 0⟩ 0 2 = false ∧ s.plain (sramBase ⟨0, 0⟩) 2 = true ∧ s.plain (vaultBase 0) 2 = true ∧ (regs s [(R.islMcg 0 3, 0x10000)]).fld (R.islMcg 0 3) 23 16 ≠ (s.isl 0).table) := by decide
def rdReq : MemReq := ⟨false, 0, 32, [], 13, .none, 0, 0⟩
set_option maxRecDepth 20000 in
theorem test_meets_MemoryServes :
    (let s := State.reset.setQueue (vaultQ 191) [rdReq]
     s.queue (vaultQ 191) = rdReq :: [] ∧ rdReq.write = false) ∧
    (let s := State.reset.setQueue (farQ 31) [{ rdReq with write := true }]
     s.queue (farQ 31) = { rdReq with write := true } :: []) ∧ State.reset.Canon ∧ (2 : BitVec 2) ≠ 3 :=
  ⟨by decide, by decide, canon_of _ (by decide), by decide⟩
/-- One version record of table 1 for the page of `paged`, written by the committed command. -/
def swept : State :=
  let s := (paged State.reset).wr64 0x401008 0x50008A
  let s1 := ((regs s [(R.mmuTver 0 1, 0x700000), (R.mmuTcmd 0 1, 2 ^ 17 + 2 ^ 32 + 5 * 256)]).setVrec 1 0 ⟨0x510000, 0, 5, true, false⟩)
  { s1 with vpages := [(65536, 0x401008)] }
set_option maxRecDepth 20000 in
theorem test_meets_PageEvents_sweep : swept.sweeping 1 = true ∧ swept.Canon ∧ swept.nrec 1 = 1 ∧ swept.recEntry 1 0 = some 0x401008 ∧
    (swept.vrec 1 0).wvalid = true ∧ (swept.vrec 1 0).kvalid = false ∧ (swept.vrec 1 0).wcmd = swept.ccmd 1 ∧ (swept.tbl 1).dropping = false ∧
    swept.stepPending 1 ⟨0x401008, swept.rd64 0x401008, false⟩ = false :=
  ⟨by decide, canon_of _ (by decide), by decide⟩
set_option maxRecDepth 20000 in
theorem test_meets_PageEvents_copies :
    ({ State.reset with vcopy := [(1, ⟨1, 0x401008, 0, 0x500000, 0x510000, false, 0⟩)] } : State).copying 1 = some ⟨1, 0x401008, 0, 0x500000, 0x510000, false, 0⟩ ∧
    (let s := (regs ((paged State.reset).wr64 0x401008 0x50002A) [(R.mmuTstep 0 1, 2 ^ 33 + 3)]).setTbl 1 { copyPage := some 0x10000 }
     (s.tbl 1).copyPage = some 0x10000 ∧
       (let s0 := s.updTbl 1 (fun x => { x with copyPage := none })
        s0.walk 1 0x10000 = .page ⟨0x401008, 0x50002A, false⟩ ∧ 1 < (s0.copied 1 ⟨0x401008, 0x50002A, false⟩).fld (R.mmuTstep 0 1) 63 32)) ∧
    (swept.upsetOf (blockOf (swept.recAddr 1 0)) = [] ∧ swept.upsetOf (blockOf 0x401008) = []) ∧
    (State.reset.populated 0x10000 0x10000 = true ∧ State.reset.inWindow 0x10000 = false ∧ State.reset.retired.contains 0x10000 = false ∧
      State.reset.frameClass 0x10000 = some (0, false)) := by decide
set_option maxRecDepth 20000 in
theorem test_meets_RakeCopiesAndBlocks : bit 0 (State.reset.rake 1).cfg = true ∧ field 47 32 (State.reset.rake 1).rate ≠ 0 ∧
    field 15 0 (State.reset.rake 1).rate ≠ 0 ∧ (State.reset.rakeBlock 1 1 0).isSome = true ∧ (State.reset.rakeBlock 1 1 1).isSome = true ∧
    (State.reset.rakeBlock 1 2 0).isSome = false := by decide

/-! ### Hypotheses of the statements are met: synchronisation, channels, mailboxes -/

def sreq (v : SyncV) : SyncReq := ⟨0, .cell 0, v, .window 0 0, 7, true, 100, 1, 0, false, false, false, .atHome, 0⟩
def roundWord (n a : Nat) : Word := (⟨n, a, 0, 1, false⟩ : Round).toWord
set_option maxRecDepth 20000 in
theorem test_meets_SyncOperationsAtHome :
    (let s : State := { State.reset with syncs := [sreq .rwait], wins := [(0, ⟨roundWord 3 1, true⟩)] }
     s.syncs = [sreq .rwait] ∧ (sreq .rwait).stage = .atHome ∧ s.wordOwner (.window 0 0) = 0 ∧ (s.wordGet (.window 0 0)).2 = true ∧
       (s.round (.window 0 0)).drain = false ∧ (s.round (.window 0 0)).a + 1 < (s.round (.window 0 0)).n) ∧
    ((State.reset.wordGet (.window 0 0)).2 = false ∧ field 15 0 (sreq .rset).value ≠ 0 ∧ (State.reset.round (.window 0 0)).n = 0) ∧
    (let s := regs State.reset [(R.syncWown 0 0, 2)]
     s.wordOwner (.window 0 0) ≠ (sreq .ldfe).table ∧ s.wordOwner (.window 0 0) ≠ 0 ∧ (sreq .ldfe).who = .cell 0) ∧
    (let s : State := { State.reset with bad := [(sramBase k1, [(0, 1), (1, 1), (2, 1)])] }
     s.homeSpoilt (.sram k1 0) = true ∧ State.reset.homeSpoilt (.sram k1 0) = false) ∧
    (let s : State := { State.reset with wins := [(0, ⟨roundWord 3 2, true⟩)] }
     (s.round (.window 0 0)).drain = false ∧ (s.round (.window 0 0)).n ≤ (s.round (.window 0 0)).a + 1 ∧ (s.round (.window 0 0)).a ≠ 0) ∧
    (let s : State := { State.reset with wins := [(0, ⟨roundWord 1 1 ||| 2 ^ 50, true⟩)] }
     (s.round (.window 0 0)).drain = true ∧ (s.round (.window 0 0)).e < (s.round (.window 0 0)).n) ∧
    (let s : State := { State.reset with wins := [(0, ⟨(⟨1, 1, 1, 1, true⟩ : Round).toWord, true⟩)] }
     (s.round (.window 0 0)).drain = true ∧ (s.round (.window 0 0)).n ≤ (s.round (.window 0 0)).e) := by decide
set_option maxRecDepth 20000 in
theorem test_meets_SyncRepliesAndPorts :
    (let s : State := { (one k0 { sync := .waiting 0 }) with syncs := [{ sreq .ldfe with stage := .replied 0 9 }] }
     s.syncReq 0 = some { sreq .ldfe with stage := .replied 0 9 } ∧ (s.cell (ofGid 0)).sync = .waiting 0) ∧
    (let x := { sreq .ldfe with stage := .parked }
     ({ State.reset with syncs := [x] } : State).syncReq 0 = some x ∧ x.timed = true ∧ x.ruled = false ∧ x.expired = false) ∧
    (∀ st ∈ [SyncStage.retry, .satisfiable, .replied 0x0401 9, .replied 0x0403 9, .parked],
      let x := { sreq .rwait with stage := st, expired := true }
      ({ State.reset with syncs := [x] } : State).syncReq 0 = some x ∧ x.ruled = false ∧ x.v.isRound = true ∧ SyncV.isRound .ldfe = false) ∧
    (let s : State := { State.reset with wins := [(0, ⟨roundWord 1 1 ||| 2 ^ 50, true⟩)] }
     (s.wordGet (.window 0 0)).2 = true ∧ (s.round (.window 0 0)).drain = true ∧ s.roundWaiters (.window 0 0) = []) ∧
    (let x := { sreq .rwait with stage := .parked }
     let s : State := { State.reset with syncs := [x], wins := [(0, ⟨roundWord 1 1 ||| 2 ^ 50, true⟩)] }
     (s.wordGet x.home).2 = true ∧ (s.round x.home).drain = true ∧ s.roundWaiters x.home = x :: []) ∧
    (let s := (regs State.reset [(R.syncTmap 1 1, 0x600000 + 1), (R.syncPres 31, 0x10000)]).wr64 0x600000 2
     bit 16 (s.reg (R.syncPres 31)) = true ∧ bit 15 (s.reg (R.rstFence 1)) = false ∧ s.syncTrans (coreAgent 31) (31 / 16) 1 0 = .ok (.window 0 0) ∧
       s.syncTrans (coreAgent 31) (31 / 16) 2 0 = .error K.eSyncUnmapped ∧ bit 16 ((regs s [(R.syncPres 31, 0)]).reg (R.syncPres 31)) = false ∧
       (s.syncLearn (coreAgent 31) (31 / 16) 1 0).syncTrans (coreAgent 31) (31 / 16) 1 0 = .ok (.window 0 0) ∧
       (s.syncLearn (coreAgent 31) (31 / 16) 2 0).syncTrans (coreAgent 31) (31 / 16) 2 0 = .error K.eSyncUnmapped) := by decide
def msg : ChMsg := ⟨0, 0, .cell 0, 1, 0, [1, 2, 3], false, 0, false⟩
set_option maxRecDepth 20000 in
theorem test_meets_Channels :
    (State.reset.chmsgs = [] ∧ State.reset.chState 0 0 ≠ 1 ∧ (0x1000000 : Nat) % 2 ^ 24 = 0 ∧ (State.reset.frameClass 0x1000000).isSome = true) ∧
    (let s : State := { chan1 State.reset with chmsgs := [msg] }
     s.chState 0 0 = 1 ∧ placeMsg (s.chSize 0 0) (s.rtail 0 0) (s.chHead 0 0) msg.bytes.length = some (false, 0, 32)) ∧
    placeMsg 4096 4096 0 1 = none ∧ placeMsg 4096 4064 32 40 = none ∧ placeMsg 4096 4064 64 40 = some (true, 0, 4160) ∧
    (let s := regs State.reset [(R.chnPos 0 0, 64)]
     ((64 : BitVec 32) - s.chHead 0 0).toNat ≤ (s.chTail 0 0 - s.chHead 0 0).toNat ∧ (s.chTail 0 0 - s.chHead 0 0).toNat < ((96 : BitVec 32) - s.chHead 0 0).toNat) ∧
    (let s := regs (chan1 State.reset) [(R.chnPeer 0 0, 2 ^ 25 + 256 * 2 ^ 13), (R.syncPres 0, 0x10000), (R.syncPtmo 0, 65528), (R.chnRing 0 0, 17 * 2 ^ 48)]
     s.portOpen 0 = true ∧ s.sendCheck ((0 : BitVec 16).setWidth 64) (s.reg (R.syncPtmo 0)).toNat 65528
       (fun die ch => s.chOfCore 0 die ch || (s.chSkind die ch && s.running (s.chSender die ch % 256))) = .ok (0, 0) ∧ s.chState 0 0 ≠ 2 ∧
       (s.readBlocks (s.chTable 0 0) (blocksOf 0 65528)).spoilt 0 40 = false ∧
       (match s.sendCheck ((1 : BitVec 16).setWidth 64) 65528 65528 (fun die ch => s.chOfCore 0 die ch || (s.chSkind die ch && s.running (s.chSender die ch % 256))) with
        | .ok _ => false | .error _ => true) = true ∧ (regs State.reset [(R.syncPres 0, 0)]).portOpen 0 = false) ∧
    (let s : State := { regs (chan1 State.reset) [(R.chnPeer 0 0, 2 ^ 26 + 2 ^ 12 + 2 ^ 13)] with chmsgs := [{ msg with placed := true }] }
     s.chState 0 0 = 2 ∧ s.chSkind 0 0 = true ∧ s.chmsgs = [{ msg with placed := true }]) := by decide
set_option maxRecDepth 20000 in
theorem test_meets_Doorbells : State.reset.Canon := canon_of _ (by decide)
set_option maxRecDepth 20000 in
theorem test_meets_Mailboxes : State.reset.Canon ∧ State.reset.mbxFull 1 287 = false ∧ ¬ ((31 : Nat) < 32 ∧ MbxWriter.other = .core 31 ∨ (32 : Nat) ≤ 31 ∧ MbxWriter.other = .session 0) ∧
    (32 ≤ 287 ∧ MbxWriter.session (287 - 32) = .session 255) ∧ (regs State.reset [(R.mbxCtl 1 287, 1)]).mbxFull 1 287 = true ∧
    (regs State.reset [(R.mbxCtl 1 31, 1)]).mbxFull 1 31 = true ∧ (31 : Nat) < 32 ∧
    State.reset.mbxStale.contains (1 * 288 + 31) = false ∧ ({ State.reset with mbxStale := [319] } : State).mbxStale.contains (1 * 288 + 31) = true :=
  ⟨canon_of _ (by decide), by decide⟩

/-! ### Hypotheses of the statements are met: tables, jobs, links -/

def job1 : Job :=
  { handle := 1, key := 5, session := some 0, table := 1, trump := false, rows := 1, cols := 1, short := 0, nw := some 0, grant := 20,
    dsize := 0, seats := [], digest := 0, jid := 0, rank := 0, nranks := 1, lead := 0, partner := 0, image := [] }
def cmdA (st : CmdSt) : Cmd := { num := 1, req := { cmd0 with limit := 10 }, st := st }
/-- Table 1 valid, owning island 0; `r` further registers, `x` what the table holds. -/
def tab (r : List (Nat × Word)) (x : Tbl) : State :=
  (regs (State.reset.updIsl 0 (fun i => { i with table := 1 })) ((R.tblCtl 0 1, 1) :: r)).setTbl 1 x
def running1 : Nat × Word := (R.mmuTcmd 0 1, 0x10000)

set_option maxRecDepth 20000 in
theorem test_meets_CommandsGrantsAndPlacement_start :
    ((tab [] {}).Canon ∧ SMap.wf Tbl.dflt (tab [] {}).tbls = true ∧ (tab [] {}).canStart 1 = true ∧ (tab [] {}).jobOf 1 = none ∧
      (tab [] {}).spanning 1 = false) ∧
    (let s : State := { (tab [] { job := 1 }) with jobs := [{ job1 with cmds := [cmdA .killed] }] }
     s.canStart 1 = true ∧ (s.jobOf 1).bind Job.nextCmd = some (cmdA .killed) ∧ (cmdA .killed).st = .killed) ∧
    (let s : State := { (tab [running1] { job := 1 }) with jobs := [{ job1 with cmds := [cmdA .running] }] }
     (s.jobOf 1).bind Job.running = some (cmdA .running) ∧ (cmdA .running).req.limit ≠ 0 ∧ s.running 1 = true) ∧
    ((tab [] {}).isRerun 1 start0 = false ∧ State.reset.canStart 1 = false ∧ State.reset.tvalid 1 = false ∧
      (tab [running1] { deal := .wait 4095 }).tvalid 1 = true ∧ ((tab [running1] { deal := .wait 4095 }).tbl 1).deal = .wait 4095 ∧
      ((tab [running1] { deal := .load [] }).tbl 1).deal = .load []) := by
  refine ⟨⟨canon_of _ (by decide), by decide⟩, by decide, by decide, by decide⟩
set_option maxRecDepth 20000 in
theorem test_meets_CommandsGrantsAndPlacement_commit :
    (let s := tab [running1, (R.tblState 0 1, 2)] {}
     s.tvalid 1 = true ∧ s.tbusy 1 = false ∧ s.tstate 1 = 2 ∧ s.running 1 = true ∧ (s.tbl 1).scanned = false ∧ (s.tbl 1).failed = none ∧ (s.tbl 1).ue = false) ∧
    (((tab [running1, (R.tblState 0 1, 2)] { ue := true }).tbl 1).ue = true ∧ ((tab [running1, (R.tblState 0 1, 2)] { scanned := true }).tbl 1).scanned = true ∧
      ((tab [running1, (R.tblState 0 1, 2)] { failed := some 0x0107 }).tbl 1).failed = some 0x0107) ∧
    (let s := tab [running1, (R.tblState 0 1, 2)] { commit := some true }
     (s.tbl 1).commit = some true ∧ s.drained 1 = true ∧
       (((s.homeSees 1).setTstate 1 3).closingDeal 1).uncleanSum 1 = 0 ∧ ((s.homeSees 1).setTstate 1 3).spanning 1 = false) ∧
    (let s := ((tab [running1, (R.tblState 0 1, 2)] { commit := some true }).updIsl 0 (fun i => { i with cleanExit := true })).setFifo kE 1 [dat]
     s.drained 1 = true ∧ (((s.homeSees 1).setTstate 1 3).closingDeal 1).uncleanSum 1 ≠ 0) ∧
    ((tab [running1, (R.tblState 0 1, 3)] {}).tstate 1 ≠ 2) ∧
    (let s1 := (tab [running1, (R.tblState 0 1, 2)] {}).setRes 1 0 false
     s1.running 1 = true ∧ s1.spanning 1 = false) ∧
    (let s := tab [running1, (R.tblState 0 1, 4)] { kill := some .rerun }
     (s.tbl 1).kill = some .rerun ∧ s.tstate 1 = 4) ∧
    (let s := tab [(R.islWdog 0, 2 ^ 63), (R.islSeq 0, 1)] {}
     (s.isl 0).table = 1 ∧ bit 63 (s.reg (R.islWdog 0)) = true ∧ s.fld (R.islSeq 0) 2 0 = 1) := by decide
set_option maxRecDepth 20000 in
theorem test_meets_CommandsGrantsAndPlacement_grant :
    (let s := tab [(R.islSlice 0, 2 ^ 63 + 5)] {}
     s.tableIsls 1 = 0 :: [] ∧ bit 63 (s.reg (R.islSlice 0)) = true) ∧
    (let s : State := { (tab [(R.islSlice 0, 2 ^ 63 + 5)] { job := 1 }) with jobs := [job1] }
     s.jobOf 1 = some job1 ∧ job1.nw = some 0 ∧ job1.trump = false ∧ ({ job1 with trump := true } : Job).trump = true ∧ s.waiterFor 1 = none ∧
       job1.reply = none) ∧
    (let j := { job1 with nw := none, want := some 191 }
     let s : State := { State.reset with jobs := [j] }
     s.job 1 = some j ∧ j.want = some 191 ∧ (∀ i ∈ rect 191 j.rows j.cols, (s.isl i).table = 0)) ∧
    (let j := { job1 with nw := none }
     let s : State := { State.reset with jobs := [j] }
     s.jobs = j :: [] ∧ s.freePlace 1 j.rows j.cols j.short 191 = some 191) := by decide
/-- Rank 2 of 4 of a spanning job of table 1; rank 3 is its child. -/
def rankTwo (r : List (Nat × Word)) (x : Tbl) : State :=
  tab ([running1, (R.gulJmap0 0 1, 9 + 2 * 2 ^ 32 + 3 * 2 ^ 48), (R.gulJmap1 0 1, 2 ^ 32)] ++ r) x
set_option maxRecDepth 20000 in
theorem test_meets_TwoPhaseCommit :
    (rankTwo [] {}).spanning 1 = true ∧ (rankTwo [] {}).rank 1 ≠ 0 ∧ (rankTwo [] {}).running 1 = true ∧ ((rankTwo [] {}).tbl 1).prep = false ∧
    ((rankTwo [] {}).children 1).contains 3 = true ∧ ((rankTwo [] {}).tbl 1).ready.contains 3 = false ∧
    (rankTwo [(R.gulJstat 0 1, 2 * 2 ^ 32)] { commit := some false }).gphase 1 = 2 ∧
    (tab [(R.gulJmap0 0 1, 9), (R.gulJmap1 0 1, 2 ^ 32)] {}).rank 1 = 0 ∧ (tab [(R.gulJmap0 0 1, 9), (R.gulJmap1 0 1, 2 ^ 32)] {}).spanning 1 = true := by
  decide
set_option maxRecDepth 20000 in
theorem test_meets_RanksFormATree : (0 : Nat) < 65535 ∧ (65535 : Nat) < 65536 ∧ treeParent 65535 = 65534 := by decide
def frame0 : DFrame := ⟨0, 0, 0, [1]⟩
set_option maxRecDepth 20000 in
theorem test_meets_DealsAndScans :
    (let s := tab [running1, (R.tblState 0 1, 2)] {}
     s.tvalid 1 = true ∧ s.tbusy 1 = false ∧ s.tstate 1 ≠ 3 ∧ s.tstate 1 ≠ 4 ∧ s.running 1 = true) ∧
    (tab [(R.tblState 0 1, 3)] {}).tstate 1 = 3 ∧
    (let s := tab [running1] { deal := .wait 5 }
     (s.tbl 1).deal = .wait 5 ∧ s.drained 1 = true ∧ (match s.checkAll 1 5 (s.tableIsls 1) with | .error _ => true | .ok _ => false) = true ∧ (s.readImgs 1 5).2 = true) ∧
    (let s := (tab [running1] { deal := .wait 5 }).updIsl 0 (fun i => { i with table := 2 })
     s.drained 1 = true ∧ s.checkAll 1 5 (s.tableIsls 1) = .ok [] ∧ (s.readImgs 1 5).2 = true) ∧
    (let s := tab [running1] { deal := .go [⟨0, true, false, [frame0]⟩] }
     (s.tbl 1).deal = .go [⟨0, true, false, [frame0]⟩] ∧ (s.tbl 1).dealt = false) ∧
    (let s := tab [running1] { deal := .load [⟨0, true, false, []⟩, ⟨1, true, false, []⟩] }
     (s.isl 0).table = 1 ∧ (s.tbl 1).deal = .load [⟨0, true, false, []⟩, ⟨1, true, false, []⟩] ∧ (0 : Nat) ≠ 1) ∧
    (let s := tab [] {}
     s.tvalid 1 = true ∧ s.tbusy 1 = false ∧ s.running 1 = false ∧ s.tstate 1 = 0 ∧ s.mayAutoStart 1 = true) ∧
    (let s : State := { (tab [] { job := 1 }) with jobs := [{ job1 with cmds := [cmdA .queued] }] }
     s.running 1 = false ∧ s.mayAutoStart 1 = true ∧ ({ s with jobs := [job1] } : State).mayAutoStart 1 = false) ∧
    (let s := tab [] { scan := some false }
     (s.tbl 1).scan = some false ∧ s.tableIsls 1 = [0] ∧ s.badBlocks (s.fld (R.tblScan 0 1) 47 12 * 4096) 0x400000 = []) ∧
    ((tab [] { scan := some true }).tbl 1).scan = some true ∧
    (let s := tab [(R.tblState 0 1, 6)] {}
     s.tstate 1 = 6 ∧ s.mayAutoStart 1 = true) := by decide
/-- A meld of table 1 on die 0 in a state, with an entry for the watchdog of island 0; the same for a free island. -/
def melding (st : Nat) (x : List (Nat × Word)) : State :=
  { regs (tab [(R.tblState 0 1, 0)] {}) [(R.meldStat 0, BitVec.ofNat 64 st)] with melds := [(0, { table := 1, entries := x })] }
set_option maxRecDepth 20000 in
theorem test_meets_Melds :
    State.reset.fld (R.meldStat 0) 2 0 = 0 ∧
    (let s := melding 1 []
     s.fld (R.meldStat 0) 2 0 ≠ 0 ∧ (∀ e ∈ (s.meld 0).entries, e.1 ≠ s.fld (R.meldSaddr 0) 47 0) ∧ (s.meld 0).entries.length < 8192) ∧
    (let s := melding 1 [(0, 4)]
     (s.meld 0).entries = [(s.fld (R.meldSaddr 0) 47 0, 4)] ∧ bit 59 (s.reg (R.meldStat 0)) = false ∧ (s.meldRules 1 [(0, 4)]).isSome = true) ∧
    (let s := melding 1 [(R.islWdog 0, 5)]
     s.meldRules (s.meld 0).table (s.meld 0).entries = none ∧ regDie (R.islWdog 0) = 0) ∧
    (let s := melding 3 [(R.islWdog 0, 5)]
     let t : State := { s with melds := [(0, { s.meld 0 with snap := s.meldSnap 1 (s.meld 0).entries })] }
     s.meldDirty 0 = true ∧ t.meldDirty 0 = false ∧ t.fld (R.meldStat 0) 2 0 = 3 ∧ t.groupsBusy (t.meld 0).entries = false) ∧
    (let s : State := { (melding 4 [(R.islMcg 0 3, 5)]) with mesh := [{ Packet.mk0 0 3 .multicast with mc := true, at_ := 0, data := [1, 2] }] }
     s.fld (R.meldStat 0) 2 0 = 4 ∧ s.groupsBusy (s.meld 0).entries = true) := by decide
def gpk : GPkt := { ddev := 0, sdev := 3, op := 2, cls := 3, job := 9, cnum := 0, hops := 63, dagent := 4095, len := 511, addr := 2 ^ 48 - 1, tag := 65535 }
set_option maxRecDepth 20000 in
theorem test_meets_FramesRoundTrip : gpk.dagent < 2 ^ 12 ∧ gpk.op < 16 ∧ gpk.hops < 64 ∧ gpk.cls < 4 ∧ gpk.len < 512 ∧ gpk.addr < 2 ^ 48 ∧ gpk.tag < 2 ^ 16 ∧
    (2 ^ 24 - 1 : Nat) < 2 ^ 24 ∧ (List.replicate 19 ((15 : Nat), (2 ^ 256 - 1 : Nat))).length ≤ 19 ∧
    ∀ x ∈ List.replicate 19 ((15 : Nat), (2 ^ 256 - 1 : Nat)), x.1 < 16 ∧ x.2 < 2 ^ 256 := by decide
def linkUp (x : GLink) : State := { regs State.reset [(R.gulLstat 31, 2), (R.gulLcfg 31, 1)] with glinks := [(31, x)] }
set_option maxRecDepth 100000 in
set_option exponentiation.threshold 6000 in
theorem test_meets_GulrasLinks_frames :
    ((linkUp { tx := 1 }).linkState 31 = 2 ∧ frameOk 0 = false) ∧
    (let f := frameBits 5 0 true false false 0 []
     frameOk f = true ∧ f.toNat.testBit 25 = false ∧ f.toNat % 4096 = 5) ∧
    (let f := frameBits 0 0 false true false 0 []
     frameOk f = true ∧ f.toNat.testBit 25 = true) := by decide
set_option maxRecDepth 20000 in
theorem test_meets_GulrasLinks_rest :
    (({ replay := [⟨0, 0, 0, [9], [5]⟩] } : GLink).replay ≠ []) ∧
    (let s := regs (linkUp { rxq := [gpk] }) [(R.gulLstat 31, 0)]
     (s.glink 31).rxq = gpk :: [] ∧ gpk.ddev = s.gulDev ∧ gpk.isReply = false ∧ s.linkState 31 ≠ 2 ∧ SMap.wf GLink.dflt s.glinks = true ∧
       bit 0 (s.reg (R.gulLcfg 31)) = true ∧ (s.glink 31).txq = []) ∧
    (State.reset.routeBank 0 = b2n false ∧ State.reset.routeBank 0 ≠ b2n true ∧ State.reset.changedDevs 0 = [] ∧ State.reset.holds = []) ∧
    (let s := regs State.reset [(R.gulLstat 0, 2), (R.gulTcfg 0, 0), (R.gulTstat 0, 5)]
     bit 5 (s.reg (R.gulTcfg 0)) = false ∧ s.linkState (s.fld (R.gulTcfg 0) 4 0) = 2 ∧ s.spanHeld = false ∧
       0 < (BitVec.ofNat 32 (s.fld (R.gulTstat 0) 31 0)).toInt) ∧
    (rankTwo [] {}).spanHeld = true := by decide
def here (p : GPkt) (s : State) : State := { s with gin := [⟨p, 0, 0, none⟩] }
set_option maxRecDepth 20000 in
theorem test_meets_RemoteMemoryAndCollectives_admit :
    ((here gpk State.reset).gin = [⟨gpk, 0, 0, none⟩] ∧ gpk.job ≠ 0 ∧ (here gpk State.reset).jobTable gpk.job = none) ∧
    (let s := here gpk (rankTwo [(R.gulJstat 0 1, 2 ^ 32)] {})
     s.jobTable gpk.job = some 1 ∧ gpk.cnum = s.cnum 1 ∧ s.gphase 1 = 1) ∧
    (let s := here { gpk with cnum := 1 } (rankTwo [] {})
     (s.cnum 1).toNat < (1 : BitVec 32).toNat ∧ gpk.replyOp = some 3) ∧
    (let s := rankTwo [(R.gulJstat 0 1, 1)] {}
     gpk.cnum.toNat < (s.cnum 1).toNat) := by decide
set_option maxRecDepth 20000 in
theorem test_meets_RemoteMemoryAndCollectives_access :
    (match (State.reset.remoteLand 0 0 { gpk with addr := 0, data := [1] }).2 with | .done => true | _ => false) = true ∧
    (match ((paged State.reset).remoteLand 0 1 { gpk with addr := 0x10000, data := [1] }).2 with | .refused _ => true | _ => false) = true ∧
    (match ((paged State.reset).takeVA (gulAgent 0) 1 0x10000 4 true).2 with | .ok _ => true | _ => false) = true ∧
    (match ((paged State.reset).takeVA (gulAgent 0) 1 0x20000 4 true).2 with | .ok _ => false | _ => true) = true ∧
    (match (State.reset.takeFor 0 0 0 256).2 with | .ok _ => true | _ => false) = true ∧ (match (State.reset.takeFor 0 1 0 256).2 with | .ok _ => false | _ => true) = true := by decide
set_option maxRecDepth 20000 in
theorem test_meets_RemoteMemoryAndCollectives_ports :
    (let s := rankTwo [(R.gulQres 31, 0x10000)] {}
     bit 16 (s.reg (R.gulQres 31)) = true ∧ s.coreFenced 31 = false ∧ (s.qopJob 1).isSome = true ∧ s.qopJob 2 = none ∧ s.coll 1 0 = none) ∧
    descOk [0, 6, 6, 0, 1, 0, 0, 0, 0, 0, 0, 0] = true ∧ descOk [0, 6, 6, 0, 0, 0, 0, 0, 0, 0, 0, 0] = false ∧
    (let s : State := { State.reset with gops := [(31, { table := 0, fill := false, sid := 0, cmd := 0 })] }
     (s.gop 31).isSome = true ∧ (∀ r ∈ s.greqs, r.core ≠ 31) ∧ (s.tbl 0).commit = none) ∧
    (let c : Coll := { table := 1, seq := 7, core := 0, job := 9, num := 1, desc := [0, 6, 6, 0, 1, 0, 0, 0, 0, 0, 0, 0, 7, 0, 0, 0] }
     ({ State.reset with colls := [c] } : State).coll 1 7 = some c ∧ 0 < c.d.units ∧ c.placed.contains 0 = false) := by decide
def kit1 : Kitty := { job := 9, src := 3, pages := [⟨0x10000, 0x500000, 0x510000⟩], isSealed := some true }
set_option maxRecDepth 20000 in
theorem test_meets_Kitties :
    (State.reset.kitty 9 3 = none) ∧
    (let s : State := { State.reset with kitties := [kit1] }
     s.kitty 9 3 = some kit1 ∧ kit1.page 0x1FF00 = some ⟨0x10000, 0x500000, 0x510000⟩ ∧ kit1.isSealed = some true ∧ kit1.isSealed ≠ some false ∧
       (kit1.got false).contains (0x1FF00 / 0x10000, 0x1FF00 % 0x10000 / 256) = false ∧ kit1.whole kit1.next = 0 ∧
       ((s.takePA 0 (0x510000 + 0xFF00) 256).2).isSome = true) ∧
    ({ kit1 with isSealed := none } : Kitty).isSealed = none := by decide

/-! ### Hypotheses of the statements are met: hosts -/

/-- The main stage runs and port 0 is up; with a session 0 of the source that `hdr` names. -/
def mainUp (s : State) : State :=
  { regs s [(R.secLoad, 3), (R.ethPstat 0, 2)] with sec := { s.sec with entered := true } }
def ses : Sess :=
  { cookie := 0, port := 0, src := 0, udp := 0, nonce := 1, mgmt := true, keep := 1000, linger := 0, rto := 200, expect := 0, heard := 0,
    opened := ⟨0x10, []⟩, next := 1, unacked := [⟨0, ⟨0x10, []⟩, 15, 0⟩], ackDue := true, parts := [⟨7, [0], 0⟩] }
def host (x : Sess) : State := { mainUp State.reset with sess := [(0, x)] }

set_option maxRecDepth 20000 in
theorem test_meets_HostSessions :
    ((mainUp State.reset).mainRuns = true ∧ (mainUp State.reset).portUp 0 = true ∧ (mainUp State.reset).mgmtPort 0 = true ∧ (mainUp State.reset).sess = [] ∧
      (60000 : BitVec 16).toNat ≤ 60000 ∧ (3600 : BitVec 16).toNat ≤ 3600 ∧ 20 ≤ (20 : BitVec 16).toNat ∧ 60000 < (60001 : BitVec 16).toNat) ∧
    ((host ses).sess = (0, ses) :: [] ∧ (ses.nonce == 1 && ses.port == hdrNone.port && ses.src == hdrNone.src && ses.udp == hdrNone.udp) = true) ∧
    ((host ses).sessOf hdr = some ses ∧ (host ses).sessOf { hdr with cookie := 1 } = none ∧ (host ses).session 0 = some ses ∧ ses.ackDue = true) ∧
    (ses.unacked.find? (fun v => v.seq == 0) = some ⟨0, ⟨0x10, []⟩, 15, 0⟩ ∧ ses.parts = [⟨7, [0], 0⟩]) ∧
    (let j := { job1 with session := none }
     let s : State := { State.reset with jobs := [j] }
     s.job 1 = some j ∧ j.session = none ∧ j.ending = false) := by decide
set_option maxRecDepth 20000 in
theorem test_meets_HostRequests :
    (State.reset.mainRuns = false) ∧
    ((host ses).mainRuns = true ∧ (host ses).portUp 0 = true ∧ (host ses).sessOf hdr = some ses ∧ ses.closing = none ∧ hdr.seq = ses.expect) ∧
    (0 < ((63 : BitVec 32) - ses.expect).toNat ∧ ((63 : BitVec 32) - ses.expect).toNat < 64 ∧ 2 ^ 31 ≤ ((0x80000000 : BitVec 32) - ses.expect).toNat) := by
  decide
def win0 : Wndw := ⟨1, 0, 0, 0x10000, 0x10000, true, true, 0, 5, []⟩
def qp0 : Qp := ⟨9, 0, 0, 4, 0, 0, 0, 1, false, 1500, none⟩
set_option maxRecDepth 20000 in
theorem test_meets_HostRequestResults :
    (host ses).session 0 = some ses ∧ ses.mgmt = true ∧ ({ ses with mgmt := false } : Sess).mgmt = false ∧ 1 < (2 : BitVec 8).toNat ∧
    ((host ses).mbxFull 1 32 = false ∧ (regs (host ses) [(R.mbxCtl 1 32, 1)]).mbxFull 1 32 = true) ∧
    ((host ses).ownJob 0 1 = none ∧ (host ses).job 1 = none ∧ (1 : Nat) ≠ 0 ∧ (1 : Nat) % 0x10000 ≠ 0) ∧
    (win0.session = 0 ∧ (2 : Nat) ≠ win0.num ∧ qp0.session = 0 ∧ (8 : BitVec 32) ≠ qp0.num ∧ 2 ^ 24 ≤ (0x1000000 : BitVec 32).toNat) ∧
    (let j := { job1 with cmds := List.replicate 256 (cmdA .queued) }
     let s : State := { host ses with jobs := [j] }
     s.ended.contains 1 = false ∧ s.ownJob 0 1 = some j ∧ j.ending = false ∧ j.rank = 0 ∧ 256 ≤ j.open_.length) ∧
    (({ host ses with ended := [1] } : State).ended.contains 1 = true) ∧
    (let j := { job1 with cmds := [cmdA .queued] }
     j.open_.find? (fun c => c.req.tag == 0) = some (cmdA .queued) ∧ (cmdA .queued).st = .queued) ∧
    ((match ({ State.reset with fuses := { State.reset.fuses with keystoreEn := true } } : State).takeLeaf with | some _ => true | none => true) = true) ∧
    ses.unacked.length < 64 := by decide
set_option maxRecDepth 20000 in
/-- An entry of a program image is an uninterpreted test (log entry 13): where it holds the request is in order. -/
theorem test_meets_HostRequestResults_submit (h : Config.programEntry [] (0 : BitVec 32) = true) : cmdOk job1 { cmd0 with job := 1 } = true := by
  show (true && Config.programEntry [] 0 && true) = true
  rw [h]; rfl
set_option maxRecDepth 20000 in
/-- The FCS is uninterpreted (log entry 10): a frame of 64 bytes carries it or does not. -/
theorem test_meets_EthernetPorts_frame :
    let s := regs State.reset [(R.ethPstat 0, 2), (R.ethPcfg 0, 9216 * 2 ^ 32 + 16)]
    s.portUp 0 = true ∧ 64 ≤ 64 ∧ 64 ≤ s.fld (R.ethPcfg 0) 45 32 ∧ bit (4 + 0) (s.reg (R.ethPcfg 0)) = true ∧
      bit (4 + 1) (s.reg (R.ethPcfg 0)) = false ∧ (bit 0 ((regs s [(R.ethPcfg 0, 1)]).reg (R.ethPcfg 0)) = true) ∧ bit 2 (s.reg R.pinStrap) = false := by decide
set_option maxRecDepth 20000 in
theorem test_meets_EthernetPorts_fcs : ∃ l : List Byte, l.length = 64 ∧ (Config.etherFcs (l.take 60)).toNat ≠ leAt l 60 4 := by
  have h1 : (List.replicate 60 (0 : Byte) ++ [1, 0, 0, 0]).take 60 = List.replicate 60 0 := by decide
  have h2 : (List.replicate 64 (0 : Byte)).take 60 = List.replicate 60 0 := by decide
  by_cases h : (Config.etherFcs (List.replicate 60 0)).toNat = 0
  · exact ⟨List.replicate 60 0 ++ [1, 0, 0, 0], by decide, fun e => absurd (h.symm.trans ((congrArg (fun l => (Config.etherFcs l).toNat) h1.symm).trans e)) (by decide)⟩
  · exact ⟨List.replicate 64 0, by decide, fun e => h ((congrArg (fun l => (Config.etherFcs l).toNat) h2.symm).trans (e.trans (by decide)))⟩
set_option maxRecDepth 20000 in
theorem test_meets_EthernetPorts_addresses :
    (let s : State := { regs State.reset [(R.ethPstat 0, 2)] with nets := [⟨0, false, 0, 24, 0x0A000001⟩, ⟨0, true, 0, 64, 77⟩] }
     s.hasV4 0 0x0A000001 = true ∧ s.hasV6 0 77 = true ∧ (State.reset.hasV4 0 0x0A000001 = false)) ∧
    (let s : State := { mainUp State.reset with qps := [qp0], wndws := [win0] }
     s.portUp 0 = true ∧ s.mainRuns = true ∧ s.qp 0 9 = some qp0 ∧ s.rdmaWindow qp0 5 0x10000 0x10001 true = none ∧
       s.rdmaWindow qp0 5 0x10000 0x10000 true = some win0 ∧ win0.va ≤ 0x1FFFF ∧ 0x1FFFF + 1 ≤ win0.va + win0.len) ∧
    (let w := { win0 with job := 1, wmode := 1 }
     let s : State := { mainUp (tab [running1] {}) with qps := [qp0], wndws := [w], jobs := [job1] }
     let p := paged s
     p.rdmaWindow qp0 5 0x10000 4 false = some w ∧ w.wmode = 1 ∧ w.job ≠ 0 ∧ p.running (p.windowTable w) = true) ∧
    (let w := { win0 with job := 1 }
     let s : State := { mainUp (tab [] {}) with qps := [qp0], wndws := [w], jobs := [job1] }
     let p := paged s
     p.rdmaWindow qp0 5 0x10000 4 false = some w ∧ (match (p.takeVA (ethAgent 0) (p.windowTable w) 0x10000 4 false).2 with | .ok _ => true | _ => false) = true) := by
  decide

/-! ### Hypotheses of the statements are met: boot, reset, power, pins, errors -/

def kind0 (x : Option Load) (st : Word) : State := { regs State.reset [(R.secLoad, st), (R.ethPstat 0, 2)] with sec := { State.reset.sec with entered := true, load := x } }
def load0 : Load := { port := 0, src := 0, udp := 0, nonce := 1, cookie := 0, len := 8272, start := 0, deadline := 5, offer := ⟨0x10, []⟩ }
set_option maxRecDepth 20000 in
theorem test_meets_KindlingAndLoad :
    (State.reset.sec.entered = false ∧ State.reset.episode = none ∧ State.reset.loadState ≠ 4 ∧ State.reset.fuses.stepping0 = State.reset.fuses.stepping1 ∧
      State.reset.fuses.grade0 = State.reset.fuses.grade1 ∧ ({ State.reset.fuses with grade0 := true } : Fuses).grade0 ≠ State.reset.fuses.grade1) ∧
    ((kind0 none 0).sec.entered = true ∧ (kind0 none 0).kindlingRuns = true ∧ (kind0 none 0).portUp hdrNone.port = true ∧ hdrNone.session = 0xFFFF ∧
      hdrNone.cookie = 0 ∧ (kind0 none 0).sec.load = none ∧ (kind0 none 0).sec.attested = none ∧ (8272 : Nat) ≤ 268435536) ∧
    ((kind0 (some load0) 1).sec.load = some load0 ∧ load0.sameSource { hdrNone with udp := 1 } = false ∧ load0.sameSource hdrNone = true ∧
      hdrNone.cookie = load0.cookie ∧ hdrNone.seq = load0.expect ∧ load0.early = [] ∧ 0 = load0.next ∧ 0 + 8192 ≤ load0.len ∧ load0.endSeq = none ∧
      (8192 : Nat) ≠ load0.next) ∧
    ((mainUp State.reset).mainRuns = true ∧ (mainUp State.reset).portUp 0 = true) ∧
    ((kind0 (some load0) 2).loadState = 2 ∧ (kind0 (some load0) 2).kindlingRuns = true ∧ (kind0 (some load0) 2).gtime.toNat < load0.deadline.toNat ∧
      load0.deadline.toNat ≤ ({ kind0 (some load0) 2 with gtime := 5 } : State).gtime.toNat) ∧
    (match (kind0 (some load0) 2).checkImage [] 0 with | .error _ => true | .ok _ => false) = true ∧
    (let e : Episode := { level := .powerOn, held := [.powerOn], seen := [.powerOn], since := 0 }
     ({ State.reset with episode := some e } : State).episode = some e ∧ e.held.contains .powerOn = true) := by decide
set_option maxRecDepth 20000 in
theorem test_meets_FusesOnlyBurn : ∃ t, step State.reset = .next t := ⟨_, rfl⟩
def epi : Episode := { level := .warm, held := [.watchdog], seen := [.watchdog], since := 0 }
set_option maxRecDepth 20000 in
theorem test_meets_ResetEpisodes_package :
    (State.reset.episode = none ∧ State.reset.blocks = [] ∧ State.reset.drivesResetN = false ∧ State.reset.debugLevel ≠ 3) ∧
    (let s : State := { State.reset with episode := some epi }
     s.episode = some epi ∧ epi.level.index < (s.srcLevel .pin).index ∧ s.drivesResetN = true ∧ epi.minOver = false) ∧
    (let e := { epi with level := .powerOn }
     (State.reset.srcLevel .pin).index ≤ e.level.index) ∧
    (let e := { epi with held := [] }
     e.held = [] ∧ e.minOver = false ∧ ({ e with minOver := true } : Episode).minOver = true ∧ e.high = false) ∧
    (let s : State := { State.reset with drains := [(31, .watchdog)] }
     s.drains.find? (fun d => d.1 == 31) = some (31, .watchdog) ∧ s.drains.any (fun d => d.1 == 31) = true ∧
       State.reset.drains.find? (fun d => d.1 == 31) = none ∧ State.reset.srcLevel .watchdog ≠ .block) ∧
    (let e := { epi with held := [], minOver := true, high := true }
     let s : State := { State.reset with episode := some e }
     e.held = [] ∧ e.minOver = true ∧ e.high = true ∧ s.tripWaits = false) ∧
    (State.reset.refOk (!State.reset.refSel) = true ∧ (regs State.reset [(R.clkStat 0, 0xA)]).refOk (!(regs State.reset [(R.clkStat 0, 0xA)]).refSel) = false ∧
      !State.reset.refSel ≠ State.reset.refSel) := by decide
set_option maxRecDepth 20000 in
theorem test_meets_ResetEpisodes_blocks :
    (let s : State := { mainUp State.reset with fuses := { State.reset.fuses with rstTable := 0x202B } }
     s.srcLevel .watchdog = .block ∧ s.srcLevel .lockUp = .block ∧ s.srcLevel .software = .block ∧ s.drains = [] ∧
       (regs s [(R.stwWdog 31, 2 * 2 ^ 40)]).fld (R.stwWdog 31) 41 40 = 2) ∧
    (blockTarget true 15 = true ∧ blockTarget true 16 = false ∧ blockTarget false 95 = true ∧ blockTarget false 96 = false) ∧
    (State.reset.blockReady false 1 95 = true ∧ (State.reset.updIsl 191 (fun i => { i with table := 1 })).blockReady false 1 95 = false) ∧
    (({ State.reset with fuses := { State.reset.fuses with dbg := 3 } } : State).debugLevel = 3) ∧
    (let b : BlockEp := { kind := false, die := 1, index := 95, held := [], seen := [.software], since := 0, minOver := true }
     let s : State := { State.reset with blocks := [b] }
     s.blocks.find? (fun b => b.held.isEmpty && b.minOver) = some b ∧ s.blocks.find? (fun b => b.held.isEmpty && !b.minOver) = none ∧
       ({ State.reset with blocks := [{ b with minOver := false }] } : State).blocks.find? (fun b => b.held.isEmpty && !b.minOver) =
         some { b with minOver := false }) := by decide
set_option maxRecDepth 20000 in
theorem test_meets_PowerAndPins :
    State.reset.Canon ∧ State.reset.limit100 15 0 < (0xFFFF : BitVec 16).toNat * 100 ∧ State.reset.fld R.pwrStat 37 32 < 48 ∧ State.reset.capStreak < 1000 ∧
    (({ State.reset with capStreak := 1000 } : State).capLast = none) ∧
    (let s := regs State.reset [(R.pwrPmb, 0x2120)]
     s.fld R.pwrPmb 14 8 ≠ 0 ∧ s.fld R.pwrPmb 6 0 ≠ 0 ∧ State.reset.fld R.pwrPmb 6 0 = 0) ∧
    ({ State.reset with capLast := some 0 } : State).capLast = some 0 ∧ State.reset.loadState = 0 ∧ State.reset.smbAlert = false ∧
    (regs State.reset [(R.telTemp 0, 2 ^ 25)]).smbAlert = true ∧ (((100000000 : Word) - 0).toNat ≤ 100000000) ∧
    (State.reset.isl 191 = {} ∧ State.reset.fld (R.telTemp 0) 11 0 < 600 ∧ State.reset.fld (R.telTemp 0) 23 12 < 580) ∧
    (600 ≤ (regs State.reset [(R.telTemp 1, 600)]).fld (R.telTemp 1) 11 0) ∧ (533 : BitVec 12).toNat < 540 ∧ 532 < (533 : BitVec 12).toNat ∧
    (State.reset.episode = none ∧ R.errSum 0 % 8 = 0 ∧ smbusReadable (R.errSum 0) = true ∧ smbusReadable (R.pinFunc) = false) ∧
    ((regs State.reset [(R.errSum 0, 0x8)]).debugLevel < 2) ∧ (({ State.reset with fuses := { State.reset.fuses with dbg := 3 } } : State).debugLevel = 3) ∧
    (({ State.reset with trace := List.replicate 64 0 } : State).trace.length = 64) ∧
    (let s : State := { regs State.reset [(R.pinFunc, 0x32222)] with trace := [5] }
     s.trace = 5 :: [] ∧ s.traceOn = true) := ⟨canon_of _ (by decide), by decide⟩
set_option maxRecDepth 20000 in
theorem test_meets_RegistersAndErrors :
    State.reset.Canon ∧ (regSpec 0 = none ∧ regPlace 0 = .none) ∧ ((regSpec (R.islWdog 191)).isSome = true ∧ (regSpec (R.gulTcfg 0)).isSome = true) ∧
    (ownRow (R.mbxData 0 0) = true ∧ (regSpec (R.mbxData 0 0)).isSome = true) ∧ State.reset.namedBy 0 = none ∧ State.reset.cellExists ⟨191, 15⟩ = true ∧
    (let s := regs State.reset [(R.errCelog 0 0, 2 ^ 63 + 2 ^ 48), (R.errCelog 0 1, 2 ^ 63 + 2 ^ 48)]
     s.frameClass 0 = some (0, false) ∧ s.correctedTwice 0 0 = true ∧ State.reset.correctedTwice 0 0 = false ∧ s.retired.contains 0 = false) ∧
    (let j := { job1 with stopped := some 1 }
     let s : State := { (tab [] { job := 1 }) with jobs := [j] }
     s.job 1 = some j ∧ s.running j.table = false ∧ (s.tbl j.table).job = 1 ∧ j.damaged = [] ∧ j.restarting = false ∧ j.ending = false) ∧
    (({ State.reset with jobs := [job1] } : State).job 1 = some job1 ∧ job1.stopped = none ∧ job1.pointFor .own = some (.inPlace 0) ∧
      ({ job1 with rank := 1, nranks := 2 } : Job).pointFor .own = none) ∧
    (let s : State := { (tab [] { job := 1 }) with jobs := [job1] }
     s.namedBy 0 = none ∧ s.job 1 = some job1 ∧ s.running 1 = false) ∧
    (match regPlace (R.islWdog 191) with | .block 1 .rcp _ => false | _ => true) = true ∧ (regSpec (R.islWdog 191)).isSome = true ∧ actionWrite (R.islWdog 191) 0 State.reset = none ∧
    ownRow (R.islWdog 191) = false ∧
    (let s := regs State.reset [(R.stwWdog 31, 2 ^ 63)]
     (31 : Nat) < 32 ∧ bit 63 (s.reg (R.stwWdog 31)) = true ∧ s.fld (R.stwWdog 31) 41 40 = 0 ∧ (regs s [(R.stwWdog 31, 2 ^ 63 + 2 ^ 40)]).fld (R.stwWdog 31) 41 40 = 1) :=
  ⟨canon_of _ (by decide), by decide⟩
set_option maxRecDepth 20000 in
theorem test_meets_StepsKeepTheInvariant : State.reset.Canon ∧ State.reset.FarOk ∧ ∃ t, step State.reset = .next t :=
  ⟨canon_of _ (by decide), by unfold State.FarOk; decide, _, rfl⟩
set_option maxRecDepth 20000 in
theorem test_meets_StepsKeepTables : State.reset.Canon ∧ State.reset.TablesOk ∧ ∃ t, step State.reset = .next t :=
  ⟨canon_of _ (by decide), ⟨by decide, fun _ => (by decide : (0 : Nat) < 256), by decide, by decide⟩, _, rfl⟩

/-! ### Hypotheses that need a step of proof -/

/-- A frame to port 19580 of an IPv4 address of port 0 whose datagram is empty; its FCS is whatever the standard says. -/
def ip60 : List Byte := List.replicate 12 0 ++ [8, 0, 0x45, 0, 0, 28, 0, 0, 0, 0, 0, 17, 0, 0, 10, 0, 0, 9, 10, 0, 0, 1, 0, 1, 0x4C, 0x7C, 0, 8, 0, 0] ++ List.replicate 18 0
set_option maxRecDepth 20000 in
theorem test_meets_EthernetPorts_tu :
    (∃ l : List Byte, l.length = 64 ∧ l.take 60 = ip60 ∧ (Config.etherFcs (l.take 60)).toNat = leAt l 60 4 ∧ beAt l 12 2 = 0x0800) ∧
    (let s : State := { State.reset with nets := [⟨0, false, 0, 24, 0x0A000001⟩] }
     (s.ipOf 0 0x0800 (ip60.drop 14)).map (fun g => (g.dport, tuHeaderOk g.data)) = some (19580, false)) := by
  refine ⟨⟨ip60 ++ leBytes 4 (Config.etherFcs ip60).toNat, ?_, ?_, ?_, ?_⟩, by decide⟩
  · simp [ip60, leBytes]
  · simp [ip60]
  · have h : (ip60 ++ leBytes 4 (Config.etherFcs ip60).toNat).take 60 = ip60 := by simp [ip60]
    have h2 : (ip60 ++ leBytes 4 (Config.etherFcs ip60).toNat).drop 60 = leBytes 4 (Config.etherFcs ip60).toNat := by simp [ip60]
    have h3 : ∀ n : Nat, n < 2 ^ 32 → leNat ((leBytes 4 n).take 4) = n := by
      intro n hn; simp only [leBytes, leNat, List.take]; simp only [BitVec.toNat_ofNat]; omega
    rw [h, leAt, h2, h3 _ (BitVec.isLt _)]
  · simp [beAt, ip60, leNat]
theorem first_page {β : Type} (n : Nat) (f : Nat → List β) (p : β → Bool) (x : β) (h : (f 0).filter p = [x]) :
    ∃ rest, ((List.range (n + 1)).flatMap f).filter p = x :: rest := by
  rw [List.range_succ_eq_map, List.flatMap_cons, List.filter_append, h]; exact ⟨_, rfl⟩
/-- The first page of the map of `paged` is step-pending, and its frame is read. -/
def stepping : State := regs ((paged State.reset).wr64 0x401008 0x500022) [(R.mmuTstep 0 1, 2 ^ 32 + 3)]
set_option maxRecDepth 20000 in
theorem test_meets_PageEvents_step : stepping.fld (R.mmuTstep 0 1) 0 0 = 1 ∧ (stepping.tbl 1).copyPage = none ∧
    bit 33 (stepping.reg (R.gulJmap1 0 1)) = false ∧ ∃ rest, stepping.stepPages 1 = (0x10000, ⟨0x401008, 0x500022, false⟩) :: rest := by
  refine ⟨by decide, by decide, by decide, ?_⟩
  have h : stepping.troot 1 = some 0x200000 := by decide
  simp only [State.stepPages, State.allPages, h]
  exact first_page 262143 _ _ _ (by decide)
set_option maxRecDepth 20000 in
theorem test_meets_HostRequestResults_attest : State.reset.attestReport 0 = none := by
  have h : State.reset.takeLeaf = none := by decide
  simp only [State.attestReport, h]

end Sys2Proof.Tests
end

/-! SUPPORT. Array geometry (R46 to R50, R275): the logical grid and its neighbours, island numbers, SRAM slots. -/

namespace Sys2Proof.Machine

open Sys2Proof

/-! ### Islands and cells that exist -/

theorem islDie_islAt {i j : Nat} (hi : i < 8) : islDie (islAt i j) = j / 12 := by
  unfold islDie islAt; omega

theorem islNum_islAt {i j : Nat} (hi : i < 8) : islNum (islAt i j) = 12 * i + j % 12 := by
  unfold islNum islAt; omega

theorem islRow_islAt {i j : Nat} (hi : i < 8) : islRow (islAt i j) = i := by
  rw [islRow, islNum_islAt hi]; omega

theorem islCol_islAt {i j : Nat} (hi : i < 8) : islCol (islAt i j) = j := by
  rw [islCol, islNum_islAt hi, islDie_islAt hi]; omega

theorem islAt_row_col (isl : Nat) : islAt (islRow isl) (islCol isl) = isl := by
  unfold islAt islRow islCol islNum islDie; omega

theorem islRow_lt (isl : Nat) : islRow isl < 8 := by unfold islRow islNum; omega

theorem islCol_lt {isl : Nat} (h : isl < 192) : islCol isl < 24 := by
  unfold islCol islNum islDie; omega

theorem State.cellExists_iff (s : State) (k : CellRef) : s.cellExists k = true ↔ k.isl < 192 ∧ k.c < s.cellCount k.isl := by
  simp only [State.cellExists, Bool.and_eq_true, decide_eq_true_eq]

theorem State.isl_lt_of_cellExists {s : State} {k : CellRef} (h : s.cellExists k = true) : k.isl < 192 :=
  ((s.cellExists_iff k).mp h).1

theorem State.c_lt_of_cellExists {s : State} {k : CellRef} (h : s.cellExists k = true) : k.c < 16 :=
  ((s.cellExists_iff k).mp h).2.trans_le (s.cellCount_le _)

/-! ### The logical grid (R10) -/

theorem cellRow_lt {k : CellRef} (hc : k.c < 16) : cellRow k < 32 := by
  have := islRow_lt k.isl
  unfold cellRow; omega

theorem cellCol_lt {k : CellRef} (hi : k.isl < 192) : cellCol k < 96 := by
  have := islCol_lt hi
  unfold cellCol; omega

theorem cellRow_cellAt {r : Nat} (c : Nat) (hr : r < 32) : cellRow (cellAt r c) = r := by
  simp only [cellRow, cellAt, islRow_islAt (show r / 4 < 8 by omega)]; omega

theorem cellCol_cellAt {r : Nat} (c : Nat) (hr : r < 32) : cellCol (cellAt r c) = c := by
  simp only [cellCol, cellAt, islCol_islAt (show r / 4 < 8 by omega)]; omega

/-- A cell is the one at its own row and column. -/
theorem cellAt_row_col {k : CellRef} (hc : k.c < 16) : cellAt (cellRow k) (cellCol k) = k := by
  have hr : cellRow k / 4 = islRow k.isl := by unfold cellRow; omega
  have hcol : cellCol k / 4 = islCol k.isl := by unfold cellCol; omega
  have hidx : 4 * (cellRow k % 4) + cellCol k % 4 = k.c := by unfold cellRow cellCol; omega
  rw [cellAt, hr, hcol, hidx, islAt_row_col]

/-- The checkerboard runs on across islands: it is one of the whole grid (R46, R47). -/
theorem isMemCell_eq_grid (k : CellRef) : isMemCell k = decide ((cellRow k + cellCol k) % 2 = 1) := by
  have h : (cellRow k + cellCol k) % 2 = (k.c / 4 + k.c % 4) % 2 := by unfold cellRow cellCol; omega
  rw [h]; rfl

theorem isMemCell_of_row_col (i : Nat) {r c : Nat} (hc : c < 4) : isMemCell ⟨i, 4 * r + c⟩ = decide ((r + c) % 2 = 1) := by
  have h : (4 * r + c) / 4 + (4 * r + c) % 4 = r + c := by omega
  rw [isMemCell, h]; rfl

/-! ### Neighbours (R48) -/

/-- The grid position (r', c') lies one cell beyond port p of (r, c): N 0, E 1, S 2, W 3. -/
def Beyond (p r c r' c' : Nat) : Prop :=
  match p with
  | 0 => r = r' + 1 ∧ c' = c
  | 1 => r' = r ∧ c' = c + 1
  | 2 => r' = r + 1 ∧ c' = c
  | _ => r' = r ∧ c = c' + 1

theorem Beyond.facing {p r c r' c' : Nat} (hp : p < 4) (h : Beyond p r c r' c') : Beyond (facing p) r' c' r c := by
  match p, hp with
  | 0, _ | 2, _ => exact ⟨h.1, h.2.symm⟩
  | 1, _ | 3, _ => exact ⟨h.1.symm, h.2⟩

/-- One step in the grid changes the colour of the checkerboard. -/
theorem Beyond.parity {p r c r' c' : Nat} (h : Beyond p r c r' c') : (r' + c') % 2 = 1 ↔ ¬ (r + c) % 2 = 1 := by
  match p with
  | 0 | 1 | 2 | _ + 3 => simp only [Beyond] at h; omega

/-- The grid position beyond a port, if the grid of 32 rows and 96 columns has one there. -/
def gridNext (p r c : Nat) : Option (Nat × Nat) :=
  match p with
  | 0 => if r = 0 then none else some (r - 1, c)
  | 1 => if c = 95 then none else some (r, c + 1)
  | 2 => if r = 31 then none else some (r + 1, c)
  | _ => if c = 0 then none else some (r, c - 1)

theorem gridNext_eq_some_iff {p r c r' c' : Nat} (hr : r < 32) (hc : c < 96) :
    gridNext p r c = some (r', c') ↔ r' < 32 ∧ c' < 96 ∧ Beyond p r c r' c' := by
  match p with
  | 0 | 1 | 2 | _ + 3 =>
    simp only [gridNext, Beyond, Option.ite_none_left_eq_some, Option.some.injEq, Prod.mk.injEq]
    omega

theorem State.nbr_eq (s : State) (k : CellRef) (p : Nat) :
    s.nbr k p = ((gridNext p (cellRow k) (cellCol k)).map fun x => cellAt x.1 x.2).filter s.cellExists := by
  match p with
  | 0 | 1 | 2 | _ + 3 =>
    simp only [State.nbr, gridNext]
    split_ifs <;> rfl

/-- What a port faces: the existing cell, if any, whose position is one step beyond the port. -/
theorem State.nbr_eq_some_iff {s : State} {k k' : CellRef} {p : Nat} (hk : s.cellExists k = true) :
    s.nbr k p = some k' ↔
      s.cellExists k' = true ∧ Beyond p (cellRow k) (cellCol k) (cellRow k') (cellCol k') := by
  have hnext := fun r' c' => gridNext_eq_some_iff (p := p) (r' := r') (c' := c')
    (cellRow_lt (State.c_lt_of_cellExists hk)) (cellCol_lt (State.isl_lt_of_cellExists hk))
  simp only [State.nbr_eq, Option.filter_eq_some_iff, Option.map_eq_some_iff, Prod.exists, hnext]
  constructor
  · rintro ⟨⟨r', c', ⟨hr, -, hb⟩, rfl⟩, hk'⟩
    rw [cellRow_cellAt c' hr, cellCol_cellAt c' hr]
    exact ⟨hk', hb⟩
  · rintro ⟨hk', hb⟩
    have hc := State.c_lt_of_cellExists hk'
    exact ⟨⟨_, _, ⟨cellRow_lt hc, cellCol_lt (State.isl_lt_of_cellExists hk'), hb⟩, cellAt_row_col hc⟩, hk'⟩

/-- R46, R48: a neighbour exists, is of the other kind, and faces back. -/
theorem State.nbr_alternates {s : State} {k k' : CellRef} {p : Nat} (hk : s.cellExists k = true) (hp : p < 4)
    (h : s.nbr k p = some k') :
    s.cellExists k' = true ∧ isMemCell k' = !isMemCell k ∧ s.nbr k' (facing p) = some k := by
  obtain ⟨hk', hb⟩ := (State.nbr_eq_some_iff hk).mp h
  refine ⟨hk', ?_, (State.nbr_eq_some_iff hk').mpr ⟨hk, hb.facing hp⟩⟩
  rw [isMemCell_eq_grid, isMemCell_eq_grid, ← decide_not, decide_eq_decide]
  exact hb.parity

/-! ### Register blocks and short islands (R49, R50) -/

theorem ctlBase_eq {d : Nat} (hd : d < 2) : ctlBase d = if d = 0 then 0x030000000000 else 0x030800000000 := by
  unfold ctlBase; split <;> omega

theorem islReg_islAt {i j : Nat} (hi : i < 8) (hj : j < 24) : islReg (islAt i j) 0 =
    (if j / 12 = 0 then 0x030000000000 else 0x030800000000) + 0x00100000 * (12 * i + j % 12) := by
  rw [islReg, islDie_islAt hi, islNum_islAt hi, ctlBase_eq (show j / 12 < 2 by omega)]; rfl

theorem State.short_of_num (s : State) {d n : Nat} (hn : n < 96) :
    s.short (96 * d + n) = (s.grade1440 d && decide (84 ≤ n)) := by
  have hd : islDie (96 * d + n) = d := by unfold islDie; omega
  have hr : islRow (96 * d + n) = 7 ↔ 84 ≤ n := by unfold islRow islNum; omega
  rw [State.short, hd, decide_eq_decide.mpr hr]

theorem State.cellCount_of_num (s : State) {d n : Nat} (hn : n < 96) :
    s.cellCount (96 * d + n) = if s.grade1440 d = true ∧ 84 ≤ n then 8 else 16 := by
  simp only [State.cellCount, s.short_of_num hn, Bool.and_eq_true, decide_eq_true_eq]

/-! ### SRAM slots (R275) -/

/-- The far DRAM ends where the SRAM slots begin, or before. -/
theorem State.FarOk.farSize_le {s : State} (h : s.FarOk) : farBase + s.farSize ≤ 0x020000000000 := by
  obtain ⟨hn, hf⟩ := h
  have hd : s.farDensity ≤ 0x200000000 * 2 ^ 2 := Nat.mul_le_mul_left _ (Nat.pow_le_pow_right (by decide) hf)
  have hs : s.farSize ≤ 2 * 16 * (0x200000000 * 2 ^ 2) := Nat.mul_le_mul (Nat.mul_le_mul_left 2 hn) hd
  unfold farBase; omega

/-- An address in a cell's slot lies in that cell's SRAM, or nowhere. -/
theorem State.region_slot {s : State} (h : s.FarOk) {k : CellRef} {o : Nat} (hi : k.isl < 192) (hc : k.c < 16)
    (ho : o < 0x00100000) :
    s.region (sramBase k + o) = if s.cellExists k = true ∧ o < sramSize k then .sram k o else .none := by
  have hfar := h.farSize_le
  have hv : ¬ sramBase k + o < 0x003000000000 := by unfold sramBase; omega
  have hf : ¬ (farBase ≤ sramBase k + o ∧ sramBase k + o < farBase + s.farSize) := by unfold sramBase; omega
  have hs : 0x020000000000 ≤ sramBase k + o ∧ sramBase k + o < 0x0200C0000000 := by unfold sramBase; omega
  have hd : sramBase k + o - 0x020000000000 = 0x01000000 * k.isl + 0x00100000 * k.c + o := by unfold sramBase; omega
  have hisl : (0x01000000 * k.isl + 0x00100000 * k.c + o) / 0x01000000 = k.isl := by omega
  have hcell : (0x01000000 * k.isl + 0x00100000 * k.c + o) % 0x01000000 / 0x00100000 = k.c := by omega
  have hoff : (0x01000000 * k.isl + 0x00100000 * k.c + o) % 0x00100000 = o := by omega
  simp only [State.region, if_neg hv, if_neg hf, if_pos hs, hd, hisl, hcell, hoff]

theorem State.populated_one (s : State) (a : Nat) :
    s.populated a 1 = true ↔ s.region a ≠ .control ∧ s.region a ≠ .none := by
  unfold State.populated
  cases s.region a <;> simp

theorem lt_sramSize {k : CellRef} {o : Nat} (ho : o < 0x00100000) : o < sramSize k ↔ isMemCell k = true ∨ o < 0x40000 := by
  unfold sramSize
  cases isMemCell k <;> simp [ho]

/-- A byte of a slot is populated when its cell exists and its SRAM reaches that far. -/
theorem State.populated_slot {s : State} (h : s.FarOk) {k : CellRef} {o : Nat} (hi : k.isl < 192) (hc : k.c < 16)
    (ho : o < 0x00100000) :
    s.populated (sramBase k + o) 1 = true ↔ k.c < s.cellCount k.isl ∧ (isMemCell k = true ∨ o < 0x40000) := by
  have he : s.cellExists k = true ↔ k.c < s.cellCount k.isl := by simp only [s.cellExists_iff, hi, true_and]
  rw [State.populated_one, State.region_slot h hi hc ho, ← he, ← lt_sramSize ho]
  by_cases hin : s.cellExists k = true ∧ o < sramSize k <;> simp [hin]

/-- Settles O25. Neighbours are related through their positions in the grid; a slot's bytes are found in its own cell's
SRAM, because the far DRAM that R280 and R306 allow ends below the slots. -/
theorem floorPlan : Obligations.FloorPlan := by
  unfold Obligations.FloorPlan
  refine ⟨fun _ _ _ _ hk hp h => State.nbr_alternates hk hp h, fun i => isMemCell_of_row_col i (r := 0) (c := 0) (by decide),
    fun i _ _ _ hc => isMemCell_of_row_col i hc, fun i j hi hj => ?_, fun s d n hd hn hf => ?_⟩
  · have hmod : j - 12 * (j / 12) = j % 12 := by omega
    rw [hmod]
    exact ⟨islDie_islAt hi, islNum_islAt hi, islReg_islAt hi hj⟩
  · have hisl : 96 * d + n < 192 := by omega
    exact ⟨s.cellCount_of_num hn, rfl, fun _ hc => ⟨rfl, fun _ ho => State.populated_slot hf hisl hc ho⟩⟩

end Sys2Proof.Machine

/-! SUPPORT. Mailboxes (R330, R331): where their registers lie, when one is full, and what a write, a take and a
notification do. -/

namespace Sys2Proof.Machine

open Sys2Proof

/-! ### Addresses of a mailbox -/

theorem mbxData_ne_mbxCtl (d m : Nat) : R.mbxData d m ≠ R.mbxCtl d m := by
  unfold R.mbxData R.mbxCtl blkReg; omega

/-- The mailboxes of a die lie below its dealer's registers. -/
theorem mbxOff_ne_dlrSeq {d o : Nat} (ho : o < 0x100000) : blkReg d .mbx o ≠ R.dlrSeq d := by
  simp only [R.dlrSeq, blkReg, Block.off]; omega

theorem mbxData_ne_dlrSeq {d m : Nat} (hm : m < 288) : R.mbxData d m ≠ R.dlrSeq d := mbxOff_ne_dlrSeq (by omega)

theorem mbxCtl_ne_dlrSeq {d m : Nat} (hm : m < 288) : R.mbxCtl d m ≠ R.dlrSeq d := mbxOff_ne_dlrSeq (by omega)

/-! ### Bits of MBX_CTL -/

/-- A bit of a register after a field of it is written. -/
theorem State.bit_reg_setFld {s : State} (h : s.Canon) (a hi lo v : Nat) {i : Nat} (hl : lo ≤ hi) (hi64 : i < 64) :
    bit i ((s.setFld a hi lo v).reg a) = if lo ≤ i ∧ i ≤ hi then v.testBit (i - lo) else bit i (s.reg a) := by
  rw [State.setFld, State.reg_setReg h, if_pos rfl]
  exact putField_bit hi lo v _ i hl hi64

theorem State.mbxFull_congr {s t : State} {d m : Nat} (h : t.reg (R.mbxCtl d m) = s.reg (R.mbxCtl d m)) :
    t.mbxFull d m = s.mbxFull d m := by
  rw [State.mbxFull, State.mbxFull, h]

/-- MBX_CTL.full is written. -/
theorem State.mbxFull_setFld_full {s : State} (h : s.Canon) (d m v : Nat) :
    (s.setFld (R.mbxCtl d m) 0 0 v).mbxFull d m = v.testBit 0 :=
  State.bit_reg_setFld h _ 0 0 v (Nat.le_refl 0) (by decide)

/-- MBX_CTL.overrun is written: the mailbox stays as full as it was. -/
theorem State.mbxFull_setFld_overrun {s : State} (h : s.Canon) (d m v : Nat) :
    (s.setFld (R.mbxCtl d m) 2 2 v).mbxFull d m = s.mbxFull d m :=
  State.bit_reg_setFld h _ 2 2 v (Nat.le_refl 2) (by decide)

/-! ### What the registers and the marks of a mailbox leave alone -/

theorem State.noted_out (s : State) (tbls : SMap Tbl) (l : List (Nat × DEvent)) : (s.noted tbls l).out = s.out := rfl

theorem State.setFld_out (s : State) (a hi lo v : Nat) : (s.setFld a hi lo v).out = s.out := rfl
theorem State.setFld_mbxStale (s : State) (a hi lo v : Nat) : (s.setFld a hi lo v).mbxStale = s.mbxStale := rfl

/-- A state with other marks of mailboxes whose take notifies nobody. -/
def State.withStale (s : State) (l : List Nat) : State := { s with mbxStale := l }

theorem State.withStale_reg (s : State) (l : List Nat) (a : Nat) : (s.withStale l).reg a = s.reg a := rfl
theorem State.withStale_events (s : State) (l : List Nat) : (s.withStale l).events = s.events := rfl
theorem State.withStale_mem (s : State) (l : List Nat) : (s.withStale l).mem = s.mem := rfl
theorem State.withStale_out (s : State) (l : List Nat) : (s.withStale l).out = s.out := rfl
theorem State.Canon.withStale {s : State} (h : s.Canon) (l : List Nat) : (s.withStale l).Canon := h

/-! ### A write to MBX_DATA -/

theorem MbxWriter.owns_iff (w : MbxWriter) (m : Nat) :
    MbxWriter.owns w m = true ↔ (m < 32 ∧ w = .core m) ∨ (32 ≤ m ∧ w = .session (m - 32)) := by
  cases w with
  | core n =>
    simp only [MbxWriter.owns, Bool.and_eq_true, decide_eq_true_eq, beq_iff_eq, MbxWriter.core.injEq, reduceCtorEq,
      and_false, or_false]
    omega
  | session n =>
    simp only [MbxWriter.owns, beq_iff_eq, MbxWriter.session.injEq, reduceCtorEq, and_false, false_or]
    omega
  | other => simp [MbxWriter.owns]

theorem State.mbxPut_of_not_owner (s : State) (d m : Nat) (value : Word) :
    s.mbxPut d m false value = s.satFld (R.mbxCtl d m) 31 16 1 := rfl

theorem State.mbxPut_of_full {s : State} {d m : Nat} (h : s.mbxFull d m = true) (value : Word) :
    s.mbxPut d m true value = s.setFld (R.mbxCtl d m) 2 2 1 := by
  simp [State.mbxPut, h]

/-- Mailbox m with a word in it, whose sender is to be notified of the take. -/
def State.mbxFilled (s : State) (d m : Nat) (value : Word) : State :=
  let s1 := (s.setReg (R.mbxData d m) value).setFld (R.mbxCtl d m) 0 0 1
  s1.withStale (s1.mbxStale.filter (fun x => x != d * 288 + m))

theorem State.mbxPut_of_empty {s : State} {d m : Nat} (h : s.mbxFull d m = false) (value : Word) :
    s.mbxPut d m true value = (s.mbxFilled d m value).raise d (.mailbox m) := by
  rw [State.mbxPut, if_neg (not_not_intro rfl), if_neg (Bool.eq_false_iff.mp h)]
  rfl

theorem State.Canon.mbxFilled {s : State} (h : s.Canon) (d m : Nat) (value : Word) : (s.mbxFilled d m value).Canon :=
  ((h.setReg _ _).setFld _ _ _ _).withStale _

theorem State.mbxFull_mbxFilled {s : State} (h : s.Canon) (d m : Nat) (value : Word) :
    (s.mbxFilled d m value).mbxFull d m = true := by
  rw [State.mbxFilled, State.mbxFull_congr (State.withStale_reg _ _ _), State.mbxFull_setFld_full (h.setReg _ _)]
  rfl

theorem State.mbxData_mbxFilled {s : State} (h : s.Canon) (d m : Nat) (value : Word) :
    (s.mbxFilled d m value).reg (R.mbxData d m) = value := by
  rw [State.mbxFilled, State.withStale_reg, State.reg_setFld_ne (h.setReg _ _) _ _ _ (mbxData_ne_mbxCtl d m),
    State.reg_setReg h, if_pos rfl]

theorem State.mbxFilled_keeps (s : State) (d m : Nat) (value : Word) :
    (s.mbxFilled d m value).events = s.events ∧ (s.mbxFilled d m value).mem = s.mem ∧ (s.mbxFilled d m value).out = s.out := by
  obtain ⟨hev, hmem, -⟩ := (s.setReg (R.mbxData d m) value).setFld_rest (R.mbxCtl d m) 0 0 1
  exact ⟨by rw [State.mbxFilled, State.withStale_events, hev, State.setReg_events],
    by rw [State.mbxFilled, State.withStale_mem, hmem, State.setReg_mem],
    by rw [State.mbxFilled, State.withStale_out, State.setFld_out, State.setReg_out]⟩

/-- An event of a dealer sends nothing to the outside. -/
theorem State.raise_out (s : State) (d : Nat) (e : DEvent) : (s.raise d e).out = s.out := by
  obtain ⟨_, h⟩ := s.raise_eq d e
  rw [h, State.noted_out, State.incFld, State.setFld_out]

theorem exec_mbxDataWrite (s : State) (die : BitVec 1) {m : Nat} (hm : m < 288) (w : MbxWriter) (value : Word) :
    exec (.mbxDataWrite die m w value) s = .next (s.mbxPut die.toNat m (MbxWriter.owns w m) value) :=
  if_pos hm

/-! ### A dealer instant -/

theorem State.reg_dealerSees_ne {s : State} (h : s.Canon) {d a : Nat} (hne : a ≠ R.dlrSeq d) :
    (s.dealerSees d).reg a = s.reg a :=
  State.reg_incFld_ne h _ _ _ hne

theorem State.dlrSeq_dealerSees {s : State} (h : s.Canon) (d : Nat) :
    (s.dealerSees d).fld (R.dlrSeq d) 47 0 = (s.fld (R.dlrSeq d) 47 0 + 1) % 2 ^ 48 :=
  State.fld_setFld_same h _ 47 0 _ (by decide) (by decide)

/-! ### A take -/

/-- Mailbox m emptied at an instant of its dealer. -/
def State.mbxEmptied (s : State) (d m : Nat) : State := (s.setFld (R.mbxCtl d m) 0 0 0).dealerSees d

theorem exec_mbxTake_of_full {s : State} {die : BitVec 1} {m : Nat} (hm : m < 288) (h : s.mbxFull die.toNat m = true) :
    exec (.mbxTake die m) s = .next ((s.mbxEmptied die.toNat m).mbxNotify die.toNat m) :=
  if_pos ⟨hm, h⟩

theorem exec_mbxTake_of_empty {s : State} {die : BitVec 1} {m : Nat} (h : s.mbxFull die.toNat m = false) :
    exec (.mbxTake die m) s = .next s :=
  if_neg fun hf => Bool.false_ne_true (h ▸ hf.2)

theorem State.mbxStale_mbxEmptied (s : State) (d m : Nat) : (s.mbxEmptied d m).mbxStale = s.mbxStale := by
  rw [State.mbxEmptied, State.dealerSees, State.incFld, State.setFld_mbxStale, State.setFld_mbxStale]

theorem State.out_mbxEmptied (s : State) (d m : Nat) : (s.mbxEmptied d m).out = s.out := by
  rw [State.mbxEmptied, State.dealerSees, State.incFld, State.setFld_out, State.setFld_out]

theorem State.mbxFull_mbxEmptied {s : State} (h : s.Canon) (d : Nat) {m : Nat} (hm : m < 288) :
    (s.mbxEmptied d m).mbxFull d m = false := by
  rw [State.mbxEmptied, State.mbxFull_congr (State.reg_dealerSees_ne (h.setFld _ _ _ _) (mbxCtl_ne_dlrSeq hm)),
    State.mbxFull_setFld_full h]
  rfl

theorem State.mbxData_mbxEmptied {s : State} (h : s.Canon) (d : Nat) {m : Nat} (hm : m < 288) :
    (s.mbxEmptied d m).reg (R.mbxData d m) = s.reg (R.mbxData d m) := by
  rw [State.mbxEmptied, State.reg_dealerSees_ne (h.setFld _ _ _ _) (mbxData_ne_dlrSeq hm),
    State.reg_setFld_ne h _ _ _ (mbxData_ne_mbxCtl d m)]

theorem State.dlrSeq_mbxEmptied {s : State} (h : s.Canon) (d : Nat) {m : Nat} (hm : m < 288) :
    (s.mbxEmptied d m).fld (R.dlrSeq d) 47 0 = (s.fld (R.dlrSeq d) 47 0 + 1) % 2 ^ 48 := by
  rw [State.mbxEmptied, State.dlrSeq_dealerSees (h.setFld _ _ _ _),
    State.fld_congr (State.reg_setFld_ne h _ _ _ (mbxCtl_ne_dlrSeq hm).symm)]

/-! ### The notification of the sender -/

/-- A message to a session is no write of a register. -/
theorem State.reg_sendDev (s : State) (n : Nat) (msg : DMsg) (a : Nat) : (s.sendDev n msg).reg a = s.reg a := by
  unfold State.sendDev
  split
  · rfl
  · split <;> rfl

theorem State.mbxNotify_session (s : State) (d : Nat) {m : Nat} (hm : 32 ≤ m) :
    s.mbxNotify d m = s.sendDev (m - 32) ⟨0x21, [BitVec.ofNat 8 d]⟩ :=
  if_pos hm

theorem State.mbxNotify_live {s : State} {d m : Nat} (hm : m < 32) (h : s.mbxStale.contains (d * 288 + m) = false) :
    s.mbxNotify d m = { s with out := s.out ++ [.mbxe m] } := by
  rw [State.mbxNotify, if_neg (Nat.not_le.mpr hm), if_neg (Bool.eq_false_iff.mp h)]

theorem State.mbxNotify_stale {s : State} {d m : Nat} (hm : m < 32) (h : s.mbxStale.contains (d * 288 + m) = true) :
    s.mbxNotify d m = s := by
  rw [State.mbxNotify, if_neg (Nat.not_le.mpr hm), if_pos h]

theorem State.reg_mbxNotify (s : State) (d m a : Nat) : (s.mbxNotify d m).reg a = s.reg a := by
  rcases Nat.lt_or_ge m 32 with hm | hm
  · cases h : s.mbxStale.contains (d * 288 + m) with
    | false => rw [State.mbxNotify_live hm h]; rfl
    | true => rw [State.mbxNotify_stale hm h]
  · rw [State.mbxNotify_session s d hm, State.reg_sendDev]

/-! ### The statement -/

section
variable {s : State} {die : BitVec 1} {m : Nat} (hm : m < 288) {w : MbxWriter}
include hm

/-- R331: the owner's write to an empty mailbox. -/
theorem exec_mbxDataWrite_fills (hs : s.Canon) (value : Word) (hw : MbxWriter.owns w m = true)
    (he : s.mbxFull die.toNat m = false) :
    ∃ t, exec (.mbxDataWrite die m w value) s = .next t ∧ t.mbxFull die.toNat m = true ∧
      t.reg (R.mbxData die.toNat m) = value ∧ t.events = s.events ++ [(die.toNat, .mailbox m)] ∧ t.mem = s.mem ∧
      t.out = s.out := by
  have hc := hs.mbxFilled die.toNat m value
  obtain ⟨hev, hmem, hout⟩ := s.mbxFilled_keeps die.toNat m value
  obtain ⟨hraised, hmem', -⟩ := (s.mbxFilled die.toNat m value).raise_keeps die.toNat (.mailbox m)
  refine ⟨_, by rw [exec_mbxDataWrite s die hm, hw, State.mbxPut_of_empty he], ?_, ?_,
    hraised.trans (by rw [hev]), hmem'.trans hmem, (State.raise_out _ _ _).trans hout⟩
  · exact (State.mbxFull_congr (State.raise_reg hc _ _ _ (mbxCtl_ne_dlrSeq hm))).trans (State.mbxFull_mbxFilled hs _ _ _)
  · exact (State.raise_reg hc _ _ _ (mbxData_ne_dlrSeq hm)).trans (State.mbxData_mbxFilled hs _ _ _)

/-- R331: the owner's write to a full mailbox. -/
theorem exec_mbxDataWrite_overruns (hs : s.Canon) (value : Word) (hw : MbxWriter.owns w m = true)
    (hf : s.mbxFull die.toNat m = true) :
    ∃ t, exec (.mbxDataWrite die m w value) s = .next t ∧ bit 2 (t.reg (R.mbxCtl die.toNat m)) = true ∧
      t.reg (R.mbxData die.toNat m) = s.reg (R.mbxData die.toNat m) ∧ t.mbxFull die.toNat m = true ∧
      t.events = s.events ∧ t.withRegs s = s :=
  ⟨_, by rw [exec_mbxDataWrite s die hm, hw, State.mbxPut_of_full hf],
    State.bit_reg_setFld hs _ 2 2 1 (Nat.le_refl 2) (by decide), State.reg_setFld_ne hs _ _ _ (mbxData_ne_mbxCtl _ m),
    (State.mbxFull_setFld_overrun hs _ _ _).trans hf, (State.setFld_rest _ _ _ _ _).1,
    State.withRegs_setFld s s _ 2 2 1⟩

/-- R330: anybody else's write. -/
theorem exec_mbxDataWrite_refused (value : Word) (hw : ¬ MbxWriter.owns w m = true) :
    exec (.mbxDataWrite die m w value) s = .next (s.satFld (R.mbxCtl die.toNat m) 31 16 1) := by
  rw [exec_mbxDataWrite s die hm, Bool.eq_false_iff.mpr hw, State.mbxPut_of_not_owner]

/-- R331, R358: what a take leaves in the registers. -/
theorem exec_mbxTake_empties (hs : s.Canon) (hf : s.mbxFull die.toNat m = true) :
    ∃ t, exec (.mbxTake die m) s = .next t ∧ t.mbxFull die.toNat m = false ∧
      t.reg (R.mbxData die.toNat m) = s.reg (R.mbxData die.toNat m) ∧
      t.fld (R.dlrSeq die.toNat) 47 0 = (s.fld (R.dlrSeq die.toNat) 47 0 + 1) % 2 ^ 48 :=
  have hreg := State.reg_mbxNotify (s.mbxEmptied die.toNat m) die.toNat m
  ⟨_, exec_mbxTake_of_full hm hf, (State.mbxFull_congr (hreg _)).trans (State.mbxFull_mbxEmptied hs _ hm),
    (hreg _).trans (State.mbxData_mbxEmptied hs _ hm), (State.fld_congr (hreg _) 47 0).trans (State.dlrSeq_mbxEmptied hs _ hm)⟩

end

/-- Settles O38. A write goes by whether its writer owns the mailbox and whether that is full; a take empties it and then
notifies, and a notification touches no register. -/
theorem mailboxes : Obligations.Mailboxes := by
  unfold Obligations.Mailboxes
  intro s die m value w hs hm
  refine ⟨fun ho he => exec_mbxDataWrite_fills hm hs value ((MbxWriter.owns_iff w m).mpr ho) he,
    fun ho hf => exec_mbxDataWrite_overruns hm hs value ((MbxWriter.owns_iff w m).mpr ho) hf,
    fun ho => exec_mbxDataWrite_refused hm value (mt (MbxWriter.owns_iff w m).mp ho),
    exec_mbxTake_empties hm hs, fun hf hcore hstale => ?_, fun hf hcore hstale => ?_, fun hf hses => ?_, exec_mbxTake_of_empty⟩
  · rw [exec_mbxTake_of_full hm hf, State.mbxNotify_live hcore (by rwa [State.mbxStale_mbxEmptied]), State.out_mbxEmptied]
    rfl
  · rw [exec_mbxTake_of_full hm hf, State.mbxNotify_stale hcore (by rwa [State.mbxStale_mbxEmptied])]
    rfl
  · rw [exec_mbxTake_of_full hm hf, State.mbxNotify_session _ _ hses]
    rfl

end Sys2Proof.Machine

/-! SUPPORT. The queue of commands, and a frame of a deal that shows why the far DRAM is not an invariant of every state. -/

namespace Sys2Proof.Machine

open Sys2Proof

/-- Settles O1. -/
theorem stepRunsFront : Obligations.StepRunsFront := by
  unfold Obligations.StepRunsFront
  intro c rest s h
  unfold step
  rw [h]

/-- A machine whose table 0 loads a deal of island 0. The image's one frame has the target of link settings; its cell
number is so large that the address it writes is MEM_FAR of die 0, and its bytes carry the density code 3. -/
def farFrame : State :=
  { State.reset with
    pending := [.dealLoadDone 0]
    tbls := [(0, { deal := .load [⟨0, true, false, [⟨0x70EF, 2, 0xE40, [0x60, 0, 0, 0, 0, 0, 0, 0]⟩]⟩] })] }

theorem farFrame_canon : farFrame.Canon := by unfold State.Canon; decide

theorem farFrame_farOk : farFrame.FarOk := by unfold State.FarOk; decide

/-- The load of the frame leaves the reserved density code in MEM_FAR. -/
theorem step_farFrame : ∃ t, step farFrame = .next t ∧ t.fld (R.memFar 0) 6 5 = 3 := ⟨_, rfl, by decide⟩

/-- Refutes O58: a deal in progress may hold a frame for a cell that does not exist, and DEAL_LOAD_DONE writes its link
settings where they fall, here into MEM_FAR; R280 allows no density code 3. -/
theorem not_stepsKeepTheInvariant : ¬ Obligations.StepsKeepTheInvariant := by
  unfold Obligations.StepsKeepTheInvariant
  intro h
  obtain ⟨t, ht, hd⟩ := step_farFrame
  have hf := (h farFrame t farFrame_canon farFrame_farOk ht).2.2
  omega

end Sys2Proof.Machine

/-! SUPPORT. What every operation of the machine keeps: the queue, burnt fuses, the canonical form, table
numbers and the maps of tables and links. -/

namespace Sys2Proof.Machine

open Sys2Proof

/-! ### The relation -/

/-- Fuses of which some have been burnt since `f`. -/
def Fuses.Grows (f g : Fuses) : Prop :=
  f.svn &&& g.svn = f.svn ∧ f.epoch &&& g.epoch = f.epoch ∧ f.keyrev &&& g.keyrev = f.keyrev ∧
    g = { f with svn := g.svn, epoch := g.epoch, keyrev := g.keyrev }

/-- What survives on the way from s to t. -/
structure Keeps (s t : State) : Prop where
  pending : t.pending = s.pending
  fuses : s.fuses.Grows t.fuses
  canon : s.Canon → t.Canon
  tables : s.Canon → s.TablesOk → t.TablesOk

/-- The same of an outcome, which is a next state. -/
def Res.Keeps (s : State) (r : Res) : Prop := ∃ t, r = .next t ∧ Machine.Keeps s t

/-- The fields that `Keeps` speaks of. -/
def State.kept (s : State) :=
  (s.pending, s.fuses, s.regs, s.mem, s.cells, s.isls, s.tbls, s.jobs, s.glinks)

theorem and_mono_trans {w : Nat} {a b c : BitVec w} (h1 : a &&& b = a) (h2 : b &&& c = b) : a &&& c = a := by
  rw [← h1, BitVec.and_assoc, h2]

theorem Fuses.Grows.refl (f : Fuses) : f.Grows f :=
  ⟨BitVec.and_self, BitVec.and_self, BitVec.and_self, rfl⟩

theorem Fuses.Grows.trans {f g k : Fuses} (h1 : f.Grows g) (h2 : g.Grows k) : f.Grows k := by
  obtain ⟨a1, b1, c1, d1⟩ := h1
  obtain ⟨a2, b2, c2, d2⟩ := h2
  refine ⟨and_mono_trans a1 a2, and_mono_trans b1 b2, and_mono_trans c1 c2, ?_⟩
  rw [d2, d1]

section
variable {s t u : State}

theorem Keeps.refl (s : State) : Keeps s s := ⟨rfl, .refl _, id, fun _ => id⟩

theorem Keeps.trans (h : Keeps s t) (h' : Keeps t u) : Keeps s u :=
  ⟨h'.pending.trans h.pending, h.fuses.trans h'.fuses, fun c => h'.canon (h.canon c),
    fun c k => h'.tables (h.canon c) (h.tables c k)⟩

/-- A change of other fields. -/
theorem Keeps.same (h : Keeps s t) (e : u.kept = t.kept) : Keeps s u := by
  simp only [State.kept, Prod.mk.injEq] at e
  obtain ⟨e1, e2, e3, e4, e5, e6, e7, e8, e9⟩ := e
  refine h.trans ⟨e1, e2 ▸ .refl _, ?_, fun _ => ?_⟩
  · unfold State.Canon; rw [e3, e4, e5, e6]; exact id
  · unfold State.TablesOk State.isl; rw [e6, e7, e8, e9]; exact id

theorem Keeps.ite {p : Prop} [Decidable p] (h1 : Keeps s t) (h2 : Keeps s u) : Keeps s (if p then t else u) := by
  split
  · exact h1
  · exact h2

theorem Keeps.foldl {α : Type} {f : State → α → State} {l : List α} (h : Keeps s t)
    (hf : ∀ u x, Keeps s u → Keeps s (f u x)) : Keeps s (l.foldl f t) := by
  induction l generalizing t with
  | nil => exact h
  | cons x l ih => exact ih (hf _ _ h)

theorem Keeps.of_fst {α : Type} {p : State × α} {x : α} (e : p = (u, x)) (h : Keeps s p.1) : Keeps s u := by
  rwa [e] at h

theorem Keeps.of_snd {α : Type} {p : α × State} {x : α} (e : p = (x, u)) (h : Keeps s p.2) : Keeps s u := by
  rwa [e] at h

theorem Res.Keeps.next (h : Machine.Keeps s t) : Res.Keeps s (.next t) := ⟨t, rfl, h⟩

theorem Res.Keeps.ite {p : Prop} [Decidable p] {a b : Res} (h1 : Res.Keeps s a) (h2 : Res.Keeps s b) : Res.Keeps s (if p then a else b) := by
  split
  · exact h1
  · exact h2

end

section
variable {s t : State}

/-! ### Updates of single fields -/

/-- A write of a register, or of a field of one. -/
theorem Keeps.setReg {a : Nat} {v : Word} (h : Keeps s t) : Keeps s (t.setReg a v) :=
  h.trans ⟨rfl, .refl _, fun c => c.setReg a v, fun _ => id⟩

theorem Keeps.setCell (h : Keeps s t) {k : CellRef} {c : Cell} : Keeps s (t.setCell k c) :=
  h.trans ⟨rfl, .refl _, fun w => w.setCell k c, fun _ => id⟩

theorem Keeps.updCell (h : Keeps s t) {k : CellRef} {f : Cell → Cell} : Keeps s (t.updCell k f) := h.setCell

/-- A table number that is below 256 where those of the machine s are. -/
def Small (s : State) (n : Nat) : Prop := s.Canon → s.TablesOk → n < 256

theorem Keeps.small_isl (h : Keeps s t) (i : Nat) : Small s (t.isl i).table := fun c k => (h.tables c k).2.1 i

theorem Keeps.small_mem (h : Keeps s t) {j : Job} (hj : j ∈ t.jobs) : Small s j.table := fun c k => (h.tables c k).1 j hj

theorem Keeps.small_job (h : Keeps s t) {n : Nat} {j : Job} (e : t.job n = some j) : Small s j.table :=
  h.small_mem (List.mem_of_find?_eq_some e)

theorem Keeps.small_jobOf (h : Keeps s t) {n : Nat} {j : Job} (e : t.jobOf n = some j) : Small s j.table := by
  unfold State.jobOf at e
  split at e
  · cases e
  · exact h.small_job e

/-- An island with a small table number. -/
theorem Keeps.setIsl (h : Keeps s t) {i : Nat} {x : Isl} (hx : Small s x.table) : Keeps s (t.setIsl i x) := by
  refine ⟨h.pending, h.fuses, fun c => (h.canon c).setIsl i x, fun c k => ?_⟩
  obtain ⟨hj, hi, hm⟩ := h.tables c k
  refine ⟨hj, fun n => ?_, hm⟩
  by_cases e : n = i
  · subst e
    rw [State.isl_setIsl (h.canon c)]
    exact hx c k
  · rw [State.isl_setIsl_other (h.canon c) _ e]
    exact hi n

theorem Keeps.updIsl (h : Keeps s t) {i : Nat} {f : Isl → Isl} (hf : ∀ x : Isl, (f x).table = x.table) :
    Keeps s (t.updIsl i f) := h.setIsl (by rw [hf]; exact h.small_isl i)

theorem Keeps.setTbl (h : Keeps s t) {n : Nat} {x : Tbl} : Keeps s (t.setTbl n x) :=
  h.trans ⟨rfl, .refl _, id, fun _ ⟨hj, hi, ht, hg⟩ => ⟨hj, hi, SMap.wf_set _ _ _ _ ht, hg⟩⟩

theorem Keeps.updTbl (h : Keeps s t) {n : Nat} {f : Tbl → Tbl} : Keeps s (t.updTbl n f) := h.setTbl

theorem Keeps.setGlink (h : Keeps s t) {n : Nat} {x : GLink} : Keeps s (t.setGlink n x) :=
  h.trans ⟨rfl, .refl _, id, fun _ ⟨hj, hi, ht, hg⟩ => ⟨hj, hi, ht, SMap.wf_set _ _ _ _ hg⟩⟩

theorem Keeps.wrN (h : Keeps s t) {a : Nat} {bs : List Byte} : Keeps s (t.wrN a bs) :=
  h.trans ⟨rfl, .refl _, fun c => c.wrN a bs, fun _ => id⟩

/-- A state with other jobs. -/
def State.withJobs (s : State) (l : List Job) : State := { s with jobs := l }

theorem Keeps.withJobs (h : Keeps s t) {l : List Job} (hl : ∀ j ∈ l, Small s j.table) : Keeps s (t.withJobs l) :=
  ⟨h.pending, h.fuses, h.canon, fun c k => ⟨fun j hj => hl j hj c k, (h.tables c k).2⟩⟩

/-- Jobs that change, each keeping its table number. -/
theorem Keeps.mapJobs (h : Keeps s t) {f : Job → Job} (hf : ∀ j : Job, Small s j.table → Small s (f j).table) :
    Keeps s (t.withJobs (t.jobs.map f)) :=
  h.withJobs fun j hm => by
    obtain ⟨i, hi, rfl⟩ := List.mem_map.mp hm
    exact hf i (h.small_mem hi)

theorem Keeps.updJob (h : Keeps s t) {n : Nat} {f : Job → Job} (hf : ∀ j : Job, (f j).table = j.table) :
    Keeps s (t.updJob n f) :=
  h.mapJobs fun j hj => by
    split
    · rw [hf]; exact hj
    · exact hj

/-- A job that takes the place of another. -/
theorem Keeps.putJob (h : Keeps s t) {n : Nat} {j : Job} (hj : Small s j.table) : Keeps s (t.updJob n (fun _ => j)) :=
  h.mapJobs fun i hi => by
    split
    · exact hj
    · exact hi

end

end Sys2Proof.Machine

/-! SUPPORT. Every function of the machine keeps what `Keeps` speaks of: one lemma for each, in the order of the model, each
following the branches of its function. -/

namespace Sys2Proof.Machine

open Sys2Proof

section
variable {s t u : State}

/-! ### The functions of Sys2Proof/Machine/Ops.lean -/

theorem Keeps.dealerSees (h : Keeps s t) {die : Nat} : Keeps s (t.dealerSees die) :=
  .setReg h

theorem Keeps.noteFail (h : Keeps s t) {e : DEvent} : Keeps s (t.noteFail e) := by
  unfold State.noteFail
  split
  · exact .ite h (.updTbl h)
  · exact .ite h (.updTbl h)
  · exact h

theorem Keeps.raise (h : Keeps s t) {die : Nat} {e : DEvent} : Keeps s (t.raise die e) := by
  unfold State.raise
  extract_lets s1
  have hs1 : Keeps s s1 := .noteFail (.dealerSees h)
  exact .same hs1 (by dsimp only [State.kept])

theorem Keeps.report (h : Keeps s t) {code : Code} {arg : Nat} : Keeps s (t.report code arg) :=
  .same h rfl

theorem Keeps.recordFault (h : Keeps s t) {k : CellRef} {code : Code} {slot word : Nat} : Keeps s (t.recordFault k code slot word) := by
  unfold State.recordFault
  extract_lets cyc w
  exact .updCell (.setReg h)

theorem Keeps.islandFault (h : Keeps s t) {k : CellRef} {code : Code} : Keeps s (t.islandFault k code) :=
  .raise (.setReg (.setReg (.setReg h)))

theorem Keeps.faultNoWord (h : Keeps s t) {k : CellRef} {code : Code} : Keeps s (t.faultNoWord k code) :=
  .ite h (.recordFault h)

theorem Keeps.raiseFaults (h : Keeps s t) {b : State} {i : Nat} : Keeps s (State.raiseFaults b i t) := by
  unfold State.raiseFaults
  split
  · exact h
  · split
    · exact h
    · exact .islandFault h

theorem Keeps.ceEvent (h : Keeps s t) {die cls pa : Nat} : Keeps s (t.ceEvent die cls pa) :=
  .setReg (.setReg (.setReg h))

theorem Keeps.ueEvent (h : Keeps s t) {die cls pa table : Nat} : Keeps s (t.ueEvent die cls pa table) :=
  .raise (.setReg (.setReg (.setReg h)))

theorem Keeps.fresh (h : Keeps s t) : Keeps s t.fresh.2 :=
  .same h rfl

/-! ### The functions of Sys2Proof/Machine/ChanCore.lean -/

theorem Keeps.setRtail (h : Keeps s t) {die ch : Nat} {v : BitVec 32} : Keeps s (t.setRtail die ch v) :=
  .same h rfl

theorem Keeps.countOrphan (h : Keeps s t) {die ch : Nat} : Keeps s (t.countOrphan die ch) :=
  .setReg h

/-! ### The functions of Sys2Proof/Machine/Links.lean -/

theorem Keeps.setFifo (h : Keeps s t) {k : CellRef} {p : Nat} {l : List Token} : Keeps s (t.setFifo k p l) :=
  .same h rfl

theorem Keeps.setFlight (h : Keeps s t) {k : CellRef} {p : Nat} {l : List Token} : Keeps s (t.setFlight k p l) :=
  .same h rfl

theorem Keeps.sendTok (h : Keeps s t) {k : CellRef} {p : Nat} {t0 : Token} : Keeps s (t.sendTok k p t0) := by
  unfold State.sendTok
  split
  · exact .updCell h
  · exact .setFlight h
  · exact h

theorem Keeps.dropStale (h : Keeps s t) {k : CellRef} {p : Nat} : Keeps s (t.dropStale k p) :=
  .ite h (.setReg (.setFifo h))

theorem Keeps.popFifo (h : Keeps s t) {k : CellRef} {p : Nat} : Keeps s (t.popFifo k p) := by
  unfold State.popFifo
  extract_lets s1
  have hs1 : Keeps s s1 := .dropStale h
  exact .updIsl (.setFifo hs1) fun _ => by rfl

theorem Keeps.bufPush (h : Keeps s t) {k : CellRef} {p b : Nat} {t0 : Token} : Keeps s (t.bufPush k p b t0) :=
  .updCell h

theorem Keeps.markDriven (h : Keeps s t) {k : CellRef} {p : Nat} : Keeps s (t.markDriven k p) :=
  .updIsl h fun _ => by rfl

theorem Keeps.driveTok (h : Keeps s t) {k : CellRef} {p : Nat} {t0 : Token} : Keeps s (t.driveTok k p t0) :=
  .sendTok (.markDriven h)

theorem Keeps.routeDrive (h : Keeps s t) {k : CellRef} {p : Nat} {t0 : Token} : Keeps s (t.routeDrive k p t0) :=
  .ite (.faultNoWord h) (.driveTok h)

theorem Keeps.forward (h : Keeps s t) {k : CellRef} {inp : Nat} {t0 : Token} : Keeps s (t.forward k inp t0) :=
  .foldl h fun _ _ h1 => .routeDrive h1

theorem Keeps.arriveTok (h : Keeps s t) {k : CellRef} {p : Nat} {t0 : Token} : Keeps s (t.arriveTok k p t0).1 := by
  unfold State.arriveTok
  split
  · split
    · exact .bufPush h
    · exact .faultNoWord h
  · extract_lets outs fed s1 s2
    have hs1 : Keeps s s1 := .forward h
    have hs2 : Keeps s s2 := .foldl hs1 fun _ _ h1 => .ite (.faultNoWord h1) (.bufPush h1)
    exact hs2

theorem Keeps.arriveList {k : CellRef} {now : Nat} {ws : List Wire} (h : Keeps s t) : Keeps s (arriveList k now ws t).1 := by
  induction ws generalizing t with
  | nil => exact h
  | cons w ws ih =>
    rw [Machine.arriveList]
    split
    · exact ih h.arriveTok
    · exact ih h

theorem Keeps.arrivals (h : Keeps s t) {k : CellRef} : Keeps s (t.arrivals k) := by
  unfold State.arrivals
  extract_lets ws
  split
  · exact h
  · split
    · rename_i u0 _ e2
      have h1 : Keeps s _ := .of_fst e2 (.arriveList (.updCell h))
      exact .updCell h1

theorem Keeps.takeWire (h : Keeps s t) {k : CellRef} {p : Nat} : Keeps s (t.takeWire k p) :=
  .updCell h

theorem Keeps.closeWires (h : Keeps s t) {k : CellRef} : Keeps s (t.closeWires k) :=
  .ite h (.ite (.faultNoWord (.updCell h)) (.updCell h))

/-! ### The functions of Sys2Proof/Machine/SteerCore.lean -/

theorem Keeps.deliverHead (h : Keeps s t) {k : CellRef} {p : Nat} : Keeps s (t.deliverHead k p) := by
  unfold State.deliverHead
  extract_lets s1
  have hs1 : Keeps s s1 := .dropStale h
  split
  · exact hs1
  · split
    · exact .ite (.faultNoWord (.popFifo hs1)) (.ite hs1 (.bufPush (.popFifo hs1)))
    · split
      · exact hs1
      · exact .ite hs1 (.bufPush (.popFifo hs1))

theorem Keeps.deliverHeads (h : Keeps s t) {i : Nat} : Keeps s (t.deliverHeads i) :=
  .foldl h fun _ _ h1 => .foldl h1 fun _ _ h2 => .ite (.deliverHead h2) h2

theorem Keeps.steerOut (h : Keeps s t) {k : CellRef} {p : Nat} {unit inside : Bool} {o : Nat} {t0 : Token} : Keeps s (t.steerOut k p unit inside o t0) :=
  .ite (.routeDrive h) (.updCell h)

theorem Keeps.fireSwitch (h : Keeps s t) {k : CellRef} {p : Nat} : Keeps s (t.fireSwitch k p) := by
  unfold State.fireSwitch
  extract_lets x s1
  have hs1 : Keeps s s1 := .updCell h
  split
  · exact h
  · exact .ite hs1 (.steerOut hs1)

theorem Keeps.fireMerge (h : Keeps s t) {k : CellRef} {p : Nat} : Keeps s (t.fireMerge k p) := by
  unfold State.fireMerge
  extract_lets x
  split
  · exact h
  · exact .steerOut (.updCell h)

theorem Keeps.fireAll (h : Keeps s t) {k : CellRef} : Keeps s (t.fireAll k) :=
  .ite h (.foldl h fun _ _ h1 => .fireMerge (.fireSwitch h1))

theorem Keeps.lateDrives (h : Keeps s t) {k : CellRef} : Keeps s (t.lateDrives k) := by
  unfold State.lateDrives
  split
  · exact h
  · refine .foldl h fun _ _ h1 => ?_
    split
    · exact .ite h1 (.driveTok (.updCell h1))

/-! ### The functions of Sys2Proof/Machine/Blocks.lean -/

theorem Keeps.setUpset (h : Keeps s t) {a : Nat} {u : Upset} : Keeps s (t.setUpset a u) :=
  .same h rfl

theorem Keeps.readBlock (h : Keeps s t) {die cls table a : Nat} {u : Upset} : Keeps s (t.readBlock die cls table a u).1 := by
  unfold State.readBlock
  extract_lets u' cs
  split
  · exact .setUpset (.wrN h)
  · extract_lets bs
    exact .ceEvent (.setUpset (.wrN h))
  · exact .ueEvent (.setUpset h)

theorem Keeps.readBlocks (h : Keeps s t) {table : Nat} {l : List Nat} : Keeps s (t.readBlocks table l) :=
  .foldl h fun _ _ h1 => .readBlock h1

theorem Keeps.readRange {die cls table : Nat} {u : Upset} {l : List Nat} (h : Keeps s t) :
    Keeps s (t.readRange die cls table u l).1 := by
  induction l generalizing t u with
  | nil => exact h
  | cons a l ih =>
    rw [State.readRange]
    dsimp only
    split
    · exact h.readBlock
    · exact ih h.readBlock

theorem Keeps.decode (h : Keeps s t) {die cls table a n : Nat} : Keeps s (t.decode die cls table a n) := by
  unfold State.decode
  split
  · exact h
  · extract_lets src
    have hsrc : Keeps s src := .foldl h fun _ _ h1 => .readBlock h1
    exact .same hsrc (by dsimp only [State.kept])

theorem Keeps.writeRange (h : Keeps s t) {die cls table a : Nat} {bs : List Byte} {u : Upset} : Keeps s (t.writeRange die cls table a bs u).1 := by
  unfold State.writeRange
  extract_lets n
  split
  · rename_i u0 _ e2
    have h1 : Keeps s _ := .of_fst e2 (.readRange h)
    split
    · exact .foldl (.wrN h1) fun _ _ h3 => .setUpset h3
    · exact h1

theorem Keeps.mergeN (h : Keeps s t) {a : Nat} {bs : List Byte} : Keeps s (t.mergeN a bs) :=
  .ite (.wrN h) (.writeRange h)

/-! ### The functions of Sys2Proof/Machine/SieveCore.lean -/

theorem Keeps.breach (h : Keeps s t) {k : CellRef} : Keeps s (t.breach k) := by
  unfold State.breach
  extract_lets src
  have hsrc : Keeps s src := .updCell h
  exact .same hsrc (by dsimp only [State.kept])

theorem Keeps.touchArea (h : Keeps s t) {k : CellRef} {off n : Nat} : Keeps s (t.touchArea k off n) :=
  .ite (.breach h) h

theorem Keeps.feed (h : Keeps s t) {k : CellRef} {off : Nat} {bs : List Byte} {seat : Option (BitVec 6)} : Keeps s (t.feed k off bs seat) := by
  unfold State.feed
  extract_lets sv c lo hi inw seat'
  split
  · exact .ite (.faultNoWord (.setReg (.updCell h))) (.setReg (.updCell h))

theorem Keeps.sramLand (h : Keeps s t) {k : CellRef} {off : Nat} {bs : List Byte} {seat : Option (BitVec 6)} : Keeps s (t.sramLand k off bs seat) := by
  unfold State.sramLand
  extract_lets s1
  have hs1 : Keeps s s1 := .wrN (.touchArea h)
  exact .ite hs1 (.ite (.faultNoWord hs1) (.feed hs1))

theorem Keeps.sramLane (h : Keeps s t) {k : CellRef} {off : Nat} {bs : List Byte} {mesh : Option (Nat × BitVec 8)} : Keeps s (t.sramLane k off bs mesh) :=
  .ite (.setReg h) (.ite (.updCell (.ite (.raiseFaults (.sramLand h)) h)) (.raiseFaults (.sramLand h)))

theorem Keeps.intakeStep (h : Keeps s t) {k : CellRef} : Keeps s (t.intakeStep k) := by
  unfold State.intakeStep
  extract_lets c
  split
  · exact h
  · extract_lets n rest s1 s2
    have hs1 : Keeps s s1 := .updCell h
    have hs2 : Keeps s s2 := .foldl hs1 fun _ _ h1 => .sramLand h1
    exact .ite (.setReg hs2) hs2

/-! ### The functions of Sys2Proof/Machine/MeshCore.lean -/

theorem Keeps.meshRefused (h : Keeps s t) {isl : Nat} : Keeps s (t.meshRefused isl) :=
  .setReg h

theorem Keeps.checkBlock (h : Keeps s t) {cls isl table : Nat} {blk : List Byte} {u : Upset} : Keeps s (t.checkBlock cls isl table blk u).1 := by
  unfold State.checkBlock
  split
  · exact h
  · extract_lets cs
    split
    · exact h
    · exact .ceEvent h
    · exact .ueEvent h

theorem Keeps.checkBlocks {cls isl table i : Nat} {us : List (Nat × Upset)} {l : List (List Byte)} (h : Keeps s t) :
    Keeps s (State.checkBlocks cls isl table us t i l).1 := by
  induction l generalizing t i with
  | nil => exact h
  | cons b l ih => exact ih h.checkBlock

theorem Keeps.checkPacket (h : Keeps s t) {cls isl : Nat} {p : Packet} {us : List (Nat × Upset)} : Keeps s (t.checkPacket cls isl p us).1 := by
  unfold State.checkPacket
  split
  · exact h
  · split
    · rename_i u0 _ e2
      have h1 : Keeps s _ := .of_fst e2 (.checkBlocks h)
      split
      · exact h1
      · split
        · exact .meshRefused h1
        · exact h1

theorem Keeps.enter (h : Keeps s t) {rest : List Packet} {p : Packet} : Keeps s (t.enter rest p) := by
  unfold State.enter
  extract_lets p1 s1 wait e
  have hs1 : Keeps s s1 := .same h (by dsimp only [State.kept])
  exact .ite (.same h (by dsimp only [State.kept])) (.ite (.ite (.same h (by dsimp only [State.kept])) (.meshRefused hs1)) (.same h (by dsimp only [State.kept])))

theorem Keeps.inject (h : Keeps s t) {p : Packet} : Keeps s (t.inject p) := by
  unfold State.inject
  split
  · exact .enter h
  · exact h

theorem Keeps.reach {p : Packet} {seam : Bool} {us : List (Nat × Upset)} (h : Keeps s t) : Keeps s (t.reach p seam us) := by
  have hp : Keeps s (if seam then t.checkPacket 5 p.at_ p us else (t, some p)).1 := by
    split
    · exact h.checkPacket
    · exact h
  unfold State.reach
  dsimp only
  split
  · exact hp
  · exact hp.same (by dsimp only [State.kept])

/-! ### The functions of Sys2Proof/Machine/SyncCore.lean -/

theorem Keeps.syncLearn (h : Keeps s t) {ag die t0 : Nat} {id : Word} : Keeps s (t.syncLearn ag die t0 id) := by
  unfold State.syncLearn
  split
  · exact h
  · split
    · exact h
    · extract_lets a s1
      have hs1 : Keeps s s1 := .readBlocks h
      split
      · exact .same hs1 (by dsimp only [State.kept])
      · exact hs1

theorem Keeps.setWin (h : Keeps s t) {die i : Nat} {w : Win} : Keeps s (t.setWin die i w) :=
  .same h rfl

theorem Keeps.wordSet (h : Keeps s t) {h0 : Home} {v : Word} {full : Bool} : Keeps s (t.wordSet h0 v full) := by
  unfold State.wordSet
  split
  · exact .updCell (.mergeN h)
  · exact .setWin h

theorem Keeps.setSync (h : Keeps s t) {id : Nat} {f : SyncReq → SyncReq} : Keeps s (t.setSync id f) :=
  .same h rfl

theorem Keeps.dropSync (h : Keeps s t) {id : Nat} : Keeps s (t.dropSync id) :=
  .same h rfl

theorem Keeps.stageSync (h : Keeps s t) {id : Nat} {g : SyncStage} : Keeps s (t.stageSync id g) :=
  .setSync h

theorem Keeps.sendSync (h : Keeps s t) {r : SyncReq} : Keeps s (t.sendSync r) :=
  .ite (.same h (by dsimp only [State.kept])) (.inject (.same h (by dsimp only [State.kept])))

theorem Keeps.syncArrive (h : Keeps s t) {id : Nat} : Keeps s (t.syncArrive id) := by
  unfold State.syncArrive
  split
  · split
    · extract_lets src
      have hsrc : Keeps s src := .dropSync h
      exact .same hsrc (by dsimp only [State.kept])
    · exact h
  · exact h

theorem Keeps.popFlush (h : Keeps s t) {g : Nat} : Keeps s (t.popFlush g) :=
  .updCell h

theorem Keeps.syncAnswer (h : Keeps s t) {r : SyncReq} {status : Code} {v : Word} : Keeps s (t.syncAnswer r status v) := by
  unfold State.syncAnswer
  split
  · exact .dropSync h
  · exact .popFlush (.dropSync h)
  · exact .ite (.stageSync h) (.inject (.stageSync h))

theorem Keeps.perform (h : Keeps s t) {x : SyncReq} : Keeps s (t.perform x) := by
  unfold State.perform
  split
  · split
    · exact .syncAnswer (.wordSet h)

theorem Keeps.answerHeld (h : Keeps s t) {h0 : Home} : Keeps s (t.answerHeld h0) := by
  unfold State.answerHeld
  refine .foldl h fun _ _ h1 => ?_
  split
  · exact .ite (.syncAnswer h1) h1
  · exact h1

theorem Keeps.passWaiters {n : Nat} {k : Home} (h : Keeps s t) : Keeps s (State.passWaiters n t k) := by
  induction n generalizing t with
  | zero => exact h
  | succ n ih =>
    rw [State.passWaiters]
    split
    · exact h.answerHeld
    · exact .ite (.dealerSees (.stageSync h)) (ih h.perform)

theorem Keeps.applySync (h : Keeps s t) {x : SyncReq} : Keeps s (t.applySync x) := by
  unfold State.applySync
  split
  · split
    · extract_lets s1
      have hs1 : Keeps s s1 := .wordSet h
      split
      · exact .syncAnswer hs1
      · exact .passWaiters (.stageSync hs1)

theorem Keeps.park (h : Keeps s t) {x : SyncReq} {early : Bool} : Keeps s (t.park x early) :=
  .same h rfl

theorem Keeps.retry (h : Keeps s t) {x : SyncReq} : Keeps s (t.retry x) :=
  .ite (.setSync (.setReg h)) (.inject (.stageSync (.setReg h)))

theorem Keeps.setRound (h : Keeps s t) {h0 : Home} {r : Round} : Keeps s (t.setRound h0 r) :=
  .wordSet h

theorem Keeps.roundOver (h : Keeps s t) {h0 : Home} : Keeps s (t.roundOver h0) := by
  unfold State.roundOver
  extract_lets r s1 due timed s2
  have hs1 : Keeps s s1 := .same h (by dsimp only [State.kept])
  have hs2 : Keeps s s2 := .setRound hs1
  exact .ite (.ite (.foldl hs2 fun _ _ h1 => .dealerSees (.stageSync h1)) hs2) h

theorem Keeps.roundSettle (h : Keeps s t) {h0 : Home} : Keeps s (t.roundSettle h0) :=
  .roundOver (.roundOver h)

theorem Keeps.roundFull (h : Keeps s t) {x : SyncReq} : Keeps s (t.roundFull x) := by
  unfold State.roundFull
  extract_lets timed r s1 s2
  have hs1 : Keeps s s1 := .setRound h
  have hs2 : Keeps s s2 := .ite (.park hs1) (.syncAnswer hs1)
  exact .ite (.roundSettle hs2) (.foldl (.stageSync h) fun _ _ h1 => .dealerSees (.stageSync h1))

theorem Keeps.roundArrive (h : Keeps s t) {x : SyncReq} : Keeps s (t.roundArrive x) := by
  unfold State.roundArrive
  extract_lets r full
  exact .ite (.syncAnswer h) (.ite (.ite (.ite (.ite (.retry h) (.park (.setRound h))) (.syncAnswer (.setRound h))) (.roundFull h)) (.ite (.ite (.ite (.retry h) (.park (.setRound h))) (.syncAnswer (.setRound h))) (.syncAnswer h)))

theorem Keeps.roundReset (h : Keeps s t) {x : SyncReq} : Keeps s (t.roundReset x) :=
  .ite (.syncAnswer h) (.ite (.syncAnswer h) (.applySync h))

theorem Keeps.syncAtHome (h : Keeps s t) {x : SyncReq} : Keeps s (t.syncAtHome x) := by
  unfold State.syncAtHome
  extract_lets s' own foreign
  have hs' : Keeps s s' := .readBlocks h
  split
  · exact .syncAnswer hs'
  · split
    · exact .syncAnswer hs'
    · split
      · exact .roundArrive hs'
      · exact .roundArrive hs'
      · exact .roundReset hs'
      · exact .ite (.applySync hs') (.ite (.retry hs') (.park hs'))

theorem Keeps.wordGoesOn (h : Keeps s t) {h0 : Home} : Keeps s (t.wordGoesOn h0) :=
  .ite h (.passWaiters h)

theorem Keeps.roundGoesOn (h : Keeps s t) {h0 : Home} : Keeps s (t.roundGoesOn h0) := by
  unfold State.roundGoesOn
  split
  · exact h
  · split
    · exact .roundArrive h
    · exact .ite (.roundSettle (.setRound h)) h

theorem Keeps.afterRuling (h : Keeps s t) {y : SyncReq} : Keeps s (t.afterRuling y) :=
  .ite (.roundGoesOn h) (.wordGoesOn h)

theorem Keeps.roundWithdraw (h : Keeps s t) {y : SyncReq} : Keeps s (t.roundWithdraw y) :=
  .ite h (.ite (.setRound h) (.ite (.setRound h) h))

theorem Keeps.ruleSatisfy (h : Keeps s t) {y : SyncReq} : Keeps s (t.ruleSatisfy y) :=
  .afterRuling (.dealerSees (.ite (.setSync h) (.perform h)))

theorem Keeps.ruleTimeout (h : Keeps s t) {y : SyncReq} : Keeps s (t.ruleTimeout y) :=
  .afterRuling (.dealerSees (.syncAnswer (.roundWithdraw h)))

/-! ### The functions of Sys2Proof/Machine/XUnit.lean -/

theorem Keeps.syncFailed (h : Keeps s t) {k : CellRef} {code : Code} : Keeps s (t.syncFailed k code) :=
  .raise (.updCell (.same h (by dsimp only [State.kept])))

theorem Keeps.presentX (h : Keeps s t) {k : CellRef} {op : XOp} : Keeps s (t.presentX k op) := by
  unfold State.presentX
  extract_lets c t'
  split
  · split
    · extract_lets s' timed
      have hs' : Keeps s s' := .syncLearn h
      split
      · exact .syncFailed hs'
      · exact .sendSync (.updCell (.same hs' (by dsimp only [State.kept])))
    · exact h
  · split
    · exact .syncFailed h
    · exact h
  · exact h

/-! ### The functions of Sys2Proof/Machine/Issue.lean -/

theorem Keeps.sramStore (h : Keeps s t) {k : CellRef} {off : Nat} {bs : List Byte} {seat : Option (BitVec 6)} : Keeps s (t.sramStore k off bs seat) := by
  unfold State.sramStore
  split
  · exact .sramLand h
  · split
    · rename_i u0 _ e2
      have h1 : Keeps s _ := .of_fst e2 (.readRange h)
      exact .ite (.sramLand h1) h1

theorem Keeps.applyPW (h : Keeps s t) {k : CellRef} {w : PW} : Keeps s (t.applyPW k w) := by
  unfold State.applyPW
  split
  · exact .sramStore h
  · exact .updCell h

theorem Keeps.settle (h : Keeps s t) {k : CellRef} : Keeps s (t.settle k) :=
  .ite h (.foldl (.updCell h) fun _ _ h1 => .applyPW h1)

theorem Keeps.act (h : Keeps s t) {k : CellRef} {pulls : List Nat} {a : Act} : Keeps s (t.act k pulls a) := by
  unfold State.act
  split
  · exact .driveTok h
  · exact .ite (.ite h (.popFifo h)) (.takeWire h)
  · exact .updCell h
  · exact .updCell (.sramLand h)
  · exact .updCell h
  · exact .updCell h
  · exact .updCell h
  · split
    · exact h
    · split
      · exact .countOrphan h
      · extract_lets t' src
        have hsrc : Keeps s src := .updIsl h fun _ => by rfl
        exact .same hsrc (by dsimp only [State.kept])
  · exact .updCell h
  · exact .updCell h
  · exact .updCell h
  · exact .updCell h
  · exact .decode (.touchArea h)

theorem Keeps.doPull (h : Keeps s t) {k : CellRef} {p : Nat} : Keeps s (t.doPull k p) := by
  unfold State.doPull
  split
  · exact .forward (.popFifo h)
  · exact h

theorem Keeps.issueWord (h : Keeps s t) {k : CellRef} {o : WordOut} : Keeps s (t.issueWord k o) := by
  unfold State.issueWord
  extract_lets now s1 s2 s3
  have hs1 : Keeps s s1 := .foldl h fun _ _ h1 => .doPull h1
  have hs2 : Keeps s s2 := .foldl hs1 fun _ _ h2 => .act h2
  have hs3 : Keeps s s3 := .updCell hs2
  exact .ite (.setReg hs3) hs3

theorem Keeps.passHeld (h : Keeps s t) {i n : Nat} : Keeps s (t.passHeld i n) :=
  .ite h (.updIsl (.ite h (.setReg h)) fun _ => by rfl)

theorem Keeps.stallCycle (h : Keeps s t) {i : Nat} {bs : List Nat} : Keeps s (t.stallCycle i bs) := by
  unfold State.stallCycle
  extract_lets s0 s1 s2
  have hs0 : Keeps s s0 := .raiseFaults (.foldl h fun _ _ h1 => .intakeStep h1)
  have hs1 : Keeps s s1 := .setReg (.setReg hs0)
  have hs2 : Keeps s s2 := .updIsl (.setReg (.passHeld hs1)) fun _ => by rfl
  exact .ite (.setReg hs2) (.ite (.setReg hs2) (.setReg hs2))

theorem Keeps.recordFaults (h : Keeps s t) {fs : List (CellRef × Code × Nat)} : Keeps s (t.recordFaults fs) :=
  .foldl h fun _ _ h1 => .ite (.recordFault h1) (.recordFault h1)

theorem Keeps.islState (h : Keeps s t) {i reason : Nat} : Keeps s (t.islState i reason) :=
  .ite (.setReg h) (.ite (.setReg (.setReg h)) (.ite (.setReg (.setReg h)) (.setReg h)))

theorem Keeps.consumeBubble (h : Keeps s t) {k : CellRef} : Keeps s (t.consumeBubble k) :=
  .ite (.updCell h) h

theorem Keeps.openCycle (h : Keeps s t) {i : Nat} : Keeps s (t.openCycle i) := by
  unfold State.openCycle
  extract_lets cells s1 s2
  have hs1 : Keeps s s1 := .deliverHeads (.foldl h fun _ _ h1 => .intakeStep h1)
  have hs2 : Keeps s s2 := .foldl hs1 fun _ _ h2 => .arrivals h2
  exact .foldl hs2 fun _ _ h3 => .fireAll h3

theorem Keeps.closeCycle (h : Keeps s t) {b : State} {i : Nat} {issued : Word} : Keeps s (State.closeCycle b t i issued) := by
  unfold State.closeCycle
  extract_lets cells s1 s2 s3 s4
  have hs1 : Keeps s s1 := .foldl h fun _ _ h1 => .closeWires h1
  have hs2 : Keeps s s2 := .foldl hs1 fun _ _ h2 => .lateDrives h2
  have hs3 : Keeps s s3 := .updIsl hs2 fun _ => by rfl
  have hs4 : Keeps s s4 := .raiseFaults (.foldl hs3 fun _ _ h3 => .settle h3)
  exact .islState (.setReg (.passHeld hs4))

theorem Keeps.schedCycle (h : Keeps s t) {i : Nat} : Keeps s (t.schedCycle i) := by
  unfold State.schedCycle
  extract_lets cells s0 outs s1 good s2 s3
  have hs0 : Keeps s s0 := .openCycle h
  have hs1 : Keeps s s1 := .foldl hs0 fun _ _ h1 => .consumeBubble h1
  have hs2 : Keeps s s2 := .foldl hs1 fun _ _ h2 => .issueWord h2
  have hs3 : Keeps s s3 := .recordFaults hs2
  exact .closeCycle hs3

theorem Keeps.cycle (h : Keeps s t) {i : Nat} : Keeps s (t.cycle i) :=
  .ite h (.ite (.schedCycle h) (.stallCycle h))

theorem Keeps.present (h : Keeps s t) {k : CellRef} {w : HWord} : Keeps s (t.present k w) :=
  .ite (.presentX (.updCell h)) (.updCell h)

theorem Keeps.drive (h : Keeps s t) {k : CellRef} {w : HWord} : Keeps s (drive k w t) :=
  .ite h (.ite (.cycle h) (.ite (.cycle (.present (.ite h (.cycle h)))) (.ite h (.cycle h))))

theorem Keeps.presentAll (h : Keeps s t) {i : Nat} : Keeps s (t.presentAll i) :=
  .foldl h fun _ _ h1 => .ite (.present h1) h1

/-! ### The functions of Sys2Proof/Machine/Tick.lean -/

theorem Keeps.sliceBy (h : Keeps s t) {n isl : Nat} : Keeps s (State.sliceBy n t isl) :=
  .ite (.setReg h) h

theorem Keeps.advance (h : Keeps s t) {n : Nat} : Keeps s (t.advance n) := by
  unfold State.advance
  extract_lets s1
  have hs1 : Keeps s s1 := .foldl h fun _ _ h1 => .sliceBy h1
  exact .same hs1 (by dsimp only [State.kept])

theorem Keeps.until (h : Keeps s t) {t0 : Word} : Keeps s (t.until t0) :=
  .ite (.advance h) h

theorem Keeps.tick (h : Keeps s t) : Keeps s t.tick := by
  unfold State.tick
  split
  · exact .advance h
  · split
    · extract_lets src
      have hsrc : Keeps s src := .advance h
      exact .same hsrc (by dsimp only [State.kept])
    · split
      · extract_lets src
        have hsrc : Keeps s src := .advance h
        exact .same hsrc (by dsimp only [State.kept])
      · exact .same h (by dsimp only [State.kept])

/-! ### The functions of Sys2Proof/Machine/SyncUnit.lean -/

theorem Keeps.setPres (h : Keeps s t) {core : Nat} {status : Code} {done : Bool} : Keeps s (t.setPres core status done) :=
  .setReg h

theorem execSyncOperation_keeps (h : Keeps s t) {id : Nat} : Res.Keeps s (execSyncOperation id t) := by
  unfold execSyncOperation
  split
  · exact .ite (.next (.syncAtHome h)) (.next h)
  · exact .next h

theorem Keeps.takeReply (h : Keeps s t) {x : SyncReq} {status : Code} {v : Word} : Keeps s (t.takeReply x status v) := by
  unfold State.takeReply
  extract_lets s1
  have hs1 : Keeps s s1 := .dropSync h
  split
  · exact .ite hs1 (.ite (.updCell hs1) (.ite (.updCell hs1) (.syncFailed hs1)))
  · exact .setReg (.setPres hs1)
  · exact hs1

theorem execSyncReply_keeps (h : Keeps s t) {id : Nat} : Res.Keeps s (execSyncReply id t) := by
  unfold execSyncReply
  split
  · split
    · exact .next (.takeReply h)
    · exact .next h
  · exact .next h

theorem execSyncRetry_keeps (h : Keeps s t) {id : Nat} : Res.Keeps s (execSyncRetry id t) := by
  unfold execSyncRetry
  split
  · exact .ite (.next (.sendSync (.dropSync (.until h)))) (.next h)
  · exact .next h

theorem execSyncDeadline_keeps (h : Keeps s t) {id : Nat} : Res.Keeps s (execSyncDeadline id t) := by
  unfold execSyncDeadline
  split
  · exact .ite (.next (.until (.setSync h))) (.next h)
  · exact .next h

theorem execDealerSatisfy_keeps (h : Keeps s t) {id : Nat} : Res.Keeps s (execDealerSatisfy id t) := by
  unfold execDealerSatisfy
  split
  · exact .ite (.next (.ruleSatisfy h)) (.next h)
  · exact .next h

theorem execDealerTimeout_keeps (h : Keeps s t) {id : Nat} : Res.Keeps s (execDealerTimeout id t) := by
  unfold execDealerTimeout
  split
  · exact .ite (.next (.ruleTimeout h)) (.next h)
  · exact .next h

theorem execRoundRelease_keeps (h : Keeps s t) {home : Home} : Res.Keeps s (execRoundRelease home t) := by
  unfold execRoundRelease
  split
  · exact .next h
  · split
    · exact .next (.roundSettle h)
    · exact .next (.roundSettle (.syncAnswer h))

theorem execSyncInv_keeps (h : Keeps s t) {die : BitVec 1} {t0 : BitVec 8} {all : Bool} {id : BitVec 16} : Res.Keeps s (execSyncInv die t0 all id t) := by
  unfold execSyncInv
  refine .next ?_
  extract_lets src
  have hsrc : Keeps s src := .setReg h
  exact .same hsrc (by dsimp only [State.kept])

theorem execSyncInvDone_keeps (h : Keeps s t) {die : BitVec 1} : Res.Keeps s (execSyncInvDone die t) := by
  unfold execSyncInvDone
  extract_lets mine src
  have hsrc : Keeps s src := .setReg h
  exact .next (.same hsrc (by dsimp only [State.kept]))

theorem Keeps.stewardSync (h : Keeps s t) {core : Nat} {v : SyncV} {id : BitVec 16} {t0 : BitVec 8} {timed : Bool} : Keeps s (t.stewardSync core v id t0 timed) := by
  unfold State.stewardSync
  extract_lets s'
  have hs' : Keeps s s' := .syncLearn h
  split
  · exact .setPres hs'
  · exact .sendSync (.setPres (.same hs' (by dsimp only [State.kept])))

theorem execStewardFeld_keeps (h : Keeps s t) {core : Nat} {id : BitVec 16} {t0 : BitVec 8} {variant : BitVec 4} {timed : Bool} : Res.Keeps s (execStewardFeld core id t0 variant timed t) := by
  unfold execStewardFeld
  split
  · exact .next h
  · split
    · exact .next (.stewardSync h)
    · exact .next (.stewardSync h)
    · exact .next (.stewardSync h)
    · exact .next (.stewardSync h)
    · exact .next h

theorem execStewardFest_keeps (h : Keeps s t) {core : Nat} {id : BitVec 16} {t0 : BitVec 8} {variant : BitVec 4} {timed : Bool} : Res.Keeps s (execStewardFest core id t0 variant timed t) := by
  unfold execStewardFest
  split
  · exact .next h
  · split
    · exact .next (.stewardSync h)
    · exact .next (.stewardSync h)
    · exact .next (.stewardSync h)
    · exact .next (.stewardSync h)
    · exact .next h

theorem execStewardRound_keeps (h : Keeps s t) {core : Nat} {id : BitVec 16} {t0 : BitVec 8} {variant : BitVec 4} {timed : Bool} : Res.Keeps s (execStewardRound core id t0 variant timed t) := by
  unfold execStewardRound
  split
  · exact .next h
  · split
    · exact .next (.stewardSync h)
    · exact .next (.stewardSync h)
    · exact .next (.stewardSync h)
    · exact .next h

/-! ### The functions of Sys2Proof/Machine/PageCore.lean -/

theorem Keeps.wr64 (h : Keeps s t) {a v : Nat} : Keeps s (t.wr64 a v) :=
  .mergeN h

theorem Keeps.learn (h : Keeps s t) {ag t0 va : Nat} : Keeps s (t.learn ag t0 va) := by
  unfold State.learn
  split
  · exact h
  · extract_lets s1
    have hs1 : Keeps s s1 := .readBlocks h
    split
    · exact .same hs1 (by dsimp only [State.kept])
    · exact .same hs1 (by dsimp only [State.kept])
    · exact hs1

theorem Keeps.wrEntry (h : Keeps s t) {pa v : Nat} : Keeps s (t.wrEntry pa v) := by
  unfold State.wrEntry
  extract_lets src
  have hsrc : Keeps s src := .wr64 h
  exact .same hsrc (by dsimp only [State.kept])

theorem Keeps.setVrec (h : Keeps s t) {t0 i : Nat} {r : VRec} : Keeps s (t.setVrec t0 i r) :=
  .mergeN h

theorem Keeps.setBoth {f : Nat → Nat} {hi lo v : Nat} (h : Keeps s t) : Keeps s (t.setBoth f hi lo v) :=
  .setReg (.setReg h)

theorem Keeps.setPool (h : Keeps s t) {die : Nat} {far : Bool} {l : List Nat} : Keeps s (t.setPool die far l) :=
  .same h rfl

theorem Keeps.takeFrame {die f : Nat} {far : Bool} (h : Keeps s t) (e : t.takeFrame die far = some (f, u)) : Keeps s u := by
  unfold State.takeFrame at e
  split at e
  · cases e
  · simp only [Option.some.injEq, Prod.mk.injEq] at e
    rw [← e.2]
    exact .ite (.raise (.setPool h)) (.setPool h)

theorem Keeps.giveFrame (h : Keeps s t) {a : Nat} : Keeps s (t.giveFrame a) := by
  unfold State.giveFrame
  split
  · exact .ite h (.setPool h)
  · exact h

theorem Keeps.startVersion {n : Nat} {e : PageEnt} {step : Bool} (h : Keeps s t) : Keeps s (t.startVersion n e step) := by
  unfold State.startVersion
  split
  · exact h
  · split
    · exact h
    · split
      next e' _ => exact (h.takeFrame e').same (by dsimp only [State.kept])
      next => exact h.raise

theorem Keeps.readPage (h : Keeps s t) {t0 a : Nat} : Keeps s (t.readPage t0 a) := by
  unfold State.readPage
  split
  · exact h
  · extract_lets src
    have hsrc : Keeps s src := .readBlocks h
    exact .same hsrc (by dsimp only [State.kept])

theorem Keeps.finishVersion (h : Keeps s t) {die : Nat} {v : VCopy} : Keeps s (t.finishVersion die v) := by
  unfold State.finishVersion
  extract_lets s0 s1 b r b' s2 b''
  have hs0 : Keeps s s0 := .readBlocks (.readPage (.same h (by dsimp only [State.kept])))
  have hs1 : Keeps s s1 := .wrN hs0
  have hs2 : Keeps s s2 := .same hs1 (by dsimp only [State.kept])
  exact .ite (.setVrec (.wrEntry hs2)) (.setBoth (.setVrec (.wrEntry hs2)))

/-! ### The functions of Sys2Proof/Machine/MemPath.lean -/

theorem Keeps.setQueue (h : Keeps s t) {q : Nat} {l : List MemReq} : Keeps s (t.setQueue q l) :=
  .same h rfl

theorem Keeps.deliverReply (h : Keeps s t) {asker : Asker} {write : Bool} {status : Code} {data : List Byte} : Keeps s (t.deliverReply asker write status data) := by
  unfold State.deliverReply
  split
  · exact .ite h (.updCell h)
  · exact h

theorem Keeps.replyMem (h : Keeps s t) {here : Nat} {r : MemReq} {status : Code} {data : List Byte} : Keeps s (t.replyMem here r status data) :=
  .ite h (.ite (.deliverReply h) (.inject h))

theorem Keeps.serveSram (h : Keeps s t) {here : Nat} {k : CellRef} {off : Nat} {r : MemReq} : Keeps s (t.serveSram here k off r) := by
  unfold State.serveSram
  split
  · exact .replyMem h
  · split
    · split
      · rename_i u0 _ e2
        have h1 : Keeps s _ := .of_fst e2 (.readRange h)
        exact .ite (.replyMem (.sramLane h1)) (.replyMem h1)
    · split
      · rename_i u0 _ e4
        have h3 : Keeps s _ := .of_fst e4 (.readRange h)
        exact .ite (.replyMem (.touchArea h3)) (.replyMem h3)

theorem Keeps.acceptMem (h : Keeps s t) {here : Nat} {r : MemReq} : Keeps s (t.acceptMem here r) := by
  unfold State.acceptMem
  split
  · exact .replyMem h
  · split
    · exact .setQueue h
    · exact .setQueue h
    · exact .serveSram h
    · exact h

theorem Keeps.sendMem (h : Keeps s t) {r : MemReq} : Keeps s (t.sendMem r) := by
  unfold State.sendMem
  split
  · exact .replyMem h
  · exact .ite (.acceptMem h) (.inject h)

/-! ### The functions of Sys2Proof/Machine/VaPath.lean -/

theorem Keeps.versionNow (h : Keeps s t) {t0 : Nat} {e : PageEnt} {step : Bool} : Keeps s (t.versionNow t0 e step).1 := by
  unfold State.versionNow
  extract_lets s1
  have hs1 : Keeps s s1 := .startVersion h
  split
  · exact hs1
  · split
    · exact .finishVersion hs1
    · exact hs1

theorem Keeps.landPA (h : Keeps s t) {t0 a : Nat} {bs : List Byte} : Keeps s (t.landPA t0 a bs).1 := by
  unfold State.landPA
  split
  · split
    · exact .sramLane h
    · exact .writeRange h

theorem Keeps.landAt (h : Keeps s t) {t0 a : Nat} {bs : List Byte} : Keeps s (t.landAt t0 a bs).1 := by
  unfold State.landAt
  split
  · exact h
  · split
    · rename_i u0 _ e2
      have h1 : Keeps s _ := .of_fst e2 (.landPA h)
      exact h1

theorem Keeps.castRange (h : Keeps s t) {ag t0 group target c off : Nat} {bs : List Byte} : Keeps s (t.castRange ag t0 group target c off bs) :=
  .foldl h fun _ _ h1 => .inject h1

theorem Keeps.landPage (h : Keeps s t) {ag t0 va : Nat} {own atmOnly : Bool} {bs : List Byte} : Keeps s (t.landPage ag t0 va own atmOnly bs).1 := by
  unfold State.landPage
  extract_lets s' noAtm
  have hs' : Keeps s s' := .learn h
  split
  · exact hs'
  · split
    · exact hs'
    · exact hs'
    · exact .castRange hs'
    · exact .landAt hs'
    · split
      · rename_i u0 _ e2
        have h1 : Keeps s _ := .of_fst e2 (.versionNow hs')
        split
        · split
          · exact .landAt h1
          · exact h1
        · exact h1

theorem Keeps.landParts {ag n : Nat} {own atmOnly : Bool} {l : List (Nat × Nat)} {bs : List Byte} (h : Keeps s t) :
    Keeps s (State.landParts ag n own atmOnly t l bs).1 := by
  induction l generalizing t bs with
  | nil => exact h
  | cons p l ih =>
    obtain ⟨va, m⟩ := p
    rw [State.landParts]
    dsimp only
    split
    · exact ih h.landPage
    · exact h.landPage

theorem Keeps.landVA (h : Keeps s t) {ag t0 va : Nat} {own atmOnly : Bool} {bs : List Byte} : Keeps s (t.landVA ag t0 va own atmOnly bs).1 :=
  .landParts h

theorem Keeps.takePA (h : Keeps s t) {t0 a n : Nat} : Keeps s (t.takePA t0 a n).1 := by
  unfold State.takePA
  split
  · split
    · rename_i u0 _ e2
      have h1 : Keeps s _ := .of_fst e2 (.readRange h)
      exact h1

theorem Keeps.takeParts {ag n : Nat} {own : Bool} {l : List (Nat × Nat)} {acc : List Byte} (h : Keeps s t) :
    Keeps s (State.takeParts ag n own t l acc).1 := by
  induction l generalizing t acc with
  | nil => exact h
  | cons p l ih =>
    obtain ⟨va, m⟩ := p
    rw [State.takeParts]
    dsimp only
    split
    · exact h.learn
    · exact h.learn
    · split
      · exact ih h.learn.takePA
      · exact h.learn.takePA
    · exact h.learn

theorem Keeps.takeVA (h : Keeps s t) {ag t0 va n : Nat} {own : Bool} : Keeps s (t.takeVA ag t0 va n own).1 :=
  .takeParts h

/-! ### The functions of Sys2Proof/Machine/Channels.lean -/

theorem Keeps.freeChbuf (h : Keeps s t) {m : ChMsg} : Keeps s (t.freeChbuf m) := by
  unfold State.freeChbuf
  split
  · exact .updIsl h fun _ => by rfl
  · exact h

theorem Keeps.chPortDone (h : Keeps s t) {m : ChMsg} {status : Code} : Keeps s (t.chPortDone m status) := by
  unfold State.chPortDone
  split
  · exact .setPres h
  · exact h

theorem Keeps.dropMsg (h : Keeps s t) {i : Nat} {m : ChMsg} : Keeps s (t.dropMsg i m) := by
  unfold State.dropMsg
  extract_lets s1
  have hs1 : Keeps s s1 := .countOrphan (.same h (by dsimp only [State.kept]))
  exact .ite hs1 (.chPortDone (.freeChbuf hs1))

theorem Keeps.placeNow (h : Keeps s t) {i : Nat} {m : ChMsg} {skip : Bool} {off : Nat} {rt : BitVec 32} : Keeps s (t.placeNow i m skip off rt) := by
  unfold State.placeNow
  extract_lets base size n seq t' old s1 s2 src s3
  have hs1 : Keeps s s1 := .ite (.landPA h) h
  have hs2 : Keeps s s2 := .landPA hs1
  have hsrc : Keeps s src := .setRtail hs2
  have hs3 : Keeps s s3 := .same hsrc (by dsimp only [State.kept])
  exact .chPortDone (.freeChbuf hs3)

theorem Keeps.placeIdx (h : Keeps s t) {i : Nat} : Keeps s (t.placeIdx i) := by
  unfold State.placeIdx
  split
  · exact h
  · split
    · exact h
    · split
      · exact .dropMsg h
      · split
        · exact .placeNow h
        · exact h

theorem execChannelPlace_keeps (h : Keeps s t) {die : BitVec 1} {ch : BitVec 12} : Res.Keeps s (execChannelPlace die ch t) := by
  unfold execChannelPlace
  split
  · exact .next (.placeIdx h)
  · exact .next h

theorem Keeps.publishIdx (h : Keeps s t) {i : Nat} : Keeps s (t.publishIdx i) := by
  unfold State.publishIdx
  split
  · exact h
  · exact .ite h (.ite (.dropMsg h) (.setReg (.setReg (.same h (by dsimp only [State.kept])))))

theorem execChannelPublish_keeps (h : Keeps s t) {die : BitVec 1} {ch : BitVec 12} : Res.Keeps s (execChannelPublish die ch t) := by
  unfold execChannelPublish
  split
  · exact .next h
  · split
    · exact .next h
    · exact .ite (.next h) (.next (.publishIdx h))

theorem Keeps.publishFirst (h : Keeps s t) {t0 : Nat} {x : Nat × Nat} : Keeps s (t.publishFirst t0 x) := by
  unfold State.publishFirst
  extract_lets first
  split
  · exact h
  · extract_lets s1
    have hs1 : Keeps s s1 := .placeIdx h
    split
    · exact hs1
    · exact .publishIdx hs1

theorem Keeps.publishTable (h : Keeps s t) {t0 : Nat} : Keeps s (t.publishTable t0) := by
  unfold State.publishTable
  extract_lets mine s1
  have hs1 : Keeps s s1 := .foldl h fun _ _ h1 => .publishFirst h1
  exact .same hs1 (by dsimp only [State.kept])

theorem Keeps.dropTableMsgs (h : Keeps s t) {t0 : Nat} : Keeps s (t.dropTableMsgs t0) := by
  unfold State.dropTableMsgs
  extract_lets dead gone s1
  have hs1 : Keeps s s1 := .same h (by dsimp only [State.kept])
  exact .foldl hs1 fun _ _ h1 => .setRtail (.ite h1 (.chPortDone (.freeChbuf h1)))

theorem execChnPosHeadWrite_keeps (h : Keeps s t) {die : BitVec 1} {ch : BitVec 12} {head : BitVec 32} : Res.Keeps s (execChnPosHeadWrite die ch head t) :=
  .ite (.next h) (.next (.setReg h))

theorem Keeps.clearChannel (h : Keeps s t) {die ch : Nat} : Keeps s (t.clearChannel die ch) := by
  unfold State.clearChannel
  refine .foldl h fun _ _ h1 => ?_
  split
  · split
    · exact .dropMsg h1
    · exact h1
  · exact h1

theorem execChannelOpen_keeps (h : Keeps s t) {die : BitVec 1} {ch : BitVec 12} {base size_log2 : Nat} {reader : BitVec 12} {skind : Bool} {sender : BitVec 12} : Res.Keeps s (execChannelOpen die ch base size_log2 reader skind sender t) :=
  .ite (.next h) (.next (.setRtail (.setReg (.setReg (.setReg (.clearChannel h))))))

theorem Keeps.orphan (h : Keeps s t) {d c : Nat} : Keeps s (t.orphan d c) := by
  unfold State.orphan
  split
  · exact h
  · extract_lets s1
    have hs1 : Keeps s s1 := .dealerSees (.setReg h)
    refine .foldl hs1 fun _ _ h1 => ?_
    split
    · split
      · exact .dropMsg h1
      · exact h1
    · exact h1

theorem execChannelOrphan_keeps (h : Keeps s t) {die : BitVec 1} {ch : BitVec 12} : Res.Keeps s (execChannelOrphan die ch t) :=
  .next (.orphan h)

theorem Keeps.sendersGone (h : Keeps s t) {t0 : Nat} : Keeps s (t.sendersGone t0) :=
  .foldl h fun _ _ h1 => .ite (.setReg h1) h1

theorem Keeps.coreChannels (h : Keeps s t) {core : Nat} : Keeps s (t.coreChannels core) :=
  .foldl h fun _ _ h1 => .ite h1 (.ite (.setReg (.ite (.orphan h1) h1)) (.ite (.orphan h1) h1))

theorem execStewardChannelSend_keeps (h : Keeps s t) {core : Nat} {handle : BitVec 16} : Res.Keeps s (execStewardChannelSend core handle t) := by
  unfold execStewardChannelSend
  split
  · exact .next h
  · extract_lets len mine a bs
    split
    · exact .next (.setPres h)
    · split
      · exact .next (.countOrphan (.setPres h))
      · extract_lets t' s' src
        have hs' : Keeps s s' := .readBlocks h
        have hsrc : Keeps s src := .setPres hs'
        exact .ite (.next (.setPres hs')) (.next (.same hsrc (by dsimp only [State.kept])))

/-! ### The functions of Sys2Proof/Machine/GulCore.lean -/

theorem Keeps.holdReplies (h : Keeps s t) {l : Nat} {heads : List GPkt} : Keeps s (t.holdReplies l heads) :=
  .same h rfl

theorem Keeps.sendSlots (h : Keeps s t) {l : Nat} {f : GFill} : Keeps s (t.sendSlots l f) := by
  unfold State.sendSlots
  extract_lets x wanted bits src y y' s1 src'
  have hs1 : Keeps s s1 := .holdReplies h
  have hsrc' : Keeps s src' := .setGlink hs1
  exact .same hsrc' (by dsimp only [State.kept])

theorem Keeps.pumpN {n l : Nat} (h : Keeps s t) : Keeps s (State.pumpN n t l) := by
  induction n generalizing t with
  | zero => exact h
  | succ n ih =>
    rw [State.pumpN]
    exact .ite h (.ite h (ih h.sendSlots))

theorem Keeps.pump (h : Keeps s t) {l : Nat} : Keeps s (t.pump l) :=
  .pumpN h

theorem Keeps.gulLost (h : Keeps s t) {l : Nat} : Keeps s (t.gulLost l) :=
  .setReg h

theorem Keeps.routeOut {die : Nat} {p : GPkt} (h : Keeps s t) (e : t.routeOut die p = .ok u) : Keeps s u := by
  unfold State.routeOut at e
  extract_lets w l x at e
  split at e
  · cases e
  · split at e
    · cases e
    · cases e
      exact .pump (.setGlink h)

theorem Keeps.setPhase (h : Keeps s t) {t0 v : Nat} : Keeps s (t.setPhase t0 v) :=
  .setBoth h

theorem Keeps.gulStale (h : Keeps s t) {t0 : Nat} : Keeps s (t.gulStale t0) :=
  .setReg (.setReg h)

theorem Keeps.updGop (h : Keeps s t) {core : Nat} {f : GOp → GOp} : Keeps s (t.updGop core f) :=
  .same h rfl

theorem Keeps.gulFail (h : Keeps s t) {core t0 : Nat} {c : Code} : Keeps s (t.gulFail core t0 c) :=
  .updTbl (.updGop h)

theorem Keeps.landFor (h : Keeps s t) {die t0 va : Nat} {bs : List Byte} : Keeps s (t.landFor die t0 va bs).1 := by
  unfold State.landFor
  split
  · exact .landVA h
  · split
    · exact h
    · split
      · rename_i u0 _ e2
        have h1 : Keeps s _ := .of_fst e2 (.landPA h)
        exact h1

theorem Keeps.takeFor (h : Keeps s t) {die t0 va n : Nat} : Keeps s (t.takeFor die t0 va n).1 := by
  unfold State.takeFor
  split
  · exact .takeVA h
  · split
    · exact h
    · split
      · rename_i u0 _ e2
        have h1 : Keeps s _ := .of_fst e2 (.takePA h)
        exact h1
      · rename_i u0 e4
        have h3 : Keeps s _ := .of_fst e4 (.takePA h)
        exact h3

theorem Keeps.portAnswer (h : Keeps s t) {r : GReq} {o : GOp} {p : GPkt} : Keeps s (t.portAnswer r o p) := by
  unfold State.portAnswer
  split
  · exact .gulStale h
  · split
    · exact .same h (by dsimp only [State.kept])
    · extract_lets s1
      have hs1 : Keeps s s1 := .same h (by dsimp only [State.kept])
      split
      · exact .gulFail hs1
      · split
        · split
          · rename_i u0 e2
            have h1 : Keeps s _ := .of_fst e2 (.landFor hs1)
            exact h1
          · rename_i u0 e4
            have h3 : Keeps s _ := .of_fst e4 (.landFor hs1)
            exact .same h3 (by dsimp only [State.kept])
          · rename_i u0 _ e6
            have h5 : Keeps s _ := .of_fst e6 (.landFor hs1)
            exact .gulFail h5
        · exact hs1

theorem Keeps.abandonStep {n : Nat} (h : Keeps s t) : Keeps s (t.abandonStep n) :=
  .mapJobs (h.setBoth.updTbl) fun j hj => by split <;> exact hj

theorem Keeps.skipStep (h : Keeps s t) {t0 : Nat} : Keeps s (t.skipStep t0) :=
  .setBoth h

theorem Keeps.sealAnswer {p : GPkt} (h : Keeps s t) : Keeps s (t.sealAnswer p) := by
  unfold State.sealAnswer
  split
  · exact h
  · split
    · exact h
    · split
      · exact .ite h (.skipStep (.abandonStep h))
      · rename_i j _ _
        extract_lets s1
        have hs1 : Keeps s s1 := h.mapJobs fun x hx => by split <;> exact hx
        exact .ite hs1 (.same hs1 (by dsimp only [State.kept]))

theorem Keeps.kittyAnswer (h : Keeps s t) {r : GReq} {p : GPkt} : Keeps s (t.kittyAnswer r p) := by
  unfold State.kittyAnswer
  extract_lets s1
  have hs1 : Keeps s s1 := .same h (by dsimp only [State.kept])
  exact .ite (.updTbl hs1) (.landPA hs1)

theorem Keeps.strayAnswer (h : Keeps s t) {p : GPkt} : Keeps s (t.strayAnswer p) := by
  unfold State.strayAnswer
  split
  · exact h
  · exact .ite (.updTbl h) (.gulStale h)

theorem Keeps.gulAnswer (h : Keeps s t) {p : GPkt} : Keeps s (t.gulAnswer p) := by
  unfold State.gulAnswer
  split
  · exact .ite (.sealAnswer h) (.strayAnswer h)
  · split
    · exact .portAnswer h
    · exact .ite (.kittyAnswer h) h

theorem Keeps.gulDeliver (h : Keeps s t) {die l : Nat} {p : GPkt} : Keeps s (t.gulDeliver die l p) :=
  .ite (.gulAnswer h) (.same h (by dsimp only [State.kept]))

theorem Keeps.gulSend (h : Keeps s t) {die l : Nat} {p : GPkt} : Keeps s (t.gulSend die l p) := by
  unfold State.gulSend
  split
  · exact .gulDeliver h
  · split
    · rename_i u0 e2
      have h1 : Keeps s _ := .routeOut h e2
      exact h1
    · split
      · exact .gulLost h
      · extract_lets r
        split
        · exact .gulDeliver h
        · split
          · rename_i u0 e4
            have h3 : Keeps s _ := .routeOut h e4
            exact h3
          · exact .gulLost h

/-! ### The functions of Sys2Proof/Machine/HostCore.lean -/

theorem Keeps.updSess (h : Keeps s t) {n : Nat} {f : Sess → Sess} : Keeps s (t.updSess n f) :=
  .same h rfl

theorem Keeps.sendDev (h : Keeps s t) {n : Nat} {m : DMsg} : Keeps s (t.sendDev n m) := by
  unfold State.sendDev
  split
  · exact h
  · split
    · exact .updSess h
    · extract_lets s1
      have hs1 : Keeps s s1 := .updSess h
      exact .same hs1 (by dsimp only [State.kept])

theorem Keeps.drainWait (h : Keeps s t) {n : Nat} : Keeps s (t.drainWait n) := by
  unfold State.drainWait
  split
  · exact h
  · exact .foldl (.updSess h) fun _ _ h1 => .sendDev h1

theorem Keeps.sendAck (h : Keeps s t) {n : Nat} : Keeps s (t.sendAck n) := by
  unfold State.sendAck
  split
  · exact h
  · extract_lets src
    have hsrc : Keeps s src := .updSess h
    exact .same hsrc (by dsimp only [State.kept])

theorem Keeps.result (h : Keeps s t) {n : Nat} {seq : BitVec 32} {status : Code} {fields : List Byte} : Keeps s (t.result n seq status fields) :=
  .sendDev (.updSess h)

theorem Keeps.resultOut (h : Keeps s t) {port : BitVec 1} {src : BitVec 128} {udp : BitVec 16} {seq : BitVec 32} {m : DMsg} : Keeps s (t.resultOut port src udp seq m) :=
  .same h rfl

theorem Keeps.jobStatus (h : Keeps s t) {j : Job} {status : Code} : Keeps s (t.jobStatus j status) := by
  unfold State.jobStatus
  split
  · exact .sendDev h
  · exact h

theorem Keeps.flushDone (h : Keeps s t) {h0 : Nat} : Keeps s (t.flushDone h0) := by
  unfold State.flushDone
  split
  · exact h
  · split
    · exact h
    · exact .updJob (.foldl h fun _ _ h1 => .sendDev (.dealerSees h1)) fun _ => by rfl

/-! ### The functions of Sys2Proof/Machine/TableCore.lean -/

theorem Keeps.setTstate (h : Keeps s t) {t0 v : Nat} : Keeps s (t.setTstate t0 v) :=
  .setBoth h

theorem Keeps.setTepoch (h : Keeps s t) {t0 v : Nat} : Keeps s (t.setTepoch t0 v) :=
  .setBoth h

theorem Keeps.setRes (h : Keeps s t) {t0 : Nat} {status : Code} {busy : Bool} : Keeps s (t.setRes t0 status busy) :=
  .setBoth (.setBoth h)

theorem Keeps.setRunning (h : Keeps s t) {t0 : Nat} {v : Bool} : Keeps s (t.setRunning t0 v) :=
  .setBoth h

theorem Keeps.nextEcmd (h : Keeps s t) {t0 : Nat} : Keeps s (t.nextEcmd t0) :=
  .setBoth h

theorem Keeps.foldl_fst {α β : Type} {f : State × α → β → State × α} {l : List β} {p : State × α} (h : Keeps s p.1)
    (hf : ∀ q x, Keeps s q.1 → Keeps s (f q x).1) : Keeps s (l.foldl f p).1 := by
  induction l generalizing p with
  | nil => exact h
  | cons x l ih => exact ih (hf _ _ h)

theorem Keeps.discardCell {k : CellRef} (h : Keeps s t) : Keeps s (t.discardCell k).1 :=
  .foldl_fst (.setCell h) fun _ _ h1 => .setFifo h1

theorem Keeps.discardIsl {i : Nat} (h : Keeps s t) : Keeps s (t.discardIsl i) :=
  have hf : Keeps s ((t.islCells i).foldl (fun (r : State × Nat) k => ((r.1.discardCell k).1, r.2 + (r.1.discardCell k).2)) (t, 0)).1 :=
    .foldl_fst h fun _ _ h1 => .discardCell h1
  .setReg (.setReg hf)

theorem Keeps.discardTable (h : Keeps s t) {t0 : Nat} : Keeps s (t.discardTable t0) :=
  .foldl h fun _ _ h1 => .discardIsl h1

theorem Keeps.nextEpoch (h : Keeps s t) {t0 : Nat} : Keeps s (t.nextEpoch t0) := by
  unfold State.nextEpoch
  extract_lets e
  exact .setTepoch (.foldl h fun _ _ h1 => .updIsl h1 fun _ => by rfl)

theorem Keeps.closingDeal (h : Keeps s t) {t0 : Nat} : Keeps s (t.closingDeal t0) :=
  .nextEpoch (.discardTable h)

theorem Keeps.fenceFifos (h : Keeps s t) {k : CellRef} {p : Nat} : Keeps s (t.fenceFifos k p) :=
  .ite (.ite h (.setReg (.setFlight (.setFifo h)))) h

theorem Keeps.fenceIsl (h : Keeps s t) {i : Nat} : Keeps s (t.fenceIsl i) := by
  unfold State.fenceIsl
  refine .foldl h fun _ _ h1 => ?_
  refine .foldl h1 fun _ _ h2 => ?_
  split
  · exact .ite h2 (.fenceFifos (.fenceFifos h2))
  · exact h2

theorem Keeps.dropRequest (h : Keeps s t) {x : SyncReq} : Keeps s (t.dropRequest x) := by
  unfold State.dropRequest
  split
  · exact .dropSync (.roundWithdraw h)
  · exact .afterRuling (.dropSync (.roundWithdraw h))
  · extract_lets s1
    have hs1 : Keeps s s1 := .dropSync h
    exact .same hs1 (by dsimp only [State.kept])
  · exact .dropSync h

theorem Keeps.dropRequests (h : Keeps s t) {t0 : Nat} : Keeps s (t.dropRequests t0) := by
  unfold State.dropRequests
  refine .foldl h fun _ _ h1 => ?_
  split
  · exact .dropRequest h1
  · exact h1

theorem Keeps.ownerLost (h : Keeps s t) {cleared : Home → Bool} : Keeps s (t.ownerLost cleared) := by
  unfold State.ownerLost
  refine .foldl h fun _ _ h1 => ?_
  split
  · exact h1
  · split
    · exact .syncAnswer h1
    · exact .syncAnswer h1
    · exact .syncAnswer h1
    · exact .syncAnswer h1
    · exact h1

theorem Keeps.contextClear (h : Keeps s t) {t0 : Nat} : Keeps s (t.contextClear t0) := by
  unfold State.contextClear
  extract_lets cleared s1 s2
  have hs1 : Keeps s s1 := .foldl h fun _ _ h1 => .ite (.updCell h1) h1
  have hs2 : Keeps s s2 := .same hs1 (by dsimp only [State.kept])
  exact .ownerLost (.dropRequests hs2)

theorem Keeps.loseImages (h : Keeps s t) {k : CellRef} : Keeps s (t.loseImages k) := by
  unfold State.loseImages
  refine .foldl h fun _ _ h1 => ?_
  extract_lets src
  have hsrc : Keeps s src := .wrN h1
  exact .same hsrc (by dsimp only [State.kept])

theorem Keeps.stopCell (h : Keeps s t) {k : CellRef} : Keeps s (t.stopCell k) := by
  unfold State.stopCell
  extract_lets s1 s2 src
  have hs1 : Keeps s s1 := .updCell h
  have hs2 : Keeps s s2 := .loseImages (.intakeStep hs1)
  have hsrc : Keeps s src := .setCell hs2
  exact .same hsrc (by dsimp only [State.kept])

theorem Keeps.stopIsl (h : Keeps s t) {i : Nat} : Keeps s (t.stopIsl i) := by
  unfold State.stopIsl
  extract_lets s1 st
  have hs1 : Keeps s s1 := .foldl h fun _ _ h1 => .stopCell h1
  exact .setReg (.ite (.setReg hs1) hs1)

theorem Keeps.abandonCopies (h : Keeps s t) {t0 : Nat} : Keeps s (t.abandonCopies t0) :=
  .foldl h fun _ _ h1 => .giveFrame (.same h1 (by dsimp only [State.kept]))

theorem Keeps.abandonRemote (h : Keeps s t) {t0 : Nat} : Keeps s (t.abandonRemote t0) := by
  unfold State.abandonRemote
  extract_lets mine s1
  have hs1 : Keeps s s1 := .same h (by dsimp only [State.kept])
  refine .foldl hs1 fun _ _ h1 => ?_
  split
  · rename_i _ u1 e3
    have h2 : Keeps s _ := .of_snd e3 (.fresh h1)
    exact .setReg h2

theorem Keeps.withdraw (h : Keeps s t) {t0 : Nat} : Keeps s (t.withdraw t0) :=
  .same h rfl

theorem Keeps.stopTable (h : Keeps s t) {t0 : Nat} : Keeps s (t.stopTable t0) :=
  .abandonRemote (.abandonCopies (.dropRequests (.withdraw (.foldl h fun _ _ h1 => .stopIsl h1))))

/-! ### The functions of Sys2Proof/Machine/CmdCore.lean -/

theorem Keeps.tellWith (h : Keeps s t) {t0 kind r : Nat} {status : Code} : Keeps s (t.tellWith t0 kind r status) :=
  .same h rfl

theorem Keeps.tellRank (h : Keeps s t) {t0 kind r : Nat} : Keeps s (t.tellRank t0 kind r) :=
  .tellWith h

theorem Keeps.tellRanks (h : Keeps s t) {t0 kind : Nat} {rs : List Nat} : Keeps s (t.tellRanks t0 kind rs) :=
  .foldl h fun _ _ h1 => .tellRank h1

theorem Keeps.tellAbort (h : Keeps s t) {t0 : Nat} {status : Code} : Keeps s (t.tellAbort t0 status) :=
  .ite (.foldl h fun _ _ h1 => .tellWith h1) (.tellWith h)

theorem Keeps.homeSees (h : Keeps s t) {t0 : Nat} : Keeps s (t.homeSees t0) :=
  .dealerSees h

theorem Keeps.startEpoch (h : Keeps s t) {t0 : Nat} {m : StartMsg} : Keeps s (t.startEpoch t0 m) :=
  .ite h (.nextEcmd h)

theorem mapSeqs_table {l : List Nat} {j i : Job} (e : mapSeqs l j = some i) : i.table = j.table := by
  induction l generalizing j with
  | nil => cases e; rfl
  | cons q l ih =>
    rw [mapSeqs] at e
    split at e
    · exact ih e
    · split at e
      · exact (ih e).trans rfl
      · cases e

theorem getD_mapSeqs_table (l : List Nat) (j : Job) : ((mapSeqs l j).getD j).table = j.table := by
  cases e : mapSeqs l j with
  | none => rfl
  | some i => exact mapSeqs_table e

theorem Keeps.startJobCmd (h : Keeps s t) {n : Nat} {m : StartMsg} {rerun : Bool} : Keeps s (t.startJobCmd n m rerun) := by
  unfold State.startJobCmd
  extract_lets count
  have hc {u : State} (hu : Keeps s u) : Keeps s (count u) := .ite hu hu.setBoth
  split
  · exact hc h
  · split
    · exact hc (.updJob h (getD_mapSeqs_table m.seqs))
    · exact .setBoth (.updJob h fun _ => by rfl)

theorem Keeps.startSpan (h : Keeps s t) {t0 : Nat} {m : StartMsg} : Keeps s (t.startSpan t0 m) := by
  unfold State.startSpan
  split
  · extract_lets s1
    have hs1 : Keeps s s1 := .setPhase (.setBoth h)
    exact .same hs1 (by dsimp only [State.kept])
  · exact .setPhase (.setBoth h)

theorem Keeps.startCmd (h : Keeps s t) {t0 : Nat} {m : StartMsg} : Keeps s (t.startCmd t0 m) := by
  unfold State.startCmd
  extract_lets scanned rerun s1
  have hs1 : Keeps s s1 := .setBoth (.setRunning (.startEpoch h))
  split
  · exact .ite (.startSpan (.startJobCmd (.updTbl hs1))) (.startJobCmd (.updTbl hs1))

theorem Keeps.endCmd (h : Keeps s t) {n : Nat} {st : CmdSt} : Keeps s (t.endCmd n st) := by
  unfold State.endCmd
  split
  · exact h
  · rename_i j e
    split
    · exact h
    · refine .putJob h ?_
      have hj := h.small_jobOf e
      split <;> exact hj

theorem Keeps.flushTable (h : Keeps s t) {t0 : Nat} : Keeps s (t.flushTable t0) := by
  unfold State.flushTable
  split
  · exact .flushDone h
  · exact h

theorem Keeps.startDrop (h : Keeps s t) {t0 : Nat} : Keeps s (t.startDrop t0) :=
  .updTbl (.setBoth h)

theorem Keeps.leaveNothing (h : Keeps s t) {t0 : Nat} : Keeps s (t.leaveNothing t0) :=
  .setRunning (.startDrop (.contextClear (.dropTableMsgs h)))

theorem Keeps.failNow (h : Keeps s t) {t0 : Nat} {code : Code} : Keeps s (t.failNow t0 code) := by
  unfold State.failNow
  extract_lets s1 s2 s3
  have hs1 : Keeps s s1 := .setTstate (.leaveNothing (.abandonRemote (.abandonCopies h)))
  have hs2 : Keeps s s2 := .updTbl hs1
  have hs3 : Keeps s s3 := .flushTable (.setRes (.endCmd hs2))
  exact .ite (.setPhase (.tellAbort hs3)) hs3

theorem Keeps.killRes (h : Keeps s t) {t0 : Nat} {to_ : KillTo} : Keeps s (t.killRes t0 to_) := by
  unfold State.killRes
  split
  · exact .setRes h
  · exact .setRes h
  · exact .ite (.setRes h) h

theorem Keeps.beginKill (h : Keeps s t) {t0 : Nat} {to_ : KillTo} : Keeps s (t.beginKill t0 to_) := by
  unfold State.beginKill
  extract_lets to' k
  exact .updTbl (.killRes (.setTstate (.stopTable h)))

theorem Keeps.killBegins (h : Keeps s t) {t0 : Nat} {to_ : KillTo} {told : Bool} : Keeps s (t.killBegins t0 to_ told) :=
  .ite (.setPhase (.ite (.tellAbort (.beginKill h)) (.beginKill h))) (.beginKill h)

theorem Keeps.orderKill (h : Keeps s t) {t0 : Nat} {to_ : KillTo} {force : Bool} : Keeps s (t.orderKill t0 to_ force) := by
  unfold State.orderKill
  split
  · exact h
  · extract_lets s1
    have hs1 : Keeps s s1 := .homeSees h
    split
    · exact .tellRank hs1
    · split
      · exact .updTbl hs1
      · exact .updTbl hs1
      · exact .killBegins hs1

theorem Keeps.stopQueued (h : Keeps s t) {h0 : Nat} {code : Code} : Keeps s (t.stopQueued h0 code) :=
  .updJob h fun _ => by rfl

theorem Keeps.jobStopped (h : Keeps s t) {h0 : Nat} {cause : Code} : Keeps s (t.jobStopped h0 cause) := by
  unfold State.jobStopped
  extract_lets s1
  have hs1 : Keeps s s1 := .flushDone (.stopQueued h)
  split
  · exact .jobStatus hs1
  · exact hs1

theorem Keeps.releaseKill (h : Keeps s t) {t0 : Nat} {k : KillTo} : Keeps s (t.releaseKill t0 k) := by
  unfold State.releaseKill
  extract_lets s1 s2 s3 s4
  have hs1 : Keeps s s1 := .setTstate (.nextEcmd (.leaveNothing (.closingDeal h)))
  have hs2 : Keeps s s2 := .updTbl hs1
  have hs3 : Keeps s s3 := by
    dsimp only [s3]
    split
    · exact .setBoth (.endCmd hs2)
    · exact .endCmd hs2
    · exact .endCmd hs2
    · exact .endCmd hs2
  have hs4 : Keeps s s4 := .ite (.setPhase hs3) hs3
  split
  · split
    · exact .jobStopped hs4
    · exact .flushTable hs4
  · exact hs4

theorem Keeps.advanceSeats (h : Keeps s t) {t0 : Nat} {j : Job} : Keeps s (t.advanceSeats t0 j) := by
  unfold State.advanceSeats
  refine .foldl h fun _ _ h1 => ?_
  split
  · exact .same h1 (by dsimp only [State.kept])
  · exact h1

theorem Keeps.armStep (h : Keeps s t) {t0 num : Nat} : Keeps s (t.armStep t0 num) := by
  unfold State.armStep
  split
  · exact .skipStep h
  · extract_lets s1 n s2 s3
    have hs1 : Keeps s s1 := .setBoth (.setBoth h)
    have hs2 : Keeps s s2 := .setBoth (.setBoth hs1)
    have hs3 : Keeps s s3 := .updTbl hs2
    split
    · exact .updJob hs3 fun _ => by rfl
    · exact hs3

theorem Keeps.commitInstant (h : Keeps s t) {t0 : Nat} {stepEnd : Bool} : Keeps s (t.commitInstant t0 stepEnd) := by
  unfold State.commitInstant
  extract_lets s1 s2 num s3 s4
  have hs1 : Keeps s s1 := .setRunning (.setBoth (.setBoth h))
  have hs2 : Keeps s s2 := .homeSees (.publishTable hs1)
  have hs3 : Keeps s s3 := by
    dsimp only [s3]
    split
    · exact .updJob (.advanceSeats hs2) fun _ => by rfl
    · exact hs2
  have hs4 : Keeps s s4 := .ite (.ite (.skipStep hs3) (.armStep hs3)) hs3
  exact .updTbl (.endCmd hs4)

theorem Keeps.commitLocal (h : Keeps s t) {t0 : Nat} {stepEnd : Bool} : Keeps s (t.commitLocal t0 stepEnd) := by
  unfold State.commitLocal
  extract_lets s1 s2
  have hs1 : Keeps s s1 := .closingDeal h
  have hs2 : Keeps s s2 := .setRes (.setTstate (.contextClear (.commitInstant hs1)))
  exact .ite (.failNow hs1) (.ite (.setPhase hs2) (.flushTable hs2))

theorem Keeps.tryDone (h : Keeps s t) {t0 : Nat} : Keeps s (t.tryDone t0) :=
  .ite (.setPhase (.ite (.flushTable h) (.tellRank h))) h

theorem Keeps.decideCommit (h : Keeps s t) {t0 : Nat} {stepEnd : Bool} : Keeps s (t.decideCommit t0 stepEnd) :=
  .tryDone (.commitLocal (.tellRanks h))

theorem Keeps.tryReady (h : Keeps s t) {t0 : Nat} : Keeps s (t.tryReady t0) := by
  unfold State.tryReady
  split
  · exact h
  · exact .ite (.orderKill h) (.ite (.ite (.decideCommit (.homeSees h)) (.ite (.updTbl (.setPhase (.tellRank h))) h)) h)

theorem Keeps.stopJob (h : Keeps s t) {h0 : Nat} {cause : Code} {notify : Bool} : Keeps s (t.stopJob h0 cause notify) := by
  unfold State.stopJob
  split
  · exact h
  · split
    · exact h
    · extract_lets t' s1 s2 s3
      have hs1 : Keeps s s1 := .updJob h fun _ => by rfl
      have hs2 : Keeps s s2 := .abandonStep (.setReg hs1)
      have hs3 : Keeps s s3 := .ite (.foldl hs2 fun _ _ h1 => .same h1 (by dsimp only [State.kept])) hs2
      exact .ite (.orderKill hs3) (.jobStopped hs3)

theorem Keeps.ueTable (h : Keeps s t) {t0 : Nat} : Keeps s (t.ueTable t0) := by
  unfold State.ueTable
  split
  · exact .stopJob h
  · exact .orderKill h

/-! ### The functions of Sys2Proof/Machine/MeldCore.lean -/

theorem Keeps.setMeld (h : Keeps s t) {die : Nat} {m : Meld} : Keeps s (t.setMeld die m) :=
  .same h rfl

theorem Keeps.setMeldState (h : Keeps s t) {die v : Nat} : Keeps s (t.setMeldState die v) :=
  .setReg h

theorem Keeps.meldFail (h : Keeps s t) {die : Nat} {code : Code} {entry : Nat} : Keeps s (t.meldFail die code entry) :=
  .setReg (.setReg h)

theorem Keeps.noteMeld (h : Keeps s t) {die : Nat} : Keeps s (t.noteMeld die) :=
  .ite (.setReg h) h

theorem Keeps.noteMelds (h : Keeps s t) : Keeps s t.noteMelds :=
  .noteMeld (.noteMeld h)

/-! ### The functions of Sys2Proof/Machine/JobCore.lean -/

theorem Keeps.startGrant (h : Keeps s t) {j : Job} {nw : Nat} : Keeps s (t.startGrant j nw) :=
  .ite h (.updJob (.setReg h) fun _ => by rfl)

theorem Keeps.fenceAcross (h : Keeps s t) {x bits : Nat} : Keeps s (t.fenceAcross x bits) := by
  unfold State.fenceAcross
  refine .foldl h fun _ _ h1 => ?_
  split
  · exact .ite (.setReg h1) h1
  · exact h1

theorem Keeps.placeIsl {n nw rows cols i j : Nat} (hn : Small s n) (h : Keeps s t) : Keeps s (t.placeIsl n nw rows cols i j) :=
  .fenceIsl (.fenceAcross (.setReg (.setReg (.setIsl h hn))))

theorem Keeps.placeAt {j : Job} {nw : Nat} (hj : Small s j.table) (h : Keeps s t) : Keeps s (t.placeAt j nw) :=
  .noteMelds (.dealerSees (.startGrant (.setBoth (.updJob (.foldl h fun _ _ h1 => .foldl h1 fun _ _ h2 => .placeIsl hj h2) fun _ => by rfl))))

theorem Keeps.vacate (h : Keeps s t) {n : Nat} : Keeps s (t.vacate n) :=
  .noteMelds (.foldl (.contextClear h) fun _ _ h1 =>
    .setReg (.setIsl (.fenceIsl (.fenceAcross (.setReg h1))) fun _ _ => Nat.zero_lt_succ _))

theorem Keeps.parkJob (h : Keeps s t) {j : Job} : Keeps s (t.parkJob j) :=
  .updJob (.vacate h) fun _ => by rfl

theorem Keeps.dropSession (h : Keeps s t) {n : Nat} : Keeps s (t.dropSession n) := by
  unfold State.dropSession
  extract_lets s1
  have hs1 : Keeps s s1 := .setReg (.setReg h)
  exact .same hs1 (by dsimp only [State.kept])

theorem Keeps.closeDone (h : Keeps s t) {n : Nat} : Keeps s (t.closeDone n) := by
  unfold State.closeDone
  split
  · exact h
  · split
    · exact h
    · exact .ite h (.dropSession (.result h))

theorem Keeps.cancelQueued (h : Keeps s t) {h0 : Nat} : Keeps s (t.cancelQueued h0) :=
  .stopQueued h

theorem Keeps.filterJobs (h : Keeps s t) {p : Job → Bool} : Keeps s (t.withJobs (t.jobs.filter p)) :=
  h.withJobs fun _ hm => h.small_mem (List.mem_of_mem_filter hm)

theorem Keeps.finishJob (h : Keeps s t) {n : Nat} : Keeps s (t.finishJob n) := by
  unfold State.finishJob
  split
  · exact h
  · extract_lets s1 s2 s3 s4 s5
    have hs3 : Keeps s s3 :=
      .setTbl (.setRes (.setTstate (.setBoth (.setBoth (.sendersGone (.vacate (.abandonStep (.flushDone (.cancelQueued h)))))))))
    clear_value s3
    have hs4 : Keeps s s4 := .same hs3.filterJobs rfl
    have hs5 : Keeps s s5 := by
      dsimp only [s5]
      split
      · exact .result hs4
      · exact hs4
    split
    · exact .closeDone hs5
    · exact hs5

theorem Keeps.endJob (h : Keeps s t) {h0 : Nat} : Keeps s (t.endJob h0) := by
  unfold State.endJob
  split
  · exact h
  · extract_lets s1
    have hs1 : Keeps s s1 := .cancelQueued (.updJob h fun _ => by rfl)
    exact .ite (.orderKill hs1) (.finishJob hs1)

theorem Keeps.settleJob (h : Keeps s t) {t0 : Nat} : Keeps s (t.settleJob t0) := by
  unfold State.settleJob
  split
  · exact h
  · exact .ite h (.ite (.finishJob h) (.ite (.parkJob h) h))

theorem Keeps.evict (h : Keeps s t) {j : Job} : Keeps s (t.evict j) := by
  unfold State.evict
  extract_lets s1
  have hs1 : Keeps s s1 := .updJob h fun _ => by rfl
  split
  · exact .orderKill hs1
  · split
    · exact .parkJob hs1
    · exact hs1

theorem Keeps.evictRect (h : Keeps s t) {nw rows cols : Nat} : Keeps s (t.evictRect nw rows cols) :=
  .foldl h fun _ _ h1 => .evict h1

theorem Keeps.placeJob {j : Job} {nw : Nat} (hj : Small s j.table) (h : Keeps s t) : Keeps s (t.placeJob j nw) := by
  unfold State.placeJob
  split
  · exact .result (.updJob (.placeAt hj h) fun _ => by rfl)
  · exact .placeAt hj h

theorem Keeps.tableRegs (h : Keeps s t) {j : Job} : Keeps s (t.tableRegs j) := by
  unfold State.tableRegs
  extract_lets t' ctl s1 s2 m0 m1
  have hs1 : Keeps s s1 := .setReg (.setReg h)
  have hs2 : Keeps s s2 := .setTbl (.setRes (.setTstate (.setTepoch hs1)))
  exact .ite hs2 (.setReg (.setReg (.setReg (.setReg hs2))))

theorem Keeps.writeMaps (h : Keeps s t) {t0 : Nat} {m : TblMaps} : Keeps s (t.writeMaps t0 m) := by
  unfold State.writeMaps
  extract_lets put s1
  have hs1 : Keeps s s1 := .setReg (.setReg (.setReg (.setReg (.setReg (.setReg h)))))
  exact .foldl hs1 fun _ _ h1 => .mergeN h1

theorem Keeps.enrol {j : Job} {window : Nat} {maps : TblMaps} (hj : Small s j.table) (h : Keeps s t) : Keeps s (t.enrol j window maps) :=
  .writeMaps (.tableRegs (.same (h.withJobs fun i hi => by
    rcases List.mem_append.mp hi with hi | hi
    · exact h.small_mem hi
    · rw [List.mem_singleton.mp hi]; exact hj) (by dsimp only [State.kept, State.withJobs])))

theorem Keeps.admitPlace {n : Nat} {seq : BitVec 32} {j : Job} {choice : Nat} (hj : Small s j.table) (h : Keeps s t) :
    Keeps s (t.admitPlace n seq j choice) := by
  unfold State.admitPlace
  split
  · exact .result (.placeAt hj h)
  · split
    · exact .result h
    · split
      · exact h
      · extract_lets j' s1
        have hs1 : Keeps s s1 := .evictRect (.putJob h (by exact hj))
        exact .ite (.placeJob hj hs1) hs1

theorem State.freeTable_lt (s : State) : s.freeTable.getD 0 < 256 := by
  cases e : s.freeTable with
  | none => exact Nat.zero_lt_succ _
  | some n => exact List.mem_range.mp (List.mem_of_find?_eq_some e)

theorem Keeps.admitJob (h : Keeps s t) {n : Nat} {seq : BitVec 32} {r : AdmitReq} {choice : Nat} {maps : TblMaps} :
    Keeps s (t.admitJob n seq r choice maps) := by
  unfold State.admitJob
  split
  · exact .result h
  · split
    · exact .result h
    · have hj (u : State) : Small s (u.freeTable.getD 0) := fun _ _ => u.freeTable_lt
      exact .admitPlace (hj _) (.enrol (hj _) (.fresh h))

/-! ### The functions of Sys2Proof/Machine/Mailbox.lean -/

theorem Keeps.mbxPut (h : Keeps s t) {die m : Nat} {owner : Bool} {value : Word} : Keeps s (t.mbxPut die m owner value) := by
  unfold State.mbxPut
  extract_lets ctl s1
  have hs1 : Keeps s s1 := .setReg (.setReg h)
  exact .ite (.setReg h) (.ite (.setReg h) (.raise (.same hs1 (by dsimp only [State.kept]))))

theorem execMbxDataWrite_keeps (h : Keeps s t) {die : BitVec 1} {m : Nat} {writer : MbxWriter} {value : Word} : Res.Keeps s (execMbxDataWrite die m writer value t) :=
  .ite (.next (.mbxPut h)) (.next h)

theorem Keeps.mbxNotify (h : Keeps s t) {die m : Nat} : Keeps s (t.mbxNotify die m) :=
  .ite (.sendDev h) (.ite h (.same h (by dsimp only [State.kept])))

theorem execMbxTake_keeps (h : Keeps s t) {die : BitVec 1} {m : Nat} : Res.Keeps s (execMbxTake die m t) :=
  .ite (.next (.mbxNotify (.dealerSees (.setReg h)))) (.next h)

theorem execMbxRing_keeps (h : Keeps s t) {die : BitVec 1} {bits : Word} : Res.Keeps s (execMbxRing die bits t) :=
  .next (.foldl (.setReg h) fun _ _ h1 => .ite (.raise h1) h1)

theorem execMbxBellClear_keeps (h : Keeps s t) {die : BitVec 1} {bits : Word} : Res.Keeps s (execMbxBellClear die bits t) :=
  .next (.setReg h)

/-! ### The functions of Sys2Proof/Machine/SecCore.lean -/

theorem Keeps.updSec (h : Keeps s t) {f : Sec → Sec} : Keeps s (t.updSec f) :=
  .same h rfl

theorem Keeps.tuDrop (h : Keeps s t) {p : BitVec 1} : Keeps s (t.tuDrop p) :=
  .setReg h

theorem Keeps.setFullBits (h : Keeps s t) : Keeps s t.setFullBits :=
  .setReg h

theorem burnNext_keeps (v : BitVec 64) : v &&& burnNext v = v := by
  unfold burnNext
  ext i
  simp only [BitVec.getElem_and, BitVec.getElem_or]
  cases v[i] <;> simp

theorem burnN_keeps (n : Nat) (v : BitVec 64) : v &&& burnN n v = v := by
  induction n generalizing v with
  | zero => exact BitVec.and_self
  | succ n ih => exact and_mono_trans (burnNext_keeps v) (ih _)

/-- A state with other fuses. -/
def State.withFuses (s : State) (f : Fuses) : State := { s with fuses := f }

theorem Keeps.withFuses {f : Fuses} (hf : t.fuses.Grows f) (h : Keeps s t) : Keeps s (t.withFuses f) :=
  h.trans ⟨rfl, hf, id, fun _ => id⟩

theorem Fuses.grows_epoch (f : Fuses) : f.Grows { f with epoch := burnNext f.epoch } :=
  ⟨BitVec.and_self, burnNext_keeps _, BitVec.and_self, rfl⟩

theorem Fuses.grows_afterLoad (f : Fuses) (svn : Nat) (burn : Bool) (revoke : BitVec 4) : f.Grows (f.afterLoad svn burn revoke) := by
  refine ⟨?_, BitVec.and_self, ?_, rfl⟩
  · unfold Fuses.afterLoad
    dsimp only
    split
    · exact burnN_keeps _ _
    · exact BitVec.and_self
  · show f.keyrev &&& (f.keyrev ||| revoke) = f.keyrev
    ext i
    simp only [BitVec.getElem_and, BitVec.getElem_or]
    cases f.keyrev[i] <;> simp

theorem Keeps.storeLost (h : Keeps s t) : Keeps s t.storeLost :=
  have h1 := h.updSec.setReg
  .setReg (.ite h1.setReg (.withFuses (Fuses.grows_epoch _) h1))

theorem Keeps.checkStore (h : Keeps s t) : Keeps s t.checkStore := by
  unfold State.checkStore
  extract_lets s1
  have hs1 : Keeps s s1 := .ite (.setReg h) (.storeLost h)
  exact .setFullBits (.ite hs1 (.updSec hs1))

theorem Keeps.takeLeaf {q : Nat} (h : Keeps s t) (e : t.takeLeaf = some (q, u)) : Keeps s u := by
  unfold State.takeLeaf at e
  dsimp only at e
  split at e
  · cases e
  · split at e
    · cases e
      exact .setReg h
    · split at e
      · cases e
        exact .withFuses (Fuses.grows_epoch _) (.setReg h)
      · cases e
        exact .setReg (.setReg h)

theorem Keeps.attestReport {nonce : BitVec 256} {bs : List Byte} (h : Keeps s t) (e : t.attestReport nonce = some (bs, u)) : Keeps s u := by
  unfold State.attestReport at e
  split at e
  · cases e
  · rename_i e1
    cases e
    exact h.takeLeaf e1

theorem Keeps.putKey (h : Keeps s t) {slot : Nat} {erase : Bool} {iv : BitVec 96} {wrapped : BitVec 256} {tag : BitVec 128} : Keeps s (t.putKey slot erase iv wrapped tag).1 := by
  unfold State.putKey
  split
  · exact h
  · split
    · exact h
    · split
      · exact .setFullBits (.updSec h)
      · split
        · exact h
        · exact .setFullBits (.updSec h)

/-! ### The functions of Sys2Proof/Machine/HostUnit.lean -/

theorem Keeps.ackCmd (h : Keeps s t) {payload : List Byte} : Keeps s (t.ackCmd payload) :=
  .updJob h fun _ => by rfl

theorem Keeps.hostAck (h : Keeps s t) {n : Nat} {ack : BitVec 32} : Keeps s (t.hostAck n ack) := by
  unfold State.hostAck
  split
  · exact h
  · exact .drainWait (.updSess (.foldl h fun _ _ h1 => .ackCmd h1))

theorem Keeps.detachJobs {n : Nat} (h : Keeps s t) : Keeps s (t.detachJobs n) :=
  .mapJobs h fun j hj => by split <;> exact hj

theorem Keeps.loseSession (h : Keeps s t) {n : Nat} : Keeps s (t.loseSession n) :=
  .dropSession (.detachJobs h)

theorem Keeps.closeSession (h : Keeps s t) {n : Nat} {seq : BitVec 32} {detach : Bool} : Keeps s (t.closeSession n seq detach) :=
  .ite (.dropSession (.result (.detachJobs h))) (.closeDone (.foldl (.updSess h) fun _ _ h1 => .endJob h1))

theorem Keeps.netConfig (h : Keeps s t) {n : Nat} {seq : BitVec 32} {port kind index plen : BitVec 8} {addr : BitVec 128} {remove : Bool} : Keeps s (t.netConfig n seq port kind index plen addr remove) :=
  .ite (.result h) (.ite (.result h) (.result (.same h (by dsimp only [State.kept]))))

theorem Keeps.windowGrant (h : Keeps s t) {n : Nat} {seq : BitVec 32} {job va len : Nat} {rd wr : Bool} {wmode : BitVec 8} : Keeps s (t.windowGrant n seq job va len rd wr wmode) := by
  unfold State.windowGrant
  extract_lets bad staging
  split
  · exact .result h
  · split
    · exact .result h
    · split
      · rename_i _ u1 e2
        have h1 : Keeps s _ := .of_snd e2 (.fresh h)
        split
        · rename_i _ u1 e4
          have h3 : Keeps s _ := .of_snd e4 (.fresh h1)
          exact .result (.same h3 (by dsimp only [State.kept]))

theorem Keeps.windowRevoke (h : Keeps s t) {n : Nat} {seq : BitVec 32} {window : Nat} : Keeps s (t.windowRevoke n seq window) :=
  .ite (.result (.same h (by dsimp only [State.kept]))) (.result h)

theorem Keeps.qpCreate (h : Keeps s t) {n : Nat} {seq hqpn hpsn : BitVec 32} {gid : BitVec 128} {pmtu : BitVec 8} : Keeps s (t.qpCreate n seq hqpn hpsn gid pmtu) := by
  unfold State.qpCreate
  split
  · exact h
  · split
    · exact .result h
    · split
      · rename_i _ u1 e2
        have h1 : Keeps s _ := .of_snd e2 (.fresh h)
        exact .result (.same h1 (by dsimp only [State.kept]))

theorem Keeps.qpDestroy (h : Keeps s t) {n : Nat} {seq qpn : BitVec 32} : Keeps s (t.qpDestroy n seq qpn) :=
  .ite (.result (.same h (by dsimp only [State.kept]))) (.result h)

theorem Keeps.hostMbx (h : Keeps s t) {n : Nat} {seq : BitVec 32} {die : BitVec 8} {value : Word} : Keeps s (t.hostMbx n seq die value) :=
  .ite (.result h) (.result (.mbxPut h))

theorem Keeps.hostJobEnd (h : Keeps s t) {n : Nat} {seq : BitVec 32} {h0 : Nat} : Keeps s (t.hostJobEnd n seq h0) := by
  unfold State.hostJobEnd
  split
  · exact .result h
  · exact .ite (.result h) (.endJob (.updJob h fun _ => by rfl))

theorem Keeps.revive (h : Keeps s t) {n : Nat} : Keeps s (t.revive n) := by
  unfold State.revive
  split
  · exact h
  · rename_i j e
    have hj := h.small_job e
    exact .ite h (.jobStatus (.writeMaps (.tableRegs (.putJob h (by exact hj)))))

theorem Keeps.hostAttach (h : Keeps s t) {n : Nat} {seq : BitVec 32} {h0 : Nat} {key : Word} : Keeps s (t.hostAttach n seq h0 key) := by
  unfold State.hostAttach
  split
  · exact .result h
  · exact .flushDone (.revive (.result (.updJob (.ite (.jobStatus h) h) fun _ => by rfl)))

theorem Keeps.small_ownJob (h : Keeps s t) {n k : Nat} {j : Job} (e : t.ownJob n k = some j) : Small s j.table :=
  h.small_job (Option.filter_eq_some_iff.mp e).1

theorem Keeps.cmdSubmit (h : Keeps s t) {n : Nat} {seq : BitVec 32} {r : CmdReq} : Keeps s (t.cmdSubmit n seq r) := by
  unfold State.cmdSubmit
  split
  · exact .result h
  · split
    · exact .result h
    · rename_i j e
      have hj : Small s ((mapSeqs r.seqs j).getD j).table := by rw [getD_mapSeqs_table]; exact h.small_ownJob e
      exact .ite (.result h) (.ite (.result h) (.ite (.result h) (.ite (.result h) (.result (.putJob h (by exact hj))))))

theorem Keeps.cmdCancel (h : Keeps s t) {n : Nat} {seq : BitVec 32} {h0 : Nat} {tag : Word} : Keeps s (t.cmdCancel n seq h0 tag) := by
  unfold State.cmdCancel
  split
  · exact .result h
  · split
    · exact .ite (.orderKill (.result h)) (.flushDone (.result (.updJob h fun _ => by rfl)))
    · exact .result h

theorem Keeps.hostAttest (h : Keeps s t) {n : Nat} {seq : BitVec 32} {nonce : BitVec 256} : Keeps s (t.hostAttest n seq nonce) := by
  unfold State.hostAttest
  split
  · exact .result h
  · rename_i _ u1 e2
    have h1 : Keeps s _ := .attestReport h e2
    exact .result h1

theorem Keeps.hostKeystore (h : Keeps s t) {n : Nat} {seq : BitVec 32} {slot : Nat} {erase : Bool} {iv : BitVec 96} {wrapped : BitVec 256} {tag : BitVec 128} : Keeps s (t.hostKeystore n seq slot erase iv wrapped tag) := by
  unfold State.hostKeystore
  extract_lets mgmt
  split
  · exact .result h
  · split
    · rename_i u0 _ e2
      have h1 : Keeps s _ := .of_fst e2 (.putKey h)
      exact .result h1

theorem Keeps.handle (h : Keeps s t) {n : Nat} {seq : BitVec 32} {x : HReq} : Keeps s (t.handle n seq x) := by
  unfold State.handle
  split
  · exact .closeSession h
  · exact .result h
  · exact .netConfig h
  · exact .hostMbx h
  · exact .windowGrant h
  · exact .windowRevoke h
  · exact .qpCreate h
  · exact .qpDestroy h
  · exact .admitJob h
  · exact .hostJobEnd h
  · exact .hostAttach h
  · exact .cmdSubmit h
  · exact .cmdCancel h
  · exact .result h
  · exact .hostAttest h
  · exact .hostKeystore h
  · exact .result h
  · exact .result h
  · exact .result h

theorem Keeps.handOn {fuel n : Nat} {seq : BitVec 32} {r : HReq} (h : Keeps s t) : Keeps s (State.handOn fuel t n seq r) := by
  induction fuel generalizing t seq r with
  | zero => exact h
  | succ fuel ih =>
    have h1 := (h.updSess (f := fun y => { y with expect := seq + 1, ackDue := true }) (n := n)).handle (n := n) (seq := seq) (x := r)
    rw [State.handOn]
    split
    · exact h1
    · split
      · exact h1
      · split
        · exact h1
        · exact ih h1.updSess

theorem Keeps.hostAgain (h : Keeps s t) {n : Nat} {seq : BitVec 32} : Keeps s (t.hostAgain n seq) := by
  unfold State.hostAgain
  split
  · exact h
  · split
    · exact .same h (by dsimp only [State.kept])
    · exact .sendAck h

theorem Keeps.hostMsg (h : Keeps s t) {h0 : Hdr} {r : HReq} : Keeps s (t.hostMsg h0 r) := by
  unfold State.hostMsg
  split
  · exact h
  · split
    · exact .tuDrop h
    · extract_lets n s1 d
      have hs1 : Keeps s s1 := .hostAck (.updSess h)
      exact .ite hs1 (.ite (.handOn hs1) (.ite (.updSess hs1) (.ite (.hostAgain hs1) hs1)))

/-! ### The functions of Sys2Proof/Machine/Boot.lean -/

theorem Keeps.setLoad (h : Keeps s t) {f : Load → Load} : Keeps s (t.setLoad f) :=
  .updSec h

theorem Keeps.loadResult (h : Keeps s t) {l : Load} {seq : BitVec 32} {status : Code} : Keeps s (t.loadResult l seq status) :=
  .resultOut (.setLoad h)

theorem Keeps.portsOff (h : Keeps s t) : Keeps s t.portsOff :=
  .foldl h fun _ _ h1 => .setReg (.setReg h1)

theorem Keeps.loadFail (h : Keeps s t) {code : Code} {detail : Nat} : Keeps s (t.loadFail code detail) := by
  unfold State.loadFail
  extract_lets s1 s2
  have hs1 : Keeps s s1 := .setReg (.setReg (.setReg (.setReg h)))
  have hs2 : Keeps s s2 := by
    dsimp only [s2]
    split
    · exact hs1
    · split
      · exact .wrN (.resultOut hs1)
      · exact .wrN hs1
  exact .portsOff (.updSec hs2)

theorem Keeps.loadCommit {l : Load} {pt : List Byte} (h : Keeps s t) : Keeps s (t.loadCommit l pt) := by
  have h2 := (h.setReg (a := R.secLoad) (v := putField 2 0 3 (t.reg R.secLoad))).setReg
    (a := R.secLoad) (v := putField 63 32 t.loadMs ((t.setFld R.secLoad 2 0 3).reg R.secLoad))
  unfold State.loadCommit
  extract_lets cs s1 s2 s3
  have hs3 : Keeps s s3 := .updSec (.withFuses (Fuses.grows_afterLoad _ _ _ _) (.setReg (.setReg h)))
  split
  · exact .resultOut hs3
  · exact hs3

theorem Keeps.bringUp (h : Keeps s t) {p : Nat} : Keeps s (t.bringUp p) :=
  .setReg (.setReg h)

theorem execKindlingEntry_keeps (h : Keeps s t) : Res.Keeps s (execKindlingEntry t) := by
  unfold execKindlingEntry
  split
  · exact .next h
  · extract_lets s1 s2
    have hs1 : Keeps s s1 := .updSec h
    have hs2 : Keeps s s2 := .setReg hs1
    exact .ite (.next hs1) (.ite (.next (.loadFail hs2)) (.next (.bringUp (.bringUp (.checkStore hs2)))))

theorem execAnnounce_keeps (h : Keeps s t) {port : BitVec 1} : Res.Keeps s (execAnnounce port t) :=
  .ite (.next (.same h (by dsimp only [State.kept]))) (.next h)

theorem Keeps.answerOut (h : Keeps s t) {h0 : Hdr} {code : Code} {fields : List Byte} : Keeps s (t.answerOut h0 code fields) :=
  .resultOut h

theorem Keeps.acceptOffer (h : Keeps s t) {h0 : Hdr} {nonce : Word} {length deadline : Nat} : Keeps s (t.acceptOffer h0 nonce length deadline) := by
  unfold State.acceptOffer
  split
  · rename_i _ u1 e2
    have h1 : Keeps s _ := .of_snd e2 (.fresh h)
    exact .resultOut (.setReg (.setReg (.updSec h1)))

theorem execLoadOffer_keeps (h : Keeps s t) {h0 : Hdr} {nonce : Word} {length deadline : Nat} : Res.Keeps s (execLoadOffer h0 nonce length deadline t) := by
  unfold execLoadOffer
  split
  · exact .next h
  · split
    · exact .next (.ite (.answerOut h) (.hostMsg h))
    · split
      · exact .next h
      · split
        · exact .next (.tuDrop h)
        · split
          · exact .ite (.next (.answerOut h)) (.ite (.next (.resultOut h)) (.next (.answerOut h)))
          · exact .ite (.next (.answerOut h)) (.next (.acceptOffer h))

theorem Keeps.loadChunk (h : Keeps s t) {l : Load} {seq : BitVec 32} {offset : Nat} {data : List Byte} : Keeps s (t.loadChunk l seq offset data) :=
  .ite (.loadResult (.setLoad (.wrN h))) (.loadResult h)

theorem Keeps.loadFinish (h : Keeps s t) {l : Load} {seq : BitVec 32} : Keeps s (t.loadFinish l seq) :=
  .ite (.loadResult h) (.setReg (.setLoad h))

theorem Keeps.loadOn {fuel : Nat} {seq : BitVec 32} {m : Option (Nat × List Byte)} (h : Keeps s t) :
    Keeps s (State.loadOn fuel t seq m) := by
  induction fuel generalizing t seq m with
  | zero => exact h
  | succ fuel ih =>
    rw [State.loadOn]
    split
    · exact h
    · extract_lets s0 s1
      have hs0 : Keeps s s0 := .setLoad h
      have hs1 : Keeps s s1 := by
        dsimp only [s1]
        split
        · exact .loadChunk hs0
        · exact .loadFinish hs0
      split
      · exact ih hs1.setLoad
      · exact hs1

theorem Keeps.loadMsg (h : Keeps s t) {h0 : Hdr} {m : Option (Nat × List Byte)} : Keeps s (t.loadMsg h0 m) := by
  unfold State.loadMsg
  split
  · exact h
  · split
    · exact .ite (.answerOut h) (.hostMsg h)
    · split
      · exact h
      · split
        · exact .ite (.answerOut h) (.tuDrop h)
        · split
          · exact .tuDrop h
          · extract_lets d
            split
            · exact .loadOn h
            · split
              · exact .setLoad h
              · split
                · split
                  · exact .resultOut h
                  · exact h
                · exact h

theorem execLoadData_keeps (h : Keeps s t) {h0 : Hdr} {offset : Nat} {data : List Byte} : Res.Keeps s (execLoadData h0 offset data t) :=
  .next (.loadMsg h)

theorem execLoadEnd_keeps (h : Keeps s t) {h0 : Hdr} : Res.Keeps s (execLoadEnd h0 t) :=
  .next (.loadMsg h)

theorem execLoadChecksDone_keeps (h : Keeps s t) : Res.Keeps s (execLoadChecksDone t) := by
  unfold execLoadChecksDone
  split
  · exact .next h
  · split
    · exact .next h
    · split
      · exact .next (.loadFail h)
      · split
        · exact .next (.loadFail h)
        · exact .next (.loadCommit h)

theorem execLoadDeadline_keeps (h : Keeps s t) : Res.Keeps s (execLoadDeadline t) := by
  unfold execLoadDeadline
  split
  · exact .next h
  · exact .ite (.next (.loadFail (.until h))) (.next h)

theorem execIdentity_keeps (h : Keeps s t) {h0 : Hdr} : Res.Keeps s (execIdentity h0 t) :=
  .ite (.next h) (.ite (.next (.hostMsg h)) (.ite (.next (.tuDrop h)) (.next (.answerOut h))))

theorem Keeps.attestOut (h : Keeps s t) {h0 : Hdr} {nonce : BitVec 256} : Keeps s (t.attestOut h0 nonce) := by
  unfold State.attestOut
  split
  · exact .answerOut h
  · rename_i _ u1 e2
    have h1 : Keeps s _ := .attestReport h e2
    exact .resultOut (.updSec h1)

theorem execAttest_keeps (h : Keeps s t) {h0 : Hdr} {nonce : BitVec 256} : Res.Keeps s (execAttest h0 nonce t) := by
  unfold execAttest
  split
  · exact .next h
  · split
    · exact .next (.hostMsg h)
    · split
      · exact .next (.tuDrop h)
      · split
        · exact .ite (.next (.resultOut h)) (.next (.attestOut h))
        · exact .next (.attestOut h)

theorem execVbatLoss_keeps (h : Keeps s t) : Res.Keeps s (execVbatLoss t) :=
  .ite (.next (.setFullBits (.setReg (.updSec h)))) (.next h)

/-! ### The functions of Sys2Proof/Machine/CollCore.lean -/

theorem Keeps.updColl (h : Keeps s t) {t0 seq : Nat} {f : Coll → Coll} : Keeps s (t.updColl t0 seq f) :=
  .same h rfl

theorem Keeps.gulUnit (h : Keeps s t) {t0 : Nat} {p : GPkt} : Keeps s (t.gulUnit t0 p) := by
  unfold State.gulUnit
  split
  · exact h
  · exact .ite (.gulFail h) (.updColl h)

/-! ### The functions of Sys2Proof/Machine/Commands.lean -/

theorem execCommandStart_keeps (h : Keeps s t) {r : StartReq} : Res.Keeps s (execCommandStart r t) :=
  .ite (.next (.startCmd h)) (.next h)

theorem execTblReqCommit_keeps (h : Keeps s t) {t0 : Nat} {r : CommitReq} : Res.Keeps s (execTblReqCommit t0 r t) := by
  unfold execTblReqCommit
  split
  · exact .next h
  · split
    · exact .next (.setRes h)
    · split
      · exact .next (.orderKill h)
      · split
        · exact .next (.ueTable h)
        · split
          · exact .next (.orderKill h)
          · exact .next (.updTbl (.setRes h))

theorem execCommitLocalStep_keeps (h : Keeps s t) {t0 : Nat} : Res.Keeps s (execCommitLocalStep t0 t) := by
  unfold execCommitLocalStep
  split
  · exact .next h
  · split
    · exact .next h
    · split
      · exact .next (.settleJob (.ueTable h))
      · split
        · exact .next (.orderKill h)
        · extract_lets s1
          have hs1 : Keeps s s1 := .setTstate (.homeSees h)
          exact .ite (.next (.tryReady (.ite (.tellRanks hs1) hs1))) (.next (.settleJob (.commitLocal hs1)))

theorem Keeps.endRequest (h : Keeps s t) {t0 : Nat} {to_ : KillTo} : Keeps s (t.endRequest t0 to_) :=
  .ite (.orderKill (.setRes h)) (.homeSees (.setRes h))

theorem execTblReqKill_keeps (h : Keeps s t) {r : KillReq} : Res.Keeps s (execTblReqKill r t) :=
  .ite (.next h) (.next (.endRequest h))

theorem execTblReqCancel_keeps (h : Keeps s t) {t0 : Nat} : Res.Keeps s (execTblReqCancel t0 t) :=
  .ite (.next h) (.next (.endRequest h))

theorem execKillRelease_keeps (h : Keeps s t) {t0 : Nat} : Res.Keeps s (execKillRelease t0 t) := by
  unfold execKillRelease
  split
  · exact .next h
  · exact .ite (.next (.settleJob (.releaseKill h))) (.next h)

theorem execCmdLimitExpiry_keeps (h : Keeps s t) {t0 : Nat} : Res.Keeps s (execCmdLimitExpiry t0 t) := by
  unfold execCmdLimitExpiry
  split
  · exact .next h
  · exact .ite (.next h) (.next (.orderKill (.until h)))

theorem execIslWdogExpiry_keeps (h : Keeps s t) {isl : Nat} : Res.Keeps s (execIslWdogExpiry isl t) :=
  .ite (.next (.orderKill (.until h))) (.next h)

theorem Keeps.rotate {n : Nat} (h : Keeps s t) : Keeps s (t.rotate n) :=
  h.withJobs fun j hm => h.small_mem (by
    rcases List.mem_append.mp hm with hm | hm <;> exact List.mem_of_mem_filter hm)

theorem Keeps.takeGrant (h : Keeps s t) {n : Nat} {j : Job} : Keeps s (t.takeGrant n j) :=
  .ite (.orderKill (.rotate (.updJob h fun _ => by rfl))) (.rotate (.parkJob h))

theorem Keeps.grantOver (h : Keeps s t) {t0 : Nat} : Keeps s (t.grantOver t0) := by
  unfold State.grantOver
  split
  · exact h
  · split
    · exact h
    · split
      · exact h
      · split
        · exact .noteMelds (.startGrant (.updJob h fun _ => by rfl))
        · exact .takeGrant (.updJob h fun _ => by rfl)

theorem execGrantEnd_keeps (h : Keeps s t) {t0 : Nat} : Res.Keeps s (execGrantEnd t0 t) := by
  unfold execGrantEnd
  split
  · exact .next h
  · extract_lets r s1
    have hs1 : Keeps s s1 := .noteMelds (.setReg (.setReg (.advance h)))
    exact .ite (.next h) (.next (.grantOver (.homeSees hs1)))

theorem execJobPlace_keeps (h : Keeps s t) {job choice : Nat} : Res.Keeps s (execJobPlace job choice t) := by
  unfold execJobPlace
  split
  · exact .next h
  · have hj := h.small_job ‹_›
    split
    · exact .next h
    · split
      · exact .ite (.next (.placeJob hj h)) (.next h)
      · dsimp only
        split
        · exact .next h
        · split
          · exact .next (.placeJob hj h)
          · exact .next h

theorem Keeps.commitMsg {n : Nat} {c : BitVec 32} {f : State → State} (hf : ∀ u, Keeps s u → Keeps s (f u)) (h : Keeps s t) :
    Keeps s (t.commitMsg n c f) :=
  .ite h (.ite (hf _ h) (.ite (.gulStale h) (.setReg (.setReg h))))

theorem Keeps.prepareHere (h : Keeps s t) {t0 : Nat} : Keeps s (t.prepareHere t0) :=
  .ite (.tryReady (.tellRanks (.updTbl h))) h

theorem Keeps.readyHere (h : Keeps s t) {t0 child : Nat} : Keeps s (t.readyHere t0 child) :=
  .ite (.settleJob (.tryReady (.updTbl h))) h

theorem Keeps.commitHere (h : Keeps s t) {t0 : Nat} {skip : Bool} : Keeps s (t.commitHere t0 skip) := by
  unfold State.commitHere
  split
  · exact .ite (.settleJob (.decideCommit (.updTbl h))) h
  · exact h

theorem Keeps.abortHere (h : Keeps s t) {t0 : Nat} {status : Code} : Keeps s (t.abortHere t0 status) :=
  .orderKill h

theorem Keeps.killreqHere (h : Keeps s t) {t0 : Nat} : Keeps s (t.killreqHere t0) :=
  .ite (.orderKill h) h

theorem Keeps.doneHere (h : Keeps s t) {t0 child : Nat} : Keeps s (t.doneHere t0 child) :=
  .ite (.tryDone (.updTbl h)) h

theorem Keeps.commitPacket (h : Keeps s t) {n : Nat} {p : GPkt} : Keeps s (t.commitPacket n p) :=
  .commitMsg (fun _ hu => by
    split
    · exact .prepareHere hu
    · exact .readyHere hu
    · exact .commitHere hu
    · exact .abortHere hu
    · exact .killreqHere hu
    · exact .doneHere hu
    · exact hu) h

theorem execPrepareMsg_keeps (h : Keeps s t) {m : CommitAt} : Res.Keeps s (execPrepareMsg m t) :=
  .next (.commitMsg (fun _ h1 => .prepareHere h1) h)

theorem execReadyMsg_keeps (h : Keeps s t) {m : CommitAt} {child : Nat} : Res.Keeps s (execReadyMsg m child t) :=
  .next (.commitMsg (fun _ h1 => .readyHere h1) h)

theorem execCommitMsg_keeps (h : Keeps s t) {m : CommitRuling} : Res.Keeps s (execCommitMsg m t) :=
  .next (.commitMsg (fun _ h1 => .commitHere h1) h)

theorem execAbortMsg_keeps (h : Keeps s t) {m : AbortNote} : Res.Keeps s (execAbortMsg m t) :=
  .next (.commitMsg (fun _ h1 => .abortHere h1) h)

theorem execKillreq_keeps (h : Keeps s t) {m : CommitAt} : Res.Keeps s (execKillreq m t) :=
  .next (.commitMsg (fun _ h1 => .killreqHere h1) h)

theorem execDoneMsg_keeps (h : Keeps s t) {m : CommitAt} {child : Nat} : Res.Keeps s (execDoneMsg m child t) :=
  .next (.commitMsg (fun _ h1 => .doneHere h1) h)

theorem execDecideTimeout_keeps (h : Keeps s t) {t0 : Nat} : Res.Keeps s (execDecideTimeout t0 t) := by
  unfold execDecideTimeout
  split
  · extract_lets s1
    have hs1 : Keeps s s1 := .homeSees (.until h)
    split
    · exact .next (.stopJob hs1)
    · exact .next (.orderKill hs1)
  · exact .next h

/-! ### The functions of Sys2Proof/Machine/GulLink.lean -/

theorem Keeps.stopSpan (h : Keeps s t) {job : BitVec 32} {cause : Code} : Keeps s (t.stopSpan job cause) := by
  unfold State.stopSpan
  split
  · exact h
  · split
    · exact .stopJob h
    · exact .orderKill h

theorem Keeps.linkDown (h : Keeps s t) {l : Nat} : Keeps s (t.linkDown l) := by
  unfold State.linkDown
  extract_lets x jobs s1 s2 src
  have hs1 : Keeps s s1 := .dealerSees (.setReg h)
  have hs2 : Keeps s s2 := .foldl hs1 fun _ _ h1 => .ite h1 (.stopSpan h1)
  have hsrc : Keeps s src := .setReg hs2
  exact .ite (.same hsrc (by dsimp only [State.kept])) hs2

theorem Keeps.sendIdle (h : Keeps s t) {l : Nat} : Keeps s (t.sendIdle l) := by
  unfold State.sendIdle
  extract_lets x f src src'
  have hsrc' : Keeps s src' := .setGlink h
  exact .same hsrc' (by dsimp only [State.kept])

theorem Keeps.frameAck (h : Keeps s t) {l ack : Nat} : Keeps s (t.frameAck l ack) :=
  .ite (.setGlink h) h

theorem Keeps.frameNak (h : Keeps s t) {l : Nat} : Keeps s (t.frameNak l) := by
  unfold State.frameNak
  extract_lets x r src s1 s2
  have hsrc : Keeps s src := .setGlink h
  have hs1 : Keeps s s1 := .same hsrc (by dsimp only [State.kept])
  have hs2 : Keeps s s2 := .setReg hs1
  exact .ite (.linkDown hs2) hs2

theorem Keeps.frameBody (h : Keeps s t) {l f : Nat} : Keeps s (t.frameBody l f) :=
  .ite (.setGlink h) (.ite h (.setGlink h))

theorem Keeps.answerFrame (h : Keeps s t) {l : Nat} : Keeps s (t.answerFrame l) :=
  .ite (.sendIdle (.pump h)) (.pump h)

theorem execGulFrameReceive_keeps (h : Keeps s t) {link : Nat} {fec : Option Nat} {frame : BitVec 5140} : Res.Keeps s (execGulFrameReceive link fec frame t) := by
  unfold execGulFrameReceive
  split
  · exact .next h
  · extract_lets nak f
    split
    · exact .next (.sendIdle (.setGlink h))
    · extract_lets s1 s2 s3 s4
      have hs1 : Keeps s s1 := .setReg h
      have hs2 : Keeps s s2 := .frameAck hs1
      have hs3 : Keeps s s3 := .setGlink hs2
      have hs4 : Keeps s s4 := .ite (.frameNak hs3) hs3
      exact .ite (.next (.sendIdle (.setGlink hs1))) (.ite (.next (.pump hs4)) (.next (.answerFrame (.frameBody hs4))))

theorem execGulAckTimeout_keeps (h : Keeps s t) {link : Nat} : Res.Keeps s (execGulAckTimeout link t) :=
  .ite (.next (.linkDown (.until h))) (.next h)

theorem execGulPacketRoute_keeps (h : Keeps s t) {link : Nat} : Res.Keeps s (execGulPacketRoute link t) := by
  unfold execGulPacketRoute
  extract_lets x
  split
  · exact .next h
  · split
    · exact .next h
    · exact .next (.ite (.sendIdle (.gulSend (.setGlink h))) (.gulSend (.setGlink h)))

theorem Keeps.reroute (h : Keeps s t) {die : Nat} : Keeps s (t.reroute die) :=
  .foldl h fun _ _ h1 => .foldl (.setGlink h1) fun _ _ h2 => .gulSend h2

theorem execGulRselWrite_keeps (h : Keeps s t) {die : BitVec 1} {bank : Bool} : Res.Keeps s (execGulRselWrite die bank t) := by
  unfold execGulRselWrite
  extract_lets d devs src s1 s2
  have hsrc : Keeps s src := .setReg h
  have hs1 : Keeps s s1 := .same hsrc (by dsimp only [State.kept])
  have hs2 : Keeps s s2 := .setReg hs1
  exact .ite (.next h) (.next (.reroute hs2))

theorem execRouteHoldRelease_keeps (h : Keeps s t) {die : BitVec 1} : Res.Keeps s (execRouteHoldRelease die t) :=
  .next (.foldl (.setReg (.same h (by dsimp only [State.kept]))) fun _ _ h1 => .pump h1)

theorem execGulrasLinkTrained_keeps (h : Keeps s t) {link : Nat} {peer : BitVec 16} {plink : BitVec 5} : Res.Keeps s (execGulrasLinkTrained link peer plink t) :=
  .ite (.next (.pump (.setGlink (.setReg h)))) (.next h)

theorem execTimeExchange_keeps (h : Keeps s t) {t1 t2 t3 t4 : Word} : Res.Keeps s (execTimeExchange t1 t2 t3 t4 t) :=
  .ite (.next h) (.next (.setReg (.setReg (.same h (by dsimp only [State.kept])))))

theorem execGtimeStep_keeps (h : Keeps s t) : Res.Keeps s (execGtimeStep t) := by
  unfold execGtimeStep
  extract_lets off src
  have hsrc : Keeps s src := .advance h
  exact .ite (.next h) (.next (.same hsrc (by dsimp only [State.kept])))

/-! ### The functions of Sys2Proof/Machine/Kitty.lean -/

theorem Keeps.setKitty (h : Keeps s t) {k : Kitty} : Keeps s (t.setKitty k) :=
  .same h rfl

theorem Keeps.kittyReply (h : Keeps s t) {die : Nat} {r : KReq} {status : Code} {data : List Byte} : Keeps s (t.kittyReply die r status data) :=
  .gulSend h

theorem Keeps.putKitty (h : Keeps s t) {die : Nat} {r : KReq} {parity : Bool} {data : List Byte} : Keeps s (t.putKitty die r parity data) := by
  unfold State.putKitty
  extract_lets va g
  split
  · exact .kittyReply h
  · split
    · exact .kittyReply h
    · exact .ite h (.setKitty (.landPA h))

theorem Keeps.sealKitty (h : Keeps s t) {die : Nat} {r : KReq} {count : Nat} : Keeps s (t.sealKitty die r count) := by
  unfold State.sealKitty
  split
  · exact .kittyReply h
  · exact .ite (.kittyReply (.setKitty h)) h

theorem Keeps.getKitty (h : Keeps s t) {die : Nat} {r : KReq} {len : Nat} : Keeps s (t.getKitty die r len) := by
  unfold State.getKitty
  split
  · exact .kittyReply h
  · split
    · split
      · rename_i u0 _ e2
        have h1 : Keeps s _ := .of_fst e2 (.takePA h)
        split
        · exact .kittyReply h1
        · exact .kittyReply h1
    · exact .kittyReply h

theorem execKittyPut_keeps (h : Keeps s t) {m : JobTag} {src : BitVec 16} {va : Nat} {parity : Bool} {data : List Byte} : Res.Keeps s (execKittyPut m src va parity data t) :=
  .next (.putKitty h)

theorem execKittySeal_keeps (h : Keeps s t) {m : JobTag} {src : BitVec 16} {count : Nat} : Res.Keeps s (execKittySeal m src count t) :=
  .next (.sealKitty h)

theorem execKittyGet_keeps (h : Keeps s t) {m : JobCmd} {src : BitVec 16} {va len : Nat} {tag : BitVec 16} : Res.Keeps s (execKittyGet m src va len tag t) :=
  .next (.getKitty h)

/-! ### The functions of Sys2Proof/Machine/GulRemote.lean -/

theorem Keeps.dropGin (h : Keeps s t) {k : Nat} : Keeps s (t.dropGin k) :=
  .same h rfl

theorem Keeps.gulReply (h : Keeps s t) {g : GIn} {status : Code} {data : List Byte} : Keeps s (t.gulReply g status data) := by
  unfold State.gulReply
  split
  · exact .gulSend h
  · exact h

theorem Keeps.gulMessage (h : Keeps s t) {t0 : Nat} {p : GPkt} : Keeps s (t.gulMessage t0 p) := by
  unfold State.gulMessage
  split
  · exact .same h (by dsimp only [State.kept])
  · exact h

theorem Keeps.gulAdmitted (h : Keeps s t) {k t0 : Nat} {g : GIn} : Keeps s (t.gulAdmitted k t0 g) := by
  unfold State.gulAdmitted
  extract_lets p
  exact .ite (.same h (by dsimp only [State.kept])) (.ite (.gulMessage (.dropGin h)) (.ite (.ite (.gulUnit (.dropGin h)) h) (.dropGin h)))

theorem Keeps.gulRetry (h : Keeps s t) {k t0 : Nat} {g : GIn} : Keeps s (t.gulRetry k t0 g) :=
  .gulReply (.setReg (.setReg (.dropGin h)))

theorem Keeps.gulJobPacket (h : Keeps s t) {k t0 : Nat} {g : GIn} : Keeps s (t.gulJobPacket k t0 g) := by
  unfold State.gulJobPacket
  extract_lets c n
  exact .ite (.startCmd (.dropGin h)) (.ite (.commitPacket (.dropGin h)) (.ite (.gulAdmitted h) (.ite (.gulRetry h) (.gulStale (.dropGin h)))))

theorem execGulRemoteAdmit_keeps (h : Keeps s t) {k : Nat} : Res.Keeps s (execGulRemoteAdmit k t) := by
  unfold execGulRemoteAdmit
  split
  · exact .next h
  · extract_lets p
    split
    · exact .next h
    · split
      · exact .next (.gulAnswer (.dropGin h))
      · split
        · exact .next (.sealKitty (.dropGin h))
        · split
          · exact .next (.putKitty (.dropGin h))
          · split
            · exact .next (.getKitty (.dropGin h))
            · split
              · exact .ite (.next (.same h (by dsimp only [State.kept]))) (.next (.dropGin h))
              · split
                · exact .next (.gulReply (.dropGin h))
                · exact .next (.gulJobPacket h)

theorem Keeps.remoteLand (h : Keeps s t) {l t0 : Nat} {p : GPkt} : Keeps s (t.remoteLand l t0 p).1 := by
  unfold State.remoteLand
  split
  · exact .landFor h
  · exact .landVA h

theorem execGulRemoteWrite_keeps (h : Keeps s t) {k : Nat} : Res.Keeps s (execGulRemoteWrite k t) := by
  unfold execGulRemoteWrite
  split
  · exact .next h
  · split
    · exact .next h
    · split
      · exact .next h
      · split
        · rename_i u0 e2
          have h1 : Keeps s _ := .of_fst e2 (.remoteLand h)
          exact .next (.gulReply (.dropGin h1))
        · rename_i u0 e4
          have h3 : Keeps s _ := .of_fst e4 (.remoteLand h)
          exact .next h
        · rename_i u0 _ e6
          have h5 : Keeps s _ := .of_fst e6 (.remoteLand h)
          exact .next (.gulReply (.dropGin h))

theorem execGulRemoteRead_keeps (h : Keeps s t) {k : Nat} : Res.Keeps s (execGulRemoteRead k t) := by
  unfold execGulRemoteRead
  split
  · exact .next h
  · rename_i g _
    split
    · exact .next h
    · rename_i n _ _
      have h1 : Keeps s (if n = 0 then t.takeFor 0 0 g.pkt.addr g.pkt.len else t.takeVA (gulAgent g.link) n g.pkt.addr g.pkt.len true).1 := by
        split
        · exact .takeFor h
        · exact .takeVA h
      split
      · exact .next h
      · split
        · rename_i e
          exact .next (.gulReply (.dropGin (.of_fst e h1)))
        · rename_i e
          exact .next (.gulReply (.dropGin (.of_fst e h1)))

theorem execGulRetryResend_keeps (h : Keeps s t) {k : Nat} : Res.Keeps s (execGulRetryResend k t) := by
  unfold execGulRetryResend
  split
  · exact .next h
  · exact .ite (.next (.gulSend (.same h (by dsimp only [State.kept])))) (.next h)

theorem Keeps.setQres (h : Keeps s t) {core : Nat} {status : Code} {done : Bool} {flags : BitVec 5} : Keeps s (t.setQres core status done flags) :=
  .setReg h

theorem Keeps.qopStart (h : Keeps s t) {core t0 : Nat} {fill : Bool} {sid : BitVec 16} {coll : Option Nat} : Keeps s (t.qopStart core t0 fill sid coll) := by
  unfold State.qopStart
  extract_lets src
  have hsrc : Keeps s src := .setQres h
  exact .same hsrc (by dsimp only [State.kept])

theorem Keeps.fillSync (h : Keeps s t) {die t0 : Nat} {sid : BitVec 16} {v : Word} : Keeps s (t.fillSync die t0 sid v) := by
  unfold State.fillSync
  extract_lets s'
  have hs' : Keeps s s' := .syncLearn h
  split
  · exact hs'
  · exact .sendSync (.same hs' (by dsimp only [State.kept]))

theorem Keeps.qopEnd (h : Keeps s t) {core t0 : Nat} {fill : Bool} {sid : BitVec 16} {code : Code} : Keeps s (t.qopEnd core t0 fill sid code) :=
  .ite (.fillSync (.setQres h)) (.setQres h)

theorem Keeps.qopPacket (h : Keeps s t) {core : Nat} {base : GPkt} {rva lva : Nat} {data : List Byte} {x : Nat × Nat} : Keeps s (t.qopPacket core base rva lva data x) :=
  .gulSend (.same h (by dsimp only [State.kept]))

theorem Keeps.qopSend (h : Keeps s t) {core : Nat} {base : GPkt} {rva lva : Nat} {data : List Byte} {parts : List (Nat × Nat)} : Keeps s (t.qopSend core base rva lva data parts) :=
  .foldl h fun _ _ h1 => .qopPacket h1

theorem execGulQopRead_keeps (h : Keeps s t) {core : Nat} {t0 : BitVec 8} {ddev : BitVec 16} {fill : Bool} {sid : BitVec 16} {len : BitVec 21} : Res.Keeps s (execGulQopRead core t0 ddev fill sid len t) := by
  unfold execGulQopRead
  extract_lets n
  split
  · exact .next h
  · split
    · exact .next (.qopEnd h)
    · exact .next (.qopSend (.qopStart h))

theorem execGulQopWrite_keeps (h : Keeps s t) {core : Nat} {t0 : BitVec 8} {ddev : BitVec 16} {fill : Bool} {sid : BitVec 16} {len : BitVec 21} : Res.Keeps s (execGulQopWrite core t0 ddev fill sid len t) := by
  unfold execGulQopWrite
  extract_lets n s1
  have hs1 : Keeps s s1 := .qopStart h
  split
  · exact .next h
  · split
    · exact .next (.qopEnd h)
    · split
      · rename_i u0 _ e2
        have h1 : Keeps s _ := .of_fst e2 (.takeFor hs1)
        exact .next (.gulFail h1)
      · rename_i u0 _ e4
        have h3 : Keeps s _ := .of_fst e4 (.takeFor hs1)
        exact .next (.qopSend h3)

/-! ### The functions of Sys2Proof/Machine/Collective.lean -/

theorem execGulQopCollective_keeps (h : Keeps s t) {core : Nat} {t0 : BitVec 8} {fill : Bool} {sid : BitVec 16} : Res.Keeps s (execGulQopCollective core t0 fill sid t) := by
  unfold execGulQopCollective
  split
  · exact .next h
  · split
    · exact .next (.qopEnd h)
    · split
      · rename_i u0 _ e2
        have h1 : Keeps s _ := .of_fst e2 (.takeFor h)
        exact .next (.gulFail (.qopStart h1))
      · rename_i u0 _ e4
        have h3 : Keeps s _ := .of_fst e4 (.takeFor h)
        extract_lets d src
        have hsrc : Keeps s src := .updTbl (.qopStart h3)
        exact .ite (.next (.gulFail (.qopStart h3))) (.next (.same hsrc (by dsimp only [State.kept])))

theorem Keeps.sendUnit (h : Keeps s t) {c : Coll} {u : Nat} {bs : List Byte} {ranks : List Nat} : Keeps s (t.sendUnit c u bs ranks) :=
  .same h rfl

theorem Keeps.placeUnit (h : Keeps s t) {c : Coll} {u : Nat} {bs : List Byte} : Keeps s (t.placeUnit c u bs) := by
  unfold State.placeUnit
  extract_lets d
  split
  · rename_i u0 e2
    have h1 : Keeps s _ := .of_fst e2 (.landVA h)
    exact .ite (.sendUnit (.updColl h1)) (.updColl h1)
  · rename_i u0 e4
    have h3 : Keeps s _ := .of_fst e4 (.landVA h)
    exact h
  · rename_i u0 _ e6
    have h5 : Keeps s _ := .of_fst e6 (.landVA h)
    exact .gulFail h

theorem Keeps.collFlags (h : Keeps s t) {core : Nat} {f : Fl} : Keeps s (t.collFlags core f) :=
  .updGop h

theorem Keeps.unitUp (h : Keeps s t) {c : Coll} {u : Nat} : Keeps s (t.unitUp c u) := by
  unfold State.unitUp
  extract_lets d t' m
  split
  · exact h
  · split
    · rename_i u0 _ e2
      have h1 : Keeps s _ := .of_fst e2 (.takeVA h)
      exact .gulFail h1
    · rename_i u0 _ e4
      have h3 : Keeps s _ := .of_fst e4 (.takeVA h)
      split
      · split
        · exact .sendUnit (.updColl (.collFlags h3))
        · split
          · exact .placeUnit (.collFlags h3)

theorem Keeps.unitDown (h : Keeps s t) {c : Coll} {u : Nat} : Keeps s (t.unitDown c u) := by
  unfold State.unitDown
  extract_lets d
  split
  · exact h
  · exact .placeUnit h

theorem execCollectiveUnitCombine_keeps (h : Keeps s t) {t0 : Nat} {seq : BitVec 32} {u : Nat} : Res.Keeps s (execCollectiveUnitCombine t0 seq u t) := by
  unfold execCollectiveUnitCombine
  split
  · exact .next h
  · exact .ite (.next h) (.ite (.next (.unitUp h)) (.ite (.next (.ite (.unitDown h) h)) (.next (.unitUp h))))

theorem execGulQopDone_keeps (h : Keeps s t) {core : Nat} : Res.Keeps s (execGulQopDone core t) := by
  unfold execGulQopDone
  split
  · exact .next h
  · extract_lets whole src s1 s2
    have hsrc : Keeps s src := .setQres h
    have hs1 : Keeps s s1 := .same hsrc (by dsimp only [State.kept])
    have hs2 : Keeps s s2 := .ite (.fillSync hs1) hs1
    exact .ite (.next h) (.next (.tryReady hs2))

/-! ### The functions of Sys2Proof/Machine/Deal.lean -/

theorem Keeps.readImgPart (h : Keeps s t) {t0 img i a n : Nat} : Keeps s (t.readImgPart t0 img i a n).1 :=
  .readRange h

theorem Keeps.readImg {n img i : Nat} (h : Keeps s t) : Keeps s (t.readImg n img i).1 := by
  unfold State.readImg
  dsimp only
  split
  · exact .readImgPart h
  · refine .foldl_fst (.readImgPart (.readImgPart h)) fun q _ h1 => ?_
    split
    · exact .readImgPart h1
    · exact h1

theorem Keeps.readImgs {n img : Nat} (h : Keeps s t) : Keeps s (t.readImgs n img).1 :=
  .foldl_fst h fun q _ h1 => by
    split
    · exact .readImg h1
    · exact h1

theorem Keeps.dealRegs (h : Keeps s t) {i : Nat} : Keeps s (t.dealRegs i) := by
  unfold State.dealRegs
  extract_lets a s1 s2
  have hs1 : Keeps s s1 := .setReg (.setReg (.setReg (.setReg h)))
  have hs2 : Keeps s s2 := .foldl hs1 fun _ _ h1 => .setReg h1
  exact .foldl hs2 fun _ _ h2 => .setReg (.setReg (.setReg h2))

theorem Keeps.clearIsl (h : Keeps s t) {i : Nat} : Keeps s (t.clearIsl i) := by
  unfold State.clearIsl
  extract_lets s1
  have hs1 : Keeps s s1 := .foldl (.dealRegs h) fun _ _ h1 => .updCell h1
  exact .updIsl hs1 fun _ => by rfl

theorem Keeps.putLinks (h : Keeps s t) {k : CellRef} {off : Nat} {bs : List Byte} : Keeps s (t.putLinks k off bs) :=
  .foldl h fun _ _ h1 => .ite (.setReg h1) h1

theorem Keeps.applyFrame (h : Keeps s t) {i : Nat} {f : DFrame} : Keeps s (t.applyFrame i f) := by
  unfold State.applyFrame
  extract_lets k
  split
  · exact .updCell h
  · exact .wrN h
  · exact .putLinks h
  · exact .updCell h

theorem Keeps.loadIsl (h : Keeps s t) {x : IslImg} : Keeps s (t.loadIsl x) := by
  unfold State.loadIsl
  extract_lets s1 s2
  have hs1 : Keeps s s1 := .foldl h fun _ _ h1 => .applyFrame h1
  have hs2 : Keeps s s2 := .foldl hs1 fun _ _ h2 => .ite h2 (.updCell h2)
  exact .noteMelds (.setReg (.updIsl hs2 fun _ => by rfl))

theorem execTblReqDeal_keeps (h : Keeps s t) {t0 : Nat} {img : BitVec 12} : Res.Keeps s (execTblReqDeal t0 img t) :=
  .ite (.next h) (.ite (.next (.setRes h)) (.next (.homeSees (.updTbl (.setTstate (.setRes (.ite h (.startCmd h))))))))

theorem execDealCheck_keeps (h : Keeps s t) {t0 : Nat} : Res.Keeps s (execDealCheck t0 t) := by
  unfold execDealCheck
  split
  · split
    · exact .next h
    · split
      · rename_i u0 _ e2
        have h1 : Keeps s _ := .of_fst e2 (.readImgs h)
        split
        · exact .next (.settleJob (.failNow h1))
        · split
          · exact .next (.settleJob (.failNow h1))
          · exact .next (.updTbl h1)
  · exact .next h

theorem execDealGo_keeps (h : Keeps s t) {t0 : Nat} : Res.Keeps s (execDealGo t0 t) := by
  unfold execDealGo
  split
  · extract_lets s1 s2
    have hs1 : Keeps s s1 := .discardTable h
    have hs2 : Keeps s s2 := .foldl (.nextEpoch hs1) fun _ _ h1 => .clearIsl h1
    exact .ite (.next (.settleJob (.failNow hs1))) (.next (.updTbl hs2))
  · exact .next h

theorem Keeps.noteOverrun (h : Keeps s t) {t0 : Nat} : Keeps s (t.noteOverrun t0) := by
  unfold State.noteOverrun
  split
  · exact h
  · split
    · exact .updJob h fun _ => by rfl
    · exact h

theorem Keeps.dealOver (h : Keeps s t) {t0 : Nat} : Keeps s (t.dealOver t0) := by
  unfold State.dealOver
  extract_lets s1
  have hs1 : Keeps s s1 := .setTstate (.setRes (.updTbl h))
  split
  · exact hs1
  · exact .killBegins (.noteOverrun hs1)

theorem execDealLoadDone_keeps (h : Keeps s t) {isl : Nat} : Res.Keeps s (execDealLoadDone isl t) := by
  unfold execDealLoadDone
  extract_lets t'
  split
  · split
    · exact .next h
    · exact .ite (.next (.dealOver (.updTbl (.loadIsl h)))) (.next (.updTbl (.loadIsl h)))
  · exact .next h

/-! ### The functions of Sys2Proof/Machine/Paging.lean -/

theorem execVersionCopyDone_keeps (h : Keeps s t) {die : BitVec 1} : Res.Keeps s (execVersionCopyDone die t) := by
  unfold execVersionCopyDone
  split
  · exact .next (.finishVersion h)
  · exact .next h

theorem Keeps.freeEntry (h : Keeps s t) {t0 i pa : Nat} : Keeps s (t.freeEntry t0 i pa) := by
  unfold State.freeEntry
  extract_lets b src
  have hsrc : Keeps s src := .wrEntry h
  exact .same hsrc (by dsimp only [State.kept])

theorem Keeps.sweepRec (h : Keeps s t) {t0 i : Nat} : Keeps s (State.sweepRec t0 t i) := by
  unfold State.sweepRec
  extract_lets s' r commit
  have hs' : Keeps s s' := .readBlocks h
  split
  · exact hs'
  · split
    · exact hs'
    · extract_lets b e toK s1 s1' r' s2
      have hs1 : Keeps s s1 := .wrEntry hs'
      have hs1' : Keeps s s1' := .ite (.ite hs1 (.giveFrame hs1)) (.giveFrame hs')
      have hs2 : Keeps s s2 := .setVrec hs1'
      exact .ite hs2 (.freeEntry hs2)

theorem execVersionSweepDone_keeps (h : Keeps s t) {t0 : Nat} : Res.Keeps s (execVersionSweepDone t0 t) :=
  .ite (.next h) (.next (.updTbl (.setBoth (.setBoth (.foldl h fun _ _ h1 => .sweepRec h1)))))

theorem Keeps.sendAll (h : Keeps s t) {die : Nat} {ps : List GPkt} : Keeps s (t.sendAll die ps) :=
  .foldl h fun _ _ h1 => .gulSend h1

theorem execStepCopyPage_keeps (h : Keeps s t) {t0 : Nat} : Res.Keeps s (execStepCopyPage t0 t) := by
  unfold execStepCopyPage
  split
  · exact .next h
  · split
    · exact .next h
    · split
      · rename_i u0 _ e2
        have h1 : Keeps s _ := .of_fst e2 (.takePA h)
        split
        · exact .next h1
        · exact .next (.ite (.sendAll (.updTbl h1)) (.updTbl h1))

theorem Keeps.sendSeal (h : Keeps s t) {t0 : Nat} : Keeps s (t.sendSeal t0) :=
  .ite (.sendAll h) h

theorem Keeps.copied (h : Keeps s t) {t0 : Nat} {e : PageEnt} : Keeps s (t.copied t0 e) := by
  unfold State.copied
  extract_lets b b' s1 i
  have hs1 : Keeps s s1 := .wrEntry h
  split
  · exact .ite (.ite (.setVrec (.giveFrame hs1)) (.freeEntry (.setVrec (.giveFrame hs1)))) hs1
  · exact hs1

theorem execStepCopyPageDone_keeps (h : Keeps s t) {t0 : Nat} : Res.Keeps s (execStepCopyPageDone t0 t) := by
  unfold execStepCopyPageDone
  split
  · exact .next h
  · extract_lets s0
    have hs0 : Keeps s s0 := .updTbl h
    split
    · exact .next (.ite (.sendSeal (.setBoth (.setBoth (.copied hs0)))) (.setBoth (.copied hs0)))
    · exact .next hs0

theorem execMmuInv_keeps (h : Keeps s t) {die : BitVec 1} {t0 : BitVec 8} {all : Bool} {va : BitVec 32} : Res.Keeps s (execMmuInv die t0 all va t) := by
  unfold execMmuInv
  refine .next ?_
  extract_lets src
  have hsrc : Keeps s src := .setReg h
  exact .same hsrc (by dsimp only [State.kept])

theorem execMmuInvDone_keeps (h : Keeps s t) {die : BitVec 1} : Res.Keeps s (execMmuInvDone die t) := by
  unfold execMmuInvDone
  extract_lets mine src
  have hsrc : Keeps s src := .setReg h
  exact .next (.same hsrc (by dsimp only [State.kept]))

theorem execMmuPoolPush_keeps (h : Keeps s t) {die : BitVec 1} {frame : BitVec 32} : Res.Keeps s (execMmuPoolPush die frame t) := by
  unfold execMmuPoolPush
  extract_lets a
  split
  · exact .next h
  · split
    · exact .next (.setPool h)
    · exact .next h

/-! ### The functions of Sys2Proof/Machine/RakeUnit.lean -/

theorem Keeps.setRake (h : Keeps s t) {die : Nat} {r : Rake} : Keeps s (t.setRake die r) :=
  .same h rfl

theorem Keeps.rakeVote (h : Keeps s t) {die : Nat} : Keeps s (t.rakeVote die) :=
  .setReg (.setReg (.setRake h))

theorem execRakeBlock_keeps (h : Keeps s t) {die : BitVec 1} {cls : BitVec 2} {upset : Upset} : Res.Keeps s (execRakeBlock die cls upset t) := by
  unfold execRakeBlock
  extract_lets d c r rate i
  split
  · exact .next h
  · split
    · exact .next h
    · split
      · rename_i u0 _ e2
        have h1 : Keeps s _ := .of_fst e2 (.readBlock h)
        exact .next (.setReg (.ite (.setRake h1) (.rakeVote (.setReg (.setRake h1)))))

theorem execRakeCfgWrite_keeps (h : Keeps s t) {die : BitVec 1} {value : Word} : Res.Keeps s (execRakeCfgWrite die value t) :=
  .next (.setRake h)

theorem execRakeRateWrite_keeps (h : Keeps s t) {die : BitVec 1} {value : Word} : Res.Keeps s (execRakeRateWrite die value t) :=
  .next (.setRake h)

/-! ### The functions of Sys2Proof/Machine/ResetCore.lean -/

theorem Keeps.resetUnits (h : Keeps s t) : Keeps s t.resetUnits :=
  h.trans ⟨rfl, .refl _, fun ⟨hm, hr, _, _⟩ => ⟨hm, SMap.wf_keep _ _ _ hr, rfl, rfl⟩,
    fun _ ⟨hj, _, _, _⟩ => ⟨hj, fun _ => Nat.zero_lt_succ _, rfl, rfl⟩⟩

theorem Keeps.warmReset (h : Keeps s t) : Keeps s t.warmReset :=
  h.resetUnits.withJobs fun j hm => by
    obtain ⟨i, hi, rfl⟩ := List.mem_map.mp hm
    have hs := h.small_mem hi
    exact hs

theorem Keeps.coldReset (h : Keeps s t) : Keeps s t.coldReset :=
  h.trans ⟨rfl, .refl _, fun ⟨_, hr, _, _⟩ => ⟨rfl, SMap.wf_keep _ _ _ hr, rfl, rfl⟩,
    fun _ _ => ⟨fun _ hm => absurd hm List.not_mem_nil, fun _ => Nat.zero_lt_succ _, rfl, rfl⟩⟩

theorem Keeps.applyLevel (h : Keeps s t) {x : Level} : Keeps s (t.applyLevel x) := by
  unfold State.applyLevel
  split
  · exact h
  · exact .warmReset h
  · exact .coldReset h
  · extract_lets src
    have hsrc : Keeps s src := .setReg (.coldReset h)
    exact .same hsrc (by dsimp only [State.kept])

theorem Keeps.assertPackage (h : Keeps s t) {src : RstSource} {lvl : Level} {esc : Bool} : Keeps s (t.assertPackage src lvl esc) := by
  unfold State.assertPackage
  split
  · extract_lets held seen src
    have hsrc : Keeps s src := .applyLevel h
    exact .same hsrc (by dsimp only [State.kept])
  · extract_lets e1 src
    have hsrc : Keeps s src := .applyLevel h
    exact .ite (.same hsrc (by dsimp only [State.kept])) (.same h (by dsimp only [State.kept]))

theorem isl_erase_small (c : t.Canon) (ht : t.TablesOk) (i n : Nat) : (SMap.get Isl.dflt (SMap.erase i t.isls) n).table < 256 := by
  obtain ⟨_, _, _, hi⟩ := c
  obtain ⟨_, hs, _⟩ := ht
  by_cases e : n = i
  · rw [e, SMap.get_erase_same _ _ none _ hi]; exact Nat.zero_lt_succ _
  · rw [SMap.get_erase_other _ _ none e hi]; exact hs n

theorem Keeps.islandReset (h : Keeps s t) {i : Nat} : Keeps s (t.islandReset i) := by
  refine .noteMelds (h.trans ⟨rfl, .refl _, fun ⟨hm, hr, hc, hi⟩ => ⟨hm, ?_, ?_, SMap.wf_erase _ _ _ hi⟩,
    fun c k => ⟨k.1, isl_erase_small c k i, k.2.2⟩⟩)
  · exact SMap.wf_keep _ (fun a => !ofIslandBlock i a) _ hr
  · exact SMap.wf_keep _ (fun k => k / 16 != i) _ hc

theorem Keeps.stopOn (h : Keeps s t) {core : Nat} : Keeps s (t.stopOn core) :=
  .foldl h fun _ _ h1 => .stopJob h1

/-- Registers of which some return to their reset values, beside what `Keeps` does not speak of. -/
theorem Keeps.keepRegs (h : Keeps s t) {p : Nat → Bool} {a b c d} :
    Keeps s { t with regs := SMap.keep p t.regs, gops := a, greqs := b, chmsgs := c, mbxStale := d } :=
  h.trans ⟨rfl, .refl _, fun ⟨hm, hr, hc, hi⟩ => ⟨hm, SMap.wf_keep _ _ _ hr, hc, hi⟩, fun _ => id⟩

theorem Keeps.coreReset (h : Keeps s t) {core : Nat} : Keeps s (t.coreReset core) := by
  refine .keepRegs (.coreChannels (.foldl h fun _ _ h1 => ?_))
  split
  · exact .dropRequest h1
  · exact h1

theorem Keeps.blockReset (h : Keeps s t) {kind : Bool} {die index : Nat} : Keeps s (t.blockReset kind die index) :=
  .ite (.coreReset h) (.islandReset h)

theorem Keeps.blockBegins (h : Keeps s t) {kind : Bool} {die index : Nat} : Keeps s (t.blockBegins kind die index) :=
  .ite (.stopOn (.blockReset h)) (.blockReset h)

theorem Keeps.assertBlock (h : Keeps s t) {src : RstSource} {kind : Bool} {die index : Nat} : Keeps s (t.assertBlock src kind die index) := by
  unfold State.assertBlock
  split
  · exact .same h (by dsimp only [State.kept])
  · extract_lets src
    have hsrc : Keeps s src := .blockBegins h
    exact .same hsrc (by dsimp only [State.kept])

theorem Keeps.request (h : Keeps s t) {src : RstSource} {kind : Bool} {die index : Nat} : Keeps s (t.request src kind die index) :=
  .ite (.assertPackage h) (.ite (.setReg h) (.ite (.setReg h) (.assertBlock (.setReg h))))

theorem Keeps.writeCause (h : Keeps s t) {e : Episode} : Keeps s (t.writeCause e) :=
  .setReg h

theorem Keeps.pickRef (h : Keeps s t) {die : Nat} : Keeps s (t.pickRef die) :=
  .setReg h

theorem Keeps.releasePackage (h : Keeps s t) {e : Episode} : Keeps s (t.releasePackage e) := by
  unfold State.releasePackage
  extract_lets src s1 s2 s3
  have hsrc : Keeps s src := .writeCause (.applyLevel h)
  have hs1 : Keeps s s1 := .same hsrc (by dsimp only [State.kept])
  have hs2 : Keeps s s2 := .pickRef (.pickRef (.same hs1 (by dsimp only [State.kept])))
  have hs3 : Keeps s s3 := .setReg (.setReg hs2)
  exact .ite (.setReg (.setReg hs1)) (.ite (.setReg hs3) hs3)

theorem Keeps.releaseBlock (h : Keeps s t) {b : BlockEp} : Keeps s (t.releaseBlock b) := by
  unfold State.releaseBlock
  extract_lets old v s1 s2 src
  have hs1 : Keeps s s1 := .blockReset h
  have hs2 : Keeps s s2 := .setReg hs1
  have hsrc : Keeps s src := .setReg hs2
  exact .same hsrc (by dsimp only [State.kept])

/-! ### The functions of Sys2Proof/Machine/Errors.lean -/

theorem Keeps.retire (h : Keeps s t) {f : Nat} : Keeps s (t.retire f) :=
  .same h rfl

theorem Keeps.repoint (h : Keeps s t) {t0 f f' : Nat} : Keeps s (t.repoint t0 f f') :=
  .foldl (.foldl h fun _ _ h1 => .ite (.wrEntry h1) h1) fun _ _ h2 => .ite (.setVrec h2) h2

theorem execFrameRetire_keeps (h : Keeps s t) {die : BitVec 1} {frame : Nat} : Res.Keeps s (execFrameRetire die frame t) := by
  unfold execFrameRetire
  extract_lets f
  split
  · exact .next h
  · split
    · exact .next h
    · split
      · exact .next (.retire h)
      · split
        · exact .next h
        · split
          · exact .next h
          · rename_i _ u1 e2
            have h1 : Keeps s _ := .takeFrame h e2
            exact .next (.retire (.repoint (.wrN (.readPage h1))))

theorem Keeps.showRestart (h : Keeps s t) : Keeps s t.showRestart :=
  .setReg h

theorem Keeps.ueStop (h : Keeps s t) {die t0 : Nat} {damaged : List Nat} : Keeps s (t.ueStop die t0 damaged) := by
  unfold State.ueStop
  split
  · exact h
  · extract_lets s1
    have hs1 : Keeps s s1 := .showRestart (.updJob (.setReg h) fun _ => by rfl)
    exact .stopJob (.same hs1 (by dsimp only [State.kept]))

theorem execUeEvent_keeps (h : Keeps s t) {die : BitVec 1} {src : UeSource} : Res.Keeps s (execUeEvent die src t) := by
  unfold execUeEvent
  extract_lets d
  split
  · extract_lets f
    split
    · exact .next (.ueStop h)
    · exact .next (.retire h)
  · extract_lets s1
    have hs1 : Keeps s s1 := .same h (by dsimp only [State.kept])
    exact .next (.ite hs1 (.foldl hs1 fun _ _ h1 => .kittyReply h1))
  · exact .next (.ite h (.ueStop h))
  · exact .next (.ueStop h)
  · exact .next (.ueStop h)
  · exact .next (.ite h (.assertPackage h))
  · exact .next (.retire h)

theorem execRegisterParityError_keeps (h : Keeps s t) {c : CellRef} : Res.Keeps s (execRegisterParityError c t) :=
  .ite (.next h) (.next (.setReg (.ueEvent h)))

theorem execStopNotice_keeps (h : Keeps s t) {n : StopNote} : Res.Keeps s (execStopNotice n t) :=
  .next (.stopJob h)

theorem Keeps.restartDone {j : Job} {n : Nat} (hj : Small s j.table) (h : Keeps s t) : Keeps s (t.restartDone j n) := by
  unfold State.restartDone
  extract_lets j' s1 s2
  have hs1 : Keeps s s1 := .updTbl (.putJob h (by exact hj))
  exact .showRestart (.jobStatus (.ite hs1 (.same hs1 (by dsimp only [State.kept]))))

theorem Keeps.restartNone (h : Keeps s t) {j : Job} : Keeps s (t.restartNone j) :=
  .showRestart (.endJob (.jobStatus h))

theorem Keeps.replaceDamaged (h : Keeps s t) {j : Job} : Keeps s (t.replaceDamaged j) := by
  unfold State.replaceDamaged
  refine .foldl h fun _ _ h1 => ?_
  split
  · exact h1
  · split
    · exact .retire h1
    · rename_i _ u1 e3
      have h2 : Keeps s _ := .takeFrame h1 e3
      exact .retire (.repoint h2)

theorem Keeps.restoreGet (h : Keeps s t) {t0 va pa : Nat} : Keeps s (t.restoreGet t0 va pa) :=
  .gulSend (.same h (by dsimp only [State.kept]))

theorem Keeps.restoreGets (h : Keeps s t) {t0 : Nat} : Keeps s (t.restoreGets t0) :=
  .foldl h fun _ _ h1 => .foldl h1 fun _ _ h2 => .restoreGet h2

theorem Keeps.restored (h : Keeps s t) {j : Job} : Keeps s (t.restored j) := by
  unfold State.restored
  extract_lets t' par s1 s2
  have hs1 : Keeps s s1 := .foldl h fun _ _ h1 => .wrEntry h1
  have hs2 : Keeps s s2 := .setBoth hs1
  exact .same hs2 (by dsimp only [State.kept])

theorem Keeps.restartAt {j : Job} {p : RestartPoint} (hj : Small s j.table) (h : Keeps s t) : Keeps s (t.restartAt j p) := by
  unfold State.restartAt
  split
  · exact .restartNone h
  · extract_lets src j' s1
    have hs1 : Keeps s s1 := .showRestart (.putJob h (by exact hj))
    exact .ite (.restartDone hj hs1) hs1
  · exact .showRestart (.restoreGets (.updTbl (.updJob (.replaceDamaged h) fun _ => by rfl)))

theorem Keeps.tellPoint (h : Keeps s t) {j : Job} {p : RestartPoint} : Keeps s (t.tellPoint j p) :=
  .ite h (.same h (by dsimp only [State.kept]))

theorem Keeps.restartGoOn {j : Job} {m : RestartMsg} (hj : Small s j.table) (h : Keeps s t) : Keeps s (t.restartGoOn j m) := by
  unfold State.restartGoOn
  split
  · exact h
  · split
    · exact .restartNone h
    · split
      · exact h
      · split
        · exact .restartDone hj (.restored h)
        · exact .restartDone hj h
        · exact h

theorem execJobRestart_keeps (h : Keeps s t) {r : RestartReq} : Res.Keeps s (execJobRestart r t) := by
  unfold execJobRestart
  split
  · exact .next h
  · have hj := h.small_job ‹_›
    dsimp only
    split
    · exact .next h
    · split
      · exact .next (.restartGoOn hj h)
      · split
        · exact .next (.restartAt hj (.tellPoint h))
        · exact .next h

theorem Keeps.petted (h : Keeps s t) {core : Nat} : Keeps s (t.petted core) :=
  .same h rfl

theorem execStwWdogExpiry_keeps (h : Keeps s t) {core : Nat} : Res.Keeps s (execStwWdogExpiry core t) := by
  unfold execStwWdogExpiry
  extract_lets a s0 s1
  have hs0 : Keeps s s0 := .petted (.until h)
  have hs1 : Keeps s s1 := .dealerSees (.setReg hs0)
  exact .ite (.next h) (.ite (.next (.same hs1 (by dsimp only [State.kept]))) (.next (.setReg hs0)))

theorem execStwPet_keeps (h : Keeps s t) {core : Nat} : Res.Keeps s (execStwPet core t) :=
  .ite (.next (.setReg (.petted h))) (.next h)

/-! ### The functions of Sys2Proof/Machine/Power.lean -/

theorem execIslandClockSlew_keeps (h : Keeps s t) {isl : Nat} : Res.Keeps s (execIslandClockSlew isl t) :=
  .ite (.next (.setReg h)) (.next h)

theorem execSupplyDroop_keeps (h : Keeps s t) {isl extra : Nat} : Res.Keeps s (execSupplyDroop isl extra t) :=
  .ite (.next (.updIsl (.setReg h) fun _ => by rfl)) (.next h)

theorem Keeps.countStretch (h : Keeps s t) {i : Nat} : Keeps s (t.countStretch i) :=
  .ite (.updIsl (.setReg h) fun _ => by rfl) h

theorem execPwrCapWrite_keeps (h : Keeps s t) {value : Word} : Res.Keeps s (execPwrCapWrite value t) :=
  .next (.setReg (.setReg h))

theorem Keeps.applyThrottle (h : Keeps s t) {plain trump : Nat} : Keeps s (t.applyThrottle plain trump) :=
  .foldl h fun _ _ h1 => .setReg h1

theorem execCappingStep_keeps (h : Keeps s t) {fast slow : BitVec 16} : Res.Keeps s (execCappingStep fast slow t) := by
  unfold execCappingStep
  extract_lets lf ls hot above lower e
  split
  · extract_lets s1 full s2
    have hs1 : Keeps s s1 := .setReg (.setReg (.setReg (.setReg h)))
    have hs2 : Keeps s s2 := .foldl (.setReg hs1) fun _ _ h1 => .countStretch h1
    exact .next (.applyThrottle (.same hs2 (by dsimp only [State.kept])))

theorem Keeps.voutCommand (h : Keeps s t) {core1 : Bool} {mv : Nat} : Keeps s (t.voutCommand core1 mv) := by
  unfold State.voutCommand
  extract_lets addr s1
  have hs1 : Keeps s s1 := .same h (by dsimp only [State.kept])
  exact .ite h (.ite (.same hs1 (by dsimp only [State.kept])) (.same hs1 (by dsimp only [State.kept])))

theorem execCappingCalibration_keeps (h : Keeps s t) {r : Calibration} : Res.Keeps s (execCappingCalibration r t) := by
  unfold execCappingCalibration
  extract_lets s' s1
  have hs' : Keeps s s' := by
    dsimp only [s']
    split
    · exact .voutCommand h
    · exact h
  have hs1 : Keeps s s1 := .setReg hs'
  exact .ite (.next (.report (.setReg hs1))) (.next hs1)

theorem Keeps.shedPlain (h : Keeps s t) : Keeps s t.shedPlain :=
  .foldl h fun _ _ h1 => .evict h1

theorem execCappingEvent_keeps (h : Keeps s t) : Res.Keeps s (execCappingEvent t) := by
  unfold execCappingEvent
  split
  · exact .next h
  · extract_lets again src s1
    have hsrc : Keeps s src := .setReg h
    have hs1 : Keeps s s1 := .same hsrc (by dsimp only [State.kept])
    exact .next (.ite (.shedPlain hs1) hs1)

theorem execThrottleRequest_keeps (h : Keeps s t) {low : Bool} : Res.Keeps s (execThrottleRequest low t) := by
  unfold execThrottleRequest
  refine .next ?_
  extract_lets src
  have hsrc : Keeps s src := .setReg h
  exact .same hsrc (by dsimp only [State.kept])

theorem Keeps.alertPrune (h : Keeps s t) : Keeps s t.alertPrune :=
  .same h rfl

theorem execTemperatureThreshold_keeps (h : Keeps s t) {die : BitVec 1} {tj tdram : BitVec 12} : Res.Keeps s (execTemperatureThreshold die tj tdram t) := by
  unfold execTemperatureThreshold
  extract_lets a was hot cool alert s1 s2
  have hs1 : Keeps s s1 := .setReg (.setReg (.setReg h))
  have hs2 : Keeps s s2 := .setReg hs1
  exact .next (.alertPrune (.ite (.same hs2 (by dsimp only [State.kept])) hs2))

theorem Keeps.serdesOff (h : Keeps s t) : Keeps s t.serdesOff :=
  .setReg (.setReg (.foldl h fun _ _ h1 => .setReg h1))

theorem execThermalTrip_keeps (h : Keeps s t) {die : BitVec 1} : Res.Keeps s (execThermalTrip die t) :=
  .ite (.next (.setReg (.serdesOff (.foldl h fun _ _ h1 => .stopJob h1)))) (.next h)

/-! ### The functions of Sys2Proof/Machine/RegWrite.lean -/

theorem Keeps.writeEffect (h : Keeps s t) {a : Nat} {old v : Word} : Keeps s (t.writeEffect a old v) := by
  unfold State.writeEffect
  split
  · exact .ite (.fenceIsl h) h
  · exact .ite (.updCell h) h
  · exact .ite (.ite (.setReg h) (.ite h (.setReg h))) h
  · exact .ite (.ite (.setReg h) (.ite h (.setReg h))) h
  · exact .ite (.alertPrune h) (.ite (.same h (by dsimp only [State.kept])) h)
  · exact h

theorem Keeps.writeReg (h : Keeps s t) {a : Nat} {v : Word} : Keeps s (t.writeReg a v) := by
  unfold State.writeReg
  extract_lets b
  split
  · exact h
  · exact .ite h (.noteMelds (.writeEffect (.setReg h)))

theorem execPinTraceWrite_keeps (h : Keeps s t) {word : Word} : Res.Keeps s (execPinTraceWrite word t) :=
  .ite (.next (.setReg h)) (.next (.same h (by dsimp only [State.kept])))

/-! ### The functions of Sys2Proof/Machine/Reset.lean -/

theorem execPowerOn_keeps (h : Keeps s t) : Res.Keeps s (execPowerOn t) :=
  .next (.assertPackage h)

theorem execBrownOut_keeps (h : Keeps s t) : Res.Keeps s (execBrownOut t) :=
  .next (.assertPackage h)

theorem execPinReset_keeps (h : Keeps s t) : Res.Keeps s (execPinReset t) :=
  .ite (.next h) (.next (.assertPackage h))

theorem execClockFailure_keeps (h : Keeps s t) : Res.Keeps s (execClockFailure t) :=
  .next (.assertPackage h)

theorem Keeps.coreSource (h : Keeps s t) {src : RstSource} {core : Nat} : Keeps s (t.coreSource src core) := by
  unfold State.coreSource
  extract_lets lvl src
  have hsrc : Keeps s src := .setReg h
  exact .ite (.assertPackage h) (.ite h (.same hsrc (by dsimp only [State.kept])))

theorem execWatchdog_keeps (h : Keeps s t) {core : Nat} : Res.Keeps s (execWatchdog core t) :=
  .ite (.next (.coreSource h)) (.next h)

theorem execLockUp_keeps (h : Keeps s t) {core : Nat} : Res.Keeps s (execLockUp core t) :=
  .ite (.next (.coreSource h)) (.next h)

theorem execCoreDrainTimeout_keeps (h : Keeps s t) {core : Nat} {drained : Bool} : Res.Keeps s (execCoreDrainTimeout core drained t) := by
  unfold execCoreDrainTimeout
  split
  · exact .next h
  · extract_lets s1
    have hs1 : Keeps s s1 := .same h (by dsimp only [State.kept])
    exact .ite (.next (.assertBlock hs1)) (.next (.assertPackage hs1))

theorem execRstReq_keeps (h : Keeps s t) {kind : Bool} {die : BitVec 1} {index : BitVec 7} : Res.Keeps s (execRstReq kind die index t) :=
  .next (.request h)

theorem execDebugRequest_keeps (h : Keeps s t) {kind : Bool} {die : BitVec 1} {index : BitVec 7} : Res.Keeps s (execDebugRequest kind die index t) :=
  .ite (.next (.request h)) (.next h)

theorem execSourceRelease_keeps (h : Keeps s t) {src : RstSource} : Res.Keeps s (execSourceRelease src t) := by
  unfold execSourceRelease
  extract_lets s1
  have hs1 : Keeps s s1 := .same h (by dsimp only [State.kept])
  split
  · exact .next hs1
  · exact .next (.same hs1 (by dsimp only [State.kept]))

theorem execEpisodeMinimumEnd_keeps (h : Keeps s t) : Res.Keeps s (execEpisodeMinimumEnd t) := by
  unfold execEpisodeMinimumEnd
  split
  · split
    · refine .next ?_
      extract_lets src
      have hsrc : Keeps s src := .until h
      exact .same hsrc (by dsimp only [State.kept])
    · exact .next h
  · split
    · exact .next h
    · refine .next ?_
      extract_lets src
      have hsrc : Keeps s src := .until h
      exact .same hsrc (by dsimp only [State.kept])

theorem execResetNSample_keeps (h : Keeps s t) {low : Bool} : Res.Keeps s (execResetNSample low t) := by
  unfold execResetNSample
  split
  · exact .next h
  · split
    · exact .next h
    · extract_lets s1
      have hs1 : Keeps s s1 := .advance h
      exact .ite (.next (.assertPackage hs1)) (.next (.same hs1 (by dsimp only [State.kept])))

theorem execEpisodeRelease_keeps (h : Keeps s t) : Res.Keeps s (execEpisodeRelease t) := by
  unfold execEpisodeRelease
  split
  · exact .ite (.next (.releasePackage h)) (.next h)
  · split
    · exact .next (.releaseBlock h)
    · exact .next h

theorem Keeps.setRef (h : Keeps s t) {ref ok : Bool} : Keeps s (t.setRef ref ok) :=
  .setReg (.setReg h)

theorem execReferenceClockPresence_keeps (h : Keeps s t) {ref present : Bool} : Res.Keeps s (execReferenceClockPresence ref present t) :=
  .ite (.next h) (.next (.setRef h))

theorem execClkFailover_keeps (h : Keeps s t) : Res.Keeps s (execClkFailover t) :=
  .ite (.next h) (.next (.report (.setReg (.setReg (.setReg (.setReg (.setRef h)))))))

/-! ### The functions of Sys2Proof/Machine/Streams.lean -/

theorem Keeps.holdCell (h : Keeps s t) {k : CellRef} : Keeps s (t.holdCell k) :=
  .updCell h

theorem Keeps.holdIsl (h : Keeps s t) {i : Nat} : Keeps s (t.holdIsl i) :=
  .updIsl h fun _ => by rfl

theorem Isl.debit_table (i : Isl) (cls : Nat) : (i.debit cls).table = i.table := by
  unfold Isl.debit
  split
  · rfl
  · split <;> rfl

theorem Keeps.debit (h : Keeps s t) {k : CellRef} {e cls : Nat} : Keeps s (t.debit k e cls) :=
  .updIsl (.updCell (.holdIsl (.holdCell h))) fun x => x.debit_table cls

theorem execDamperWindow_keeps (h : Keeps s t) {isl : Nat} : Res.Keeps s (execDamperWindow isl t) :=
  .ite (.next h) (.next (.foldl (.holdIsl (.setReg (.ite h (.passHeld h)))) fun _ _ h1 => .holdCell h1))

theorem Keeps.halt (h : Keeps s t) {k : CellRef} {e b va : Nat} : Keeps s (t.halt k e b va) :=
  .raise (.updCell h)

theorem Keeps.refuseWalk (h : Keeps s t) {k : CellRef} {e : Nat} {code : Code} : Keeps s (t.refuseWalk k e code) :=
  .raise (.updCell h)

theorem Keeps.dampHold (h : Keeps s t) {k : CellRef} {e cls : Nat} : Keeps s (t.dampHold k e cls) :=
  .updIsl h fun x => by split <;> rfl

theorem Keeps.requestRuns (h : Keeps s t) {k : CellRef} {e b : Nat} {rs : List (Nat × Nat × ByteTo)} : Keeps s (t.requestRuns k e b rs) := by
  unfold State.requestRuns
  extract_lets t'
  refine .foldl h fun _ _ h1 => ?_
  split
  · extract_lets ask
    split
    · split
      · split
        · rename_i u0 _ e3
          have h2 : Keeps s _ := .of_fst e3 (.readRange h1)
          exact .ite (.deliverReply h2) h2
      · exact .sendMem h1
    · exact .sendMem h1
  · exact h1

theorem Keeps.learnBeat (h : Keeps s t) {isl t0 : Nat} {l : List (Nat × Nat)} : Keeps s (t.learnBeat isl t0 l) :=
  .foldl h fun _ _ h1 => .learn h1

theorem Keeps.beatRequest (h : Keeps s t) {k : CellRef} {e : Nat} : Keeps s (t.beatRequest k e) := by
  unfold State.beatRequest
  extract_lets c x t' bs s'
  have hs' : Keeps s s' := .learnBeat h
  split
  · exact h
  · split
    · exact .halt hs'
    · exact .refuseWalk hs'
    · exact hs'
    · exact .ite (.dampHold hs') (.requestRuns (.updCell (.debit hs')))

theorem Keeps.beatLand (h : Keeps s t) {k : CellRef} {e : Nat} : Keeps s (t.beatLand k e) := by
  unfold State.beatLand
  extract_lets c x d
  split
  · exact h
  · extract_lets upd ring x1 s1
    have hs1 : Keeps s s1 := .updCell h
    split
    · exact .updCell h
    · split
      · exact hs1
      · exact .sramLane hs1

theorem Keeps.writeRuns (h : Keeps s t) {k : CellRef} {e b : Nat} {bs : List Byte} {rs : List (Nat × Nat × ByteTo)} : Keeps s (t.writeRuns k e b bs rs) := by
  unfold State.writeRuns
  extract_lets t'
  refine .foldl h fun _ _ h1 => ?_
  extract_lets data ask
  split
  · split
    · exact .ite (.deliverReply (.sramLane h1)) (.sendMem h1)
    · exact .sendMem h1
  · exact .deliverReply (.inject h1)

theorem Keeps.dropBeat (h : Keeps s t) {k : CellRef} {e idx : Nat} : Keeps s (t.dropBeat k e idx) :=
  .updCell h

theorem Keeps.beatWrite (h : Keeps s t) {k : CellRef} {e : Nat} : Keeps s (t.beatWrite k e) := by
  unfold State.beatWrite
  extract_lets c x t' d
  split
  · exact h
  · split
    · exact h
    · extract_lets s'
      have hs' : Keeps s s' := .learnBeat h
      split
      · exact .ite (.dropBeat hs') (.halt hs')
      · exact .refuseWalk hs'
      · exact .startVersion hs'
      · exact .ite (.dampHold hs') (.writeRuns (.updCell (.debit hs')))

theorem Keeps.writeDone (h : Keeps s t) {k : CellRef} {e : Nat} : Keeps s (t.writeDone k e) := by
  unfold State.writeDone
  extract_lets x
  split
  · exact h
  · exact .updCell h

theorem execStreamBeatRequest_keeps (h : Keeps s t) {c : CellRef} {e : BitVec 2} : Res.Keeps s (execStreamBeatRequest c e t) :=
  .ite (.next (.beatRequest h)) (.next h)

theorem execStreamBeatWrite_keeps (h : Keeps s t) {c : CellRef} {e : BitVec 2} : Res.Keeps s (execStreamBeatWrite c e t) :=
  .ite (.next (.beatWrite h)) (.next h)

theorem execStreamBeatLand_keeps (h : Keeps s t) {c : CellRef} {e : BitVec 2} : Res.Keeps s (execStreamBeatLand c e t) :=
  .ite (.next (.beatLand h)) (.next h)

theorem execStreamWriteDone_keeps (h : Keeps s t) {c : CellRef} {e : BitVec 2} : Res.Keeps s (execStreamWriteDone c e t) :=
  .ite (.next (.writeDone h)) (.next h)

theorem execStreamStopDone_keeps (h : Keeps s t) {c : CellRef} {e : BitVec 2} : Res.Keeps s (execStreamStopDone c e t) :=
  .ite (.next (.updCell h)) (.next h)

theorem execStreamResume_keeps (h : Keeps s t) {c : CellRef} {e : BitVec 2} : Res.Keeps s (execStreamResume c e t) :=
  .ite (.next (.ite (.beatWrite (.updCell h)) (.beatRequest (.updCell h)))) (.next h)

theorem execCellSresumeWrite_keeps (h : Keeps s t) {c : CellRef} {engines : BitVec 4} : Res.Keeps s (execCellSresumeWrite c engines t) :=
  .next (.foldl h fun _ _ h1 => .ite (.updCell h1) h1)

/-! ### The functions of Sys2Proof/Machine/MeldUnit.lean -/

theorem execMeldOpen_keeps (h : Keeps s t) {die : BitVec 1} {t0 : BitVec 8} : Res.Keeps s (execMeldOpen die t0 t) :=
  .ite (.next h) (.next (.setMeld (.setReg h)))

theorem execMeldStage_keeps (h : Keeps s t) {die : BitVec 1} {value : Word} : Res.Keeps s (execMeldStage die value t) := by
  unfold execMeldStage
  extract_lets d m a l
  exact .ite (.next h) (.ite (.next (.setMeldState (.setReg h))) (.next (.setMeldState (.setReg (.setMeld h)))))

theorem execMeldCheck_keeps (h : Keeps s t) {die : BitVec 1} : Res.Keeps s (execMeldCheck die t) := by
  unfold execMeldCheck
  extract_lets d m
  split
  · exact .next (.meldFail h)
  · split
    · exact .next (.setMeldState (.meldFail h))
    · split
      · exact .next (.setMeldState (.meldFail h))
      · exact .next (.setMeld (.setReg (.meldFail h)))

theorem Keeps.applyEntry (h : Keeps s t) {a : Nat} {v : Word} : Keeps s (t.applyEntry a v) := by
  unfold State.applyEntry
  split
  · exact .fenceIsl (.setReg h)
  · exact .setReg h
  · exact .setReg (.holdCell h)
  · exact .setReg (.holdIsl h)
  · exact .setReg h
  · exact h

theorem Keeps.closeMeld (h : Keeps s t) {d : Nat} : Keeps s (t.closeMeld d) :=
  .setReg (.setReg (.setMeld h))

theorem Keeps.applyMeld (h : Keeps s t) {d : Nat} : Keeps s (t.applyMeld d) := by
  unfold State.applyMeld
  extract_lets m s1 s2
  have hs1 : Keeps s s1 := .dealerSees h
  have hs2 : Keeps s s2 := .ite (.dealerSees hs1) hs1
  exact .noteMelds (.closeMeld (.foldl hs2 fun _ _ h1 => .applyEntry h1))

theorem execMeldApply_keeps (h : Keeps s t) {die : BitVec 1} : Res.Keeps s (execMeldApply die t) := by
  unfold execMeldApply
  extract_lets d m st
  exact .ite (.next (.meldFail h)) (.ite (.ite (.next h) (.next (.applyMeld h))) (.ite (.next (.setMeldState (.setReg (.meldFail h)))) (.ite (.next (.setMeldState h)) (.next (.applyMeld h)))))

theorem execMeldAbort_keeps (h : Keeps s t) {die : BitVec 1} : Res.Keeps s (execMeldAbort die t) :=
  .ite (.next h) (.next (.closeMeld h))

/-! ### The functions of Sys2Proof/Machine/Scan.lean -/

theorem Keeps.scanOutCell (h : Keeps s t) {k : CellRef} {at_ : Nat} : Keeps s (t.scanOutCell k at_) := by
  unfold State.scanOutCell
  extract_lets c s1 s2 s3 s4 s5 s6 save
  have hs1 : Keeps s s1 := .wrN h
  have hs2 : Keeps s s2 := .wrN hs1
  have hs3 : Keeps s s3 := .wrN (.wrN hs2)
  have hs4 : Keeps s s4 := .wrN (.wrN hs3)
  have hs5 : Keeps s s5 := .foldl hs4 fun _ _ h1 => .wrN h1
  have hs6 : Keeps s s6 := .wrN (.wrN hs5)
  exact .same hs6 (by dsimp only [State.kept])

theorem Keeps.scanOutIsl (h : Keeps s t) {i at_ : Nat} : Keeps s (t.scanOutIsl i at_) := by
  unfold State.scanOutIsl
  extract_lets s1 s2
  have hs1 : Keeps s s1 := .foldl h fun _ _ h1 => .scanOutCell h1
  have hs2 : Keeps s s2 := .foldl hs1 fun _ _ h2 => .wrN h2
  refine .foldl hs2 fun _ _ h3 => ?_
  split
  · exact .wrN h3
  · exact h3

theorem Keeps.foldl_snd {α β : Type} {f : α × State → β → α × State} {l : List β} {p : α × State} (h : Keeps s p.2)
    (hf : ∀ q x, Keeps s q.2 → Keeps s (f q x).2) : Keeps s (l.foldl f p).2 := by
  induction l generalizing p with
  | nil => exact h
  | cons x l ih => exact ih (hf _ _ h)

theorem Keeps.scanLoops (h : Keeps s t) {w : Word} : Keeps s (t.scanLoops w).2 :=
  .foldl_snd h fun _ _ h1 => by
    split
    · exact .fresh (.fresh h1)
    · exact h1

theorem Keeps.scanInCell (h : Keeps s t) {k : CellRef} {a : Nat} : Keeps s (t.scanInCell k a) := by
  have h1 (p : Prop) [Decidable p] (l : List Loop) (w : Word) : Keeps s (if p then (l, t) else t.scanLoops w).2 := by
    split
    · exact h
    · exact .scanLoops h
  exact .foldl (.setCell (h1 _ _ _)) fun _ _ h2 => .setReg h2

theorem Keeps.scanInIsl (h : Keeps s t) {i at_ : Nat} : Keeps s (t.scanInIsl i at_) := by
  unfold State.scanInIsl
  extract_lets s1 s2
  have hs1 : Keeps s s1 := .foldl h fun _ _ h1 => .scanInCell h1
  have hs2 : Keeps s s2 := .foldl hs1 fun _ _ h2 => .setReg h2
  refine .foldl hs2 fun _ _ h3 => ?_
  split
  · exact .ite (.setFlight (.setFifo h3)) h3
  · exact h3

theorem Keeps.scanReq (h : Keeps s t) {t0 : Nat} {allowed dir : Bool} : Keeps s (t.scanReq t0 allowed dir) :=
  .ite h (.ite (.setRes h) (.updTbl (.setRes h)))

theorem execTblReqScanOut_keeps (h : Keeps s t) {t0 : Nat} : Res.Keeps s (execTblReqScanOut t0 t) :=
  .next (.scanReq h)

theorem execTblReqScanIn_keeps (h : Keeps s t) {t0 : Nat} : Res.Keeps s (execTblReqScanIn t0 t) :=
  .next (.scanReq h)

theorem execStateScanDone_keeps (h : Keeps s t) {t0 : Nat} : Res.Keeps s (execStateScanDone t0 t) := by
  unfold execStateScanDone
  extract_lets isls base go bad done
  split
  · exact .next h
  · extract_lets s0
    have hs0 : Keeps s s0 := .ite (.readBlocks h) h
    exact .ite (.next (.updTbl (.setRes hs0))) (.ite (.next (.updTbl (.setRes (.noteMelds (.setTstate (.foldl hs0 fun _ _ h1 => .scanInIsl h1)))))) (.next (.updTbl (.setRes (.foldl hs0 fun _ _ h2 => .scanOutIsl h2)))))

theorem execTblReqResume_keeps (h : Keeps s t) {t0 : Nat} : Res.Keeps s (execTblReqResume t0 t) :=
  .ite (.next h) (.ite (.next (.setRes h)) (.next (.homeSees (.setTstate (.setRes (.ite (.startCmd h) (.updTbl h)))))))

/-! ### The functions of Sys2Proof/Machine/BusWrite.lean -/

theorem Keeps.stateAfter {r : Res} (h : Res.Keeps s r) : Keeps s (stateAfter t r) := by
  obtain ⟨u, rfl, hu⟩ := h
  exact hu

theorem tblReqWrite_keeps (h : Keeps s t) {t0 : Nat} {v : Word} : Res.Keeps s (tblReqWrite t0 v t) := by
  unfold tblReqWrite
  split
  · exact execTblReqDeal_keeps h
  · exact execTblReqCommit_keeps h
  · exact execTblReqKill_keeps h
  · exact execTblReqCancel_keeps h
  · exact execTblReqScanOut_keeps h
  · exact execTblReqScanIn_keeps h
  · exact execTblReqResume_keeps h
  · exact .next h

theorem meldCtlWrite_keeps (h : Keeps s t) {die : BitVec 1} {v : Word} : Res.Keeps s (meldCtlWrite die v t) := by
  unfold meldCtlWrite
  split
  · exact execMeldOpen_keeps h
  · exact execMeldCheck_keeps h
  · exact execMeldApply_keeps h
  · exact execMeldAbort_keeps h
  · exact .next h

theorem syncPidWrite_keeps (h : Keeps s t) {core : Nat} {v : Word} : Res.Keeps s (syncPidWrite core v t) := by
  unfold syncPidWrite
  split
  · exact execStewardFeld_keeps h
  · exact execStewardFest_keeps h
  · exact execStewardRound_keeps h
  · exact execStewardChannelSend_keeps h

theorem gulQopWrite_keeps (h : Keeps s t) {core : Nat} {v : Word} : Res.Keeps s (gulQopWrite core v t) := by
  unfold gulQopWrite
  extract_lets t' sid
  split
  · exact execGulQopRead_keeps h
  · exact execGulQopWrite_keeps h
  · exact execGulQopCollective_keeps h
  · exact .next h

theorem mbxWrite_keeps (h : Keeps s t) {die : BitVec 1} {o : Nat} {v : Word} : Res.Keeps s (mbxWrite die o v t) :=
  .ite (execMbxRing_keeps h) (.ite (execMbxBellClear_keeps h) (.ite (execMbxDataWrite_keeps h) (.ite (execMbxTake_keeps (.writeReg h)) (.next (.writeReg h)))))

/-- The outcome of an action, where there is one. -/
def Res.KeepsIn (s : State) (o : Option Res) : Prop := ∀ r, o = some r → Res.Keeps s r

theorem Res.KeepsIn.none : Res.KeepsIn s none := fun _ e => nomatch e

theorem Res.KeepsIn.some {r : Res} (h : Res.Keeps s r) : Res.KeepsIn s (some r) := fun _ e => Option.some.inj e ▸ h

theorem Res.KeepsIn.ite {p : Prop} [Decidable p] {a b : Option Res} (h1 : Res.KeepsIn s a) (h2 : Res.KeepsIn s b) :
    Res.KeepsIn s (if p then a else b) := by
  split
  · exact h1
  · exact h2

theorem actionWrite_keeps (h : Keeps s t) {a : Nat} {v : Word} : Res.KeepsIn s (actionWrite a v t) := by
  unfold actionWrite
  split
  · exact .ite (.some (execCellSresumeWrite_keeps h)) .none
  · dsimp only
    split
    · exact .ite (.some (execMmuInv_keeps h)) (.ite (.some (execMmuPoolPush_keeps h)) (.ite (.some (execRakeCfgWrite_keeps h))
        (.ite (.some (execRakeRateWrite_keeps h)) .none)))
    · exact .ite (.some (execSyncInv_keeps h)) (.ite (.some (syncPidWrite_keeps h)) .none)
    · exact .some (mbxWrite_keeps h)
    · exact .ite (.some (execChnPosHeadWrite_keeps h)) .none
    · exact .ite (.some (tblReqWrite_keeps h)) .none
    · exact .ite (.some (meldCtlWrite_keeps h)) (.ite (.some (execMeldStage_keeps h)) .none)
    · exact .ite (.some (execGulRselWrite_keeps h)) (.ite (.some (execGtimeStep_keeps h.writeReg)) (.ite (.some (gulQopWrite_keeps h)) .none))
    · exact .ite (.some (.ite (execRstReq_keeps h) (.next h))) (.ite (.some (execPwrCapWrite_keeps h)) .none)
    · exact .ite (.some (.ite (execStwPet_keeps h) (.next h))) .none
    · exact .ite (.some (execPinTraceWrite_keeps h)) .none
    · exact .none
  · exact .none

theorem Keeps.busWrite (h : Keeps s t) {a : Nat} {v : Word} : Keeps s (t.busWrite a v) := by
  unfold State.busWrite
  split
  · exact h
  · split
    · rename_i r e
      exact .stateAfter (actionWrite_keeps h r e)
    · exact .writeReg h

theorem execRegisterWrite_keeps (h : Keeps s t) {addr : Nat} {value : Word} : Res.Keeps s (execRegisterWrite addr value t) :=
  .next (.busWrite h)

/-! ### The functions of Sys2Proof/Machine/EthUnit.lean -/

theorem Keeps.tuDatagram (h : Keeps s t) {h0 : Hdr} {d : List Byte} : Keeps s (t.tuDatagram h0 d) := by
  unfold State.tuDatagram
  extract_lets n frag idx last s1
  have hs1 : Keeps s s1 := .updSess h
  split
  · split
    · exact .hostMsg hs1
    · exact hs1
  · exact .updSess hs1

theorem Keeps.tuReceive (h : Keeps s t) {port : BitVec 1} {g : Datagram} : Keeps s (t.tuReceive port g) := by
  unfold State.tuReceive
  extract_lets d h'
  split
  · exact .tuDrop h
  · split
    · exact h
    · split
      · exact .tuDrop h
      · exact .ite (.tuDatagram h) h

theorem execEthFrameReceive_keeps (h : Keeps s t) {port : BitVec 1} {bytes : List Byte} : Res.Keeps s (execEthFrameReceive port bytes t) := by
  unfold execEthFrameReceive
  extract_lets n b
  split
  · exact .next h
  · split
    · exact .next (.setReg h)
    · split
      · split
        · exact .ite (.next (.tuReceive h)) (.next h)
        · exact .next h

theorem execArpRequest_keeps (h : Keeps s t) {port : BitVec 1} {target sender : BitVec 32} {_mac : BitVec 48} : Res.Keeps s (execArpRequest port target sender _mac t) :=
  .ite (.next (.same h (by dsimp only [State.kept]))) (.next h)

theorem execNeighbourSolicitation_keeps (h : Keeps s t) {port : BitVec 1} {target sender : BitVec 128} : Res.Keeps s (execNeighbourSolicitation port target sender t) :=
  .ite (.next (.same h (by dsimp only [State.kept]))) (.next h)

theorem execIcmpEcho_keeps (h : Keeps s t) {port : BitVec 1} {v6 : Bool} {dst src : BitVec 128} {payload : List Byte} : Res.Keeps s (execIcmpEcho port v6 dst src payload t) :=
  .ite (.next (.same h (by dsimp only [State.kept]))) (.next h)

theorem execPfcPause_keeps (h : Keeps s t) {port : BitVec 1} {prio : BitVec 3} {stop : Bool} : Res.Keeps s (execPfcPause port prio stop t) :=
  .ite (.next h) (.next (.same h (by dsimp only [State.kept])))

theorem Keeps.updQp (h : Keeps s t) {port : BitVec 1} {qpn : BitVec 32} {f : Qp → Qp} : Keeps s (t.updQp port qpn f) :=
  .same h rfl

theorem Keeps.ceMark (h : Keeps s t) {port : BitVec 1} {q : Qp} : Keeps s (t.ceMark port q) := by
  unfold State.ceMark
  extract_lets due s1
  have hs1 : Keeps s s1 := .setReg (.updQp h)
  exact .ite (.same hs1 (by dsimp only [State.kept])) h

theorem execCnpReceive_keeps (h : Keeps s t) {port : BitVec 1} {qpn : BitVec 32} : Res.Keeps s (execCnpReceive port qpn t) :=
  .ite (.next (.updQp h)) (.next h)

theorem execRoceRateRise_keeps (h : Keeps s t) {port : BitVec 1} {qpn : BitVec 32} : Res.Keeps s (execRoceRateRise port qpn t) :=
  .next (.updQp h)

theorem Keeps.rdmaAnswer (h : Keeps s t) {q : Qp} {a : RdmaAns} : Keeps s (t.rdmaAnswer q a) :=
  .same h rfl

theorem Keeps.rdmaDenied (h : Keeps s t) {port : BitVec 1} {q : Qp} : Keeps s (t.rdmaDenied port q) :=
  .rdmaAnswer (.updQp h)

theorem Keeps.rdmaLand (h : Keeps s t) {port : BitVec 1} {q : Qp} {w : Wndw} {va : Nat} {data : List Byte} : Keeps s (t.rdmaLand port q w va data) := by
  unfold State.rdmaLand
  split
  · exact .rdmaAnswer (.same h (by dsimp only [State.kept]))
  · split
    · rename_i u0 e2
      have h1 : Keeps s _ := .of_fst e2 (.landVA h)
      exact .rdmaAnswer h1
    · rename_i u0 e4
      have h3 : Keeps s _ := .of_fst e4 (.landVA h)
      exact h
    · rename_i u0 _ e6
      have h5 : Keeps s _ := .of_fst e6 (.landVA h)
      exact .ite (.rdmaAnswer h5) (.rdmaDenied h)
    · rename_i u0 e8
      have h7 : Keeps s _ := .of_fst e8 (.landVA h)
      exact .rdmaDenied h

theorem execRdmaWrite_keeps (h : Keeps s t) {port : BitVec 1} {qpn rkey : BitVec 32} {va : Nat} {data : List Byte} {ce : Bool} : Res.Keeps s (execRdmaWrite port qpn rkey va data ce t) := by
  unfold execRdmaWrite
  split
  · exact .next h
  · split
    · exact .next h
    · extract_lets s1
      have hs1 : Keeps s s1 := .ite (.ceMark h) h
      split
      · exact .next (.rdmaDenied hs1)
      · exact .ite (.next (.rdmaAnswer hs1)) (.next (.rdmaLand hs1))

theorem execRdmaRead_keeps (h : Keeps s t) {port : BitVec 1} {qpn rkey : BitVec 32} {va len : Nat} {ce : Bool} : Res.Keeps s (execRdmaRead port qpn rkey va len ce t) := by
  unfold execRdmaRead
  split
  · exact .next h
  · split
    · exact .next h
    · extract_lets s1
      have hs1 : Keeps s s1 := .ite (.ceMark h) h
      split
      · exact .next (.rdmaDenied hs1)
      · split
        · exact .next (.rdmaAnswer hs1)
        · split
          · rename_i u0 _ e2
            have h1 : Keeps s _ := .of_fst e2 (.takeVA hs1)
            exact .next (.rdmaAnswer h1)
          · rename_i u0 _ e4
            have h3 : Keeps s _ := .of_fst e4 (.takeVA hs1)
            exact .next (.rdmaAnswer h3)

theorem execEthernetPortTrained_keeps (h : Keeps s t) {port : BitVec 1} {rate : BitVec 2} : Res.Keeps s (execEthernetPortTrained port rate t) :=
  .ite (.next h) (.next (.setReg h))

/-! ### The functions of Sys2Proof/Machine/Fabric.lean -/

theorem Keeps.checkToken (h : Keeps s t) {k : CellRef} {cls : Nat} {t0 : Token} {u : Upset} : Keeps s (t.checkToken k cls t0 u).1 := by
  unfold State.checkToken
  extract_lets cs die
  split
  · exact .ueEvent h
  · exact h
  · exact .ceEvent h

theorem Keeps.untilUsable {k : CellRef} {p n : Nat} (h : Keeps s t) : Keeps s (t.untilUsable k p n) := by
  induction n generalizing t with
  | zero => exact h
  | succ n ih =>
    rw [State.untilUsable]
    split
    · exact .ite h (ih h.cycle)
    · exact h

theorem Keeps.insideArrive (h : Keeps s t) {k : CellRef} {w : Wire} {u : Upset} : Keeps s (t.insideArrive k w u) := by
  unfold State.insideArrive
  split
  · exact .cycle h
  · split
    · rename_i u0 _ e2
      have h1 : Keeps s _ := .of_fst e2 (.checkToken h)
      split
      · exact .updCell h1
      · split
        · rename_i u0 _ e4
          have h3 : Keeps s _ := .of_fst e4 (.arriveTok h1)
          exact .raiseFaults (.updCell h3)

theorem execInsideTokenArrive_keeps (h : Keeps s t) {c : CellRef} {port : BitVec 2} {upset : Upset} : Res.Keeps s (execInsideTokenArrive c port upset t) := by
  unfold execInsideTokenArrive
  split
  · exact .next h
  · extract_lets s1
    have hs1 : Keeps s s1 := .untilUsable h
    split
    · exact .ite (.next (.insideArrive hs1)) (.next hs1)
    · exact .next hs1

theorem execFifoTokenArrive_keeps (h : Keeps s t) {c : CellRef} {port : BitVec 2} {upset : Upset} : Res.Keeps s (execFifoTokenArrive c port upset t) := by
  unfold execFifoTokenArrive
  extract_lets p
  split
  · exact .next h
  · extract_lets s1
    have hs1 : Keeps s s1 := .setFlight h
    split
    · rename_i u0 _ e2
      have h1 : Keeps s _ := .of_fst e2 (.checkToken hs1)
      split
      · exact .next h1
      · exact .next (.setFifo h1)

theorem Keeps.unlessStalled {i : Nat} {f : State → State} (hf : ∀ u, Keeps s u → Keeps s (f u)) (h : Keeps s t) :
    Keeps s (t.unlessStalled i f) :=
  .ite (.raiseFaults (hf _ h)) (.cycle h)

theorem execFifoHeadDeliver_keeps (h : Keeps s t) {c : CellRef} {port : BitVec 2} : Res.Keeps s (execFifoHeadDeliver c port t) :=
  .ite (.next h) (.next (.unlessStalled (fun _ h1 => .deliverHead h1) h))

theorem execSwitchFire_keeps (h : Keeps s t) {c : CellRef} {port : BitVec 2} : Res.Keeps s (execSwitchFire c port t) :=
  .ite (.next h) (.next (.unlessStalled (fun _ h1 => .fireSwitch h1) h))

theorem execMergeFire_keeps (h : Keeps s t) {c : CellRef} {port : BitVec 2} : Res.Keeps s (execMergeFire c port t) :=
  .ite (.next h) (.next (.unlessStalled (fun _ h1 => .fireMerge h1) h))

theorem execSteerOutputDrive_keeps (h : Keeps s t) {c : CellRef} {port : BitVec 2} {unit : Bool} : Res.Keeps s (execSteerOutputDrive c port unit t) :=
  .ite (.next (.cycle h)) (.next h)

/-! ### The functions of Sys2Proof/Machine/Host.lean -/

theorem Keeps.openSession (h : Keeps s t) {h0 : Hdr} {n : Nat} {nonce : Word} {mgmt : Bool} {keepalive linger rto : Nat} : Keeps s (t.openSession h0 n nonce mgmt keepalive linger rto) := by
  unfold State.openSession
  split
  · rename_i _ u1 e2
    have h1 : Keeps s _ := .of_snd e2 (.fresh h)
    exact .resultOut (.same h1 (by dsimp only [State.kept]))

theorem execSessionOpen_keeps (h : Keeps s t) {h0 : Hdr} {nonce : Word} {mgmt : Bool} {keepalive linger rto : BitVec 16} : Res.Keeps s (execSessionOpen h0 nonce mgmt keepalive linger rto t) := by
  unfold execSessionOpen
  extract_lets refuse
  split
  · exact .next h
  · split
    · exact .next (.tuDrop h)
    · split
      · exact .next (.resultOut h)
      · split
        · exact .next (.resultOut h)
        · split
          · exact .next (.resultOut h)
          · exact .ite (.next (.resultOut h)) (.next (.openSession h))

theorem execAck_keeps (h : Keeps s t) {h0 : Hdr} : Res.Keeps s (execAck h0 t) := by
  unfold execAck
  split
  · exact .next h
  · split
    · exact .next (.tuDrop h)
    · exact .next (.hostAck (.updSess h))

theorem execDeviceAckTimer_keeps (h : Keeps s t) {session : Nat} : Res.Keeps s (execDeviceAckTimer session t) := by
  unfold execDeviceAckTimer
  split
  · exact .ite (.next (.sendAck h)) (.next h)
  · exact .next h

theorem execMessageResend_keeps (h : Keeps s t) {session : Nat} {seq : BitVec 32} : Res.Keeps s (execMessageResend session seq t) := by
  unfold execMessageResend
  split
  · exact .next h
  · split
    · exact .next h
    · extract_lets st s0 s1
      have hst : Keeps s st := .until h
      have hs0 : Keeps s s0 := .same hst (by dsimp only [State.kept])
      have hs1 : Keeps s s1 := .updSess hs0
      exact .ite (.next (.loseSession hs1)) (.next hs1)

theorem execReassemblyTimeout_keeps (h : Keeps s t) {session : Nat} {seq : BitVec 32} : Res.Keeps s (execReassemblyTimeout session seq t) := by
  unfold execReassemblyTimeout
  split
  · exact .next h
  · split
    · exact .next h
    · exact .next (.updSess (.until h))

theorem execSessionLost_keeps (h : Keeps s t) {session : Nat} : Res.Keeps s (execSessionLost session t) := by
  unfold execSessionLost
  split
  · exact .next h
  · exact .next (.loseSession (.until h))

theorem execLingerExpiry_keeps (h : Keeps s t) {job : Nat} : Res.Keeps s (execLingerExpiry job t) := by
  unfold execLingerExpiry
  split
  · exact .next h
  · exact .ite (.next h) (.next (.endJob (.until h)))

theorem execSessionClose_keeps (h : Keeps s t) {h0 : Hdr} {detach : Bool} : Res.Keeps s (execSessionClose h0 detach t) :=
  .next (.hostMsg h)

theorem execKeepalive_keeps (h : Keeps s t) {h0 : Hdr} : Res.Keeps s (execKeepalive h0 t) :=
  .next (.hostMsg h)

theorem execNetConfig_keeps (h : Keeps s t) {h0 : Hdr} {port kind index plen : BitVec 8} {addr : BitVec 128} {remove : Bool} : Res.Keeps s (execNetConfig h0 port kind index plen addr remove t) :=
  .next (.hostMsg h)

theorem execMbxWrite_keeps (h : Keeps s t) {h0 : Hdr} {die : BitVec 8} {value : Word} : Res.Keeps s (execMbxWrite h0 die value t) :=
  .next (.hostMsg h)

theorem execWindowGrant_keeps (h : Keeps s t) {h0 : Hdr} {job va len : Nat} {rd wr : Bool} {wmode : BitVec 8} : Res.Keeps s (execWindowGrant h0 job va len rd wr wmode t) :=
  .next (.hostMsg h)

theorem execWindowRevoke_keeps (h : Keeps s t) {h0 : Hdr} {window : Nat} : Res.Keeps s (execWindowRevoke h0 window t) :=
  .next (.hostMsg h)

theorem execQpCreate_keeps (h : Keeps s t) {h0 : Hdr} {hqpn hpsn : BitVec 32} {gid : BitVec 128} {pmtu : BitVec 8} : Res.Keeps s (execQpCreate h0 hqpn hpsn gid pmtu t) :=
  .next (.hostMsg h)

theorem execQpDestroy_keeps (h : Keeps s t) {h0 : Hdr} {qpn : BitVec 32} : Res.Keeps s (execQpDestroy h0 qpn t) :=
  .next (.hostMsg h)

theorem execJobAdmit_keeps (h : Keeps s t) {h0 : Hdr} {req : AdmitReq} {choice : AdmitChoice} : Res.Keeps s (execJobAdmit h0 req choice t) :=
  .next (.hostMsg h)

theorem execJobEnd_keeps (h : Keeps s t) {h0 : Hdr} {job : Nat} : Res.Keeps s (execJobEnd h0 job t) :=
  .next (.hostMsg h)

theorem execJobAttach_keeps (h : Keeps s t) {h0 : Hdr} {job : Nat} {key : Word} : Res.Keeps s (execJobAttach h0 job key t) :=
  .next (.hostMsg h)

theorem execCmdSubmit_keeps (h : Keeps s t) {h0 : Hdr} {req : CmdReq} : Res.Keeps s (execCmdSubmit h0 req t) :=
  .next (.hostMsg h)

theorem execCmdCancel_keeps (h : Keeps s t) {h0 : Hdr} {job : Nat} {tag : Word} : Res.Keeps s (execCmdCancel h0 job tag t) :=
  .next (.hostMsg h)

theorem execKeystorePut_keeps (h : Keeps s t) {h0 : Hdr} {slot : Nat} {erase : Bool} {iv : BitVec 96} {wrapped : BitVec 256} {tag : BitVec 128} : Res.Keeps s (execKeystorePut h0 slot erase iv wrapped tag t) :=
  .next (.hostMsg h)

/-! ### The functions of Sys2Proof/Machine/Memory.lean -/

theorem Keeps.serveFront (h : Keeps s t) {q here die cls : Nat} {r : MemReq} {rest : List MemReq} {u : Upset} : Keeps s (t.serveFront q here die cls r rest u) := by
  unfold State.serveFront
  extract_lets s0
  have hs0 : Keeps s s0 := .setQueue h
  split
  · split
    · rename_i u0 _ e2
      have h1 : Keeps s _ := .of_fst e2 (.writeRange hs0)
      exact .replyMem h1
  · split
    · rename_i u0 _ e4
      have h3 : Keeps s _ := .of_fst e4 (.readRange hs0)
      exact .ite (.replyMem h3) (.replyMem h3)

theorem execVaultRead_keeps (h : Keeps s t) {isl : Nat} {upset : Upset} : Res.Keeps s (execVaultRead isl upset t) := by
  unfold execVaultRead
  split
  · exact .next h
  · exact .ite (.next h) (.next (.serveFront h))

theorem execVaultWrite_keeps (h : Keeps s t) {isl : Nat} {upset : Upset} : Res.Keeps s (execVaultWrite isl upset t) := by
  unfold execVaultWrite
  split
  · exact .next h
  · exact .ite (.next (.serveFront h)) (.next h)

theorem execFarDramAccess_keeps (h : Keeps s t) {ch : Nat} {upset : Upset} : Res.Keeps s (execFarDramAccess ch upset t) := by
  unfold execFarDramAccess
  split
  · exact .next h
  · exact .next (.serveFront h)

theorem execLpddr6TrainingDone_keeps (h : Keeps s t) {n : BitVec 5} {density : BitVec 2} {ranks rate : Bool} {failed0 failed1 : BitVec 16} : Res.Keeps s (execLpddr6TrainingDone n density ranks rate failed0 failed1 t) := by
  unfold execLpddr6TrainingDone
  extract_lets use w s1
  have hs1 : Keeps s s1 := .setReg (.setReg h)
  exact .ite (.next h) (.next (.same hs1 (by dsimp only [State.kept])))

/-! ### The functions of Sys2Proof/Machine/Mesh.lean -/

theorem Keeps.hopTo (h : Keeps s t) {k dst : Nat} {p : Packet} {us : List (Nat × Upset)} : Keeps s (t.hopTo k dst p us) := by
  unfold State.hopTo
  split
  · exact h
  · exact .ite (.reach (.same h (by dsimp only [State.kept]))) h

theorem Keeps.fanOut (h : Keeps s t) {k : Nat} {p : Packet} {us : List (Nat × Upset)} : Keeps s (t.fanOut k p us) := by
  unfold State.fanOut
  extract_lets e todo p0
  split
  · exact .meshRefused (.same h (by dsimp only [State.kept]))
  · split
    · exact .ite (.same h (by dsimp only [State.kept])) h
    · extract_lets left s1
      have hs1 : Keeps s s1 := .same h (by dsimp only [State.kept])
      split
      · exact .ite (.same hs1 (by dsimp only [State.kept])) (.reach hs1)
      · exact .same hs1 (by dsimp only [State.kept])

theorem execMeshHop_keeps (h : Keeps s t) {h0 : LinkRead} : Res.Keeps s (execMeshHop h0 t) := by
  unfold execMeshHop
  split
  · exact .next h
  · split
    · exact .next h
    · split
      · exact .next (.enter h)
      · split
        · split
          · exact .ite (.next (.fanOut h)) (.next (.hopTo h))
          · exact .next (.fanOut h)
        · split
          · exact .next (.hopTo h)
          · exact .next (.meshRefused (.same h (by dsimp only [State.kept])))

theorem Keeps.takePacket (h : Keeps s t) {p : Packet} : Keeps s (t.takePacket p) := by
  unfold State.takePacket
  split
  · exact .acceptMem h
  · exact .acceptMem h
  · exact .deliverReply h
  · exact .deliverReply h
  · exact .syncArrive h
  · exact .setSync h
  · exact h

theorem execMeshPacketEject_keeps (h : Keeps s t) {k : Nat} {us : List (Nat × Upset)} : Res.Keeps s (execMeshPacketEject k us t) := by
  unfold execMeshPacketEject
  split
  · exact .next h
  · split
    · exact .next h
    · extract_lets s1
      have hs1 : Keeps s s1 := .same h (by dsimp only [State.kept])
      split
      · rename_i u0 _ e2
        have h1 : Keeps s _ := .of_fst e2 (.checkPacket hs1)
        split
        · exact .next h1
        · exact .ite (.next h) (.ite (.next (.same h1 (by dsimp only [State.kept]))) (.ite (.next (.dropSync (.setReg h1))) (.next (.takePacket h1))))

theorem Keeps.takeCopy (h : Keeps s t) {isl : Nat} {p : Packet} : Keeps s (t.takeCopy isl p) := by
  unfold State.takeCopy
  extract_lets off kc
  split
  · exact .meshRefused h
  · split
    · split
      · exact .meshRefused h
      · split
        · rename_i u0 _ e2
          have h1 : Keeps s _ := .of_fst e2 (.readRange h)
          exact .ite (.sramLane h1) h1
    · exact .ite (.meshRefused h) (.writeRange h)

theorem execMulticastWrite_keeps (h : Keeps s t) {c : LinkRead} : Res.Keeps s (execMulticastWrite c t) := by
  unfold execMulticastWrite
  split
  · exact .next h
  · split
    · exact .next h
    · split
      · rename_i u0 _ e2
        have h1 : Keeps s _ := .of_fst e2 (.checkPacket (.same h (by dsimp only [State.kept])))
        split
        · exact .next h1
        · exact .ite (.next h) (.next (.takeCopy h1))

/-! ### The functions of Sys2Proof/Machine/Pins.lean -/

theorem execSmbusRead_keeps (h : Keeps s t) {addr : Nat} {pecOk : Bool} : Res.Keeps s (execSmbusRead addr pecOk t) :=
  .ite (.next h) (.next (.same h (by dsimp only [State.kept])))

theorem execSmbusAlertResponse_keeps (h : Keeps s t) : Res.Keeps s (execSmbusAlertResponse t) :=
  .ite (.next (.same h (by dsimp only [State.kept]))) (.next h)

theorem execJtagInstruction_keeps (h : Keeps s t) {inst : JtagInst} : Res.Keeps s (execJtagInstruction inst t) := by
  unfold execJtagInstruction
  extract_lets n show_
  split
  · exact .next (.same h (by dsimp only [State.kept]))
  · exact .next h
  · exact .ite (.next (.same h (by dsimp only [State.kept]))) (.next h)
  · exact .ite (.next (.same h (by dsimp only [State.kept]))) (.next h)
  · exact .ite (.next (.same h (by dsimp only [State.kept]))) (.next h)
  · exact .ite (.next (.same h (by dsimp only [State.kept]))) (.next h)
  · exact .ite (.next (.same h (by dsimp only [State.kept]))) (.next h)
  · exact .ite (.next (.busWrite h)) (.next h)
  · exact .ite (.next (.same h (by dsimp only [State.kept]))) (.next h)

theorem execTraceWordSent_keeps (h : Keeps s t) : Res.Keeps s (execTraceWordSent t) := by
  unfold execTraceWordSent
  split
  · exact .next h
  · exact .ite (.next (.same h (by dsimp only [State.kept]))) (.next h)

/-! ### The functions of Sys2Proof/Machine/SFamily.lean -/

theorem execPcOverrun_keeps (h : Keeps s t) {c : CellRef} : Res.Keeps s (execPcOverrun c t) :=
  .ite (.next (.drive h)) (.next h)

/-! ### The functions of Sys2Proof/Machine/Sieve.lean -/

theorem execSieveBeatLand_keeps (h : Keeps s t) {c : CellRef} {off : Nat} {data : List Byte} {seat : Option (BitVec 6)} {mesh : Option (Nat × BitVec 8)} : Res.Keeps s (execSieveBeatLand c off data seat mesh t) :=
  .ite (.next h) (.ite (.next (.setReg h)) (.next (.raiseFaults (.sramLand h))))

theorem execSieveFlushBeat_keeps (h : Keeps s t) {c : CellRef} : Res.Keeps s (execSieveFlushBeat c t) := by
  unfold execSieveFlushBeat
  extract_lets v
  split
  · exact .next h
  · split
    · exact .next h
    · exact .next (.updCell (.wrN h))

theorem Keeps.flushFill (h : Keeps s t) {k : CellRef} {f : Flush} : Keeps s (t.flushFill k f) := by
  unfold State.flushFill
  extract_lets r s1
  have hs1 : Keeps s s1 := .same h (by dsimp only [State.kept])
  exact .ite (.applySync hs1) (.park hs1)

theorem execSieveFlushFill_keeps (h : Keeps s t) {c : CellRef} : Res.Keeps s (execSieveFlushFill c t) := by
  unfold execSieveFlushFill
  split
  · exact .next h
  · exact .ite (.next h) (.next (.flushFill h))

/-! ### The functions of Sys2Proof/Machine/XFamily.lean -/

theorem execStallRelease_keeps (h : Keeps s t) {isl : Nat} : Res.Keeps s (execStallRelease isl t) :=
  .next (.cycle (.presentAll h))

/-! ### Commands -/

theorem exec_keeps (h : Keeps s t) (i : Instr) : Res.Keeps s (exec i t) := by
  cases i
  case nop | add | sub | and | or | xor | shl | shr | sra | minS | maxS | minu | maxu | mul | mulhu | mulh | addi |
    andi | ori | xori | shli | shri | srai | movi | shori | cmpEq | cmpNe | cmpLt | cmpGe | cmpLtu | cmpGeu | cmpiEq |
    cmpiNe | cmpiLt | cmpiGe | cmpiLtu | cmpiGeu | plogAnd | plogOr | plogXor | plogAndn | ld8 | ld16 | ld32 | ld64 |
    st8 | st16 | st32 | st64 | mfsr | mtsr | br | brr | call | ret | lsetup | lsetupr | assertP | endProg | xNop |
    xmov | xsend | xrecv | xctl | pullPoint | sdesc | sstart | sstop | swait | ldfe | ldff | ldxx | ldxe | stef | stxf |
    stxe | stff | rwait | rpass | rset | chsend | svcfg | svclr | svclrAll | svflush | mnop | mcfg | mma | mclr | mout |
    moutRaw | mmrg | vnop | vadd | vsub | vmul | vfma | vdiv | vmin | vmax | vsqrt | vrsqrt | vexp2 | vabs | vneg |
    vceq | vclt | vcle | vcun | vsel | vany | vall | vand | vor | vxor | vshl | vshr | vsra | vbcast | viota | vext |
    vrot | vcfg | vcvt | vunpk | vpack | vpot | vpota | vpotz | vpotza | vtredSum | vtredMax | vtredMin | vtredArgmax |
    vtredArgmin | vredSum | vredMax | vredMin | vredArgmax | vredArgmin | vrank | vgetf | vgetfClr =>
    exact .next (.drive h)
  case pcOverrun => exact execPcOverrun_keeps h
  case stallRelease => exact execStallRelease_keeps h
  case insideTokenArrive => exact execInsideTokenArrive_keeps h
  case fifoTokenArrive => exact execFifoTokenArrive_keeps h
  case fifoHeadDeliver => exact execFifoHeadDeliver_keeps h
  case switchFire => exact execSwitchFire_keeps h
  case mergeFire => exact execMergeFire_keeps h
  case steerOutputDrive => exact execSteerOutputDrive_keeps h
  case streamBeatRequest => exact execStreamBeatRequest_keeps h
  case streamBeatWrite => exact execStreamBeatWrite_keeps h
  case streamBeatLand => exact execStreamBeatLand_keeps h
  case streamWriteDone => exact execStreamWriteDone_keeps h
  case streamStopDone => exact execStreamStopDone_keeps h
  case streamResume => exact execStreamResume_keeps h
  case cellSresumeWrite => exact execCellSresumeWrite_keeps h
  case damperWindow => exact execDamperWindow_keeps h
  case sieveBeatLand => exact execSieveBeatLand_keeps h
  case sieveFlushBeat => exact execSieveFlushBeat_keeps h
  case sieveFlushFill => exact execSieveFlushFill_keeps h
  case meshHop => exact execMeshHop_keeps h
  case meshPacketEject => exact execMeshPacketEject_keeps h
  case multicastWrite => exact execMulticastWrite_keeps h
  case vaultRead => exact execVaultRead_keeps h
  case vaultWrite => exact execVaultWrite_keeps h
  case farDramAccess => exact execFarDramAccess_keeps h
  case versionCopyDone => exact execVersionCopyDone_keeps h
  case versionSweepDone => exact execVersionSweepDone_keeps h
  case stepCopyPage => exact execStepCopyPage_keeps h
  case stepCopyPageDone => exact execStepCopyPageDone_keeps h
  case mmuInv => exact execMmuInv_keeps h
  case mmuInvDone => exact execMmuInvDone_keeps h
  case mmuPoolPush => exact execMmuPoolPush_keeps h
  case rakeBlock => exact execRakeBlock_keeps h
  case rakeCfgWrite => exact execRakeCfgWrite_keeps h
  case rakeRateWrite => exact execRakeRateWrite_keeps h
  case syncOperation => exact execSyncOperation_keeps h
  case syncReply => exact execSyncReply_keeps h
  case syncRetry => exact execSyncRetry_keeps h
  case syncDeadline => exact execSyncDeadline_keeps h
  case dealerSatisfy => exact execDealerSatisfy_keeps h
  case dealerTimeout => exact execDealerTimeout_keeps h
  case roundRelease => exact execRoundRelease_keeps h
  case syncInv => exact execSyncInv_keeps h
  case syncInvDone => exact execSyncInvDone_keeps h
  case stewardFeld => exact execStewardFeld_keeps h
  case stewardFest => exact execStewardFest_keeps h
  case stewardRound => exact execStewardRound_keeps h
  case stewardChannelSend => exact execStewardChannelSend_keeps h
  case channelPlace => exact execChannelPlace_keeps h
  case channelPublish => exact execChannelPublish_keeps h
  case chnPosHeadWrite => exact execChnPosHeadWrite_keeps h
  case channelOpen => exact execChannelOpen_keeps h
  case channelOrphan => exact execChannelOrphan_keeps h
  case mbxDataWrite => exact execMbxDataWrite_keeps h
  case mbxTake => exact execMbxTake_keeps h
  case mbxRing => exact execMbxRing_keeps h
  case mbxBellClear => exact execMbxBellClear_keeps h
  case jobAdmit => exact execJobAdmit_keeps h
  case jobPlace => exact execJobPlace_keeps h
  case grantEnd => exact execGrantEnd_keeps h
  case cmdLimitExpiry => exact execCmdLimitExpiry_keeps h
  case islWdogExpiry => exact execIslWdogExpiry_keeps h
  case tblReqDeal => exact execTblReqDeal_keeps h
  case dealCheck => exact execDealCheck_keeps h
  case dealGo => exact execDealGo_keeps h
  case dealLoadDone => exact execDealLoadDone_keeps h
  case tblReqCommit => exact execTblReqCommit_keeps h
  case commitLocalStep => exact execCommitLocalStep_keeps h
  case tblReqKill => exact execTblReqKill_keeps h
  case killRelease => exact execKillRelease_keeps h
  case tblReqCancel => exact execTblReqCancel_keeps h
  case tblReqScanOut => exact execTblReqScanOut_keeps h
  case tblReqScanIn => exact execTblReqScanIn_keeps h
  case tblReqResume => exact execTblReqResume_keeps h
  case meldOpen => exact execMeldOpen_keeps h
  case meldStage => exact execMeldStage_keeps h
  case meldCheck => exact execMeldCheck_keeps h
  case meldApply => exact execMeldApply_keeps h
  case meldAbort => exact execMeldAbort_keeps h
  case gulFrameReceive => exact execGulFrameReceive_keeps h
  case gulAckTimeout => exact execGulAckTimeout_keeps h
  case gulPacketRoute => exact execGulPacketRoute_keeps h
  case gulRemoteAdmit => exact execGulRemoteAdmit_keeps h
  case gulRemoteWrite => exact execGulRemoteWrite_keeps h
  case gulRemoteRead => exact execGulRemoteRead_keeps h
  case gulRetryResend => exact execGulRetryResend_keeps h
  case gulQopRead => exact execGulQopRead_keeps h
  case gulQopWrite => exact execGulQopWrite_keeps h
  case gulQopCollective => exact execGulQopCollective_keeps h
  case gulQopDone => exact execGulQopDone_keeps h
  case collectiveUnitCombine => exact execCollectiveUnitCombine_keeps h
  case commandStart => exact execCommandStart_keeps h
  case prepareMsg => exact execPrepareMsg_keeps h
  case readyMsg => exact execReadyMsg_keeps h
  case commitMsg => exact execCommitMsg_keeps h
  case abortMsg => exact execAbortMsg_keeps h
  case killreq => exact execKillreq_keeps h
  case doneMsg => exact execDoneMsg_keeps h
  case decideTimeout => exact execDecideTimeout_keeps h
  case kittyPut => exact execKittyPut_keeps h
  case kittySeal => exact execKittySeal_keeps h
  case kittyGet => exact execKittyGet_keeps h
  case gulRselWrite => exact execGulRselWrite_keeps h
  case routeHoldRelease => exact execRouteHoldRelease_keeps h
  case timeExchange => exact execTimeExchange_keeps h
  case gtimeStep => exact execGtimeStep_keeps h
  case ethFrameReceive => exact execEthFrameReceive_keeps h
  case pfcPause => exact execPfcPause_keeps h
  case arpRequest _ _ _ mac => exact execArpRequest_keeps (_mac := mac) h
  case neighbourSolicitation => exact execNeighbourSolicitation_keeps h
  case icmpEcho => exact execIcmpEcho_keeps h
  case reassemblyTimeout => exact execReassemblyTimeout_keeps h
  case ack => exact execAck_keeps h
  case deviceAckTimer => exact execDeviceAckTimer_keeps h
  case messageResend => exact execMessageResend_keeps h
  case sessionOpen => exact execSessionOpen_keeps h
  case sessionClose => exact execSessionClose_keeps h
  case keepalive => exact execKeepalive_keeps h
  case sessionLost => exact execSessionLost_keeps h
  case lingerExpiry => exact execLingerExpiry_keeps h
  case netConfig => exact execNetConfig_keeps h
  case mbxWrite => exact execMbxWrite_keeps h
  case windowGrant => exact execWindowGrant_keeps h
  case windowRevoke => exact execWindowRevoke_keeps h
  case qpCreate => exact execQpCreate_keeps h
  case qpDestroy => exact execQpDestroy_keeps h
  case jobEnd => exact execJobEnd_keeps h
  case jobAttach => exact execJobAttach_keeps h
  case cmdSubmit => exact execCmdSubmit_keeps h
  case cmdCancel => exact execCmdCancel_keeps h
  case rdmaWrite => exact execRdmaWrite_keeps h
  case rdmaRead => exact execRdmaRead_keeps h
  case cnpReceive => exact execCnpReceive_keeps h
  case roceRateRise => exact execRoceRateRise_keeps h
  case kindlingEntry => exact execKindlingEntry_keeps h
  case announce => exact execAnnounce_keeps h
  case loadOffer => exact execLoadOffer_keeps h
  case loadData => exact execLoadData_keeps h
  case loadEnd => exact execLoadEnd_keeps h
  case loadChecksDone => exact execLoadChecksDone_keeps h
  case loadDeadline => exact execLoadDeadline_keeps h
  case identity => exact execIdentity_keeps h
  case attest => exact execAttest_keeps h
  case keystorePut => exact execKeystorePut_keeps h
  case powerOn => exact execPowerOn_keeps h
  case brownOut => exact execBrownOut_keeps h
  case pinReset => exact execPinReset_keeps h
  case watchdog => exact execWatchdog_keeps h
  case rstReq => exact execRstReq_keeps h
  case debugRequest => exact execDebugRequest_keeps h
  case clockFailure => exact execClockFailure_keeps h
  case lockUp => exact execLockUp_keeps h
  case sourceRelease => exact execSourceRelease_keeps h
  case resetNSample => exact execResetNSample_keeps h
  case episodeRelease => exact execEpisodeRelease_keeps h
  case clkFailover => exact execClkFailover_keeps h
  case supplyDroop => exact execSupplyDroop_keeps h
  case cappingStep => exact execCappingStep_keeps h
  case cappingCalibration => exact execCappingCalibration_keeps h
  case cappingEvent => exact execCappingEvent_keeps h
  case pwrCapWrite => exact execPwrCapWrite_keeps h
  case temperatureThreshold => exact execTemperatureThreshold_keeps h
  case thermalTrip => exact execThermalTrip_keeps h
  case throttleRequest => exact execThrottleRequest_keeps h
  case pinTraceWrite => exact execPinTraceWrite_keeps h
  case smbusRead => exact execSmbusRead_keeps h
  case smbusAlertResponse => exact execSmbusAlertResponse_keeps h
  case jtagInstruction => exact execJtagInstruction_keeps h
  case ueEvent => exact execUeEvent_keeps h
  case stopNotice => exact execStopNotice_keeps h
  case jobRestart => exact execJobRestart_keeps h
  case frameRetire => exact execFrameRetire_keeps h
  case registerParityError => exact execRegisterParityError_keeps h
  case stwWdogExpiry => exact execStwWdogExpiry_keeps h
  case stwPet => exact execStwPet_keeps h
  case registerWrite => exact execRegisterWrite_keeps h
  case episodeMinimumEnd => exact execEpisodeMinimumEnd_keeps h
  case coreDrainTimeout => exact execCoreDrainTimeout_keeps h
  case gulrasLinkTrained => exact execGulrasLinkTrained_keeps h
  case ethernetPortTrained => exact execEthernetPortTrained_keeps h
  case lpddr6TrainingDone => exact execLpddr6TrainingDone_keeps h
  case referenceClockPresence => exact execReferenceClockPresence_keeps h
  case vbatLoss => exact execVbatLoss_keeps h
  case islandClockSlew => exact execIslandClockSlew_keeps h
  case traceWordSent => exact execTraceWordSent_keeps h
  case stateScanDone => exact execStateScanDone_keeps h

/-- A step is a command on the machine with the queue's rest, or an instant that passes. -/
theorem step_keeps (e : step s = .next t) : Keeps { s with pending := s.pending.tail } t := by
  unfold step at e
  split at e
  · rename_i c rest hp
    obtain ⟨u, hu, hk⟩ := exec_keeps (.refl { s with pending := rest }) c
    cases hu.symm.trans e
    rwa [hp]
  · rename_i hp
    cases e
    have hs : { s with pending := s.pending.tail } = s := by rw [hp, List.tail_nil, ← hp]
    rw [hs]
    exact .tick (.refl s)

/-- Settles O57. -/
theorem everyCommandCompletes : Obligations.EveryCommandCompletes := by
  unfold Obligations.EveryCommandCompletes
  intro i s
  obtain ⟨t, ht, hk⟩ := exec_keeps (.refl s) i
  exact ⟨t, ht, hk.pending⟩

/-- Settles O53. -/
theorem fusesOnlyBurn : Obligations.FusesOnlyBurn := by
  unfold Obligations.FusesOnlyBurn
  intro s t e
  exact (step_keeps e).fuses

/-- Settles O59. -/
theorem stepsKeepTables : Obligations.StepsKeepTables := by
  unfold Obligations.StepsKeepTables
  intro s t hc hk e
  exact (step_keeps e).tables hc hk

end

end Sys2Proof.Machine

/-! SUPPORT. Routes of the mesh (R244, R245) and the tree of a job's ranks (R385, R388). -/

namespace Sys2Proof.Machine

open Sys2Proof

/-! ### The dimension-ordered route -/

theorem islAt_lt {i j : Nat} (hi : i < 8) (hj : j < 24) : islAt i j < 192 := by
  unfold islAt; omega

/-- Two islands in the same row and column are the same. -/
theorem isl_ext {a d : Nat} (hr : islRow a = islRow d) (hc : islCol a = islCol d) : a = d := by
  rw [← islAt_row_col a, hr, hc, islAt_row_col]

/-- The column tells the die. -/
theorem islDie_eq_col_div (a : Nat) : islDie a = islCol a / 12 := by
  unfold islCol islNum islDie; omega

/-- Settles O29. -/
theorem routesApproach : Obligations.RoutesApproach := by
  unfold Obligations.RoutesApproach
  intro a d ha hd hne
  have hra := islRow_lt a
  have hca := islCol_lt ha
  have hrd := islRow_lt d
  have hcd := islCol_lt hd
  simp only [islDie_eq_col_div]
  unfold nextHop
  dsimp only
  split
  · refine ⟨_, _, rfl, islAt_lt hra (by omega), fun _ => ?_, fun h => absurd h (by omega), ?_⟩
    · rw [islRow_islAt hra, islCol_islAt hra]
      exact ⟨rfl, rfl⟩
    · rw [islCol_islAt hra, beq_iff_eq]
      omega
  · split
    · refine ⟨_, _, rfl, islAt_lt hra (by omega), fun _ => ?_, fun h => absurd h (by omega), ?_⟩
      · rw [islRow_islAt hra, islCol_islAt hra]
        exact ⟨rfl, by omega⟩
      · rw [islCol_islAt hra, beq_iff_eq]
        omega
    · have hc : islCol a = islCol d := by omega
      split
      · refine ⟨_, _, rfl, islAt_lt (by omega) hca, fun h => absurd hc h, fun _ => ?_, ?_⟩
        · rw [islRow_islAt (by omega), islCol_islAt (by omega)]
          exact ⟨rfl, rfl⟩
        · rw [islCol_islAt (by omega)]
          simp
      · split
        · refine ⟨_, _, rfl, islAt_lt (by omega) hca, fun h => absurd hc h, fun _ => ?_, ?_⟩
          · rw [islRow_islAt (by omega), islCol_islAt (by omega)]
            exact ⟨rfl, by omega⟩
          · rw [islCol_islAt (by omega)]
            simp
        · exact absurd (isl_ext (by omega) hc) hne

/-! ### The tree of ranks -/

/-- The lowest bit of a child is the one by which it differs from its parent. -/
theorem treeParent_add {q l : Nat} (hl : l < 16) (hq : q % 2 ^ (l + 1) = 0) : treeParent (q + 2 ^ l) = q := by
  obtain ⟨c, rfl⟩ := Nat.dvd_of_mod_eq_zero hq
  have hr : 2 ^ (l + 1) * c + 2 ^ l = 2 ^ l * (2 * c + 1) := by ring
  have hfind : (List.range 16).find? (fun i => (2 ^ l * (2 * c + 1)).testBit i) = some l := by
    rw [List.find?_range_eq_some]
    refine ⟨?_, List.mem_range.mpr hl, fun j hj => ?_⟩
    · rw [Nat.testBit_two_pow_mul]; simp
    · rw [Nat.testBit_two_pow_mul]; simp [hj]
  unfold treeParent
  rw [hr, hfind, ← hr]
  exact Nat.add_sub_cancel _ _

theorem mem_treeChildren {n q r : Nat} :
    r ∈ treeChildren n q ↔ ∃ l < 16, q % 2 ^ (l + 1) = 0 ∧ r = q + 2 ^ l ∧ r < n := by
  unfold treeChildren
  simp only [List.mem_filterMap, List.mem_range, Option.ite_none_right_eq_some, Option.some.injEq]
  constructor
  · rintro ⟨l, hl, ⟨hq, hn⟩, rfl⟩
    exact ⟨l, hl, hq, rfl, hn⟩
  · rintro ⟨l, hl, hq, rfl, hn⟩
    exact ⟨l, hl, ⟨hq, hn⟩, rfl⟩

theorem treeParent_of_mem {n q r : Nat} (h : r ∈ treeChildren n q) : treeParent r = q := by
  obtain ⟨l, hl, hq, rfl, _⟩ := mem_treeChildren.mp h
  exact treeParent_add hl hq

/-- Every rank but 0 is a child. -/
theorem exists_parent {n r : Nat} (h0 : 0 < r) (hr : r < n) (hn : n ≤ 65536) : ∃ q < r, r ∈ treeChildren n q := by
  obtain ⟨l, m, ⟨c, rfl⟩, he⟩ := Nat.exists_eq_two_pow_mul_odd (Nat.pos_iff_ne_zero.mp h0)
  have hl : l < 16 := by
    by_contra hc
    have h16 : 2 ^ 16 ≤ 2 ^ l := Nat.pow_le_pow_right (by decide) (by omega)
    have hle : 2 ^ l * 1 ≤ r := he ▸ Nat.mul_le_mul_left _ (by omega)
    omega
  have he' : r = 2 ^ (l + 1) * c + 2 ^ l := by rw [he]; ring
  have hp : 0 < 2 ^ l := Nat.two_pow_pos l
  exact ⟨2 ^ (l + 1) * c, by omega, mem_treeChildren.mpr ⟨l, hl, Nat.mul_mod_right _ _, he', hr⟩⟩

/-- Settles O41. -/
theorem ranksFormATree : Obligations.RanksFormATree := by
  unfold Obligations.RanksFormATree
  intro n r h0 hr hn
  obtain ⟨q, hq, hm⟩ := exists_parent h0 hr hn
  rw [treeParent_of_mem hm]
  exact ⟨hq, hm, fun p hp => (treeParent_of_mem hp).symm.trans (treeParent_of_mem hm)⟩

end Sys2Proof.Machine

/-! SUPPORT. Link headers and frames (R373, R375, R377): what stands in them is read back. -/

namespace Sys2Proof.Machine

open Sys2Proof

/-! ### The head slot -/

theorem GPkt.ofHead_head (p : GPkt) (h1 : p.dagent < 2 ^ 12) (h2 : p.op < 16) (h3 : p.hops < 64) (h4 : p.cls < 4)
    (h5 : p.len < 512) (h6 : p.addr < 2 ^ 48) (h7 : p.tag < 2 ^ 16) : GPkt.ofHead p.head = { p with data := [], die := 0 } := by
  obtain ⟨ddev, sdev, dagent, op, hops, cls, job, cnum, addr, tag, status, arg, len, data, die⟩ := p
  have b1 := ddev.isLt
  have b2 := sdev.isLt
  have b3 := job.isLt
  have b4 := cnum.isLt
  have b5 := status.isLt
  have b6 := arg.isLt
  dsimp only at h1 h2 h3 h4 h5 h6 h7
  simp only [GPkt.head, GPkt.ofHead, GPkt.mk.injEq, ← BitVec.toNat_inj, BitVec.toNat_ofNat, and_true]
  omega

/-! ### The check of a frame -/

theorem crcStep_lt {c : Nat} (h : c < 2 ^ 32) (b : Bool) : crcStep c b < 2 ^ 32 := by
  unfold crcStep
  refine Nat.xor_lt_two_pow (by omega) ?_
  split <;> decide

theorem crcBits_lt {n v c : Nat} (h : c < 2 ^ 32) : crcBits n v c < 2 ^ 32 := by
  induction n generalizing v c with
  | zero => exact h
  | succ n ih => exact ih (crcStep_lt h _)

theorem crc32c_lt (n v : Nat) : crc32c n v < 2 ^ 32 :=
  Nat.xor_lt_two_pow (crcBits_lt (by decide)) (by decide)

/-! ### Numbers written in digits of k bits -/

theorem sum_digits {α : Type} (g : α → Nat) (d : α) (k : Nat) (l : List α) (a : Nat) :
    ((List.range l.length).map (fun t => g (l[t]?.getD d) * 2 ^ (a + k * t))).sum = Nat.ofDigits (2 ^ k) (l.map g) * 2 ^ a := by
  induction l generalizing a with
  | nil => simp
  | cons x l ih =>
    have hs : (fun t => g ((x :: l)[t]?.getD d) * 2 ^ (a + k * t)) ∘ Nat.succ = fun t => g (l[t]?.getD d) * 2 ^ (a + k + k * t) := by
      funext t
      have he : a + k * (t + 1) = a + k + k * t := by ring
      simp [he]
    rw [List.length_cons, List.range_succ_eq_map, List.map_cons, List.map_map, List.sum_cons, hs, ih, List.map_cons, Nat.ofDigits_cons,
      List.getElem?_cons_zero, Option.getD_some]
    ring

/-- A digit below a higher part. -/
theorem ofDigits_digit {k m i x : Nat} {l : List Nat} (q : Nat) (hk : 0 < k) (hl : ∀ y ∈ l, y < 2 ^ k) (hx : l[i]? = some x)
    (hm : k * (i + 1) ≤ m) : (Nat.ofDigits (2 ^ k) l + 2 ^ m * q) / 2 ^ (k * i) % 2 ^ k = x := by
  obtain ⟨c, rfl⟩ := Nat.exists_eq_add_of_le hm
  have hd : (2 ^ (k * (i + 1) + c) * q : Nat) = 2 ^ (k * i) * (2 ^ k * (2 ^ c * q)) := by ring
  have h1 : 1 < 2 ^ k := Nat.one_lt_two_pow hk.ne'
  obtain ⟨hi, rfl⟩ := List.getElem?_eq_some_iff.mp hx
  rw [hd, Nat.add_mul_div_left _ _ (Nat.two_pow_pos _), Nat.add_mul_mod_self_left, pow_mul,
    Nat.ofDigits_div_pow_eq_ofDigits_drop _ (by omega) _ hl, List.drop_eq_getElem_cons hi, Nat.ofDigits_cons, Nat.add_mul_mod_self_left,
    Nat.mod_eq_of_lt (hl _ (List.getElem_mem hi))]

/-! ### Frames -/

/-- The fields of a frame below its tags. -/
def frameFields (fseq ack credits : Nat) (nak idle tstamp : Bool) : Nat :=
  fseq % 4096 + ack % 4096 * 2 ^ 12 + b2n nak * 2 ^ 24 + b2n idle * 2 ^ 25 + b2n tstamp * 2 ^ 26 + credits * 2 ^ 32

theorem b2n_le_one (b : Bool) : b2n b ≤ 1 := by cases b <;> decide

theorem decide_b2n (b : Bool) : decide (b2n b = 1) = b := by cases b <;> rfl

theorem frameFields_lt {credits : Nat} (fseq ack : Nat) (nak idle tstamp : Bool) (h : credits < 2 ^ 24) :
    frameFields fseq ack credits nak idle tstamp < 2 ^ 64 := by
  have h1 := b2n_le_one nak
  have h2 := b2n_le_one idle
  have h3 := b2n_le_one tstamp
  unfold frameFields
  omega

/-- The fields read where the receiver reads them, whatever stands above. -/
theorem frameFields_read {credits : Nat} (fseq ack r : Nat) (nak idle tstamp : Bool) (h : credits < 2 ^ 24) :
    let f := frameFields fseq ack credits nak idle tstamp + 2 ^ 64 * r
    f % 4096 = fseq % 4096 ∧ f / 2 ^ 12 % 4096 = ack % 4096 ∧ f.testBit 24 = nak ∧ f.testBit 25 = idle ∧ f.testBit 26 = tstamp ∧
      f / 2 ^ 32 % 2 ^ 24 = credits := by
  have h1 := b2n_le_one nak
  have h2 := b2n_le_one idle
  have h3 := b2n_le_one tstamp
  simp only [Nat.testBit_eq_decide_div_mod_eq]
  unfold frameFields
  refine ⟨by omega, by omega, ?_, ?_, ?_, by omega⟩
  · rw [show (_ : Nat) / 2 ^ 24 % 2 = b2n nak by omega, decide_b2n]
  · rw [show (_ : Nat) / 2 ^ 25 % 2 = b2n idle by omega, decide_b2n]
  · rw [show (_ : Nat) / 2 ^ 26 % 2 = b2n tstamp by omega, decide_b2n]

/-- The tags and the slots of a frame as numbers. -/
def frameTags (slots : List (Nat × Nat)) : Nat := Nat.ofDigits (2 ^ 4) (slots.map Prod.fst)
def frameSlots (slots : List (Nat × Nat)) : Nat := Nat.ofDigits (2 ^ 256) (slots.map Prod.snd)

theorem frame_sum (slots : List (Nat × Nat)) :
    ((List.range slots.length).map (fun t => (slots[t]?.getD (0, 0)).1 * 2 ^ (64 + 4 * t) + (slots[t]?.getD (0, 0)).2 * 2 ^ (140 + 256 * t))).sum =
      frameTags slots * 2 ^ 64 + frameSlots slots * 2 ^ 140 := by
  rw [List.sum_map_add, sum_digits Prod.fst, sum_digits Prod.snd]
  rfl

theorem frameTags_lt {slots : List (Nat × Nat)} (hn : slots.length ≤ 19) (h : ∀ x ∈ slots, x.1 < 16 ∧ x.2 < 2 ^ 256) :
    frameTags slots < 2 ^ 76 := by
  have hd : ∀ y ∈ slots.map Prod.fst, y < 2 ^ 4 := by
    intro y hy
    obtain ⟨x, hx, rfl⟩ := List.mem_map.mp hy
    exact (h x hx).1
  calc frameTags slots < (2 ^ 4) ^ (slots.map Prod.fst).length := Nat.ofDigits_lt_base_pow_length (by decide) hd
    _ ≤ (2 ^ 4) ^ 19 := Nat.pow_le_pow_right (by decide) (by simpa using hn)
    _ = 2 ^ 76 := by decide

theorem frameSlots_lt {slots : List (Nat × Nat)} (hn : slots.length ≤ 19) (h : ∀ x ∈ slots, x.1 < 16 ∧ x.2 < 2 ^ 256) :
    frameSlots slots < 2 ^ 4864 := by
  have hd : ∀ y ∈ slots.map Prod.snd, y < 2 ^ 256 := by
    intro y hy
    obtain ⟨x, hx, rfl⟩ := List.mem_map.mp hy
    exact (h x hx).2
  calc frameSlots slots < (2 ^ 256) ^ (slots.map Prod.snd).length := Nat.ofDigits_lt_base_pow_length (Nat.one_lt_two_pow (by decide)) hd
    _ ≤ (2 ^ 256) ^ 19 := Nat.pow_le_pow_right (Nat.two_pow_pos _) (by simpa using hn)
    _ = 2 ^ 4864 := (pow_mul 2 256 19).symm

/-- What a frame's CRC covers. -/
def frameBody (fseq ack credits : Nat) (nak idle tstamp : Bool) (slots : List (Nat × Nat)) : Nat :=
  frameFields fseq ack credits nak idle tstamp + (frameTags slots * 2 ^ 64 + frameSlots slots * 2 ^ 140)

section
variable {fseq ack credits : Nat} {nak idle tstamp : Bool} {slots : List (Nat × Nat)}

theorem frameBody_lt (hc : credits < 2 ^ 24) (hn : slots.length ≤ 19) (h : ∀ x ∈ slots, x.1 < 16 ∧ x.2 < 2 ^ 256) :
    frameBody fseq ack credits nak idle tstamp slots < 2 ^ 5108 := by
  have hf := frameFields_lt fseq ack nak idle tstamp hc
  have ht := frameTags_lt hn h
  have hs : (frameSlots slots + 1) * 2 ^ 140 ≤ 2 ^ 4864 * 2 ^ 140 := Nat.mul_le_mul_right _ (frameSlots_lt hn h)
  have hp : 2 ^ 4864 * 2 ^ 140 ≤ 2 ^ 5108 := by
    rw [← pow_add]
    exact Nat.pow_le_pow_right (by decide) (by decide)
  unfold frameBody
  calc _ < (frameSlots slots + 1) * 2 ^ 140 := by omega
    _ ≤ _ := hs.trans hp

theorem frameBits_toNat (hc : credits < 2 ^ 24) (hn : slots.length ≤ 19) (h : ∀ x ∈ slots, x.1 < 16 ∧ x.2 < 2 ^ 256) :
    (frameBits fseq ack nak idle tstamp credits slots).toNat = frameBody fseq ack credits nak idle tstamp slots +
      crc32c 5108 (frameBody fseq ack credits nak idle tstamp slots) * 2 ^ 5108 := by
  have hb := frameBody_lt (fseq := fseq) (ack := ack) (nak := nak) (idle := idle) (tstamp := tstamp) hc hn h
  have hcrc := crc32c_lt 5108 (frameBody fseq ack credits nak idle tstamp slots)
  have he : frameBits fseq ack nak idle tstamp credits slots = BitVec.ofNat 5140 (frameBody fseq ack credits nak idle tstamp slots +
      crc32c 5108 (frameBody fseq ack credits nak idle tstamp slots) * 2 ^ 5108) := by
    unfold frameBits
    dsimp only
    rw [frame_sum]
    rfl
  rw [he, BitVec.toNat_ofNat, Nat.mod_eq_of_lt]
  generalize frameBody fseq ack credits nak idle tstamp slots = b at *
  calc b + crc32c 5108 b * 2 ^ 5108 < (crc32c 5108 b + 1) * 2 ^ 5108 := by rw [Nat.add_mul, Nat.one_mul]; omega
    _ ≤ 2 ^ 32 * 2 ^ 5108 := Nat.mul_le_mul_right _ hcrc
    _ = 2 ^ 5140 := (pow_add 2 32 5108).symm

/-- A frame's CRC is the one of the rest. -/
theorem frameOk_frameBits (hc : credits < 2 ^ 24) (hn : slots.length ≤ 19) (h : ∀ x ∈ slots, x.1 < 16 ∧ x.2 < 2 ^ 256) :
    frameOk (frameBits fseq ack nak idle tstamp credits slots) = true := by
  have hb := frameBody_lt (fseq := fseq) (ack := ack) (nak := nak) (idle := idle) (tstamp := tstamp) hc hn h
  unfold frameOk
  rw [frameBits_toNat hc hn h, Nat.add_mul_mod_self_right, Nat.mod_eq_of_lt hb, Nat.add_mul_div_right _ _ (Nat.two_pow_pos _),
    Nat.div_eq_of_lt hb, Nat.zero_add, beq_self_eq_true]

/-- A frame as its fields, its tags and what stands above. -/
theorem frameBits_split (hc : credits < 2 ^ 24) (hn : slots.length ≤ 19) (h : ∀ x ∈ slots, x.1 < 16 ∧ x.2 < 2 ^ 256) :
    ∃ q, (frameBits fseq ack nak idle tstamp credits slots).toNat =
      frameFields fseq ack credits nak idle tstamp + 2 ^ 64 * (frameTags slots + 2 ^ 76 * (frameSlots slots + 2 ^ 4968 * q)) := by
  refine ⟨crc32c 5108 (frameBody fseq ack credits nak idle tstamp slots), ?_⟩
  have hp : (2 ^ 5108 : Nat) = 2 ^ 64 * (2 ^ 76 * 2 ^ 4968) := by rw [← pow_add, ← pow_add]
  rw [frameBits_toNat hc hn h, hp]
  generalize crc32c 5108 _ = q
  unfold frameBody
  ring

end

/-- Settles O44. -/
theorem framesRoundTrip : Obligations.FramesRoundTrip := by
  unfold Obligations.FramesRoundTrip
  refine ⟨GPkt.ofHead_head, fun fseq ack credits nak idle tstamp slots hc hn h => ?_⟩
  obtain ⟨q, hq⟩ := frameBits_split (fseq := fseq) (ack := ack) (nak := nak) (idle := idle) (tstamp := tstamp) hc hn h
  have ht := frameTags_lt hn h
  have hf := frameFields_lt fseq ack nak idle tstamp hc
  dsimp only
  refine ⟨frameOk_frameBits hc hn h, ?_⟩
  rw [hq]
  obtain ⟨h1, h2, h3, h4, h5, h6⟩ := frameFields_read fseq ack (frameTags slots + 2 ^ 76 * (frameSlots slots + 2 ^ 4968 * q)) nak idle tstamp hc
  refine ⟨h1, h2, h3, h4, h5, h6, fun i x hx => ?_⟩
  obtain ⟨hi, hxi⟩ := List.getElem?_eq_some_iff.mp hx
  have h64 : (frameFields fseq ack credits nak idle tstamp + 2 ^ 64 * (frameTags slots + 2 ^ 76 * (frameSlots slots + 2 ^ 4968 * q))) / 2 ^ 64 =
      frameTags slots + 2 ^ 76 * (frameSlots slots + 2 ^ 4968 * q) := by omega
  have h140 : (frameTags slots + 2 ^ 76 * (frameSlots slots + 2 ^ 4968 * q)) / 2 ^ 76 = frameSlots slots + 2 ^ 4968 * q := by omega
  constructor
  · rw [pow_add, ← Nat.div_div_eq_div_mul, h64]
    exact ofDigits_digit _ (by decide) (fun y hy => by obtain ⟨z, hz, rfl⟩ := List.mem_map.mp hy; exact (h z hz).1)
      (by rw [List.getElem?_map, hx]; rfl) (by omega)
  · rw [show 140 + 256 * i = 64 + (76 + 256 * i) by omega, pow_add, pow_add 2 76, ← Nat.div_div_eq_div_mul, h64, ← Nat.div_div_eq_div_mul, h140]
    exact ofDigits_digit _ (by decide) (fun y hy => by obtain ⟨z, hz, rfl⟩ := List.mem_map.mp hy; exact (h z hz).2)
      (by rw [List.getElem?_map, hx]; rfl) (by omega)

end Sys2Proof.Machine

/-! SUPPORT. Integer elements as numbers, the rank sort (R182), and exact sums of pots (R151, R153). -/

namespace Sys2Proof.Machine

open Sys2Proof

/-! ### Integer elements -/

/-- The integer that a finite value with exponent 0 stands for. -/
def signedInt (s : Bool) (m : Nat) : Int := if s then -(m : Int) else m

theorem decodeVal_int (f : EFmt) (hf : f.isInt = true) (c : Nat) :
    ∃ s m, decodeVal f c = .fin s m 0 ∧ m ≤ 2 ^ f.bits ∧ signedInt s m = (BitVec.ofNat f.bits c).toInt := by
  have hp : 2 ^ f.bits = 2 * 2 ^ (f.bits - 1) := by cases f <;> rfl
  have hlt : c % 2 ^ f.bits < 2 ^ f.bits := Nat.mod_lt _ (Nat.two_pow_pos _)
  unfold decodeVal
  rw [if_pos hf]
  by_cases h : 2 ^ (f.bits - 1) ≤ c % 2 ^ f.bits
  · refine ⟨true, 2 ^ f.bits - c % 2 ^ f.bits, if_pos h, Nat.sub_le _ _, ?_⟩
    rw [BitVec.toInt_eq_toNat_cond, BitVec.toNat_ofNat, if_neg (by omega)]
    simp only [signedInt, if_true]
    omega
  · refine ⟨false, c % 2 ^ f.bits, if_neg h, hlt.le, ?_⟩
    rw [BitVec.toInt_eq_toNat_cond, BitVec.toNat_ofNat, if_pos (by omega)]
    rfl

theorem rankVal_int32 (a b : Nat) : rankVal (decodeVal .int32 a) (decodeVal .int32 b) = compare (toInt32 a) (toInt32 b) := by
  obtain ⟨s, m, ha, -, hs⟩ := decodeVal_int .int32 rfl a
  obtain ⟨t, n, hb, -, ht⟩ := decodeVal_int .int32 rfl b
  have hv (s : Bool) (m : Nat) : alignInt s m 0 (min 0 0) = signedInt s m := by
    unfold alignInt signedInt
    simp
  unfold toInt32
  rw [ha, hb, ← show signedInt s m = (BitVec.ofNat 32 a).toInt from hs, ← show signedInt t n = (BitVec.ofNat 32 b).toInt from ht, ← hv, ← hv]
  rfl

/-! ### The rank sort -/

/-- The selection order of INT32 pairs of score and key: greater scores first, equal scores by key. -/
def rankFirst (x y : Nat × Nat) : Prop := toInt32 y.1 < toInt32 x.1 ∨ (toInt32 x.1 = toInt32 y.1 ∧ x.2 < y.2)

theorem rankFirst.trans {x y z : Nat × Nat} (h1 : rankFirst x y) (h2 : rankFirst y z) : rankFirst x z := by
  unfold rankFirst at *
  omega

theorem selectCmp_int32 {x y : Nat × Nat} (hne : x.2 ≠ y.2) :
    (selectCmp .int32 x.1 x.2 y.1 y.2 = .lt → rankFirst x y) ∧ (selectCmp .int32 x.1 x.2 y.1 y.2 ≠ .lt → rankFirst y x) := by
  unfold selectCmp rankFirst
  rw [rankVal_int32]
  rcases lt_trichotomy (toInt32 x.1) (toInt32 y.1) with h | h | h
  · rw [compare_lt_iff_lt.mpr h]
    exact ⟨nofun, fun _ => .inl h⟩
  · rw [compare_eq_iff_eq.mpr h]
    dsimp only
    split
    · exact ⟨fun _ => .inr ⟨h, ‹_›⟩, fun e => absurd rfl e⟩
    · rw [if_pos (by omega)]
      exact ⟨nofun, fun _ => .inr ⟨h.symm, by omega⟩⟩
  · rw [compare_gt_iff_gt.mpr h]
    exact ⟨fun _ => .inl h, fun e => absurd rfl e⟩

theorem rankInsert_perm (f : EFmt) (x : Nat × Nat) (l : List (Nat × Nat)) : (rankInsert f x l).Perm (x :: l) := by
  induction l with
  | nil => exact .refl _
  | cons y l ih =>
    unfold rankInsert
    split
    · exact .refl _
    · exact (ih.cons y).trans (.swap x y l)

theorem rankInsert_sorted {x : Nat × Nat} {l : List (Nat × Nat)} (hl : l.Pairwise rankFirst) (hx : ∀ y ∈ l, x.2 ≠ y.2) :
    (rankInsert .int32 x l).Pairwise rankFirst := by
  induction l with
  | nil => exact List.pairwise_singleton _ _
  | cons y l ih =>
    obtain ⟨hy, hl⟩ := List.pairwise_cons.mp hl
    obtain ⟨hlt, hge⟩ := selectCmp_int32 (hx y List.mem_cons_self)
    unfold rankInsert
    split
    · rename_i h
      have hxy := hlt (beq_iff_eq.mp h)
      refine List.pairwise_cons.mpr ⟨fun z hz => ?_, List.pairwise_cons.mpr ⟨hy, hl⟩⟩
      rcases List.mem_cons.mp hz with rfl | hz
      · exact hxy
      · exact hxy.trans (hy z hz)
    · rename_i h
      refine List.pairwise_cons.mpr ⟨fun z hz => ?_, ih hl fun z hz => hx z (List.mem_cons_of_mem _ hz)⟩
      rcases List.mem_cons.mp ((rankInsert_perm .int32 x l).mem_iff.mp hz) with rfl | hz
      · exact hge fun e => h (beq_iff_eq.mpr e)
      · exact hy z hz

theorem foldl_rankInsert_perm (f : EFmt) (l a : List (Nat × Nat)) : (l.foldl (fun a x => rankInsert f x a) a).Perm (l ++ a) := by
  induction l generalizing a with
  | nil => exact .refl _
  | cons x l ih => exact (ih _).trans (((rankInsert_perm f x a).append_left l).trans List.perm_middle)

theorem foldl_rankInsert_sorted {l a : List (Nat × Nat)} (ha : a.Pairwise rankFirst) (hl : (l ++ a).Pairwise fun x y => x.2 ≠ y.2) :
    (l.foldl (fun a x => rankInsert .int32 x a) a).Pairwise rankFirst := by
  induction l generalizing a with
  | nil => exact ha
  | cons x l ih =>
    obtain ⟨hx, hr⟩ := List.pairwise_cons.mp hl
    refine ih (rankInsert_sorted ha fun y hy => hx y (List.mem_append_right _ hy)) ?_
    have hp : (l ++ rankInsert .int32 x a).Perm (x :: (l ++ a)) := ((rankInsert_perm .int32 x a).append_left l).trans List.perm_middle
    exact (hp.pairwise_iff fun h => Ne.symm h).mpr hl

/-- Settles O17. -/
theorem rankSortSorts : Obligations.RankSortSorts := by
  unfold Obligations.RankSortSorts
  intro l
  refine ⟨?_, fun hl _ => foldl_rankInsert_sorted List.Pairwise.nil (by rwa [List.append_nil])⟩
  have hp := foldl_rankInsert_perm .int32 l []
  rwa [List.append_nil] at hp

/-! ### Pots -/

/-- The greater of two NaN codes. -/
def maxCode (a b : BitVec 16) : BitVec 16 := if a.ult b then b else a

theorem maxCode_toNat (a b : BitVec 16) : (maxCode a b).toNat = max a.toNat b.toNat := by
  unfold maxCode
  rw [BitVec.ult_eq_decide]
  split <;> rename_i h <;> rw [decide_eq_true_eq] at h <;> omega

theorem maxCode_comm (a b : BitVec 16) : maxCode a b = maxCode b a := by
  rw [← BitVec.toNat_inj, maxCode_toNat, maxCode_toNat, max_comm]

theorem maxCode_assoc (a b c : BitVec 16) : maxCode (maxCode a b) c = maxCode a (maxCode b c) := by
  simp only [← BitVec.toNat_inj, maxCode_toNat, max_assoc]

theorem maxCode_zero (a : BitVec 16) : maxCode a 0 = a := by
  rw [← BitVec.toNat_inj, maxCode_toNat]
  exact Nat.max_eq_left (Nat.zero_le _)

/-- Where only NaN entries have a code, the code of a sum is the greater one. -/
theorem PotEntry.combine_code {x y : PotEntry} (hx : x.nan = false → x.code = 0) (hy : y.nan = false → y.code = 0) :
    (x.combine y).code = maxCode x.code y.code := by
  unfold PotEntry.combine
  cases h1 : x.nan <;> cases h2 : y.nan
  case false.false => rw [hx h1, hy h2]; rfl
  case false.true => rw [hx h1, maxCode_comm, maxCode_zero]; rfl
  case true.false => rw [hy h2, maxCode_zero]; rfl
  case true.true => rfl

theorem PotEntry.combine_code_of_not_nan {x y : PotEntry} (h : (x.combine y).nan = false) : (x.combine y).code = 0 := by
  obtain ⟨h1, h2⟩ := Bool.or_eq_false_iff.mp h
  unfold PotEntry.combine
  simp [h1, h2]

theorem PotEntry.combine_comm {x y : PotEntry} (hx : x.nan = false → x.code = 0) (hy : y.nan = false → y.code = 0) :
    x.combine y = y.combine x := by
  have hc := combine_code hx hy
  rw [maxCode_comm, ← combine_code hy hx] at hc
  simp only [combine, mk.injEq, BitVec.add_comm, Bool.or_comm, and_true, true_and] at hc ⊢
  exact hc

theorem PotEntry.combine_assoc {x y z : PotEntry} (hx : x.nan = false → x.code = 0) (hy : y.nan = false → y.code = 0)
    (hz : z.nan = false → z.code = 0) : (x.combine y).combine z = x.combine (y.combine z) := by
  have hc : ((x.combine y).combine z).code = (x.combine (y.combine z)).code := by
    rw [combine_code combine_code_of_not_nan hz, combine_code hx combine_code_of_not_nan, combine_code hx hy, combine_code hy hz, maxCode_assoc]
  simp only [combine, mk.injEq, BitVec.add_assoc, Bool.or_assoc, and_true, true_and] at hc ⊢
  exact hc

theorem signedInt_mul (s t : Bool) (m n : Nat) : signedInt (xor s t) (m * n) = signedInt s m * signedInt t n := by
  cases s <;> cases t <;> simp [signedInt]

/-- A term at exponent 0 that is far from saturation is the integer itself. -/
theorem termInt_exact (s : Bool) {m : Nat} (h : m < 2 ^ 80) : termInt s m 0 0 = { p := BitVec.ofInt 96 (signedInt s m) } := by
  have hs : signedInt s 0 = 0 := by cases s <;> rfl
  unfold termInt
  split
  · rename_i h0
    rw [h0, hs]
    rfl
  · have hr : roundAt .rne s m 0 false 0 = (m, false) := by simp [roundAt]
    rw [hr]
    simp only [decide_eq_false (Nat.not_le.mpr h), Bool.false_eq_true, if_false]
    rfl

theorem fxTerm_int8 (a b : BitVec 8) :
    fxTerm 0 (decodeVal .int8 a.toNat, false) (decodeVal .int8 b.toNat, false) = { p := BitVec.ofInt 96 (a.toInt * b.toInt) } := by
  obtain ⟨s, m, ha, hm, hs⟩ := decodeVal_int .int8 rfl a.toNat
  obtain ⟨t, n, hb, hn, ht⟩ := decodeVal_int .int8 rfl b.toNat
  have hs' : signedInt s m = a.toInt := by rw [hs]; exact congrArg _ (BitVec.ofNat_toNat 8 a)
  have ht' : signedInt t n = b.toInt := by rw [ht]; exact congrArg _ (BitVec.ofNat_toNat 8 b)
  have hmn : m * n < 2 ^ 80 := by
    calc m * n ≤ 2 ^ 8 * 2 ^ 8 := Nat.mul_le_mul hm hn
      _ < 2 ^ 80 := by decide
  have he : fxTerm 0 (.fin s m 0, false) (.fin t n 0, false) = { termInt (xor s t) (m * n) (0 + 0) 0 with nv := false } := rfl
  rw [ha, hb, he, Int.add_zero, termInt_exact _ hmn, signedInt_mul, hs', ht']

/-- Settles O12. -/
theorem potSumsAreExact : Obligations.PotSumsAreExact := by
  unfold Obligations.PotSumsAreExact
  exact ⟨fxTerm_int8, fun _ _ => rfl, fun _ _ _ hx hy hz => ⟨PotEntry.combine_comm hx hy, PotEntry.combine_assoc hx hy hz⟩⟩

end Sys2Proof.Machine

/-! SUPPORT. Words of the S slot at a cell that runs alone (R104, R113 to R116): results, predicates, special registers and
loads. -/

namespace Sys2Proof.Machine

open Sys2Proof

/-- The address of a load or store of n bytes (R116). -/
def Cell.address (c : Cell) (ra : BitVec 5) (imm : BitVec 12) (n : Nat) : Nat :=
  (c.rs ra + imm.signExtend 64 * BitVec.ofNat 64 n).toNat

theorem sramCheck_none {k : CellRef} {a n : Nat} (ha : a % n = 0) (hr : a + n ≤ sramSize k) : sramCheck k a n = none := by
  rw [sramCheck, if_neg (not_not.mpr ha), if_neg (Nat.not_lt.mpr hr)]

theorem State.sramN_plain {s : State} {k : CellRef} {a n : Nat} (h : s.plain (sramBase k + a) n = true) :
    s.sramN k a n = s.rdN (sramBase k + a) n := by
  unfold State.sramN State.decN
  rw [if_pos h]

/-- Presenting a word changes neither the blocks with an upset nor the list area of a sieve. -/
theorem Quiet.plainRead_holding {s : State} {k : CellRef} (h : Quiet s k) (w : HWord) (a n : Nat) :
    (s.updCell k (fun c => c.holding w)).plainRead k a n = s.plainRead k a n := by
  unfold State.plainRead State.inArea
  rw [h.cell_holding]
  rfl

theorem Quiet.readSr_holding {s : State} {k : CellRef} (h : Quiet s k) (w : HWord) (n : Nat) :
    (s.updCell k (fun c => c.holding w)).readSr k n = s.readSr k n := by
  unfold State.readSr
  rw [h.cell_holding]
  rfl

/-- The cell's number and kind (R104). -/
theorem State.readSr_one (s : State) (k : CellRef) :
    s.readSr k 1 = BitVec.ofNat 64 (k.c % 4 + 4 * (k.c / 4) + (if isMemCell k then 16 else 0)) := by
  unfold State.readSr b2n
  cases isMemCell k <;> rfl

theorem srWrite_isOwn (n : Nat) (v : Word) : (srWrite n v).isOwn = true := by
  unfold srWrite
  split <;> rfl

section
variable {s : State} {k : CellRef} {g : BitVec 4} (h : Quiet s k) (hg : (s.cell k).guard g = true)
include h hg

/-! ### Results of latency 1 -/

theorem Quiet.alu (f : AluF) (rd ra rb : BitVec 5) (hl : aluLat f = 1) : Issues s k (.next (drive k { sg := g, s := .alu f rd ra rb } s))
    ((s.cell k).stepped.applyPW (.s rd.toNat (aluVal f ((s.cell k).rs ra) ((s.cell k).rs rb)))) :=
  h.s_one hg rfl rfl (by rw [evalS, h.cell_holding, hl]; rfl)

theorem Quiet.alui (f : ImmF) (rd ra : BitVec 5) (imm : BitVec 12) : Issues s k (.next (drive k { sg := g, s := .alui f rd ra imm } s))
    ((s.cell k).stepped.applyPW (.s rd.toNat (immVal f ((s.cell k).rs ra) imm))) :=
  h.s_one hg rfl rfl (by rw [evalS, h.cell_holding]; rfl)

theorem Quiet.shi (f : ShF) (rd ra : BitVec 5) (sh : BitVec 6) : Issues s k (.next (drive k { sg := g, s := .shi f rd ra sh } s))
    ((s.cell k).stepped.applyPW (.s rd.toNat (shVal f ((s.cell k).rs ra) sh.toNat))) :=
  h.s_one hg rfl rfl (by rw [evalS, h.cell_holding]; rfl)

theorem Quiet.movi (rd : BitVec 5) (imm : BitVec 17) : Issues s k (.next (drive k { sg := g, s := .movi rd imm } s))
    ((s.cell k).stepped.applyPW (.s rd.toNat (imm.signExtend 64))) :=
  h.s_one hg rfl rfl rfl

theorem Quiet.shori (rd : BitVec 5) (imm : BitVec 16) : Issues s k (.next (drive k { sg := g, s := .shori rd imm } s))
    ((s.cell k).stepped.applyPW (.s rd.toNat (((s.cell k).rs rd <<< (16 : Nat)) ||| imm.setWidth 64))) :=
  h.s_one hg rfl rfl (by rw [evalS, h.cell_holding]; rfl)

/-! ### Predicates -/

theorem Quiet.cmp (f : CmpF) (pd : BitVec 3) (ra rb : BitVec 5) : Issues s k (.next (drive k { sg := g, s := .cmp f pd ra rb } s))
    ((s.cell k).stepped.applyPW (.p pd.toNat (cmpVal64 f ((s.cell k).rs ra) ((s.cell k).rs rb)))) :=
  h.s_one hg rfl rfl (by rw [evalS, h.cell_holding]; rfl)

theorem Quiet.cmpi (f : CmpF) (pd : BitVec 3) (ra : BitVec 5) (imm : BitVec 12) : Issues s k (.next (drive k { sg := g, s := .cmpi f pd ra imm } s))
    ((s.cell k).stepped.applyPW (.p pd.toNat (cmpVal64 f ((s.cell k).rs ra) (imm.signExtend 64)))) :=
  h.s_one hg rfl rfl (by rw [evalS, h.cell_holding]; rfl)

theorem Quiet.plog (f : PlogF) (pd pa pb : BitVec 3) : Issues s k (.next (drive k { sg := g, s := .plog f pd pa pb } s))
    ((s.cell k).stepped.applyPW (.p pd.toNat (plogVal f ((s.cell k).rp pa) ((s.cell k).rp pb)))) :=
  h.s_one hg rfl rfl (by rw [evalS, h.cell_holding]; rfl)

/-! ### Special registers -/

theorem Quiet.mfsr (rd sr : BitVec 5) (hr : srReadable sr = true) : Issues s k (.next (drive k { sg := g, s := .mfsr rd sr } s))
    ((s.cell k).stepped.applyPW (.s rd.toNat (s.readSr k sr.toNat))) :=
  h.s_one hg (by rw [SOp.decodeFault, if_pos hr]) rfl (by rw [evalS, h.readSr_holding])

theorem Quiet.mtsr (sr ra : BitVec 5) (hw : srWritable sr = true) : Issues s k (.next (drive k { sg := g, s := .mtsr sr ra } s))
    ((s.cell k).stepped.applyPW (srWrite sr.toNat ((s.cell k).rs ra))) :=
  h.s_one hg (by rw [SOp.decodeFault, if_pos hw]) (srWrite_isOwn _ _) (by rw [evalS, h.cell_holding]; rfl)

/-! ### Latency 3 -/

theorem Quiet.alu3 (f : AluF) (rd ra rb : BitVec 5) (hl : aluLat f = 3) : Issues s k (.next (drive k { sg := g, s := .alu f rd ra rb } s))
    ((s.cell k).stepped.inFlight ((s.isl k.isl).sched + 3) (.s rd.toNat (aluVal f ((s.cell k).rs ra) ((s.cell k).rs rb)))) :=
  h.s_later hg 1 rfl rfl (by rw [evalS, h.cell_holding, hl]; rfl)

theorem Quiet.ld (lg : BitVec 2) (rd ra : BitVec 5) (imm : BitVec 12)
    (hc : sramCheck k ((s.cell k).address ra imm (2 ^ lg.toNat)) (2 ^ lg.toNat) = none)
    (hp : s.plainRead k ((s.cell k).address ra imm (2 ^ lg.toNat)) (2 ^ lg.toNat) = true) :
    Issues s k (.next (drive k { sg := g, s := .ld lg rd ra imm } s))
      ((s.cell k).stepped.inFlight ((s.isl k.isl).sched + 3) (.s rd.toNat (BitVec.ofNat 64 (leNat
        (s.rdN (sramBase k + (s.cell k).address ra imm (2 ^ lg.toNat)) (2 ^ lg.toNat)))))) := by
  refine h.s_later hg 1 rfl rfl ?_
  rw [← State.sramN_plain (Bool.and_eq_true_iff.mp hp).1, evalS, h.cell_holding]
  unfold Cell.address at hc hp ⊢
  dsimp only [Cell.rs_holding, imm64]
  rw [hc, State.readActs, h.plainRead_holding, if_pos hp]
  rfl

end

/-! ### The statements -/

theorem aluVal_minS (a b : Word) : aluVal .minS a b = if a.toInt < b.toInt then a else b := by
  simp only [aluVal, BitVec.slt_eq_decide, decide_eq_true_eq]

theorem aluVal_maxS (a b : Word) : aluVal .maxS a b = if a.toInt < b.toInt then b else a := by
  simp only [aluVal, BitVec.slt_eq_decide, decide_eq_true_eq]

theorem aluVal_minu (a b : Word) : aluVal .minu a b = if a.toNat < b.toNat then a else b := by
  simp only [aluVal, BitVec.ult_eq_decide, decide_eq_true_eq]

theorem aluVal_maxu (a b : Word) : aluVal .maxu a b = if a.toNat < b.toNat then b else a := by
  simp only [aluVal, BitVec.ult_eq_decide, decide_eq_true_eq]

/-- Settles O2. -/
theorem scalarResults : Obligations.ScalarResults := by
  unfold Obligations.ScalarResults
  refine ⟨fun s k g rd ra rb h hg => ?_, fun s k g rd ra h hg => ?_⟩
  · have alu (f : AluF) (hl : aluLat f = 1) := h.alu hg f rd ra rb hl
    simp only [← aluVal_minS, ← aluVal_maxS, ← aluVal_minu, ← aluVal_maxu]
    exact ⟨alu .add rfl, alu .sub rfl, alu .and rfl, alu .or rfl, alu .xor rfl, alu .shl rfl, alu .shr rfl, alu .sra rfl, alu .minS rfl,
      alu .maxS rfl, alu .minu rfl, alu .maxu rfl⟩
  · exact ⟨fun imm => ⟨h.alui hg .addi rd ra imm, h.alui hg .andi rd ra imm, h.alui hg .ori rd ra imm, h.alui hg .xori rd ra imm⟩,
      fun sh => ⟨h.shi hg .shl rd ra sh, h.shi hg .shr rd ra sh, h.shi hg .sra rd ra sh⟩,
      fun imm => h.movi hg rd imm, fun imm => h.shori hg rd imm⟩

/-- Settles O3. -/
theorem scalarLatencyThree : Obligations.ScalarLatencyThree := by
  unfold Obligations.ScalarLatencyThree
  intro s k g rd ra rb imm h hg
  exact ⟨h.alu3 hg .mul rd ra rb rfl, h.alu3 hg .mulhu rd ra rb rfl, h.alu3 hg .mulh rd ra rb rfl,
    fun ⟨ha, hr, hp⟩ => h.ld hg 0 rd ra imm (sramCheck_none ha hr) hp, fun ⟨ha, hr, hp⟩ => h.ld hg 1 rd ra imm (sramCheck_none ha hr) hp,
    fun ⟨ha, hr, hp⟩ => h.ld hg 2 rd ra imm (sramCheck_none ha hr) hp, fun ⟨ha, hr, hp⟩ => h.ld hg 3 rd ra imm (sramCheck_none ha hr) hp⟩

theorem cmpVal64_eq (a b : Word) : cmpVal64 .eq a b = decide (a = b) := by
  rw [cmpVal64, Bool.beq_eq_decide_eq]

theorem cmpVal64_ne (a b : Word) : cmpVal64 .ne a b = decide (a ≠ b) := by
  rw [cmpVal64, bne, Bool.beq_eq_decide_eq, decide_not]

theorem cmpVal64_lt (a b : Word) : cmpVal64 .lt a b = decide (a.toInt < b.toInt) := BitVec.slt_eq_decide

theorem cmpVal64_ge (a b : Word) : cmpVal64 .ge a b = decide (b.toInt ≤ a.toInt) := by
  simp only [cmpVal64, BitVec.slt_eq_decide, ← decide_not, Int.not_lt]

theorem cmpVal64_ltu (a b : Word) : cmpVal64 .ltu a b = decide (a.toNat < b.toNat) := BitVec.ult_eq_decide

theorem cmpVal64_geu (a b : Word) : cmpVal64 .geu a b = decide (b.toNat ≤ a.toNat) := by
  simp only [cmpVal64, BitVec.ult_eq_decide, ← decide_not, Nat.not_lt]

/-- Settles O5. -/
theorem predicatesAndSpecialRegisters : Obligations.PredicatesAndSpecialRegisters := by
  unfold Obligations.PredicatesAndSpecialRegisters
  refine ⟨fun s k g pd pa pb ra rb imm h hg => ?_, fun s k g rd ra sr h => ?_⟩
  · have cmp (f : CmpF) := h.cmp hg f pd ra rb
    have cmpi (f : CmpF) := h.cmpi hg f pd ra imm
    have plog (f : PlogF) := h.plog hg f pd pa pb
    simp only [← cmpVal64_eq, ← cmpVal64_ne, ← cmpVal64_lt, ← cmpVal64_ge, ← cmpVal64_ltu, ← cmpVal64_geu]
    exact ⟨⟨cmp .eq, cmp .ne, cmp .lt, cmp .ge, cmp .ltu, cmp .geu⟩, ⟨cmpi .eq, cmpi .ne, cmpi .lt, cmpi .ge, cmpi .ltu, cmpi .geu⟩,
      plog .and, plog .or, plog .xor, plog .andn⟩
  · have mfsr (n : BitVec 5) (hr : srReadable n = true) (hg : (s.cell k).guard g = true) := h.mfsr hg rd n hr
    have mtsr (n : BitVec 5) (hw : srWritable n = true) (hg : (s.cell k).guard g = true) := h.mtsr hg n ra hw
    rw [← s.readSr_one]
    exact ⟨mfsr 0 rfl, mfsr 1 rfl, mfsr 2 rfl, mfsr 3 rfl, mfsr 4 rfl, mfsr 5 rfl, mfsr 6 rfl, mfsr 7 rfl, mfsr 8 rfl, mfsr 9 rfl,
      mtsr 2 rfl, mtsr 3 rfl, mtsr 4 rfl, mtsr 5 rfl, mtsr 6 rfl,
      fun hs => h.s_decode (by rw [SOp.decodeFault, if_neg (by simp [srReadable, hs])]),
      fun hs => h.s_decode (by rw [SOp.decodeFault, if_neg (by simp only [srWritable, decide_eq_true_eq]; omega)])⟩

end Sys2Proof.Machine

/-! SUPPORT. Stores to local SRAM, and loads and stores that fault (R116). -/

namespace Sys2Proof.Machine

open Sys2Proof

/-! ### Bytes of a number -/

theorem length_leBytes (n v : Nat) : (leBytes n v).length = n := by
  induction n generalizing v with
  | zero => rfl
  | succ n ih => rw [leBytes, List.length_cons, ih]

theorem getElem_leBytes {n v i : Nat} (h : i < (leBytes n v).length) : (leBytes n v)[i] = BitVec.ofNat 8 (v / 256 ^ i) := by
  induction n generalizing v i with
  | zero => exact absurd h (Nat.not_lt_zero _)
  | succ n ih =>
    cases i with
    | zero => simp [leBytes]
    | succ i =>
      simp only [leBytes, List.getElem_cons_succ]
      rw [ih, Nat.div_div_eq_div_mul, Nat.pow_succ', Nat.mul_comm]

theorem getElem_leBytes_toNat {n i : Nat} {v : Word} (h : i < (leBytes n v.toNat).length) :
    (leBytes n v.toNat)[i] = v.extractLsb' (8 * i) 8 := by
  rw [getElem_leBytes, ← BitVec.toNat_inj, BitVec.extractLsb'_toNat, BitVec.toNat_ofNat, Nat.shiftRight_eq_div_pow, Nat.pow_mul]

/-! ### A store -/

/-- A word without actions leaves the state in which its cell holds it. -/
theorem Quiet.acted_holding {s : State} {k : CellRef} (h : Quiet s k) (w : HWord) :
    Acted (s.updCell k (fun c => c.holding w)) s (s.updCell k (fun c => c.holding w)) k ((s.cell k).holding w) :=
  ⟨h.1.1.updCell _ _, h.cell_holding w, fun _ _ => rfl, fun _ _ => rfl, rfl, rfl, rfl, by rw [State.outside_updCell]; rfl⟩

theorem IssuedAs.sieveTakes {s u b s2 : State} {k : CellRef} {w : HWord} {o : WordOut} {n : Nat}
    (hi : IssuedAs s u b s2 k (((s.cell k).holding w).issued o n)) (hn : o.now = []) (a m : Nat) :
    s2.sieveTakes k a m = s.sieveTakes k a m := by
  unfold State.sieveTakes State.inWin State.inArea
  rw [hi.cell, Cell.issued, hn]
  rfl

theorem IssuedAs.plain {s b s2 : State} {k : CellRef} {c : Cell} (hi : IssuedAs s s b s2 k c) (a n : Nat) : s2.plain a n = s.plain a n := by
  have hb : s2.bad = s.bad := (congrArg State.bad hi.rest :)
  unfold State.plain State.upsetOf
  rw [hb]

section
variable {s : State} {k : CellRef} {g : BitVec 4} (h : Quiet s k) (hg : (s.cell k).guard g = true)
include h hg

theorem Quiet.st (lg : BitVec 2) (rs ra : BitVec 5) (imm : BitVec 12)
    (hc : sramCheck k ((s.cell k).address ra imm (2 ^ lg.toNat)) (2 ^ lg.toNat) = none)
    (hs : s.sieveTakes k ((s.cell k).address ra imm (2 ^ lg.toNat)) (2 ^ lg.toNat) = false)
    (hp : s.plain (sramBase k + (s.cell k).address ra imm (2 ^ lg.toNat)) (2 ^ lg.toNat) = true) :
    IssuesWith s (s.wrN (sramBase k + (s.cell k).address ra imm (2 ^ lg.toNat)) (leBytes (2 ^ lg.toNat) ((s.cell k).rs rs).toNat)) k
      (.next (drive k { sg := g, s := .st lg rs ra imm } s)) (s.cell k).stepped := by
  have hlen := length_leBytes (2 ^ lg.toNat) ((s.cell k).rs rs).toNat
  have he : evalS (s.updCell k (fun c => c.holding { sg := g, s := .st lg rs ra imm })) k (.st lg rs ra imm) =
      SlotOut.one 1 (.sram ((s.cell k).address ra imm (2 ^ lg.toNat)) (leBytes (2 ^ lg.toNat) ((s.cell k).rs rs).toNat) none) := by
    rw [evalS, h.cell_holding]
    unfold Cell.address at hc ⊢
    dsimp only [Cell.rs_holding, imm64]
    rw [hc]
  generalize (s.cell k).address ra imm (2 ^ lg.toNat) = a at *
  generalize leBytes (2 ^ lg.toNat) ((s.cell k).rs rs).toNat = bs at *
  rw [← hlen] at hs hp
  obtain ⟨⟨hcan, h1, h2, h3, ht, h4, h5, h6, h7, h8, h13, h12⟩, h9, h10, h11⟩ := id h
  have hw := evalWord_s (h.cell_holding { sg := g, s := .st lg rs ra imm }) h7 h11 h10 hg rfl he rfl
  obtain ⟨b, s2, hd, hi⟩ := h.drive_issue (present_s g _) (fun _ => rfl) hw rfl rfl rfl rfl (h.acted_holding _) h4 h8 (h13.2 k.c h2).1
  refine ⟨_, rfl, ?_⟩
  rw [hd]
  have hst := hi.stored (a := a) (bs := bs) (seat := none) (by simp [Cell.issued, WordOut.ofSlot, SlotOut.one, Cell.holding, h7]) h4
    ((hi.sieveTakes rfl _ _).trans hs) ((hi.plain _ _).trans hp)
  have hcell : ({ (s.cell k).stepped with held := none, bubble := false, pend := [] } : Cell) = (s.cell k).stepped := by
    rw [← h5, ← h6, ← h7]
    rfl
  rw [← hcell]
  exact hst

/-! ### Faults -/

theorem Quiet.ld_fault (lg : BitVec 2) (rd ra : BitVec 5) (imm : BitVec 12) {e : Code}
    (hc : sramCheck k ((s.cell k).address ra imm (2 ^ lg.toNat)) (2 ^ lg.toNat) = some e) :
    Faults s k (.next (drive k { sg := g, s := .ld lg rd ra imm } s)) e 0 (s.cell k).pc := by
  refine h.s_fault hg rfl ?_
  rw [evalS, h.cell_holding]
  unfold Cell.address at hc
  dsimp only [Cell.rs_holding, imm64]
  rw [hc]
  rfl

theorem Quiet.st_fault (lg : BitVec 2) (rs ra : BitVec 5) (imm : BitVec 12) {e : Code}
    (hc : sramCheck k ((s.cell k).address ra imm (2 ^ lg.toNat)) (2 ^ lg.toNat) = some e) :
    Faults s k (.next (drive k { sg := g, s := .st lg rs ra imm } s)) e 0 (s.cell k).pc := by
  refine h.s_fault hg rfl ?_
  rw [evalS, h.cell_holding]
  unfold Cell.address at hc
  dsimp only [Cell.rs_holding, imm64]
  rw [hc]
  rfl

end

theorem sramCheck_align {k : CellRef} {a n : Nat} (ha : a % n ≠ 0) : sramCheck k a n = some K.eAlign := by
  rw [sramCheck, if_pos ha]

theorem sramCheck_range {k : CellRef} {a n : Nat} (ha : a % n = 0) (hr : sramSize k < a + n) : sramCheck k a n = some K.eSramRange := by
  rw [sramCheck, if_neg (not_not.mpr ha), if_pos hr]

/-- What memory holds where bytes have been written, and elsewhere. -/
theorem IssuesWith.rd_store {s : State} {k : CellRef} {r : Res} {c : Cell} {a n : Nat} {v : Word} (hs : s.Canon)
    (h : IssuesWith s (s.wrN a (leBytes n v.toNat)) k r c) (t : State) (ht : r = .next t) :
    (∀ i, i < n → t.rd (a + i) = v.extractLsb' (8 * i) 8) ∧ ∀ b, (b < a ∨ a + n ≤ b) → t.rd b = s.rd b := by
  have hlen := length_leBytes n v.toNat
  obtain ⟨t', ht', -, -, -, -, -, hout⟩ := h
  cases ht.symm.trans ht'
  have hm : t.mem = s.mem.writeN a (leBytes n v.toNat) := (congrArg State.mem hout :)
  unfold State.rd
  rw [hm]
  refine ⟨fun i hi => ?_, fun b hb => Phys.rd_writeN_other _ _ _ _ hs.mem (by rwa [hlen])⟩
  rw [Phys.rd_writeN_same _ _ _ _ hs.mem (by rwa [hlen]), getElem_leBytes_toNat]

/-- Settles O4. -/
theorem localSramAccess : Obligations.LocalSramAccess := by
  unfold Obligations.LocalSramAccess
  refine ⟨fun s k g rs ra imm h hg => ?_, fun s k g r ra imm h hg => ?_⟩
  · have st (lg : BitVec 2) := h.st hg lg rs ra imm
    have both (lg : BitVec 2) : (_ ∧ _ ∧ _ ∧ _) → _ := fun ⟨ha, hr, hs, hp⟩ =>
      And.intro (st lg (sramCheck_none ha hr) hs hp) ((st lg (sramCheck_none ha hr) hs hp).rd_store h.1.1)
    exact ⟨both 0, both 1, both 2, both 3⟩
  · have ld (lg : BitVec 2) := And.intro (fun ha => h.ld_fault hg lg r ra imm (sramCheck_align ha))
      (fun ha hr => h.ld_fault hg lg r ra imm (sramCheck_range ha hr))
    have st (lg : BitVec 2) := And.intro (fun ha => h.st_fault hg lg r ra imm (sramCheck_align ha))
      (fun ha hr => h.st_fault hg lg r ra imm (sramCheck_range ha hr))
    exact ⟨ld 0, ld 1, ld 2, ld 3, st 0, st 1, st 2, st 3⟩

end Sys2Proof.Machine

/-! SUPPORT. Words of the S slot that go on elsewhere (R117 to R121): branches, calls, returns and the set-up of loops. -/

namespace Sys2Proof.Machine

open Sys2Proof

/-- The cell that goes on as a control operation says (R117 to R119). -/
def Cell.goes (c : Cell) (ctl : Ctl) : Cell :=
  { c.stepped with pc := (c.nextOf ctl).pc, bubble := (c.nextOf ctl).bubble, loops := (c.nextOf ctl).loops, stack := (c.nextOf ctl).stack }

theorem Cell.goes_seq {c : Cell} (h6 : c.bubble = false) : c.goes .seq = c.stepped := by
  unfold Cell.goes Cell.stepped Cell.nextOf
  rw [← h6]

theorem Cell.stack_holding (c : Cell) (w : HWord) : (c.holding w).stack = c.stack := rfl

theorem Cell.nextOf_holding (c : Cell) (w : HWord) (ctl : Ctl) : (c.holding w).nextOf ctl = c.nextOf ctl := by
  cases ctl <;> rfl

/-- Behind a word without writes the cell goes on as its control operation says. -/
theorem Cell.after_goes {c : Cell} (h5 : c.held = none) (h7 : c.pend = []) (w : HWord) (ctl : Ctl) (sched : Nat) :
    (c.holding w).after { ctl := ctl } sched = c.goes ctl := by
  unfold Cell.after Cell.issued Cell.landed
  rw [Cell.nextOf_holding]
  simp [WordOut.ofSlot, Cell.holding, h7, Cell.goes, Cell.stepped, h5]

/-- Behind a word with one write of a loop counter. -/
theorem Cell.after_goes_lc {c : Cell} (h5 : c.held = none) (h7 : c.pend = []) (w : HWord) (ctl : Ctl) (sched n : Nat) (v : BitVec 32) :
    (c.holding w).after { ctl := ctl, writes := [(1, .lc n v)] } sched = (c.goes ctl).wlc n v := by
  unfold Cell.after Cell.issued Cell.landed
  rw [Cell.nextOf_holding]
  simp [WordOut.ofSlot, Cell.holding, h7, Cell.goes, Cell.stepped, h5, PW.isClear, List.filter_cons]
  rfl

theorem loopsAfterBranch_eq (ls : List Loop) (t : Nat) :
    loopsAfterBranch ls t = ls.filter (fun l => decide (l.first ≤ t) && decide (t ≤ l.last)) := by
  simp only [loopsAfterBranch, Bool.decide_and]

section
variable {s : State} {k : CellRef} {g : BitVec 4} (h : Quiet s k) (hg : (s.cell k).guard g = true)
include h hg

/-- An operation of the S slot that only changes where the cell goes on. -/
theorem Quiet.s_goes {op : SOp} {ctl : Ctl} (hd : op.decodeFault = none) (hc : ctl ≠ .stop)
    (he : evalS (s.updCell k (fun c => c.holding { sg := g, s := op })) k op = { ctl := ctl }) :
    Issues s k (.next (drive k { sg := g, s := op } s)) ((s.cell k).goes ctl) := by
  obtain ⟨⟨-, -, -, -, -, -, h5, -, h7, -⟩, -⟩ := id h
  have := h.s_slot hg hd he rfl rfl hc (by simp)
  rwa [Cell.after_goes h5 h7] at this

/-- One that also writes a loop counter. -/
theorem Quiet.s_goes_lc {op : SOp} {ctl : Ctl} {n : Nat} {v : BitVec 32} (hd : op.decodeFault = none) (hc : ctl ≠ .stop)
    (he : evalS (s.updCell k (fun c => c.holding { sg := g, s := op })) k op = { ctl := ctl, writes := [(1, .lc n v)] }) :
    Issues s k (.next (drive k { sg := g, s := op } s)) (((s.cell k).goes ctl).wlc n v) := by
  obtain ⟨⟨-, -, -, -, -, -, h5, -, h7, -⟩, -⟩ := id h
  have := h.s_slot hg hd he rfl rfl hc (by simp [PW.isOwn])
  rwa [Cell.after_goes_lc h5 h7] at this

/-- A branch to a target in instruction memory, or beyond it. -/
theorem Quiet.s_branch {op : SOp} {t : Nat} {f : Nat → Ctl} (hd : op.decodeFault = none) (hf : f t ≠ .stop)
    (he : evalS (s.updCell k (fun c => c.holding { sg := g, s := op })) k op = branchTo k t f) :
    (t < imemWords k → Issues s k (.next (drive k { sg := g, s := op } s)) ((s.cell k).goes (f t))) ∧
    (imemWords k ≤ t → Faults s k (.next (drive k { sg := g, s := op } s)) K.eImemRange 0 (s.cell k).pc) :=
  ⟨fun ht => h.s_goes hg hd hf (by rw [he, branchTo, if_pos ht]),
    fun ht => h.s_fault hg hd (by rw [he, branchTo, if_neg (Nat.not_lt.mpr ht)]; rfl)⟩

theorem Quiet.br (t : BitVec 12) :
    (t.toNat < imemWords k → Issues s k (.next (drive k { sg := g, s := .br t } s)) ((s.cell k).goes (.branch t.toNat))) ∧
    (imemWords k ≤ t.toNat → Faults s k (.next (drive k { sg := g, s := .br t } s)) K.eImemRange 0 (s.cell k).pc) :=
  h.s_branch hg rfl nofun rfl

theorem Quiet.brr (ra : BitVec 5) :
    (((s.cell k).rs ra).toNat < imemWords k →
      Issues s k (.next (drive k { sg := g, s := .brr ra } s)) ((s.cell k).goes (.branch ((s.cell k).rs ra).toNat))) ∧
    (imemWords k ≤ ((s.cell k).rs ra).toNat → Faults s k (.next (drive k { sg := g, s := .brr ra } s)) K.eImemRange 0 (s.cell k).pc) :=
  h.s_branch hg rfl nofun (by rw [evalS, h.cell_holding]; rfl)

theorem Quiet.call_full (t : BitVec 12) (hs : 8 ≤ (s.cell k).stack.length) :
    Faults s k (.next (drive k { sg := g, s := .call t } s)) K.eStack 0 (s.cell k).pc :=
  h.s_fault hg rfl (by rw [evalS, h.cell_holding]; exact congrArg SlotOut.fault (if_pos hs))

theorem Quiet.call (t : BitVec 12) (hs : (s.cell k).stack.length < 8) :
    (t.toNat < imemWords k → Issues s k (.next (drive k { sg := g, s := .call t } s)) ((s.cell k).goes (.call t.toNat))) ∧
    (imemWords k ≤ t.toNat → Faults s k (.next (drive k { sg := g, s := .call t } s)) K.eImemRange 0 (s.cell k).pc) :=
  h.s_branch hg rfl nofun (by rw [evalS, h.cell_holding]; exact if_neg (Nat.not_le.mpr hs))

theorem Quiet.ret_empty (hs : (s.cell k).stack = []) : Faults s k (.next (drive k { sg := g, s := .ret } s)) K.eStack 0 (s.cell k).pc :=
  h.s_fault hg rfl (by simp only [evalS, h.cell_holding, Cell.stack_holding, hs]; rfl)

theorem Quiet.ret {t : Nat} {rest : List Nat} (hs : (s.cell k).stack = t :: rest) (ht : t < imemWords k) :
    Issues s k (.next (drive k { sg := g, s := .ret } s)) ((s.cell k).goes (.ret t)) :=
  (h.s_branch (f := .ret) hg rfl nofun (by simp only [evalS, h.cell_holding, Cell.stack_holding, hs])).1 ht

end

/-- A word of no-ops only moves the program counter on. -/
theorem Quiet.nop {s : State} {k : CellRef} (h : Quiet s k) : Issues s k (.next (drive k {} s)) (s.cell k).stepped := by
  have := h.s_goes (g := 0) (Cell.guard_zero _) (op := .nop) (ctl := .seq) rfl nofun rfl
  rwa [Cell.goes_seq h.1.2.2.2.2.2.2.2.1] at this

end Sys2Proof.Machine

/-! SUPPORT. A cell that runs alone, whatever writes of it are in flight and whatever loops end at its word; the close of
a cycle in which nothing is under way; END, and a program counter beyond instruction memory (R118, R120, R121). -/

namespace Sys2Proof.Machine

open Sys2Proof

theorem State.updCell_const (s : State) (k : CellRef) (f : Cell → Cell) : s.updCell k f = s.updCell k (fun _ => f (s.cell k)) := rfl

/-- Cell k runs alone at a word of its program without pull points; writes may be in flight, and loops may end there. -/
structure Stands (s : State) (k : CellRef) : Prop where
  canon : s.Canon
  isl : k.isl < 192
  idx : k.c < s.cellCount k.isl
  live : s.islFaulted k.isl = false
  tbl : (s.isl k.isl).table < 256
  run : (s.cell k).run = .running
  held : (s.cell k).held = none
  bub : (s.cell k).bubble = false
  wires : (s.cell k).wires = []
  calm : s.calm k.isl
  others : ∀ c, c < s.cellCount k.isl → c ≠ k.c → (s.cell ⟨k.isl, c⟩).atRest
  pc : (s.cell k).pc < imemWords k
  pulls : s.pullsAt k (s.cell k).pc = []

theorem Alone.stands {s : State} {k : CellRef} (h : Alone s k) (hpc : (s.cell k).pc < imemWords k)
    (hpull : s.pullsAt k (s.cell k).pc = []) : Stands s k := by
  obtain ⟨hc, h1, h2, h3, ht, h4, h5, h6, h7, h8, h13, h12⟩ := h
  exact ⟨hc, h1, h2, h3, ht, h4, h5, h6, h8, h13, h12, hpc, hpull⟩

section
variable {s : State} {k : CellRef} (h : Stands s k) (w : HWord)
include h

theorem Stands.cell_holding : (s.updCell k (fun c => c.holding w)).cell k = (s.cell k).holding w := State.cell_updCell h.canon _ _

theorem Stands.presents : Presents (s.updCell k (fun c => c.holding w)) k w := by
  have e := h.cell_holding w
  refine ⟨h.canon.updCell _ _, h.isl, h.idx, h.live, h.tbl, ?_, ?_, ?_, ?_, ?_, h.calm.holding h.canon w, fun c hl hne => ?_⟩
  · rw [e]; exact h.run
  · rw [e]; rfl
  · rw [e]; exact h.bub
  · rw [e]; exact h.wires
  · rw [e]; exact h.pc
  · rw [State.cell_updCell_other h.canon _ (gid_ne hne)]
    exact h.others c hl hne

theorem Stands.drive_eq : drive k w s = (s.present k w).cycle k.isl := by
  have hd : s.drivable k = true := by
    simp [State.drivable, State.cellExists, h.isl, h.idx, h.live, h.run]
  have hr : (s.cell k).ready = true := by simp [Cell.ready, h.held, h.bub]
  unfold drive
  simp [hd, hr, h.held]

end

/-- A word without actions issues at a cell that runs alone. -/
theorem Stands.drive {s : State} {k : CellRef} {w : HWord} {o : WordOut} (h : Stands s k)
    (hpres : s.present k w = s.updCell k (fun c => c.holding w))
    (hx : s.liveX k w = true → blockX (s.updCell k (fun c => c.holding w)) k w.x = [])
    (ho : evalWord (s.updCell k (fun c => c.holding w)) k w = o) (hf : o.fault = none) :
    drive k w s = State.closeCycle (s.updCell k (fun c => c.holding w)) ((s.updCell k (fun c => c.holding w)).issueWord k o) k.isl s.gtime := by
  have hp : (s.updCell k (fun c => c.holding w)).pullsAt k ((s.updCell k (fun c => c.holding w)).cell k).pc = [] := by
    rw [h.cell_holding]
    exact h.pulls
  rw [h.drive_eq, hpres, (h.presents w).cycle hp (fun hg => hx (State.liveX_holding h.canon w ▸ hg)) (ho ▸ hf), ho]
  rfl

/-- A state that differs in cell k alone, which still runs, ends its cycle like s. -/
theorem Stands.issuedAs {s p q : State} {k : CellRef} {w : HWord} {c : Cell} (h : Stands s k)
    (hp : p = s.updCell k (fun c => c.holding w)) (hq : q = p.updCell k (fun _ => c))
    (hrun : c.run = .running) (hwires : c.wires = []) (hsteer : c.steer = []) : IssuedAs s s p q k c := by
  subst hp hq
  have cp : (s.updCell k (fun c => c.holding w)).Canon := h.canon.updCell _ _
  have self : ((s.updCell k (fun c => c.holding w)).updCell k (fun _ => c)).cell k = c := State.cell_updCell cp _ _
  have other : ∀ j, gid j ≠ gid k → ((s.updCell k (fun c => c.holding w)).updCell k (fun _ => c)).cell j = s.cell j := fun j hj =>
    (State.cell_updCell_other cp _ hj).trans (State.cell_updCell_other h.canon _ hj)
  refine ⟨⟨cp.updCell _ _, h.isl, h.idx, h.live, h.tbl, by rw [self, hrun], h.calm.1, fun j hj => ?_, fun j hj hne => ?_, fun j hj hne => ?_, rfl⟩,
    self, other, fun _ _ => rfl, rfl, fun _ => rfl, ?_⟩
  · by_cases e : j = k.c
    · subst e
      rw [self]
      exact ⟨hwires, hsteer⟩
    · rw [other _ (gid_ne e)]
      exact ⟨(h.others j hj e).2.2.2, (h.calm.2 j hj).1⟩
  · rw [other _ (gid_ne hne)]
    exact (h.others j hj hne).2.2.1
  · rw [other _ (gid_ne hne), State.cell_updCell_other h.canon _ (gid_ne hne)]
  · rw [State.outside_updCell, State.outside_updCell]
    rfl

/-- A word whose only effects are writes to the state of its cell. -/
theorem Stands.issues {s : State} {k : CellRef} {w : HWord} {o : WordOut} (h : Stands s k)
    (hpres : s.present k w = s.updCell k (fun c => c.holding w))
    (hx : s.liveX k w = true → blockX (s.updCell k (fun c => c.holding w)) k w.x = [])
    (ho : evalWord (s.updCell k (fun c => c.holding w)) k w = o) (hf : o.fault = none) (hpl : o.pulls = []) (hst : o.stop = false)
    (hact : o.acts = []) (hown : ∀ x ∈ o.writes, x.2.isOwn = true) (hpend : ∀ x ∈ (s.cell k).pend, x.w.isOwn = true) :
    Issues s k (.next (Machine.drive k w s))
      ((((s.cell k).holding w).issued o (s.isl k.isl).sched).landed ((s.isl k.isl).sched + 1)) := by
  obtain ⟨n1, n2, n3, n4⟩ := Cell.foldNow o.now ((s.cell k).holding w)
  have hrun : (((s.cell k).holding w).issued o (s.isl k.isl).sched).run = .running := n3.trans h.run
  have hissue : (s.updCell k (fun c => c.holding w)).issueWord k o =
      (s.updCell k (fun c => c.holding w)).updCell k (fun _ => ((s.cell k).holding w).issued o (s.isl k.isl).sched) := by
    unfold State.issueWord
    simp only [hpl, hst, hact, List.foldl_nil, Bool.false_eq_true, if_false]
    refine (State.updCell_const _ _ _).trans ?_
    rw [h.cell_holding]
    rfl
  have hi := h.issuedAs rfl hissue hrun (n1.trans h.wires) (n4.trans (h.calm.2 k.c h.idx).1)
  rw [h.drive hpres hx ho hf]
  have hset := State.settle_own (State.count_canon hi.ends.canon k.isl s.gtime) k (fun x hx => by
    rw [State.cell_count, hi.cell] at hx
    have hm : x ∈ (o.now.foldl Cell.applyPW ((s.cell k).holding w)).pend ++ o.writes.map (fun w => (⟨(s.isl k.isl).sched + w.1, w.2⟩ : Pend)) := hx
    rw [n2] at hm
    rcases List.mem_append.mp hm with hx | hx
    · exact hpend x hx
    · obtain ⟨y, hy, rfl⟩ := List.mem_map.mp hx
      exact hown y hy)
  rw [hi.sched, State.cell_count, hi.cell] at hset
  have hS := hset.settled (k := k) (s2 := (s.updCell k (fun c => c.holding w)).issueWord k o)
  refine ⟨_, rfl, hi.cycled rfl ⟨hS.canon, hS.self, hS.other, hS.isls, hS.regs, hS.fuses, ?_⟩ (by rw [Cell.landed_run]; exact hrun)⟩
  have e := congrArg (fun x : State => x.outside s) hS.rest
  simp only [State.outside_outside] at e
  rw [e, hi.rest]

/-- The close of a cycle in which no token is on a wire and no write is in flight. -/
theorem State.closeCycle_calm {b q : State} {i : Nat} {n : Word}
    (hl : ∀ c, c < q.cellCount i → (q.cell ⟨i, c⟩).wires = [] ∧ (q.cell ⟨i, c⟩).steer = [] ∧ (q.cell ⟨i, c⟩).pend = [])
    (hd : ((b.raiseFaults i (q.count i n)).isl i).dheld = []) :
    State.closeCycle b q i n = ((b.raiseFaults i (q.count i n)).incFld (R.islCycle i) 63 0 1).islState i (b2n (b.stretched i) * 8) := by
  obtain ⟨hw, hs⟩ := State.closeLinks (s2 := q) (i := i) (fun c hc => ⟨(hl c hc).1, (hl c hc).2.1⟩)
  have hse : (q.islCells i).foldl (fun s k => s.settle k) (q.count i n) = q.count i n := by
    rw [State.islCells_foldl]
    refine foldl_fixed _ _ _ (fun c hc => ?_)
    have hp := (hl c (List.mem_range.mp hc)).2.2
    rw [← State.cell_count q i n] at hp
    simp [State.settle, hp]
  unfold State.closeCycle
  simp only [hw, hs]
  rw [show q.updIsl i (Isl.next n) = q.count i n from rfl, hse, State.passHeld_nil 1 hd, State.reason_nil]

end Sys2Proof.Machine

/-! SUPPORT. END, and a program counter beyond instruction memory (R118, R121, R136). -/

namespace Sys2Proof.Machine

open Sys2Proof

/-! ### END -/

/-- The state after the last word w of cell k has issued. -/
def State.endedAt (s : State) (k : CellRef) (w : HWord) : State :=
  ((s.updCell k (fun c => c.holding w)).updCell k (fun _ => { s.cell k with run := .ended, last := (s.cell k).pc })).setFld
    (R.islSeq k.isl) (16 + k.c) (16 + k.c) 1

/-- ISL_SEQ once the cycle of that word is over (R121, R139). -/
def State.seqEnded (s : State) (k : CellRef) : Word :=
  putField 6 3 (b2n (s.stretched k.isl) * 8) (putField (16 + k.c) (16 + k.c) 1 (s.reg (R.islSeq k.isl)))

section
variable {s : State} {k : CellRef} (h : Quiet s k) (w : HWord)
include h

theorem Quiet.stands : Stands s k := h.1.stands h.2.1 h.2.2.1

theorem Quiet.idx_lt : k.c < 16 := lt_of_lt_of_le h.stands.idx (s.cellCount_le _)

theorem Quiet.cell_endedAt : (s.endedAt k w).cell k = { s.cell k with run := .ended, last := (s.cell k).pc } := by
  rw [State.endedAt, State.cell_setFld, State.cell_updCell (h.1.1.updCell _ _)]

theorem Quiet.cell_endedAt_other {j : CellRef} (hj : gid j ≠ gid k) : (s.endedAt k w).cell j = s.cell j := by
  rw [State.endedAt, State.cell_setFld, State.cell_updCell_other (h.1.1.updCell _ _) _ hj, State.cell_updCell_other h.1.1 _ hj]

theorem Quiet.endedAt_canon : (s.endedAt k w).Canon := ((h.1.1.updCell _ _).updCell _ _).setFld _ _ _ _

theorem Quiet.reg_endedAt (a : Nat) : (s.endedAt k w).reg a =
    if a = R.islSeq k.isl then putField (16 + k.c) (16 + k.c) 1 (s.reg (R.islSeq k.isl)) else s.reg a := by
  rw [State.endedAt, State.setFld, State.reg_setReg ((h.1.1.updCell _ _).updCell _ _)]
  rfl

theorem Quiet.endedAt_calm : ∀ c, c < (s.endedAt k w).cellCount k.isl → ((s.endedAt k w).cell ⟨k.isl, c⟩).wires = [] ∧
    ((s.endedAt k w).cell ⟨k.isl, c⟩).steer = [] ∧ ((s.endedAt k w).cell ⟨k.isl, c⟩).pend = [] := by
  intro c hc
  have hs := (h.stands.calm.2 c hc).1
  by_cases e : c = k.c
  · subst e
    rw [h.cell_endedAt]
    exact ⟨h.stands.wires, hs, h.1.2.2.2.2.2.2.2.2.1⟩
  · rw [h.cell_endedAt_other w (gid_ne e)]
    obtain ⟨-, -, hp, hw⟩ := h.stands.others c hc e
    exact ⟨hw, hs, hp⟩

/-- No cell of the island runs any more, and none has faulted. -/
theorem Quiet.endedAt_stopped {c : Nat} (hc : c < s.cellCount k.isl) : ((s.endedAt k w).cell ⟨k.isl, c⟩).run ≠ .running := by
  by_cases e : c = k.c
  · subst e
    rw [h.cell_endedAt]
    nofun
  · rw [h.cell_endedAt_other w (gid_ne e)]
    exact (h.stands.others c hc e).1

theorem Quiet.endedAt_unfaulted {c : Nat} (hf : ((s.endedAt k w).cell ⟨k.isl, c⟩).run = .faulted) :
    ((s.updCell k (fun c => c.holding w)).cell ⟨k.isl, c⟩).run = .faulted := by
  by_cases e : c = k.c
  · subst e
    rw [h.cell_endedAt] at hf
    exact absurd hf nofun
  · rw [h.cell_endedAt_other w (gid_ne e)] at hf
    rwa [State.cell_updCell_other h.1.1 _ (gid_ne e)]

/-- All cells of the island have ended exactly if all but k had. -/
theorem Quiet.endedAt_all : (∀ c, c < s.cellCount k.isl → ((s.endedAt k w).cell ⟨k.isl, c⟩).run = .ended) ↔
    ∀ j, j < s.cellCount k.isl → j ≠ k.c → (s.cell ⟨k.isl, j⟩).run = .ended := by
  refine ⟨fun ha j hj hne => ?_, fun ho c hc => ?_⟩
  · rw [← h.cell_endedAt_other w (gid_ne hne)]
    exact ha j hj
  · by_cases e : c = k.c
    · subst e
      rw [h.cell_endedAt]
    · rw [h.cell_endedAt_other w (gid_ne e)]
      exact ho c hc e

/-- The state at the end of the cycle, before ISL_SEQ shows the island's state. -/
theorem Quiet.endedAt_live {v : State} {rs : Nat} (hv : v = ((s.endedAt k w).count k.isl s.gtime).incFld (R.islCycle k.isl) 63 0 1) :
    (v.setFld (R.islSeq k.isl) 6 3 rs).islFaulted k.isl = false := by
  have hc := h.endedAt_canon w
  have cq := State.count_canon hc k.isl s.gtime
  have cv : v.Canon := hv ▸ cq.incFld _ _ _ _
  have hk := h.idx_lt
  have vreg (a : Nat) (ha : a ≠ R.islCycle k.isl) : v.reg a = (s.endedAt k w).reg a := by
    rw [hv, State.reg_incFld_ne cq _ _ _ ha]
    rfl
  have hisl : v.isl k.isl = (s.isl k.isl).next s.gtime := by
    rw [hv, State.isl_incFld]
    exact State.isl_setIsl hc _ _
  rw [← h.stands.live]
  refine State.islFaulted_congr h.stands.isl h.stands.tbl ?_ ?_ fun a ha hs => ?_
  · rw [State.isl_setFld, hisl]
    rfl
  · rw [State.fld_setFld_other cv _ _ _ _ _ _ (by omega) (by omega) (by omega) (by omega)]
    rw [State.fld_congr (vreg _ (islCycle_ne_islSeq _).symm)]
    exact State.fld_setFld_other ((h.1.1.updCell _ _).updCell _ _) _ _ _ _ _ _ (by omega) (by omega) (by omega) (by omega)
  · rw [State.reg_setFld_ne cv _ _ _ hs, vreg a ha, h.reg_endedAt, if_neg hs]

/-- ISL_SEQ at the end of the cycle. -/
theorem Quiet.endedAt_islState {v : State} {rs : Nat} (hv : v = ((s.endedAt k w).count k.isl s.gtime).incFld (R.islCycle k.isl) 63 0 1) :
    v.islState k.isl rs =
      if ∀ j, j < s.cellCount k.isl → j ≠ k.c → (s.cell ⟨k.isl, j⟩).run = .ended
      then (v.setFld (R.islSeq k.isl) 6 3 rs).setFld (R.islSeq k.isl) 2 0 4 else v.setFld (R.islSeq k.isl) 6 3 rs := by
  have hcell (j : CellRef) : v.cell j = (s.endedAt k w).cell j := by rw [hv, State.cell_incFld, State.cell_count]
  have hcnt : v.islCells k.isl = s.islCells k.isl := State.islCells_congr (by rw [hv]; rfl) _
  have hany : (v.islCells k.isl).any (fun j => (v.cell j).run == .running) = false := by
    rw [hcnt, State.islCells, List.any_map, List.any_eq_false]
    intro c hc
    simpa [hcell] using h.endedAt_stopped w (List.mem_range.mp hc)
  have hall : (v.islCells k.isl).all (fun j => (v.cell j).run == .ended) = true ↔
      ∀ j, j < s.cellCount k.isl → j ≠ k.c → (s.cell ⟨k.isl, j⟩).run = .ended := by
    rw [← h.endedAt_all w, hcnt, State.islCells, List.all_map, List.all_eq_true]
    simp [hcell]
  unfold State.islState
  simp only [h.endedAt_live w hv, hany, Bool.false_eq_true, if_false, hall]

end

/-- END at the one running cell of an island. -/
theorem Quiet.endP {s : State} {k : CellRef} {g : BitVec 4} (h : Quiet s k) (hg : (s.cell k).guard g = true) :
    drive k { sg := g, s := .endP } s =
      (((s.endedAt k { sg := g, s := .endP }).count k.isl s.gtime).incFld (R.islCycle k.isl) 63 0 1).islState k.isl
        (b2n (s.stretched k.isl) * 8) := by
  obtain ⟨⟨-, -, -, -, -, -, h5, h6, h7, -⟩, -, h10, h11⟩ := id h
  generalize hw : ({ sg := g, s := .endP } : HWord) = w
  have he : evalWord (s.updCell k (fun c => c.holding w)) k w = WordOut.ofSlot { ctl := .stop } (((s.cell k).holding w).nextOf .stop) :=
    hw ▸ evalWord_s (h.cell_holding _) h7 h11 h10 hg rfl rfl rfl
  rw [h.stands.drive (hw ▸ present_s g _) (fun _ => hw ▸ rfl) he rfl]
  have hi : (s.updCell k (fun c => c.holding w)).issueWord k (WordOut.ofSlot { ctl := .stop } (((s.cell k).holding w).nextOf .stop)) =
      s.endedAt k w := by
    unfold State.issueWord State.endedAt
    refine congrArg (fun q : State => q.setFld _ _ _ _) ((State.updCell_const _ _ _).trans ?_)
    simp only [WordOut.ofSlot, List.filter_nil, List.map_nil, List.append_nil, List.foldl_nil, h.cell_holding, Cell.nextOf, if_true, ← h5, ← h6]
    rfl
  have hr : (s.updCell k (fun c => c.holding w)).raiseFaults k.isl ((s.endedAt k w).count k.isl s.gtime) =
      (s.endedAt k w).count k.isl s.gtime :=
    State.raiseFaults_none (fun c _ hf => h.endedAt_unfaulted w hf)
  rw [hi, State.closeCycle_calm (h.endedAt_calm w) ?_, hr]
  · rfl
  · rw [hr, State.count, State.isl_updIsl (h.endedAt_canon w)]
    exact h.stands.calm.1

end Sys2Proof.Machine

/-! SUPPORT. Words without effect, loop-back, writes that land later, and a program counter beyond instruction memory (R107,
R110, R118, R120). -/

namespace Sys2Proof.Machine

open Sys2Proof

/-! ### Words without effect -/

/-- A word none of whose operations acts. -/
theorem evalWord_idle {p : State} {k : CellRef} {w : HWord} {c : Cell} (hc : p.cell k = c) (hl : ∀ x ∈ c.loops, x.last ≠ c.pc)
    (hp : p.pullsAt k c.pc = []) (hd : w.decodeFault (isMemCell k) = none) (he : evalSlots p k w = ({}, {}, {}, {})) :
    evalWord p k w = WordOut.ofSlot {} (c.nextOf .seq) := by
  unfold evalWord
  simp [hd, he, hc, hp, seqNext_plain _ _ _ hl, firstFault, State.pullFault, WordOut.ofSlot, Cell.nextOf]

/-- Such a word only moves the program counter on. -/
theorem Quiet.idle {s : State} {k : CellRef} {w : HWord} (h : Quiet s k)
    (hpres : s.present k w = s.updCell k (fun c => c.holding w))
    (hx : s.liveX k w = true → blockX (s.updCell k (fun c => c.holding w)) k w.x = []) (hd : w.decodeFault (isMemCell k) = none)
    (he : evalSlots (s.updCell k (fun c => c.holding w)) k w = ({}, {}, {}, {})) :
    Issues s k (.next (drive k w s)) (s.cell k).stepped := by
  obtain ⟨⟨-, -, -, -, -, -, h5, h6, h7, -⟩, -, h10, h11⟩ := id h
  have := h.plain hpres hx (evalWord_idle (h.cell_holding w) h11 h10 hd he) rfl nofun (by simp)
  rwa [Cell.after_goes h5 h7, Cell.goes_seq h6] at this

theorem Cell.guard_holding (c : Cell) (w : HWord) (g : BitVec 4) : (c.holding w).guard g = c.guard g := rfl

/-- An operation of the S slot whose guard is false. -/
theorem Quiet.s_off {s : State} {k : CellRef} {g : BitVec 4} (h : Quiet s k) (hg : (s.cell k).guard g = false) {op : SOp}
    (hd : op.decodeFault = none) : Issues s k (.next (drive k { sg := g, s := op } s)) (s.cell k).stepped := by
  refine h.idle (present_s g op) (fun _ => rfl) ?_ ?_
  · simp [HWord.decodeFault, hd, MOp.decodeFault, VOp.decodeFault, XOp.decodeFault]
  · simp only [evalSlots, h.cell_holding, Cell.guard_holding, hg, Cell.guard_zero, if_true]
    rfl

/-- An operation of the X slot whose guard is false. -/
theorem Quiet.x_off {s : State} {k : CellRef} {g : BitVec 4} (h : Quiet s k) (hg : (s.cell k).guard g = false) {op : XOp}
    (hd : op.decodeFault (isMemCell k) = none) : Issues s k (.next (drive k { xg := g, x := op } s)) (s.cell k).stepped := by
  have hlive (w : HWord) (hw : w.xg = g) : s.liveX k w = false := by simp [State.liveX, hw, hg]
  refine h.idle ?_ (fun hl => ?_) ?_ ?_
  · have hl := hlive { xg := g, x := op } rfl
    rw [← State.liveX_holding h.1.1] at hl
    unfold State.present
    refine if_neg (fun hh => ?_)
    exact absurd hl (by rw [Bool.not_eq_false]; exact hh.2)
  · rw [hlive _ rfl] at hl
    exact absurd hl nofun
  · simp [HWord.decodeFault, hd, SOp.decodeFault, MOp.decodeFault, VOp.decodeFault]
  · simp only [evalSlots, h.cell_holding, Cell.guard_holding, hg, Cell.guard_zero, if_true]
    rfl

/-! ### A word of no-ops with writes in flight, or at the end of a loop -/

theorem loopBack_holding (c : Cell) (w : HWord) (skip : Option Nat) (pc : Nat) (l : List Loop) :
    loopBack (c.holding w) skip pc l = loopBack c skip pc l := by
  induction l with
  | nil => rfl
  | cons x t ih => rw [loopBack, loopBack, ih]; rfl

theorem evalWord_nop {p : State} {k : CellRef} {c : Cell} (hc : p.cell k = c) (hp : p.pullsAt k c.pc = []) {nx : Option Nat}
    {ws : List (Nat × PW)} {ls : List Loop} (hb : loopBack c none c.pc c.loops = (nx, ws, ls))
    (hcl : clashes (p.isl k.isl).sched c.pend ws = false) (hw : ∀ x ∈ ws, x.1 ≠ 0 ∧ x.2.isZero = false) :
    evalWord p k {} = { writes := ws, pc := nx.getD (c.pc + 1), loops := ls, stack := c.stack } := by
  have hs : evalSlots p k {} = ({}, {}, {}, {}) := by
    simp only [evalSlots, Cell.guard_zero, if_true]
    rfl
  have hd : HWord.decodeFault (isMemCell k) {} = none := by
    simp [HWord.decodeFault, SOp.decodeFault, MOp.decodeFault, VOp.decodeFault, XOp.decodeFault]
  have he : evalWord p k {} = WordOut.ofSlot { writes := ws } { pc := nx.getD (c.pc + 1), loops := ls, stack := c.stack } := by
    unfold evalWord
    simp only [hd, hs]
    simp [hc, hp, seqNext, mtsrLc, hb, hcl, firstFault, State.pullFault, WordOut.ofSlot, -List.filter_filter]
    all_goals exact ⟨rfl, rfl⟩
  have hz : ws.filter (fun x => x.2.isZero) = [] := List.filter_eq_nil_iff.mpr (fun x hx => by simp [(hw x hx).2])
  have hr : ws.filter (fun x => !x.2.isZero) = ws := List.filter_eq_self.mpr (fun x hx => by simp [(hw x hx).2])
  have h0 : ws.filter (fun x => x.1 != 0) = ws := List.filter_eq_self.mpr (fun x hx => by simpa using (hw x hx).1)
  have h1 : ws.filter (fun x => x.1 == 0) = [] := List.filter_eq_nil_iff.mpr (fun x hx => by simpa using (hw x hx).1)
  rw [he, WordOut.ofSlot_eq]
  simp only [laterWrites, hz, hr, h0, h1, List.nil_append, List.map_nil]

theorem Stands.nop {s : State} {k : CellRef} (h : Stands s k) {nx : Option Nat} {ws : List (Nat × PW)} {ls : List Loop}
    (hb : loopBack (s.cell k) none (s.cell k).pc (s.cell k).loops = (nx, ws, ls))
    (hcl : clashes (s.isl k.isl).sched (s.cell k).pend ws = false) (hw : ∀ x ∈ ws, x.1 ≠ 0 ∧ x.2.isZero = false ∧ x.2.isOwn = true)
    (hpend : ∀ x ∈ (s.cell k).pend, x.w.isOwn = true) :
    Issues s k (.next (Machine.drive k {} s))
      (((s.cell k).issued { writes := ws, pc := nx.getD ((s.cell k).pc + 1), loops := ls, stack := (s.cell k).stack }
        (s.isl k.isl).sched).landed ((s.isl k.isl).sched + 1)) :=
  h.issues (present_s 0 .nop) (fun _ => rfl)
    (evalWord_nop (h.cell_holding _) h.pulls ((loopBack_holding _ _ _ _ _).trans hb) hcl (fun x hx => ⟨(hw x hx).1, (hw x hx).2.1⟩)) rfl rfl rfl rfl
    (fun x hx => (hw x hx).2.2) hpend

end Sys2Proof.Machine

/-! SUPPORT. A cell that stands behind its instruction memory (R118, R136). -/

namespace Sys2Proof.Machine

open Sys2Proof

/-- Nothing happens before the words of a cycle in an island that is calm. -/
theorem State.openCycle_calm {p : State} {i : Nat} (hcalm : p.calm i) (hw : ∀ c, c < p.cellCount i → (p.cell ⟨i, c⟩).wires = []) :
    p.openCycle i = p := by
  have h1 : (p.islCells i).foldl (fun s k => s.intakeStep k) p = p := by
    rw [State.islCells_foldl]
    exact foldl_fixed _ _ _ (fun c hc => by simp [State.intakeStep, (hcalm.2 c (List.mem_range.mp hc)).2.1])
  have h2 : p.deliverHeads i = p := by
    unfold State.deliverHeads
    rw [State.islCells_foldl]
    exact foldl_fixed _ _ _ (fun c hc => foldl_fixed _ _ _ (fun q hq => by
      rw [(hcalm.2 c (List.mem_range.mp hc)).2.2 q (List.mem_range.mp hq)]; rfl))
  have h3 : (p.islCells i).foldl (fun s k => s.arrivals k) p = p := by
    rw [State.islCells_foldl]
    exact foldl_fixed _ _ _ (fun c hc => by simp [State.arrivals, hw c (List.mem_range.mp hc)])
  have h4 : (p.islCells i).foldl (fun s k => s.fireAll k) p = p := by
    rw [State.islCells_foldl]
    exact foldl_fixed _ _ _ (fun c hc => by simp [State.fireAll, (hcalm.2 c (List.mem_range.mp hc)).1])
  unfold State.openCycle
  simp only [h1, h2, h3, h4]

theorem Alone.drive_eq {s : State} {k : CellRef} (h : Alone s k) (w : HWord) : drive k w s = (s.present k w).cycle k.isl := by
  obtain ⟨hc, h1, h2, h3, ht, h4, h5, h6, h7, h8, h13, h12⟩ := h
  have hd : s.drivable k = true := by
    simp [State.drivable, State.cellExists, h1, h2, h3, h4]
  have hr : (s.cell k).ready = true := by simp [Cell.ready, h5, h6]
  unfold drive
  simp [hd, hr, h5]

/-- The fault of cell k as CELL_FAULT records it, its cycle counted. -/
theorem Alone.noted {s : State} {k : CellRef} (h : Alone s k) (w : HWord) (fc : Code) (slot word : Nat) (n : Word) :
    Noted s (s.updCell k (fun c => c.holding w)) (((s.updCell k (fun c => c.holding w)).recordFault k fc slot word).count k.isl n)
      k fc slot word := by
  have cp : (s.updCell k (fun c => c.holding w)).Canon := h.1.updCell _ _
  have ci := (cp.setReg (R.cellFault k) (faultWord fc slot word (s.reg (R.islCycle k.isl)))).updCell k
    (fun c => { c with run := .faulted, held := none, sync := .none })
  rw [State.recordFault_eq, State.reg_updCell]
  obtain ⟨x1, x2, x3, x4, x5, x6, x7⟩ := State.updIsl_rest (((s.updCell k (fun c => c.holding w)).setReg (R.cellFault k)
    (faultWord fc slot word (s.reg (R.islCycle k.isl)))).updCell k (fun c => { c with run := .faulted, held := none, sync := .none })) k.isl (Isl.next n)
  obtain ⟨y1, y2, y3, y4, y5, y6, y7⟩ := State.setReg_updCell_rest (s.updCell k (fun c => c.holding w)) (R.cellFault k)
    (faultWord fc slot word (s.reg (R.islCycle k.isl))) k (fun c => { c with run := .faulted, held := none, sync := .none })
  obtain ⟨z1, z2, z3, z4, z5, z6⟩ := State.updCell_rest s k (fun c => c.holding w)
  refine ⟨ci.updIsl _ _, ?_, fun j hj => ?_, ?_, fun a ha => ?_, ?_, ?_, x7.trans y7, x1.trans (y1.trans z1), x2.trans (y2.trans z2),
    x3.trans (y3.trans z3), x4.trans (y4.trans z4), x5.trans (y5.trans z5), x6.trans (y6.trans z6)⟩
  · rw [State.cell_count, State.cell_updCell (cp.setReg _ _), State.cell_setReg, State.cell_updCell h.1]
    unfold Cell.holding
    rfl
  · rw [State.cell_count, State.cell_updCell_other (cp.setReg _ _) _ hj, State.cell_setReg, State.cell_updCell_other h.1 _ hj]
  · rw [State.count, State.reg_updIsl, State.reg_updCell, State.reg_setReg cp, if_pos rfl]
  · rw [State.count, State.reg_updIsl, State.reg_updCell, State.reg_setReg cp, if_neg ha, State.reg_updCell]
  · rw [State.count, State.isl_updIsl ci, State.isl_updCell, State.isl_setReg, State.isl_updCell]
    rfl
  · rw [State.count, State.isl_updIsl ci, State.isl_updCell, State.isl_setReg, State.isl_updCell]
    rfl

section
variable {s : State} {k : CellRef} (h : Alone s k) (w : HWord)
include h

/-- The cells of the island while k holds a word that it cannot issue. -/
theorem Alone.rests (c : Nat) (hc : c < s.cellCount k.isl) : ((s.updCell k (fun c => c.holding w)).cell ⟨k.isl, c⟩).wires = [] ∧
    ((s.updCell k (fun c => c.holding w)).cell ⟨k.isl, c⟩).bubble = false ∧
    (c ≠ k.c → ((s.updCell k (fun c => c.holding w)).cell ⟨k.isl, c⟩).presented = none) := by
  obtain ⟨hcan, -, -, -, -, -, -, h6, -, h8, -, h12⟩ := h
  by_cases e : c = k.c
  · subst e
    rw [show (⟨k.isl, k.c⟩ : CellRef) = k from rfl, State.cell_updCell hcan]
    exact ⟨h8, h6, fun x => absurd rfl x⟩
  · obtain ⟨hr, hb, -, hw⟩ := h12 c hc e
    rw [State.cell_updCell_other hcan _ (gid_ne e)]
    exact ⟨hw, hb, fun _ => by simp [Cell.presented, hr]⟩

theorem Alone.presented : ((s.updCell k (fun c => c.holding w)).cell k).presented = some w := by
  obtain ⟨hcan, -, -, -, -, h4, -, h6, -⟩ := h
  rw [State.cell_updCell hcan]
  simp [Cell.presented, Cell.holding, h4, h6]

theorem Alone.unblocked (hpc : imemWords k ≤ (s.cell k).pc) : (s.updCell k (fun c => c.holding w)).blockClasses k.isl = [] := by
  have hcalm := h.2.2.2.2.2.2.2.2.2.2.1.holding h.1 w
  unfold State.blockClasses State.islCells
  rw [List.flatMap_eq_nil_iff]
  intro x hx
  obtain ⟨c, hc, rfl⟩ := List.mem_map.mp hx
  have hc := List.mem_range.mp hc
  obtain ⟨hw, -, hn⟩ := h.rests w c hc
  rw [show (s.updCell k (fun c => c.holding w)).arrivalBlocked ⟨k.isl, c⟩ = false by simp [State.arrivalBlocked, hw],
    show (s.updCell k (fun c => c.holding w)).fireBlocked ⟨k.isl, c⟩ = false by simp [State.fireBlocked, hw, (hcalm.2 c hc).1]]
  by_cases e : c = k.c
  · subst e
    have hp : imemWords k ≤ ((s.updCell k (fun c => c.holding w)).cell k).pc := by rwa [State.cell_updCell h.1]
    simp [h.presented w, hp]
  · simp [hn e]

theorem Alone.outcomes (hpc : imemWords k ≤ (s.cell k).pc) :
    (s.updCell k (fun c => c.holding w)).outcomes k.isl = [(k, { fault := some (K.eImemRange, 4) })] := by
  have hc : k.c < (s.updCell k (fun c => c.holding w)).cellCount k.isl := h.2.2.1
  unfold State.outcomes State.islCells
  rw [List.filterMap_map, filterMap_one _ _ k.c hc]
  · have hp : imemWords k ≤ ((s.updCell k (fun c => c.holding w)).cell k).pc := by rwa [State.cell_updCell h.1]
    show (match ((s.updCell k (fun c => c.holding w)).cell k).presented with | none => _ | some w => _ : Option _).toList = _
    rw [h.presented w]
    simp [hp]
  · intro j hj hne
    simp [(h.rests w j hj).2.2 hne]

/-- The cycle in which the cell would issue a word beyond its instruction memory. -/
theorem Alone.cycle_overrun (hpc : imemWords k ≤ (s.cell k).pc) :
    (s.updCell k (fun c => c.holding w)).cycle k.isl = State.closeCycle (s.updCell k (fun c => c.holding w))
      ((s.updCell k (fun c => c.holding w)).recordFault k K.eImemRange 3 (s.cell k).last) k.isl (s.isl k.isl).issued := by
  have hlive : (s.updCell k (fun c => c.holding w)).islFaulted k.isl = false := h.2.2.2.1
  have hi := h.2.1
  have hb : ((s.updCell k (fun c => c.holding w)).islCells k.isl).foldl (fun s k => s.consumeBubble k) (s.updCell k (fun c => c.holding w)) =
      s.updCell k (fun c => c.holding w) := by
    rw [State.islCells_foldl]
    exact foldl_fixed _ _ _ (fun c hc => by simp [State.consumeBubble, (h.rests w c (List.mem_range.mp hc)).2.1])
  unfold State.cycle
  rw [if_neg (by rw [hlive]; simp; omega), h.unblocked w hpc]
  simp only [List.isEmpty_nil, if_true]
  unfold State.schedCycle State.recordFaults
  simp only [State.openCycle_calm (h.2.2.2.2.2.2.2.2.2.2.1.holding h.1 w) (fun c hc => (h.rests w c hc).1), hb, h.outcomes w hpc, List.filter_cons, List.filter_nil, Option.isNone_some, Bool.false_eq_true, if_false, List.foldl_nil,
    List.filterMap_cons, List.filterMap_nil, Option.map_some, List.foldl_cons, List.isEmpty_nil, if_true, State.cell_updCell h.1]
  rfl

end

/-- The fault of a program counter beyond instruction memory. -/
theorem Alone.overrun {s : State} {k : CellRef} (h : Alone s k) (hpc : imemWords k ≤ (s.cell k).pc) :
    Faults s k (.next (drive k {} s)) K.eImemRange 3 (s.cell k).last := by
  have hN := h.noted {} K.eImemRange 3 (s.cell k).last (s.isl k.isl).issued
  obtain ⟨hcan, hi, h2, h3, ht, h4, h5, h6, h7, h8, hcalm, h12⟩ := id h
  have hR := hN.recorded hi (lt_of_lt_of_le h2 (s.cellCount_le _)) ht
  generalize hp : s.updCell k (fun c => c.holding {}) = p at hN hR
  generalize hr : p.recordFault k K.eImemRange 3 (s.cell k).last = r at hN hR
  obtain ⟨t, e, rest⟩ := hR.closes (b2n (p.stretched k.isl) * 8)
  have hcell (c : Nat) : r.cell ⟨k.isl, c⟩ = (r.count k.isl (s.isl k.isl).issued).cell ⟨k.isl, c⟩ := rfl
  have hpo (c : Nat) (hne : c ≠ k.c) : p.cell ⟨k.isl, c⟩ = s.cell ⟨k.isl, c⟩ := by
    rw [← hp, State.cell_updCell_other hcan _ (gid_ne hne)]
  have hcnt : r.cellCount k.isl = s.cellCount k.isl := State.cellCount_congr (hN.fuses.trans (by rw [← hp]; rfl)) _
  have hlinks (c : Nat) (hc : c < r.cellCount k.isl) :
      (r.cell ⟨k.isl, c⟩).wires = [] ∧ (r.cell ⟨k.isl, c⟩).steer = [] ∧ (r.cell ⟨k.isl, c⟩).pend = [] := by
    rw [hcnt] at hc
    have hs := (hcalm.2 c hc).1
    by_cases e : c = k.c
    · subst e
      rw [hcell, hN.cell]
      exact ⟨h8, hs, h7⟩
    · rw [hcell, hN.other _ (gid_ne e)]
      exact ⟨(h12 c hc e).2.2.2, hs, (h12 c hc e).2.2.1⟩
  have hrf : p.raiseFaults k.isl (r.count k.isl (s.isl k.isl).issued) = (r.count k.isl (s.isl k.isl).issued).islandFault k K.eImemRange := by
    rw [State.raiseFaults_one (k := k)]
    · congr 1
      unfold State.fld
      rw [hN.cellFault, faultWord_code]
    · intro e
      unfold State.islFaulted at h3
      rw [← hp] at e
      exact absurd h3 (by rw [show s.fld (R.islSeq k.isl) 2 0 = 3 from e]; simp)
    · exact lt_of_lt_of_eq h2 hcnt.symm
    · rw [hN.cell]
    · rw [← hp, State.cell_updCell hcan]
      exact fun e => absurd (h4.symm.trans e) nofun
    · intro c _ e
      rw [hN.other _ (gid_ne e), hpo c e]
  have hpres : s.present k {} = p := hp ▸ present_s 0 .nop
  refine ⟨_, rfl, ?_⟩
  rw [h.drive_eq, hpres, ← hp, h.cycle_overrun _ hpc, hp, hr, State.closeCycle_calm hlinks (by rw [hrf, hR.dheld]; exact hcalm.1), hrf, e]
  exact rest

end Sys2Proof.Machine

/-! SUPPORT. Loop set-up and loop-back, and the statements about the program counter (R107, R110, R114, R117 to R121). -/

namespace Sys2Proof.Machine

open Sys2Proof

/-! ### Loop set-up -/

section
variable {s : State} {k : CellRef} {g : BitVec 4} {op : SOp} {n : BitVec 2} {len : BitVec 8} {v : BitVec 32} (h : Quiet s k)
  (hg : (s.cell k).guard g = true) (hd : op.decodeFault = none)
  (he : evalS (s.updCell k (fun c => c.holding { sg := g, s := op })) k op = loopSetup k (s.cell k) n.toNat len.toNat v)
include h hg hd he

/-- The faults of a loop's set-up: a body beyond instruction memory, an active counter. -/
theorem Quiet.loop_beyond (hl : imemWords k ≤ (s.cell k).pc + 1 + len.toNat) :
    Faults s k (.next (drive k { sg := g, s := op } s)) K.eImemRange 0 (s.cell k).pc :=
  h.s_fault hg hd (by rw [he, loopSetup]; exact congrArg SlotOut.fault (if_pos hl))

theorem Quiet.loop_active (hl : (s.cell k).pc + 1 + len.toNat < imemWords k) (ha : ∃ l ∈ (s.cell k).loops, l.n = n.toNat) :
    Faults s k (.next (drive k { sg := g, s := op } s)) K.eLoop 0 (s.cell k).pc := by
  have hany : (s.cell k).loops.any (fun l => l.n == n.toNat) = true := by simpa using ha
  exact h.s_fault hg hd (by rw [he, loopSetup]; simp only [if_neg (Nat.not_le.mpr hl), hany, if_true]; rfl)

/-- A count above 0 makes the loop active. -/
theorem Quiet.loop_enter (hl : (s.cell k).pc + 1 + len.toNat < imemWords k) (ha : ∀ l ∈ (s.cell k).loops, l.n ≠ n.toNat) (hv : v ≠ 0) :
    Issues s k (.next (drive k { sg := g, s := op } s))
      (((s.cell k).goes (.loop ⟨n.toNat, (s.cell k).pc + 1, (s.cell k).pc + 1 + len.toNat⟩)).wlc n.toNat v) := by
  have hany : (s.cell k).loops.any (fun l => l.n == n.toNat) = false := by simpa using ha
  exact h.s_goes_lc hg hd nofun (by rw [he, loopSetup]; simp only [if_neg (Nat.not_le.mpr hl), hany, hv, if_false, Bool.false_eq_true])

/-- A count of 0 goes on behind the body, if there is a word. -/
theorem Quiet.loop_skip (hl : (s.cell k).pc + 1 + len.toNat + 1 < imemWords k) (ha : ∀ l ∈ (s.cell k).loops, l.n ≠ n.toNat) (hv : v = 0) :
    Issues s k (.next (drive k { sg := g, s := op } s)) (((s.cell k).goes (.branch ((s.cell k).pc + 1 + len.toNat + 1))).wlc n.toNat 0) := by
  have hany : (s.cell k).loops.any (fun l => l.n == n.toNat) = false := by simpa using ha
  have hl' : ¬ imemWords k ≤ (s.cell k).pc + 1 + len.toNat := by omega
  exact h.s_goes_lc hg hd nofun (by rw [he, loopSetup]; simp only [if_neg hl', hany, hv, if_true, if_false, Bool.false_eq_true, branchTo, if_pos hl]; rfl)

theorem Quiet.loop_skip_beyond (hl : (s.cell k).pc + 1 + len.toNat + 1 = imemWords k) (ha : ∀ l ∈ (s.cell k).loops, l.n ≠ n.toNat) (hv : v = 0) :
    Faults s k (.next (drive k { sg := g, s := op } s)) K.eImemRange 0 (s.cell k).pc := by
  have hany : (s.cell k).loops.any (fun l => l.n == n.toNat) = false := by simpa using ha
  have hl' : ¬ imemWords k ≤ (s.cell k).pc + 1 + len.toNat := by omega
  have hn : ¬ (s.cell k).pc + 1 + len.toNat + 1 < imemWords k := by omega
  exact h.s_fault hg hd (by rw [he, loopSetup]; simp only [if_neg hl', hany, hv, if_true, if_false, Bool.false_eq_true, branchTo, if_neg hn]; rfl)

end

/-! ### Loop-back -/

/-- The last word of a body whose counter is above 1. -/
theorem Stands.loop_again {s : State} {k : CellRef} (h : Stands s k) (hp : (s.cell k).pend = []) {l : Loop} {rest : List Loop}
    (hls : (s.cell k).loops = l :: rest) (hl : l.last = (s.cell k).pc) (hv : 1 < ((s.cell k).rlc l.n).toNat) :
    Issues s k (.next (Machine.drive k {} s)) ({ (s.cell k).stepped with pc := l.first }.wlc l.n ((s.cell k).rlc l.n - 1)) := by
  have := h.nop (nx := some l.first) (ws := [(1, .lc l.n ((s.cell k).rlc l.n - 1))]) (ls := l :: rest)
    (by rw [hls, loopBack, if_pos hl, if_pos hv]) (by rw [hp]; exact clashes_nil_left _ _) (by simp [PW.isZero, PW.isOwn]) (by simp [hp])
  convert this using 1
  simp [Cell.issued, Cell.landed, hp, PW.isClear, Cell.applyPW, Cell.stepped, ← hls, h.held, h.bub]

/-- The last word of a body whose counter is 1: the loop is over. -/
theorem Stands.loop_over {s : State} {k : CellRef} (h : Stands s k) (hp : (s.cell k).pend = []) {l : Loop} {rest : List Loop}
    (hls : (s.cell k).loops = l :: rest) (hl : l.last = (s.cell k).pc) (hr : ∀ x ∈ rest, x.last ≠ (s.cell k).pc)
    (hv : ((s.cell k).rlc l.n).toNat = 1) :
    Issues s k (.next (Machine.drive k {} s)) ({ (s.cell k).stepped with loops := rest }.wlc l.n 0) := by
  have h1 : (s.cell k).rlc l.n = 1 := BitVec.eq_of_toNat_eq hv
  have := h.nop (nx := none) (ws := [(1, .lc l.n 0)]) (ls := rest)
    (by rw [hls, loopBack, if_pos hl, if_neg (by omega), loopBack_none _ _ _ _ hr]; simp [h1])
    (by rw [hp]; exact clashes_nil_left _ _) (by simp [PW.isZero, PW.isOwn]) (by simp [hp])
  convert this using 1
  simp [Cell.issued, Cell.landed, hp, PW.isClear, Cell.applyPW, Cell.stepped, h.held, h.bub]

/-! ### Writes in flight -/

/-- A write that is due lands. -/
theorem Cell.landed_due {c : Cell} (hp : c.pend = []) {due now : Nat} (hd : due ≤ now) (w : PW) :
    (c.inFlight due w).landed now = c.applyPW w := by
  have e : ({ c with pend := [] } : Cell) = c := by rw [← hp]
  cases hw : w.isClear <;> simp [Cell.landed, Cell.inFlight, hp, hd, hw, e]

/-- A write that is not due stays in flight. -/
theorem Cell.landed_later {c : Cell} (hp : c.pend = []) {due now : Nat} (hd : now < due) (w : PW) :
    (c.inFlight due w).landed now = c.inFlight due w := by
  simp [Cell.landed, Cell.inFlight, hp, Nat.not_le.mpr hd]

/-- A cell that is quiet but for its writes in flight. -/
theorem Quiet.stands_inFlight {s : State} {k : CellRef} {c0 : Cell} (h : Quiet (s.setCell k c0) k) (hc : s.Canon) {due : Nat} {w : PW}
    (hk : s.cell k = c0.inFlight due w) : Stands s k := by
  have e0 : (s.setCell k c0).cell k = c0 := State.cell_setCell hc k c0
  have eo (c : Nat) (hne : c ≠ k.c) : (s.setCell k c0).cell ⟨k.isl, c⟩ = s.cell ⟨k.isl, c⟩ := State.cell_setCell_other hc c0 (gid_ne hne)
  obtain ⟨⟨-, h1, h2, h3, ht, h4, h5, h6, h7, h8, h13, h12⟩, h9, h10, -⟩ := h
  rw [e0] at h4 h5 h6 h7 h8 h9 h10
  refine ⟨hc, h1, h2, h3, ht, ?_, ?_, ?_, ?_, ⟨h13.1, fun c hl => ?_⟩, fun c hl hne => eo c hne ▸ h12 c hl hne, ?_, ?_⟩
  · rw [hk]; exact h4
  · rw [hk]; exact h5
  · rw [hk]; exact h6
  · rw [hk]; exact h8
  · have hx := h13.2 c hl
    by_cases e : c = k.c
    · subst e
      rw [show (⟨k.isl, k.c⟩ : CellRef) = k from rfl, hk]
      rw [show (⟨k.isl, k.c⟩ : CellRef) = k from rfl, e0] at hx
      exact hx
    · rw [eo c e] at hx
      exact hx
  · rw [hk]; exact h9
  · rw [hk]; exact h10

/-- A word of no-ops while a write is in flight. -/
theorem Quiet.nop_inFlight {s : State} {k : CellRef} {c0 : Cell} (h : Quiet (s.setCell k c0) k) (hc : s.Canon) {due : Nat} {w : PW}
    (hw : w.isOwn = true) (hk : s.cell k = c0.inFlight due w) :
    Issues s k (.next (drive k {} s)) ((c0.stepped.inFlight due w).landed ((s.isl k.isl).sched + 1)) := by
  have hs := h.stands_inFlight hc hk
  have e0 : (s.setCell k c0).cell k = c0 := State.cell_setCell hc k c0
  obtain ⟨⟨-, -, -, -, -, -, h5, h6, h7, -⟩, -, -, h11⟩ := h
  rw [e0] at h5 h6 h7 h11
  have hl : ∀ x ∈ (s.cell k).loops, x.last ≠ (s.cell k).pc := by rw [hk]; exact h11
  have := hs.nop (loopBack_none _ _ _ _ hl) (clashes_nil_right _ _) (by simp) (by simpa [hk, Cell.inFlight, h7] using hw)
  rw [hk] at this
  convert this using 2
  simp [Cell.issued, Cell.inFlight, Cell.stepped, h5, h6]

theorem Cell.goes_loop {c : Cell} (h6 : c.bubble = false) (l : Loop) : c.goes (.loop l) = { c.stepped with loops := l :: c.loops } := by
  unfold Cell.goes Cell.stepped Cell.nextOf
  rw [← h6]

theorem State.outside_count (t u : State) (i : Nat) (n : Word) : (t.count i n).outside u = t.outside u := rfl

/-- ISL_SEQ shows its reasons, and that the island has ended if P. -/
theorem State.seqShown {v : State} (cv : v.Canon) (a rs : Nat) (P : Prop) [Decidable P] :
    let t := if P then (v.setFld a 6 3 rs).setFld a 2 0 4 else v.setFld a 6 3 rs
    (∀ j, t.cell j = v.cell j) ∧ (∀ i, t.isl i = v.isl i) ∧ (∀ u, t.outside u = v.outside u) ∧ (∀ b, b ≠ a → t.reg b = v.reg b) ∧
      (P → t.reg a = putField 2 0 4 (putField 6 3 rs (v.reg a))) ∧ (¬ P → t.reg a = putField 6 3 rs (v.reg a)) := by
  have c1 := cv.setFld a 6 3 rs
  have r1 : (v.setFld a 6 3 rs).reg a = putField 6 3 rs (v.reg a) := by rw [State.setFld, State.reg_setReg cv, if_pos rfl]
  by_cases hP : P
  · simp only [if_pos hP]
    exact ⟨fun _ => rfl, fun _ => rfl, fun _ => rfl, fun b hb => by rw [State.reg_setFld_ne c1 _ _ _ hb, State.reg_setFld_ne cv _ _ _ hb],
      fun _ => by rw [← r1, State.setFld, State.reg_setReg c1, if_pos rfl], fun hn => absurd hP hn⟩
  · simp only [if_neg hP]
    exact ⟨fun _ => rfl, fun _ => rfl, fun _ => rfl, fun b hb => State.reg_setFld_ne cv _ _ _ hb, fun hp => absurd hp hP, fun _ => r1⟩

/-- END: the cell has ended, and the island with it if no other cell remains (R121). -/
theorem Quiet.endP_state {s : State} {k : CellRef} {g : BitVec 4} (h : Quiet s k) (hg : (s.cell k).guard g = true) :
    ∃ t, drive k { sg := g, s := .endP } s = t ∧ t.cell k = { s.cell k with run := .ended, last := (s.cell k).pc } ∧
      (∀ j, gid j ≠ gid k → t.cell j = s.cell j) ∧
      t.isl k.isl = (s.isl k.isl).next s.gtime ∧ (∀ i, i ≠ k.isl → t.isl i = s.isl i) ∧
      ((∀ j, j < s.cellCount k.isl → j ≠ k.c → (s.cell ⟨k.isl, j⟩).run = .ended) → t.reg (R.islSeq k.isl) = putField 2 0 4 (s.seqEnded k)) ∧
      (¬ (∀ j, j < s.cellCount k.isl → j ≠ k.c → (s.cell ⟨k.isl, j⟩).run = .ended) → t.reg (R.islSeq k.isl) = s.seqEnded k) ∧
      t.reg (R.islCycle k.isl) = s.reg (R.islCycle k.isl) + 1 ∧
      (∀ a, a ≠ R.islSeq k.isl → a ≠ R.islCycle k.isl → t.reg a = s.reg a) ∧ t.outside s = s := by
  generalize hw : ({ sg := g, s := .endP } : HWord) = w
  have hd := hw ▸ h.endP hg
  have hc := h.endedAt_canon w
  have cq := State.count_canon hc k.isl s.gtime
  generalize hv : ((s.endedAt k w).count k.isl s.gtime).incFld (R.islCycle k.isl) 63 0 1 = v at hd
  have cv : v.Canon := hv ▸ cq.incFld _ _ _ _
  have hne := islCycle_ne_islSeq k.isl
  have vreg (a : Nat) : v.reg a = if a = R.islCycle k.isl then s.reg a + 1 else (s.endedAt k w).reg a := by
    rw [← hv, State.reg_incFull cq]
    split
    · rename_i e
      subst e
      show (s.endedAt k w).reg (R.islCycle k.isl) + 1 = _
      rw [h.reg_endedAt, if_neg hne]
    · rfl
  have vseq : v.reg (R.islSeq k.isl) = putField (16 + k.c) (16 + k.c) 1 (s.reg (R.islSeq k.isl)) := by
    rw [vreg, if_neg hne.symm, h.reg_endedAt, if_pos rfl]
  have vother (a : Nat) (hs : a ≠ R.islSeq k.isl) : v.reg a = if a = R.islCycle k.isl then s.reg a + 1 else s.reg a := by
    rw [vreg, h.reg_endedAt, if_neg hs]
  have vcell (j : CellRef) : v.cell j = (s.endedAt k w).cell j := by rw [← hv, State.cell_incFld, State.cell_count]
  have visl (i : Nat) : v.isl i = ((s.endedAt k w).count k.isl s.gtime).isl i := by rw [← hv, State.isl_incFld]
  have vout : v.outside s = s := by
    rw [← hv, State.outside_incFld, State.outside_count, State.endedAt, State.outside_setFld, State.outside_updCell, State.outside_updCell]
    rfl
  obtain ⟨tcell, tisl, tout, tother, tseq, tseq'⟩ := State.seqShown cv (R.islSeq k.isl) (b2n (s.stretched k.isl) * 8)
    (∀ j, j < s.cellCount k.isl → j ≠ k.c → (s.cell ⟨k.isl, j⟩).run = .ended)
  rw [h.endedAt_islState w hv.symm] at hd
  rw [← hd] at tcell tisl tout tother tseq tseq'
  rw [vseq] at tseq tseq'
  refine ⟨_, rfl, ?_, fun j hj => ?_, ?_, fun i hi => ?_, tseq, tseq', ?_, fun a hs hy => ?_, ?_⟩
  · rw [tcell, vcell, h.cell_endedAt]
  · rw [tcell, vcell, h.cell_endedAt_other w hj]
  · rw [tisl, visl]
    exact State.isl_setIsl hc _ _
  · rw [tisl, visl]
    exact State.isl_setIsl_other hc _ hi
  · rw [tother _ hne, vother _ hne, if_pos rfl]
  · rw [tother a hs, vother a hs, if_neg hy]
  · rw [tout, vout]

/-! ### The statements -/

/-- Settles O6. -/
theorem branchesAndOverrun : Obligations.BranchesAndOverrun := by
  unfold Obligations.BranchesAndOverrun
  refine ⟨fun s k g target ra h hg => ?_, fun s k => ⟨fun h hpc => ?_, fun h hpc => ?_⟩⟩
  · simp only [← loopsAfterBranch_eq]
    exact ⟨(h.br hg target).1, (h.br hg target).2, (h.brr hg ra).1, (h.brr hg ra).2, h.call_full hg target,
      fun hs => (h.call hg target hs).1, fun hs => (h.call hg target hs).2, h.ret_empty hg, fun t rest hs ht => by
        have := h.ret hg hs ht
        rwa [Cell.goes, Cell.nextOf, hs] at this⟩
  · have := h.nop
    rwa [Cell.stepped, hpc, show (s.cell k).pc = imemWords k - 1 by omega] at this
  · have hrun : exec (.pcOverrun k) s = .next (drive k {} s) := if_pos hpc
    rw [hrun]
    exact h.overrun hpc

/-- Settles O7. -/
theorem loopsAndProgramEnd : Obligations.LoopsAndProgramEnd := by
  unfold Obligations.LoopsAndProgramEnd
  refine ⟨fun s k g n len count ra h hg => ?_, fun s k l rest h hpc hpull hls hl hr => ?_, fun s k g h hg => ?_⟩
  · have h6 := h.1.2.2.2.2.2.2.2.1
    have setup (op : SOp) (v : BitVec 32) (h3 : n = 3 → op.decodeFault = some K.eFieldReserved) (hd : n ≠ 3 → op.decodeFault = none)
        (he : evalS (s.updCell k (fun c => c.holding { sg := g, s := op })) k op = loopSetup k (s.cell k) n.toNat len.toNat v) :=
      And.intro (fun hn => h.s_decode (op := op) (g := g) (h3 hn)) <| And.intro (fun hn => h.loop_beyond hg (hd hn) he) <|
      And.intro (fun hn => h.loop_active hg (hd hn) he) <|
      And.intro (fun hn hl ha hv => Cell.goes_loop h6 _ ▸ h.loop_enter hg (hd hn) he hl ha hv) <|
      And.intro (fun hn => h.loop_skip hg (hd hn) he) (fun hn => h.loop_skip_beyond hg (hd hn) he)
    simp only [← loopsAfterBranch_eq]
    exact ⟨setup (.lsetup n len count) _ (fun hn => if_pos hn) (fun hn => if_neg hn) (by rw [evalS, h.cell_holding]; rfl),
      setup (.lsetupr n len ra) _ (fun hn => if_pos hn) (fun hn => if_neg hn) (by rw [evalS, h.cell_holding]; rfl)⟩
  · have hp := h.2.2.2.2.2.2.2.2.1
    exact ⟨fun hv => (h.stands hpc hpull).loop_again hp hls hl hv, fun hv => (h.stands hpc hpull).loop_over hp hls hl hr hv⟩
  · obtain ⟨t, ht, hrest⟩ := h.endP_state hg
    exact ⟨t, congrArg _ ht, hrest⟩

/-- Settles O8. -/
theorem noEffectWords : Obligations.NoEffectWords := by
  unfold Obligations.NoEffectWords
  intro s k g rd ra rb p imm target h
  refine ⟨h.nop, h.nop, h.nop, h.nop, fun hg hp => ?_, fun hg hp => ?_, fun hg => ?_⟩
  · exact Cell.goes_seq h.1.2.2.2.2.2.2.2.1 ▸ h.s_goes hg rfl nofun (ctl := .seq) (by simp only [evalS, h.cell_holding, Cell.rp_holding, hp, if_true])
  · exact h.s_fault hg rfl (by simp only [evalS, h.cell_holding, Cell.rp_holding, hp, Bool.false_eq_true, if_false]; rfl)
  · exact ⟨h.s_off hg rfl, h.s_off hg rfl, h.s_off hg rfl, h.s_off hg rfl, h.s_off hg rfl, h.s_off hg rfl, h.s_off hg rfl, h.s_off hg rfl,
      h.s_off hg rfl, h.s_off hg rfl, h.s_off hg rfl, h.x_off hg rfl, h.x_off hg rfl, h.x_off hg rfl, h.x_off hg rfl⟩

/-- Settles O9. -/
theorem writesLandWhenDue : Obligations.WritesLandWhenDue := by
  unfold Obligations.WritesLandWhenDue
  intro s k r v due c0 h hc hk
  have hp : c0.pend = [] := by
    have := h.1.2.2.2.2.2.2.2.2.1
    rwa [State.cell_setCell hc] at this
  have := h.nop_inFlight hc rfl hk
  refine ⟨fun hd => ?_, fun hd => ?_⟩
  · rwa [Cell.landed_due (c := c0.stepped) hp (le_of_eq hd)] at this
  · rwa [Cell.landed_later (c := c0.stepped) hp hd] at this

end Sys2Proof.Machine

/-! SUPPORT. Faults of the M, V and X slots, and the cell behind a word whose writes have several latencies (R108, R110, R136). -/

namespace Sys2Proof.Machine

open Sys2Proof

/-! ### Faults -/

section
variable {p : State} {k : CellRef} {c : Cell} (hc : p.cell k = c) (hpend : c.pend = []) (hl : ∀ x ∈ c.loops, x.last ≠ c.pc)
  {g : BitVec 4} (hg : c.guard g = true) {code : Code}
include hc hpend hl hg

theorem evalWord_m_fault {op : MOp} (hd : op.decodeFault (isMemCell k) = none) (he : (evalM p k op).fault = some code) :
    (evalWord p k { mg := g, m := op }).fault = some (code, 1) := by
  have hdec : HWord.decodeFault (isMemCell k) { mg := g, m := op } = none := by
    simp [HWord.decodeFault, hd, SOp.decodeFault, VOp.decodeFault, XOp.decodeFault]
  unfold evalWord
  simp only [hdec]
  simp [evalSlots, hc, hg, he, hpend, evalS, seqNext_plain _ _ _ hl, firstFault]

theorem evalWord_v_fault {op : VOp} (hd : op.decodeFault (isMemCell k) = none) (he : (evalV p k op).fault = some code) :
    (evalWord p k { vg := g, v := op }).fault = some (code, 2) := by
  have hdec : HWord.decodeFault (isMemCell k) { vg := g, v := op } = none := by
    simp [HWord.decodeFault, hd, SOp.decodeFault, MOp.decodeFault, XOp.decodeFault]
  unfold evalWord
  simp only [hdec]
  simp [evalSlots, hc, hg, he, hpend, evalS, evalM, seqNext_plain _ _ _ hl, firstFault]

theorem evalWord_x_fault {op : XOp} (hd : op.decodeFault (isMemCell k) = none) (he : (evalX p k op).fault = some code) :
    (evalWord p k { xg := g, x := op }).fault = some (code, 3) := by
  have hdec : HWord.decodeFault (isMemCell k) { xg := g, x := op } = none := by
    simp [HWord.decodeFault, hd, SOp.decodeFault, MOp.decodeFault, VOp.decodeFault]
  unfold evalWord
  simp only [hdec]
  simp [evalSlots, hc, hg, he, hpend, evalS, evalM, evalV, seqNext_plain _ _ _ hl, firstFault]

end

theorem evalWord_decodeFault {p : State} {k : CellRef} {w : HWord} {f : Code × Nat} (hd : w.decodeFault (isMemCell k) = some f) :
    (evalWord p k w).fault = some f := by
  unfold evalWord
  simp only [hd]

section
variable {s : State} {k : CellRef} {g : BitVec 4} (h : Quiet s k) {code : Code}
include h

/-- A decode fault of the M slot, whatever the guard (R108). -/
theorem Quiet.m_decode {op : MOp} (hd : op.decodeFault (isMemCell k) = some code) :
    Faults s k (.next (drive k { mg := g, m := op } s)) code 1 (s.cell k).pc :=
  h.word_fault (present_m g op) (fun _ => rfl) (by omega)
    (evalWord_decodeFault (by simp [HWord.decodeFault, hd, SOp.decodeFault]))

/-- A decode fault of the V slot, whatever the guard. -/
theorem Quiet.v_decode {op : VOp} (hd : op.decodeFault (isMemCell k) = some code) :
    Faults s k (.next (drive k { vg := g, v := op } s)) code 2 (s.cell k).pc :=
  h.word_fault (present_v g op) (fun _ => rfl) (by omega)
    (evalWord_decodeFault (by simp [HWord.decodeFault, hd, SOp.decodeFault, MOp.decodeFault]))

/-- A decode fault of the X slot: the operation does not execute, so nothing is sent and nothing blocks. -/
theorem Quiet.x_decode {op : XOp} (hd : op.decodeFault (isMemCell k) = some code) :
    Faults s k (.next (drive k { xg := g, x := op } s)) code 3 (s.cell k).pc := by
  have hlive : s.liveX k { xg := g, x := op } = false := by simp [State.liveX, hd]
  refine h.word_fault ?_ (fun hl => ?_) (by omega)
    (evalWord_decodeFault (by simp [HWord.decodeFault, hd, SOp.decodeFault, MOp.decodeFault, VOp.decodeFault]))
  · rw [← State.liveX_holding h.1.1] at hlive
    unfold State.present
    refine if_neg (fun hh => ?_)
    exact absurd hlive (by rw [Bool.not_eq_false]; exact hh.2)
  · rw [hlive] at hl
    exact absurd hl nofun

variable (hg : (s.cell k).guard g = true)
include hg

/-- A fault of the M slot. -/
theorem Quiet.m_fault {op : MOp} (hd : op.decodeFault (isMemCell k) = none)
    (he : (evalM (s.updCell k (fun c => c.holding { mg := g, m := op })) k op).fault = some code) :
    Faults s k (.next (drive k { mg := g, m := op } s)) code 1 (s.cell k).pc :=
  h.word_fault (present_m g op) (fun _ => rfl) (by omega) (evalWord_m_fault (h.cell_holding _) h.1.2.2.2.2.2.2.2.2.1 h.2.2.2 hg hd he)

/-- A fault of the V slot. -/
theorem Quiet.v_fault {op : VOp} (hd : op.decodeFault (isMemCell k) = none)
    (he : (evalV (s.updCell k (fun c => c.holding { vg := g, v := op })) k op).fault = some code) :
    Faults s k (.next (drive k { vg := g, v := op } s)) code 2 (s.cell k).pc :=
  h.word_fault (present_v g op) (fun _ => rfl) (by omega) (evalWord_v_fault (h.cell_holding _) h.1.2.2.2.2.2.2.2.2.1 h.2.2.2 hg hd he)

/-- A fault of an operation of the X slot that sends nothing when it is presented and does not block. -/
theorem Quiet.x_fault {op : XOp} (hs : op.silent = true) (hd : op.decodeFault (isMemCell k) = none)
    (hb : blockX (s.updCell k (fun c => c.holding { xg := g, x := op })) k op = [])
    (he : (evalX (s.updCell k (fun c => c.holding { xg := g, x := op })) k op).fault = some code) :
    Faults s k (.next (drive k { xg := g, x := op } s)) code 3 (s.cell k).pc :=
  h.word_fault (present_x g op hs) (fun _ => hb) (by omega) (evalWord_x_fault (h.cell_holding _) h.1.2.2.2.2.2.2.2.2.1 h.2.2.2 hg hd he)

end

/-! ### Writes of several latencies -/

/-- Behind a word whose writes are those of the present cycle, those that stay in flight and those that land with it. -/
theorem Cell.after_mixed {c : Cell} (h5 : c.held = none) (h6 : c.bubble = false) (h7 : c.pend = []) (w : HWord) (out : SlotOut)
    (hctl : out.ctl = .seq) (sched : Nat) {now fly one : List (Nat × PW)} (he : out.writes = now ++ fly ++ one)
    (hn : ∀ x ∈ now, x.1 = 0 ∧ x.2.isZero = false) (hf : ∀ x ∈ fly, 2 ≤ x.1)
    (hz : fly.filter (fun x => x.2.isZero) ++ fly.filter (fun x => !x.2.isZero) = fly)
    (ho : ∀ x ∈ one, x.1 = 1 ∧ x.2.isZero = false ∧ x.2.isClear = false) :
    (c.holding w).after out sched =
      ((one.map Prod.snd).foldl Cell.applyPW ((now.map Prod.snd).foldl Cell.applyPW c.stepped)).inFlights sched fly := by
  have lat {l : List (Nat × PW)} {f : Nat × PW → Bool} {b : Bool} (h : ∀ x ∈ l, f x = b) : l.filter f = if b then l else [] := by
    cases b
    · exact List.filter_eq_nil_iff.mpr (fun x hx => by simp [h x hx])
    · exact List.filter_eq_self.mpr h
  have z : out.writes.filter (fun x => x.2.isZero) = fly.filter (fun x => x.2.isZero) := by
    rw [he, List.filter_append, List.filter_append, lat (fun x hx => (hn x hx).2), lat (fun x hx => (ho x hx).2.1)]
    simp
  have nz : out.writes.filter (fun x => !x.2.isZero) = now ++ fly.filter (fun x => !x.2.isZero) ++ one := by
    rw [he, List.filter_append, List.filter_append, lat (b := true) (fun x hx => by simp [(hn x hx).2]),
      lat (l := one) (b := true) (fun x hx => by simp [(ho x hx).2.1])]
    simp
  have fz (x : Nat × PW) (hx : x ∈ fly.filter (fun x => !x.2.isZero)) : 2 ≤ x.1 := hf x (List.mem_of_mem_filter hx)
  have later : laterWrites out.writes = fly ++ one := by
    unfold laterWrites
    rw [z, nz, List.filter_append, List.filter_append, lat (l := now) (b := false) (fun x hx => by simp [(hn x hx).1]),
      lat (l := fly.filter _) (b := true) (fun x hx => by have := fz x hx; simp; omega), lat (l := one) (b := true) (fun x hx => by simp [(ho x hx).1])]
    simp only [if_true, Bool.false_eq_true, if_false, List.nil_append]
    rw [← List.append_assoc, hz]
  have zero : (out.writes.filter (fun x => !x.2.isZero)).filter (fun x => x.1 == 0) = now := by
    rw [nz, List.filter_append, List.filter_append, lat (l := now) (b := true) (fun x hx => by simp [(hn x hx).1]),
      lat (l := fly.filter _) (b := false) (fun x hx => by have := fz x hx; simp; omega), lat (l := one) (b := false) (fun x hx => by simp [(ho x hx).1])]
    simp
  have due : (fly ++ one).filter (fun x => decide (x.1 ≤ 1)) = one := by
    rw [List.filter_append, lat (l := fly) (b := false) (fun x hx => by have := hf x hx; simp; omega),
      lat (l := one) (b := true) (fun x hx => by simp [(ho x hx).1])]
    simp
  have rest : (fly ++ one).filter (fun x => !decide (x.1 ≤ 1)) = fly := by
    rw [List.filter_append, lat (l := fly) (b := true) (fun x hx => by have := hf x hx; simp; omega),
      lat (l := one) (b := false) (fun x hx => by simp [(ho x hx).1])]
    simp
  rw [Cell.after_seq h5 h6 h7 w out hctl sched, later, zero, due, rest, lat (l := one) (b := false) (fun x hx => (ho x hx).2.2),
    lat (l := one) (b := true) (fun x hx => by simp [(ho x hx).2.2])]
  rfl

/-- The post-increment of an index register lands with its word. -/
theorem mem_postInc {c : Cell} {idx : BitVec 5} {inc sram : Bool} {x : Nat × PW} (hx : x ∈ postInc c idx inc sram) :
    x.1 = 1 ∧ x.2.isZero = false ∧ x.2.isClear = false ∧ x.2.isOwn = true := by
  unfold postInc at hx
  split at hx
  · simp only [List.mem_singleton] at hx
    subst hx
    exact ⟨rfl, rfl, rfl, rfl⟩
  · simp at hx

theorem postInc_bumped (c d : Cell) (hd : d.rs = c.rs) (idx : BitVec 5) (inc sram : Bool) :
    ((postInc c idx inc sram).map Prod.snd).foldl Cell.applyPW d = d.bumped idx inc (if sram then 32 else 1) := by
  unfold postInc Cell.bumped
  rw [hd]
  split <;> rfl

end Sys2Proof.Machine

/-! SUPPORT. Words of the M slot at a cell that runs alone (R146 to R149, R155 to R161). -/

namespace Sys2Proof.Machine

open Sys2Proof

section
variable {s : State} {k : CellRef} {g : BitVec 4} (h : Quiet s k)
include h

theorem Quiet.evalM_holding (w : HWord) (op : MOp) : evalM (s.updCell k (fun c => c.holding w)) k op = evalM s k op := by
  unfold evalM
  rw [h.cell_holding]
  rfl

variable (hg : (s.cell k).guard g = true)
include hg

/-- An operation of the M slot whose writes are those of the present cycle, those that stay in flight and a post-increment. -/
theorem Quiet.m_mixed {op : MOp} {now fly : List (Nat × PW)} {idx : BitVec 5} {inc : Bool} (hd : op.decodeFault (isMemCell k) = none)
    (he : evalM s k op = { writes := now ++ fly ++ postInc (s.cell k) idx inc false })
    (hn : ∀ x ∈ now, x.1 = 0 ∧ x.2.isZero = false ∧ x.2.isOwn = true) (hf : ∀ x ∈ fly, 2 ≤ x.1 ∧ x.2.isZero = false ∧ x.2.isOwn = true)
    (hr : ((now.map Prod.snd).foldl Cell.applyPW (s.cell k).stepped).rs = (s.cell k).rs) :
    Issues s k (.next (drive k { mg := g, m := op } s))
      ((((now.map Prod.snd).foldl Cell.applyPW (s.cell k).stepped).bumped idx inc 1).inFlights (s.isl k.isl).sched fly) := by
  obtain ⟨⟨-, -, -, -, -, -, h5, h6, h7, -⟩, -⟩ := id h
  have hown : ∀ x ∈ now ++ fly ++ postInc (s.cell k) idx inc false, x.2.isOwn = true := by
    intro x hx
    simp only [List.mem_append] at hx
    rcases hx with (hx | hx) | hx
    · exact (hn x hx).2.2
    · exact (hf x hx).2.2
    · exact (mem_postInc hx).2.2.2
  have := h.m_slot hg hd ((h.evalM_holding _ _).trans he) rfl rfl rfl hown
  rw [Cell.after_mixed h5 h6 h7 _ _ rfl _ rfl (fun x hx => ⟨(hn x hx).1, (hn x hx).2.1⟩) (fun x hx => (hf x hx).1)
    (by rw [List.filter_eq_nil_iff.mpr (fun x hx => by simp [(hf x hx).2.1]), List.nil_append,
      List.filter_eq_self.mpr (fun x hx => by simp [(hf x hx).2.1])])
    (fun x hx => ⟨(mem_postInc hx).1, (mem_postInc hx).2.1, (mem_postInc hx).2.2.1⟩), postInc_bumped _ _ hr] at this
  exact this

/-- An operation of the M slot with one write of latency 1. -/
theorem Quiet.m_one {op : MOp} {pw : PW} (hd : op.decodeFault (isMemCell k) = none) (he : evalM s k op = .one 1 pw) (ho : pw.isOwn = true) :
    Issues s k (.next (drive k { mg := g, m := op } s)) ((s.cell k).stepped.applyPW pw) := by
  obtain ⟨⟨-, -, -, -, -, -, h5, h6, h7, -⟩, -⟩ := id h
  have := h.m_slot hg hd ((h.evalM_holding _ _).trans he) rfl rfl rfl (by simpa [SlotOut.one] using ho)
  rwa [Cell.after_one h5 h6 h7] at this

/-- A fault of the M slot. -/
theorem Quiet.m_bad {op : MOp} {code : Code} (hd : op.decodeFault (isMemCell k) = none) (he : evalM s k op = .bad code) :
    Faults s k (.next (drive k { mg := g, m := op } s)) code 1 (s.cell k).pc :=
  h.m_fault hg hd (by rw [h.evalM_holding, he]; rfl)

end

/-- Settles O10. -/
theorem matrixAccumulation : Obligations.MatrixAccumulation := by
  unfold Obligations.MatrixAccumulation
  intro s k g ra idx d inc ta tb st h hg
  refine ⟨fun hm => ?_, fun hm => ?_⟩
  · have absent (op : MOp) (hd : op.decodeFault (isMemCell k) = some K.eUnitAbsent) := h.m_decode (g := g) hd
    exact ⟨absent (.mcfg ra) (by rw [hm]; rfl), absent (.mclr d) (by rw [hm]; rfl), absent (.mma d ta tb idx inc st) (by rw [hm]; rfl)⟩
  · refine ⟨fun hc => ?_, fun e hc => ?_, ?_, fun sh ps hp hn => ?_, fun sh hp hn => ?_, fun hp => ?_⟩
    · exact h.m_one hg (op := .mcfg ra) (pw := .mcfg ((s.cell k).rs ra)) (by rw [hm]; rfl) (by simp only [evalM, hc]) rfl
    · exact h.m_bad hg (by rw [hm]; rfl) (by simp only [evalM, hc])
    · have := h.m_mixed hg (op := .mclr d) (now := [(0, .potTrack d {})]) (fly := [(8, .potClear d)]) (idx := 0) (inc := false)
        (by rw [hm]; rfl) rfl (by simp [PW.isZero, PW.isOwn]) (by simp [PW.isZero, PW.isOwn]) (by cases d <;> rfl)
      exact this
    · refine h.m_mixed hg (op := .mma d ta tb idx inc st) (now := [(0, .potTrack d ps)]) (by rw [hm]; rfl)
        (by simp only [evalM, hp, hn, sliceIdx]; rfl) (by simp [PW.isZero, PW.isOwn]) ?_ (by cases d <;> rfl)
      intro x hx
      simp only [List.mem_cons, List.not_mem_nil, or_false] at hx
      rcases hx with rfl | rfl
      · exact ⟨(by omega : 2 ≤ 8), rfl, rfl⟩
      · refine ⟨(by omega : 2 ≤ 8), ?_, ?_⟩ <;> dsimp only <;> split <;> rfl
    · exact h.m_bad hg (by rw [hm]; rfl) (by simp only [evalM, hp, hn])
    · exact h.m_bad hg (by rw [hm]; rfl) (by simp only [evalM, hp])

/-- Entries that one MOUT reads (R159): of the row `m` from column `n0`, `count` of them. -/
def Cell.moutReads (c : Cell) (d : Bool) (f : EFmt) (r : Rm) (count m n0 : Nat) : List (Nat × Fl) :=
  (List.range count).map (fun i => potRead (c.pvis d) (c.entry d (32 * m + n0 + i)) f r)

theorem evalM_mout {s : State} {k : CellRef} {d : Bool} {td fmt : BitVec 4} {idx : BitVec 5} {inc : Bool} {rm : BitVec 3} {f : EFmt} {r : Rm}
    (hf : EFmt.ofCode fmt.toNat = some f) (hr : Rm.ofCode rm.toNat = some r) :
    evalM s k (.mout d td fmt idx inc rm) =
      if !(f == .f16 || f == .f32 || f == .int32) || (f == .int32 && (((s.cell k).pst d).mode == .fx || ((s.cell k).pst d).mode == .f32)) then .bad K.eShape
      else
        let n := ((s.cell k).rs idx).toNat % (if f = .f16 then 32 else 64)
        let l := (s.cell k).moutReads d f r (if f = .f16 then 32 else 16) (if f = .f16 then n else n / 2) (if f = .f16 then 0 else 16 * (n % 2))
        { writes := [] ++ ((3, .tile (2048 * td.toNat + 64 * (n % 32)) (l.flatMap (fun o => leBytes (f.bits / 8) o.1))) ::
            cellFlagWrites 3 (l.foldl (fun a o => a ||| o.2) 0)) ++ postInc (s.cell k) idx inc false } := by
  unfold evalM
  simp only [hf, hr]
  rfl

theorem mem_cellFlagWrites {lat : Nat} {f : Fl} {x : Nat × PW} (hx : x ∈ cellFlagWrites lat f) :
    x.1 = lat ∧ x.2.isZero = false ∧ x.2.isOwn = true := by
  unfold cellFlagWrites at hx
  split at hx
  · simp at hx
  · simp only [List.mem_singleton] at hx
    subst hx
    exact ⟨rfl, rfl, rfl⟩

/-- A read-out: the tile row and the flags that its entries give. -/
theorem Quiet.mout {s : State} {k : CellRef} {g : BitVec 4} (h : Quiet s k) (hg : (s.cell k).guard g = true) {d : Bool} {td fmt : BitVec 4}
    {idx : BitVec 5} {inc : Bool} {rm : BitVec 3} {a : Nat} {bs : List Byte} {fl : Fl}
    (hd : (MOp.mout d td fmt idx inc rm).decodeFault (isMemCell k) = none)
    (he : evalM s k (.mout d td fmt idx inc rm) =
      { writes := [] ++ ((3, .tile a bs) :: cellFlagWrites 3 fl) ++ postInc (s.cell k) idx inc false }) :
    Issues s k (.next (drive k { mg := g, m := .mout d td fmt idx inc rm } s))
      (((s.cell k).stepped.bumped idx inc 1).inFlights (s.isl k.isl).sched ((3, .tile a bs) :: cellFlagWrites 3 fl)) := by
  refine h.m_mixed hg (now := []) (fly := (3, .tile a bs) :: cellFlagWrites 3 fl) hd he (by simp) (fun x hx => ?_) rfl
  rcases List.mem_cons.mp hx with rfl | hx
  · exact ⟨(by omega : 2 ≤ 3), rfl, rfl⟩
  · obtain ⟨h1, h2, h3⟩ := mem_cellFlagWrites hx
    exact ⟨by omega, h2, h3⟩

theorem EFmt.ofCode_isSome {n : Nat} (h : n ≤ 9) : ∃ f, EFmt.ofCode n = some f := by
  interval_cases n <;> exact ⟨_, rfl⟩

/-- Settles O11. -/
theorem matrixReadOutAndMerge : Obligations.MatrixReadOutAndMerge := by
  unfold Obligations.MatrixReadOutAndMerge
  intro s k g idx d inc td fmt rm h hg
  have nores (hf : fmt.toNat ≤ 9) (hr : rm.toNat ≤ 4) : (decide (9 < fmt.toNat) || badRm rm) = false := by simp [badRm, hf, hr]
  have hrm (r : Rm) (hr : Rm.ofCode rm.toNat = some r) : rm.toNat ≤ 4 := by
    by_contra hn
    have : ∀ n, ¬ n ≤ 4 → Rm.ofCode n = none := fun n hn => by
      match n, hn with
      | 0, hn | 1, hn | 2, hn | 3, hn | 4, hn => exact absurd (by decide) hn
      | _ + 5, _ => rfl
    rw [this _ hn] at hr
    exact absurd hr nofun
  have mout (r : Rm) (hr : Rm.ofCode rm.toNat = some r) (hm : isMemCell k = false) (hf : fmt.toNat ≤ 9) :
      (MOp.mout d td fmt idx inc rm).decodeFault (isMemCell k) = none := by
    simp [MOp.decodeFault, nores hf (hrm r hr), hm]
  refine ⟨fun hr => ?_, fun hm => ⟨fun hf hr => ?_, ?_, ?_⟩, fun hm => ⟨fun r hr => ⟨?_, ?_, ?_, ?_, ?_⟩, ?_, ?_, ?_, ?_⟩⟩
  · refine h.m_decode (g := g) (op := .mout d td fmt idx inc rm) ?_
    have : (decide (9 < fmt.toNat) || badRm rm) = true := by simpa [badRm] using hr
    simp [MOp.decodeFault, this]
  · exact h.m_decode (g := g) (op := .mout d td fmt idx inc rm) (by simp [MOp.decodeFault, nores hf hr, hm])
  · exact h.m_decode (g := g) (op := .moutRaw d td idx inc) (by rw [hm]; rfl)
  · exact h.m_decode (g := g) (op := .mmrg d td idx inc) (by rw [hm]; rfl)
  · intro hf
    subst hf
    exact h.mout hg (mout r hr hm (by decide)) ((evalM_mout (f := .f16) rfl hr).trans (if_neg (by simp)))
  · intro hf
    subst hf
    exact h.mout hg (mout r hr hm (by decide)) ((evalM_mout (f := .f32) rfl hr).trans (if_neg (by simp)))
  · intro hf hmode
    subst hf
    refine h.mout hg (mout r hr hm (by decide)) ((evalM_mout (f := .int32) rfl hr).trans (if_neg ?_))
    rcases hmode with e | e <;> simp [e]
  · intro hf hmode
    subst hf
    refine h.m_bad hg (mout r hr hm (by decide)) ((evalM_mout (f := .int32) rfl hr).trans (if_pos ?_))
    rcases hmode with e | e <;> simp [e]
  · intro hf h6 h7 h9
    obtain ⟨f, hf'⟩ := EFmt.ofCode_isSome hf
    refine h.m_bad hg (mout r hr hm hf) ((evalM_mout hf' hr).trans (if_pos ?_))
    have code (e : EFmt) (n : BitVec 4) (hn : fmt ≠ n) (he : ∀ m, EFmt.ofCode m = some e → m = n.toNat) : f ≠ e := fun hfe =>
      hn (BitVec.eq_of_toNat_eq (he _ (hfe ▸ hf')))
    have c6 := code .f16 6 h6 (fun m hm => by unfold EFmt.ofCode at hm; split at hm <;> simp_all)
    have c7 := code .f32 7 h7 (fun m hm => by unfold EFmt.ofCode at hm; split at hm <;> simp_all)
    have c9 := code .int32 9 h9 (fun m hm => by unfold EFmt.ofCode at hm; split at hm <;> simp_all)
    simp [c6, c7, c9]
  · exact h.m_mixed hg (op := .moutRaw d td idx inc) (now := []) (fly := [_]) (by rw [hm]; rfl) rfl (by simp)
      (by simp [PW.isZero, PW.isOwn]) rfl
  · intro sh ps hp hs hn
    refine h.m_mixed hg (op := .mmrg d td idx inc) (now := [(0, .potTrack d ps)]) (fly := [(8, .potMode d ps), (8, _)]) (by rw [hm]; rfl) ?_ (by simp [PW.isZero, PW.isOwn])
      (by simp [PW.isZero, PW.isOwn]) (by cases d <;> rfl)
    simp only [evalM, hp, hn]
    rfl
  · intro sh hp hs
    refine h.m_bad hg (op := .mmrg d td idx inc) (by rw [hm]; rfl) ?_
    rcases hs with hs | hs
    · simp only [evalM, hp, hs]
    · simp only [evalM, hp, hs]
      cases sh.mode <;> rfl
  · intro hp
    exact h.m_bad hg (op := .mmrg d td idx inc) (by rw [hm]; rfl) (by simp only [evalM, hp])

end Sys2Proof.Machine

/-! SUPPORT. Words of the V slot at a cell that runs alone (R167 to R173, R183, R185). -/

namespace Sys2Proof.Machine

open Sys2Proof

/-! ### Lane types -/

theorem vty_eq_f64 {ty : BitVec 2} : vty ty = .f64 ↔ ty = 3 := by revert ty; decide
theorem vty_eq_int32 {ty : BitVec 2} : vty ty = .int32 ↔ ty = 0 := by revert ty; decide

theorem vcount_vty (ty : BitVec 2) : vcount (vty ty) = if ty = 3 then 32 else 64 := by
  simp only [vcount, vty_eq_f64]

theorem lat24_vty (ty : BitVec 2) : lat24 (vty ty) = if ty = 3 then 4 else 2 := by
  simp only [lat24, vty_eq_f64]

theorem lat46_vty (ty : BitVec 2) : binLat .mul (vty ty) = if ty = 3 then 6 else 4 := by
  simp only [binLat, vty_eq_f64]

theorem longLat_vty (ty : BitVec 2) : unLat .sqrt (vty ty) = if ty = 3 then 20 else 12 := by
  simp only [unLat, vty_eq_f64]

theorem isClear_vOuts {lat vd : Nat} {t : EFmt} {l : List (Nat × Fl)} {x : Nat × PW} (hx : x ∈ vOuts lat vd t l) : x.2.isClear = false := by
  unfold vOuts flagWrites at hx
  rcases List.mem_cons.mp hx with rfl | hx
  · rfl
  · dsimp only at hx
    split at hx
    · simp at hx
    · simp only [List.mem_cons, List.not_mem_nil, or_false] at hx
      rcases hx with rfl | rfl <;> rfl

/-! ### Operations of the V slot -/

/-- An operation of the vector unit: neither a no-op nor one that the decoder has refused. -/
def VOp.IsUnit (op : VOp) : Prop :=
  ∀ mem, op.decodeFault mem = if op.badField then some K.eFieldReserved else if mem then some K.eUnitAbsent else none

section
variable {s : State} {k : CellRef} {g : BitVec 4} (h : Quiet s k)
include h

theorem Quiet.evalV_holding (w : HWord) (op : VOp) : evalV (s.updCell k (fun c => c.holding w)) k op = evalV s k op := by
  unfold evalV
  rw [h.cell_holding]
  rfl

/-- In a memory cell, and with a reserved field, an operation faults in its decode. -/
theorem Quiet.v_absent {op : VOp} (hd : op.IsUnit)
    (hb : op.badField = false) (hm : isMemCell k = true) : Faults s k (.next (drive k { vg := g, v := op } s)) K.eUnitAbsent 2 (s.cell k).pc :=
  h.v_decode (by rw [hd, hb, hm]; rfl)

theorem Quiet.v_reserved {op : VOp} (hd : op.IsUnit)
    (hb : op.badField = true) : Faults s k (.next (drive k { vg := g, v := op } s)) K.eFieldReserved 2 (s.cell k).pc :=
  h.v_decode (by rw [hd, hb]; rfl)

variable (hg : (s.cell k).guard g = true)
include hg

/-- A fault of an operation of the V slot. -/
theorem Quiet.v_bad {op : VOp} {code : Code} (hd : op.decodeFault (isMemCell k) = none) (he : evalV s k op = .bad code) :
    Faults s k (.next (drive k { vg := g, v := op } s)) code 2 (s.cell k).pc :=
  h.v_fault hg hd (by rw [h.evalV_holding, he]; rfl)

/-- An operation whose writes all have a latency of 2 or more. -/
theorem Quiet.v_flies {op : VOp} {ws : List (Nat × PW)} (hd : op.decodeFault (isMemCell k) = none) (he : evalV s k op = .ws ws)
    (hw : ∀ x ∈ ws, 2 ≤ x.1 ∧ x.2.isZero = false ∧ x.2.isOwn = true) :
    Issues s k (.next (drive k { vg := g, v := op } s)) ((s.cell k).stepped.inFlights (s.isl k.isl).sched ws) :=
  h.v_fly hg hd ((h.evalV_holding _ _).trans he) hw

/-- Values and lane flags with a latency of 2 or more. -/
theorem Quiet.v_outs {op : VOp} {lat vd : Nat} {t : EFmt} {l : List (Nat × Fl)} (hd : op.decodeFault (isMemCell k) = none) (hl : 2 ≤ lat)
    (he : evalV s k op = .ws (vOuts lat vd t l)) :
    Issues s k (.next (drive k { vg := g, v := op } s)) ((s.cell k).stepped.inFlights (s.isl k.isl).sched (vOuts lat vd t l)) :=
  h.v_flies hg hd he (fun _ hx => ⟨(mem_vOuts hx).1 ▸ hl, (mem_vOuts hx).2⟩)

/-- The two outcomes of an operation that is present in a compute cell alone. -/
theorem Quiet.v_gives {op : VOp} {lat vd : Nat} {t : EFmt} {l : List (Nat × Fl)} (hd : op.IsUnit) (hb : op.badField = false) (hl : 2 ≤ lat)
    (he : evalV s k op = .ws (vOuts lat vd t l)) :
    (isMemCell k = true → Faults s k (.next (drive k { vg := g, v := op } s)) K.eUnitAbsent 2 (s.cell k).pc) ∧
    (isMemCell k = false → Issues s k (.next (drive k { vg := g, v := op } s))
      ((s.cell k).stepped.inFlights (s.isl k.isl).sched (vOuts lat vd t l))) :=
  ⟨h.v_absent hd hb, fun hm => h.v_outs hg (by rw [hd, hb, hm]; rfl) hl he⟩

theorem Quiet.v_lacks {op : VOp} (hd : op.IsUnit) (hb : op.badField = false) (he : evalV s k op = .bad K.eShape) (hm : isMemCell k = false) :
    Faults s k (.next (drive k { vg := g, v := op } s)) K.eShape 2 (s.cell k).pc :=
  h.v_bad hg (by rw [hd, hb, hm]; rfl) he

/-- Values and lane flags that land with their word. -/
theorem Quiet.v_lands {op : VOp} {vd : Nat} {t : EFmt} {l : List (Nat × Fl)} (hd : op.IsUnit) (hb : op.badField = false)
    (he : evalV s k op = .ws (vOuts 1 vd t l)) (hm : isMemCell k = false) :
    Issues s k (.next (drive k { vg := g, v := op } s)) ((vOuts 1 vd t l).foldl (fun c w => c.applyPW w.2) (s.cell k).stepped) :=
  h.v_now hg (by rw [hd, hb, hm]; rfl) ((h.evalV_holding _ _).trans he)
    (fun _ hx => ⟨(mem_vOuts hx).1, (mem_vOuts hx).2.1, isClear_vOuts hx, (mem_vOuts hx).2.2⟩)

end

/-! ### INT32 elements -/

theorem toInt32_toNat (a : BitVec 32) : toInt32 a.toNat = a.toInt := by
  rw [toInt32, BitVec.ofNat_toNat, BitVec.setWidth_eq]

theorem intCode_toNat (v : Int) : intCode 32 v = (BitVec.ofInt 32 v).toNat := by
  rw [intCode, BitVec.toNat_ofInt]
  rfl

/-- OF is set exactly when the exact value does not fit (R170). -/
theorem ofInt32_getLsbD (v : Int) : (ofInt32 v).getLsbD 2 = true ↔ ¬ (-(2 : Int) ^ 31 ≤ v ∧ v < 2 ^ 31) := by
  unfold ofInt32
  split
  · rename_i hv
    exact ⟨fun _ => by omega, fun _ => rfl⟩
  · rename_i hv
    exact ⟨fun hc => absurd hc nofun, fun hc => absurd hc (by omega)⟩

/-- An exact integer delivered as an element. -/
theorem int32Out_ofInt {v : Int} {x : BitVec 32} (h : BitVec.ofInt 32 v = x) :
    (int32Out v).1 = x.toNat ∧ ((int32Out v).2.getLsbD 2 = true ↔ ¬ (-(2 : Int) ^ 31 ≤ v ∧ v < 2 ^ 31)) :=
  ⟨by rw [int32Out, intCode_toNat, h], ofInt32_getLsbD v⟩

/-- Settles O13. -/
theorem vectorElements : Obligations.VectorElements := by
  unfold Obligations.VectorElements
  refine ⟨fun s k g vd va vb sb ty rm h hg => ?_, fun a b d r => ?_⟩
  · have l24 : 2 ≤ lat24 (vty ty) := by unfold lat24; split <;> omega
    have l46 : 2 ≤ binLat .mul (vty ty) := by unfold binLat; dsimp only; split <;> omega
    have long : 2 ≤ unLat .sqrt (vty ty) := by unfold unLat; dsimp only; split <;> omega
    simp only [← vcount_vty ty, ← lat24_vty ty, ← lat46_vty ty, ← longLat_vty ty]
    have v {op : VOp} {lat : Nat} {f : Nat → Nat × Fl} (hd : op.IsUnit) (hb : op.badField = false) (hl : 2 ≤ lat)
        (he : evalV s k op = .ws (vOuts lat vd.toNat (vty ty) ((List.range (vcount (vty ty))).map f))) := h.v_gives hg hd hb hl he
    refine ⟨fun hr => ?_, fun hr h0 => ?_, v (op := .minmax false vd va vb sb ty) (fun _ => rfl) rfl l24 rfl,
      v (op := .minmax true vd va vb sb ty) (fun _ => rfl) rfl l24 rfl, v (op := .cmp .eq vd va vb sb ty) (fun _ => rfl) rfl l24 rfl,
      v (op := .cmp .lt vd va vb sb ty) (fun _ => rfl) rfl l24 rfl, v (op := .cmp .le vd va vb sb ty) (fun _ => rfl) rfl l24 rfl,
      v (op := .cmp .un vd va vb sb ty) (fun _ => rfl) rfl l24 rfl,
      h.v_absent (op := .sgn false vd va ty) (fun _ => rfl) rfl, h.v_absent (op := .sgn true vd va ty) (fun _ => rfl) rfl, fun hm =>
      ⟨h.v_lands hg (op := .sgn false vd va ty) (fun _ => rfl) rfl rfl hm, h.v_lands hg (op := .sgn true vd va ty) (fun _ => rfl) rfl rfl hm⟩⟩
    · have hb : (badRm rm || (ty == 0 && rm != 0)) = true := by simpa [badRm] using hr
      have bin (f : VBin) := h.v_reserved (g := g) (op := .bin f vd va vb sb ty rm) (fun _ => rfl) hb
      have un (f : VUn) := h.v_reserved (g := g) (op := .un f vd va ty rm) (fun _ => rfl) hb
      exact ⟨bin .add, bin .sub, bin .mul, bin .fma, bin .div, un .sqrt, un .rsqrt, un .exp2⟩
    · have hb : (badRm rm || (ty == 0 && rm != 0)) = false := by simpa [badRm] using ⟨hr, h0⟩
      have bin (f : VBin) (hl : 2 ≤ binLat f (vty ty)) (he : (f == .div && vty ty == .int32) = false) :=
        h.v_gives hg (op := .bin f vd va vb sb ty rm) (fun _ => rfl) hb hl (by simp only [evalV, he]; rfl)
      have un (f : VUn) (hl : 2 ≤ unLat f (vty ty)) (he : (vty ty != .int32 && (f == .sqrt || vty ty != .f64)) = true) :=
        h.v_gives hg (op := .un f vd va ty rm) (fun _ => rfl) hb hl (by simp only [evalV, he]; rfl)
      refine ⟨bin .add l24 rfl, bin .sub l24 rfl, bin .mul l46 rfl, bin .fma l46 rfl, fun ht => ⟨bin .div long ?_, un .sqrt long ?_⟩,
        fun ht => ⟨?_, ?_⟩, fun ht => ⟨un .rsqrt (by omega : 2 ≤ 12) ?_, un .exp2 (by omega : 2 ≤ 12) ?_⟩, fun ht => ⟨?_, ?_⟩⟩
      · rw [Bool.and_eq_false_iff]
        exact .inr (beq_eq_false_iff_ne.mpr (fun e => ht (vty_eq_int32.mp e)))
      · rw [Bool.and_eq_true]
        exact ⟨bne_iff_ne.mpr (fun e => ht (vty_eq_int32.mp e)), rfl⟩
      · exact h.v_lacks hg (op := .bin .div vd va vb sb ty rm) (fun _ => rfl) hb (by simp only [evalV, ht]; rfl)
      · exact h.v_lacks hg (op := .un .sqrt vd va ty rm) (fun _ => rfl) hb (by simp only [evalV, ht]; rfl)
      · rcases ht with rfl | rfl <;> rfl
      · rcases ht with rfl | rfl <;> rfl
      · exact h.v_lacks hg (op := .un .rsqrt vd va ty rm) (fun _ => rfl) hb (by rcases ht with rfl | rfl <;> rfl)
      · exact h.v_lacks hg (op := .un .exp2 vd va ty rm) (fun _ => rfl) hb (by rcases ht with rfl | rfl <;> rfl)
  · have hadd := int32Out_ofInt (v := a.toInt + b.toInt) (x := a + b) (by rw [BitVec.ofInt_add, BitVec.ofInt_toInt, BitVec.ofInt_toInt])
    have hsub := int32Out_ofInt (v := a.toInt - b.toInt) (x := a - b) 
      (BitVec.eq_of_toInt_eq (by rw [BitVec.toInt_ofInt, BitVec.toInt_sub]))
    have hmul := int32Out_ofInt (v := a.toInt * b.toInt) (x := a * b) (by rw [BitVec.ofInt_mul, BitVec.ofInt_toInt, BitVec.ofInt_toInt])
    have hfma := int32Out_ofInt (v := a.toInt * b.toInt + d.toInt) (x := a * b + d)
      (by rw [BitVec.ofInt_add, BitVec.ofInt_mul, BitVec.ofInt_toInt, BitVec.ofInt_toInt, BitVec.ofInt_toInt])
    simp only [binElem, if_true, toInt32_toNat, minmaxElem, vcmpElem, Bool.false_eq_true, if_false]
    refine ⟨hadd.1, hadd.2, hsub.1, hsub.2, hmul.1, hmul.2, hfma.1, hfma.2, ?_, ?_, trivial, ?_⟩
    · split <;> rfl
    · split <;> rfl
    · simp only [BitVec.toInt_inj]

end Sys2Proof.Machine

/-! SUPPORT. Selection, masks, conversion, pot reads and reductions in the V slot (R167, R168, R174 to R183). -/

namespace Sys2Proof.Machine

open Sys2Proof

theorem VOp.IsUnit.present {op : VOp} (hu : op.IsUnit) (hb : op.badField = false) {k : CellRef} (hm : isMemCell k = false) :
    op.decodeFault (isMemCell k) = none := by
  rw [hu, hb, hm]
  rfl

section
variable {s : State} {k : CellRef} {g : BitVec 4} (h : Quiet s k) (hg : (s.cell k).guard g = true)
include h hg

/-- One write of the vector unit that lands with its word. -/
theorem Quiet.v_one {op : VOp} {pw : PW} (hd : op.IsUnit) (hb : op.badField = false) (ho : pw.isOwn = true)
    (he : evalV s k op = .ws [(1, pw)]) (hm : isMemCell k = false) :
    Issues s k (.next (drive k { vg := g, v := op } s)) ((s.cell k).stepped.applyPW pw) := by
  obtain ⟨⟨-, -, -, -, -, -, h5, h6, h7, -⟩, -⟩ := id h
  have := h.v_slot hg (by rw [hd, hb, hm]; rfl) ((h.evalV_holding _ _).trans he) rfl rfl rfl (by simpa [SlotOut.ws] using ho)
  rwa [show SlotOut.ws [(1, pw)] = SlotOut.one 1 pw from rfl, Cell.after_one h5 h6 h7] at this

/-- Both outcomes of an operation with one write that lands with its word, or in two cycles. -/
theorem Quiet.v_one_gives {op : VOp} {pw : PW} (hd : op.IsUnit) (hb : op.badField = false) (ho : pw.isOwn = true)
    (he : evalV s k op = .ws [(1, pw)]) :
    (isMemCell k = false → Issues s k (.next (drive k { vg := g, v := op } s)) ((s.cell k).stepped.applyPW pw)) ∧
    (isMemCell k = true → Faults s k (.next (drive k { vg := g, v := op } s)) K.eUnitAbsent 2 (s.cell k).pc) :=
  ⟨h.v_one hg hd hb ho he, h.v_absent hd hb⟩

theorem Quiet.v_fly_gives {op : VOp} {ws : List (Nat × PW)} (hd : op.IsUnit) (hb : op.badField = false)
    (hw : ∀ x ∈ ws, 2 ≤ x.1 ∧ x.2.isZero = false ∧ x.2.isOwn = true) (he : evalV s k op = .ws ws) :
    (isMemCell k = false → Issues s k (.next (drive k { vg := g, v := op } s)) ((s.cell k).stepped.inFlights (s.isl k.isl).sched ws)) ∧
    (isMemCell k = true → Faults s k (.next (drive k { vg := g, v := op } s)) K.eUnitAbsent 2 (s.cell k).pc) :=
  ⟨fun hm => h.v_flies hg (by rw [hd, hb, hm]; rfl) he hw, h.v_absent hd hb⟩

end

/-! ### Lanes -/

theorem elemBytes_int32 (f : Nat → Nat) (l : List Nat) : (l.map f).flatMap (elemBytes .int32) = l.flatMap (fun x => leBytes 4 (f x)) := by
  rw [List.flatMap_map]
  rfl

theorem shift_mod (b : Nat) : (BitVec.ofNat 32 b).toNat % 32 = b % 32 := by
  rw [BitVec.toNat_ofNat]
  omega

/-- Settles O14. -/
theorem vectorLanesAndMasks : Obligations.VectorLanesAndMasks := by
  unfold Obligations.VectorLanesAndMasks
  intro s k g vd va vb pd sb ty h hg
  have lanes {op : VOp} (f : Nat → Nat) (hd : op.IsUnit) (hb : op.badField = false)
      (he : evalV s k op = .ws [vWrite 1 vd.toNat .int32 ((List.range 64).map f)]) :=
    elemBytes_int32 f (List.range 64) ▸ h.v_one_gives hg hd hb (pw := .vreg (256 * vd.toNat) (((List.range 64).map f).flatMap (elemBytes .int32))) rfl he
  simp only [← vcount_vty ty, shift_mod]
  refine ⟨lanes (op := .logic .and vd va vb sb) _ (fun _ => rfl) rfl rfl, lanes (op := .logic .or vd va vb sb) _ (fun _ => rfl) rfl rfl,
    lanes (op := .logic .xor vd va vb sb) _ (fun _ => rfl) rfl rfl, lanes (op := .logic .shl vd va vb sb) _ (fun _ => rfl) rfl rfl,
    lanes (op := .logic .shr vd va vb sb) _ (fun _ => rfl) rfl rfl, lanes (op := .logic .sra vd va vb sb) _ (fun _ => rfl) rfl rfl,
    lanes (op := .iota vd va) _ (fun _ => rfl) rfl rfl, lanes (op := .rot vd va vb) _ (fun _ => rfl) rfl rfl, ?_, ?_, ?_, ?_, ?_, fun hm hc => ?_, fun hm e hc => ?_,
    fun hm => h.v_absent (op := .cfg va) (fun _ => rfl) rfl hm⟩
  · refine h.v_one_gives hg (op := .bcast vd va ty) (fun _ => rfl) rfl rfl ?_
    have he : evalV s k (.bcast vd va ty) =
      .ws [vWrite 1 vd.toNat (vty ty) (List.replicate (vcount (vty ty)) (scalarElem (vty ty) ((s.cell k).rs va)))] := rfl
    rw [he, vWrite, ← List.length_range (n := vcount (vty ty)), ← List.map_const', List.flatMap_map, List.length_range]
    rfl
  · refine h.v_one_gives hg (op := .sel vd va vb sb ty) (fun _ => rfl) rfl rfl ?_
    have he : evalV s k (.sel vd va vb sb ty) = .ws [vWrite 1 vd.toNat (vty ty) ((List.range (vcount (vty ty))).map (fun j =>
      if vElem (s.cell k) (vty ty) vd.toNat j ≠ 0 then vElem (s.cell k) (vty ty) va.toNat j else vOperandB (s.cell k) (vty ty) vb sb j))] := rfl
    rw [he, vWrite, List.flatMap_map]
  · refine h.v_fly_gives hg (op := .anyAll false pd va) (fun _ => rfl) rfl (by simp [PW.isZero, PW.isOwn]) ?_
    simp only [evalV, List.any_map, Bool.false_eq_true, if_false]
    rfl
  · refine h.v_fly_gives hg (op := .anyAll true pd va) (fun _ => rfl) rfl (by simp [PW.isZero, PW.isOwn]) ?_
    simp only [evalV, List.all_map, if_true]
    rfl
  · refine h.v_fly_gives hg (op := .ext vd va vb ty) (fun _ => rfl) rfl (by simp [PW.isZero, PW.isOwn]) ?_
    simp only [evalV, vty_eq_int32]
    rfl
  · exact h.v_one hg (op := .cfg va) (pw := .vcfg ((s.cell k).rs va)) (fun _ => rfl) rfl rfl (by simp only [evalV, hc]; rfl) hm
  · exact h.v_bad hg (op := .cfg va) (by rw [hm]; rfl) (by simp only [evalV, hc])

/-! ### Conversion and pots -/

theorem mem_flagged {lat : Nat} {x y : Nat × PW} {l : List (Nat × Fl)} (hy : y.1 = lat ∧ y.2.isZero = false ∧ y.2.isOwn = true)
    (hx : x ∈ y :: flagWrites lat l) : x.1 = lat ∧ x.2.isZero = false ∧ x.2.isOwn = true := by
  rcases List.mem_cons.mp hx with rfl | hx
  · exact hy
  · exact mem_flagWrites hx

/-- The writes of a conversion have its latency (R174, R185). -/
theorem mem_evalVcvt {c : Cell} {vd va : BitVec 5} {ta td : BitVec 2} {h : Bool} {rm : Rm} {x : Nat × PW}
    (hx : x ∈ (evalVcvt c vd va ta td h rm).writes) : 2 ≤ x.1 ∧ x.2.isZero = false ∧ x.2.isOwn = true := by
  have hl : 2 ≤ if vty ta = .f64 ∨ vty td = .f64 then 4 else 2 := by split <;> omega
  unfold evalVcvt at hx
  dsimp only at hx
  split at hx
  · obtain ⟨h1, h2, h3⟩ := mem_vOuts hx
    exact ⟨h1 ▸ hl, h2, h3⟩
  · obtain ⟨h1, h2, h3⟩ := mem_flagged ⟨rfl, rfl, rfl⟩ hx
    exact ⟨h1 ▸ hl, h2, h3⟩

theorem evalVcvt_ws (c : Cell) (vd va : BitVec 5) (ta td : BitVec 2) (h : Bool) (rm : Rm) :
    evalVcvt c vd va ta td h rm = .ws (evalVcvt c vd va ta td h rm).writes := by
  unfold evalVcvt
  dsimp only
  split <;> rfl

section
variable {c : Cell} {va sv idx : BitVec 5} {tile : BitVec 4} {h : Bool} {t : EFmt}

/-- Whether VUNPK and VPACK take the packing configuration (R176). -/
def Cell.packs (c : Cell) (h : Bool) : Prop := (Rm.ofCode (vcRm c.vcfg)).isSome = true ∧ packHBad (vcFmt c.vcfg) h = false

theorem evalVunpk_ws (hp : c.packs h) : evalVunpk c va sv idx tile h t = .ws (evalVunpk c va sv idx tile h t).writes := by
  obtain ⟨hr, hb⟩ := hp
  obtain ⟨r, hr⟩ := Option.isSome_iff_exists.mp hr
  unfold evalVunpk
  simp only [hr, hb]
  rfl

theorem mem_evalVunpk {x : Nat × PW} (hx : x ∈ (evalVunpk c va sv idx tile h t).writes) : 2 ≤ x.1 ∧ x.2.isZero = false ∧ x.2.isOwn = true := by
  unfold evalVunpk at hx
  dsimp only at hx
  split at hx
  · simp [SlotOut.bad] at hx
  · split at hx
    · simp [SlotOut.bad] at hx
    · obtain ⟨h1, h2, h3⟩ := mem_flagged (lat := 3) ⟨rfl, rfl, rfl⟩ hx
      exact ⟨by omega, h2, h3⟩

theorem evalVpack_ws (hp : c.packs h) : evalVpack c va sv idx tile h t = .ws (evalVpack c va sv idx tile h t).writes := by
  obtain ⟨hr, hb⟩ := hp
  obtain ⟨r, hr⟩ := Option.isSome_iff_exists.mp hr
  unfold evalVpack
  simp only [hr, hb]
  rfl

theorem mem_evalVpack {x : Nat × PW} (hx : x ∈ (evalVpack c va sv idx tile h t).writes) : 2 ≤ x.1 ∧ x.2.isZero = false ∧ x.2.isOwn = true := by
  unfold evalVpack at hx
  dsimp only at hx
  split at hx
  · simp [SlotOut.bad] at hx
  · split at hx
    · simp [SlotOut.bad] at hx
    · simp only [List.mem_append, List.mem_singleton] at hx
      rcases hx with (rfl | hx) | hx
      · exact ⟨(by omega : 2 ≤ 3), rfl, rfl⟩
      · split at hx
        · simp only [List.mem_singleton] at hx
          subst hx
          exact ⟨(by omega : 2 ≤ 3), rfl, rfl⟩
        · simp at hx
      · obtain ⟨h1, h2, h3⟩ := mem_flagWrites hx
        exact ⟨by omega, h2, h3⟩

theorem evalVpk_bad (hp : ¬ c.packs h) : evalVunpk c va sv idx tile h t = .bad K.eFieldReserved ∧ evalVpack c va sv idx tile h t = .bad K.eFieldReserved := by
  unfold Cell.packs at hp
  unfold evalVunpk evalVpack
  cases hr : Rm.ofCode (vcRm c.vcfg) with
  | none => simp only [hr, and_self]
  | some r =>
    have hb : packHBad (vcFmt c.vcfg) h = true := by simpa [hr] using hp
    simp only [hr, hb, if_true, and_self]

end

theorem shapeUnless_f64 {td : BitVec 2} (ht : td ≠ 3) (o : SlotOut) : shapeUnless (vty td != .f64) o = o :=
  if_pos (bne_iff_ne.mpr (fun e => ht (vty_eq_f64.mp e)))

theorem evalV_unpk {s : State} {k : CellRef} {vd sv idx : BitVec 5} {tile : BitVec 4} {h : Bool} {td : BitVec 2} (ht : td ≠ 3) :
    evalV s k (.unpk vd sv idx tile h td) = evalVunpk (s.cell k) vd sv idx tile h (vty td) := shapeUnless_f64 ht _

theorem evalV_pack {s : State} {k : CellRef} {va sv idx : BitVec 5} {tile : BitVec 4} {h : Bool} {td : BitVec 2} (ht : td ≠ 3) :
    evalV s k (.pack va sv idx tile h td) = evalVpack (s.cell k) va sv idx tile h (vty td) := shapeUnless_f64 ht _

/-- A pot read that fits its lane type (R178). -/
theorem evalVpot_fits {c : Cell} {add zero : Bool} {vd va idx : BitVec 5} {d : Bool} {ty : BitVec 2} {rm : Rm} {inc : Bool}
    (hf : ty ≠ 3 ∧ (ty = 0 → (c.pst d).mode = .int ∨ (c.pst d).mode = .empty)) :
    evalVpot c add zero vd va idx d (vty ty) rm inc =
      let s' := (c.rs idx).toNat % 16
      let l := (List.range 64).map (fun l => if add then potReadAdd (c.pvis d) (c.entry d (64 * s' + l)) (vty ty) rm (vElem c (vty ty) va.toNat l)
        else potRead (c.pvis d) (c.entry d (64 * s' + l)) (vty ty) rm)
      .ws ([] ++ ((if zero then [(8, .potZero d [2 * s', 2 * s' + 1])] else []) ++ vOuts 4 vd.toNat (vty ty) l) ++ postInc c idx inc false) := by
  have hn : ¬ (vty ty = .f64 ∨ (vty ty = .int32 ∧ ((c.pst d).mode = .fx ∨ (c.pst d).mode = .f32))) := by
    rw [vty_eq_f64, vty_eq_int32]
    rintro (h3 | ⟨h0, hm⟩)
    · exact hf.1 h3
    · rcases hf.2 h0 with e | e <;> simp [e] at hm
  unfold evalVpot
  exact if_neg hn

theorem evalVpot_unfit {c : Cell} {add zero : Bool} {vd va idx : BitVec 5} {d : Bool} {ty : BitVec 2} {rm : Rm} {inc : Bool}
    (hf : ¬ (ty ≠ 3 ∧ (ty = 0 → (c.pst d).mode = .int ∨ (c.pst d).mode = .empty))) :
    evalVpot c add zero vd va idx d (vty ty) rm inc = .bad K.eShape := by
  have hy : vty ty = .f64 ∨ (vty ty = .int32 ∧ ((c.pst d).mode = .fx ∨ (c.pst d).mode = .f32)) := by
    rw [vty_eq_f64, vty_eq_int32]
    by_contra hn
    refine hf ⟨fun h3 => hn (.inl h3), fun h0 => ?_⟩
    cases hm : (c.pst d).mode <;> simp [h0, hm] at hn ⊢
  unfold evalVpot
  exact if_pos hy

/-- An operation of the V slot whose writes stay in flight but for a post-increment. -/
theorem Quiet.v_mixed {s : State} {k : CellRef} {g : BitVec 4} (h : Quiet s k) (hg : (s.cell k).guard g = true) {op : VOp}
    {fly : List (Nat × PW)} {idx : BitVec 5} {inc : Bool} (hd : op.decodeFault (isMemCell k) = none)
    (he : evalV s k op = .ws ([] ++ fly ++ postInc (s.cell k) idx inc false)) (hf : ∀ x ∈ fly, 2 ≤ x.1 ∧ x.2.isOwn = true)
    (hz : fly.filter (fun x => x.2.isZero) ++ fly.filter (fun x => !x.2.isZero) = fly) :
    Issues s k (.next (drive k { vg := g, v := op } s)) (((s.cell k).stepped.bumped idx inc 1).inFlights (s.isl k.isl).sched fly) := by
  obtain ⟨⟨-, -, -, -, -, -, h5, h6, h7, -⟩, -⟩ := id h
  have hown : ∀ x ∈ [] ++ fly ++ postInc (s.cell k) idx inc false, x.2.isOwn = true := by
    intro x hx
    simp only [List.nil_append, List.mem_append] at hx
    rcases hx with hx | hx
    · exact (hf x hx).2
    · exact (mem_postInc hx).2.2.2
  have := h.v_slot hg hd ((h.evalV_holding _ _).trans he) rfl rfl rfl hown
  rw [Cell.after_mixed h5 h6 h7 _ _ rfl _ rfl (by simp) (fun x hx => (hf x hx).1) hz
    (fun x hx => ⟨(mem_postInc hx).1, (mem_postInc hx).2.1, (mem_postInc hx).2.2.1⟩), List.map_nil, List.foldl_nil,
    postInc_bumped (s.cell k) (s.cell k).stepped rfl] at this
  exact this

/-- A pot read, with its zeroing of two rows. -/
theorem Quiet.vpot {s : State} {k : CellRef} {g : BitVec 4} (h : Quiet s k) (hg : (s.cell k).guard g = true) {add zero : Bool}
    {vd va idx : BitVec 5} {d : Bool} {ty : BitVec 2} {rm : BitVec 3} {inc : Bool} (hb : (badRm rm || (ty == 0 && rm != 0)) = false)
    (hf : ty ≠ 3 ∧ (ty = 0 → ((s.cell k).pst d).mode = .int ∨ ((s.cell k).pst d).mode = .empty)) {l : List (Nat × Fl)}
    (hl : l = (List.range 64).map (fun l =>
      if add then potReadAdd ((s.cell k).pvis d) ((s.cell k).entry d (64 * (((s.cell k).rs idx).toNat % 16) + l)) (vty ty) ((Rm.ofCode rm.toNat).getD .rne)
        (vElem (s.cell k) (vty ty) va.toNat l)
      else potRead ((s.cell k).pvis d) ((s.cell k).entry d (64 * (((s.cell k).rs idx).toNat % 16) + l)) (vty ty) ((Rm.ofCode rm.toNat).getD .rne))) :
    (isMemCell k = true → Faults s k (.next (drive k { vg := g, v := .pot add zero vd va idx d ty rm inc } s)) K.eUnitAbsent 2 (s.cell k).pc) ∧
    (isMemCell k = false → Issues s k (.next (drive k { vg := g, v := .pot add zero vd va idx d ty rm inc } s))
      (((s.cell k).stepped.bumped idx inc 1).inFlights (s.isl k.isl).sched
        ((if zero then [(8, .potZero d [2 * (((s.cell k).rs idx).toNat % 16), 2 * (((s.cell k).rs idx).toNat % 16) + 1])] else []) ++
          vOuts 4 vd.toNat (vty ty) l))) := by
  refine ⟨h.v_absent (fun _ => rfl) hb, fun hm => ?_⟩
  subst hl
  refine h.v_mixed hg (VOp.IsUnit.present (op := .pot add zero vd va idx d ty rm inc) (fun _ => rfl) hb hm) (evalVpot_fits hf) (fun x hx => ?_) ?_
  · rcases List.mem_append.mp hx with hx | hx
    · split at hx
      · simp only [List.mem_singleton] at hx
        subst hx
        exact ⟨(by omega : 2 ≤ 8), rfl⟩
      · simp at hx
    · exact ⟨by have := (mem_vOuts hx).1; omega, (mem_vOuts hx).2.2⟩
  · have hv (b : Bool) (l : List (Nat × PW)) (hl : ∀ x ∈ l, x.2.isZero = b) : l.filter (fun x => x.2.isZero) = (if b then l else []) ∧
        l.filter (fun x => !x.2.isZero) = (if b then [] else l) := by
      cases b
      · exact ⟨List.filter_eq_nil_iff.mpr (fun x hx => by simp [hl x hx]), List.filter_eq_self.mpr (fun x hx => by simp [hl x hx])⟩
      · exact ⟨List.filter_eq_self.mpr hl, List.filter_eq_nil_iff.mpr (fun x hx => by simp [hl x hx])⟩
    rw [List.filter_append, List.filter_append, (hv false _ (fun x hx => (mem_vOuts hx).2.1)).1, (hv false _ (fun x hx => (mem_vOuts hx).2.1)).2]
    cases zero <;> simp [PW.isZero]

/-- Settles O15. -/
theorem vectorConversionAndPots : Obligations.VectorConversionAndPots := by
  unfold Obligations.VectorConversionAndPots
  intro s k g vd va idx ty td h d inc tile rm hq hg
  refine ⟨fun hr => ?_, fun hr hh => ?_, fun ht hp => ⟨?_, ?_⟩, fun ht => ⟨fun hm => ?_, fun hm => ?_⟩, fun ht hp hm => ⟨?_, ?_⟩, fun hr => ?_, fun hr h0 => ⟨fun hf => ?_, fun hf => ?_⟩⟩
  · exact hq.v_reserved (op := .cvt vd va ty td h rm) (fun _ => rfl) (by simpa [VOp.badField, badRm, and_assoc] using hr)
  · have hb : (VOp.cvt vd va ty td h rm).badField = false := by
      have h3 (h1 : h = true) (h2 : ¬ ty = 3) : td = 3 := (hh.resolve_left (fun e => absurd (h1.symm.trans e) nofun)).resolve_left h2
      simpa [VOp.badField, badRm] using ⟨hr, h3⟩
    exact (hq.v_fly_gives hg (fun _ => rfl) hb (fun _ hx => mem_evalVcvt hx) (evalVcvt_ws _ _ _ _ _ _ _)).symm
  · refine (hq.v_fly_gives hg (op := .unpk vd va idx tile h td) (fun _ => rfl) rfl (fun _ hx => mem_evalVunpk hx) ?_).symm
    exact (evalV_unpk ht).trans (evalVunpk_ws hp)
  · refine (hq.v_fly_gives hg (op := .pack va vd idx tile h td) (fun _ => rfl) rfl (fun _ hx => mem_evalVpack hx) ?_).symm
    exact (evalV_pack ht).trans (evalVpack_ws hp)
  · exact hq.v_bad hg (op := .unpk vd va idx tile h td) (VOp.IsUnit.present (fun _ => rfl) rfl hm) (by rw [ht]; rfl)
  · exact hq.v_bad hg (op := .pack va vd idx tile h td) (VOp.IsUnit.present (fun _ => rfl) rfl hm) (by rw [ht]; rfl)
  · refine hq.v_bad hg (op := .unpk vd va idx tile h td) (VOp.IsUnit.present (fun _ => rfl) rfl hm) ?_
    exact (evalV_unpk ht).trans (evalVpk_bad hp).1
  · refine hq.v_bad hg (op := .pack va vd idx tile h td) (VOp.IsUnit.present (fun _ => rfl) rfl hm) ?_
    exact (evalV_pack ht).trans (evalVpk_bad hp).2
  · have hb : (badRm rm || (ty == 0 && rm != 0)) = true := by simpa [badRm] using hr
    have pot (add zero : Bool) (va : BitVec 5) := hq.v_reserved (g := g) (op := .pot add zero vd va idx d ty rm inc) (fun _ => rfl) hb
    exact ⟨pot false false 0, pot true false va, pot false true 0, pot true true va⟩
  · have hb : (badRm rm || (ty == 0 && rm != 0)) = false := by simpa [badRm] using ⟨hr, h0⟩
    exact ⟨hq.vpot hg hb hf rfl, hq.vpot hg hb hf rfl, hq.vpot hg hb hf rfl, hq.vpot hg hb hf rfl⟩
  · have hb : (badRm rm || (ty == 0 && rm != 0)) = false := by simpa [badRm] using ⟨hr, h0⟩
    have pot (add zero : Bool) (va : BitVec 5) (hm : isMemCell k = false) :=
      hq.v_bad hg (op := .pot add zero vd va idx d ty rm inc) (VOp.IsUnit.present (op := .pot add zero vd va idx d ty rm inc) (fun _ => rfl) hb hm) (evalVpot_unfit hf)
    exact ⟨pot false false 0, pot true false va, pot false true 0, pot true true va⟩

end Sys2Proof.Machine

/-! SUPPORT. Reductions, the rank sort and lane flags in the V slot (R180 to R183). -/

namespace Sys2Proof.Machine

open Sys2Proof

/-- Behind a word whose one write lands with it, as a clearing of the lane flags does. -/
theorem Cell.after_clear {c : Cell} (h5 : c.held = none) (h6 : c.bubble = false) (h7 : c.pend = []) (w : HWord) {pw : PW} {sched : Nat}
    (hz : pw.isZero = false) (hc : pw.isClear = false) :
    (c.holding w).after (.ws [(1, pw), (1, .lanesClr)]) sched = (c.stepped.applyPW .lanesClr).applyPW pw := by
  rw [Cell.after_seq h5 h6 h7 _ _ rfl]
  have z1 : PW.isZero .lanesClr = false := rfl
  have c1 : PW.isClear .lanesClr = true := rfl
  simp [SlotOut.ws, laterWrites, List.filter_cons, hz, hc, z1, c1, Cell.inFlights]

/-- The writes of a tile's reduction have its latency (R185). -/
theorem mem_evalVtred {c : Cell} {f : RedF} {vd : BitVec 5} {tile : BitVec 4} {axis : Bool} {t : EFmt} {rm : Rm} {x : Nat × PW}
    (hx : x ∈ (evalVtred c f vd tile axis t rm).writes) : 2 ≤ x.1 ∧ x.2.isZero = false ∧ x.2.isOwn = true := by
  obtain ⟨h1, h2, h3⟩ := mem_flagged (lat := 6) ⟨rfl, rfl, rfl⟩ hx
  exact ⟨by omega, h2, h3⟩

section
variable {s : State} {k : CellRef} {g : BitVec 4} (h : Quiet s k) (hg : (s.cell k).guard g = true)
include h hg

/-- A reduction into a scalar register. -/
theorem Quiet.vred (f : RedF) (vd va : BitVec 5) (ty : BitVec 2) (rm : BitVec 3) :
    let r := (Rm.ofCode rm.toNat).getD .rne
    let o := reduce f (vty ty) r ((List.range (vcount (vty ty))).map (fun j => vElem (s.cell k) (vty ty) va.toNat j))
    (rm.toNat ≤ 4 ∧ (ty = 0 → rm = 0) →
      (isMemCell k = false → Issues s k (.next (drive k { vg := g, v := .red f vd va ty rm } s)) ((s.cell k).stepped.inFlights (s.isl k.isl).sched
        ((8, .s vd.toNat (redWord f o.2.1 o.1)) :: flagWrites 8 [(0, o.2.2)]))) ∧
      (isMemCell k = true → Faults s k (.next (drive k { vg := g, v := .red f vd va ty rm } s)) K.eUnitAbsent 2 (s.cell k).pc)) ∧
    (¬ (rm.toNat ≤ 4 ∧ (ty = 0 → rm = 0)) → Faults s k (.next (drive k { vg := g, v := .red f vd va ty rm } s)) K.eFieldReserved 2 (s.cell k).pc) := by
  refine ⟨fun hr => ?_, fun hr => ?_⟩
  · refine h.v_fly_gives hg (op := .red f vd va ty rm) (fun _ => rfl) (by simpa [VOp.badField, badRm] using hr) (fun x hx => ?_) rfl
    obtain ⟨h1, h2, h3⟩ := mem_flagged (lat := 8) ⟨rfl, rfl, rfl⟩ hx
    exact ⟨by omega, h2, h3⟩
  · refine h.v_reserved (op := .red f vd va ty rm) (fun _ => rfl) ?_
    by_contra hn
    exact hr (by simpa [VOp.badField, badRm] using hn)

/-- A reduction of a tile. -/
theorem Quiet.vtred (f : RedF) (vd : BitVec 5) (tile : BitVec 4) (axis : Bool) (ty : BitVec 2) (rm : BitVec 3) :
    (rm.toNat ≤ 4 ∧ (ty = 0 → rm = 0) → ty ≠ 3 →
      (isMemCell k = false → Issues s k (.next (drive k { vg := g, v := .tred f vd tile axis ty rm } s))
        ((s.cell k).stepped.inFlights (s.isl k.isl).sched (evalVtred (s.cell k) f vd tile axis (vty ty) ((Rm.ofCode rm.toNat).getD .rne)).writes)) ∧
      (isMemCell k = true → Faults s k (.next (drive k { vg := g, v := .tred f vd tile axis ty rm } s)) K.eUnitAbsent 2 (s.cell k).pc)) ∧
    (rm.toNat ≤ 4 ∧ (ty = 0 → rm = 0) → ty = 3 → isMemCell k = false →
      Faults s k (.next (drive k { vg := g, v := .tred f vd tile axis ty rm } s)) K.eShape 2 (s.cell k).pc) ∧
    (¬ (rm.toNat ≤ 4 ∧ (ty = 0 → rm = 0)) →
      Faults s k (.next (drive k { vg := g, v := .tred f vd tile axis ty rm } s)) K.eFieldReserved 2 (s.cell k).pc) := by
  have hb (hr : rm.toNat ≤ 4 ∧ (ty = 0 → rm = 0)) : (VOp.tred f vd tile axis ty rm).badField = false := by
    simpa [VOp.badField, badRm] using hr
  refine ⟨fun hr ht => ?_, fun hr ht hm => ?_, fun hr => ?_⟩
  · exact h.v_fly_gives hg (fun _ => rfl) (hb hr) (fun _ hx => mem_evalVtred hx) (shapeUnless_f64 ht _)
  · exact h.v_bad hg (VOp.IsUnit.present (fun _ => rfl) (hb hr) hm) (by rw [ht]; rfl)
  · refine h.v_reserved (op := .tred f vd tile axis ty rm) (fun _ => rfl) ?_
    by_contra hn
    exact hr (by simpa [VOp.badField, badRm] using hn)

/-- The lane flags in a vector register, cleared behind. -/
theorem Quiet.vgetfClr (vd : BitVec 5) (hm : isMemCell k = false) :
    Issues s k (.next (drive k { vg := g, v := .getf true vd } s)) { (s.cell k).stepped with
      vreg := Bytes.writeN (s.cell k).vreg (256 * vd.toNat) ((List.range 64).flatMap (fun l => leBytes 4 (SMap.get (fun _ => 0) (s.cell k).lanes l).toNat))
      lanes := [] } := by
  obtain ⟨⟨-, -, -, -, -, -, h5, h6, h7, -⟩, -⟩ := id h
  have := h.v_slot hg (op := .getf true vd) (VOp.IsUnit.present (fun _ => rfl) rfl hm) (h.evalV_holding _ _) rfl rfl rfl
    (by simp [evalV, SlotOut.ws, vWrite, PW.isOwn])
  rw [show evalV s k (.getf true vd) = .ws [vWrite 1 vd.toNat .int32 _, (1, .lanesClr)] from rfl, vWrite, elemBytes_int32,
    Cell.after_clear h5 h6 h7 _ rfl rfl] at this
  exact this

end

/-- Settles O16. -/
theorem vectorReductions : Obligations.VectorReductions := by
  unfold Obligations.VectorReductions
  intro s k g vd va vb ty tile axis rm h hg
  simp only [← vcount_vty ty]
  have red (f : RedF) := h.vred hg f vd va ty rm
  have tred (f : RedF) := h.vtred hg f vd tile axis ty rm
  refine ⟨red .sum, red .max, red .min, red .argmax, red .argmin, tred .sum, tred .max, tred .min, tred .argmax, tred .argmin,
    fun hv ht => ?_, fun hv ht hm => ?_, fun hv => ?_, ?_, h.vgetfClr hg vd, h.v_absent (fun _ => rfl) rfl⟩
  · have hmod : (vd.toNat + 1) % 32 = vd.toNat + 1 := by
      have : vd.toNat % 2 = 0 := by simpa [BitVec.getLsbD, Nat.testBit_zero] using hv
      omega
    refine h.v_fly_gives hg (op := .rank vd va vb ty) (fun _ => rfl) hv (by simp [vWrite, PW.isZero, PW.isOwn]) ?_
    simp only [evalV, hmod]
    exact shapeUnless_f64 ht _
  · exact h.v_bad hg (op := .rank vd va vb ty) (VOp.IsUnit.present (op := .rank vd va vb ty) (fun _ => rfl) hv hm) (by rw [ht]; rfl)
  · exact h.v_reserved (op := .rank vd va vb ty) (fun _ => rfl) hv
  · exact elemBytes_int32 (fun l => (SMap.get (fun _ => 0) (s.cell k).lanes l).toNat) (List.range 64) ▸
      h.v_one_gives hg (op := .getf false vd) (pw := (vWrite 1 vd.toNat .int32 _).2) (fun _ => rfl) rfl rfl rfl

end Sys2Proof.Machine

/-! SUPPORT. Words of the X slot at a cell that runs alone, with writes to local SRAM in flight (R110, R123). -/

namespace Sys2Proof.Machine

open Sys2Proof

/-- What is due lands; what stays in flight may go to local SRAM. -/
theorem State.settle_due {s : State} (h : s.Canon) (k : CellRef)
    (hw : ∀ x ∈ (s.cell k).pend, x.due ≤ (s.isl k.isl).sched → x.w.isOwn = true) :
    CellOnly s (s.settle k) k ((s.cell k).landed (s.isl k.isl).sched) := by
  unfold State.settle Cell.landed
  by_cases he : (s.cell k).pend = []
  · simp only [he, List.isEmpty_nil, if_true, List.filter_nil, List.append_nil, List.foldl_nil]
    have : { s.cell k with pend := [] } = s.cell k := by rw [← he]
    rw [this]
    exact CellOnly.refl h k
  · have : (s.cell k).pend.isEmpty = false := by simpa using he
    simp only [this, Bool.false_eq_true, if_false]
    refine CellOnly.foldPW _ ((CellOnly.refl h k).updCell _) (fun x hx => ?_)
    simp only [List.mem_append, List.mem_filter, decide_eq_true_eq] at hx
    rcases hx with ⟨⟨hm, hd⟩, -⟩ | ⟨⟨hm, hd⟩, -⟩ <;> exact hw x hm hd

/-- Driving one word at a cell that runs alone, when what lands with it goes to the cell's own state. -/
theorem Quiet.drive_due {s u q : State} {k : CellRef} {w : HWord} {o : WordOut} {c : Cell} (h : Quiet s k)
    (hpres : s.present k w = s.updCell k (fun c => c.holding w))
    (hx : s.liveX k w = true → blockX (s.updCell k (fun c => c.holding w)) k w.x = [])
    (ho : evalWord (s.updCell k (fun c => c.holding w)) k w = o) (hf : o.fault = none) (hpl : o.pulls = []) (hst : o.stop = false)
    (hq : o.acts.foldl (fun s a => s.act k [] a) (s.updCell k (fun c => c.holding w)) = q)
    (ha : Acted (s.updCell k (fun c => c.holding w)) u q k c)
    (hrun : c.run = .running) (hwires : c.wires = []) (hsteer : c.steer = []) (hpend : c.pend = [])
    (hown : ∀ x ∈ o.writes, x.1 ≤ 1 → x.2.isOwn = true) :
    Cycled s u (drive k w s) k ((c.issued o (s.isl k.isl).sched).landed ((s.isl k.isl).sched + 1)) := by
  obtain ⟨b, s2, he, hi⟩ := h.drive_issue hpres hx ho hf hpl hst hq ha hrun hwires hsteer
  obtain ⟨n1, n2, n3, n4⟩ := Cell.foldNow o.now c
  rw [he]
  have hset := State.settle_due (State.count_canon hi.ends.canon k.isl s.gtime) k (fun x hx hd => by
    rw [State.cell_count, hi.cell] at hx
    rw [hi.sched] at hd
    have hm : x ∈ (o.now.foldl Cell.applyPW c).pend ++ o.writes.map (fun w => (⟨(s.isl k.isl).sched + w.1, w.2⟩ : Pend)) := hx
    rw [n2, hpend, List.nil_append] at hm
    obtain ⟨y, hy, rfl⟩ := List.mem_map.mp hm
    exact hown y hy (by dsimp only at hd; omega))
  rw [hi.sched, State.cell_count, hi.cell] at hset
  have hS := hset.settled (k := k) (s2 := s2)
  refine hi.cycled rfl ⟨hS.canon, hS.self, hS.other, hS.isls, hS.regs, hS.fuses, ?_⟩ (by rw [Cell.landed_run]; exact n3.trans hrun)
  have e := congrArg (fun x : State => x.outside u) hS.rest
  simp only [State.outside_outside] at e
  rw [e]
  exact hi.rest

/-- A cell before its word's writes: its actions have changed neither what the word issues from nor what the cycle needs. -/
structure Cell.Like (c d : Cell) : Prop where
  pc : d.pc = c.pc
  loops : d.loops = c.loops
  stack : d.stack = c.stack
  rs : d.rs = c.rs
  held : d.held = c.held
  bub : d.bubble = c.bubble
  pend : d.pend = c.pend
  run : d.run = c.run
  wires : d.wires = c.wires
  steer : d.steer = c.steer

theorem Cell.Like.refl (c : Cell) : c.Like c := ⟨rfl, rfl, rfl, rfl, rfl, rfl, rfl, rfl, rfl, rfl⟩

theorem Cell.Like.nextOf {c d : Cell} (h : c.Like d) : d.nextOf .seq = c.nextOf .seq := by
  unfold Cell.nextOf
  rw [h.pc, h.loops, h.stack]

/-- An operation of the X slot whose actions leave the cell d, with writes in flight and a post-increment. -/
theorem Quiet.x_acts {s u q : State} {k : CellRef} {g : BitVec 4} {d : Cell} (h : Quiet s k) (hg : (s.cell k).guard g = true)
    {op : XOp} {acts : List Act} {fly : List (Nat × PW)} {idx : BitVec 5} {inc sram : Bool}
    (hs : op.silent = true) (hd : op.decodeFault (isMemCell k) = none)
    (hb : blockX (s.updCell k (fun c => c.holding { xg := g, x := op })) k op = [])
    (he : evalX (s.updCell k (fun c => c.holding { xg := g, x := op })) k op =
      { writes := [] ++ fly ++ postInc (s.cell k) idx inc sram, acts := acts })
    (hfly : ∀ x ∈ fly, 2 ≤ x.1 ∧ x.2.isZero = false)
    (hq : acts.foldl (fun s a => s.act k [] a) (s.updCell k (fun c => c.holding { xg := g, x := op })) = q)
    (ha : Acted (s.updCell k (fun c => c.holding { xg := g, x := op })) u q k (d.holding { xg := g, x := op })) (hl : (s.cell k).Like d) :
    IssuesWith s u k (.next (drive k { xg := g, x := op } s))
      ((d.stepped.bumped idx inc (if sram then 32 else 1)).inFlights (s.isl k.isl).sched fly) := by
  obtain ⟨⟨hc, h1, h2, h3, ht, h4, h5, h6, h7, h8, h13, h12⟩, h9, h10, h11⟩ := id h
  refine ⟨_, rfl, ?_⟩
  have hc := h.drive_due (present_x g op hs) (fun _ => hb) (evalWord_x (h.cell_holding _) h7 h11 h10 hg hd he rfl) rfl rfl rfl hq ha
    (hl.run.trans h4) (hl.wires.trans h8) (hl.steer.trans (h13.2 k.c h2).1) (hl.pend.trans h7) (fun x hx hx1 => by
      have hm := mem_ofSlot_writes _ _ x hx
      simp only [List.nil_append, List.mem_append] at hm
      rcases hm with hm | hm
      · have := (hfly x hm).1
        omega
      · exact (mem_postInc hm).2.2.2)
  have hn : ((s.cell k).holding { xg := g, x := op }).nextOf .seq = (d.holding { xg := g, x := op }).nextOf .seq := hl.nextOf.symm
  rw [hn] at hc
  have ha := Cell.after_mixed (hl.held.trans h5) (hl.bub.trans h6) (hl.pend.trans h7) { xg := g, x := op }
    { writes := [] ++ fly ++ postInc (s.cell k) idx inc sram, acts := acts } rfl (s.isl k.isl).sched rfl (by simp) (fun x hx => (hfly x hx).1)
    (by rw [List.filter_eq_nil_iff.mpr (fun x hx => by simp [(hfly x hx).2]), List.nil_append,
      List.filter_eq_self.mpr (fun x hx => by simp [(hfly x hx).2])])
    (fun x hx => ⟨(mem_postInc hx).1, (mem_postInc hx).2.1, (mem_postInc hx).2.2.1⟩)
  rw [List.map_nil, List.foldl_nil, postInc_bumped (s.cell k) d.stepped hl.rs] at ha
  rw [← ha]
  exact hc

/-- One without actions. -/
theorem Quiet.x_writes {s : State} {k : CellRef} {g : BitVec 4} (h : Quiet s k) (hg : (s.cell k).guard g = true)
    {op : XOp} {fly : List (Nat × PW)} {idx : BitVec 5} {inc sram : Bool}
    (hs : op.silent = true) (hd : op.decodeFault (isMemCell k) = none)
    (hb : blockX (s.updCell k (fun c => c.holding { xg := g, x := op })) k op = [])
    (he : evalX (s.updCell k (fun c => c.holding { xg := g, x := op })) k op = { writes := [] ++ fly ++ postInc (s.cell k) idx inc sram })
    (hfly : ∀ x ∈ fly, 2 ≤ x.1 ∧ x.2.isZero = false) :
    Issues s k (.next (drive k { xg := g, x := op } s))
      (((s.cell k).stepped.bumped idx inc (if sram then 32 else 1)).inFlights (s.isl k.isl).sched fly) :=
  h.x_acts hg hs hd hb he hfly rfl (h.acted_holding _) (Cell.Like.refl _)

/-- A word whose actions change its cell alone. -/
theorem Quiet.acted_upd {s : State} {k : CellRef} (h : Quiet s k) (w : HWord) (f : Cell → Cell) :
    Acted (s.updCell k (fun c => c.holding w)) s ((s.updCell k (fun c => c.holding w)).updCell k f) k (f ((s.cell k).holding w)) := by
  have hc := h.1.1.updCell k (fun c => c.holding w)
  refine ⟨hc.updCell _ _, by rw [State.cell_updCell hc, h.cell_holding], fun j hj => State.cell_updCell_other hc _ hj, fun _ _ => rfl, rfl, rfl, rfl, ?_⟩
  rw [State.outside_updCell, State.outside_updCell]
  rfl

end Sys2Proof.Machine

/-! SUPPORT. Places of the X slot (R123): what a move reads, writes and raises. -/

namespace Sys2Proof.Machine

open Sys2Proof

/-! ### Place codes -/

/-- The code of local SRAM. -/
theorem placeOf_sram : placeOf 0x38 = .sram := rfl

theorem placeOf_unit {p : BitVec 8} (h : unitPlace p) :
    placeOf p = if p.toNat < 0x10 then .tile p.toNat else .vreg (p.toNat - 0x10) := by
  unfold unitPlace at h
  simp only [placeOf, h, if_true]

theorem placeOf_unit_cases {p : BitVec 8} (h : unitPlace p) :
    (p.toNat < 0x10 ∧ placeOf p = .tile p.toNat) ∨ (¬ p.toNat < 0x10 ∧ placeOf p = .vreg (p.toNat - 0x10)) := by
  rw [placeOf_unit h]
  by_cases hp : p.toNat < 0x10
  · exact .inl ⟨hp, if_pos hp⟩
  · exact .inr ⟨hp, if_neg hp⟩

theorem placeOk_unit {p : BitVec 8} (h : unitPlace p) : placeOk p = true := by
  unfold unitPlace at h
  simp only [placeOk, Bool.or_eq_true, decide_eq_true_eq]
  exact .inl (by omega)

theorem placeUnit_iff {p : BitVec 8} : placeUnit p = true ↔ unitPlace p := decide_eq_true_iff

theorem placeOf_unit_ne_sram {p : BitVec 8} (h : unitPlace p) : (placeOf p == .sram) = false := by
  rcases placeOf_unit_cases h with ⟨-, e⟩ | ⟨-, e⟩ <;> rw [e] <;> rfl

section
variable {s : State} {k : CellRef} {p : BitVec 8} (h : unitPlace p) (idx : Word)
include h

theorem placeFault_unit (out : Bool) : s.placeFault k (placeOf p) idx out = none := by
  rcases placeOf_unit_cases h with ⟨-, e⟩ | ⟨-, e⟩ <;> rw [e] <;> rfl

theorem placeActs_unit : s.placeActs k (placeOf p) idx = [] := by
  rcases placeOf_unit_cases h with ⟨-, e⟩ | ⟨-, e⟩ <;> rw [e] <;> rfl

theorem srcWaits_unit (c : Cell) : c.srcWaits p = false := by
  rcases placeOf_unit_cases h with ⟨-, e⟩ | ⟨-, e⟩ <;> simp only [Cell.srcWaits, e]

theorem dstWaits_unit (c : Cell) : c.dstWaits p = false := by
  rcases placeOf_unit_cases h with ⟨-, e⟩ | ⟨-, e⟩ <;> simp only [Cell.dstWaits, e]

theorem readPlace_unit (sram : Bool) :
    s.readPlace k (placeOf p) idx sram = (s.cell k).unitBeat p (if sram then idx.toNat / 32 else idx.toNat) := by
  unfold Cell.unitBeat
  rcases placeOf_unit_cases h with ⟨hp, e⟩ | ⟨hp, e⟩ <;> rw [e] <;> simp only [hp, if_true, if_false] <;> rfl

theorem writePlace_unit (sram : Bool) (lat : Nat) (bs : List Byte) (seat : Option (BitVec 6)) :
    writePlace (placeOf p) idx sram lat bs seat = ([(lat, unitWrite p (if sram then idx.toNat / 32 else idx.toNat) bs)], []) := by
  unfold unitWrite
  rcases placeOf_unit_cases h with ⟨hp, e⟩ | ⟨hp, e⟩ <;> rw [e] <;> simp only [hp, if_true, if_false] <;> rfl

end

theorem unitWrite_isZero (p : BitVec 8) (b : Nat) (bs : List Byte) : (unitWrite p b bs).isZero = false := by
  unfold unitWrite
  split <;> rfl

theorem placeFault_sram {s : State} {k : CellRef} {idx : Word} {out : Bool} (h : idx.toNat % 32 = 0 ∧ idx.toNat + 32 ≤ sramSize k) :
    s.placeFault k .sram idx out = none := by
  simp [State.placeFault, h.1, h.2]

/-- A place that is no engine of the streams. -/
def stillPlace (p : BitVec 8) : Prop := unitPlace p ∨ p = 0x38

theorem waits_still {p : BitVec 8} (h : stillPlace p) (c : Cell) : c.srcWaits p = false ∧ c.dstWaits p = false := by
  rcases h with h | rfl
  · exact ⟨srcWaits_unit h c, dstWaits_unit h c⟩
  · exact ⟨rfl, rfl⟩

section
variable {s : State} {k : CellRef} (h : Quiet s k) (w : HWord)
include h

theorem Quiet.placeFault_holding (p : Place) (idx : Word) (out : Bool) :
    (s.updCell k (fun c => c.holding w)).placeFault k p idx out = s.placeFault k p idx out := by
  unfold State.placeFault
  rw [h.cell_holding]
  rfl

theorem Quiet.readPlace_holding (p : Place) (idx : Word) (sram : Bool) :
    (s.updCell k (fun c => c.holding w)).readPlace k p idx sram = s.readPlace k p idx sram := by
  unfold State.readPlace
  rw [h.cell_holding]
  rfl

theorem Quiet.readActs_holding (a n : Nat) : (s.updCell k (fun c => c.holding w)).readActs k a n = s.readActs k a n := by
  unfold State.readActs
  rw [h.plainRead_holding]

theorem Quiet.placeActs_holding (p : Place) (idx : Word) : (s.updCell k (fun c => c.holding w)).placeActs k p idx = s.placeActs k p idx := by
  unfold State.placeActs
  simp only [h.cell_holding, h.readActs_holding]
  rfl

theorem Quiet.place2_holding (dst src : BitVec 8) (idx : BitVec 5) (inc : Bool) :
    place2 (s.updCell k (fun c => c.holding w)) k dst src idx inc = place2 s k dst src idx inc := by
  unfold place2
  simp only [h.cell_holding, h.placeFault_holding, h.readPlace_holding, h.placeActs_holding]
  rfl

end

end Sys2Proof.Machine

/-! SUPPORT. XMOV between tiles, vector registers and local SRAM (R123). -/

namespace Sys2Proof.Machine

open Sys2Proof

/-- The pop of a stream engine that a place as a source brings with it. -/
def Place.pop : Place → List Act
  | .stream e => [.popBeat e]
  | _ => []

theorem pop_still {p : BitVec 8} (h : stillPlace p) : (placeOf p).pop = [] := by
  rcases h with h | rfl
  · rcases placeOf_unit_cases h with ⟨-, e⟩ | ⟨-, e⟩ <;> rw [e] <;> rfl
  · rfl

/-- A move whose places raise no fault. -/
theorem place2_moves {s : State} {k : CellRef} {dst src : BitVec 8} {idx : BitVec 5} {inc : Bool} {ws : List (Nat × PW)} {acts : List Act}
    {lat : Nat} {sram : Bool}
    (hsram : (placeOf dst == .sram || placeOf src == .sram) = sram) (hlat : (if placeOf src = .sram then 3 else 2) = lat)
    (hfs : s.placeFault k (placeOf src) ((s.cell k).rs idx) false = none) (hfd : s.placeFault k (placeOf dst) ((s.cell k).rs idx) true = none)
    (hw : writePlace (placeOf dst) ((s.cell k).rs idx) sram lat (s.readPlace k (placeOf src) ((s.cell k).rs idx) sram) none = (ws, acts)) :
    place2 s k dst src idx inc =
      { writes := [] ++ ws ++ postInc (s.cell k) idx inc sram,
        acts := s.placeActs k (placeOf src) ((s.cell k).rs idx) ++ (placeOf src).pop ++ acts } := by
  unfold place2
  simp only [hsram, hlat, hfs, hfd, hw, List.nil_append]
  rfl

section
variable {s : State} {k : CellRef} {g : BitVec 4} {dst src : BitVec 8} {idx : BitVec 5} {inc : Bool} (h : Quiet s k)
  (hg : (s.cell k).guard g = true)
include h hg

/-- A move between places that are no stream engines. -/
theorem Quiet.xmov {pw : PW} {lat : Nat} {sram : Bool} (hd : stillPlace dst) (hs : stillPlace src)
    (hdec : (XOp.mov dst src idx inc).decodeFault (isMemCell k) = none)
    (hsram : (placeOf dst == .sram || placeOf src == .sram) = sram) (hlat : (if placeOf src = .sram then 3 else 2) = lat)
    (hfs : s.placeFault k (placeOf src) ((s.cell k).rs idx) false = none) (hfd : s.placeFault k (placeOf dst) ((s.cell k).rs idx) true = none)
    (ha : s.placeActs k (placeOf src) ((s.cell k).rs idx) = [])
    (hw : writePlace (placeOf dst) ((s.cell k).rs idx) sram lat (s.readPlace k (placeOf src) ((s.cell k).rs idx) sram) none = ([(lat, pw)], []))
    (hz : pw.isZero = false) :
    Issues s k (.next (drive k { xg := g, x := .mov dst src idx inc } s))
      (((s.cell k).stepped.bumped idx inc (if sram then 32 else 1)).inFlight ((s.isl k.isl).sched + lat) pw) := by
  have hl : 2 ≤ lat := by
    rw [← hlat]
    split <;> omega
  refine h.x_writes (fly := [(lat, pw)]) hg rfl hdec ?_ ((h.place2_holding _ dst src idx inc).trans ((place2_moves hsram hlat hfs hfd hw).trans (by rw [ha, pop_still hs]; rfl))) ?_
  · simp [blockX, (waits_still hs _).1, (waits_still hd _).2]
  · intro x hx
    rw [List.mem_singleton] at hx
    exact hx ▸ ⟨hl, hz⟩

/-- A move whose place raises a fault. -/
theorem Quiet.xmov_fault {e : Code} (hd : stillPlace dst) (hs : stillPlace src) (hdec : (XOp.mov dst src idx inc).decodeFault (isMemCell k) = none)
    (hf : s.placeFault k (placeOf src) ((s.cell k).rs idx) false = some e ∨
      (s.placeFault k (placeOf src) ((s.cell k).rs idx) false = none ∧ s.placeFault k (placeOf dst) ((s.cell k).rs idx) true = some e)) :
    Faults s k (.next (drive k { xg := g, x := .mov dst src idx inc } s)) e 3 (s.cell k).pc := by
  refine h.x_fault hg rfl hdec ?_ ?_
  · simp [blockX, (waits_still hs _).1, (waits_still hd _).2]
  · refine (congrArg SlotOut.fault (h.place2_holding _ dst src idx inc)).trans ?_
    unfold place2
    rcases hf with hf | ⟨hn, hf⟩
    · simp only [hf]
      rfl
    · simp only [hn, hf]
      rfl

end

/-- The codes that a move in a compute cell, or between SRAM places, decodes without a fault. -/
theorem mov_decodes {k : CellRef} {dst src : BitVec 8} {idx : BitVec 5} {inc : Bool} (hd : placeOk dst = true) (hs : placeOk src = true)
    (hu : isMemCell k = false ∨ ¬ unitPlace dst ∧ ¬ unitPlace src) : (XOp.mov dst src idx inc).decodeFault (isMemCell k) = none := by
  have hn : (isMemCell k && (placeUnit dst || placeUnit src)) = false := by
    rcases hu with hm | ⟨h1, h2⟩
    · rw [hm]; rfl
    · rw [Bool.eq_false_iff.mpr (fun e => h1 (placeUnit_iff.mp e)), Bool.eq_false_iff.mpr (fun e => h2 (placeUnit_iff.mp e)), Bool.or_self, Bool.and_false]
  simp [XOp.decodeFault, placeFault, hd, hs, hn]

theorem placeFault_align {s : State} {k : CellRef} {idx : Word} {out : Bool} (h : idx.toNat % 32 ≠ 0) :
    s.placeFault k .sram idx out = some K.eAlign := if_pos h

theorem placeFault_range {s : State} {k : CellRef} {idx : Word} {out : Bool} (h : idx.toNat % 32 = 0) (hr : sramSize k < idx.toNat + 32) :
    s.placeFault k .sram idx out = some K.eSramRange := (if_neg (not_not.mpr h)).trans (if_pos hr)

theorem readActs_plain {s : State} {k : CellRef} {a n : Nat} (h : s.plainRead k a n = true) : s.readActs k a n = [] := if_pos h

/-- Settles O18. -/
theorem xMovMovesBeats : Obligations.XMovMovesBeats := by
  unfold Obligations.XMovMovesBeats
  intro s k g dst src idx inc h hg
  have sramOk : placeOk 0x38 = true := rfl
  have sramNot : ¬ unitPlace 0x38 := by unfold unitPlace; decide
  have ne {p : BitVec 8} (hp : unitPlace p) : placeOf p ≠ .sram := beq_eq_false_iff_ne.mp (placeOf_unit_ne_sram hp)
  refine ⟨fun hm hd hs => ?_, fun hm hd hs hf hr => ?_, fun hm hd hs hf => ?_, fun hd hs hf hr => ?_, fun hk => ?_, fun hk => ?_, fun hm hd hs hu => ?_⟩
  · exact h.xmov (sram := false) (lat := 2) hg (.inl hd) (.inl hs) (mov_decodes (placeOk_unit hd) (placeOk_unit hs) (.inl hm))
      (by rw [placeOf_unit_ne_sram hd, placeOf_unit_ne_sram hs]; rfl) (if_neg (ne hs)) (placeFault_unit hs _ _) (placeFault_unit hd _ _)
      (placeActs_unit hs _) (by rw [writePlace_unit hd, readPlace_unit hs]; rfl) (unitWrite_isZero _ _ _)
  · subst hs
    exact h.xmov (sram := true) (lat := 3) hg (.inl hd) (.inr rfl) (mov_decodes (placeOk_unit hd) sramOk (.inl hm))
      (by rw [placeOf_unit_ne_sram hd]; rfl) rfl (placeFault_sram hf) (placeFault_unit hd _ _) (readActs_plain hr)
      (by rw [writePlace_unit hd]; rfl) (unitWrite_isZero _ _ _)
  · subst hd
    exact h.xmov (sram := true) (lat := 2) hg (.inr rfl) (.inl hs) (mov_decodes sramOk (placeOk_unit hs) (.inl hm)) rfl (if_neg (ne hs)) (placeFault_unit hs _ _)
      (placeFault_sram hf) (placeActs_unit hs _) (by rw [readPlace_unit hs]; rfl) rfl
  · subst hd hs
    exact h.xmov (sram := true) (lat := 3) hg (.inr rfl) (.inr rfl) (mov_decodes sramOk sramOk (.inr ⟨sramNot, sramNot⟩)) rfl rfl (placeFault_sram hf)
      (placeFault_sram hf) (readActs_plain hr) rfl rfl
  · have bad (e : Code) (hf : s.placeFault k .sram ((s.cell k).rs idx) false = some e) (hf' : s.placeFault k .sram ((s.cell k).rs idx) true = some e) :
        Faults s k (exec (.xmov k g dst src idx inc) s) e 3 (s.cell k).pc := by
      rcases hk with ⟨hm, hd, rfl⟩ | ⟨hm, rfl, hs⟩ | ⟨rfl, rfl⟩
      · exact h.xmov_fault hg (.inl hd) (.inr rfl) (mov_decodes (placeOk_unit hd) sramOk (.inl hm)) (.inl hf)
      · exact h.xmov_fault hg (.inr rfl) (.inl hs) (mov_decodes sramOk (placeOk_unit hs) (.inl hm)) (.inr ⟨placeFault_unit hs _ _, hf'⟩)
      · exact h.xmov_fault hg (.inr rfl) (.inr rfl) (mov_decodes sramOk sramOk (.inr ⟨sramNot, sramNot⟩)) (.inl hf)
    exact ⟨fun ha => bad _ (placeFault_align ha) (placeFault_align ha), fun ha hr => bad _ (placeFault_range ha hr) (placeFault_range ha hr)⟩
  · exact h.x_decode (op := .mov dst src idx inc) (by simp [XOp.decodeFault, placeFault, Bool.and_eq_true] at hk ⊢; simp_all)
  · refine h.x_decode (op := .mov dst src idx inc) ?_
    have hu' : (placeUnit dst || placeUnit src) = true := by
      rw [Bool.or_eq_true]
      exact hu.imp placeUnit_iff.mpr placeUnit_iff.mpr
    simp [XOp.decodeFault, placeFault, hd, hs, hm, hu']

end Sys2Proof.Machine

/-! SUPPORT. Moves from and to the stream engines of a compute cell (R196, R198, R200). -/

namespace Sys2Proof.Machine

open Sys2Proof

/-- The place code of engine e. -/
def engPlace (e : BitVec 2) : BitVec 8 := 0x30 + e.setWidth 8

theorem placeOf_engPlace (e : BitVec 2) : placeOf (engPlace e) = .stream e.toNat := by
  revert e
  decide

theorem placeOk_engPlace (e : BitVec 2) : placeOk (engPlace e) = true := by
  revert e
  decide

theorem placeFault_stream (s : State) (k : CellRef) (e : Nat) (idx : Word) (out : Bool) :
    s.placeFault k (.stream e) idx out = if ((s.cell k).eng e).placeOk out then none else some K.eStreamState := rfl

/-- An engine that a place may use is running, or halted with its walk running before. -/
theorem Engine.not_placeOk {x : Engine} {out : Bool} (h : x.state = .idle ∨ x.state = .draining ∨ x.state = .stopping ∨ x.dir = !out) :
    x.placeOk out = false := by
  unfold Engine.placeOk
  rcases h with h | h | h | h <;> simp [h]

theorem Engine.placeOk_running {x : Engine} {out : Bool} (h : x.state = .running) (hd : x.dir = out) : x.placeOk out = true := by
  unfold Engine.placeOk
  simp [h, hd]

/-- Popping the head beat of a running engine. -/
theorem Engine.pop_running {x : Engine} {b : Beat} {rest : List Beat} (h : x.state = .running) (hr : x.ring = b :: rest) (total : Nat) :
    x.pop total = { x with ring := rest, moved := x.moved + 1, beats := x.beats + 1,
                           state := if total ≤ x.moved + 1 then .idle else .running } := by
  unfold Engine.pop
  dsimp only
  rw [hr]
  split
  · rfl
  · rw [← h]
    rfl

theorem Engine.push_running {x : Engine} (h : x.state = .running) (total : Nat) (bs : List Byte) :
    x.push total bs = { x with ring := x.ring ++ [⟨x.moved, bs, 0, false⟩], moved := x.moved + 1, beats := x.beats + 1,
                               state := if total ≤ x.moved + 1 then .draining else .running } := by
  unfold Engine.push
  dsimp only
  split
  · rw [h]; rfl
  · rw [← h]

theorem Cell.setEng_like (c : Cell) (e : Nat) (x : Engine) : c.Like (c.setEng e x) := ⟨rfl, rfl, rfl, rfl, rfl, rfl, rfl, rfl, rfl, rfl⟩

theorem Cell.stepped_setEng (c : Cell) (e : Nat) (x : Engine) : (c.setEng e x).stepped = c.stepped.setEng e x := rfl

theorem Cell.inFlights_nil (c : Cell) (sched : Nat) : c.inFlights sched [] = c := by
  unfold Cell.inFlights
  rw [List.map_nil, List.append_nil]

theorem Cell.inFlights_one (c : Cell) (sched n : Nat) (w : PW) : c.inFlights sched [(n, w)] = c.inFlight (sched + n) w := rfl

@[simp] theorem Cell.eng_holding (c : Cell) (w : HWord) (e : Nat) : (c.holding w).eng e = c.eng e := rfl

@[simp] theorem Cell.descOf_holding (c : Cell) (w : HWord) (n : Nat) : (c.holding w).descOf n = c.descOf n := rfl

@[simp] theorem Cell.engTotal_holding (c : Cell) (w : HWord) (e : Nat) : (c.holding w).engTotal e = c.engTotal e := rfl

@[simp] theorem Cell.setEng_holding (c : Cell) (w : HWord) (e : Nat) (x : Engine) : (c.holding w).setEng e x = (c.setEng e x).holding w := rfl

theorem Quiet.blockX_mov {s : State} {k : CellRef} {dst src : BitVec 8} (h : Quiet s k) (hs : (s.cell k).srcWaits src = false)
    (hd : (s.cell k).dstWaits dst = false) (w : HWord) (idx : BitVec 5) (inc : Bool) :
    blockX (s.updCell k (fun c => c.holding w)) k (.mov dst src idx inc) = [] := by
  unfold blockX
  dsimp only
  rw [h.cell_holding]
  exact if_neg (by rw [show ((s.cell k).holding w).srcWaits src = false from hs, show ((s.cell k).holding w).dstWaits dst = false from hd]; nofun)

section
variable {s : State} {k : CellRef} {g : BitVec 4} {u : BitVec 8} {e : BitVec 2} {idx : BitVec 5} {inc : Bool} (h : Quiet s k)
  (hg : (s.cell k).guard g = true) (hm : isMemCell k = false) (hu : unitPlace u)
include h hg hm hu

/-- The head beat of a running inbound engine goes to a tile or a vector register. -/
theorem Quiet.pull {b : Beat} {rest : List Beat} (hx : ((s.cell k).eng e.toNat).state = .running) (hdir : ((s.cell k).eng e.toNat).dir = false)
    (hring : ((s.cell k).eng e.toNat).ring = b :: rest) (hneed : b.need = 0)
    (hp : s.plainRead k (ringAt ((s.cell k).descOf ((s.cell k).eng e.toNat).slot) b.idx) 32 = true) :
    Issues s k (.next (drive k { xg := g, x := .mov u (engPlace e) idx inc } s))
      ((((s.cell k).stepped.setEng e.toNat (((s.cell k).eng e.toNat).pop ((s.cell k).engTotal e.toNat))).bumped idx inc 1).inFlight
        ((s.isl k.isl).sched + 2)
        (unitWrite u ((s.cell k).rs idx).toNat (s.sramN k (ringAt ((s.cell k).descOf ((s.cell k).eng e.toNat).slot) b.idx) 32))) := by
  have he := placeOf_engPlace e
  have hok := Engine.placeOk_running hx hdir
  have hact : s.placeActs k (placeOf (engPlace e)) ((s.cell k).rs idx) = [] := by
    rw [he]
    simp only [State.placeActs, hring]
    exact readActs_plain hp
  have hread : s.readPlace k (placeOf (engPlace e)) ((s.cell k).rs idx) false =
      s.sramN k (ringAt ((s.cell k).descOf ((s.cell k).eng e.toNat).slot) b.idx) 32 := by
    rw [he]
    simp only [State.readPlace, hring]
  have hx := h.x_acts (sram := false) (u := s) (d := (s.cell k).setEng e.toNat (((s.cell k).eng e.toNat).pop ((s.cell k).engTotal e.toNat))) hg rfl
    (mov_decodes (placeOk_unit hu) (placeOk_engPlace e) (.inl hm)) ?_
    ((h.place2_holding _ u (engPlace e) idx inc).trans (place2_moves (sram := false) (lat := 2) (by rw [placeOf_unit_ne_sram hu, he]; rfl)
      (by rw [he]; rfl) (by rw [he, placeFault_stream, hok]; rfl) (placeFault_unit hu _ _) (by rw [writePlace_unit hu, hread]))) ?_ rfl ?_
    (Cell.setEng_like _ _ _)
  · rw [Cell.stepped_setEng, Cell.inFlights_one, if_neg Bool.false_ne_true, if_neg Bool.false_ne_true] at hx
    exact hx
  · refine h.blockX_mov ?_ (dstWaits_unit hu _) _ idx inc
    simp only [Cell.srcWaits, he]
    simp [Engine.headLanded, hring, hneed]
  · intro x hx
    rw [List.mem_singleton] at hx
    exact hx ▸ ⟨le_refl 2, unitWrite_isZero _ _ _⟩
  · rw [hact, he]
    simp only [Place.pop, List.nil_append, List.append_nil, List.foldl_cons, List.foldl_nil, State.act]
    have ha := h.acted_upd { xg := g, x := .mov u (engPlace e) idx inc } (fun c => c.setEng e.toNat ((c.eng e.toNat).pop (c.engTotal e.toNat)))
    simp only [Cell.eng_holding, Cell.engTotal_holding, Cell.setEng_holding] at ha
    exact ha

/-- A beat of a tile or a vector register goes into the ring of a running outbound engine. -/
theorem Quiet.push (hx : ((s.cell k).eng e.toNat).state = .running) (hdir : ((s.cell k).eng e.toNat).dir = true)
    (hspan : ((s.cell k).eng e.toNat).span < ringBeats ((s.cell k).descOf ((s.cell k).eng e.toNat).slot)) :
    IssuesWith s (s.wrN (sramBase k + ringAt ((s.cell k).descOf ((s.cell k).eng e.toNat).slot) ((s.cell k).eng e.toNat).moved)
        ((s.cell k).unitBeat u ((s.cell k).rs idx).toNat)) k (.next (drive k { xg := g, x := .mov (engPlace e) u idx inc } s))
      (((s.cell k).stepped.setEng e.toNat (((s.cell k).eng e.toNat).push ((s.cell k).engTotal e.toNat)
        ((s.cell k).unitBeat u ((s.cell k).rs idx).toNat))).bumped idx inc 1) := by
  have he := placeOf_engPlace e
  have hok := Engine.placeOk_running hx hdir
  have hnone (w : HWord) (off n : Nat) : (s.updCell k (fun c => c.holding w)).sieveTakes k off n = false := by
    simp [State.sieveTakes, State.inWin, State.inArea, hm]
  have hx := h.x_acts (sram := false) (fly := []) (u := s.wrN (sramBase k + ringAt ((s.cell k).descOf ((s.cell k).eng e.toNat).slot)
        ((s.cell k).eng e.toNat).moved) ((s.cell k).unitBeat u ((s.cell k).rs idx).toNat))
    (d := (s.cell k).setEng e.toNat (((s.cell k).eng e.toNat).push ((s.cell k).engTotal e.toNat)
        ((s.cell k).unitBeat u ((s.cell k).rs idx).toNat))) hg rfl
    (mov_decodes (placeOk_engPlace e) (placeOk_unit hu) (.inl hm)) ?_
    ((h.place2_holding _ (engPlace e) u idx inc).trans (place2_moves (sram := false) (lat := 2) (by rw [placeOf_unit_ne_sram hu, he]; rfl)
      (if_neg (beq_eq_false_iff_ne.mp (placeOf_unit_ne_sram hu))) (placeFault_unit hu _ _) (by rw [he, placeFault_stream, hok]; rfl)
      (by rw [he, readPlace_unit hu]; rfl))) nofun rfl ?_ (Cell.setEng_like _ _ _)
  · rw [Cell.stepped_setEng, Cell.inFlights_nil, if_neg Bool.false_ne_true] at hx
    exact hx
  · refine h.blockX_mov (srcWaits_unit hu _) ?_ _ idx inc
    simp only [Cell.dstWaits, he]
    exact (Bool.and_eq_false_iff).mpr (.inr (decide_eq_false (not_le.mpr hspan)))
  · rw [placeActs_unit hu, pop_still (.inl hu)]
    simp only [List.nil_append, List.foldl_cons, List.foldl_nil, State.act, h.cell_holding]
    rw [State.sramLand_plain (hnone _ _ _)]
    have hc := (h.1.1.updCell k (fun c => c.holding { xg := g, x := .mov (engPlace e) u idx inc })).wrN
      (sramBase k + ringAt ((s.cell k).descOf ((s.cell k).eng e.toNat).slot) ((s.cell k).eng e.toNat).moved)
      ((s.cell k).unitBeat u ((s.cell k).rs idx).toNat)
    refine ⟨hc.updCell _ _, ?_, fun j hj => ?_, fun _ _ => rfl, rfl, rfl, rfl, ?_⟩
    · refine (State.cell_updCell hc _ _).trans ?_
      rw [State.cell_wrN, h.cell_holding]
      simp only [Cell.eng_holding, Cell.engTotal_holding, Cell.setEng_holding]
      rfl
    · exact State.cell_updCell_other hc _ hj
    · rw [State.outside_updCell]
      rfl

/-- A move between a unit and an engine that the place may not use. -/
theorem Quiet.pull_fault (hx : ((s.cell k).eng e.toNat).placeOk false = false) :
    Faults s k (.next (drive k { xg := g, x := .mov u (engPlace e) idx inc } s)) K.eStreamState 3 (s.cell k).pc := by
  have he := placeOf_engPlace e
  refine h.x_fault hg rfl (mov_decodes (placeOk_unit hu) (placeOk_engPlace e) (.inl hm)) ?_ ?_
  · refine h.blockX_mov ?_ (dstWaits_unit hu _) _ idx inc
    simp only [Cell.srcWaits, he]
    exact (Bool.and_eq_false_iff).mpr (.inl hx)
  · refine (congrArg SlotOut.fault (h.place2_holding _ u (engPlace e) idx inc)).trans ?_
    unfold place2
    simp only [he, placeFault_stream, hx]
    rfl

theorem Quiet.push_fault (hx : ((s.cell k).eng e.toNat).placeOk true = false) :
    Faults s k (.next (drive k { xg := g, x := .mov (engPlace e) u idx inc } s)) K.eStreamState 3 (s.cell k).pc := by
  have he := placeOf_engPlace e
  refine h.x_fault hg rfl (mov_decodes (placeOk_engPlace e) (placeOk_unit hu) (.inl hm)) ?_ ?_
  · refine h.blockX_mov (srcWaits_unit hu _) ?_ _ idx inc
    simp only [Cell.dstWaits, he]
    exact (Bool.and_eq_false_iff).mpr (.inl hx)
  · refine (congrArg SlotOut.fault (h.place2_holding _ (engPlace e) u idx inc)).trans ?_
    unfold place2
    simp only [placeFault_unit hu, he, placeFault_stream, hx]
    rfl

end

/-- Settles O19. -/
theorem streamPlaces : Obligations.StreamPlaces := by
  unfold Obligations.StreamPlaces
  intro s k g u e idx inc h hg hm hu
  refine ⟨fun b rest hx hdir hring hneed hp => ?_, fun hx hdir hspan => ?_, fun hx => ?_, fun hx => ?_⟩
  · have hr := h.pull (idx := idx) (inc := inc) hg hm hu hx hdir hring hneed hp
    rw [Engine.pop_running hx hring] at hr
    exact hr
  · have hr := h.push (idx := idx) (inc := inc) hg hm hu hx hdir hspan
    rw [Engine.push_running hx] at hr
    exact hr
  · exact h.pull_fault hg hm hu (Engine.not_placeOk hx)
  · exact h.push_fault hg hm hu (Engine.not_placeOk hx)

end Sys2Proof.Machine

/-! SUPPORT. Words of the X slot on descriptors, stream engines and the sieve (R125, R195, R197, R261, R265, R266). -/

namespace Sys2Proof.Machine

open Sys2Proof

theorem Cell.slotUsed_iff (c : Cell) (n : Nat) : c.slotUsed n = true ↔ ∃ f, f < 4 ∧ (c.eng f).state ≠ .idle ∧ (c.eng f).slot = n := by
  unfold Cell.slotUsed
  rw [List.any_eq_true]
  simp only [List.mem_range, Bool.and_eq_true, bne_iff_ne, ne_eq, beq_iff_eq]

theorem postInc_off (c : Cell) (sram : Bool) : postInc c 0 false sram = [] := rfl

theorem Cell.bumped_off (c : Cell) (n : Word) : c.bumped 0 false n = c := if_neg (fun e => Bool.false_ne_true e.1)

theorem listFault_off {c : Cell} (he : svEn c.sieve.cfg = false) (l : Word) : listFault c l = some K.eStreamState :=
  if_pos (by rw [he]; exact Bool.false_ne_true)

theorem listFault_over {c : Cell} {l : Word} (he : svEn c.sieve.cfg = true) (hl : svLists c.sieve.cfg ≤ l.toNat) :
    listFault c l = some K.eFieldReserved := (if_neg (not_not.mpr he)).trans (if_pos hl)

theorem listFault_none {c : Cell} {l : Word} (he : svEn c.sieve.cfg = true) (hl : l.toNat < svLists c.sieve.cfg) : listFault c l = none :=
  (if_neg (not_not.mpr he)).trans (if_neg (not_le.mpr hl))

theorem Quiet.evalX_svflush {s : State} {k : CellRef} {g : BitVec 4} (h : Quiet s k) (rl ra rf : BitVec 5) (f : Bool) :
    evalX (s.updCell k (fun c => c.holding { xg := g, x := .svflush rl ra rf f })) k (.svflush rl ra rf f) =
      evalFlush (s.cell k) k ((s.cell k).rs rl) ((s.cell k).rs ra) ((s.cell k).rs rf) f := by
  simp only [evalX, h.cell_holding]
  rfl

section
variable {s : State} {k : CellRef} {g : BitVec 4} (h : Quiet s k) (hg : (s.cell k).guard g = true)
include h hg

/-- An operation with one action, which makes its cell d. -/
theorem Quiet.x_sets {op : XOp} {a : Act} {f : Cell → Cell} {d : Cell} (hs : op.silent = true) (hd : op.decodeFault (isMemCell k) = none)
    (hb : blockX (s.updCell k (fun c => c.holding { xg := g, x := op })) k op = [])
    (he : evalX (s.updCell k (fun c => c.holding { xg := g, x := op })) k op = { acts := [a] })
    (ha : ∀ t : State, t.act k [] a = t.updCell k f) (hf : f ((s.cell k).holding { xg := g, x := op }) = d.holding { xg := g, x := op })
    (hl : (s.cell k).Like d) : Issues s k (.next (drive k { xg := g, x := op } s)) d.stepped := by
  have hx := h.x_acts (u := s) (d := d) (fly := []) (idx := 0) (inc := false) (sram := false) hg hs hd hb he nofun (ha _)
    (hf ▸ h.acted_upd { xg := g, x := op } f) hl
  rw [Cell.inFlights_nil, Cell.bumped_off] at hx
  exact hx

/-- An operation without an effect of its own. -/
theorem Quiet.x_still {op : XOp} (hs : op.silent = true) (hd : op.decodeFault (isMemCell k) = none)
    (hb : blockX (s.updCell k (fun c => c.holding { xg := g, x := op })) k op = [])
    (he : evalX (s.updCell k (fun c => c.holding { xg := g, x := op })) k op = {}) :
    Issues s k (.next (drive k { xg := g, x := op } s)) (s.cell k).stepped := by
  have hx := h.x_writes (fly := []) (idx := 0) (inc := false) (sram := false) hg hs hd hb he nofun
  rw [Cell.inFlights_nil, Cell.bumped_off] at hx
  exact hx

/-- An operation with one write that lands with its word. -/
theorem Quiet.x_one {op : XOp} {pw : PW} (hs : op.silent = true) (hd : op.decodeFault (isMemCell k) = none)
    (hb : blockX (s.updCell k (fun c => c.holding { xg := g, x := op })) k op = [])
    (he : evalX (s.updCell k (fun c => c.holding { xg := g, x := op })) k op = SlotOut.one 1 pw) (ho : pw.isOwn = true) :
    Issues s k (.next (drive k { xg := g, x := op } s)) ((s.cell k).stepped.applyPW pw) := by
  obtain ⟨⟨hc, h1, h2, h3, ht, h4, h5, h6, h7, h8, h13, h12⟩, h9, h10, h11⟩ := id h
  have hx := h.x_slot hg hs hd hb he rfl (by simpa [SlotOut.one] using ho) rfl (h.acted_holding _) h4 h8 (h13.2 k.c h2).1 h7
  have ha := Cell.after_one h5 h6 h7 { xg := g, x := op } pw (s.isl k.isl).sched
  rw [← ha]
  exact hx

/-- An operation that waits for class b. -/
theorem Quiet.x_stalls {op : XOp} {b : Nat} (hb : b = 3 ∨ b = 4 ∨ b = 5) (hs : op.silent = true) (hd : op.decodeFault (isMemCell k) = none)
    (hx : blockX (s.updCell k (fun c => c.holding { xg := g, x := op })) k op = [b]) :
    Stalled (s.updCell k (fun c => c.holding { xg := g, x := op })) (drive k { xg := g, x := op } s) k.isl b := by
  rw [h.drive_eq, present_x g op hs]
  refine (h.presents _).stalled hb ?_ ?_ hx
  · rw [h.cell_holding]
    exact h.2.2.1
  · unfold State.liveX
    rw [h.cell_holding, hd]
    exact (Bool.and_true _).trans hg

/-! ### Descriptors and engines -/

theorem Quiet.sdesc_bad {slot : BitVec 3} {ra : BitVec 5} {e : Code} (he : (evalSdesc s k slot.toNat ((s.cell k).rs ra)).fault = some e) :
    Faults s k (.next (drive k { xg := g, x := .sdesc slot ra } s)) e 3 (s.cell k).pc := by
  refine h.x_fault hg rfl rfl rfl (Eq.trans ?_ he)
  unfold evalX evalSdesc
  dsimp only
  rw [h.cell_holding, h.readActs_holding]
  rfl

theorem Quiet.sdesc {slot : BitVec 3} {ra : BitVec 5} (hu : (s.cell k).slotUsed slot.toNat = false) (ha : ((s.cell k).rs ra).toNat % 128 = 0)
    (hr : ((s.cell k).rs ra).toNat + 128 ≤ sramSize k) (hp : s.plainRead k ((s.cell k).rs ra).toNat 128 = true) :
    Issues s k (.next (drive k { xg := g, x := .sdesc slot ra } s))
      ((s.cell k).stepped.applyPW (.desc slot.toNat (s.sramN k ((s.cell k).rs ra).toNat 128))) := by
  refine h.x_one hg rfl rfl rfl ?_ rfl
  unfold evalX evalSdesc
  dsimp only
  rw [h.cell_holding, h.readActs_holding]
  rw [show ((s.cell k).holding { xg := g, x := .sdesc slot ra }).slotUsed slot.toNat = false from hu,
    show ((s.cell k).holding { xg := g, x := .sdesc slot ra }).rs ra = (s.cell k).rs ra from rfl, if_neg Bool.false_ne_true,
    if_neg (not_not.mpr ha), if_neg (not_lt.mpr hr), readActs_plain hp]
  rfl

theorem Quiet.sstart_bad {e : BitVec 2} {slot : BitVec 3} {code : Code} (he : (evalSstart s k e.toNat slot.toNat).fault = some code) :
    Faults s k (.next (drive k { xg := g, x := .sstart e slot } s)) code 3 (s.cell k).pc := by
  refine h.x_fault hg rfl rfl rfl (Eq.trans ?_ he)
  unfold evalX evalSstart
  dsimp only
  rw [h.cell_holding]
  rfl

theorem Quiet.sstart {e : BitVec 2} {slot : BitVec 3} (he : evalSstart s k e.toNat slot.toNat = { acts := [.start e.toNat slot.toNat] }) :
    Issues s k (.next (drive k { xg := g, x := .sstart e slot } s)) ((s.cell k).stepped.setEng e.toNat
      { state := .running, slot := slot.toNat, dir := ((s.cell k).descOf slot.toNat).dir,
        fkind := ((s.cell k).eng e.toNat).fkind, sfva := ((s.cell k).eng e.toNat).sfva }) := by
  refine h.x_sets hg (op := .sstart e slot) (a := .start e.toNat slot.toNat) (f := fun c => c.setEng e.toNat
      { state := .running, slot := slot.toNat, dir := (c.descOf slot.toNat).dir,
        fkind := (c.eng e.toNat).fkind, sfva := (c.eng e.toNat).sfva })
    (d := (s.cell k).setEng e.toNat
      { state := .running, slot := slot.toNat, dir := ((s.cell k).descOf slot.toNat).dir,
        fkind := ((s.cell k).eng e.toNat).fkind, sfva := ((s.cell k).eng e.toNat).sfva })
    rfl rfl rfl (Eq.trans ?_ he) (fun _ => rfl) rfl (Cell.setEng_like _ _ _)
  unfold evalX evalSstart
  dsimp only
  rw [h.cell_holding]
  rfl

theorem Quiet.sstop_bad {e : BitVec 2} (hi : ((s.cell k).eng e.toNat).state = .idle) :
    Faults s k (.next (drive k { xg := g, x := .sstop e } s)) K.eStreamState 3 (s.cell k).pc := by
  refine h.x_fault hg rfl rfl rfl ?_
  unfold evalX
  dsimp only
  rw [h.cell_holding]
  exact congrArg SlotOut.fault (if_pos hi)

theorem Quiet.sstop {e : BitVec 2} (hi : ((s.cell k).eng e.toNat).state ≠ .idle) :
    Issues s k (.next (drive k { xg := g, x := .sstop e } s)) ((s.cell k).stepped.setEng e.toNat ((s.cell k).eng e.toNat).stopNow) := by
  refine h.x_sets hg (a := .stop e.toNat) (f := fun c => c.setEng e.toNat (c.eng e.toNat).stopNow) (d := (s.cell k).setEng e.toNat ((s.cell k).eng e.toNat).stopNow)
     rfl rfl rfl ?_ (fun _ => rfl) rfl (Cell.setEng_like _ _ _)
  unfold evalX
  dsimp only
  rw [h.cell_holding]
  exact if_neg hi

theorem Quiet.swait {e : BitVec 2} (hi : ((s.cell k).eng e.toNat).state = .idle) :
    Issues s k (.next (drive k { xg := g, x := .swait e } s)) (s.cell k).stepped := by
  refine h.x_still hg rfl rfl ?_ rfl
  unfold blockX
  dsimp only
  rw [h.cell_holding]
  exact if_pos hi

theorem Quiet.swait_stalls {e : BitVec 2} (hi : ((s.cell k).eng e.toNat).state ≠ .idle) :
    Stalled (s.updCell k (fun c => c.holding { xg := g, x := .swait e })) (drive k { xg := g, x := .swait e } s) k.isl 4 := by
  refine h.x_stalls hg (.inr (.inl rfl)) rfl rfl ?_
  unfold blockX
  dsimp only
  rw [h.cell_holding]
  exact if_neg hi

/-! ### The sieve -/

variable (hm : isMemCell k = true)
include hm

/-- A sieve operation that its checks refuse. -/
theorem Quiet.sieve_bad {op : XOp} {e : Code} (hs : op.silent = true) (hd : op.decodeFault true = none)
    (hb : blockX (s.updCell k (fun c => c.holding { xg := g, x := op })) k op = [])
    (he : (evalX (s.updCell k (fun c => c.holding { xg := g, x := op })) k op).fault = some e) :
    Faults s k (.next (drive k { xg := g, x := op } s)) e 3 (s.cell k).pc :=
  h.x_fault hg hs (hm ▸ hd) hb he

/-- A sieve operation with an action on the sieve. -/
theorem Quiet.sieve_sets {op : XOp} {a : Act} {f : Cell → Cell} {v : Sieve} (hs : op.silent = true) (hd : op.decodeFault true = none)
    (hb : blockX (s.updCell k (fun c => c.holding { xg := g, x := op })) k op = [])
    (he : evalX (s.updCell k (fun c => c.holding { xg := g, x := op })) k op = { acts := [a] })
    (ha : ∀ t : State, t.act k [] a = t.updCell k f)
    (hf : f ((s.cell k).holding { xg := g, x := op }) = ({ s.cell k with sieve := v } : Cell).holding { xg := g, x := op }) :
    Issues s k (.next (drive k { xg := g, x := op } s)) { (s.cell k).stepped with sieve := v } :=
  h.x_sets hg (d := { s.cell k with sieve := v }) hs (hm ▸ hd) hb he ha hf ⟨rfl, rfl, rfl, rfl, rfl, rfl, rfl, rfl, rfl, rfl⟩

theorem Quiet.svcfg_bad {ra : BitVec 5} {e : Code} (he : svcfgFault k ((s.cell k).rs ra) = some e) :
    Faults s k (.next (drive k { xg := g, x := .svcfg ra } s)) e 3 (s.cell k).pc := by
  refine h.sieve_bad hg hm rfl rfl rfl ?_
  simp only [evalX, h.cell_holding, Cell.rs_holding, he]
  rfl

theorem Quiet.svcfg {ra : BitVec 5} (he : svcfgFault k ((s.cell k).rs ra) = none) :
    Issues s k (.next (drive k { xg := g, x := .svcfg ra } s))
      { (s.cell k).stepped with sieve := { (s.cell k).sieve with cfg := ((s.cell k).rs ra).setWidth 37, lists := [] } } := by
  refine h.sieve_sets hg hm (a := .svcfg ((s.cell k).rs ra)) (f := fun c => { c with sieve := { c.sieve with cfg := ((s.cell k).rs ra).setWidth 37, lists := [] } })
     rfl rfl rfl ?_ (fun _ => rfl) rfl
  simp only [evalX, h.cell_holding, Cell.rs_holding, he]

theorem Quiet.svclr_bad {rl : BitVec 5} {e : Code} (he : listFault (s.cell k) ((s.cell k).rs rl) = some e) :
    Faults s k (.next (drive k { xg := g, x := .svclr false rl } s)) e 3 (s.cell k).pc := by
  refine h.sieve_bad hg hm rfl rfl rfl ?_
  simp only [evalX, h.cell_holding, Cell.rs_holding, Bool.false_eq_true, if_false]
  rw [show listFault ((s.cell k).holding { xg := g, x := .svclr false rl }) ((s.cell k).rs rl) = some e from he]
  rfl

theorem Quiet.svclr {rl : BitVec 5} (he : listFault (s.cell k) ((s.cell k).rs rl) = none) :
    Issues s k (.next (drive k { xg := g, x := .svclr false rl } s))
      { (s.cell k).stepped with
        sieve := { (s.cell k).sieve with lists := SMap.set (fun _ => []) (s.cell k).sieve.lists ((s.cell k).rs rl).toNat [] } } := by
  refine h.sieve_sets hg hm (a := .svclr (some ((s.cell k).rs rl).toNat))
    (f := fun c => { c with sieve := { c.sieve with lists := SMap.set (fun _ => []) c.sieve.lists ((s.cell k).rs rl).toNat [] } })
     rfl rfl rfl ?_ (fun _ => rfl) rfl
  simp only [evalX, h.cell_holding, Cell.rs_holding, Bool.false_eq_true, if_false]
  rw [show listFault ((s.cell k).holding { xg := g, x := .svclr false rl }) ((s.cell k).rs rl) = none from he]

theorem Quiet.svclrAll_bad (he : svEn (s.cell k).sieve.cfg = false) :
    Faults s k (.next (drive k { xg := g, x := .svclr true 0 } s)) K.eStreamState 3 (s.cell k).pc := by
  refine h.sieve_bad hg hm rfl rfl rfl ?_
  simp only [evalX, h.cell_holding, if_true]
  exact congrArg SlotOut.fault (if_neg (by rw [show ((s.cell k).holding _).sieve = (s.cell k).sieve from rfl, he]; exact Bool.false_ne_true))

theorem Quiet.svclrAll (he : svEn (s.cell k).sieve.cfg = true) :
    Issues s k (.next (drive k { xg := g, x := .svclr true 0 } s))
      { (s.cell k).stepped with sieve := { (s.cell k).sieve with lists := [] } } := by
  refine h.sieve_sets hg hm (a := .svclr none) (f := fun c => { c with sieve := { c.sieve with lists := [] } }) rfl rfl rfl ?_ (fun _ => rfl) rfl
  simp only [evalX, h.cell_holding, if_true]
  exact if_pos he

theorem Quiet.svflush_bad {rl ra rf : BitVec 5} {f : Bool} {e : Code} (he : listFault (s.cell k) ((s.cell k).rs rl) = some e) :
    Faults s k (.next (drive k { xg := g, x := .svflush rl ra rf f } s)) e 3 (s.cell k).pc := by
  refine h.sieve_bad hg hm rfl rfl rfl ?_
  rw [h.evalX_svflush]
  unfold evalFlush
  simp only [he]
  rfl

theorem Quiet.svflush {rl ra rf : BitVec 5} {f : Bool}
    (he : evalFlush (s.cell k) k ((s.cell k).rs rl) ((s.cell k).rs ra) ((s.cell k).rs rf) f =
      { acts := [.svflush ((s.cell k).rs rl).toNat ((s.cell k).rs ra).toNat ((s.cell k).rs rf).toNat f] })
    {img : List Byte} (hi : img = flushImage (svFmt (s.cell k).sieve.cfg) f ((s.cell k).rs rl).toNat ((s.cell k).sieve.list ((s.cell k).rs rl).toNat)) :
    Issues s k (.next (drive k { xg := g, x := .svflush rl ra rf f } s))
      { (s.cell k).stepped with
        sieve := { (s.cell k).sieve with
          flushes := (s.cell k).sieve.flushes ++ [⟨((s.cell k).rs ra).toNat, img, ((s.cell k).rs rf).toNat,
            ((s.cell k).sieve.list ((s.cell k).rs rl).toNat).length, ((s.cell k).rs ra).toNat, img.length⟩] } } := by
  subst hi
  exact h.sieve_sets hg hm (a := .svflush ((s.cell k).rs rl).toNat ((s.cell k).rs ra).toNat ((s.cell k).rs rf).toNat f)
    (f := fun c => { c with sieve := { c.sieve with flushes := c.sieve.flushes ++ [⟨((s.cell k).rs ra).toNat,
      flushImage (svFmt c.sieve.cfg) f ((s.cell k).rs rl).toNat (c.sieve.list ((s.cell k).rs rl).toNat), ((s.cell k).rs rf).toNat,
      (c.sieve.list ((s.cell k).rs rl).toNat).length, ((s.cell k).rs ra).toNat,
      (flushImage (svFmt c.sieve.cfg) f ((s.cell k).rs rl).toNat (c.sieve.list ((s.cell k).rs rl).toNat)).length⟩] } })
         rfl rfl rfl ((h.evalX_svflush rl ra rf f).trans he) (fun _ => rfl) rfl

end

end Sys2Proof.Machine

/-! SUPPORT. CHSEND (R328), and what the stream, sieve and channel words do. -/

namespace Sys2Proof.Machine

open Sys2Proof

/-- The bytes of a range that holds no upset. -/
theorem State.length_sramN {s : State} {k : CellRef} {a n : Nat} (h : s.plainRead k a n = true) : (s.sramN k a n).length = n := by
  have hp : s.plain (sramBase k + a) n = true := (Bool.and_eq_true_iff.mp h).1
  unfold State.sramN State.decN
  rw [if_pos hp]
  simp [State.rdN, readBytes]

/-- Whether the head of a FIFO goes to a steering unit depends on the FIFO, the settings and the island's epoch and takes. -/
theorem State.headSteers_congr {s t : State} {k : CellRef} (he : (t.isl k.isl).epoch = (s.isl k.isl).epoch)
    (hp : (t.isl k.isl).pops = (s.isl k.isl).pops) (hf : t.fifos = s.fifos) (hr : t.regs = s.regs) (p : Nat) :
    t.headSteers k p = s.headSteers k p := by
  have hfifo : t.fifo k p = s.fifo k p := by
    unfold State.fifo
    rw [hf]
  have hreg (a : Nat) : t.reg a = s.reg a := by
    unfold State.reg
    rw [hr]
  have hfed : t.steerFed k p = s.steerFed k p := by
    unfold State.steerFed State.steerCfg
    simp only [hreg]
  unfold State.headSteers State.fifoHead
  rw [he, hp, hfifo, hfed]

/-- A message that cell k hands to the channel port. -/
def State.handed (s : State) (k : CellRef) (die ch : Nat) (bs : List Byte) : State :=
  { s.updIsl k.isl (fun i => { i with chbuf := i.chbuf + bs.length }) with
    chmsgs := s.chmsgs ++ [⟨die, ch, .cell (gid k), (s.isl k.isl).table, s.ecmd (s.isl k.isl).table, bs, false, 0, false⟩] }

theorem State.isl_handed {s : State} (h : s.Canon) (k : CellRef) (die ch : Nat) (bs : List Byte) :
    (s.handed k die ch bs).isl k.isl = { s.isl k.isl with chbuf := (s.isl k.isl).chbuf + bs.length } := State.isl_setIsl h _ _

/-- The close of the cycle of an issued word whose writes go to its cell. -/
theorem IssuedAs.lands {s u b s2 : State} {k : CellRef} {c : Cell} {o : WordOut} (hi : IssuedAs s u b s2 k (c.issued o (s.isl k.isl).sched))
    (hrun : c.run = .running) (hpend : c.pend = []) (hown : ∀ x ∈ o.writes, x.2.isOwn = true) :
    Cycled s u (State.closeCycle b s2 k.isl s.gtime) k ((c.issued o (s.isl k.isl).sched).landed ((s.isl k.isl).sched + 1)) := by
  obtain ⟨n1, n2, n3, n4⟩ := Cell.foldNow o.now c
  have hset := State.settle_own (State.count_canon hi.ends.canon k.isl s.gtime) k (fun x hx => by
    rw [State.cell_count, hi.cell] at hx
    have hm : x ∈ (o.now.foldl Cell.applyPW c).pend ++ o.writes.map (fun w => (⟨(s.isl k.isl).sched + w.1, w.2⟩ : Pend)) := hx
    rw [n2, hpend, List.nil_append] at hm
    obtain ⟨y, hy, rfl⟩ := List.mem_map.mp hm
    exact hown y hy)
  rw [hi.sched, State.cell_count, hi.cell] at hset
  have hS := hset.settled (k := k) (s2 := s2)
  refine hi.cycled rfl ⟨hS.canon, hS.self, hS.other, hS.isls, hS.regs, hS.fuses, ?_⟩ (by rw [Cell.landed_run]; exact n3.trans hrun)
  have e := congrArg (fun x : State => x.outside u) hS.rest
  simp only [State.outside_outside] at e
  rw [e]
  exact hi.rest

theorem Quiet.stands_handed {s : State} {k : CellRef} (h : Quiet s k) (die ch : Nat) (bs : List Byte) : Stands (s.handed k die ch bs) k := by
  have hs := h.stands
  have hc : (s.handed k die ch bs).Canon := hs.canon.updIsl k.isl (fun i => { i with chbuf := i.chbuf + bs.length })
  have e := State.isl_handed hs.canon k die ch bs
  have ht : ((s.handed k die ch bs).isl k.isl).table = (s.isl k.isl).table := by rw [e]
  refine ⟨hc, hs.isl, hs.idx, ?_, by rw [ht]; exact hs.tbl, hs.run, hs.held, hs.bub, hs.wires, ⟨by rw [e]; exact hs.calm.1, fun c hl => ?_⟩,
    hs.others, hs.pc, hs.pulls⟩
  · rw [State.islFaulted_congr (s := s) hs.isl hs.tbl ht rfl (fun _ _ _ => rfl)]
    exact hs.live
  · obtain ⟨h1, h2, h3⟩ := hs.calm.2 c hl
    refine ⟨h1, h2, fun p hp => ?_⟩
    have he : ((s.handed k die ch bs).isl k.isl).epoch = (s.isl k.isl).epoch := by rw [e]
    have hq : ((s.handed k die ch bs).isl k.isl).pops = (s.isl k.isl).pops := by rw [e]
    exact (State.headSteers_congr (s := s) (t := s.handed k die ch bs) (k := ⟨k.isl, c⟩) he hq rfl rfl p).trans (h3 p hp)

section
variable {s : State} {k : CellRef} {g : BitVec 4} (h : Quiet s k) (hg : (s.cell k).guard g = true) {ra rs rl : BitVec 5} {die ch : Nat}
  (hck : s.chsendCheck k ((s.cell k).rs ra) ((s.cell k).rs rl) = .ok (die, ch))
include h hck

/-- A CHSEND that its checks pass sends no synchronisation request. -/
theorem Quiet.present_chsend : s.present k { xg := g, x := .chsend ra rs rl } = s.updCell k (fun c => c.holding { xg := g, x := .chsend ra rs rl }) := by
  have hx : (s.updCell k (fun c => c.holding { xg := g, x := .chsend ra rs rl })).presentX k (.chsend ra rs rl) =
      s.updCell k (fun c => c.holding { xg := g, x := .chsend ra rs rl }) := by
    unfold State.presentX
    dsimp only
    rw [h.cell_holding, show (s.updCell k (fun c => c.holding { xg := g, x := .chsend ra rs rl })).chsendCheck k
      (((s.cell k).holding { xg := g, x := .chsend ra rs rl }).rs ra) (((s.cell k).holding { xg := g, x := .chsend ra rs rl }).rs rl) =
      .ok (die, ch) from hck]
    split
    · rename_i e
      cases e
    · rfl
  unfold State.present
  exact (ite_congr rfl (fun _ => hx) (fun _ => rfl)).trans (ite_self _)

include hg

theorem Quiet.chsend (hst : s.chState die ch = 1) (hcr : s.chCredit die ch ((s.cell k).rs rl).toNat = true)
    (hbuf : (s.isl k.isl).chbuf + ((s.cell k).rs rl).toNat ≤ 16384) (ha : ((s.cell k).rs rs).toNat % 32 = 0)
    (hr : ((s.cell k).rs rs).toNat + ((s.cell k).rs rl).toNat ≤ sramSize k)
    (hp : s.plainRead k ((s.cell k).rs rs).toNat ((s.cell k).rs rl).toNat = true) {r : State}
    (hrd : r = s.handed k die ch (s.sramN k ((s.cell k).rs rs).toNat ((s.cell k).rs rl).toNat)) :
    Cycled r r (drive k { xg := g, x := .chsend ra rs rl } s) k (s.cell k).stepped := by
  have hlen := State.length_sramN hp
  generalize hw : ({ xg := g, x := .chsend ra rs rl } : HWord) = w
  have hpres : s.present k w = s.updCell k (fun c => c.holding w) := hw ▸ h.present_chsend hck
  have hb : blockX (s.updCell k (fun c => c.holding w)) k w.x = [] := by
    have hwait : s.chsendWaits k ((s.cell k).rs ra) ((s.cell k).rs rl) = false := by
      unfold State.chsendWaits
      simp only [hck, hst, hcr]
      rw [decide_eq_false (not_lt.mpr hbuf : ¬ chBuffer < _)]
      rfl
    subst hw
    unfold blockX
    dsimp only
    rw [h.cell_holding]
    exact if_neg (fun e => Bool.false_ne_true (hwait.symm.trans e))
  have he : evalX (s.updCell k (fun c => c.holding w)) k (.chsend ra rs rl) =
      { acts := [.chsend ((s.cell k).rs ra) (s.sramN k ((s.cell k).rs rs).toNat ((s.cell k).rs rl).toNat)] } := by
    unfold evalX evalChsend
    dsimp only
    rw [h.cell_holding, h.readActs_holding, Cell.rs_holding, Cell.rs_holding, Cell.rs_holding, if_neg (not_not.mpr ha),
      if_neg (not_lt.mpr hr), readActs_plain hp]
    rfl
  have hact : (s.updCell k (fun c => c.holding w)).act k [] (.chsend ((s.cell k).rs ra) (s.sramN k ((s.cell k).rs rs).toNat ((s.cell k).rs rl).toNat)) =
      r.updCell k (fun c => c.holding w) := by
    have hck' : (s.updCell k (fun c => c.holding w)).chsendCheck k ((s.cell k).rs ra)
        (BitVec.ofNat 64 (s.sramN k ((s.cell k).rs rs).toNat ((s.cell k).rs rl).toNat).length) = .ok (die, ch) := by
      rw [hlen, BitVec.ofNat_toNat, BitVec.setWidth_eq]
      exact hck
    unfold State.act
    simp only [hck']
    exact (if_neg (not_not.mpr hst)).trans (hrd ▸ rfl)
  have hS : Stands r k := hrd ▸ h.stands_handed die ch _
  obtain ⟨⟨hc, h1, h2, h3, ht, h4, h5, h6, h7, h8, h13, h12⟩, h9, h10, h11⟩ := id h
  have ho : evalWord (s.updCell k (fun c => c.holding w)) k w = WordOut.ofSlot
      { acts := [.chsend ((s.cell k).rs ra) (s.sramN k ((s.cell k).rs rs).toNat ((s.cell k).rs rl).toNat)] } (((s.cell k).holding w).nextOf .seq) := by
    have hx := evalWord_x (h.cell_holding w) h7 h11 h10 hg rfl he rfl
    rwa [hw] at hx
  generalize hod : evalWord (s.updCell k (fun c => c.holding w)) k w = o at ho
  have hissue : (s.updCell k (fun c => c.holding w)).issueWord k o =
      (r.updCell k (fun c => c.holding w)).updCell k (fun _ => ((s.cell k).holding w).issued o (s.isl k.isl).sched) := by
    have hself : (r.updCell k (fun c => c.holding w)).cell k = (s.cell k).holding w := by
      rw [State.cell_updCell hS.canon, hrd]
      rfl
    unfold State.issueWord
    rw [ho]
    simp only [WordOut.ofSlot, Cell.nextOf, List.foldl_cons, List.foldl_nil, hact, Bool.false_eq_true, if_false]
    refine (State.updCell_const _ _ _).trans ?_
    rw [hself]
    rfl
  have hi := hS.issuedAs (w := w) rfl hissue (by rw [ho]; exact h4) (by rw [ho]; exact h8) (by rw [ho]; exact (h13.2 k.c h2).1)
  have hP : (s.updCell k (fun c => c.holding w)).pullsAt k ((s.updCell k (fun c => c.holding w)).cell k).pc = [] := by
    rw [h.cell_holding]
    exact h10
  have hcyc := (h.presents w).cycle hP (fun _ => hb) (by rw [hod, ho]; rfl)
  rw [h.drive_eq, hpres, hcyc, hod]
  have hB : IssuedAs r r (s.updCell k (fun c => c.holding w)) ((s.updCell k (fun c => c.holding w)).issueWord k o) k
      (((s.cell k).holding w).issued o (s.isl k.isl).sched) := by
    have hisl : (r.isl k.isl).droop = (s.isl k.isl).droop := by
      rw [hrd, State.isl_handed hc]
    have hstr : (s.updCell k (fun c => c.holding w)).stretched k.isl = (r.updCell k (fun c => c.holding w)).stretched k.isl := by
      unfold State.stretched
      rw [show ((r.updCell k (fun c => c.holding w)).isl k.isl).droop = (r.isl k.isl).droop from rfl, hisl, hrd]
      rfl
    have hrun (c : Nat) : ((s.updCell k (fun c => c.holding w)).cell ⟨k.isl, c⟩).run = ((r.updCell k (fun c => c.holding w)).cell ⟨k.isl, c⟩).run := by
      rw [hrd]
      rfl
    exact { hi with ends := { hi.ends with runs := fun c hl hne => (hi.ends.runs c hl hne).trans (hrun c).symm, str := hstr.trans hi.ends.str } }
  have hsched : (r.isl k.isl).sched = (s.isl k.isl).sched := by
    rw [hrd, State.isl_handed hc]
  rw [← hsched] at hB
  have hl := hB.lands h4 h7 (by rw [ho]; exact nofun)
  have hg : (s.updCell k (fun c => c.holding w)).gtime = r.gtime := by
    rw [hrd]
    rfl
  rw [hg]
  refine Eq.subst (motive := fun c => Cycled r r _ k c) ?_ hl
  have ha := Cell.after_goes h5 h7 w .seq (r.isl k.isl).sched
  rw [ho]
  exact ha.trans (Cell.goes_seq h6)

end

theorem svflush_queued {c : Cell} {k : CellRef} {rl ra rf : Word} {f : Bool} {img : List Byte}
    (hi : img = flushImage (svFmt c.sieve.cfg) f rl.toNat (c.sieve.list rl.toNat)) (he : svEn c.sieve.cfg = true)
    (hl : rl.toNat < svLists c.sieve.cfg) (ha : ra.toNat % 32 = 0) (hw : rf.toNat % 8 = 0) (hr : ra.toNat + img.length ≤ sramSize k)
    (hr' : rf.toNat + 8 ≤ sramSize k) (ho : overlap ra.toNat img.length (svABase c.sieve.cfg) (svASize c.sieve.cfg) = false)
    (ho' : overlap ra.toNat img.length (svWBase c.sieve.cfg) (svWSize c.sieve.cfg) = false) (hn : c.sieve.flushes.length < 64) :
    evalFlush c k rl ra rf f = { acts := [.svflush rl.toNat ra.toNat rf.toNat f] } := by
  unfold evalFlush
  simp only [listFault_none he hl, ← hi]
  rw [if_neg (by omega), if_neg (by omega), if_neg (by rw [ho, ho']; simp), if_neg (by omega)]

/-- Settles O22. -/
theorem streamSieveAndChannelWords : Obligations.StreamSieveAndChannelWords := by
  unfold Obligations.StreamSieveAndChannelWords
  refine ⟨fun s k g e slot ra h hg => ?_, fun s k g ra rl rf f h hg => ?_⟩
  · intro c a x used sdesc sstart check
    have hu : c.slotUsed slot.toNat = true ↔ used := Cell.slotUsed_iff c slot.toNat
    have free (h : ¬ used) : c.slotUsed slot.toNat = false := Bool.eq_false_iff.mpr (fun e => h (hu.mp e))
    have idle (hx : x.state = .idle) (hok : c.descOk.getLsbD slot.toNat = true) (hn : ¬ used) :
        ¬ ((c.eng e.toNat).state ≠ .idle ∨ ¬ c.descOk.getLsbD slot.toNat ∨ c.slotUsed slot.toNat) := by
      rw [free hn]
      simpa using ⟨hx, hok⟩
    refine ⟨fun hn => h.sdesc_bad hg ?_, fun hn ha => h.sdesc_bad hg ?_, fun hn ha hr => h.sdesc_bad hg ?_,
      fun hn ha hr hp => h.sdesc hg (free hn) ha hr hp, fun hn => h.sstart_bad hg ?_, fun hx hok hn => ⟨fun code hc => h.sstart_bad hg ?_, fun hc => ?_⟩,
      h.sstop_bad hg, h.sstop hg, h.swait hg, fun hx => ⟨_, rfl, h.swait_stalls hg hx⟩⟩
    · exact congrArg SlotOut.fault (if_pos (hu.mpr hn))
    · exact congrArg SlotOut.fault ((if_neg (by rw [show (s.cell k).slotUsed _ = _ from free hn]; exact Bool.false_ne_true)).trans (if_pos ha))
    · exact congrArg SlotOut.fault ((if_neg (by rw [show (s.cell k).slotUsed _ = _ from free hn]; exact Bool.false_ne_true)).trans
        ((if_neg (not_not.mpr ha)).trans (if_pos hr)))
    · refine congrArg SlotOut.fault (if_pos ?_)
      rcases hn with hn | hn | hn
      · exact .inl hn
      · exact .inr (.inl (by rw [show (s.cell k).descOk.getLsbD _ = _ from hn]; exact Bool.false_ne_true))
      · exact .inr (.inr (hu.mpr hn))
    · refine (congrArg SlotOut.fault (if_neg (idle hx hok hn))).trans ?_
      rw [show Desc.check ((s.cell k).desc.readN (128 * slot.toNat) 128) (sramSize k) = some code from hc]
      rfl
    · refine h.sstart hg ((if_neg (idle hx hok hn)).trans ?_)
      rw [show Desc.check ((s.cell k).desc.readN (128 * slot.toNat) 128) (sramSize k) = none from hc]
  · refine ⟨fun hm => ?_, fun hm => ?_, fun die ch hck hst hcr hbuf ha hr hp => ?_⟩
    · have absent {op : XOp} (hd : op.decodeFault false = some K.eUnitAbsent) :
          Faults s k (.next (drive k { xg := g, x := op } s)) K.eUnitAbsent 3 (s.cell k).pc := h.x_decode (hm ▸ hd)
      exact ⟨absent rfl, absent rfl, absent rfl, absent rfl⟩
    · refine ⟨fun e => h.svcfg_bad hg hm, h.svcfg hg hm, fun he => ?_, h.svclrAll hg hm, fun he hl => ?_, fun he hl => ?_,
        fun he hl ha hw hr hr' ho ho' hn => ?_⟩
      · have off (l : Word) := listFault_off he l
        exact ⟨h.svclr_bad hg hm (off _), h.svclrAll_bad hg hm he, h.svflush_bad hg hm (off _)⟩
      · have hover := listFault_over (c := s.cell k) he hl
        exact ⟨h.svclr_bad hg hm hover, h.svflush_bad hg hm hover⟩
      · exact h.svclr hg hm (listFault_none he hl)
      · exact h.svflush hg hm (svflush_queued rfl he hl ha hw hr hr' ho ho' hn) rfl
    · refine ⟨_, rfl, h.chsend hg hck hst hcr hbuf ha hr hp ?_⟩
      unfold State.handed
      rw [State.length_sramN hp]

end Sys2Proof.Machine

/-! SUPPORT. The rake (R299, R301) and doorbells (R332). -/

namespace Sys2Proof.Machine

open Sys2Proof

/-! ### The rake -/

/-- Two equal copies are the majority, wherever the third stands. -/
theorem majority_same (v x : Word) : majority x v v = v ∧ majority v x v = v ∧ majority v v x = v := by
  unfold majority
  refine ⟨?_, ?_, ?_⟩ <;> (ext i; simp only [BitVec.getElem_or, BitVec.getElem_and]; cases x[i] <;> cases v[i] <;> rfl)

theorem majority_self (v : Word) : majority v v v = v := (majority_same v v).1

/-- Settles O33. -/
theorem rakeCopiesAndBlocks : Obligations.RakeCopiesAndBlocks := by
  unfold Obligations.RakeCopiesAndBlocks
  intro s die value cls u
  refine ⟨⟨_, rfl, majority_self _, rfl, rfl, rfl, rfl, majority_same _⟩, ⟨_, rfl, majority_self _, rfl, rfl, rfl, rfl, majority_same _⟩,
    fun a s1 o hc hcfg hrate ha hb => ?_⟩
  have hr : (if cls.toNat = 0 then field 15 0 (s.rake die.toNat).rate else if cls.toNat = 1 then field 31 16 (s.rake die.toNat).rate
      else field 47 32 (s.rake die.toNat).rate) = field (16 * cls.toNat + 15) (16 * cls.toNat) (s.rake die.toNat).rate := by
    obtain e | e | e : cls.toNat = 0 ∨ cls.toNat = 1 ∨ cls.toNat = 2 := by omega
    all_goals rw [e]; rfl
  show execRakeBlock die cls u s = _
  unfold execRakeBlock
  dsimp only
  rw [hr, if_neg (by rw [hcfg]; simpa using ⟨by omega, hrate⟩)]
  simp only [ha, hb]

/-! ### Doorbells -/

/-- One register is all that a write of it changes. -/
theorem State.setReg_rest (s : State) (a : Nat) (v : Word) : { s.setReg a v with regs := s.regs, events := s.events } = s := rfl

/-- Some doorbell events after r: only the events and the register a have changed; s differs from r in registers alone. -/
structure Rung (a d : Nat) (l : List Nat) (s r t : State) : Prop where
  canon : t.Canon
  events : t.events = s.events ++ l.map (fun b => (d, .doorbell b))
  regs : ∀ b, b ≠ a → t.reg b = r.reg b
  rest : { t with regs := s.regs, events := s.events } = s

theorem Rung.start {a d : Nat} {s : State} (h : s.Canon) (b : Nat) (v : Word) : Rung a d [] s (s.setReg b v) (s.setReg b v) :=
  ⟨h.setReg b v, (List.append_nil _).symm, fun _ _ => rfl, State.setReg_rest s b v⟩

theorem Rung.next {a d b : Nat} {l : List Nat} {s r t : State} (h : Rung a d l s r t) (v : Word) :
    Rung a d (l ++ [b]) s r { t.setReg a v with events := (t.setReg a v).events ++ [(d, .doorbell b)] } := by
  refine ⟨h.canon.setReg a v, ?_, fun c hc => Eq.trans ?_ (h.regs c hc), h.rest⟩
  · rw [State.setReg_events, h.events, List.map_append, List.append_assoc]
    rfl
  · exact (State.reg_setReg h.canon a c v).trans (if_neg hc)

theorem State.noteFail_doorbell (s : State) (b : Nat) : s.noteFail (.doorbell b) = s := rfl

theorem State.raise_def (s : State) (die : Nat) (e : DEvent) : s.raise die e =
    { (s.dealerSees die).noteFail e with events := ((s.dealerSees die).noteFail e).events ++ [(die, e)] } := rfl

theorem State.dealerSees_eq (s : State) (die : Nat) :
    s.dealerSees die = s.setReg (R.dlrSeq die) (putField 47 0 (s.fld (R.dlrSeq die) 47 0 + 1) (s.reg (R.dlrSeq die))) := rfl

theorem Rung.foldl {d : Nat} {l m : List Nat} {p : Nat → Bool} {s r t : State} (h : Rung (R.dlrSeq d) d l s r t) :
    Rung (R.dlrSeq d) d (l ++ m.filter p) s r (m.foldl (fun s b => if p b then s.raise d (.doorbell b) else s) t) := by
  induction m generalizing l t with
  | nil => simpa using h
  | cons b m ih =>
    rw [List.foldl_cons, List.filter_cons]
    by_cases hb : p b = true
    · rw [if_pos hb, if_pos hb]
      rw [State.raise_def, State.noteFail_doorbell, State.dealerSees_eq]
      have hn := ih (h.next (b := b) (putField 47 0 (t.fld (R.dlrSeq d) 47 0 + 1) (t.reg (R.dlrSeq d))))
      rw [List.append_assoc] at hn
      exact hn
    · rw [if_neg hb, if_neg hb]
      exact ih h

theorem mbxBell_ne_dlrSeq (d : Nat) : R.mbxBell d ≠ R.dlrSeq d := by
  unfold R.mbxBell R.dlrSeq blkReg
  simp only [Block.off]
  omega

theorem execMbxRing_rung {s : State} {die : BitVec 1} {bits : Word} {a : Nat} (hc : s.Canon) (ha : R.mbxBell die.toNat = a) :
    ∃ t, execMbxRing die bits s = .next t ∧
      Rung (R.dlrSeq die.toNat) die.toNat ((List.range 64).filter (fun b => bit b bits && !bit b (s.reg a))) s (s.setReg a (s.reg a ||| bits)) t := by
  subst ha
  have h := (Rung.start (a := R.dlrSeq die.toNat) (d := die.toNat) hc (R.mbxBell die.toNat) (s.reg (R.mbxBell die.toNat) ||| bits)).foldl
    (m := List.range 64) (p := fun b => bit b bits && !bit b (s.reg (R.mbxBell die.toNat)))
  rw [List.nil_append] at h
  exact ⟨_, rfl, h⟩

theorem exec_mbxRing (die : BitVec 1) (bits : Word) (s : State) : exec (.mbxRing die bits) s = execMbxRing die bits s := rfl

theorem exec_mbxBellClear (die : BitVec 1) (bits : Word) (s : State) : exec (.mbxBellClear die bits) s =
    .next (s.setReg (R.mbxBell die.toNat) (s.reg (R.mbxBell die.toNat) &&& ~~~bits)) := rfl

theorem State.withRegs_setReg (s : State) (a : Nat) (v : Word) : (s.setReg a v).withRegs s = s := rfl

/-- Settles O37. -/
theorem doorbells : Obligations.Doorbells := by
  unfold Obligations.Doorbells
  intro s die bits hc
  have hne := mbxBell_ne_dlrSeq die.toNat
  have h1 := exec_mbxRing die bits s
  have h2 := exec_mbxBellClear die bits s
  obtain ⟨t, ht, h⟩ := execMbxRing_rung (bits := bits) hc (die := die) rfl
  dsimp only
  rw [h1, h2]
  generalize R.mbxBell die.toNat = a at *
  have hr (b : Nat) (v : Word) := State.reg_setReg hc a b v
  refine ⟨⟨t, ht, ?_, h.events, fun b hb hb' => ?_, h.rest⟩,
    s.setReg a (s.reg a &&& ~~~bits), rfl, ?_, fun b hb => ?_, State.withRegs_setReg _ _ _⟩
  · rw [h.regs _ hne, hr, if_pos rfl]
  · rw [h.regs b hb', hr, if_neg hb]
  · rw [hr, if_pos rfl]
  · rw [hr, if_neg hb]

end Sys2Proof.Machine

/-! SUPPORT. What reset leaves (R12, R17, R103, R142, R466). -/

namespace Sys2Proof.Machine

open Sys2Proof

theorem reset_canon : State.reset.Canon := by
  unfold State.Canon
  decide

/-- Away from RST_CAUSE and the two CLK_STAT a register of the reset state is at its reset value. -/
theorem reset_reg {a : Nat} (h : a ≠ R.rstCause) (h0 : a ≠ R.clkStat 0) (h1 : a ≠ R.clkStat 1) : State.reset.reg a = resetValue a := by
  unfold State.reg State.reset
  simp only [SMap.get, h, h0, h1, if_false]
  repeat' split
  all_goals rfl

theorem reset_running_split : ∀ (a : Fin 16) (b : Fin 16), State.reset.running (16 * a.val + b.val) = false := by decide

theorem reset_running {t : Nat} (h : t < 256) : State.reset.running t = false := by
  have e := reset_running_split ⟨t / 16, by omega⟩ ⟨t % 16, by omega⟩
  rwa [Nat.div_add_mod] at e

theorem reset_linkState : ∀ l, l < 32 → State.reset.linkState l = 0 := by decide

theorem reset_gulQres : ∀ core, core < 32 → bit 16 (State.reset.reg (R.gulQres core)) = true := by decide

theorem reset_cell (k : CellRef) : State.reset.cell k = {} := rfl

/-- A cleared register file. -/
theorem rs_default (r : BitVec 5) : ({} : Cell).rs r = 0 := by
  revert r
  decide

theorem reset_tables : State.reset.TablesOk := by
  have hj : State.reset.jobs = [] := rfl
  have hi (i : Nat) : State.reset.isl i = {} := rfl
  refine ⟨fun j h => ?_, fun i => ?_, rfl, rfl⟩
  · rw [hj] at h
    exact absurd h List.not_mem_nil
  · rw [hi]
    decide

/-- Settles O60. -/
theorem resetState : Obligations.ResetState := by
  refine ⟨reset_canon, by unfold State.FarOk; decide, reset_tables, rfl, rfl, fun _ => rfl, fun a => reset_reg, fun k => ⟨reset_cell k, ?_⟩,
    fun t => reset_running, reset_linkState, rfl, rfl, by decide, by decide, reset_gulQres⟩
  rw [reset_cell]
  exact ⟨rfl, rfl, rs_default⟩

end Sys2Proof.Machine

/-! SUPPORT. The 36/32 code (R294 to R296): a block that holds no upset decodes as it was encoded. -/

namespace Sys2Proof.Machine

open Sys2Proof

/-! ### Multiplication by a constant is additive -/

theorem gfDouble_xor (a b : Byte) : gfDouble (a ^^^ b) = gfDouble a ^^^ gfDouble b := by
  unfold gfDouble
  rw [BitVec.getLsbD_xor, BitVec.shiftLeft_xor_distrib]
  generalize a <<< 1 = x
  generalize b <<< 1 = y
  cases a.getLsbD 7 <;> cases b.getLsbD 7
  · simp
  · simp [BitVec.xor_assoc]
  · have h : (x ^^^ 0x1D) ^^^ y = (x ^^^ y) ^^^ 0x1D := by ac_rfl
    simpa using h.symm
  · have h : (x ^^^ 0x1D) ^^^ (y ^^^ 0x1D) = (x ^^^ y) ^^^ (0x1D ^^^ 0x1D) := by ac_rfl
    simpa using h.symm

theorem gfMulBits_xor (a b c : Byte) (n : Nat) : gfMulBits (a ^^^ b) c n = gfMulBits a c n ^^^ gfMulBits b c n := by
  induction n generalizing c with
  | zero => exact (BitVec.xor_self (x := (0 : Byte))).symm
  | succ n ih =>
    simp only [gfMulBits, ih, gfDouble_xor]
    split
    · ac_rfl
    · simp

theorem gfMul_xor (a b c : Byte) : gfMul (a ^^^ b) c = gfMul a c ^^^ gfMul b c := gfMulBits_xor a b c 8

theorem gfMul_zero (c : Byte) : gfMul 0#8 c = 0#8 := by
  have h := gfMul_xor 0#8 0#8 c
  rwa [BitVec.xor_self, BitVec.xor_self] at h

theorem gfDouble_zero : gfDouble 0#8 = 0#8 := by decide

/-- Products with the powers of α and with the coefficients of g(x), by doublings. -/
theorem gfMul_consts (a : Byte) : gfMul a 1 = a ∧ gfMul a 2 = gfDouble a ∧ gfMul a 4 = gfDouble (gfDouble a) ∧
    gfMul a 8 = gfDouble (gfDouble (gfDouble a)) := by
  simp [gfMul, gfMulBits, gfDouble_zero]

theorem xor_cancel_left (x y : Byte) : x ^^^ (x ^^^ y) = y := by
  rw [← BitVec.xor_assoc, BitVec.xor_self, BitVec.zero_xor]

theorem xor_left_comm (x y z : Byte) : x ^^^ (y ^^^ z) = y ^^^ (x ^^^ z) := by ac_rfl

/-! ### The check bytes make every syndrome 0 -/

/-- α^j is a root of g(x): what one symbol adds to the remainder has the value of that symbol at place 4. -/
theorem generator_root (j : Nat) (hj : j < 4) (f : Byte) :
    gfMul (gfMul (gfMul (gfMul f (alphaPow j)) (alphaPow j)) (alphaPow j)) (alphaPow j) =
      gfMul (gfMul (gfMul (gfMul f 0x0F) (alphaPow j)) (alphaPow j)) (alphaPow j) ^^^
        gfMul (gfMul (gfMul f 0x36) (alphaPow j)) (alphaPow j) ^^^ gfMul (gfMul f 0x78) (alphaPow j) ^^^ gfMul f 0x40 := by
  have h15 : gfMul f 0x0F = gfDouble (gfDouble (gfDouble f)) ^^^ gfDouble (gfDouble f) ^^^ gfDouble f ^^^ f := by
    simp [gfMul, gfMulBits, gfDouble_zero, gfDouble_xor]
  have h36 : gfMul f 0x36 = gfDouble (gfDouble (gfDouble (gfDouble (gfDouble f)))) ^^^ gfDouble (gfDouble (gfDouble (gfDouble f))) ^^^
      gfDouble (gfDouble f) ^^^ gfDouble f := by
    simp [gfMul, gfMulBits, gfDouble_zero, gfDouble_xor]
  have h78 : gfMul f 0x78 = gfDouble (gfDouble (gfDouble (gfDouble (gfDouble (gfDouble f))))) ^^^
      gfDouble (gfDouble (gfDouble (gfDouble (gfDouble f)))) ^^^ gfDouble (gfDouble (gfDouble (gfDouble f))) ^^^ gfDouble (gfDouble (gfDouble f)) := by
    simp [gfMul, gfMulBits, gfDouble_zero, gfDouble_xor]
  have h40 : gfMul f 0x40 = gfDouble (gfDouble (gfDouble (gfDouble (gfDouble (gfDouble f))))) := by
    simp [gfMul, gfMulBits, gfDouble_zero]
  have a0 : alphaPow 0 = 1 := rfl
  have a1 : alphaPow 1 = 2 := by decide
  have a2 : alphaPow 2 = 4 := by decide
  have a3 : alphaPow 3 = 8 := by decide
  obtain rfl | rfl | rfl | rfl : j = 0 ∨ j = 1 ∨ j = 2 ∨ j = 3 := by omega
  all_goals
    simp only [a0, a1, a2, a3, h15, h36, h78, h40, gfMul_consts, gfDouble_xor, BitVec.xor_assoc, BitVec.xor_comm, xor_left_comm,
      xor_cancel_left, BitVec.xor_self, BitVec.xor_zero]

/-- Horner's rule at α^j from a value on. -/
def hornerFrom (j : Nat) (e : Byte) (cs : List Byte) : Byte := cs.foldl (fun acc c => gfMul acc (alphaPow j) ^^^ c) e

theorem hornerFrom_zeros (j : Nat) : hornerFrom j 0 [0, 0, 0, 0] = 0 := by
  simp [hornerFrom, gfMul_zero]

/-- Horner's rule is additive. -/
theorem hornerFrom_xor (j : Nat) (e e' : Byte) (cs : List (Byte × Byte)) :
    hornerFrom j (e ^^^ e') (cs.map (fun c => c.1 ^^^ c.2)) = hornerFrom j e (cs.map Prod.fst) ^^^ hornerFrom j e' (cs.map Prod.snd) := by
  induction cs generalizing e e' with
  | nil => rfl
  | cons c t ih =>
    have h : gfMul (e ^^^ e') (alphaPow j) ^^^ (c.1 ^^^ c.2) = (gfMul e (alphaPow j) ^^^ c.1) ^^^ (gfMul e' (alphaPow j) ^^^ c.2) := by
      rw [gfMul_xor]
      ac_rfl
    simp only [hornerFrom, List.map_cons, List.foldl_cons] at ih ⊢
    rw [h]
    exact ih _ _

/-- The coefficients of g(x) behind a symbol leave nothing. -/
theorem hornerFrom_generator {j : Nat} (hj : j < 4) (f : Byte) :
    hornerFrom j f [gfMul f 0x0F, gfMul f 0x36, gfMul f 0x78, gfMul f 0x40] = 0 := by
  have h := BitVec.xor_eq_zero_iff.mpr (generator_root j hj f)
  simp only [hornerFrom, List.foldl_cons, List.foldl_nil, gfMul_xor]
  simp only [BitVec.xor_assoc] at h ⊢
  exact h

/-- The remainder of the division stands for the symbols divided so far, four places up. -/
theorem remainder_horner {j : Nat} (hj : j < 4) (data : List Byte) (e : Byte) (r : Byte × Byte × Byte × Byte)
    (h : hornerFrom j e [r.1, r.2.1, r.2.2.1, r.2.2.2] = 0) :
    hornerFrom j (hornerFrom j e data) [(data.foldl rsStep r).1, (data.foldl rsStep r).2.1, (data.foldl rsStep r).2.2.1, (data.foldl rsStep r).2.2.2] = 0 := by
  induction data generalizing e r with
  | nil => exact h
  | cons d t ih =>
    refine ih (gfMul e (alphaPow j) ^^^ d) (rsStep r d) ?_
    have he : gfMul e (alphaPow j) ^^^ d = (gfMul e (alphaPow j) ^^^ r.1) ^^^ (r.1 ^^^ d) := by
      rw [BitVec.xor_assoc, xor_cancel_left]
    have hx := hornerFrom_xor j (gfMul e (alphaPow j) ^^^ r.1) (r.1 ^^^ d) [(r.2.1, gfMul (r.1 ^^^ d) 0x0F), (r.2.2.1, gfMul (r.1 ^^^ d) 0x36),
      (r.2.2.2, gfMul (r.1 ^^^ d) 0x78), (0#8, gfMul (r.1 ^^^ d) 0x40)]
    have h0 : hornerFrom j (gfMul e (alphaPow j) ^^^ r.1) [r.2.1, r.2.2.1, r.2.2.2, 0#8] = 0 := by
      have hm := congrArg (fun x => gfMul x (alphaPow j) ^^^ 0#8) h
      exact hm.trans (by rw [show (0 : Byte) = 0#8 from rfl, gfMul_zero, BitVec.xor_self])
    simp only [List.map_cons, List.map_nil, BitVec.zero_xor] at hx
    rw [h0, hornerFrom_generator hj, BitVec.xor_self] at hx
    rw [he]
    exact hx

/-- A block as it is encoded has no syndrome. -/
theorem syndrome_encodeBlock {j : Nat} (hj : j < 4) (data : List Byte) : syndrome j (encodeBlock data) = 0 := by
  have h := remainder_horner hj data 0 (0, 0, 0, 0) (hornerFrom_zeros j)
  unfold syndrome encodeBlock
  rw [List.foldl_append]
  exact h

theorem decodeBlock_encodeBlock (data : List Byte) : decodeBlock (encodeBlock data) = .clean := by
  unfold decodeBlock
  exact if_pos ⟨syndrome_encodeBlock (by omega) _, syndrome_encodeBlock (by omega) _, syndrome_encodeBlock (by omega) _, syndrome_encodeBlock (by omega) _⟩

/-! ### Reading a block that holds no upset -/

theorem State.length_rdN (s : State) (a n : Nat) : (s.rdN a n).length = n := by simp [State.rdN, readBytes]

theorem take_encodeBlock {data : List Byte} (h : data.length = 32) : (encodeBlock data).take 32 = data := by
  unfold encodeBlock
  rw [← h, List.take_left]

/-- A block that holds no upset is written back as it is. -/
theorem State.readBlock_clean {s : State} {die cls table a : Nat} (h : s.upsetOf a = []) :
    s.readBlock die cls table a [] = ((s.wrN a (s.rdN a 32)).setUpset a [], some (s.rdN a 32)) := by
  unfold State.readBlock
  have hcs : applyUpset (encodeBlock (s.rdN a 32)) (s.upsetOf a ++ []) = encodeBlock (s.rdN a 32) := by
    rw [h]
    rfl
  simp only [hcs, decodeBlock_encodeBlock, take_encodeBlock (s.length_rdN a 32)]

end Sys2Proof.Machine

/-! SUPPORT. A multicast copy written into memory that is not in the canonical form (R250, R278). -/

namespace Sys2Proof.Machine

open Sys2Proof

/-- A multicast packet that has arrived at island 0: 32 zero bytes for the start of its vault. -/
def zeroCopy : Packet :=
  { Packet.mk0 0 0 .write with mc := true, arrived := true, arg := 1, data := List.replicate 32 0 }

/-- Memory that lists byte 0 twice, which no command leaves (`State.Canon`): writing 0 there takes one of the entries away. -/
def listedTwice : State := { State.reset with mesh := [zeroCopy], mem := { cells := [(0, 1), (0, 1)] } }

theorem listedTwice_copied : ∃ u, exec (.multicastWrite ⟨0, []⟩) listedTwice = .next u ∧ u.rd 0 = 1 := ⟨_, rfl, by decide⟩

/-- Refutes O30: the statement holds of every state, in or out of the canonical form, and a copy that writes 0 to a byte which
memory lists twice leaves the second entry. -/
theorem not_meshPackets : ¬ Obligations.MeshPackets := by
  unfold Obligations.MeshPackets
  intro h
  obtain ⟨-, -, -, -, -, -, -, -, -, -, -, hc⟩ := h listedTwice 0 zeroCopy rfl
  obtain ⟨-, -, hv⟩ := hc rfl rfl (by decide)
  obtain ⟨u, hu, hrd, -⟩ := hv (by decide) rfl (by decide) (by decide)
  obtain ⟨v, hv, h1⟩ := listedTwice_copied
  have e : u = v := Host.Outcome.next.inj (hu.symm.trans hv)
  have h0 := hrd 0 (by decide)
  rw [e] at h0
  exact absurd (h1.symm.trans h0) (by decide)

end Sys2Proof.Machine

/-! SUPPORT. Kitties at the partner (R391 to R393). -/

namespace Sys2Proof.Machine

open Sys2Proof

section
variable {s : State} {r : KReq} {k : Kitty} {p : KPage}

theorem putKitty_none (par : Bool) (data : List Byte) (h : s.kitty r.job r.src = none) :
    s.putKitty 0 r par data = s.kittyReply 0 r K.eLinkKitty [] := by
  simp [State.putKitty, h]

theorem putKitty_noPage (par : Bool) (data : List Byte) (h : s.kitty r.job r.src = some k) (hp : k.page r.va = none) :
    s.putKitty 0 r par data = s.kittyReply 0 r K.eLinkKitty [] := by
  simp [State.putKitty, h, hp]

/-- R393: the frames of the sealed parity are never overwritten. -/
theorem putKitty_sealed {par : Bool} (data : List Byte) (h : s.kitty r.job r.src = some k) (hp : k.page r.va = some p)
    (hs : k.isSealed = some par) : s.putKitty 0 r par data = s := by
  simp [State.putKitty, h, hp, hs]

theorem putKitty_lands {par : Bool} (data : List Byte) (h : s.kitty r.job r.src = some k) (hp : k.page r.va = some p)
    (hs : k.isSealed ≠ some par) :
    let g := (r.va / 0x10000, r.va % 0x10000 / 256)
    s.putKitty 0 r par data = (s.landPA 0 (p.frame par + r.va % 0x10000) data).1.setKitty
      (k.setGot par (if (k.got par).contains g then k.got par else k.got par ++ [g])) := by
  simp [State.putKitty, h, hp, hs]

theorem sealKitty_none (count : Nat) (h : s.kitty r.job r.src = none) :
    s.sealKitty 0 r count = s.kittyReply 0 r K.eLinkKitty [] := by
  simp [State.sealKitty, h]

theorem sealKitty_whole (h : s.kitty r.job r.src = some k) :
    s.sealKitty 0 r (k.whole k.next) =
      (s.setKitty ({ k with isSealed := some k.next, lost := false }.setGot (!k.next) [])).kittyReply 0 r 0 [] := by
  simp [State.sealKitty, h]

theorem sealKitty_short {count : Nat} (h : s.kitty r.job r.src = some k) (hc : k.whole k.next ≠ count) :
    s.sealKitty 0 r count = s := by
  simp [State.sealKitty, h, hc]

theorem getKitty_none (len : Nat) (h : s.kitty r.job r.src = none) :
    s.getKitty 0 r len = s.kittyReply 0 r K.eLinkKitty [] := by
  simp [State.getKitty, h]

theorem getKitty_refused (len : Nat) (h : s.kitty r.job r.src = some k) (hn : k.page r.va = none ∨ k.isSealed = none) :
    s.getKitty 0 r len = s.kittyReply 0 r K.eLinkKitty [] := by
  rcases hn with hp | hs
  · simp [State.getKitty, h, hp]
  · cases hp : k.page r.va <;> simp [State.getKitty, h, hp, hs]

theorem getKitty_takes {par : Bool} {len : Nat} {s1 : State} {o : Option (List Byte)} (h : s.kitty r.job r.src = some k)
    (hp : k.page r.va = some p) (hs : k.isSealed = some par)
    (ht : s.takePA 0 (p.frame par + r.va % 0x10000) len = (s1, o)) :
    s.getKitty 0 r len = match (generalizing := false) o with
      | some bs => s1.kittyReply 0 r 0 bs
      | none => s1.kittyReply 0 r K.eMemUncorrectable [] := by
  simp only [State.getKitty, h, hp, hs]
  rw [ht] <;> cases o <;> rfl

end

/-- Settles O47. -/
theorem kitties : Obligations.Kitties := by
  unfold Obligations.Kitties
  intro s job src tag va len count cnum parity data put sealing get r g
  have hput : put = .next (s.putKitty 0 r parity data) := rfl
  have hsealing : sealing = .next (s.sealKitty 0 { r with va := 0 } count) := rfl
  have hget : get = .next (s.getKitty 0 r len) := rfl
  rw [hput, hsealing, hget]
  refine ⟨fun h => ?_, fun k h => ?_⟩
  · rw [putKitty_none _ _ h, getKitty_none _ h, sealKitty_none (r := { r with va := 0 }) _ h]
    exact ⟨rfl, rfl, rfl⟩
  · refine ⟨fun hp => ?_, fun p hp hs => ?_, fun p hp hs => ?_, fun hc => ?_, fun hc => ?_, fun hn => ?_, fun p par s1 o hp hs ht => ?_⟩
    · rw [putKitty_noPage _ _ h hp]
    · rw [putKitty_sealed _ h hp hs]
    · rw [putKitty_lands _ h hp hs]
    · rw [← hc, sealKitty_whole (r := { r with va := 0 }) h]
    · rw [sealKitty_short (r := { r with va := 0 }) h hc]
    · rw [getKitty_refused _ h hn]
    · exact congrArg Host.Outcome.next ((getKitty_takes h hp hs ht).trans (by cases o <;> rfl))

end Sys2Proof.Machine

/-! SUPPORT. A synchronisation operation at its home (R312 to R322): what reading the word's block leaves, and each variant. -/

namespace Sys2Proof.Machine

open Sys2Proof

/-! ### What a read of blocks leaves -/

/-- Nothing has changed but memory, its upsets, registers, events and the notes of tables. -/
def State.OffMemory (s t : State) : Prop :=
  { t with mem := s.mem, bad := s.bad, regs := s.regs, events := s.events, tbls := s.tbls } = s

section
variable {s t : State}

theorem State.OffMemory.refl (s : State) : s.OffMemory s := rfl

theorem State.OffMemory.setReg (h : s.OffMemory t) {a : Nat} {v : Word} : s.OffMemory (t.setReg a v) := h
theorem State.OffMemory.setUpset (h : s.OffMemory t) {a : Nat} {u : Upset} : s.OffMemory (t.setUpset a u) := h
theorem State.OffMemory.wrN (h : s.OffMemory t) {a : Nat} {bs : List Byte} : s.OffMemory (t.wrN a bs) := h
theorem State.OffMemory.updTbl (h : s.OffMemory t) {i : Nat} {f : Tbl → Tbl} : s.OffMemory (t.updTbl i f) := h

theorem State.OffMemory.noteFail (h : s.OffMemory t) {e : DEvent} : s.OffMemory (t.noteFail e) := by
  unfold State.noteFail
  split
  · split
    · exact h
    · exact .updTbl h
  · split
    · exact h
    · exact .updTbl h
  · exact h

theorem State.OffMemory.events (h : s.OffMemory t) {l : List (Nat × DEvent)} : s.OffMemory { t with events := l } := h

theorem State.OffMemory.raise (h : s.OffMemory t) {die : Nat} {e : DEvent} : s.OffMemory (t.raise die e) := by
  rw [State.raise_def, State.dealerSees_eq]
  exact .events (.noteFail (.setReg h))

theorem State.OffMemory.ceEvent (h : s.OffMemory t) {die cls pa : Nat} : s.OffMemory (t.ceEvent die cls pa) :=
  .setReg (.setReg (.setReg h))

theorem State.OffMemory.ueEvent (h : s.OffMemory t) {die cls pa table : Nat} : s.OffMemory (t.ueEvent die cls pa table) :=
  .raise (.setReg (.setReg (.setReg h)))

theorem State.OffMemory.readBlock (h : s.OffMemory t) {die cls table a : Nat} {u : Upset} :
    s.OffMemory (t.readBlock die cls table a u).1 := by
  unfold State.readBlock
  extract_lets u' cs
  split
  · exact .setUpset (.wrN h)
  · extract_lets bs
    exact .ceEvent (.setUpset (.wrN h))
  · exact .ueEvent (.setUpset h)

theorem State.OffMemory.foldl {f : State → Nat → State} (hf : ∀ t a, s.OffMemory t → s.OffMemory (f t a)) {l : List Nat} :
    ∀ {t}, s.OffMemory t → s.OffMemory (l.foldl f t) := by
  induction l with
  | nil => exact fun h => h
  | cons a l ih => exact fun h => ih (hf _ a h)

theorem State.OffMemory.readBlocks (h : s.OffMemory t) {table : Nat} {l : List Nat} : s.OffMemory (t.readBlocks table l) :=
  .foldl (fun _ _ h1 => .readBlock h1) h

theorem State.OffMemory.readRange {die cls table : Nat} {u : Upset} {l : List Nat} (h : s.OffMemory t) :
    s.OffMemory (t.readRange die cls table u l).1 := by
  induction l generalizing t u with
  | nil => exact h
  | cons a l ih =>
    rw [State.readRange]
    dsimp only
    split
    · exact h.readBlock
    · exact ih h.readBlock

theorem State.OffMemory.writeRange (h : s.OffMemory t) {die cls table a : Nat} {bs : List Byte} {u : Upset} :
    s.OffMemory (t.writeRange die cls table a bs u).1 := by
  have h1 : s.OffMemory (t.readRange die cls table u (blocksPart a bs.length)).1 := .readRange h
  unfold State.writeRange
  dsimp only
  split
  · exact .foldl (fun _ _ h2 => .setUpset h2) (.wrN h1)
  · exact h1

theorem State.OffMemory.mergeN (h : s.OffMemory t) {a : Nat} {bs : List Byte} : s.OffMemory (t.mergeN a bs) := by
  unfold State.mergeN
  split
  · exact .wrN h
  · exact .writeRange h

theorem State.OffMemory.syncs (h : s.OffMemory t) : t.syncs = s.syncs := by
  have h1 := congrArg State.syncs (show _ = s from h)
  exact h1

end

/-! ### The operations of a request that is alone -/

section
variable {s : State} {x : SyncReq}

theorem State.wordSet_syncs (s : State) (h : Home) (v : Word) (f : Bool) : (s.wordSet h v f).syncs = s.syncs := by
  cases h with
  | sram k w => exact (State.OffMemory.refl s).mergeN.syncs
  | window d i => rfl

/-- A request that is not a waiter satisfies none. -/
theorem firstReady_alone (hs : s.syncs = [x]) (hx : x.stage = .atHome) (h : Home) (f : Bool) : s.firstReady h f = none := by
  simp [State.firstReady, hs, hx]

theorem noRecord_alone (hs : s.syncs = [x]) (hx : x.stage = .atHome) (y : SyncReq) : s.noRecord y = false := by
  cases hy : y.home <;> simp [State.noRecord, State.waiters, hs, hx, hy, waiterLimit]

theorem roundTimed_alone (hs : s.syncs = [x]) (hx : x.stage = .atHome) (h : Home) : s.roundTimed h = [] := by
  simp [State.roundTimed, State.roundWaiters, hs, hx]

theorem park_alone (hs : s.syncs = [x]) (e : Bool) : s.park x e = { s with syncs := [{ x with stage := .parked, early := e }] } := by
  simp [State.park, hs]

theorem applySync_alone (hs : s.syncs = [x]) (hx : x.stage = .atHome) :
    let w := s.wordGet x.home
    let w' := x.v.after w.1 w.2 x.value
    s.applySync x = (s.wordSet x.home w'.1 w'.2).syncAnswer x 0 w.1 := by
  have hn : ∀ v f f', (s.wordSet x.home v f).firstReady x.home f' = none := fun v f f' =>
    firstReady_alone ((State.wordSet_syncs s x.home v f).trans hs) hx x.home f'
  simp only [State.applySync, hn]

theorem roundFull_alone (hs : s.syncs = [x]) (hx : x.stage = .atHome) :
    let s1 := s.setRound x.home { s.round x.home with a := (s.round x.home).n, drain := true }
    s.roundFull x = (if x.v = .rwait then s1.park { x with ruled := true } false else s1.syncAnswer x 0 0).roundSettle x.home := by
  simp [State.roundFull, roundTimed_alone hs hx]

theorem exec_syncOperation_alone (hs : s.syncs = [x]) (hx : x.stage = .atHome) :
    exec (.syncOperation x.id) s = .next (s.syncAtHome x) := by
  change execSyncOperation x.id s = _
  simp [execSyncOperation, State.syncReq, State.homeLocked, hs, hx]

/-- Whether the request is a cell's for another table's word. -/
theorem foreign_iff (x : SyncReq) (own : Nat) :
    (match x.who with | .cell _ => own != x.table && own != 0 | _ => false : Bool) = true ↔
      (∃ g, x.who = .cell g) ∧ own ≠ x.table ∧ own ≠ 0 := by
  cases x.who <;> simp

theorem syncAtHome_foreign {u : State} (hu : s.readBlocks x.table (State.homeBlocks x.home) = u)
    (hf : (∃ g, x.who = .cell g) ∧ u.wordOwner x.home ≠ x.table ∧ u.wordOwner x.home ≠ 0) :
    s.syncAtHome x = u.syncAnswer x K.eSyncForeign 0 := by
  unfold State.syncAtHome
  rw [hu]
  exact if_pos ((foreign_iff x _).mpr hf)

theorem syncAtHome_spoilt {u : State} (hu : s.readBlocks x.table (State.homeBlocks x.home) = u)
    (hf : ¬ ((∃ g, x.who = .cell g) ∧ u.wordOwner x.home ≠ x.table ∧ u.wordOwner x.home ≠ 0)) (hb : u.homeSpoilt x.home = true) :
    s.syncAtHome x = u.syncAnswer x K.eMemUncorrectable 0 := by
  unfold State.syncAtHome
  rw [hu]
  exact (if_neg (fun h => hf ((foreign_iff x _).mp h))).trans (if_pos hb)

/-- The operation itself, past the checks. -/
def State.syncDone (u : State) (x : SyncReq) : State :=
  match x.v with
  | .rwait => u.roundArrive x
  | .rpass => u.roundArrive x
  | .rset => u.roundReset x
  | v =>
    if v.ready (u.wordGet x.home).2 then u.applySync x
    else if u.noRecord x then u.retry x
    else u.park x false

theorem syncAtHome_done {u : State} (hu : s.readBlocks x.table (State.homeBlocks x.home) = u)
    (hf : ¬ ((∃ g, x.who = .cell g) ∧ u.wordOwner x.home ≠ x.table ∧ u.wordOwner x.home ≠ 0)) (hb : u.homeSpoilt x.home = false) :
    s.syncAtHome x = u.syncDone x := by
  unfold State.syncAtHome
  rw [hu]
  exact (if_neg (fun h => hf ((foreign_iff x _).mp h))).trans ((if_neg (by rw [hb]; exact Bool.false_ne_true)).trans rfl)

theorem syncDone_ready {u : State} (hs : u.syncs = [x]) (hx : x.stage = .atHome) (hr : x.v.isRound = false) (hv : x.v ≠ .rset)
    (h : x.v.ready (u.wordGet x.home).2 = true) :
    let w := u.wordGet x.home
    let w' := x.v.after w.1 w.2 x.value
    u.syncDone x = (u.wordSet x.home w'.1 w'.2).syncAnswer x 0 w.1 := by
  have ha := applySync_alone hs hx
  unfold State.syncDone
  split
  case h_1 e | h_2 e => rw [e] at hr; exact absurd hr (by decide)
  case h_3 e => exact absurd e hv
  case h_4 => rw [if_pos h, ha]

theorem syncDone_waits {u : State} (hs : u.syncs = [x]) (hx : x.stage = .atHome) (hr : x.v.isRound = false) (hv : x.v ≠ .rset)
    (h : x.v.ready (u.wordGet x.home).2 = false) :
    u.syncDone x = { u with syncs := [{ x with stage := .parked, early := false }] } := by
  unfold State.syncDone
  split
  case h_1 e | h_2 e => rw [e] at hr; exact absurd hr (by decide)
  case h_3 e => exact absurd e hv
  case h_4 =>
    rw [if_neg (by rw [h]; exact Bool.false_ne_true), if_neg (by rw [noRecord_alone hs hx]; exact Bool.false_ne_true), park_alone hs]

/-! ### Rounds -/

/-- Whether a word holds a round that counts arrivals (R322). -/
def State.roundStands (u : State) (h : Home) : Prop := (u.wordGet h).2 = true ∧ (u.round h).n ≠ 0

theorem roundReset_refused {u : State} (h : field 15 0 x.value = 0 ∨ ((u.wordGet x.home).2 = true ∧
    ((u.round x.home).a ≠ 0 ∨ (u.round x.home).e ≠ 0 ∨ (u.round x.home).drain = true))) :
    u.roundReset x = u.syncAnswer x K.eRoundState 0 := by
  unfold State.roundReset
  by_cases h0 : field 15 0 x.value = 0
  · exact if_pos h0
  · exact (if_neg h0).trans (if_pos (h.resolve_left h0))

theorem roundReset_sets {u : State} (h0 : field 15 0 x.value ≠ 0) (h : (u.wordGet x.home).2 = false ∨
    ((u.round x.home).a = 0 ∧ (u.round x.home).e = 0 ∧ (u.round x.home).drain = false)) : u.roundReset x = u.applySync x := by
  unfold State.roundReset
  refine (if_neg h0).trans (if_neg ?_)
  rintro ⟨hf, hr⟩
  rcases h with hf' | ⟨ha, he, hd⟩
  · exact absurd (hf.symm.trans hf') (by decide)
  · simp [ha, he, hd] at hr

section
variable {u : State}

theorem roundArrive_none (h : ¬ u.roundStands x.home) : u.roundArrive x = u.syncAnswer x K.eRoundState 0 := by
  unfold State.roundArrive
  exact if_pos (Classical.not_and_iff_not_or_not.mp h |>.imp id (fun h => Classical.not_not.mp h))

theorem roundStands_guard (h : u.roundStands x.home) : ¬ (¬ (u.wordGet x.home).2 = true ∨ (u.round x.home).n = 0) :=
  fun hn => hn.elim (fun h1 => h1 h.1) (fun h1 => h.2 h1)

theorem roundArrive_over (h : u.roundStands x.home) (hd : (u.round x.home).drain = true) (he : (u.round x.home).n ≤ (u.round x.home).e) :
    u.roundArrive x = u.syncAnswer x K.eRoundOver 0 := by
  unfold State.roundArrive
  exact (if_neg (roundStands_guard h)).trans ((if_neg (not_not_intro hd)).trans (if_neg (Nat.not_lt.mpr he)))

theorem roundArrive_full (h : u.roundStands x.home) (hd : (u.round x.home).drain = false) (ha : (u.round x.home).n ≤ (u.round x.home).a + 1) :
    u.roundArrive x = u.roundFull x := by
  unfold State.roundArrive
  exact (if_neg (roundStands_guard h)).trans ((if_pos (by rw [hd]; exact Bool.false_ne_true)).trans (if_neg (Nat.not_lt.mpr ha)))

/-- An arrival that does not complete the count of a request that is alone. -/
theorem roundArrive_counted (hs : u.syncs = [x]) (hx : x.stage = .atHome) (h : u.roundStands x.home) (hd : (u.round x.home).drain = false)
    (ha : (u.round x.home).a + 1 < (u.round x.home).n) :
    let s1 := u.setRound x.home { u.round x.home with a := (u.round x.home).a + 1 }
    u.roundArrive x = if x.v = .rwait then s1.park x false else s1.syncAnswer x 0 0 := by
  unfold State.roundArrive
  refine (if_neg (roundStands_guard h)).trans ((if_pos (by rw [hd]; exact Bool.false_ne_true)).trans ((if_pos ha).trans ?_))
  rw [noRecord_alone hs hx]
  rfl

/-- One that comes while a generation is released is early for the next. -/
theorem roundArrive_early (hs : u.syncs = [x]) (hx : x.stage = .atHome) (h : u.roundStands x.home) (hd : (u.round x.home).drain = true)
    (he : (u.round x.home).e < (u.round x.home).n) :
    let s1 := u.setRound x.home { u.round x.home with e := (u.round x.home).e + 1 }
    u.roundArrive x = if x.v = .rwait then s1.park x true else s1.syncAnswer x 0 0 := by
  unfold State.roundArrive
  refine (if_neg (roundStands_guard h)).trans ((if_neg (not_not_intro hd)).trans ((if_pos he).trans ?_))
  rw [noRecord_alone hs hx]
  rfl

theorem syncDone_rset (hv : x.v = .rset) : u.syncDone x = u.roundReset x := by unfold State.syncDone; rw [hv]

theorem syncDone_arrives (hv : x.v = .rwait ∨ x.v = .rpass) : u.syncDone x = u.roundArrive x := by
  unfold State.syncDone
  rcases hv with hv | hv <;> rw [hv]

end

end

/-- Settles O34. -/
theorem syncOperationsAtHome : Obligations.SyncOperationsAtHome := by
  unfold Obligations.SyncOperationsAtHome
  intro s x hs hx h u v full own r rd foreign answers becomes waits arrival early
  have hr : r = .next (s.syncAtHome x) := exec_syncOperation_alone hs hx
  have hus : u.syncs = [x] := (State.OffMemory.readBlocks (.refl s)).syncs.trans hs
  refine ⟨fun hf => ?_, fun hf hb => ?_, fun hf hb => ?_⟩
  · exact hr.trans (congrArg _ (syncAtHome_foreign rfl hf))
  · exact hr.trans (congrArg _ (syncAtHome_spoilt rfl hf hb))
  · have hr : r = .next (u.syncDone x) := hr.trans (congrArg _ (syncAtHome_done rfl hf hb))
    have hready : ∀ {V w f}, x.v = V → V.isRound = false → V ≠ .rset → V.ready full = true → V.after v full x.value = (w, f) →
        becomes w f := by
      intro V w f hv h1 h2 h3 h4
      subst hv
      refine hr.trans (congrArg _ ((syncDone_ready hus hx h1 h2 h3).trans ?_))
      change (u.wordSet x.home (x.v.after v full x.value).1 (x.v.after v full x.value).2).syncAnswer x 0 v = _
      rw [h4]
    have hwait : ∀ {V}, x.v = V → V.isRound = false → V ≠ .rset → V.ready full = false → waits := by
      intro V hv h1 h2 h3
      subst hv
      exact hr.trans (congrArg _ (syncDone_waits hus hx h1 h2 h3))
    have hword : ∀ {V w f}, x.v = V → V.isRound = false → V ≠ .rset → (∀ g, V.ready g = g) → V.after v true x.value = (w, f) →
        (full = true → becomes w f) ∧ (full = false → waits) := fun hv h1 h2 h3 h4 =>
      ⟨fun h => hready hv h1 h2 ((h3 full).trans h) (h ▸ h4), fun h => hwait hv h1 h2 ((h3 full).trans h)⟩
    refine ⟨fun hv => hword hv rfl (by decide) (fun _ => rfl) rfl, fun hv => hword hv rfl (by decide) (fun _ => rfl) rfl,
      fun hv => hready hv rfl (by decide) rfl rfl, fun hv => hready hv rfl (by decide) rfl rfl,
      fun hv => ⟨fun h => hready hv rfl (by decide) (by rw [h]; rfl) rfl, fun h => hwait hv rfl (by decide) (by rw [h]; rfl)⟩,
      fun hv => hready hv rfl (by decide) rfl rfl, fun hv => hready hv rfl (by decide) rfl rfl,
      fun hv => hword hv rfl (by decide) (fun _ => rfl) rfl, fun hv => ⟨fun h0 h1 => ?_, fun h1 => ?_⟩,
      fun hv h1 => ?_, fun hv h1 hd he => ?_, fun hv h1 => ⟨fun hd ha => ?_, fun hd ha => ?_, fun hd he => ?_⟩,
      fun hv h1 => ⟨fun hd ha => ?_, fun hd ha => ?_, fun hd he => ?_⟩⟩
    · refine hr.trans (congrArg _ ((syncDone_rset hv).trans ((roundReset_sets h0 h1).trans ((applySync_alone hus hx).trans ?_))))
      rw [hv]
      rfl
    · exact hr.trans (congrArg _ ((syncDone_rset hv).trans (roundReset_refused h1)))
    · exact hr.trans (congrArg _ ((syncDone_arrives hv).trans (roundArrive_none h1)))
    · exact hr.trans (congrArg _ ((syncDone_arrives hv).trans (roundArrive_over h1 hd he)))
    · exact hr.trans (congrArg _ ((syncDone_arrives (.inr hv)).trans ((roundArrive_counted hus hx h1 hd ha).trans (if_neg (by simp [hv])))))
    · refine hr.trans (congrArg _ ((syncDone_arrives (.inr hv)).trans ((roundArrive_full h1 hd ha).trans ((roundFull_alone hus hx).trans ?_))))
      rw [if_neg (by simp [hv])]
    · exact hr.trans (congrArg _ ((syncDone_arrives (.inr hv)).trans ((roundArrive_early hus hx h1 hd he).trans (if_neg (by simp [hv])))))
    · exact hr.trans (congrArg _ ((syncDone_arrives (.inl hv)).trans ((roundArrive_counted hus hx h1 hd ha).trans (if_pos hv))))
    · refine hr.trans (congrArg _ ((syncDone_arrives (.inl hv)).trans ((roundArrive_full h1 hd ha).trans ((roundFull_alone hus hx).trans ?_))))
      rw [if_pos hv]
    · exact hr.trans (congrArg _ ((syncDone_arrives (.inl hv)).trans ((roundArrive_early hus hx h1 hd he).trans (if_pos hv))))

end Sys2Proof.Machine

/-! SUPPORT. Melds (R361 to R366): each command from a meld's state. -/

namespace Sys2Proof.Machine

open Sys2Proof

section
variable {s : State} {die : BitVec 1}

theorem exec_meldOpen_closed {t : BitVec 8} (h : s.meldState die.toNat = 0) :
    exec (.meldOpen die t) s = .next ((s.setReg (R.meldStat die.toNat) 1).setMeld die.toNat { table := t.toNat }) :=
  if_neg (not_not_intro h)

theorem exec_meldOpen_open {t : BitVec 8} (h : s.meldState die.toNat ≠ 0) : exec (.meldOpen die t) s = .next s := if_pos h

theorem exec_meldStage_closed {value : Word} (h : s.meldState die.toNat = 0) : exec (.meldStage die value) s = .next s := if_pos h

theorem exec_meldStage_full {value : Word} (h : s.meldState die.toNat ≠ 0) (hl : 8192 ≤ (s.meld die.toNat).entries.length)
    (hk : (s.meld die.toNat).entries.any (fun x => x.1 == s.fld (R.meldSaddr die.toNat) 47 0) = false) :
    exec (.meldStage die value) s = .next ((s.setFld (R.meldStat die.toNat) 59 59 1).setMeldState die.toNat 1) :=
  (if_neg h).trans (if_pos ⟨hl, by rw [hk]; exact Bool.false_ne_true⟩)

/-- An address is taken while there is room, or when it stands already. -/
theorem exec_meldStage_takes {value : Word} (h : s.meldState die.toNat ≠ 0) (hk : (s.meld die.toNat).entries.length < 8192 ∨
    (s.meld die.toNat).entries.any (fun x => x.1 == s.fld (R.meldSaddr die.toNat) 47 0) = true) :
    let l := stageEntry (s.fld (R.meldSaddr die.toNat) 47 0) value (s.meld die.toNat).entries
    exec (.meldStage die value) s = .next (((s.setMeld die.toNat { s.meld die.toNat with entries := l }).setFld
      (R.meldStat die.toNat) 58 45 l.length).setMeldState die.toNat 1) :=
  (if_neg h).trans (if_neg (fun hn => hk.elim (fun h1 => Nat.not_le.mpr h1 hn.1) (fun h1 => hn.2 h1)))

theorem stageEntry_new {a : Nat} {v : Word} {l : List (Nat × Word)} (h : l.any (fun x => x.1 == a) = false) :
    stageEntry a v l = l ++ [(a, v)] := if_neg (by rw [h]; exact Bool.false_ne_true)

theorem stageEntry_only (a : Nat) (v w : Word) : stageEntry a v [(a, w)] = [(a, v)] := by simp [stageEntry]

theorem exec_meldCheck_closed (h : s.meldState die.toNat = 0) :
    exec (.meldCheck die) s = .next (s.meldFail die.toNat K.eMeldState 0) := if_pos h

theorem exec_meldCheck_empty (h : s.meldState die.toNat ≠ 0)
    (he : (s.meld die.toNat).entries = [] ∨ bit 59 (s.reg (R.meldStat die.toNat)) = true) :
    exec (.meldCheck die) s = .next ((s.meldFail die.toNat K.eMeldState 0).setMeldState die.toNat 5) :=
  (if_neg h).trans (if_pos (he.imp (fun h1 => by rw [h1]; rfl) id))

/-- The check of the rules, past the refusals. -/
theorem exec_meldCheck_rules (h : s.meldState die.toNat ≠ 0) (he : (s.meld die.toNat).entries ≠ [])
    (hf : bit 59 (s.reg (R.meldStat die.toNat)) = false) :
    let d := die.toNat
    let m := s.meld d
    exec (.meldCheck die) s = match s.meldRules m.table m.entries with
      | some (c, i) => .next ((s.meldFail d c i).setMeldState d 5)
      | none => .next (((s.meldFail d 0 0).setFld (R.meldStat d) 3 0 3).setMeld d { m with snap := s.meldSnap m.table m.entries }) :=
  (if_neg h).trans (if_neg (fun hn => hn.elim (fun h1 => he (List.isEmpty_iff.mp h1)) (fun h1 => absurd (h1.symm.trans hf) (by decide))))

theorem exec_meldApply_closed (h : s.meldState die.toNat = 0) :
    exec (.meldApply die) s = .next (s.meldFail die.toNat K.eMeldState 0) := if_pos h

theorem exec_meldApply_applying (h : s.meldState die.toNat = 4) : exec (.meldApply die) s =
    if s.groupsBusy (s.meld die.toNat).entries then .next s else .next (s.applyMeld die.toNat) :=
  (if_neg (by rw [h]; decide)).trans (if_pos h)

theorem exec_meldApply_refused (h0 : s.meldState die.toNat ≠ 0) (h4 : s.meldState die.toNat ≠ 4)
    (h : s.meldState die.toNat ≠ 3 ∨ s.meldDirty die.toNat = true) : exec (.meldApply die) s =
    .next (((s.meldFail die.toNat K.eMeldState 0).setFld (R.meldStat die.toNat) 3 3 (b2n (s.meldDirty die.toNat))).setMeldState die.toNat 5) :=
  (if_neg h0).trans ((if_neg h4).trans (if_pos h))

theorem exec_meldApply_checked (h : s.meldState die.toNat = 3) (hd : s.meldDirty die.toNat = false) : exec (.meldApply die) s =
    if s.groupsBusy (s.meld die.toNat).entries then .next (s.setMeldState die.toNat 4) else .next (s.applyMeld die.toNat) :=
  (if_neg (by rw [h]; decide)).trans ((if_neg (by rw [h]; decide)).trans
    (if_neg (fun hn => hn.elim (fun h1 => h1 h) (fun h1 => absurd (h1.symm.trans hd) (by decide)))))

theorem exec_meldAbort_closed (h : s.meldState die.toNat = 0) : exec (.meldAbort die) s = .next s := if_pos h
theorem exec_meldAbort_open (h : s.meldState die.toNat ≠ 0) : exec (.meldAbort die) s = .next (s.closeMeld die.toNat) := if_neg h

end

/-- Settles O43. -/
theorem melds : Obligations.Melds := by
  unfold Obligations.Melds
  intro s die t value d m a st put failed stage check apply abort known sees applied
  refine ⟨exec_meldOpen_closed, exec_meldOpen_open, fun h => ⟨exec_meldStage_closed h, exec_meldCheck_closed h, exec_meldApply_closed h,
    exec_meldAbort_closed h⟩, fun h => ⟨fun hk hl => ?_, fun w hw => ?_, fun hk hl => exec_meldStage_full h hl hk,
    exec_meldCheck_empty h, fun he hf => ⟨fun c i hr => ?_, fun hr => ?_⟩, exec_meldAbort_open h⟩,
    fun h hd hb => ?_, fun h hd hb => ?_, fun h hb => ?_, fun h hb => ?_, fun h hd => ?_, fun h hd => ?_⟩
  · refine (exec_meldStage_takes h (.inl hl)).trans ?_
    rw [stageEntry_new hk, List.length_append]
    rfl
  · refine (exec_meldStage_takes h (.inl (by change m.entries.length < _; rw [hw]; simp))).trans ?_
    rw [show (s.meld die.toNat).entries = [(a, w)] from hw, show s.fld (R.meldSaddr die.toNat) 47 0 = a from rfl, stageEntry_only]
    rfl
  · refine (exec_meldCheck_rules h he hf).trans ?_
    rw [show s.meldRules (s.meld die.toNat).table (s.meld die.toNat).entries = some (c, i) from hr]
    rfl
  · refine (exec_meldCheck_rules h he hf).trans ?_
    rw [show s.meldRules (s.meld die.toNat).table (s.meld die.toNat).entries = none from hr]
    rfl
  · exact (exec_meldApply_checked h hd).trans (if_neg (by rw [hb]; exact Bool.false_ne_true))
  · exact (exec_meldApply_checked h hd).trans (if_pos hb)
  · exact (exec_meldApply_applying h).trans (if_neg (by rw [hb]; exact Bool.false_ne_true))
  · exact (exec_meldApply_applying h).trans (if_pos hb)
  · refine (exec_meldApply_refused (by rw [show s.meldState die.toNat = 3 from h]; decide) (by rw [show s.meldState die.toNat = 3 from h]; decide)
      (.inr hd)).trans ?_
    rw [show s.meldDirty die.toNat = true from hd]
    rfl
  · have h0 : ∀ n, n ≠ 1 → n ≠ 5 → s.meldState die.toNat ≠ n := fun n h1 h5 hn => by
      rcases h with h | h
      · exact h1 (hn.symm.trans h)
      · exact h5 (hn.symm.trans h)
    refine (exec_meldApply_refused (h0 0 (by decide) (by decide)) (h0 4 (by decide) (by decide)) (.inl (h0 3 (by decide) (by decide)))).trans ?_
    rw [show s.meldDirty die.toNat = false from hd]
    rfl

end Sys2Proof.Machine

/-! SUPPORT. The two-phase commit of a spanning job (R388, R389). -/

namespace Sys2Proof.Machine

open Sys2Proof

theorem next_congr {s t : State} (h : s = t) : (.next s : Res) = .next t := congrArg _ h

section
variable {s : State} {t : Nat} {cn : BitVec 32} {act : State → State}

theorem commitMsg_stale (h : s.spanning t = true) (hc : cn.toNat < (s.cnum t).toNat) : s.commitMsg t cn act = s.gulStale t := by
  unfold State.commitMsg
  exact (if_neg (not_not_intro h)).trans ((if_neg (fun he => Nat.lt_irrefl _ (he ▸ hc))).trans (if_pos hc))

theorem commitMsg_ahead (h : s.spanning t = true) (hc : (s.cnum t).toNat < cn.toNat) :
    s.commitMsg t cn act = (s.satFld (R.gulJstat 0 t) 63 56 1).satFld (R.gulJstat 1 t) 63 56 1 := by
  unfold State.commitMsg
  exact (if_neg (not_not_intro h)).trans ((if_neg (fun he => Nat.lt_irrefl _ (he ▸ hc))).trans (if_neg (Nat.lt_asymm hc)))

theorem commitMsg_current (h : s.spanning t = true) : s.commitMsg t (s.cnum t) act = act s := by
  unfold State.commitMsg
  exact (if_neg (not_not_intro h)).trans (if_pos rfl)

theorem exec_decideTimeout (h : s.spanning t = true) (hp : s.gphase t = 2) :
    let s1 := (s.until ((s.tbl t).prepAt + BitVec.ofNat 64 (s.fld (R.gulJcfg 0 t) 31 0))).homeSees t
    exec (.decideTimeout t) s = match s1.jobOf t with
      | some j => .next (s1.stopJob j.handle K.eLinkDecide true)
      | none => .next (s1.orderKill t .rerun true) := if_pos ⟨h, hp⟩

theorem commitHere_prepared {skip se : Bool} (hc : (s.tbl t).commit = some se) (hp : s.gphase t = 2) :
    s.commitHere t skip = ((s.updTbl t (fun y => { y with skip := skip })).decideCommit t se).settleJob t := by
  unfold State.commitHere
  rw [hc]
  exact if_pos hp

theorem abortHere_rerun {status : Code} (h : status = 0) : s.abortHere t status = s.orderKill t .rerun true := by
  unfold State.abortHere
  rw [if_pos h]

theorem abortHere_fail {status : Code} (h : status ≠ 0) : s.abortHere t status = s.orderKill t (.fail status) true := by
  unfold State.abortHere
  rw [if_neg h]

theorem not_contains {l : List Nat} {a : Nat} (h : l.contains a = false) : ¬ l.contains a = true := by
  rw [h]
  exact Bool.false_ne_true

end

/-- Settles O40. -/
theorem twoPhaseCommit : Obligations.TwoPhaseCommit := by
  unfold Obligations.TwoPhaseCommit
  intro s t child cn skip se status h x prepare ready commit abort killreq done all
  refine ⟨fun hc => ?_, fun hc => ?_, fun hc => ?_, fun hp => ⟨fun j hj => ?_, fun hj => ?_⟩⟩
  · have hm := fun act => next_congr (commitMsg_stale (act := act) h hc)
    exact ⟨hm _, hm _, hm _, hm _, hm _, hm _⟩
  · have hm := fun act => next_congr (commitMsg_ahead (act := act) h hc)
    exact ⟨hm _, hm _, hm _, hm _, hm _, hm _⟩
  · subst hc
    have hm := fun act => next_congr (commitMsg_current (act := act) h)
    refine ⟨fun hr hu hp => (hm _).trans (next_congr (if_pos ⟨hr, hu, hp ▸ Bool.false_ne_true⟩)), fun hu hk hn => (hm _).trans (next_congr (if_pos ⟨hu, hk, not_contains hn⟩)),
      fun hk hg => (hm _).trans (next_congr (commitHere_prepared hk hg)), fun h0 => (hm _).trans (next_congr (abortHere_rerun h0)),
      fun h0 => (hm _).trans (next_congr (abortHere_fail h0)),
      fun hr => (hm _).trans (next_congr (if_pos hr)), fun hk hn => (hm _).trans (next_congr (if_pos ⟨hk, not_contains hn⟩))⟩
  · refine (exec_decideTimeout h hp).trans ?_
    rw [hj]
  · refine (exec_decideTimeout h hp).trans ?_
    rw [hj]

end Sys2Proof.Machine

/-! SUPPORT. Message channels (R323 to R329, R336): each command on a channel that holds at most one message. -/

namespace Sys2Proof.Machine

open Sys2Proof

section
variable {s : State} {die : BitVec 1} {ch : BitVec 12} {m : ChMsg}

/-- The one message of the channel. -/
structure OneOn (s : State) (die : BitVec 1) (ch : BitVec 12) (m : ChMsg) : Prop where
  msgs : s.chmsgs = [m]
  die : m.die = die.toNat
  ch : m.ch = ch.toNat

theorem OneOn.place (h : OneOn s die ch m) (hp : m.placed = false) : exec (.channelPlace die ch) s = .next (s.placeIdx 0) := by
  change execChannelPlace die ch s = _
  simp [execChannelPlace, h.msgs, ChMsg.on, h.die, h.ch, hp]

theorem OneOn.publish (h : OneOn s die ch m) : exec (.channelPublish die ch) s =
    if s.chSkind die.toNat ch.toNat ∧ ¬ m.committed then .next s else .next (s.publishIdx 0) := by
  change execChannelPublish die ch s = _
  simp [execChannelPublish, h.msgs, ChMsg.on, h.die, h.ch]

theorem OneOn.placed (h : OneOn s die ch m) (hp : m.placed = false) (hs : s.chState die.toNat ch.toNat ≠ 2) : s.placeIdx 0 =
    match placeMsg (s.chSize die.toNat ch.toNat) (s.rtail die.toNat ch.toNat) (s.chHead die.toNat ch.toNat) m.bytes.length with
      | some (skip, off, rt) => s.placeNow 0 m skip off rt
      | none => s := by
  simp [State.placeIdx, h.msgs, hp, h.die, h.ch, hs] <;> rfl

theorem OneOn.dropped (h : OneOn s die ch m) (hp : m.placed = false) (hs : s.chState die.toNat ch.toNat = 2) :
    s.placeIdx 0 = s.dropMsg 0 m := by
  simp [State.placeIdx, h.msgs, hp, h.die, h.ch, hs]

theorem OneOn.published (h : OneOn s die ch m) (hp : m.placed = true) (hs : s.chState die.toNat ch.toNat ≠ 2) : s.publishIdx 0 =
    ({ s with chmsgs := [] }.setFld (R.chnPos die.toNat ch.toNat) 31 0 m.slotEnd.toNat).incFld (R.chnStat die.toNat ch.toNat) 47 32 1 := by
  simp [State.publishIdx, h.msgs, hp, h.die, h.ch, hs]

theorem OneOn.orphaned (h : OneOn s die ch m) (hp : m.placed = true) (hs : s.chState die.toNat ch.toNat = 2) :
    s.publishIdx 0 = s.dropMsg 0 m := by
  simp [State.publishIdx, h.msgs, hp, h.die, h.ch, hs]

theorem OneOn.drop (h : OneOn s die ch m) : s.dropMsg 0 m =
    if m.placed then { s with chmsgs := [] }.incFld (R.chnStat die.toNat ch.toNat) 31 0 1
    else (({ s with chmsgs := [] }.incFld (R.chnStat die.toNat ch.toNat) 31 0 1).freeChbuf m).chPortDone m K.orphan := by
  simp [State.dropMsg, State.countOrphan, h.msgs, h.die, h.ch]

theorem clearChannel_none (hs : s.chmsgs = []) (d c : Nat) : s.clearChannel d c = s := by
  simp [State.clearChannel, hs]

theorem exec_channelOpen {base l2 : Nat} {reader sender : BitVec 12} {skind : Bool} (hm : s.chmsgs = [])
    (hs : s.chState die.toNat ch.toNat ≠ 1) (h12 : 12 ≤ l2) (h24 : l2 ≤ 24) (ha : base % 2 ^ l2 = 0) (hf : (s.frameClass base).isSome = true) :
    exec (.channelOpen die ch base l2 reader skind sender) s =
      .next ((((s.setReg (R.chnRing die.toNat ch.toNat) (BitVec.ofNat 64 (base + l2 * 2 ^ 48))).setReg (R.chnPeer die.toNat ch.toNat)
        (BitVec.ofNat 64 (reader.toNat + b2n skind * 2 ^ 12 + sender.toNat * 2 ^ 13 + 2 ^ 25))).setReg (R.chnPos die.toNat ch.toNat) 0).setRtail
        die.toNat ch.toNat 0) := by
  have hn : ¬ (s.chState die.toNat ch.toNat = 1 ∨ l2 < 12 ∨ 24 < l2 ∨ base % 2 ^ l2 ≠ 0 ∨ (s.frameClass base).isNone = true) := by
    rintro (h | h | h | h | h)
    · exact hs h
    · omega
    · omega
    · exact h ha
    · rw [Option.isNone_iff_eq_none] at h
      rw [h] at hf
      exact Bool.false_ne_true hf
  refine (if_neg hn).trans ?_
  rw [clearChannel_none hm]

theorem exec_chnPosHeadWrite_ignored {head : BitVec 32} (h : head.toNat % 32 ≠ 0 ∨
    (s.chTail die.toNat ch.toNat - s.chHead die.toNat ch.toNat).toNat < (head - s.chHead die.toNat ch.toNat).toNat) :
    exec (.chnPosHeadWrite die ch head) s = .next s := if_pos h

theorem exec_chnPosHeadWrite {head : BitVec 32} (h0 : head.toNat % 32 = 0)
    (h : (head - s.chHead die.toNat ch.toNat).toNat ≤ (s.chTail die.toNat ch.toNat - s.chHead die.toNat ch.toNat).toNat) :
    exec (.chnPosHeadWrite die ch head) s = .next (s.setFld (R.chnPos die.toNat ch.toNat) 63 32 head.toNat) :=
  if_neg (fun hn => hn.elim (fun h1 => h1 h0) (fun h1 => Nat.not_lt.mpr h h1))

theorem State.setFld_chmsgs (s : State) (a hi lo v : Nat) : (s.setFld a hi lo v).chmsgs = s.chmsgs := rfl
theorem State.dealerSees_chmsgs (s : State) (d : Nat) : (s.dealerSees d).chmsgs = s.chmsgs := by
  rw [State.dealerSees_eq, State.setReg_chmsgs]

theorem orphan_open {d c : Nat} (h : s.chState d c = 1) (hm : s.chmsgs = []) :
    s.orphan d c = (s.setFld (R.chnPeer d c) 26 25 2).dealerSees d := by
  unfold State.orphan
  refine (if_neg (fun hn => hn.1 h)).trans ?_
  extract_lets s1
  have hm1 : s1.chmsgs = [] := (State.dealerSees_chmsgs _ _).trans ((State.setFld_chmsgs s _ _ _ _).trans hm)
  rw [hm1]
  rfl

/-- The check of a steward core's send. -/
def State.coreSendCheck (s : State) (core : Nat) (handle : BitVec 16) : Except Code (Nat × Nat) :=
  s.sendCheck (handle.setWidth 64) (s.reg (R.syncPtmo core)).toNat 65528
    (fun die ch => s.chOfCore core die ch || (s.chSkind die ch && s.running (s.chSender die ch % 256)))

variable {core : Nat} {handle : BitVec 16}

theorem exec_stewardChannelSend_busy (h : s.portOpen core = false) : exec (.stewardChannelSend core handle) s = .next s :=
  if_pos (by rw [h]; exact Bool.false_ne_true)

theorem exec_stewardChannelSend_open (h : s.portOpen core = true) : exec (.stewardChannelSend core handle) s =
    match s.coreSendCheck core handle with
    | .error e => .next (s.setPres core e true)
    | .ok (die, ch) =>
      if s.chState die ch = 2 then .next ((s.setPres core K.orphan true).countOrphan die ch)
      else
        let a := (s.reg (R.syncPval core)).toNat
        let n := (s.reg (R.syncPtmo core)).toNat
        let u := s.readBlocks (s.chTable die ch) (blocksOf a n)
        if u.spoilt a n then .next (u.setPres core K.eMemUncorrectable true)
        else .next { u.setPres core 0 false with
          chmsgs := u.chmsgs ++ [⟨die, ch, .core core, s.chTable die ch, u.ecmd (s.chTable die ch), s.decN a n, false, 0, false⟩] } :=
  if_neg (not_not_intro h)

end

/-- Settles O36. -/
theorem channels : Obligations.Channels := by
  unfold Obligations.Channels
  intro s die ch m head core handle d c on place publish fits
  refine ⟨fun base l2 reader sender skind hm hs h12 h24 ha hf => exec_channelOpen hm hs h12 h24 ha hf,
    fun skip off rt hm ho hp hs hf => ?_, fun hm ho hp hs hf => ?_, fun hm ho hp hs hk => ?_, fun hm ho hk hc => ?_,
    fun hm ho hs => ⟨fun hp => ?_, fun hp hk => ?_⟩, exec_chnPosHeadWrite, exec_chnPosHeadWrite_ignored,
    fun hs hm => next_congr (orphan_open hs hm), fun d' c' ho hc => ⟨fun hs => ?_, fun hs => ?_⟩, fun e ho hc => ?_,
    exec_stewardChannelSend_busy⟩
  · have h1 : OneOn s die ch m := ⟨hm, ho.1, ho.2⟩
    refine (h1.place hp).trans (next_congr ((h1.placed hp hs).trans ?_))
    rw [show placeMsg _ _ _ _ = _ from hf]
  · have h1 : OneOn s die ch m := ⟨hm, ho.1, ho.2⟩
    refine (h1.place hp).trans (next_congr ((h1.placed hp hs).trans ?_))
    rw [show placeMsg _ _ _ _ = _ from hf]
  · have h1 : OneOn s die ch m := ⟨hm, ho.1, ho.2⟩
    exact h1.publish.trans ((if_neg (fun hn => hk.elim (fun hk => Bool.false_ne_true (hk.symm.trans hn.1)) hn.2)).trans
      (next_congr (h1.published hp hs)))
  · have h1 : OneOn s die ch m := ⟨hm, ho.1, ho.2⟩
    exact h1.publish.trans (if_pos ⟨hk, by rw [hc]; exact Bool.false_ne_true⟩)
  · have h1 : OneOn s die ch m := ⟨hm, ho.1, ho.2⟩
    exact (h1.place hp).trans (next_congr ((h1.dropped hp hs).trans (h1.drop.trans (if_neg (by rw [hp]; exact Bool.false_ne_true)))))
  · have h1 : OneOn s die ch m := ⟨hm, ho.1, ho.2⟩
    exact h1.publish.trans ((if_neg (fun hn => hk.elim (fun hk => Bool.false_ne_true (hk.symm.trans hn.1)) hn.2)).trans
      (next_congr ((h1.orphaned hp hs).trans (h1.drop.trans (if_pos hp)))))
  · refine (exec_stewardChannelSend_open ho).trans ?_
    rw [show s.coreSendCheck core handle = .ok (d', c') from hc]
    exact if_pos hs
  · intro a n u hu
    refine (exec_stewardChannelSend_open ho).trans ?_
    rw [show s.coreSendCheck core handle = .ok (d', c') from hc]
    exact (if_neg hs).trans (if_neg (by rw [show u.spoilt a n = false from hu]; exact Bool.false_ne_true))
  · refine (exec_stewardChannelSend_open ho).trans ?_
    rw [show s.coreSendCheck core handle = .error e from hc]

end Sys2Proof.Machine

/-! SUPPORT. Deals and scans (R350 to R357): each command from a table's state. -/

namespace Sys2Proof.Machine

open Sys2Proof

section
variable {s : State} {t : Nat}

theorem not_of_eq_false {b : Bool} (h : b = false) : ¬ b = true := by
  rw [h]
  exact Bool.false_ne_true

/-- A table that takes a request. -/
def State.takesReq (s : State) (t : Nat) : Prop := s.tvalid t = true ∧ s.tbusy t = false

theorem State.takesReq.guard (h : s.takesReq t) : ¬ (¬ s.tvalid t = true ∨ s.tbusy t = true) :=
  fun hn => hn.elim (fun h1 => h1 h.1) (not_of_eq_false h.2)

/-- A deal request that is taken waits. -/
def State.dealWaits (s : State) (t : Nat) (img : BitVec 12) : State :=
  (((s.setRes t 0 true).setTstate t 1).updTbl t (fun x => { x with deal := .wait img.toNat })).homeSees t

theorem exec_tblReqDeal_refused {img : BitVec 12} (h : s.takesReq t)
    (hr : s.tstate t = 3 ∨ s.tstate t = 4 ∨ (s.running t = false ∧ s.mayAutoStart t = false)) :
    exec (.tblReqDeal t img) s = .next (s.setRes t K.eTblState false) :=
  (if_neg h.guard).trans (if_pos (hr.imp id (fun h1 => h1.imp id (fun h2 => ⟨not_of_eq_false h2.1, not_of_eq_false h2.2⟩))))

theorem exec_tblReqDeal_running {img : BitVec 12} (h : s.takesReq t) (h3 : s.tstate t ≠ 3) (h4 : s.tstate t ≠ 4) (hr : s.running t = true) :
    exec (.tblReqDeal t img) s = .next (s.dealWaits t img) := by
  refine (if_neg h.guard).trans ((if_neg ?_).trans ?_)
  · rintro (h1 | h1 | h1)
    · exact h3 h1
    · exact h4 h1
    · exact h1.1 hr
  · rw [if_pos hr]
    rfl

theorem exec_tblReqDeal_starts {img : BitVec 12} (h : s.takesReq t) (h3 : s.tstate t ≠ 3) (h4 : s.tstate t ≠ 4) (hr : s.running t = false)
    (ha : s.mayAutoStart t = true) : exec (.tblReqDeal t img) s = .next ((s.startCmd t ownStart).dealWaits t img) := by
  refine (if_neg h.guard).trans ((if_neg ?_).trans ?_)
  · rintro (h1 | h1 | h1)
    · exact h3 h1
    · exact h4 h1
    · exact h1.2 ha
  · rw [if_neg (not_of_eq_false hr)]
    rfl

theorem exec_tblReqDeal_ignored {img : BitVec 12} (h : s.tvalid t = false ∨ s.tbusy t = true) : exec (.tblReqDeal t img) s = .next s :=
  if_pos (h.imp not_of_eq_false id)

theorem scanReq_taken {allowed dir : Bool} (h : s.takesReq t) (hr : s.running t = false) (ha : allowed = true) :
    s.scanReq t allowed dir = (s.setRes t 0 true).updTbl t (fun x => { x with scan := some dir }) :=
  (if_neg h.guard).trans (if_neg (fun hn => hn.elim (fun h1 => h1 ha) (not_of_eq_false hr)))

theorem scanReq_refused {allowed dir : Bool} (h : s.takesReq t) (hr : s.running t = true ∨ allowed = false) :
    s.scanReq t allowed dir = s.setRes t K.eTblState false :=
  (if_neg h.guard).trans (if_pos (hr.symm.imp not_of_eq_false id))

theorem exec_tblReqResume_refused (h : s.takesReq t) (h6 : s.tstate t ≠ 6) :
    exec (.tblReqResume t) s = .next (s.setRes t K.eTblState false) := (if_neg h.guard).trans (if_pos h6)

theorem exec_tblReqResume (h : s.takesReq t) (h6 : s.tstate t = 6) :
    let s1 := if s.mayAutoStart t then s.startCmd t ownStart else s.updTbl t (fun x => { x with scanned := true })
    exec (.tblReqResume t) s = .next (((s1.setRes t 0 false).setTstate t 2).homeSees t) := (if_neg h.guard).trans (if_neg (not_not_intro h6))

theorem exec_tblReqResume_ignored (h : s.tvalid t = false ∨ s.tbusy t = true) : exec (.tblReqResume t) s = .next s :=
  if_pos (h.imp not_of_eq_false id)

theorem exec_dealCheck_waits {i : Nat} (hw : (s.tbl t).deal = .wait i) (hd : s.drained t = false) : exec (.dealCheck t) s = .next s := by
  change execDealCheck t s = _
  unfold execDealCheck
  rw [hw]
  exact if_pos (not_of_eq_false hd)

theorem exec_dealCheck {i : Nat} {s1 : State} {ok : Bool} (hw : (s.tbl t).deal = .wait i) (hd : s.drained t = true)
    (hr : s.readImgs t i = (s1, ok)) : exec (.dealCheck t) s =
    if ¬ ok = true then .next ((s1.failNow t K.eMemUncorrectable).settleJob t)
    else match s1.checkAll t i (s1.tableIsls t) with
      | .error c => .next ((s1.failNow t c).settleJob t)
      | .ok l => .next (s1.updTbl t (fun x => { x with deal := .go l })) := by
  change execDealCheck t s = _
  unfold execDealCheck
  rw [hw]
  refine (if_neg (not_not_intro hd)).trans ?_
  rw [hr] <;> rfl

theorem exec_dealGo {l : List IslImg} (hg : (s.tbl t).deal = .go l) :
    let s1 := s.discardTable t
    exec (.dealGo t) s =
      if (s.tbl t).dealt = true ∧ s1.uncleanSum t ≠ 0 then .next ((s1.failNow t K.eUncleanExit).settleJob t)
      else .next (((s1.tableIsls t).foldl (fun s i => s.clearIsl i) (s1.nextEpoch t)).updTbl t
        (fun x => { x with deal := .load l, dealt := true })) := by
  change execDealGo t s = _
  unfold execDealGo
  rw [hg]

/-- An island of a load has started; r is what is left to load. -/
theorem exec_dealLoadDone {i : Nat} {l : List IslImg} {y : IslImg} (ht : (s.isl i).table = t) (hl : (s.tbl t).deal = .load l)
    (hf : l.find? (fun x => x.isl == i) = some y) :
    let r := l.filter (fun x => x.isl != i)
    let s1 := (s.loadIsl y).updTbl t (fun z => { z with deal := .load r })
    exec (.dealLoadDone i) s = if r.isEmpty = true then .next (s1.dealOver t) else .next s1 := by
  change execDealLoadDone i s = _
  unfold execDealLoadDone
  dsimp only
  rw [ht, hl]
  dsimp only
  rw [hf]

section
variable {i : Nat} (hi : s.tableIsls t = [i]) (hb : s.badBlocks (s.scanBase t) 0x400000 = [])
include hi hb

/-- A scan of a table of one island whose record holds no upset. -/
theorem exec_stateScanDone_out (hs : (s.tbl t).scan = some false) : exec (.stateScanDone t) s =
    .next (((s.scanOutIsl i (s.scanBase t)).setRes t 0 false).updTbl t (fun x => { x with scan := none })) := by
  change execStateScanDone t s = _
  simp only [execStateScanDone, hs, hi, List.length_singleton, Nat.mul_one, hb, Bool.false_eq_true, false_and, if_false, List.range_one,
    List.foldl_cons, List.foldl_nil, List.getElem?_cons_zero, Option.getD_some, Nat.mul_zero, Nat.add_zero]

theorem exec_stateScanDone_in (hs : (s.tbl t).scan = some true) : exec (.stateScanDone t) s =
    .next (((((s.scanInIsl i (s.scanBase t)).setTstate t 6).noteMelds).setRes t 0 false).updTbl t (fun x => { x with scan := none })) := by
  have hr : s.readBlocks t [] = s := rfl
  change execStateScanDone t s = _
  simp only [execStateScanDone, hs, hi, List.length_singleton, Nat.mul_one, hb, hr, if_true, List.any_nil, Bool.false_eq_true, and_false,
    if_false, List.range_one, List.foldl_cons, List.foldl_nil, List.getElem?_cons_zero, Option.getD_some, Nat.mul_zero, Nat.add_zero]

end

end

/-- Settles O42. -/
theorem dealsAndScans : Obligations.DealsAndScans := by
  unfold Obligations.DealsAndScans
  intro s t img x base refused waiting deal resume
  refine ⟨fun hv hb => ?_, fun h => ⟨exec_tblReqDeal_ignored h, exec_tblReqResume_ignored h⟩, fun i s1 ok hw hd hr => ⟨fun ho => ?_,
    fun l ho hk => ?_, fun c ho hk => ?_⟩, fun i hw hd => exec_dealCheck_waits hw hd, fun l hg => ⟨fun h => ?_, fun h1 h2 => ?_⟩,
    fun i y ht hl hy => ?_, fun i y z ht hl hy hz => ?_, fun i hi hb => ⟨exec_stateScanDone_out hi hb, exec_stateScanDone_in hi hb⟩⟩
  · have h : s.takesReq t := ⟨hv, hb⟩
    refine ⟨exec_tblReqDeal_running h, exec_tblReqDeal_starts h, exec_tblReqDeal_refused h, fun hr hs => next_congr (scanReq_taken h hr ?_),
      fun hr hs => next_congr (scanReq_taken h hr ?_), fun hs => next_congr (scanReq_refused h (hs.imp id ?_)),
      fun hs => next_congr (scanReq_refused h (hs.imp id ?_)), fun h6 ha => ?_, fun h6 ha => ?_, exec_tblReqResume_refused h⟩
    · simpa [or_assoc] using hs
    · simpa using hs
    · rintro ⟨h0, h5, h6⟩
      simp [h0, h5, h6]
    · exact fun h0 => by simpa using h0
    · refine (exec_tblReqResume h h6).trans ?_
      rw [if_pos ha]
    · refine (exec_tblReqResume h h6).trans ?_
      rw [if_neg (not_of_eq_false ha)]
  · exact (exec_dealCheck hw hd hr).trans (if_pos (not_of_eq_false ho))
  · refine (exec_dealCheck hw hd hr).trans ((if_neg (not_not_intro ho)).trans ?_)
    rw [hk]
  · refine (exec_dealCheck hw hd hr).trans ((if_neg (not_not_intro ho)).trans ?_)
    rw [hk]
  · exact (exec_dealGo hg).trans (if_neg (fun hn => h.elim (fun h1 => not_of_eq_false h1 hn.1) hn.2))
  · exact (exec_dealGo hg).trans (if_pos ⟨h1, h2⟩)
  · have h1 := exec_dealLoadDone (y := y) ht hl (by simp [hy])
    refine h1.trans ?_
    simp [hy]
  · have h1 := exec_dealLoadDone (y := y) ht hl (by simp [hy])
    refine h1.trans ?_
    simp [hy, hz]

end Sys2Proof.Machine

/-! SUPPORT. Sessions and their timers (R410, R411, R413, R415). -/

namespace Sys2Proof.Machine

open Sys2Proof

section
variable {s : State} {h : Hdr} {nonce : Word} {mgmt : Bool} {keep linger rto : BitVec 16} {n : Nat}

/-- The session of R413 that the opening repeats. -/
def openedBy (h : Hdr) (nonce : Word) (y : Nat × Sess) : Bool :=
  y.2.nonce == nonce && y.2.port == h.port && y.2.src == h.src && y.2.udp == h.udp

/-- Main firmware runs and the port is up. -/
def State.hears (s : State) (port : BitVec 1) : Prop := s.mainRuns = true ∧ s.portUp port = true

theorem exec_sessionOpen_deaf (hn : ¬ s.hears h.port) : exec (.sessionOpen h nonce mgmt keep linger rto) s = .next s := if_pos hn

theorem exec_sessionOpen_dropped (hr : s.hears h.port) (ho : ¬ (h.session = 0xFFFF ∧ h.cookie = 0)) :
    exec (.sessionOpen h nonce mgmt keep linger rto) s = .next (s.tuDrop h.port) :=
  (if_neg (not_not_intro hr)).trans (if_pos (Classical.not_and_iff_not_or_not.mp ho))

/-- An opening outside a session: what is left to look at. -/
theorem exec_sessionOpen_outside (hr : s.hears h.port) (hs : h.session = 0xFFFF) (hc : h.cookie = 0) :
    exec (.sessionOpen h nonce mgmt keep linger rto) s = match s.sess.find? (openedBy h nonce) with
      | some x => .next (s.resultOut h.port h.src h.udp h.seq x.2.opened)
      | none =>
        if 60000 < keep.toNat ∨ 3600 < linger.toNat ∨ (0 < rto.toNat ∧ rto.toNat < 20) then
          .next (s.resultOut h.port h.src h.udp h.seq (resultMsg h.seq K.eHostFormat []))
        else match (List.range 256).find? (fun k => (s.session k).isNone) with
          | none => .next (s.resultOut h.port h.src h.udp h.seq (resultMsg h.seq K.eHostSessions []))
          | some k =>
            if mgmt ∧ ¬ s.mgmtPort h.port then .next (s.resultOut h.port h.src h.udp h.seq (resultMsg h.seq K.eHostPriv []))
            else .next (s.openSession h k nonce mgmt keep.toNat linger.toNat rto.toNat) :=
  (if_neg (not_not_intro hr)).trans ((if_neg (fun hn => hn.elim (fun h1 => h1 hs) (fun h1 => h1 hc))).trans rfl)

theorem fields_bad {keep linger rto : BitVec 16} : ¬ (keep.toNat ≤ 60000 ∧ linger.toNat ≤ 3600 ∧ (rto = 0 ∨ 20 ≤ rto.toNat)) ↔
    60000 < keep.toNat ∨ 3600 < linger.toNat ∨ (0 < rto.toNat ∧ rto.toNat < 20) := by
  have h0 : rto = 0 ↔ rto.toNat = 0 := BitVec.toNat_eq
  rw [h0]
  omega

theorem zero_toNat {a : Nat} (w : BitVec 16) : (if w.toNat = 0 then a else w.toNat) = if w = 0 then a else w.toNat := by
  simp [BitVec.toNat_eq]

/-- What an opening leaves (R413). -/
theorem openSession_leaves (s : State) (h : Hdr) (k : Nat) (nonce : Word) (mgmt : Bool) (keep linger rto : BitVec 16) :
    ∃ t y, s.openSession h k nonce mgmt keep.toNat linger.toNat rto.toNat = t ∧ t.sess = s.sess ++ [(k, y)] ∧ y.nonce = nonce ∧
      y.mgmt = mgmt ∧ y.port = h.port ∧ y.src = h.src ∧ y.udp = h.udp ∧ y.expect = 0 ∧ y.linger = linger.toNat ∧
      y.keep = (if keep = 0 then 1000 else keep.toNat) ∧ y.rto = (if rto = 0 then 200 else rto.toNat) ∧
      y.opened = resultMsg h.seq 0 (s.openFields k y.cookie h.port) ∧
      t.out = s.out ++ [.hostless h.port h.src h.udp h.seq y.opened] ∧ t.regs = s.regs ∧ t.mem = s.mem :=
  ⟨_, _, rfl, rfl, rfl, rfl, rfl, rfl, rfl, rfl, rfl, zero_toNat keep, zero_toNat rto, rfl, rfl, rfl, rfl⟩

theorem exec_ack_deaf (hn : ¬ s.hears h.port) : exec (.ack h) s = .next s := if_pos hn

theorem exec_ack (hr : s.hears h.port) : exec (.ack h) s = match s.sessOf h with
    | none => .next (s.tuDrop h.port)
    | some _ => .next ((s.updSess h.session.toNat (fun y => { y with heard := s.gtime })).hostAck h.session.toNat h.ack) :=
  if_neg (not_not_intro hr)

variable {x : Sess} {seq : BitVec 32}

theorem exec_deviceAckTimer (hx : s.session n = some x) : exec (.deviceAckTimer n) s =
    if x.ackDue = true then .next (s.sendAck n) else .next s := by
  change execDeviceAckTimer n s = _
  unfold execDeviceAckTimer
  rw [hx]

theorem sendAck_eq (hx : s.session n = some x) : s.sendAck n =
    { s.updSess n (fun z => { z with ackDue := false }) with out := s.out ++ [.host n x.next (x.expect - 1) ⟨0x10, []⟩] } := by
  unfold State.sendAck
  rw [hx]

theorem exec_messageResend_none (hx : s.session n = some x) (hu : x.unacked.find? (fun u => u.seq == seq) = none) :
    exec (.messageResend n seq) s = .next s := by
  change execMessageResend n seq s = _
  unfold execMessageResend
  rw [hx]
  dsimp only
  rw [hu]

theorem exec_messageResend {u : Unacked} (hx : s.session n = some x) (hu : x.unacked.find? (fun u => u.seq == seq) = some u) :
    let st := s.until (u.sent + BitVec.ofNat 64 (1000 * x.rto * 2 ^ min 6 u.resends))
    let s0 := { st with out := st.out ++ [Out.host n u.seq (x.expect - 1) u.msg] }
    let s1 := s0.updSess n (fun y =>
      { y with
        ackDue := false
        unacked := y.unacked.map (fun (v : Unacked) => if v.seq = seq then { v with resends := v.resends + 1, sent := s0.gtime } else v) })
    exec (.messageResend n seq) s = if 16 ≤ u.resends + 1 then .next (s1.loseSession n) else .next s1 := by
  change execMessageResend n seq s = _
  unfold execMessageResend
  rw [hx]
  dsimp only
  rw [hu]

theorem exec_reassemblyTimeout (hx : s.session n = some x) : exec (.reassemblyTimeout n seq) s =
    match x.parts.find? (fun p => p.seq == seq) with
    | none => .next s
    | some p => .next ((s.until (p.since + 100000000)).updSess n (fun y => { y with parts := y.parts.filter (fun q => q.seq != seq) })) := by
  change execReassemblyTimeout n seq s = _
  unfold execReassemblyTimeout
  rw [hx] <;> rfl

theorem exec_sessionLost (hx : s.session n = some x) :
    exec (.sessionLost n) s = .next ((s.until (x.heard + BitVec.ofNat 64 (3 * x.keep * 1000000))).loseSession n) := by
  change execSessionLost n s = _
  unfold execSessionLost
  rw [hx]

theorem sessionTimers_none (hx : s.session n = none) : exec (.deviceAckTimer n) s = .next s ∧ exec (.messageResend n seq) s = .next s ∧
    exec (.reassemblyTimeout n seq) s = .next s ∧ exec (.sessionLost n) s = .next s := by
  change execDeviceAckTimer n s = _ ∧ execMessageResend n seq s = _ ∧ execReassemblyTimeout n seq s = _ ∧ execSessionLost n s = _
  unfold execDeviceAckTimer execMessageResend execReassemblyTimeout execSessionLost
  rw [hx]
  exact ⟨rfl, rfl, rfl, rfl⟩

theorem exec_lingerExpiry {j : Job} (hj : s.job n = some j) : exec (.lingerExpiry n) s =
    if j.session.isSome = true ∨ j.ending = true then .next s
    else .next ((s.until (j.detachedAt + BitVec.ofNat 64 (j.linger * 1000000000))).endJob n) := by
  change execLingerExpiry n s = _
  unfold execLingerExpiry
  rw [hj]

theorem exec_lingerExpiry_none (hj : s.job n = none) : exec (.lingerExpiry n) s = .next s := by
  change execLingerExpiry n s = _
  unfold execLingerExpiry
  rw [hj]

end

/-- Settles O48. -/
theorem hostSessions : Obligations.HostSessions := by
  unfold Obligations.HostSessions
  intro s h nonce mgmt keep linger rto n seq open_ runs outside same fieldsOk privOk refused slot
  refine ⟨fun hn => ⟨exec_sessionOpen_deaf hn, exec_ack_deaf hn⟩, fun hr ho => exec_sessionOpen_dropped hr (fun hs => ho ⟨hr, hs⟩),
    fun y ho hy => ?_, fun ho hy hf => ?_, fun ho hy hf hs => ?_, fun k ho hy hf hs hp => ?_, fun k ho hy hf hs hp => ?_,
    fun y hr hy => ?_, fun hr hy => ?_, fun y hy => ?_, sessionTimers_none, fun j hj hs he => ?_, fun j hj hs => ?_, exec_lingerExpiry_none⟩
  · obtain ⟨hr, hs, hc⟩ := ho
    refine (exec_sessionOpen_outside hr hs hc).trans ?_
    rw [show s.sess.find? (openedBy h nonce) = _ from hy]
  · obtain ⟨hr, hs, hc⟩ := ho
    refine (exec_sessionOpen_outside hr hs hc).trans ?_
    rw [show s.sess.find? (openedBy h nonce) = _ from hy]
    exact if_pos (fields_bad.mp hf)
  · obtain ⟨hr, ho, hc⟩ := ho
    refine (exec_sessionOpen_outside hr ho hc).trans ?_
    rw [show s.sess.find? (openedBy h nonce) = _ from hy]
    refine (if_neg (fun hb => fields_bad.mpr hb hf)).trans ?_
    rw [show (List.range 256).find? (fun k => (s.session k).isNone) = _ from hs]
  · obtain ⟨hr, ho, hc⟩ := ho
    refine (exec_sessionOpen_outside hr ho hc).trans ?_
    rw [show s.sess.find? (openedBy h nonce) = _ from hy]
    refine (if_neg (fun hb => fields_bad.mpr hb hf)).trans ?_
    rw [show (List.range 256).find? (fun k => (s.session k).isNone) = _ from hs]
    refine if_pos ?_
    simpa [privOk] using hp
  · obtain ⟨hr, ho, hc⟩ := ho
    obtain ⟨t, y, ht, hrest⟩ := openSession_leaves s h k nonce mgmt keep linger rto
    refine ⟨t, y, ?_, hrest⟩
    refine (exec_sessionOpen_outside hr ho hc).trans ?_
    rw [show s.sess.find? (openedBy h nonce) = _ from hy]
    refine (if_neg (fun hb => fields_bad.mpr hb hf)).trans ?_
    rw [show (List.range 256).find? (fun k => (s.session k).isNone) = _ from hs]
    refine (if_neg ?_).trans (next_congr ht)
    rintro ⟨hm, hb⟩
    exact hp.elim (fun h1 => not_of_eq_false h1 hm) hb
  · refine (exec_ack hr).trans ?_
    rw [hy]
  · refine (exec_ack hr).trans ?_
    rw [hy]
  · refine ⟨fun ha => ?_, fun ha => ?_, fun u hu => ⟨fun hc => ?_, fun hc => ?_⟩, fun hu => exec_messageResend_none hy hu, fun p hp => ?_,
      fun hp => ?_, exec_sessionLost hy⟩
    · exact (exec_deviceAckTimer hy).trans ((if_pos ha).trans (next_congr (sendAck_eq hy)))
    · exact (exec_deviceAckTimer hy).trans (if_neg (not_of_eq_false ha))
    · exact (exec_messageResend hy hu).trans (if_neg (by omega))
    · exact (exec_messageResend hy hu).trans (if_pos (by omega))
    · refine (exec_reassemblyTimeout hy).trans ?_
      rw [hp]
    · refine (exec_reassemblyTimeout hy).trans ?_
      rw [hp]
  · exact (exec_lingerExpiry hj).trans (if_neg (by simp [hs, he]))
  · refine (exec_lingerExpiry hj).trans (if_pos (hs.imp (fun h1 => ?_) id))
    exact Option.isSome_iff_ne_none.mpr h1

end Sys2Proof.Machine

/-! SUPPORT. The order of a session's requests (R409, R410). -/

namespace Sys2Proof.Machine

open Sys2Proof

section
variable {s : State} {h : Hdr} {r : HReq}

theorem hostMsg_deaf (hn : ¬ s.hears h.port) : s.hostMsg h r = s := if_pos hn

theorem hostMsg_stranger (hr : s.hears h.port) (hs : s.sessOf h = none) : s.hostMsg h r = s.tuDrop h.port := by
  unfold State.hostMsg
  refine (if_neg (not_not_intro hr)).trans ?_
  rw [hs]

/-- A message of a session has been heard, and acknowledges. -/
def State.heard (s : State) (h : Hdr) : State :=
  (s.updSess h.session.toNat (fun z => { z with heard := s.gtime })).hostAck h.session.toNat h.ack

theorem hostMsg_session {x : Sess} (hr : s.hears h.port) (hs : s.sessOf h = some x) :
    let d := (h.seq - x.expect).toNat
    s.hostMsg h r =
      if x.closing.isSome = true then s.heard h
      else if d = 0 then (s.heard h).handOn 65 h.session.toNat h.seq r
      else if d < 64 then (s.heard h).updSess h.session.toNat (fun z =>
        { z with ackDue := true, early := if z.early.any (fun e => e.1 == h.seq) then z.early else z.early ++ [(h.seq, r)] })
      else if 2 ^ 31 ≤ d then (s.heard h).hostAgain h.session.toNat h.seq
      else s.heard h := by
  unfold State.hostMsg
  refine (if_neg (not_not_intro hr)).trans ?_
  rw [hs]
  rfl

/-- How a session's message is met (the rule of the statement, for the state that hostMsg leaves). -/
theorem hostMsg_rule {x : Sess} (hr : s.hears h.port) (hs : s.sessOf h = some x) :
    let d := (h.seq - x.expect).toNat
    (x.closing ≠ none → s.hostMsg h r = s.heard h) ∧
    (x.closing = none → d = 0 → s.hostMsg h r = (s.heard h).handOn 65 h.session.toNat h.seq r) ∧
    (x.closing = none → 0 < d → d < 64 → s.hostMsg h r = (s.heard h).updSess h.session.toNat (fun z =>
      { z with ackDue := true, early := if z.early.any (fun e => e.1 == h.seq) then z.early else z.early ++ [(h.seq, r)] })) ∧
    (x.closing = none → 64 ≤ d → d < 2 ^ 31 → s.hostMsg h r = s.heard h) ∧
    (x.closing = none → 2 ^ 31 ≤ d → s.hostMsg h r = (s.heard h).hostAgain h.session.toNat h.seq) := by
  intro d
  have hm := hostMsg_session (r := r) hr hs
  have hopen : x.closing = none → ¬ x.closing.isSome = true := fun hc => by rw [hc]; exact Bool.false_ne_true
  refine ⟨fun hc => hm.trans (if_pos (Option.isSome_iff_ne_none.mpr hc)), fun hc hd => ?_, fun hc h0 hd => ?_, fun hc h64 hd => ?_, fun hc hd => ?_⟩
  · exact hm.trans ((if_neg (hopen hc)).trans (if_pos hd))
  · exact hm.trans ((if_neg (hopen hc)).trans ((if_neg (Nat.ne_of_gt h0)).trans (if_pos hd)))
  · exact hm.trans ((if_neg (hopen hc)).trans ((if_neg (by omega)).trans ((if_neg (Nat.not_lt.mpr h64)).trans (if_neg (Nat.not_le.mpr hd)))))
  · exact hm.trans ((if_neg (hopen hc)).trans ((if_neg (by omega)).trans ((if_neg (by omega)).trans (if_pos hd))))

/-- A request is handed on with those that wait behind it. -/
theorem handOn_succ (t : State) (f k : Nat) (seq : BitVec 32) (r : HReq) :
    let u := (t.updSess k (fun y => { y with expect := seq + 1, ackDue := true })).handle k seq r
    t.handOn (f + 1) k seq r = match u.session k with
      | none => u
      | some y =>
        if y.closing.isSome then u
        else match y.early.find? (fun e => e.1 == y.expect) with
          | none => u
          | some (q, r') => (u.updSess k (fun y => { y with early := y.early.filter (fun e => e.1 != q) })).handOn f k q r' := rfl

end

/-- Settles O49. -/
theorem hostRequests : Obligations.HostRequests := by
  unfold Obligations.HostRequests
  intro s h n heard rule
  have hrule : ∀ r, rule r (.next (s.hostMsg h r)) := by
    intro r
    refine ⟨fun hn => next_congr (hostMsg_deaf hn), fun hm hp hs => next_congr (hostMsg_stranger ⟨hm, hp⟩ hs), fun x hm hp hs => ?_⟩
    obtain ⟨h1, h2, h3, h4, h5⟩ := hostMsg_rule (r := r) ⟨hm, hp⟩ hs
    exact ⟨fun hc => next_congr (h1 hc), fun hc hd => next_congr (h2 hc hd), fun hc h0 hd => next_congr (h3 hc h0 hd),
      fun hc h0 hd => next_congr (h4 hc h0 hd), fun hc hd => next_congr (h5 hc hd)⟩
  refine ⟨?_, fun _ => hrule _, hrule _, fun _ _ _ _ _ _ => hrule _,
    fun _ _ => hrule _, fun _ _ _ _ _ _ => hrule _, fun _ => hrule _, fun _ _ _ _ => hrule _, fun _ => hrule _, fun _ _ _ => hrule _,
    fun _ => hrule _, fun _ _ => hrule _, fun _ => hrule _, fun _ _ => hrule _, fun _ _ _ _ _ => hrule _⟩
  intro t f k seq r u
  refine ⟨fun y hy hc he => ?_, fun y q r' hy hc he => ?_, fun hy => ?_⟩
  · refine (handOn_succ t f k seq r).trans ?_
    rw [show State.session _ k = some y from hy]
    dsimp only
    rw [hc, if_neg (by simp), he]
  · refine (handOn_succ t f k seq r).trans ?_
    rw [show State.session _ k = some y from hy]
    dsimp only
    rw [hc, if_neg (by simp), he]
  · refine (handOn_succ t f k seq r).trans ?_
    rw [show State.session _ k = none from hy]

end Sys2Proof.Machine

/-! SUPPORT. What each request of a session does (R412 to R427, R458, R462). -/

namespace Sys2Proof.Machine

open Sys2Proof

section
variable {s : State} {n : Nat} {seq : BitVec 32} {x : Sess}

/-! ### Sessions -/

theorem find_updSess {l : List (Nat × Sess)} {f : Sess → Sess} {y : Nat × Sess} (h : l.find? (fun z => z.1 == n) = some y) :
    (l.map (fun z => if z.1 = n then (n, f z.2) else z)).find? (fun z => z.1 == n) = some (n, f y.2) := by
  induction l with
  | nil => exact absurd h (by simp)
  | cons z l ih =>
    rw [List.find?_cons] at h
    by_cases hz : z.1 = n
    · simp only [hz, beq_self_eq_true, Option.some.injEq] at h
      subst h
      rw [List.map_cons, if_pos hz]
      exact List.find?_cons_of_pos (beq_self_eq_true n)
    · simp only [beq_eq_false_iff_ne.mpr hz] at h
      simpa [hz] using ih h

theorem session_updSess (h : s.session n = some x) (f : Sess → Sess) : (s.updSess n f).session n = some (f x) := by
  unfold State.session at h ⊢
  obtain ⟨y, hy, rfl⟩ := Option.map_eq_some_iff.mp h
  exact Option.map_eq_some_iff.mpr ⟨_, find_updSess hy, rfl⟩

/-- A RESULT goes out at once while there is room for its number. -/
theorem result_out (h : s.session n = some x) (hu : x.unacked.length < 64) (code : Code) (fields : List Byte) :
    (s.result n seq code fields).out = s.out ++ [.host n x.next (x.expect - 1) (resultMsg seq code fields)] := by
  unfold State.result State.sendDev
  dsimp only
  rw [session_updSess h]
  dsimp only
  rw [if_neg (Nat.not_le.mpr hu)]
  rfl

/-- A close that ends its jobs is answered at once when there are none. -/
theorem closeSession_free (h : s.session n = some x) (hj : ∀ j ∈ s.jobs, j.session ≠ some n) :
    s.closeSession n seq false = ((s.updSess n (fun y => { y with closing := some seq })).result n seq 0 []).dropSession n := by
  have hf : s.jobs.filter (fun j => j.session == some n) = [] := List.filter_eq_nil_iff.mpr (fun j hm => by simpa using hj j hm)
  have ha : s.jobs.any (fun j => j.session == some n) = false := List.any_eq_false.mpr (fun j hm => by simpa using hj j hm)
  unfold State.closeSession State.closeDone
  simp only [Bool.false_eq_true, if_false]
  rw [show (s.updSess n (fun y => { y with closing := some seq })).jobs = s.jobs from rfl, hf, List.foldl_nil, session_updSess h]
  dsimp only
  rw [show (s.updSess n (fun y => { y with closing := some seq })).jobs = s.jobs from rfl, ha, if_neg Bool.false_ne_true]

/-! ### Addresses, windows, queue pairs -/

theorem netConfig_eq (h : s.session n = some x) (port kind index plen : BitVec 8) (addr : BitVec 128) (remove : Bool) :
    let a : NetAddr := ⟨port.toNat, kind == 1, if kind = 0 then 0 else index.toNat, plen.toNat, if kind = 0 then addr &&& 0xFFFFFFFF else addr⟩
    let rest := s.nets.filter (fun y => !(y.port == a.port && y.v6 == a.v6 && y.index == a.index))
    s.netConfig n seq port kind index plen addr remove =
      if ¬ x.mgmt = true then s.result n seq K.eHostPriv []
      else if 1 < port.toNat ∨ 1 < kind.toNat ∨ 3 < index.toNat ∨ (if kind = 0 then 32 else 128) < plen.toNat then s.result n seq K.eHostFormat []
      else { s with nets := if remove then rest else rest ++ [a] }.result n seq 0 [] := by
  intro a rest
  unfold State.netConfig
  rw [h]

/-- What R424 refuses of a window. -/
def windowBad (s : State) (n job va len : Nat) (m : BitVec 8) : Prop :=
  va % 0x10000 ≠ 0 ∨ len % 0x10000 ≠ 0 ∨ len = 0 ∨ 1 < m.toNat ∨ 2 ^ 48 < va + len ∨
    1024 ≤ (s.wndws.filter (fun w => w.session == n)).length ∨ (job = 0 ∧ 2 ^ 30 < len)

theorem windowBad_iff (s : State) (n job va len : Nat) (m : BitVec 8) :
    (!pageMult va || !pageMult len || len == 0 || decide (1 < m.toNat) || decide (2 ^ 48 < va + len)
      || decide (1024 ≤ (s.wndws.filter (fun w => w.session == n)).length) || (job == 0 && decide (2 ^ 30 < len))) = true ↔
    windowBad s n job va len m := by
  simp [windowBad, pageMult, or_assoc]

/-- The window that a grant makes; a staging window of job 0 lies where the device chooses and is only written. -/
def State.granted (s : State) (n job va len : Nat) (rd wr : Bool) (m : BitVec 8) : Wndw :=
  { num := s.wndwNext, session := n, job := job, va := if (job == 0) = true then s.fresh.2.fresh.1.toNat % 2 ^ 16 * 2 ^ 31 else va,
    len := len, rd := rd && !(job == 0), wr := wr || (job == 0), wmode := m.toNat, rkey := s.fresh.1.setWidth 32 }

theorem windowGrant_eq (job va len : Nat) (rd wr : Bool) (m : BitVec 8) : s.windowGrant n seq job va len rd wr m =
    if job ≠ 0 ∧ (s.ownJob n job).isNone = true then s.result n seq K.eHostJob []
    else if (!pageMult va || !pageMult len || len == 0 || decide (1 < m.toNat) || decide (2 ^ 48 < va + len)
      || decide (1024 ≤ (s.wndws.filter (fun w => w.session == n)).length) || (job == 0 && decide (2 ^ 30 < len))) = true then
      s.result n seq K.eHostWindow []
    else
      let w := s.granted n job va len rd wr m
      { s.fresh.2.fresh.2 with wndws := s.wndws ++ [w], wndwNext := s.wndwNext + 1 }.result n seq 0
        (leBytes 4 w.num ++ leBytes 4 w.rkey.toNat ++ leBytes 8 w.va) := rfl

theorem windowGrant_granted {job va len : Nat} {rd wr : Bool} {m : BitVec 8} (hj : job = 0 ∨ s.ownJob n job ≠ none)
    (hb : ¬ windowBad s n job va len m) : ∃ (w : Wndw) (u : State), s.windowGrant n seq job va len rd wr m =
      u.result n seq 0 (leBytes 4 w.num ++ leBytes 4 w.rkey.toNat ++ leBytes 8 w.va) ∧ u.wndws = s.wndws ++ [w] ∧
      w.num = s.wndwNext ∧ w.session = n ∧ w.job = job ∧ w.len = len ∧ w.wmode = m.toNat ∧
      (job ≠ 0 → w.va = va ∧ w.rd = rd ∧ w.wr = wr) ∧ (job = 0 → w.rd = false ∧ w.wr = true) := by
  refine ⟨s.granted n job va len rd wr m, { s.fresh.2.fresh.2 with wndws := s.wndws ++ [_], wndwNext := s.wndwNext + 1 },
    (windowGrant_eq job va len rd wr m).trans ((if_neg ?_).trans (if_neg (fun h => hb ((windowBad_iff s n job va len m).mp h)))),
    rfl, rfl, rfl, rfl, rfl, rfl, fun h => ?_, fun h => ?_⟩
  · rintro ⟨h0, h1⟩
    exact hj.elim h0 (fun h2 => h2 (Option.isNone_iff_eq_none.mp h1))
  · simp [State.granted, h]
  · simp [State.granted, h]

theorem any_own_iff {α : Type} {l : List α} {p q : α → Bool} : l.any (fun y => p y && q y) = true ↔ ∃ y ∈ l, p y = true ∧ q y = true := by
  simp [List.any_eq_true]

theorem windowRevoke_own {w : Nat} (h : ∃ y ∈ s.wndws, y.num = w ∧ y.session = n) :
    s.windowRevoke n seq w = { s with wndws := s.wndws.filter (fun y => y.num != w) }.result n seq 0 [] :=
  if_pos (any_own_iff.mpr (h.imp (fun _ hy => ⟨hy.1, beq_iff_eq.mpr hy.2.1, beq_iff_eq.mpr hy.2.2⟩)))

theorem windowRevoke_other {w : Nat} (h : ∀ y ∈ s.wndws, ¬ (y.num = w ∧ y.session = n)) :
    s.windowRevoke n seq w = s.result n seq K.eHostWindow [] :=
  if_neg (fun ha => (any_own_iff.mp ha).elim (fun y hy => h y hy.1 ⟨beq_iff_eq.mp hy.2.1, beq_iff_eq.mp hy.2.2⟩))

theorem qpDestroy_own {q : BitVec 32} (h : ∃ y ∈ s.qps, y.num = q ∧ y.session = n) :
    s.qpDestroy n seq q = { s with qps := s.qps.filter (fun y => y.num != q) }.result n seq 0 [] :=
  if_pos (any_own_iff.mpr (h.imp (fun _ hy => ⟨hy.1, beq_iff_eq.mpr hy.2.1, beq_iff_eq.mpr hy.2.2⟩)))

theorem qpDestroy_other {q : BitVec 32} (h : ∀ y ∈ s.qps, ¬ (y.num = q ∧ y.session = n)) :
    s.qpDestroy n seq q = s.result n seq K.eHostQp [] :=
  if_neg (fun ha => (any_own_iff.mp ha).elim (fun y hy => h y hy.1 ⟨beq_iff_eq.mp hy.2.1, beq_iff_eq.mp hy.2.2⟩))

/-- The queue pair that a request makes. -/
def State.madeQp (s : State) (n : Nat) (x : Sess) (a b : BitVec 32) (gid : BitVec 128) (m : BitVec 8) : Qp :=
  { num := BitVec.ofNat 32 (s.qpNext % 2 ^ 24), session := n, port := x.port, hqpn := a, hpsn := b,
    psn := BitVec.ofNat 32 (s.fresh.1.toNat % 2 ^ 24), gid := gid, pmtu := 1024 * 2 ^ m.toNat, rate := s.portRate x.port }

theorem qpCreate_eq (h : s.session n = some x) (a b : BitVec 32) (gid : BitVec 128) (m : BitVec 8) : s.qpCreate n seq a b gid m =
    if 2 ^ 24 ≤ a.toNat ∨ 2 ^ 24 ≤ b.toNat ∨ 2 < m.toNat ∨ 4096 ≤ (s.qps.filter (fun q => q.port == x.port)).length then s.result n seq K.eHostQp []
    else
      let q := s.madeQp n x a b gid m
      { s.fresh.2 with qps := s.qps ++ [q], qpNext := s.qpNext + 1 }.result n seq 0
        (leBytes 4 q.num.toNat ++ leBytes 4 q.psn.toNat ++ beBytes 16 (s.linkLocal x.port).toNat) := by
  unfold State.qpCreate
  rw [h]
  rfl

/-! ### Jobs and commands -/

theorem hostJobEnd_none {job : Nat} (h : s.ownJob n job = none) : s.hostJobEnd n seq job = s.result n seq K.eHostJob [] := by
  unfold State.hostJobEnd
  rw [h]

theorem hostJobEnd_own {job : Nat} {j : Job} (h : s.ownJob n job = some j) : s.hostJobEnd n seq job =
    if j.ending = true then s.result n seq K.eHostJob [] else (s.updJob job (fun j => { j with reply := some (n, seq, false) })).endJob job := by
  unfold State.hostJobEnd
  rw [h]

theorem admitJob_error {r : AdmitReq} {choice : Nat} {maps : TblMaps} {c : Code} (h : s.admitCheck n r = .error c) :
    s.admitJob n seq r choice maps = s.result n seq c [] := by
  unfold State.admitJob
  rw [h]

theorem admitJob_ok {r : AdmitReq} {choice : Nat} {maps : TblMaps} {g : ImgHdr × List Byte} (h : s.admitCheck n r = .ok g) :
    let s1 := s.fresh.2
    let j := s1.newJob n r g.1 g.2 s.fresh.1 (s1.freeTable.getD 0)
    s.admitJob n seq r choice maps = if s.noRoom g.1 r choice = true then s.result n seq K.eJobNoRoom []
      else (s1.enrol { j with maps := { maps with bytes := [] } } r.window maps).admitPlace n seq j choice := by
  unfold State.admitJob
  rw [h]

theorem hostAttach_refused {job : Nat} {key : Word} (h : ∀ j, s.job job = some j → j.key ≠ key ∨ j.ending = true) :
    s.hostAttach n seq job key = s.result n seq K.eHostJob [] := by
  have hf : (s.job job).filter (fun j => j.key == key && !j.ending) = none := by
    rw [Option.filter_eq_none_iff]
    intro j hj
    rcases h j hj with hk | he
    · simp [hk]
    · simp [he]
  unfold State.hostAttach
  rw [hf]

theorem hostAttach_takes {job : Nat} {key : Word} {j : Job} (h : s.job job = some j) (hk : j.key = key) (he : j.ending = false) :
    let s1 := if j.session.isSome ∧ j.session ≠ some n then s.jobStatus j K.eHostJob else s
    s.hostAttach n seq job key = (((s1.updJob job (fun j => { j with
      session := some n
      reply := none
      cmds := j.cmds.map (fun (c : Cmd) => if c.acked then c else { c with sent := false }) })).result n seq 0 []).revive job).flushDone job := by
  have hf : (s.job job).filter (fun j => j.key == key && !j.ending) = some j := by
    rw [h, Option.filter_some, if_pos (by simp [hk, he])]
  unfold State.hostAttach
  rw [hf]

theorem cmdSubmit_eq (r : CmdReq) : s.cmdSubmit n seq r =
    if s.ended.contains r.job = true then s.result n seq K.eJobEnded []
    else match s.ownJob n r.job with
      | none => s.result n seq K.eHostJob []
      | some j =>
        if j.ending = true then s.result n seq K.eJobEnded []
        else if j.rank ≠ 0 then s.result n seq K.eHostNotLead []
        else if 256 ≤ j.open_.length then s.result n seq K.eHostQueue []
        else if ¬ cmdOk j r = true then s.result n seq K.eHostFormat []
        else (s.updJob j.handle (fun _ => { (mapSeqs r.seqs j).getD j with
            cmds := ((mapSeqs r.seqs j).getD j).cmds ++ [{ num := j.next, req := r }], next := j.next + 1 })).result n seq 0 (leBytes 8 j.next) := rfl

theorem cmdSubmit_own {r : CmdReq} {j : Job} (he : s.ended.contains r.job = false) (h : s.ownJob n r.job = some j) : s.cmdSubmit n seq r =
    if j.ending = true then s.result n seq K.eJobEnded []
    else if j.rank ≠ 0 then s.result n seq K.eHostNotLead []
    else if 256 ≤ j.open_.length then s.result n seq K.eHostQueue []
    else if ¬ cmdOk j r = true then s.result n seq K.eHostFormat []
    else (s.updJob j.handle (fun _ => { (mapSeqs r.seqs j).getD j with
        cmds := ((mapSeqs r.seqs j).getD j).cmds ++ [{ num := j.next, req := r }], next := j.next + 1 })).result n seq 0 (leBytes 8 j.next) := by
  refine (cmdSubmit_eq r).trans ((if_neg (not_of_eq_false he)).trans ?_)
  rw [h]

/-- The sequences of a command that passes the checks are mapped. -/
theorem mapSeqs_of_cmdOk {j : Job} {r : CmdReq} (h : cmdOk j r = true) : ∃ k, mapSeqs r.seqs j = some k := by
  unfold cmdOk at h
  exact Option.isSome_iff_exists.mp (Bool.and_eq_true_iff.mp h).2

theorem cmdCancel_none {job : Nat} {tag : Word} (h : s.ownJob n job = none) : s.cmdCancel n seq job tag = s.result n seq K.eHostJob [] := by
  unfold State.cmdCancel
  rw [h]

theorem cmdCancel_own {job : Nat} {tag : Word} {j : Job} (h : s.ownJob n job = some j) : s.cmdCancel n seq job tag =
    match j.open_.find? (fun c => c.req.tag == tag) with
    | some c =>
      if c.st = .running then (s.result n seq 0 []).orderKill j.table .cancel false
      else ((s.updJob job (fun j => j.setCmd c.num (fun c => { c with st := .ended K.cancelled }))).result n seq 0 []).flushDone job
    | none => s.result n seq (if j.cmds.any (fun c => c.req.tag == tag) then K.eHostCmdDone else K.eHostCmd) [] := by
  unfold State.cmdCancel
  rw [h] <;> rfl

/-! ### Keys and reports -/

theorem hostKeystore_eq (h : s.session n = some x) (slot : Nat) (erase : Bool) (iv : BitVec 96) (wrapped : BitVec 256) (tag : BitVec 128) :
    s.hostKeystore n seq slot erase iv wrapped tag = if ¬ x.mgmt = true then s.result n seq K.eHostPriv []
      else (s.putKey slot erase iv wrapped tag).1.result n seq (s.putKey slot erase iv wrapped tag).2 [] := by
  unfold State.hostKeystore
  rw [h]

theorem hostAttest_none {nonce : BitVec 256} (h : s.attestReport nonce = none) : s.hostAttest n seq nonce = s.result n seq K.eAttestExhausted [] := by
  unfold State.hostAttest
  rw [h]

theorem hostAttest_some {nonce : BitVec 256} {bs : List Byte} {u : State} (h : s.attestReport nonce = some (bs, u)) :
    s.hostAttest n seq nonce = u.result n seq 0 bs := by
  unfold State.hostAttest
  rw [h]

end

/-- Settles O50. -/
theorem hostRequestResults : Obligations.HostRequestResults := by
  unfold Obligations.HostRequestResults
  intro s n seq x hx answers code
  refine ⟨rfl, rfl, rfl, rfl, rfl, rfl, closeSession_free hx, ?_, ?_, ?_, fun w => ⟨windowRevoke_own, windowRevoke_other⟩,
    fun q => ⟨qpDestroy_own, qpDestroy_other⟩, ?_, fun r choice maps => ⟨fun c h => admitJob_error h, fun g h hn => ?_, ?_⟩,
    fun job => ⟨hostJobEnd_none, fun j h he => ?_, fun j h he => ?_⟩, fun job key => ⟨hostAttach_refused, fun j h hk he => hostAttach_takes h hk he⟩,
    fun r => ⟨fun he => ?_, fun he hj => ?_, fun j he hj => ?_⟩, fun job tag => ⟨cmdCancel_none, fun j hj => ⟨fun c hc hr => ?_, fun c hc hr => ?_,
    fun hc => ?_⟩⟩, fun slot erase iv wrapped tag => ⟨fun hm => ?_, fun hm => ?_⟩, fun nonce => ⟨hostAttest_none, fun bs u h => hostAttest_some h⟩,
    fun hu => result_out hx hu 0 []⟩
  · intro port kind index plen addr remove bad a rest
    have h := netConfig_eq (seq := seq) hx port kind index plen addr remove
    exact ⟨fun hm => h.trans (if_pos (not_of_eq_false hm)), fun hm hb => h.trans ((if_neg (not_not_intro hm)).trans (if_pos hb)),
      fun hm hb => h.trans ((if_neg (not_not_intro hm)).trans (if_neg hb))⟩
  · exact fun die value => ⟨fun h => if_pos h, fun h => if_neg (Nat.not_lt.mpr h)⟩
  · intro job va len rd wr m bad
    have h := windowGrant_eq (s := s) (n := n) (seq := seq) job va len rd wr m
    refine ⟨fun h0 hj => h.trans (if_pos ⟨h0, by rw [hj]; rfl⟩), fun hj hb => h.trans ((if_neg ?_).trans (if_pos ((windowBad_iff s n job va len m).mpr hb))),
      fun hj hb => windowGrant_granted hj hb⟩
    rintro ⟨h0, h1⟩
    exact hj.elim h0 (fun h2 => h2 (Option.isNone_iff_eq_none.mp h1))
  · intro a b gid m bad
    have h := qpCreate_eq (seq := seq) hx a b gid m
    exact ⟨fun hb => h.trans (if_pos hb), fun hb => ⟨s.madeQp n x a b gid m, _, h.trans (if_neg hb), rfl, rfl, rfl, rfl, rfl, rfl, rfl⟩⟩
  · exact (admitJob_ok h).trans (if_pos hn)
  · intro g h hn s1 j
    exact (admitJob_ok h).trans (if_neg (not_of_eq_false hn))
  · exact (hostJobEnd_own h).trans (if_pos he)
  · exact (hostJobEnd_own h).trans (if_neg (not_of_eq_false he))
  · exact (cmdSubmit_eq r).trans (if_pos he)
  · refine (cmdSubmit_eq r).trans ((if_neg (not_of_eq_false he)).trans ?_)
    rw [hj]
  · have h := cmdSubmit_own (seq := seq) he hj
    refine ⟨fun h1 => h.trans (if_pos h1), fun h1 h2 => h.trans ((if_neg (not_of_eq_false h1)).trans (if_pos h2)),
      fun h1 h2 h3 => h.trans ((if_neg (not_of_eq_false h1)).trans ((if_neg (not_not_intro h2)).trans (if_pos h3))),
      fun h1 h2 h3 h4 => h.trans ((if_neg (not_of_eq_false h1)).trans ((if_neg (not_not_intro h2)).trans ((if_neg (Nat.not_le.mpr h3)).trans
        (if_pos (not_of_eq_false h4))))), fun h1 h2 h3 h4 => ?_⟩
    obtain ⟨k, hk⟩ := mapSeqs_of_cmdOk h4
    refine ⟨k, hk, h.trans ((if_neg (not_of_eq_false h1)).trans ((if_neg (not_not_intro h2)).trans ((if_neg (Nat.not_le.mpr h3)).trans
      ((if_neg (not_not_intro h4)).trans ?_))))⟩
    rw [hk]
    rfl
  · refine (cmdCancel_own hj).trans ?_
    rw [hc]
    exact if_pos hr
  · refine (cmdCancel_own hj).trans ?_
    rw [hc]
    exact if_neg hr
  · refine (cmdCancel_own hj).trans ?_
    rw [hc]
  · exact (hostKeystore_eq hx slot erase iv wrapped tag).trans (if_pos (not_of_eq_false hm))
  · exact (hostKeystore_eq hx slot erase iv wrapped tag).trans (if_neg (not_not_intro hm))

end Sys2Proof.Machine

/-! SUPPORT. Register writes, uncorrectable errors, retired frames, restarts, watchdogs (R17, R500 to R511, R519). -/

namespace Sys2Proof.Machine

open Sys2Proof

/-! ### Register writes (R17) -/

section
variable {s : State} {a : Nat} {v : Word}

theorem exec_registerWrite (a : Nat) (v : Word) (s : State) : exec (.registerWrite a v) s = .next (s.busWrite a v) := rfl

theorem registerWrite_nowhere (h : regSpec a = none) : exec (.registerWrite a v) s = .next s :=
  next_congr (if_pos (by rw [h]; rfl))

theorem busWrite_place (h : (regSpec a).isNone = false) : s.busWrite a v = match actionWrite a v s with
    | some q => stateAfter s q
    | none => s.writeReg a v := if_neg (not_of_eq_false h)

theorem registerWrite_action {q : Res} (h : (regSpec a).isNone = false) (ha : actionWrite a v s = some q) :
    exec (.registerWrite a v) s = .next (stateAfter s q) := by
  refine next_congr ((busWrite_place h).trans ?_)
  rw [ha]

/-- A write that performs an action is the command of that action. -/
theorem registerWrite_command {q : Res} {t : State} (h : (regSpec a).isNone = false) (ha : actionWrite a v s = some q) (hq : q = .next t) :
    exec (.registerWrite a v) s = q := by
  subst hq
  exact registerWrite_action h ha

theorem registerWrite_plain {r : RegSpec} (h : regSpec a = some r) (ha : actionWrite a v s = none) (ho : ownRow a = false)
    (hp : ∀ o, regPlace a ≠ .block 1 .rcp o) :
    exec (.registerWrite a v) s = .next (((s.setReg a (r.written (s.reg a) v)).writeEffect a (s.reg a) v).noteMelds) := by
  refine next_congr ((busWrite_place (by rw [h]; rfl)).trans ?_)
  rw [ha]
  unfold State.writeReg
  extract_lets b
  have hb : b = a := by
    unfold b
    split
    · rename_i o ho
      exact absurd ho (hp o)
    · rfl
  rw [hb, h]
  exact if_neg (not_of_eq_false ho)

/-! ### The four actions that the statement names -/

theorem regPlace_pwrCap : regPlace R.pwrCap = .block 0 .rcp 0x200 := by decide

theorem registerWrite_pwrCap (v : Word) (s : State) : exec (.registerWrite R.pwrCap v) s = exec (.pwrCapWrite v) s := by
  have ha : actionWrite R.pwrCap v s = some (execPwrCapWrite v s) := by
    unfold actionWrite
    rw [regPlace_pwrCap]
    rfl
  exact registerWrite_command (by decide) ha rfl

theorem regPlace_poolPush : ∀ die : BitVec 1, regPlace (blkReg die.toNat .mem 0x18) = .block die.toNat .mem 0x18 := by decide
theorem regPlace_rsel : ∀ die : BitVec 1, regPlace (blkReg die.toNat .gul 0x8) = .block die.toNat .gul 0x8 := by decide

/-- The low bits of a word, as a register's action takes them. -/
theorem bits_low (v : Word) (n : Nat) (hn : 0 < n) : bits v (n - 1) 0 n = v.setWidth n := by
  apply BitVec.eq_of_toNat_eq
  simp only [bits, field, BitVec.toNat_ofNat, BitVec.toNat_setWidth, Nat.shiftRight_zero, Nat.sub_zero, Nat.sub_add_cancel hn,
    Nat.mod_mod]

theorem actionWrite_poolPush {d : Nat} (h : regPlace a = .block d .mem 0x18) :
    actionWrite a v s = some (execMmuPoolPush (BitVec.ofNat 1 d) (v.setWidth 32) s) := by
  unfold actionWrite
  rw [h, ← bits_low v 32 (by decide)]
  rfl

theorem actionWrite_rsel {d : Nat} (h : regPlace a = .block d .gul 0x8) :
    actionWrite a v s = some (execGulRselWrite (BitVec.ofNat 1 d) (bit 0 v) s) := by
  unfold actionWrite
  rw [h]
  rfl

theorem actionWrite_sresume {i c : Nat} (h : regPlace a = .cell i c 0x020) :
    actionWrite a v s = some (execCellSresumeWrite ⟨i, c⟩ (v.setWidth 4) s) := by
  unfold actionWrite
  rw [h, ← bits_low v 4 (by decide)]
  rfl

theorem regSpec_sresume {i c : Nat} (h : regPlace a = .cell i c 0x020) : (regSpec a).isNone = false := by
  unfold regSpec
  rw [h]
  rfl

theorem registerWrite_poolPush (die : BitVec 1) (v : Word) (s : State) :
    exec (.registerWrite (blkReg die.toNat .mem 0x18) v) s = exec (.mmuPoolPush die (v.setWidth 32)) s := by
  have hr : ∀ die : BitVec 1, (regSpec (blkReg die.toNat .mem 0x18)).isNone = false := by decide
  have ha := actionWrite_poolPush (s := s) (v := v) (regPlace_poolPush die)
  rw [BitVec.ofNat_toNat, BitVec.setWidth_eq] at ha
  obtain ⟨t, ht, -⟩ := everyCommandCompletes (.mmuPoolPush die (v.setWidth 32)) s
  exact registerWrite_command (hr die) ha ht

theorem registerWrite_rsel (die : BitVec 1) (v : Word) (s : State) :
    exec (.registerWrite (blkReg die.toNat .gul 0x8) v) s = exec (.gulRselWrite die (bit 0 v)) s := by
  have hr : ∀ die : BitVec 1, (regSpec (blkReg die.toNat .gul 0x8)).isNone = false := by decide
  have ha := actionWrite_rsel (s := s) (v := v) (regPlace_rsel die)
  rw [BitVec.ofNat_toNat, BitVec.setWidth_eq] at ha
  obtain ⟨t, ht, -⟩ := everyCommandCompletes (.gulRselWrite die (bit 0 v)) s
  exact registerWrite_command (hr die) ha ht

/-- An address by its die, its island's number and its offset in the island. -/
theorem regPlace_cell {d n c o : Nat} (hin : ¬ (a < ctlBase 0 ∨ ctlBase 2 ≤ a)) (hd : (a - ctlBase 0) / dieSpan = d)
    (ha : (a - ctlBase 0) % dieSpan = islandSpan * n + (0x10000 + 0x1000 * c + o)) (hn : n < 96) (hc : c < 16) (ho : o < 0x1000) :
    regPlace a = .cell (96 * d + n) c o := by
  have hisl : islandSpan * n + (0x10000 + 0x1000 * c + o) < 96 * islandSpan := by
    simp only [islandSpan]
    omega
  have hq : (islandSpan * n + (0x10000 + 0x1000 * c + o)) / islandSpan = n := by
    simp only [islandSpan]
    omega
  have hr : (islandSpan * n + (0x10000 + 0x1000 * c + o)) % islandSpan = 0x10000 + 0x1000 * c + o := by
    simp only [islandSpan]
    omega
  have h1 : (0x10000 + 0x1000 * c + o - 0x10000) / 0x1000 = c := by omega
  have h2 : (0x10000 + 0x1000 * c + o) % 0x1000 = o := by omega
  unfold regPlace
  rw [if_neg hin, hd, ha, if_pos hisl, hq, hr, if_pos (by omega), h1, h2]

theorem regPlace_cellReg {i c o : Nat} (hi : i < 192) (hc : c < 16) (ho : o < 0x1000) : regPlace (cellReg ⟨i, c⟩ o) = .cell i c o := by
  have h := regPlace_cell (a := cellReg ⟨i, c⟩ o) (d := i / 96) (n := i % 96) (c := c) (o := o)
    (by simp only [cellReg, islReg, ctlBase, islandSpan, islDie, islNum]; omega)
    (by simp only [cellReg, islReg, ctlBase, dieSpan, islandSpan, islDie, islNum]; omega)
    (by simp only [cellReg, islReg, ctlBase, dieSpan, islandSpan, islDie, islNum]; omega) (Nat.mod_lt _ (by decide)) hc ho
  rw [h, Nat.div_add_mod]

theorem registerWrite_sresume {i c : Nat} (hi : i < 192) (hc : c < 16) (v : Word) (s : State) :
    exec (.registerWrite (cellReg ⟨i, c⟩ 0x020) v) s = exec (.cellSresumeWrite ⟨i, c⟩ (v.setWidth 4)) s := by
  have hp := regPlace_cellReg hi hc (show 0x020 < 0x1000 by decide)
  obtain ⟨t, ht, -⟩ := everyCommandCompletes (.cellSresumeWrite ⟨i, c⟩ (v.setWidth 4)) s
  exact registerWrite_command (regSpec_sresume hp) (actionWrite_sresume hp) ht

end

/-! ### Uncorrectable errors and retired frames (R503 to R505) -/

section
variable {s : State} {die : BitVec 1} {frame : Nat}

theorem exec_ueEvent_block (pa : Nat) : exec (.ueEvent die (.block pa)) s = match s.namedBy pa with
    | some j => .next (s.ueStop die.toNat j.table [pa / 0x10000 * 0x10000])
    | none => .next (s.retire (pa / 0x10000 * 0x10000)) := rfl

theorem exec_frameRetire_none (h : s.frameClass (frame * 0x10000) = none) : exec (.frameRetire die frame) s = .next s := by
  change execFrameRetire die frame s = _
  unfold execFrameRetire
  dsimp only
  rw [h]

/-- FRAME_RETIRE of a frame of a class. -/
theorem exec_frameRetire {d : Nat} {far : Bool} (h : s.frameClass (frame * 0x10000) = some (d, far)) :
    let f := frame * 0x10000
    exec (.frameRetire die frame) s =
      if d ≠ die.toNat ∨ s.retired.contains f = true ∨ ¬ s.correctedTwice d f = true then .next s
      else match s.namedBy f with
        | none => .next (s.retire f)
        | some j =>
          if s.running j.table = true then .next s
          else match s.takeFrame d far with
            | none => .next s
            | some (f', s1) => .next ((((s1.readPage j.table f).wrN f' ((s1.readPage j.table f).decN f 0x10000)).repoint j.table f f').retire f) := by
  change execFrameRetire die frame s = _
  unfold execFrameRetire
  dsimp only
  rw [h] <;> rfl

/-- A frame of the die that has been corrected twice and is in use. -/
theorem exec_frameRetire_due {far : Bool} (h : s.frameClass (frame * 0x10000) = some (die.toNat, far))
    (hr : s.retired.contains (frame * 0x10000) = false) (hc : s.correctedTwice die.toNat (frame * 0x10000) = true) :
    let f := frame * 0x10000
    exec (.frameRetire die frame) s = match s.namedBy f with
      | none => .next (s.retire f)
      | some j =>
        if s.running j.table = true then .next s
        else match s.takeFrame die.toNat far with
          | none => .next s
          | some (f', s1) => .next ((((s1.readPage j.table f).wrN f' ((s1.readPage j.table f).decN f 0x10000)).repoint j.table f f').retire f) := by
  refine (exec_frameRetire h).trans ((if_neg ?_).trans rfl)
  rintro (h1 | h1 | h1)
  · exact h1 rfl
  · exact not_of_eq_false hr h1
  · exact h1 hc

theorem retire_retired (s : State) (f : Nat) : f ∈ (s.retire f).retired := by
  unfold State.retire
  dsimp only
  split
  · exact List.contains_iff_mem.mp (by assumption)
  · exact List.mem_append_right _ (List.mem_singleton_self f)

theorem retire_pools (s : State) (f : Nat) : ∀ e ∈ (s.retire f).pools, f ∉ e.2 := by
  intro e he
  obtain ⟨p, -, hp⟩ := List.mem_filterMap.mp he
  dsimp only at hp
  split at hp
  · exact absurd hp (by simp)
  · rw [← Option.some.inj hp]
    simp

/-! ### Restarts and watchdogs (R507 to R511, R519) -/

variable {h : Nat} {m : RestartMsg} {core : Nat}

theorem exec_jobRestart_none (hj : s.job h = none) : exec (.jobRestart ⟨h, m⟩) s = .next s := by
  change execJobRestart ⟨h, m⟩ s = _
  unfold execJobRestart
  dsimp only
  rw [hj]

/-- A job that runs nothing and keeps its table. -/
def State.restHere (s : State) (h : Nat) (j : Job) : Prop := s.running j.table = false ∧ j.ending = false ∧ (s.tbl j.table).job = h

/-- A job that has stopped, or one that took the place of a lost device's. -/
def Job.restartDue (j : Job) : Prop := j.stopped ≠ none ∨ (j.rank ≠ 0 ∧ j.cmds = [] ∧ j.lastCommit = 0)

theorem restart_guard (s : State) (h : Nat) (j : Job) :
    ((j.stopped.isNone = true ∧ ¬ (j.rank != 0 && j.cmds.isEmpty && j.lastCommit == 0) = true) ∨ s.running j.table = true ∨ j.ending = true ∨
      (s.tbl j.table).job ≠ h) ↔ ¬ s.restHere h j ∨ ¬ j.restartDue := by
  cases hs : j.stopped <;> cases hr : s.running j.table <;> cases he : j.ending <;> simp [State.restHere, Job.restartDue, hs, hr, he, or_comm]

theorem exec_jobRestart {j : Job} (hj : s.job h = some j) : exec (.jobRestart ⟨h, m⟩) s =
    if (j.stopped.isNone = true ∧ ¬ (j.rank != 0 && j.cmds.isEmpty && j.lastCommit == 0) = true) ∨ s.running j.table = true ∨ j.ending = true ∨
      (s.tbl j.table).job ≠ h then .next s
    else if j.restarting = true then .next (s.restartGoOn j m)
    else match j.pointFor m with
      | some p => .next ((s.tellPoint j p).restartAt j p)
      | none => .next s := by
  change execJobRestart ⟨h, m⟩ s = _
  unfold execJobRestart
  dsimp only
  rw [hj] <;> rfl

theorem exec_jobRestart_due {j : Job} (hj : s.job h = some j) (hh : s.restHere h j) (hd : j.restartDue) : exec (.jobRestart ⟨h, m⟩) s =
    if j.restarting = true then .next (s.restartGoOn j m)
    else match j.pointFor m with
      | some p => .next ((s.tellPoint j p).restartAt j p)
      | none => .next s :=
  (exec_jobRestart hj).trans (if_neg (fun hn => ((restart_guard s h j).mp hn).elim (fun h1 => h1 hh) (fun h1 => h1 hd)))

/-- A job of one rank whose frames are whole restarts where it stands. -/
theorem pointFor_own {j : Job} (hd : j.damaged = []) (hr : j.rank = 0) (hn : j.nranks ≤ 1) : j.pointFor .own = some (.inPlace j.lastCommit) := by
  simp [Job.pointFor, Job.choose, hd, hr, hn]

/-- The period of a core's watchdog has passed, and the next begins. -/
def State.wdogPassed (s : State) (core : Nat) : State :=
  (s.until (SMap.get (fun _ => 0) s.pets core + BitVec.ofNat 64 (s.fld (R.stwWdog core) 39 0))).petted core

theorem exec_stwWdogExpiry_off (hn : ¬ (core < 32 ∧ bit 63 (s.reg (R.stwWdog core)) = true)) : exec (.stwWdogExpiry core) s = .next s := if_pos hn

theorem exec_stwWdogExpiry (hn : core < 32 ∧ bit 63 (s.reg (R.stwWdog core)) = true) : exec (.stwWdogExpiry core) s =
    if (s.wdogPassed core).fld (R.stwWdog core) 41 40 = 0 then
      .next { ((s.wdogPassed core).setFld (R.stwWdog core) 41 40 1).dealerSees (core / 16) with
        out := (((s.wdogPassed core).setFld (R.stwWdog core) 41 40 1).dealerSees (core / 16)).out ++ [.nmi core] }
    else .next ((s.wdogPassed core).setFld (R.stwWdog core) 41 40 2) := if_neg (not_not_intro hn)

theorem exec_registerParityError {k : CellRef} (hk : s.cellExists k = true) : exec (.registerParityError k) s =
    .next ((s.ueEvent (islDie k.isl) 7 (islReg k.isl 0) (s.isl k.isl).table).setFld (R.islSeq k.isl) 2 0 3) := if_neg (not_not_intro hk)

end

/-- Settles O56. -/
theorem registersAndErrors : Obligations.RegistersAndErrors := by
  unfold Obligations.RegistersAndErrors
  intro s a h core frame pa v die k cause m d wd f write ue retire restart s0 on shown
  refine ⟨registerWrite_nowhere, fun r hr ha ho hp => registerWrite_plain hr ha ho hp, fun r t hr ha => ?_, registerWrite_pwrCap v s,
    registerWrite_poolPush die v s, registerWrite_rsel die v s, fun i c hi hc => registerWrite_sresume hi hc v s, fun j hj => ?_, fun hj => ?_,
    rfl, fun i n => rfl, fun t n => rfl, fun t n => rfl, fun n => ⟨rfl, rfl⟩, fun job => rfl, ?_, exec_registerParityError,
    fun hk => if_pos (not_of_eq_false hk), rfl, exec_frameRetire_none, fun x far hx => ⟨fun hn => ?_, fun hd hr hc hj => ?_,
    fun j hd hr hc hj => ⟨fun hn => ?_, fun f' s1 hr hf => ?_⟩⟩, ⟨retire_retired s f, retire_pools s f⟩, exec_jobRestart_none, fun j hj => ?_,
    fun ho hz => (exec_stwWdogExpiry ho).trans (if_pos hz), fun ho hz => (exec_stwWdogExpiry ho).trans (if_neg hz), exec_stwWdogExpiry_off,
    fun hc => if_pos hc, fun hc => if_neg (Nat.not_lt.mpr hc)⟩
  · exact registerWrite_action (by rw [hr]; rfl) ha
  · refine (exec_ueEvent_block pa).trans ?_
    rw [hj]
  · refine (exec_ueEvent_block pa).trans ?_
    rw [hj]
  · intro job u
    rfl
  · refine (exec_frameRetire hx).trans (if_pos (hn.imp id (fun h1 => h1.imp id (fun h2 => not_of_eq_false h2))))
  · subst hd
    refine (exec_frameRetire_due hx hr hc).trans ?_
    rw [show s.namedBy (frame * 0x10000) = none from hj]
  · subst hd
    refine (exec_frameRetire_due hx hr hc).trans ?_
    rw [show s.namedBy (frame * 0x10000) = some j from hj]
    dsimp only
    rcases hn with hn | hn
    · exact if_pos hn
    · rw [show s.takeFrame die.toNat far = none from hn]
      split <;> rfl
  · subst hd
    refine (exec_frameRetire_due hx ‹s.retired.contains f = false› hc).trans ?_
    rw [show s.namedBy (frame * 0x10000) = some j from hj]
    refine (if_neg (not_of_eq_false hr)).trans ?_
    rw [show s.takeFrame die.toNat far = some (f', s1) from hf]
  · refine ⟨fun hn => (exec_jobRestart hj).trans (if_pos ((restart_guard s h j).mpr hn)),
      fun hh hd hr => (exec_jobRestart_due hj hh hd).trans (if_pos hr), fun hh hd hr hp => ?_, fun p hh hd hr hp => ?_, pointFor_own⟩
    · refine (exec_jobRestart_due hj hh hd).trans ((if_neg (not_of_eq_false hr)).trans ?_)
      rw [hp]
    · refine (exec_jobRestart_due hj hh hd).trans ((if_neg (not_of_eq_false hr)).trans ?_)
      rw [hp]

end Sys2Proof.Machine

/-! SUPPORT. Ethernet ports (R404 to R409, R425, R426, R430). -/

namespace Sys2Proof.Machine

open Sys2Proof

section
variable {s : State} {port : BitVec 1} {bytes : List Byte}

/-! ### Frames -/

/-- A frame of a length that the port takes. -/
def State.frameFits (s : State) (port : BitVec 1) (n : Nat) : Prop := 64 ≤ n ∧ n ≤ 9216 ∧ n ≤ s.fld (R.ethPcfg port.toNat) 45 32

/-- The bytes behind a frame's addresses. -/
def behindAddresses (bytes : List Byte) : List Byte := (bytes.take (bytes.length - 4)).drop 12

/-- The datagram that a frame carries, with or without a VLAN tag. -/
def State.frameDatagram (s : State) (port : BitVec 1) (b : List Byte) : Option Datagram :=
  if beAt b 0 2 = 0x8100 then s.ipOf port (beAt b 4 2) (b.drop 6) else s.ipOf port (beAt b 0 2) (b.drop 2)

theorem frame_refused_iff (s : State) (port : BitVec 1) (n : Nat) :
    (¬ s.portUp port = true ∨ n < 64 ∨ min 9216 (s.fld (R.ethPcfg port.toNat) 45 32) < n) ↔ ¬ (s.portUp port = true ∧ s.frameFits port n) := by
  unfold State.frameFits
  by_cases h : s.portUp port = true
  · simp only [h, not_true_eq_false, false_or, true_and]
    omega
  · simp [h]

theorem exec_ethFrameReceive_refused (h : ¬ (s.portUp port = true ∧ s.frameFits port bytes.length)) :
    exec (.ethFrameReceive port bytes) s = .next s := if_pos ((frame_refused_iff s port bytes.length).mpr h)

/-- A frame of a length that the port takes. -/
theorem exec_ethFrameReceive (hp : s.portUp port = true) (hf : s.frameFits port bytes.length) : exec (.ethFrameReceive port bytes) s =
    if (Config.etherFcs (bytes.take (bytes.length - 4))).toNat ≠ leAt bytes (bytes.length - 4) 4 then .next (s.incFld (R.ethPcnt port.toNat) 31 0 1)
    else match s.frameDatagram port (behindAddresses bytes) with
      | some g => if g.dport = 19580 then .next (s.tuReceive port g) else .next s
      | none => .next s := by
  refine (if_neg (fun h => (frame_refused_iff s port bytes.length).mp h ⟨hp, hf⟩)).trans ?_
  unfold State.frameDatagram behindAddresses
  dsimp only
  by_cases h : beAt ((bytes.take (bytes.length - 4)).drop 12) 0 2 = 0x8100
  · simp only [if_pos h] <;> rfl
  · simp only [if_neg h] <;> rfl

theorem tuReceive_badHeader {g : Datagram} (h : tuHeaderOk g.data = false) : s.tuReceive port g = s.tuDrop port :=
  if_pos (not_of_eq_false h)

/-! ### Pause (R407) -/

theorem not_and_or_false {p : Prop} {b : Bool} (h : ¬ p ∨ b = false) : ¬ (p ∧ b = true) :=
  fun hn => h.elim (fun h1 => h1 hn.1) (fun h1 => not_of_eq_false h1 hn.2)

theorem exec_pfcPause {prio : BitVec 3} {stop : Bool} (h : s.portUp port = true ∧ bit (4 + prio.toNat) (s.reg (R.ethPcfg port.toNat)) = true) :
    let e := (port.toNat, prio.toNat)
    let rest := s.paused.filter (fun x => x != e)
    exec (.pfcPause port prio stop) s = .next { s with paused := if stop then rest ++ [e] else rest } := if_neg (not_not_intro h)

/-- A pause frame's priority is paused as the frame says, and no other changes. -/
theorem mem_paused {e : Nat × Nat} {l : List (Nat × Nat)} (stop : Bool) :
    let rest := l.filter (fun x => x != e)
    (e ∈ (if stop then rest ++ [e] else rest) ↔ stop = true) ∧ ∀ x, x ≠ e → (x ∈ (if stop then rest ++ [e] else rest) ↔ x ∈ l) := by
  cases stop <;> simp +contextual

/-! ### RDMA (R425, R426) -/

variable {qpn rkey : BitVec 32} {va len : Nat} {ce : Bool} {q : Qp}

/-- The state after the mark of a packet. -/
def State.marked (s : State) (port : BitVec 1) (ce : Bool) (q : Qp) : State := if ce then s.ceMark port q else s

theorem exec_rdma_none (h : ¬ s.hears port ∨ s.qp port qpn = none) :
    exec (.rdmaWrite port qpn rkey va bytes ce) s = .next s ∧ exec (.rdmaRead port qpn rkey va len ce) s = .next s := by
  change execRdmaWrite port qpn rkey va bytes ce s = _ ∧ execRdmaRead port qpn rkey va len ce s = _
  unfold execRdmaWrite execRdmaRead
  by_cases hr : s.hears port
  · rw [h.resolve_left (not_not_intro hr)]
    exact ⟨if_neg (not_not_intro hr), if_neg (not_not_intro hr)⟩
  · exact ⟨if_pos hr, if_pos hr⟩

theorem exec_rdmaWrite (hr : s.hears port) (hq : s.qp port qpn = some q) :
    let u := s.marked port ce q
    exec (.rdmaWrite port qpn rkey va bytes ce) s = match u.rdmaWindow q rkey va bytes.length true with
      | none => .next (u.rdmaDenied port q)
      | some w => if u.rdmaBusy w = true then .next (u.rdmaAnswer q (u.rnr port)) else .next (u.rdmaLand port q w va bytes) := by
  change execRdmaWrite port qpn rkey va bytes ce s = _
  unfold execRdmaWrite
  refine (if_neg (not_not_intro hr)).trans ?_
  rw [hq] <;> rfl

theorem exec_rdmaRead (hr : s.hears port) (hq : s.qp port qpn = some q) :
    let u := s.marked port ce q
    exec (.rdmaRead port qpn rkey va len ce) s = match u.rdmaWindow q rkey va len false with
      | none => .next (u.rdmaDenied port q)
      | some w =>
        if u.rdmaBusy w = true then .next (u.rdmaAnswer q (u.rnr port))
        else match u.takeVA (ethAgent q.port.toNat) (u.windowTable w) va len false with
          | (v, .ok bs) => .next (v.rdmaAnswer q (.data bs))
          | (v, .error _) => .next (v.rdmaAnswer q .nakError) := by
  change execRdmaRead port qpn rkey va len ce s = _
  unfold execRdmaRead
  refine (if_neg (not_not_intro hr)).trans ?_
  rw [hq] <;> rfl

theorem rdmaLand_staging {w : Wndw} (h : w.job = 0) : s.rdmaLand port q w va bytes =
    { s with wndws := s.wndws.map (fun (x : Wndw) => if x.num = w.num then { x with data := x.data.writeN (va - x.va) bytes } else x) }.rdmaAnswer
      q .ack := if_pos h

theorem rdmaLand_job {w : Wndw} (h : w.job ≠ 0) : s.rdmaLand port q w va bytes =
    match s.landVA (ethAgent q.port.toNat) (s.windowTable w) va false false bytes with
    | (s1, .done) => s1.rdmaAnswer q .ack
    | (_, .held) => s
    | (s1, .refused c) => if c = K.eMemUncorrectable then s1.rdmaAnswer q .nakError else s.rdmaDenied port q
    | (_, .absent) => s.rdmaDenied port q := (if_neg h).trans rfl

theorem exec_ethernetPortTrained {rate : BitVec 2} (h : bit 0 (s.reg (R.ethPcfg port.toNat)) = true) : exec (.ethernetPortTrained port rate) s =
    .next (s.setFld (R.ethPstat port.toNat) 4 0
      (2 + (if bit (2 + port.toNat) (s.reg R.pinStrap) then s.fld (R.ethPcfg port.toNat) 2 1 else rate.toNat) * 4 + 16)) :=
  if_neg (not_not_intro h)

end

/-- Settles O51. -/
theorem ethernetPorts : Obligations.EthernetPorts := by
  unfold Obligations.EthernetPorts
  intro s port bytes v6 dst src prio stop ce qpn rkey va len rate n d receive fits fcsOk b datagram holds pfc runs s1 write read trained
  refine ⟨exec_ethFrameReceive_refused, fun hd hf hc => (exec_ethFrameReceive hd hf).trans (if_pos hc), fun g hd hf hc hg hp => ?_,
    fun g hd hf hc hg hp => ?_, fun hd hf hc hg => ?_, fun g hg => tuReceive_badHeader hg, fun target sender mac => ⟨fun hd hv => if_pos ⟨hd, hv⟩,
    fun hn => if_neg (not_and_or_false hn)⟩, fun target sender => ⟨fun hd hv => if_pos ⟨hd, hv⟩, fun hn => if_neg (not_and_or_false hn)⟩,
    fun hd hv => if_pos ⟨hd, hv⟩, fun hn => if_neg (not_and_or_false hn), fun hd hp => ⟨_, exec_pfcPause ⟨hd, hp⟩, (mem_paused stop).1,
    (mem_paused stop).2, rfl⟩, fun hn => if_pos (not_and_or_false hn), fun hd => if_pos hd, fun hn => if_neg hn, rfl, exec_rdma_none, fun q hr hq => ?_,
    exec_ethernetPortTrained, fun h0 => if_pos (not_of_eq_false h0)⟩
  · refine (exec_ethFrameReceive hd hf).trans ((if_neg (not_not_intro hc)).trans ?_)
    rw [show s.frameDatagram port (behindAddresses bytes) = some g from hg]
    exact if_pos hp
  · refine (exec_ethFrameReceive hd hf).trans ((if_neg (not_not_intro hc)).trans ?_)
    rw [show s.frameDatagram port (behindAddresses bytes) = some g from hg]
    exact if_neg hp
  · refine (exec_ethFrameReceive hd hf).trans ((if_neg (not_not_intro hc)).trans ?_)
    rw [show s.frameDatagram port (behindAddresses bytes) = none from hg]
  · intro u
    have hw := exec_rdmaWrite (rkey := rkey) (va := va) (bytes := bytes) (ce := ce) hr hq
    have hv := exec_rdmaRead (rkey := rkey) (va := va) (len := len) (ce := ce) hr hq
    refine ⟨fun h => ?_, fun h => ?_, fun w h => ⟨fun hb => ?_, fun hb h0 => ?_, fun v r hb h0 hl => ?_⟩,
      fun w h => ⟨fun hb => ?_, fun v bs hb hl => ?_, fun v e hb hl => ?_⟩⟩
    · refine hw.trans ?_
      rw [show (s.marked port ce q).rdmaWindow q rkey va bytes.length true = none from h]
      rfl
    · refine hv.trans ?_
      rw [show (s.marked port ce q).rdmaWindow q rkey va len false = none from h]
      rfl
    · refine hw.trans ?_
      rw [show (s.marked port ce q).rdmaWindow q rkey va bytes.length true = some w from h]
      exact if_pos hb
    · refine hw.trans ?_
      rw [show (s.marked port ce q).rdmaWindow q rkey va bytes.length true = some w from h]
      exact (if_neg (not_of_eq_false hb)).trans (next_congr (rdmaLand_staging h0))
    · refine hw.trans ?_
      rw [show (s.marked port ce q).rdmaWindow q rkey va bytes.length true = some w from h]
      refine (if_neg (not_of_eq_false hb)).trans (next_congr ((rdmaLand_job h0).trans ?_))
      rw [show (s.marked port ce q).landVA (ethAgent q.port.toNat) ((s.marked port ce q).windowTable w) va false false bytes = (v, r) from hl]
      cases r <;> rfl
    · refine hv.trans ?_
      rw [show (s.marked port ce q).rdmaWindow q rkey va len false = some w from h]
      exact if_pos hb
    · refine hv.trans ?_
      rw [show (s.marked port ce q).rdmaWindow q rkey va len false = some w from h]
      refine (if_neg (not_of_eq_false hb)).trans ?_
      rw [show (s.marked port ce q).takeVA (ethAgent q.port.toNat) ((s.marked port ce q).windowTable w) va len false = (v, .ok bs) from hl]
    · refine hv.trans ?_
      rw [show (s.marked port ce q).rdmaWindow q rkey va len false = some w from h]
      refine (if_neg (not_of_eq_false hb)).trans ?_
      rw [show (s.marked port ce q).takeVA (ethAgent q.port.toNat) ((s.marked port ce q).windowTable w) va len false = (v, .error e) from hl]

end Sys2Proof.Machine

/-! SUPPORT. Kindling and the load (R432 to R449, R456, R461, R462). -/

namespace Sys2Proof.Machine

open Sys2Proof

section
variable {s : State}

/-! ### Entry and announcements -/

theorem exec_kindlingEntry_idle (h : s.sec.entered = true ∨ s.episode ≠ none) : exec .kindlingEntry s = .next s :=
  if_pos (h.imp id Option.isSome_iff_ne_none.mpr)

/-- The state as kindling is entered. -/
def State.kindled (s : State) : State := s.updSec (fun x => { x with entered := true, load := none })

theorem exec_kindlingEntry (he : s.sec.entered = false) (hn : s.episode = none) : exec .kindlingEntry s =
    if s.loadState = 4 then .next s.kindled
    else if s.fuses.stepping0 ≠ s.fuses.stepping1 ∨ s.fuses.grade0 ≠ s.fuses.grade1 then
      .next ((s.kindled.setFld R.secLoad 2 0 0).loadFail K.eFuseInconsistent 0)
    else .next ((((s.kindled.setFld R.secLoad 2 0 0).checkStore).bringUp 0).bringUp 1) := by
  refine (if_neg (fun h => h.elim (not_of_eq_false he) (fun h1 => ?_))).trans rfl
  rw [hn] at h1
  exact Bool.false_ne_true h1

/-- Firmware runs, of either stage, and the port is up. -/
def State.firmwareHears (s : State) (port : BitVec 1) : Prop := s.portUp port = true ∧ (s.mainRuns = true ∨ s.kindlingRuns = true)

theorem exec_announce {port : BitVec 1} (h : s.firmwareHears port) :
    exec (.announce port) s = .next { s with out := s.out ++ [.announce port (s.announcePayload port)] } := if_pos ⟨h.2, h.1⟩

theorem exec_announce_deaf {port : BitVec 1} (h : ¬ s.firmwareHears port) : exec (.announce port) s = .next s :=
  if_neg (fun hn => h ⟨hn.2, hn.1⟩)

theorem not_firmwareHears {port : BitVec 1} (h : ¬ s.portUp port = true ∨ ¬ (s.mainRuns = true ∨ s.kindlingRuns = true)) :
    ¬ s.firmwareHears port := fun hn => h.elim (fun h1 => h1 hn.1) (fun h1 => h1 hn.2)

/-- Kindling runs only while the main stage does not. -/
theorem mainRuns_of_kindlingRuns (h : s.kindlingRuns = true) : s.mainRuns = false := by
  simp only [State.kindlingRuns, Bool.and_eq_true, decide_eq_true_eq] at h
  have hl : (s.loadState == 3) = false := beq_eq_false_iff_ne.mpr (by omega)
  simp [State.mainRuns, hl]

/-! ### Offers -/

variable {h : Hdr} {nonce : Word} {len deadline : Nat}

theorem exec_loadOffer_deaf (hn : ¬ s.firmwareHears h.port) : exec (.loadOffer h nonce len deadline) s = .next s := by
  by_cases hp : s.portUp h.port = true
  · exact (if_neg (not_not_intro hp)).trans ((if_neg (fun hm => hn ⟨hp, .inl hm⟩)).trans (if_pos (fun hk => hn ⟨hp, .inr hk⟩)))
  · exact if_pos hp

theorem exec_loadOffer_main (hp : s.portUp h.port = true) (hm : s.mainRuns = true) : exec (.loadOffer h nonce len deadline) s =
    .next (if h.session = 0xFFFF then s.answerOut h K.eLoadStage [] else s.hostMsg h .load) :=
  (if_neg (not_not_intro hp)).trans (if_pos hm)

/-- An offer that kindling hears. -/
theorem exec_loadOffer_kindling (hp : s.portUp h.port = true) (hk : s.kindlingRuns = true) : exec (.loadOffer h nonce len deadline) s =
    if h.session ≠ 0xFFFF ∨ h.cookie ≠ 0 then .next (s.tuDrop h.port)
    else match s.sec.load with
      | some l =>
        if ¬ l.sameSource h = true then .next (s.answerOut h K.eLoadBusy [])
        else if l.nonce = nonce then .next (s.resultOut h.port h.src h.udp h.seq l.offer)
        else .next (s.answerOut h K.eLoadStage [])
      | none =>
        if len < 8272 ∨ 268435536 < len ∨ deadline = 0 ∨ 600000 < deadline then .next (s.answerOut h K.eLoadOffer [])
        else .next (s.acceptOffer h nonce len deadline) :=
  (if_neg (not_not_intro hp)).trans ((if_neg (not_of_eq_false (mainRuns_of_kindlingRuns hk))).trans ((if_neg (not_not_intro hk)).trans rfl))

theorem exec_loadOffer_first (hp : s.portUp h.port = true) (hk : s.kindlingRuns = true) (hs : h.session = 0xFFFF) (hc : h.cookie = 0)
    (hl : s.sec.load = none) : exec (.loadOffer h nonce len deadline) s =
      if len < 8272 ∨ 268435536 < len ∨ deadline = 0 ∨ 600000 < deadline then .next (s.answerOut h K.eLoadOffer [])
      else .next (s.acceptOffer h nonce len deadline) := by
  refine (exec_loadOffer_kindling hp hk).trans ((if_neg (by simp [hs, hc])).trans ?_)
  rw [hl]

theorem exec_loadOffer_again {l : Load} (hp : s.portUp h.port = true) (hk : s.kindlingRuns = true) (hs : h.session = 0xFFFF) (hc : h.cookie = 0)
    (hl : s.sec.load = some l) : exec (.loadOffer h nonce len deadline) s =
      if ¬ l.sameSource h = true then .next (s.answerOut h K.eLoadBusy [])
      else if l.nonce = nonce then .next (s.resultOut h.port h.src h.udp h.seq l.offer)
      else .next (s.answerOut h K.eLoadStage []) := by
  refine (exec_loadOffer_kindling hp hk).trans ((if_neg (by simp [hs, hc])).trans ?_)
  rw [hl]

/-! ### Messages of the load -/

variable {m : Option (Nat × List Byte)}

theorem loadMsg_deaf (hn : ¬ s.firmwareHears h.port) : s.loadMsg h m = s := by
  unfold State.loadMsg
  by_cases hp : s.portUp h.port = true
  · exact (if_neg (not_not_intro hp)).trans ((if_neg (fun hm => hn ⟨hp, .inl hm⟩)).trans (if_pos (fun hk => hn ⟨hp, .inr hk⟩)))
  · exact if_pos hp

theorem loadMsg_main (hp : s.portUp h.port = true) (hm : s.mainRuns = true) :
    s.loadMsg h m = if h.session = 0xFFFF then s.answerOut h K.eLoadStage [] else s.hostMsg h .load := by
  unfold State.loadMsg
  exact (if_neg (not_not_intro hp)).trans (if_pos hm)

theorem loadMsg_none (hp : s.portUp h.port = true) (hk : s.kindlingRuns = true) (hl : s.sec.load = none) :
    s.loadMsg h m = if h.session = 0xFFFF then s.answerOut h K.eLoadStage [] else s.tuDrop h.port := by
  unfold State.loadMsg
  refine (if_neg (not_not_intro hp)).trans ((if_neg (not_of_eq_false (mainRuns_of_kindlingRuns hk))).trans ((if_neg (not_not_intro hk)).trans ?_))
  rw [hl]

/-- A message of a load in progress. -/
theorem loadMsg_load {l : Load} (hp : s.portUp h.port = true) (hk : s.kindlingRuns = true) (hl : s.sec.load = some l) :
    let d := (h.seq - l.expect).toNat
    s.loadMsg h m =
      if h.session ≠ 0xFFFF ∨ h.cookie ≠ l.cookie ∨ ¬ l.sameSource h = true then s.tuDrop h.port
      else if d = 0 then s.loadOn 65 h.seq m
      else if d < 64 then
        s.setLoad (fun l => { l with early := if l.early.any (fun e => e.1 == h.seq) then l.early else l.early ++ [(h.seq, m)] })
      else if 2 ^ 31 ≤ d then
        match l.results.find? (fun r => r.1 == h.seq) with
        | some (_, r) => s.resultOut l.port l.src l.udp h.seq r
        | none => s
      else s := by
  unfold State.loadMsg
  refine (if_neg (not_not_intro hp)).trans ((if_neg (not_of_eq_false (mainRuns_of_kindlingRuns hk))).trans ((if_neg (not_not_intro hk)).trans ?_))
  rw [hl] <;> rfl

/-- A message that the load's source sends. -/
def Load.bound (l : Load) (h : Hdr) : Prop := h.session = 0xFFFF ∧ h.cookie = l.cookie ∧ l.sameSource h = true

theorem Load.bound_guard {l : Load} (hb : l.bound h) : ¬ (h.session ≠ 0xFFFF ∨ h.cookie ≠ l.cookie ∨ ¬ l.sameSource h = true) := by
  obtain ⟨h1, h2, h3⟩ := hb
  simp [h1, h2, h3]

theorem Load.not_bound_guard {l : Load} (hb : ¬ l.bound h) : h.session ≠ 0xFFFF ∨ h.cookie ≠ l.cookie ∨ ¬ l.sameSource h = true := by
  by_contra hn
  rw [not_or, not_or, not_not, not_not, not_not] at hn
  exact hb hn

section
variable {l : Load} (hp : s.portUp h.port = true) (hk : s.kindlingRuns = true) (hl : s.sec.load = some l) (hb : l.bound h)
include hp hk hl hb

theorem loadMsg_next (hd : (h.seq - l.expect).toNat = 0) : s.loadMsg h m = s.loadOn 65 h.seq m :=
  (loadMsg_load hp hk hl).trans ((if_neg (Load.bound_guard hb)).trans (if_pos hd))

theorem loadMsg_early (h0 : 0 < (h.seq - l.expect).toNat) (hd : (h.seq - l.expect).toNat < 64) : s.loadMsg h m =
    s.setLoad (fun l => { l with early := if l.early.any (fun e => e.1 == h.seq) then l.early else l.early ++ [(h.seq, m)] }) :=
  (loadMsg_load hp hk hl).trans ((if_neg (Load.bound_guard hb)).trans ((if_neg (by omega)).trans (if_pos hd)))

theorem loadMsg_far (h0 : 64 ≤ (h.seq - l.expect).toNat) (hd : (h.seq - l.expect).toNat < 2 ^ 31) : s.loadMsg h m = s :=
  (loadMsg_load hp hk hl).trans ((if_neg (Load.bound_guard hb)).trans ((if_neg (by omega)).trans ((if_neg (by omega)).trans (if_neg (by omega)))))

theorem loadMsg_again (hd : 2 ^ 31 ≤ (h.seq - l.expect).toNat) : s.loadMsg h m = match l.results.find? (fun r => r.1 == h.seq) with
    | some (_, r) => s.resultOut l.port l.src l.udp h.seq r
    | none => s :=
  (loadMsg_load hp hk hl).trans ((if_neg (Load.bound_guard hb)).trans ((if_neg (by omega)).trans ((if_neg (by omega)).trans ((if_pos hd).trans rfl))))

end

/-! ### A message in its turn -/

theorem State.setFld_sec (s : State) (a hi lo v : Nat) : (s.setFld a hi lo v).sec = s.sec := rfl

theorem setLoad_load {l : Load} (hl : s.sec.load = some l) (f : Load → Load) : (s.setLoad f).sec.load = some (f l) := by
  change s.sec.load.map f = _
  rw [hl]
  rfl

/-- What the message itself does. -/
def State.loadTake (s : State) (l : Load) (seq : BitVec 32) : Option (Nat × List Byte) → State
  | some (o, d) => s.loadChunk l seq o d
  | none => s.loadFinish l seq

theorem loadResult_load {l k : Load} (hl : s.sec.load = some k) (seq : BitVec 32) (c : Code) :
    ∃ k', (s.loadResult l seq c).sec.load = some k' ∧ k'.early = k.early :=
  ⟨_, setLoad_load hl _, rfl⟩

/-- A message taken in its turn leaves the messages that came ahead of theirs. -/
theorem loadTake_early {l k : Load} (hl : s.sec.load = some k) (seq : BitVec 32) (m : Option (Nat × List Byte)) :
    ∃ k', (s.loadTake l seq m).sec.load = some k' ∧ k'.early = k.early := by
  rcases m with _ | ⟨o, d⟩
  · unfold State.loadTake State.loadFinish
    dsimp only
    split
    · exact loadResult_load hl seq _
    · rw [State.setFld_sec]
      exact ⟨_, setLoad_load hl _, rfl⟩
  · unfold State.loadTake State.loadChunk
    dsimp only
    split
    · obtain ⟨k', h1, h2⟩ := loadResult_load (s := (s.wrN o d).setLoad (fun l => { l with next := l.next + d.length })) (l := l)
        (setLoad_load (s := s.wrN o d) hl _) seq 0
      exact ⟨k', h1, h2⟩
    · exact loadResult_load hl seq _

/-- A message in its turn, with none waiting behind it. -/
theorem loadOn_alone {l : Load} {f : Nat} (hl : s.sec.load = some l) (he : l.early = []) (seq : BitVec 32) (m : Option (Nat × List Byte)) :
    s.loadOn (f + 1) seq m = (s.setLoad (fun l => { l with expect := seq + 1 })).loadTake l seq m := by
  obtain ⟨k, hk, hke⟩ := loadTake_early (l := l) (setLoad_load hl (fun l => { l with expect := seq + 1 })) seq m
  have hstep : s.loadOn (f + 1) seq m =
      match (((s.setLoad (fun l => { l with expect := seq + 1 })).loadTake l seq m).sec.load).bind (fun l => l.early.find? (fun e => e.1 == l.expect)) with
      | some (q, m') => State.loadOn f (((s.setLoad (fun l => { l with expect := seq + 1 })).loadTake l seq m).setLoad
          (fun l => { l with early := l.early.filter (fun e => e.1 != q) })) q m'
      | none => (s.setLoad (fun l => { l with expect := seq + 1 })).loadTake l seq m := by
    rw [State.loadOn, hl] <;> rcases m with _ | ⟨o, d⟩ <;> rfl
  rw [hstep, hk, Option.bind_some, hke]
  simp [he]

theorem loadMsg_turn {l : Load} (hp : s.portUp h.port = true) (hk : s.kindlingRuns = true) (hl : s.sec.load = some l) (hb : l.bound h)
    (hs : h.seq = l.expect) (he : l.early = []) :
    s.loadMsg h m = (s.setLoad (fun l => { l with expect := h.seq + 1 })).loadTake l h.seq m :=
  (loadMsg_next hp hk hl hb (by rw [hs]; simp)).trans (loadOn_alone hl he h.seq m)

/-- What R438 asks of the next chunk. -/
def Load.fits (l : Load) (off n : Nat) : Prop :=
  off = l.next ∧ off + n ≤ l.len ∧ 0 < n ∧ (n = 8192 ∨ (n < 8192 ∧ off + n = l.len)) ∧ l.endSeq = none

theorem loadChunk_fits {l : Load} {off : Nat} {data : List Byte} {seq : BitVec 32} (hf : l.fits off data.length) : s.loadChunk l seq off data =
    ((s.wrN off data).setLoad (fun l => { l with next := l.next + data.length })).loadResult l seq 0 :=
  if_pos (by simpa [Load.fits] using hf)

theorem loadChunk_misfit {l : Load} {off : Nat} {data : List Byte} {seq : BitVec 32} (hf : ¬ l.fits off data.length) :
    s.loadChunk l seq off data = s.loadResult l seq K.eLoadFormat :=
  if_neg (by simpa [Load.fits] using hf)

/-! ### The checks, the deadline, reports, the battery -/

theorem exec_loadChecksDone_none (hn : s.sec.load = none ∨ s.kindlingRuns = false ∨ s.loadState ≠ 2) : exec .loadChecksDone s = .next s := by
  change execLoadChecksDone s = _
  unfold execLoadChecksDone
  split
  · rfl
  · rename_i l hl
    refine if_pos (fun hc => ?_)
    rcases hn with hn | hn | hn
    · rw [hl] at hn
      exact absurd hn (by simp)
    · exact not_of_eq_false hn hc.1
    · exact hn hc.2

theorem exec_loadChecksDone {l : Load} (hl : s.sec.load = some l) (hk : s.kindlingRuns = true) (h2 : s.loadState = 2) : exec .loadChecksDone s =
    if l.deadline.toNat ≤ s.gtime.toNat then .next (s.loadFail K.eLoadDeadline 0)
    else match s.checkImage (s.decN 0 l.next) l.len with
      | .error (c, d) => .next (s.loadFail c d)
      | .ok pt => .next (s.loadCommit l pt) := by
  change execLoadChecksDone s = _
  unfold execLoadChecksDone
  rw [hl]
  exact (if_neg (not_not_intro ⟨hk, h2⟩)).trans rfl

theorem exec_loadDeadline {l : Load} (hl : s.sec.load = some l) : exec .loadDeadline s =
    if s.kindlingRuns = true then .next ((s.until l.deadline).loadFail K.eLoadDeadline 0) else .next s := by
  change execLoadDeadline s = _
  unfold execLoadDeadline
  rw [hl]

theorem exec_loadDeadline_none (hn : s.sec.load = none ∨ s.kindlingRuns = false) : exec .loadDeadline s = .next s := by
  rcases hn with hn | hn
  · change execLoadDeadline s = _
    unfold execLoadDeadline
    rw [hn]
  · cases hl : s.sec.load with
    | none =>
      change execLoadDeadline s = _
      unfold execLoadDeadline
      rw [hl]
    | some l => exact (exec_loadDeadline hl).trans (if_neg (not_of_eq_false hn))

theorem exec_vbatLoss (s : State) : exec .vbatLoss s =
    if (match s.episode with | some e => e.held.contains RstSource.powerOn | none => false) = true then
      .next (((s.updSec (fun x => { x with marker := 0, keys := [none, none, none, none] })).setFld R.secBbk 21 8 0).setFullBits)
    else .next s := rfl

/-- How IDENTITY and ATTEST are met: r is the request of a session, t what is answered outside one. -/
def State.meets (s : State) (h : Hdr) (r : HReq) (t : State) : State :=
  if ¬ (s.portUp h.port = true ∧ (s.mainRuns = true ∨ s.kindlingRuns = true)) then s
  else if h.session ≠ 0xFFFF then s.hostMsg h r
  else if h.cookie ≠ 0 then s.tuDrop h.port
  else t

theorem next_ite (c : Prop) [Decidable c] (t u : State) : (.next (if c then t else u) : Res) = if c then .next t else .next u :=
  apply_ite _ c t u

theorem exec_identity (h : Hdr) (s : State) : exec (.identity h) s = .next (s.meets h .identity (s.answerOut h 0 s.identityFields)) := by
  change execIdentity h s = _
  unfold execIdentity State.meets
  simp only [next_ite]

/-- The answer of an attestation outside a session: a report asked for again within 1 s by its copy. -/
def State.attestAnswer (s : State) (h : Hdr) (a : BitVec 256) : State :=
  match s.sec.attested with
  | some (src, udp, v, t, m) =>
    if src = h.src ∧ udp = h.udp ∧ v = a ∧ (s.gtime - t).toNat ≤ 1000000000 then s.resultOut h.port h.src h.udp h.seq m else s.attestOut h a
  | none => s.attestOut h a

theorem exec_attest (h : Hdr) (a : BitVec 256) (s : State) : exec (.attest h a) s = .next (s.meets h (.attest a) (s.attestAnswer h a)) := by
  change execAttest h a s = _
  unfold execAttest State.meets State.attestAnswer
  cases s.sec.attested <;> simp only [next_ite]

theorem meets_rules {r : HReq} {t : State} :
    (¬ s.portUp h.port = true ∨ ¬ (s.mainRuns = true ∨ s.kindlingRuns = true) → s.meets h r t = s) ∧
    (s.portUp h.port = true → (s.mainRuns = true ∨ s.kindlingRuns = true) → ¬ h.session = 0xFFFF → s.meets h r t = s.hostMsg h r) ∧
    (s.portUp h.port = true → (s.mainRuns = true ∨ s.kindlingRuns = true) → h.session = 0xFFFF → h.cookie ≠ 0 → s.meets h r t = s.tuDrop h.port) ∧
    (s.portUp h.port = true → (s.mainRuns = true ∨ s.kindlingRuns = true) → h.session = 0xFFFF → h.cookie = 0 → s.meets h r t = t) :=
  ⟨fun hn => if_pos (not_firmwareHears hn), fun hp hr hs => (if_neg (not_not_intro ⟨hp, hr⟩)).trans (if_pos hs),
    fun hp hr hs hc => (if_neg (not_not_intro ⟨hp, hr⟩)).trans ((if_neg (not_not_intro hs)).trans (if_pos hc)),
    fun hp hr hs hc => (if_neg (not_not_intro ⟨hp, hr⟩)).trans ((if_neg (not_not_intro hs)).trans (if_neg (not_not_intro hc)))⟩

/-- The sequence rules of a message of the load. -/
theorem loadMsg_rules (s : State) (h : Hdr) (m : Option (Nat × List Byte)) :
    let isUp := s.portUp h.port = true
    let kind := s.kindlingRuns = true ∧ isUp
    (¬ isUp ∨ ¬ (s.mainRuns = true ∨ s.kindlingRuns = true) → s.loadMsg h m = s) ∧
    (s.mainRuns = true ∧ isUp → h.session = 0xFFFF → s.loadMsg h m = s.answerOut h K.eLoadStage []) ∧
    (s.mainRuns = true ∧ isUp → ¬ h.session = 0xFFFF → s.loadMsg h m = s.hostMsg h .load) ∧
    (kind → s.sec.load = none → s.loadMsg h m = if h.session = 0xFFFF then s.answerOut h K.eLoadStage [] else s.tuDrop h.port) ∧
    (∀ l, kind → s.sec.load = some l → ¬ l.bound h → s.loadMsg h m = s.tuDrop h.port) ∧
    (∀ l, kind → s.sec.load = some l → l.bound h →
      let d := (h.seq - l.expect).toNat
      (d = 0 → s.loadMsg h m = s.loadOn 65 h.seq m) ∧
      (0 < d → d < 64 → s.loadMsg h m = s.setLoad (fun l =>
        { l with early := if l.early.any (fun e => e.1 == h.seq) then l.early else l.early ++ [(h.seq, m)] })) ∧
      (64 ≤ d → d < 2 ^ 31 → s.loadMsg h m = s) ∧
      (∀ r, 2 ^ 31 ≤ d → l.results.find? (fun r => r.1 == h.seq) = some r → s.loadMsg h m = s.resultOut l.port l.src l.udp h.seq r.2) ∧
      (2 ^ 31 ≤ d → l.results.find? (fun r => r.1 == h.seq) = none → s.loadMsg h m = s)) := by
  intro isUp kind
  refine ⟨fun hn => loadMsg_deaf (not_firmwareHears hn), fun hm hs => (loadMsg_main hm.2 hm.1).trans (if_pos hs),
    fun hm hs => (loadMsg_main hm.2 hm.1).trans (if_neg hs), fun hk hl => loadMsg_none hk.2 hk.1 hl,
    fun l hk hl hb => (loadMsg_load hk.2 hk.1 hl).trans (if_pos (Load.not_bound_guard hb)), fun l hk hl hb => ?_⟩
  refine ⟨loadMsg_next hk.2 hk.1 hl hb, loadMsg_early hk.2 hk.1 hl hb, loadMsg_far hk.2 hk.1 hl hb, fun r hd hr => ?_, fun hd hr => ?_⟩
  · refine (loadMsg_again hk.2 hk.1 hl hb hd).trans ?_
    rw [hr]
  · refine (loadMsg_again hk.2 hk.1 hl hb hd).trans ?_
    rw [hr]

end

/-- Settles O52. -/
theorem kindlingAndLoad : Obligations.KindlingAndLoad := by
  unfold Obligations.KindlingAndLoad
  intro s h nonce len deadline off data a isUp kind mainUp runs outside offer bound turn next n fits entered entry same msg answers
  have hmsg : ∀ m, msg m (.next (s.loadMsg h m)) := by
    intro m
    obtain ⟨h1, h2, h3, h4, h5, h6⟩ := loadMsg_rules s h m
    refine ⟨fun hn => next_congr (h1 hn), fun hm hs => next_congr (h2 hm hs), fun hm hs => next_congr (h3 hm hs),
      fun hk hl => next_congr (h4 hk hl), fun l hk hl hb => next_congr (h5 l hk hl hb), fun l hk hl hb => ?_⟩
    obtain ⟨g1, g2, g3, g4, g5⟩ := h6 l hk hl hb
    exact ⟨fun hd => next_congr (g1 hd), fun h0 hd => next_congr (g2 h0 hd), fun h0 hd => next_congr (g3 h0 hd),
      fun r hd hr => next_congr (g4 r hd hr), fun hd hr => next_congr (g5 hd hr)⟩
  have hanswers : ∀ i r t, exec i s = .next (s.meets h r t) → answers i r t := by
    intro i r t hi
    obtain ⟨h1, h2, h3, h4⟩ := meets_rules (s := s) (h := h) (r := r) (t := t)
    exact ⟨fun hn => hi.trans (next_congr (h1 hn)), fun hp hr hs => hi.trans (next_congr (h2 hp hr hs)),
      fun hp hr hs hc => hi.trans (next_congr (h3 hp hr hs hc)), fun hp hr hs hc => hi.trans (next_congr (h4 hp hr hs hc))⟩
  refine ⟨exec_kindlingEntry_idle, fun he hn h4 => (exec_kindlingEntry he hn).trans (if_pos h4),
    fun he hn h4 hs => (exec_kindlingEntry he hn).trans ((if_neg h4).trans (if_neg ?_)),
    fun he hn h4 hs => (exec_kindlingEntry he hn).trans ((if_neg h4).trans (if_pos ?_)), fun hr hp => exec_announce ⟨hp, hr⟩,
    fun hn => exec_announce_deaf (not_firmwareHears hn), fun hn => exec_loadOffer_deaf (not_firmwareHears hn),
    fun hm hs => (exec_loadOffer_main hm.2 hm.1).trans (next_congr (if_pos hs)), fun hm hs => (exec_loadOffer_main hm.2 hm.1).trans (next_congr (if_neg hs)),
    fun hk hn => (exec_loadOffer_kindling hk.2 hk.1).trans (if_pos hn),
    fun hk hs hc hl h1 h2 h3 h4 => (exec_loadOffer_first hk.2 hk.1 hs hc hl).trans (if_neg (by omega)),
    fun hk hs hc hl hb => (exec_loadOffer_first hk.2 hk.1 hs hc hl).trans (if_pos hb), fun l hk hs hc hl => ⟨fun h1 => ?_, fun h1 h2 => ?_, fun h1 h2 => ?_⟩,
    hmsg _, hmsg _, fun l ht hf => ?_, fun l ht hf => ?_, fun l ht he => ?_, fun l ht he => ?_,
    fun l hl hk h2 => ⟨fun hd => (exec_loadChecksDone hl hk h2).trans (if_pos hd), fun c d hd hc => ?_, fun pt hd hc => ?_⟩,
    exec_loadChecksDone_none, fun l hl hk => (exec_loadDeadline hl).trans (if_pos hk), exec_loadDeadline_none,
    hanswers _ _ _ (exec_identity h s), hanswers _ _ _ (exec_attest h a s), fun e he hc => ?_, fun hn => ?_⟩
  · simp only [same] at hs
    simp [hs]
  · simpa [same, imp_iff_not_or] using hs
  · exact (exec_loadOffer_again hk.2 hk.1 hs hc hl).trans (if_pos (not_of_eq_false h1))
  · exact (exec_loadOffer_again hk.2 hk.1 hs hc hl).trans ((if_neg (not_not_intro h1)).trans (if_pos h2))
  · exact (exec_loadOffer_again hk.2 hk.1 hs hc hl).trans ((if_neg (not_not_intro h1)).trans (if_neg h2))
  · obtain ⟨hk, hl, hb, hs, he⟩ := ht
    exact next_congr ((loadMsg_turn hk.2 hk.1 hl hb hs he).trans (loadChunk_fits hf))
  · obtain ⟨hk, hl, hb, hs, he⟩ := ht
    exact next_congr ((loadMsg_turn hk.2 hk.1 hl hb hs he).trans (loadChunk_misfit hf))
  · obtain ⟨hk, hl, hb, hs, h0⟩ := ht
    exact next_congr ((loadMsg_turn hk.2 hk.1 hl hb hs h0).trans (if_neg (by simp [he])))
  · obtain ⟨hk, hl, hb, hs, h0⟩ := ht
    exact next_congr ((loadMsg_turn hk.2 hk.1 hl hb hs h0).trans (if_pos (Option.isSome_iff_ne_none.mpr he)))
  · refine (exec_loadChecksDone hl hk h2).trans ((if_neg (Nat.not_le.mpr hd)).trans ?_)
    rw [hc]
  · refine (exec_loadChecksDone hl hk h2).trans ((if_neg (Nat.not_le.mpr hd)).trans ?_)
    rw [hc]
  · refine (exec_vbatLoss s).trans (if_pos ?_)
    rw [he]
    exact hc
  · refine (exec_vbatLoss s).trans (if_neg ?_)
    rcases hn with hn | ⟨e, he, hc⟩
    · rw [hn]
      exact Bool.false_ne_true
    · rw [he]
      exact not_of_eq_false hc

end Sys2Proof.Machine

/-! SUPPORT. Reset sources, requests, episodes and the failover of the reference (R468 to R479, R511, R512). -/

namespace Sys2Proof.Machine

open Sys2Proof

section
variable {s : State} {core : Nat} {src r : RstSource}

/-! ### Package sources -/

theorem assertPackage_begins {l : Level} {esc : Bool} (he : s.episode = none) (hb : s.blocks = []) : s.assertPackage r l esc =
    { s.applyLevel l with episode := some { level := l, held := [r], seen := [r], since := s.gtime, escalated := esc } } := by
  unfold State.assertPackage
  rw [he, hb]
  rfl

theorem assertPackage_raises {l : Level} {esc : Bool} {e : Episode} (he : s.episode = some e) (hl : e.level.index < l.index) :
    s.assertPackage r l esc = { s.applyLevel l with
      episode := some { e with
        held := addSrc e.held r, seen := addSrc e.seen r, high := false, escalated := e.escalated || esc, level := l, since := s.gtime,
        minOver := false } } := by
  unfold State.assertPackage
  rw [he]
  exact if_pos hl

theorem assertPackage_joins {l : Level} {esc : Bool} {e : Episode} (he : s.episode = some e) (hl : l.index ≤ e.level.index) :
    s.assertPackage r l esc = { s with
      episode := some { e with held := addSrc e.held r, seen := addSrc e.seen r, high := false, escalated := e.escalated || esc } } := by
  unfold State.assertPackage
  rw [he]
  exact if_neg (Nat.not_lt.mpr hl)

/-! ### Steward cores and requests -/

/-- What a source of a steward core does. -/
theorem coreSource_rules (s : State) (core : Nat) (r : RstSource) :
    (s.srcLevel r ≠ .block → s.coreSource r core = s.assertPackage r (s.srcLevel r) false) ∧
    (s.srcLevel r = .block → s.drains.any (fun d => d.1 == core) = true → s.coreSource r core = s) ∧
    (s.srcLevel r = .block → s.drains.any (fun d => d.1 == core) = false → s.coreSource r core =
      { s.setFld (R.rstFence (core / 16)) (core % 16) (core % 16) 1 with drains := s.drains ++ [(core, r)] }) :=
  ⟨fun h => if_pos h, fun h hd => (if_neg (not_not_intro h)).trans (if_pos hd), fun h hd => (if_neg (not_not_intro h)).trans (if_neg (not_of_eq_false hd))⟩

theorem exec_watchdog_off (h : s.fld (R.stwWdog core) 41 40 ≠ 2) : exec (.watchdog core) s = .next s := if_neg (fun hn => h hn.2)

theorem exec_watchdog (h : s.fld (R.stwWdog core) 41 40 = 2) : exec (.watchdog core) s =
    if core < 32 then .next (s.coreSource .watchdog core) else .next s := by
  change (if core < 32 ∧ s.fld (R.stwWdog core) 41 40 = 2 then _ else _) = _
  rw [h]
  simp only [and_true]

theorem exec_lockUp (core : Nat) (s : State) : exec (.lockUp core) s =
    if core < 32 then .next (s.coreSource .lockUp core) else .next s := rfl

theorem request_rules (s : State) (r : RstSource) (kind : Bool) (d i : Nat) :
    (s.srcLevel r ≠ .block → s.request r kind d i = s.assertPackage r (s.srcLevel r) false) ∧
    (s.srcLevel r = .block → blockTarget kind i = false → s.request r kind d i = s.setReg R.rstRes (BitVec.ofNat 64 K.eRstTarget.toNat)) ∧
    (s.srcLevel r = .block → blockTarget kind i = true → s.blockReady kind d i = false →
      s.request r kind d i = s.setReg R.rstRes (BitVec.ofNat 64 K.eRstBusy.toNat)) ∧
    (s.srcLevel r = .block → blockTarget kind i = true → s.blockReady kind d i = true →
      s.request r kind d i = (s.setReg R.rstRes 0x10000).assertBlock r kind d i) :=
  ⟨fun h => if_pos h, fun h ht => (if_neg (not_not_intro h)).trans (if_pos (not_of_eq_false ht)),
    fun h ht hb => (if_neg (not_not_intro h)).trans ((if_neg (not_not_intro ht)).trans (if_pos (not_of_eq_false hb))),
    fun h ht hb => (if_neg (not_not_intro h)).trans ((if_neg (not_not_intro ht)).trans (if_neg (not_not_intro hb)))⟩

theorem exec_coreDrainTimeout_none {b : Bool} (h : s.drains.find? (fun d => d.1 == core) = none) : exec (.coreDrainTimeout core b) s = .next s := by
  change execCoreDrainTimeout core b s = _
  unfold execCoreDrainTimeout
  rw [h]

theorem exec_coreDrainTimeout {b : Bool} {d : Nat × RstSource} (h : s.drains.find? (fun d => d.1 == core) = some d) :
    let s1 := { s with drains := s.drains.filter (fun d => d.1 != core) }
    exec (.coreDrainTimeout core b) s =
      if b = true then .next (s1.assertBlock d.2 true (core / 16) (core % 16)) else .next (s1.assertPackage d.2 .warm true) := by
  change execCoreDrainTimeout core b s = _
  unfold execCoreDrainTimeout
  rw [h]

/-! ### Episodes -/

variable {e : Episode}

theorem exec_sourceRelease_none (he : s.episode = none) : exec (.sourceRelease src) s =
    .next { s with blocks := s.blocks.map (fun (b : BlockEp) => { b with held := b.held.filter (fun x => x != src) }) } := by
  change execSourceRelease src s = _
  unfold execSourceRelease
  dsimp only
  rw [he]

theorem exec_sourceRelease (he : s.episode = some e) :
    let held := e.held.filter (fun x => x != src)
    exec (.sourceRelease src) s = .next { s with
      blocks := s.blocks.map (fun (b : BlockEp) => { b with held := b.held.filter (fun x => x != src) })
      episode := some { e with
        held := held, high := e.high || (e.minOver && src == .pin && e.held.contains .pin && held.isEmpty) } } := by
  change execSourceRelease src s = _
  unfold execSourceRelease
  dsimp only
  rw [he]

theorem exec_episodeMinimumEnd (he : s.episode = some e) : exec .episodeMinimumEnd s =
    if e.held.isEmpty = true ∧ ¬ e.minOver = true then .next { s.until (e.since + 10000) with episode := some { e with minOver := true } }
    else .next s := by
  change execEpisodeMinimumEnd s = _
  unfold execEpisodeMinimumEnd
  rw [he]

theorem exec_episodeMinimumEnd_block (he : s.episode = none) : exec .episodeMinimumEnd s =
    match s.blocks.find? (fun b => b.held.isEmpty && !b.minOver) with
    | none => .next s
    | some b => .next { s.until (b.since + 10000) with
        blocks := s.blocks.map (fun (x : BlockEp) =>
          if x.kind = b.kind ∧ x.die = b.die ∧ x.index = b.index then { x with minOver := true } else x) } := by
  change execEpisodeMinimumEnd s = _
  unfold execEpisodeMinimumEnd
  rw [he] <;> rfl

theorem exec_resetNSample_none {b : Bool} (he : s.episode = none) : exec (.resetNSample b) s = .next s := by
  change execResetNSample b s = _
  unfold execResetNSample
  rw [he]

theorem exec_resetNSample {b : Bool} (he : s.episode = some e) : exec (.resetNSample b) s =
    if ¬ e.minOver = true ∨ e.high = true ∨ ¬ e.held.isEmpty = true then .next s
    else if b = true then .next ((s.advance 2000).assertPackage .pin (s.srcLevel .pin) false)
    else .next { s.advance 2000 with episode := some { e with high := true } } := by
  change execResetNSample b s = _
  unfold execResetNSample
  rw [he]

theorem exec_episodeRelease (he : s.episode = some e) : exec .episodeRelease s =
    if e.minOver = true ∧ e.high = true ∧ e.held.isEmpty = true ∧ ¬ s.tripWaits = true then .next (s.releasePackage e) else .next s := by
  change execEpisodeRelease s = _
  unfold execEpisodeRelease
  rw [he]

theorem exec_episodeRelease_block (he : s.episode = none) : exec .episodeRelease s =
    match s.blocks.find? (fun b => b.held.isEmpty && b.minOver) with
    | some b => .next (s.releaseBlock b)
    | none => .next s := by
  change execEpisodeRelease s = _
  unfold execEpisodeRelease
  rw [he] <;> rfl

theorem State.setFld_episode (s : State) (a hi lo v : Nat) : (s.setFld a hi lo v).episode = s.episode := rfl

theorem pickRef_episode (s : State) (d : Nat) : (s.pickRef d).episode = s.episode := by
  unfold State.pickRef
  exact State.setReg_episode _ _ _

theorem releasePackage_episode (s : State) (e : Episode) : (s.releasePackage e).episode = none := by
  unfold State.releasePackage
  dsimp only
  split
  · rw [State.setFld_episode, State.setFld_episode]
  · split
    · rw [State.setReg_episode, State.setFld_episode, State.setFld_episode, pickRef_episode, pickRef_episode]
    · rw [State.setFld_episode, State.setFld_episode, pickRef_episode, pickRef_episode]

/-! ### References -/

theorem exec_clkFailover (h : s.refOk (!s.refSel) = true) :
    let lost := s.setRef s.refSel false
    exec .clkFailover s = .next (((((lost.setFld (R.clkStat 0) 0 0 (b2n !s.refSel)).setFld (R.clkStat 1) 0 0 (b2n !s.refSel)).satFld
      (R.clkStat 0) 31 16 1).satFld (R.clkStat 1) 31 16 1).report K.clkFailover 0) := if_neg (not_not_intro h)

end

/-- Settles O54. -/
theorem resetEpisodes : Obligations.ResetEpisodes := by
  unfold Obligations.ResetEpisodes
  intro s core kind die index src begins ofCore requests unheld drained sel lost
  have hcore : ∀ i r, (exec i s = if core < 32 then .next (s.coreSource r core) else .next s) → ofCore i r := by
    intro i r hi
    obtain ⟨h1, h2, h3⟩ := coreSource_rules s core r
    exact ⟨fun hc => hi.trans (if_neg (Nat.not_lt.mpr hc)), fun hc hl => hi.trans ((if_pos hc).trans (next_congr (h1 hl))),
      fun hc hl hd => hi.trans ((if_pos hc).trans (next_congr (h2 hl hd))), fun hc hl hd => hi.trans ((if_pos hc).trans (next_congr (h3 hl hd)))⟩
  have hreq : ∀ i r, exec i s = .next (s.request r kind die.toNat index.toNat) → requests i r := by
    intro i r hi
    obtain ⟨h1, h2, h3, h4⟩ := request_rules s r kind die.toNat index.toNat
    exact ⟨fun hl => hi.trans (next_congr (h1 hl)), fun hl ht => hi.trans (next_congr (h2 hl ht)),
      fun hl ht hb => hi.trans (next_congr (h3 hl ht hb)), fun hl ht hb => hi.trans (next_congr (h4 hl ht hb))⟩
  refine ⟨rfl, rfl, rfl, fun hd => if_neg (not_of_eq_false hd), fun hd => if_pos hd,
    fun u r l esc => ⟨assertPackage_begins, fun e he hl => assertPackage_raises he hl, fun e he hl => assertPackage_joins he hl⟩,
    fun h2 => hcore _ _ (exec_watchdog h2), exec_watchdog_off, hcore _ _ (exec_lockUp core s), hreq _ _ rfl, fun h3 => hreq _ _ (if_pos h3),
    fun h3 => if_neg h3, fun d hd => ⟨(exec_coreDrainTimeout hd).trans (if_pos rfl), (exec_coreDrainTimeout hd).trans (if_neg Bool.false_ne_true)⟩,
    fun b hd => exec_coreDrainTimeout_none hd, fun he => ⟨exec_sourceRelease_none he, fun b => exec_resetNSample_none he⟩, fun e he => ?_,
    fun b he hb => ?_, fun he hb => ?_, fun b he hb => ?_, fun he hb => ?_, fun h => if_pos (not_of_eq_false h), fun h => ?_,
    fun ref present hn => if_neg hn, fun present => if_pos rfl⟩
  · have hempty : e.held = [] ↔ e.held.isEmpty = true := List.isEmpty_iff.symm
    intro held
    refine ⟨exec_sourceRelease he, fun h0 hm => (exec_episodeMinimumEnd he).trans (if_pos ⟨hempty.mp h0, not_of_eq_false hm⟩),
      fun hn => (exec_episodeMinimumEnd he).trans (if_neg fun hc => hn.elim (fun h1 => h1 (hempty.mpr hc.1)) hc.2),
      fun h0 hm hh => ?_, fun hn b => (exec_resetNSample he).trans (if_pos ?_), fun h0 hm hh ht => ⟨(exec_episodeRelease he).trans
        (if_pos ⟨hm, hh, hempty.mp h0, not_of_eq_false ht⟩), releasePackage_episode s e⟩, fun hn => (exec_episodeRelease he).trans (if_neg ?_)⟩
    · have hg : ¬ (¬ e.minOver = true ∨ e.high = true ∨ ¬ e.held.isEmpty = true) := by
        rintro (h1 | h1 | h1)
        · exact h1 hm
        · exact not_of_eq_false hh h1
        · exact h1 (hempty.mp h0)
      exact ⟨(exec_resetNSample he).trans ((if_neg hg).trans (if_neg Bool.false_ne_true)), (exec_resetNSample he).trans ((if_neg hg).trans (if_pos rfl))⟩
    · rcases hn with h1 | h1 | h1
      · exact .inr (.inr fun h2 => h1 (hempty.mpr h2))
      · exact .inl (not_of_eq_false h1)
      · exact .inr (.inl h1)
    · rintro ⟨hm, hh, h0, ht⟩
      rcases hn with h1 | h1 | h1 | h1
      · exact h1 (hempty.mpr h0)
      · exact not_of_eq_false h1 hm
      · exact not_of_eq_false h1 hh
      · exact ht h1
  · refine (exec_episodeMinimumEnd_block he).trans ?_
    rw [hb]
  · refine (exec_episodeMinimumEnd_block he).trans ?_
    rw [hb]
  · refine (exec_episodeRelease_block he).trans ?_
    rw [hb]
  · refine (exec_episodeRelease_block he).trans ?_
    rw [hb]
  · refine (exec_clkFailover h).trans ?_
    rw [show b2n (!s.refSel) = if s.refSel = true then 0 else 1 by cases s.refSel <;> rfl]

end Sys2Proof.Machine

/-! SUPPORT. Gulras links as events (R373 to R379, R394, R395, R399). -/

namespace Sys2Proof.Machine

open Sys2Proof

section
variable {s : State} {l n : Nat} {frame : BitVec 5140} {die : BitVec 1}

/-! ### Frames -/

/-- The frame asks for itself again: its number is missing. -/
def State.asksAgain (s : State) (l : Nat) : State := (s.setGlink l { s.glink l with nak := true }).sendIdle l

/-- A link of the device that is up. -/
def State.isUp (s : State) (l : Nat) : Prop := l < 32 ∧ s.linkState l = 2

/-- The state once a frame's acknowledgement, credits and nak have been taken. -/
def State.frameHead (s : State) (l n f : Nat) : State :=
  let s1 := s.incFld (R.gulLerr l) 31 0 n
  let s2 := s1.frameAck l (f / 2 ^ 12 % 4096)
  let s3 := s2.setGlink l ((s2.glink l).gain (f / 2 ^ 32 % 64) (f / 2 ^ 38 % 64) (f / 2 ^ 44 % 64) (f / 2 ^ 50 % 64))
  if f.testBit 24 then s3.frameNak l else s3

theorem exec_gulFrameReceive_down {fec : Option Nat} (h : ¬ s.isUp l) : exec (.gulFrameReceive l fec frame) s = .next s := if_pos h

theorem exec_gulFrameReceive_lost (h : s.isUp l) : exec (.gulFrameReceive l none frame) s = .next (s.asksAgain l) :=
  if_neg (not_not_intro h)

theorem exec_gulFrameReceive (h : s.isUp l) : exec (.gulFrameReceive l (some n) frame) s =
    if ¬ frameOk frame = true then .next ((s.incFld (R.gulLerr l) 31 0 n).asksAgain l)
    else if frame.toNat.testBit 25 = true then .next ((s.frameHead l n frame.toNat).pump l)
    else .next (((s.frameHead l n frame.toNat).frameBody l frame.toNat).answerFrame l) := if_neg (not_not_intro h)

section
variable {f : Nat}

theorem frameBody_next (h : f % 4096 = (s.glink l).rx) :
    s.frameBody l f = s.setGlink l { takeSlots f (f.testBit 26) (s.glink l) with rx := ((s.glink l).rx + 1) % 4096 } := if_pos h

theorem frameBody_old (h : f % 4096 ≠ (s.glink l).rx) (h1 : ((s.glink l).rx + 4096 - f % 4096) % 4096 ≤ 2048) : s.frameBody l f = s :=
  (if_neg h).trans (if_pos h1)

theorem frameBody_gap (h : f % 4096 ≠ (s.glink l).rx) (h1 : 2048 < ((s.glink l).rx + 4096 - f % 4096) % 4096) :
    s.frameBody l f = s.setGlink l { s.glink l with nak := true } := (if_neg h).trans (if_neg (Nat.not_le.mpr h1))

end

theorem exec_gulAckTimeout (h : s.isUp l) (hr : (s.glink l).replay ≠ []) :
    exec (.gulAckTimeout l) s = .next ((s.until ((s.glink l).heard + 10000)).linkDown l) := if_pos ⟨h.1, h.2, hr⟩

theorem exec_gulAckTimeout_idle (h : ¬ s.isUp l ∨ (s.glink l).replay = []) : exec (.gulAckTimeout l) s = .next s :=
  if_neg (fun hn => h.elim (fun h1 => h1 ⟨hn.1, hn.2.1⟩) (fun h1 => hn.2.2 h1))

/-! ### Routing -/

theorem exec_gulPacketRoute_none (h : 32 ≤ l ∨ (s.glink l).rxq = []) : exec (.gulPacketRoute l) s = .next s := by
  change execGulPacketRoute l s = _
  unfold execGulPacketRoute
  by_cases hl : l < 32
  · refine (if_neg (not_not_intro hl)).trans ?_
    rw [h.resolve_left (Nat.not_le.mpr hl)]
  · exact if_pos hl

theorem exec_gulPacketRoute {p : GPkt} {r : List GPkt} (hl : l < 32) (h : (s.glink l).rxq = p :: r) :
    let u := (s.setGlink l ({ s.glink l with rxq := r }.owe (p.cls % 4) p.slots)).gulSend (l / 16) l p
    exec (.gulPacketRoute l) s = .next (if u.linkState l = 2 ∧ (u.glink l).owed ≠ 0 then u.sendIdle l else u) := by
  change execGulPacketRoute l s = _
  unfold execGulPacketRoute
  refine (if_neg (not_not_intro hl)).trans ?_
  rw [h]

theorem gulSend_here {d : Nat} {p : GPkt} (hp : p.ddev = s.gulDev) (hr : p.isReply = false) :
    s.gulSend d l p = { s with gin := s.gin ++ [⟨p, d, l, none⟩] } := (if_pos hp).trans (if_neg (not_of_eq_false hr))

theorem gulSend_out {d : Nat} {p : GPkt} {v : State} (hp : p.ddev ≠ s.gulDev) (hv : s.routeOut d p = .ok v) : s.gulSend d l p = v := by
  unfold State.gulSend
  refine (if_neg hp).trans ?_
  rw [hv]

theorem replyOp_of_isReply {p : GPkt} (h : p.isReply = true) : p.replyOp = none := if_pos h

theorem gulSend_lost {d : Nat} {p : GPkt} {c : Code} (hp : p.ddev ≠ s.gulDev) (hc : s.routeOut d p = .error c) (hr : p.isReply = true) :
    s.gulSend d l p = s.gulLost l := by
  unfold State.gulSend
  refine (if_neg hp).trans ?_
  rw [hc]
  dsimp only
  rw [replyOp_of_isReply hr]

/-! ### Training, banks, holds -/

theorem exec_gulrasLinkTrained {peer : BitVec 16} {plink : BitVec 5} (hl : l < 32) (hc : bit 0 (s.reg (R.gulLcfg l)) = true) (h2 : s.linkState l ≠ 2) :
    exec (.gulrasLinkTrained l peer plink) s = .next (((s.setReg (R.gulLstat l) (BitVec.ofNat 64 (2 + peer.toNat * 2 ^ 16 +
      plink.toNat * 2 ^ 32))).setGlink l { txq := (s.glink l).txq, rxq := (s.glink l).rxq, heard := s.gtime }).pump l) := if_pos ⟨hl, hc, h2⟩

theorem exec_gulrasLinkTrained_ignored {peer : BitVec 16} {plink : BitVec 5} (h : 32 ≤ l ∨ bit 0 (s.reg (R.gulLcfg l)) = false ∨ s.linkState l = 2) :
    exec (.gulrasLinkTrained l peer plink) s = .next s := by
  refine if_neg ?_
  rintro ⟨h1, h2, h3⟩
  rcases h with h | h | h
  · exact Nat.not_le.mpr h1 h
  · exact not_of_eq_false h h2
  · exact h3 h

theorem State.setGlink_holds (s : State) (l : Nat) (x : GLink) : (s.setGlink l x).holds = s.holds := rfl

theorem sendSlots_holds (s : State) (l : Nat) (f : GFill) : (s.sendSlots l f).holds = s.holds := by
  unfold State.sendSlots
  dsimp only
  rw [State.setGlink_holds]
  rfl

theorem pumpN_holds (n : Nat) (s : State) (l : Nat) : (State.pumpN n s l).holds = s.holds := by
  induction n generalizing s with
  | zero => rfl
  | succ n ih =>
    rw [State.pumpN]
    split
    · rfl
    · dsimp only
      split
      · rfl
      · exact (ih _).trans (sendSlots_holds s l _)

theorem pump_holds (s : State) (l : Nat) : (s.pump l).holds = s.holds := pumpN_holds _ s l

theorem foldl_pump_holds (ls : List Nat) (s : State) : (ls.foldl (fun s l => s.pump l) s).holds = s.holds := by
  induction ls generalizing s with
  | nil => rfl
  | cons l ls ih => exact (ih _).trans (pump_holds s l)

/-- The holds that a release leaves (R379). -/
theorem exec_routeHoldRelease (die : BitVec 1) (s : State) : ∃ t, exec (.routeHoldRelease die) s = .next t ∧
    t.holds = s.holds.filter (fun h => h.1 != die.toNat || (List.range 32).any (fun l => (s.glink l).owes h.2)) :=
  ⟨_, rfl, (foldl_pump_holds _ _).trans rfl⟩

theorem mem_released {d : Nat} (s : State) (e dev : Nat) :
    (e, dev) ∈ s.holds.filter (fun h => h.1 != d || (List.range 32).any (fun l => (s.glink l).owes h.2)) ↔
      (e, dev) ∈ s.holds ∧ (e = d → ¬ ∀ i, i < 32 → (s.glink i).owes dev = false) := by
  rw [List.mem_filter]
  refine and_congr_right fun _ => ?_
  by_cases he : e = d <;> simp [he]

/-! ### Time -/

variable {t1 t2 t3 t4 : Word}

theorem exec_timeExchange_off (h : bit 5 (s.reg (R.gulTcfg 0)) = true ∨ s.linkState (s.fld (R.gulTcfg 0) 4 0) ≠ 2) :
    exec (.timeExchange t1 t2 t3 t4) s = .next s := if_pos h

/-- The offset of an exchange, less the asymmetry of the cable. -/
def State.timeOffset (s : State) (t1 t2 t3 t4 : Word) : Int :=
  ((t2 - t1).toInt - (t4 - t3).toInt).tdiv 2 - (BitVec.ofNat 16 (s.fld (R.gulTcfg 0) 31 16)).toInt

theorem exec_timeExchange (h5 : bit 5 (s.reg (R.gulTcfg 0)) = false) (hl : s.linkState (s.fld (R.gulTcfg 0) 4 0) = 2) :
    let off := s.timeOffset t1 t2 t3 t4
    let k := if (decide (-4 ≤ off) && decide (off ≤ 4)) = true then s.locks + 1 else 0
    exec (.timeExchange t1 t2 t3 t4) s = .next
      (({ s with slew := off, slewPhase := 0, locks := k, out := s.out ++ [Out.time (s.fld (R.gulTcfg 0) 4 0)] }.setFld (R.gulTstat 0) 31 0
        (off % 2 ^ 32).toNat).setFld (R.gulTstat 0) 32 32 (b2n (decide (3 ≤ k)))) :=
  if_neg (fun hn => hn.elim (not_of_eq_false h5) (fun h1 => h1 hl))

end

/-- Settles O45. -/
theorem gulrasLinks : Obligations.GulrasLinks := by
  unfold Obligations.GulrasLinks
  intro s l n frame die bank peer plink t1 t2 t3 t4 x f nak s1 s2 s3 s4 x4 receive isUp d up off k back frees
  refine ⟨exec_gulFrameReceive_lost, fun hu hf => (exec_gulFrameReceive hu).trans (if_pos (not_of_eq_false hf)),
    fun hu hf hi => (exec_gulFrameReceive hu).trans ((if_neg (not_not_intro hf)).trans (if_pos hi)), fun hu hf hi hn => ?_, fun hu hf hi hn ho => ?_,
    fun hu hf hi hn ho => ?_, fun hu fec => exec_gulFrameReceive_down hu, exec_gulAckTimeout, exec_gulAckTimeout_idle,
    fun p r hl hr => exec_gulPacketRoute hl hr, exec_gulPacketRoute_none, fun u p => ⟨gulSend_here, fun v hp hv => gulSend_out hp hv,
    fun c hp hc hr => gulSend_lost hp hc hr⟩, exec_gulrasLinkTrained, exec_gulrasLinkTrained_ignored, fun hb => if_pos hb, fun hb => if_neg hb, ?_,
    fun h5 hl => ?_, exec_timeExchange_off, fun hs hb => ?_, fun hn => ?_⟩
  · exact (exec_gulFrameReceive hu).trans ((if_neg (not_not_intro hf)).trans ((if_neg (not_of_eq_false hi)).trans
      (next_congr (congrArg (State.answerFrame · l) (frameBody_next hn)))))
  · exact (exec_gulFrameReceive hu).trans ((if_neg (not_not_intro hf)).trans ((if_neg (not_of_eq_false hi)).trans
      (next_congr (congrArg (State.answerFrame · l) (frameBody_old hn ho)))))
  · exact (exec_gulFrameReceive hu).trans ((if_neg (not_not_intro hf)).trans ((if_neg (not_of_eq_false hi)).trans
      (next_congr (congrArg (State.answerFrame · l) (frameBody_gap hn ho)))))
  · obtain ⟨t, ht, hh⟩ := exec_routeHoldRelease die s
    refine ⟨t, ht, fun e dev => ?_⟩
    rw [hh]
    exact mem_released s e dev
  · refine (exec_timeExchange h5 hl).trans ?_
    simp only [Bool.and_eq_true, decide_eq_true_eq, b2n]
    rfl
  · exact if_neg (fun hn => hn.elim (not_of_eq_false hs) (fun h1 => absurd hb (Int.not_lt.mpr h1)))
  · exact if_pos hn

end Sys2Proof.Machine

/-! SUPPORT. What the engines of a Gulras link do with a packet, what a steward core's remote-request port sends, and
what a collective's units do on their way up and down (R380 to R387). -/
namespace Sys2Proof.Machine

open Sys2Proof

/-! ### Admission -/

section
variable {s s1 : State} {g : GIn} {k : Nat}

/-- A read or a write of remote memory. -/
def GPkt.isData (p : GPkt) : Prop := p.op = 0 ∨ p.op = 2

theorem GPkt.isData.not_reply {p : GPkt} (h : p.isData) : ¬ p.isReply = true := by
  rcases h with h | h <;> simp [GPkt.isReply, h]

theorem GPkt.isData.op_ne {p : GPkt} (h : p.isData) : p.op ≠ 5 ∧ p.op ≠ 7 ∧ p.op ≠ 8 ∧ p.op ≠ 10 := by
  rcases h with h | h <;> simp [h]

theorem State.dropGin_only (hg : s.gin = [g]) : s.dropGin 0 = { s with gin := [] } := by
  unfold State.dropGin
  rw [hg] <;> rfl

/-- A packet that waits alone and has not been admitted. -/
theorem exec_gulRemoteAdmit (hg : s.gin = [g]) (ha : g.admitted = none) (hd : g.pkt.isData) :
    exec (.gulRemoteAdmit 0) s =
      if g.pkt.job = 0 then .next { s with gin := [{ g with admitted := some (0, 0) }] }
      else match s.jobTable g.pkt.job with
        | none => .next ({ s with gin := [] }.gulReply g K.eLinkJob [])
        | some t => .next (s.gulJobPacket 0 t g) := by
  obtain ⟨-, h7, h8, -⟩ := hd.op_ne
  have hr := hd.not_reply
  have hd' : g.pkt.op = 0 ∨ g.pkt.op = 2 := hd
  change execGulRemoteAdmit 0 s = _
  unfold execGulRemoteAdmit
  simp only [hg, List.getElem?_cons_zero, ha, Option.isSome_none, Bool.false_eq_true, if_false, if_neg hr, h7, h8, false_and, hd', if_true,
    List.set_cons_zero, State.dropGin, List.eraseIdx_cons_zero] <;> rfl

theorem exec_gulRemoteAdmit_job {t : Nat} (hg : s.gin = [g]) (ha : g.admitted = none) (hd : g.pkt.isData) (hj : g.pkt.job ≠ 0)
    (ht : s.jobTable g.pkt.job = some t) : exec (.gulRemoteAdmit 0) s = .next (s.gulJobPacket 0 t g) := by
  rw [exec_gulRemoteAdmit hg ha hd, if_neg hj, ht] <;> rfl

theorem gulJobPacket_data (hg : s.gin = [g]) (hd : g.pkt.isData) :
    s.gulJobPacket 0 k g =
      if g.pkt.cnum.toNat = (s.cnum k).toNat ∧ (s.gphase k = 1 ∨ s.gphase k = 2) then
        { s with gin := [{ g with admitted := some (k, s.ecmd k) }] }
      else if (s.cnum k).toNat < g.pkt.cnum.toNat then
        (({ s with gin := [] }.satFld (R.gulJstat 0 k) 63 56 1).satFld (R.gulJstat 1 k) 63 56 1).gulReply g K.eLinkRetry []
      else { s with gin := [] }.gulStale k := by
  obtain ⟨h5, -, -, h10⟩ := hd.op_ne
  have hd' : g.pkt.op = 0 ∨ g.pkt.op = 2 := hd
  simp only [State.gulJobPacket, h10, false_and, if_false, h5, and_false, State.gulAdmitted, hd', if_true, State.gulRetry, State.dropGin, hg,
    List.set_cons_zero, List.eraseIdx_cons_zero]

theorem exec_gulRemoteAdmit_reply (hg : s.gin = [g]) (ha : g.admitted = none) (hr : g.pkt.isReply = true) :
    exec (.gulRemoteAdmit 0) s = .next ({ s with gin := [] }.gulAnswer g.pkt) := by
  change execGulRemoteAdmit 0 s = _
  unfold execGulRemoteAdmit
  simp only [hg, List.getElem?_cons_zero, ha, Option.isSome_none, Bool.false_eq_true, if_false, hr, if_true, State.dropGin,
    List.eraseIdx_cons_zero]

theorem exec_gulRemoteAdmit_again (hg : s.gin = [g]) (ha : g.admitted.isSome = true) : exec (.gulRemoteAdmit 0) s = .next s := by
  change execGulRemoteAdmit 0 s = _
  unfold execGulRemoteAdmit
  simp only [hg, List.getElem?_cons_zero, ha, if_true]

/-- Where no packet waits, none is admitted, written or read. -/
theorem exec_gulRemote_none {i : Nat} (h : s.gin[i]? = none) :
    exec (.gulRemoteAdmit i) s = .next s ∧ exec (.gulRemoteWrite i) s = .next s ∧ exec (.gulRemoteRead i) s = .next s := by
  change execGulRemoteAdmit i s = _ ∧ execGulRemoteWrite i s = _ ∧ execGulRemoteRead i s = _
  unfold execGulRemoteAdmit execGulRemoteWrite execGulRemoteRead
  simp only [h, and_self]

/-! ### Remote writes and reads -/

theorem exec_gulRemoteWrite {c : BitVec 8} {r : Land} (hg : s.gin = [g]) (ha : g.admitted = some (k, c)) (ho : g.pkt.op = 2)
    (hl : s.remoteLand g.link k g.pkt = (s1, r)) :
    exec (.gulRemoteWrite 0) s = .next (match (generalizing := false) r with
      | .done => (s1.dropGin 0).gulReply g 0 []
      | .held => s
      | _ => { s with gin := [] }.gulReply g r.code []) := by
  change execGulRemoteWrite 0 s = _
  unfold execGulRemoteWrite
  simp only [hg, List.getElem?_cons_zero, ha, ho, ne_eq, not_true_eq_false, if_false, hl]
  cases r with
  | done => rfl
  | held => rfl
  | absent => exact next_congr (congrArg (fun s : State => s.gulReply g Land.absent.code []) (State.dropGin_only hg))
  | refused e => exact next_congr (congrArg (fun s : State => s.gulReply g (Land.refused e).code []) (State.dropGin_only hg))

theorem exec_gulRemoteWrite_not (hg : s.gin = [g]) (h : g.admitted = none ∨ g.pkt.op ≠ 2) : exec (.gulRemoteWrite 0) s = .next s := by
  change execGulRemoteWrite 0 s = _
  unfold execGulRemoteWrite
  simp only [hg, List.getElem?_cons_zero]
  rcases h with h | h
  · rw [h] <;> rfl
  · cases g.admitted with
    | none => rfl
    | some x => exact if_pos h

/-- The bytes of an admitted read. -/
def State.remoteTake (s : State) (g : GIn) (k : Nat) : State × Except Land (List Byte) :=
  if k = 0 then s.takeFor 0 0 g.pkt.addr g.pkt.len else s.takeVA (gulAgent g.link) k g.pkt.addr g.pkt.len true

theorem exec_gulRemoteRead {c : BitVec 8} {r : Except Land (List Byte)} (hg : s.gin = [g]) (ha : g.admitted = some (k, c)) (ho : g.pkt.op = 0)
    (ht : s.remoteTake g k = (s1, r)) :
    exec (.gulRemoteRead 0) s = .next (match (generalizing := false) r with
      | .ok bs => (s1.dropGin 0).gulReply g 0 bs
      | .error e => (s1.dropGin 0).gulReply g e.code []) := by
  unfold State.remoteTake at ht
  change execGulRemoteRead 0 s = _
  unfold execGulRemoteRead
  simp only [hg, List.getElem?_cons_zero, ha, ho, ne_eq, not_true_eq_false, if_false, ht]
  cases r <;> rfl

theorem exec_gulRemoteRead_not (hg : s.gin = [g]) (h : g.admitted = none ∨ g.pkt.op ≠ 0) : exec (.gulRemoteRead 0) s = .next s := by
  change execGulRemoteRead 0 s = _
  unfold execGulRemoteRead
  simp only [hg, List.getElem?_cons_zero]
  rcases h with h | h
  · rw [h] <;> rfl
  · cases g.admitted with
    | none => rfl
    | some x => exact if_pos h

theorem exec_gulRetryResend {r : GReq} (hq : s.greqs = [r]) (hr : r.retry = true) (hc : r.core < 32) :
    exec (.gulRetryResend 0) s =
      .next ({ s with greqs := [{ r with retry := false }] }.gulSend (r.core / 16) (16 * (r.core / 16)) r.pkt) := by
  change execGulRetryResend 0 s = _
  unfold execGulRetryResend
  simp only [hq, List.getElem?_cons_zero, hr, if_true, hc, List.set_cons_zero]

theorem exec_gulRetryResend_not {r : GReq} (hq : s.greqs = [r]) (hr : r.retry = false) : exec (.gulRetryResend 0) s = .next s := by
  change execGulRetryResend 0 s = _
  unfold execGulRetryResend
  simp only [hq, List.getElem?_cons_zero, hr, Bool.false_eq_true, if_false]

end

/-! ### The remote-request ports -/

section
variable {s s1 : State} {core : Nat} {t : BitVec 8} {ddev sid : BitVec 16} {fill : Bool} {len : BitVec 21} {job cnum : BitVec 32}

theorem State.qopOpen_iff : s.qopOpen core = true ↔ core < 32 ∧ bit 16 (s.reg (R.gulQres core)) = true ∧ s.coreFenced core = false := by
  simp [State.qopOpen, and_assoc]

theorem exec_gulQopRead_refused (h : ¬ s.qopOpen core = true ∨ ¬ (0 < len.toNat ∧ len.toNat ≤ 1048576)) :
    exec (.gulQopRead core t ddev fill sid len) s = .next s :=
  if_pos (h.imp_right (by omega))

theorem exec_gulQopWrite_refused (h : ¬ s.qopOpen core = true ∨ ¬ (0 < len.toNat ∧ len.toNat ≤ 1048576)) :
    exec (.gulQopWrite core t ddev fill sid len) s = .next s :=
  if_pos (h.imp_right (by omega))

theorem exec_gulQopRead (ho : s.qopOpen core = true) (hl : 0 < len.toNat ∧ len.toNat ≤ 1048576) (hj : s.qopJob t.toNat = some (job, cnum)) :
    exec (.gulQopRead core t ddev fill sid len) s = .next ((s.qopStart core t.toNat fill sid none).qopSend core (s.qopBase 0 ddev job cnum)
      (s.fld (R.gulQrva core) 47 0) (s.fld (R.gulQlva core) 47 0) [] (qopParts len.toNat)) := by
  refine (if_neg (not_or.mpr ⟨not_not_intro ho, by omega⟩)).trans ?_
  rw [hj] <;> rfl

/-- Without a job that spans devices a request ends at once. -/
theorem exec_gulQop_jobless (ho : s.qopOpen core = true) (hl : 0 < len.toNat ∧ len.toNat ≤ 1048576) (hj : s.qopJob t.toNat = none) :
    exec (.gulQopRead core t ddev fill sid len) s = .next (s.qopEnd core t.toNat fill sid K.eLinkJob) ∧
      exec (.gulQopWrite core t ddev fill sid len) s = .next (s.qopEnd core t.toNat fill sid K.eLinkJob) := by
  have hn : ¬ (¬ s.qopOpen core = true ∨ len.toNat = 0 ∨ 1048576 < len.toNat) := not_or.mpr ⟨not_not_intro ho, by omega⟩
  constructor
  · refine (if_neg hn).trans ?_
    rw [hj] <;> rfl
  · refine (if_neg hn).trans ?_
    rw [hj] <;> rfl

theorem exec_gulQopWrite {r : Except Land (List Byte)} (ho : s.qopOpen core = true) (hl : 0 < len.toNat ∧ len.toNat ≤ 1048576)
    (hj : s.qopJob t.toNat = some (job, cnum))
    (ht : (s.qopStart core t.toNat fill sid none).takeFor (core / 16) t.toNat (s.fld (R.gulQlva core) 47 0) len.toNat = (s1, r)) :
    exec (.gulQopWrite core t ddev fill sid len) s = .next (match (generalizing := false) r with
      | .error e => s1.gulFail core t.toNat e.code
      | .ok bs => s1.qopSend core (s.qopBase 2 ddev job cnum) (s.fld (R.gulQrva core) 47 0) 0 bs (qopParts len.toNat)) := by
  refine (if_neg (not_or.mpr ⟨not_not_intro ho, by omega⟩)).trans ?_
  simp only [hj, ht]
  cases r <;> rfl

theorem qopParts_offsets (n : Nat) : (qopParts n).map Prod.fst = (List.range ((n + 255) / 256)).map (fun i => 256 * i) := by
  simp [qopParts, Function.comp_def]

/-- Whole packets of 256 bytes, and one of what is left. -/
theorem qopParts_lengths (n : Nat) :
    (qopParts n).map Prod.snd = List.replicate (n / 256) 256 ++ (if n % 256 = 0 then [] else [n % 256]) := by
  have full : (List.range (n / 256)).map (fun i => min 256 (n - 256 * i)) = List.replicate (n / 256) 256 := by
    rw [List.eq_replicate_iff]
    refine ⟨by simp, fun b hb => ?_⟩
    obtain ⟨i, hi, rfl⟩ := List.mem_map.mp hb
    have := List.mem_range.mp hi
    omega
  rw [qopParts, List.map_map]
  by_cases h : n % 256 = 0
  · rw [if_pos h, List.append_nil, show (n + 255) / 256 = n / 256 by omega, ← full]
    rfl
  · rw [if_neg h, show (n + 255) / 256 = n / 256 + 1 by omega, List.range_succ, List.map_append, ← full]
    congr 1
    simp only [List.map_cons, List.map_nil, Function.comp]
    congr 1
    omega

end

/-! ### Collectives -/

section
variable {s s1 : State} {core k u : Nat} {t : BitVec 8} {sid : BitVec 16} {fill : Bool} {seq : BitVec 32} {c : Coll} {bs : List Byte}

theorem exec_gulQopCollective_closed (h : ¬ s.qopOpen core = true) : exec (.gulQopCollective core t fill sid) s = .next s := if_pos h

theorem exec_gulQopCollective_jobless (ho : s.qopOpen core = true) (h : t = 0 ∨ s.spanning t.toNat = false) :
    exec (.gulQopCollective core t fill sid) s = .next (s.qopEnd core t.toNat fill sid K.eLinkJob) :=
  (if_neg (not_not_intro ho)).trans (if_pos (h.imp_right not_of_eq_false))

/-- The collective that a descriptor enters. -/
def State.entered (s : State) (core t q : Nat) (bs : List Byte) : Coll :=
  { table := t, seq := q, core := core, job := (s.jid t).toNat, num := (s.tbl t).num, desc := bs }

theorem exec_gulQopCollective {r : Except Land (List Byte)} (ho : s.qopOpen core = true) (ht : t ≠ 0) (hs : s.spanning t.toNat = true)
    (hg : s.takeFor (core / 16) t.toNat (s.fld (R.gulQlva core) 47 0) 32 = (s1, r)) :
    exec (.gulQopCollective core t fill sid) s = .next (match (generalizing := false) r with
      | .error e => (s1.qopStart core t.toNat fill sid none).gulFail core t.toNat e.code
      | .ok bs =>
        let d := CDesc.of (s1.jid t.toNat).toNat (s1.tbl t.toNat).num bs
        if descOk bs = false ∨ d.seq ≠ (s1.tbl t.toNat).colls then (s1.qopStart core t.toNat fill sid none).gulFail core t.toNat K.eLinkColl
        else { (s1.qopStart core t.toNat fill sid (some d.seq)).updTbl t.toNat (fun x => { x with colls := x.colls + 1 }) with
          colls := s1.colls ++ [s1.entered core t.toNat d.seq bs] }) := by
  refine (if_neg (not_not_intro ho)).trans ((if_neg (not_or.mpr ⟨ht, not_not_intro hs⟩)).trans ?_)
  simp only [hg]
  cases r with
  | error e => rfl
  | ok bs =>
    simp only [Bool.not_eq_true]
    split <;> rfl

theorem exec_collectiveUnitCombine_none (h : s.coll k seq.toNat = none) : exec (.collectiveUnitCombine k seq u) s = .next s := by
  change execCollectiveUnitCombine k seq u s = _
  unfold execCollectiveUnitCombine
  rw [h] <;> rfl

theorem exec_collectiveUnitCombine (h : s.coll k seq.toNat = some c) :
    exec (.collectiveUnitCombine k seq u) s =
      if c.d.units ≤ u ∨ c.placed.contains u then .next s
      else if s.rank k = 0 then .next (s.unitUp c u)
      else if c.d.op = 3 ∨ c.sent.contains u then .next (if c.d.all then s.unitDown c u else s)
      else .next (s.unitUp c u) := by
  change execCollectiveUnitCombine k seq u s = _
  unfold execCollectiveUnitCombine
  rw [h] <;> rfl

/-- A unit that is not placed yet. -/
theorem exec_collectiveUnitCombine_open (h : s.coll k seq.toNat = some c) (hu : u < c.d.units) (hp : c.placed.contains u = false) :
    exec (.collectiveUnitCombine k seq u) s =
      if s.rank k = 0 then .next (s.unitUp c u)
      else if c.d.op = 3 ∨ c.sent.contains u then .next (if c.d.all then s.unitDown c u else s)
      else .next (s.unitUp c u) :=
  (exec_collectiveUnitCombine h).trans (if_neg (not_or.mpr ⟨by omega, not_of_eq_false hp⟩))

theorem exec_collectiveUnitCombine_up (h : s.coll k seq.toNat = some c) (hu : u < c.d.units) (hp : c.placed.contains u = false)
    (hr : s.rank k = 0 ∨ (c.d.op ≠ 3 ∧ c.sent.contains u = false)) :
    exec (.collectiveUnitCombine k seq u) s = .next (s.unitUp c u) := by
  rw [exec_collectiveUnitCombine_open h hu hp]
  by_cases h0 : s.rank k = 0
  · exact if_pos h0
  · obtain ⟨h3, hs⟩ := hr.resolve_left h0
    exact (if_neg h0).trans (if_neg (not_or.mpr ⟨h3, not_of_eq_false hs⟩))

theorem exec_collectiveUnitCombine_down (h : s.coll k seq.toNat = some c) (hu : u < c.d.units) (hp : c.placed.contains u = false)
    (hr : s.rank k ≠ 0) (hs : c.d.op = 3 ∨ c.sent.contains u = true) :
    exec (.collectiveUnitCombine k seq u) s = .next (if c.d.all then s.unitDown c u else s) := by
  rw [exec_collectiveUnitCombine_open h hu hp, if_neg hr, if_pos hs]

/-- A unit waits for the partial results of the children. -/
theorem unitUp_waits (h3 : c.d.op ≠ 3)
    (h : (s.children c.table).mapM (fun r => c.stream r (u * c.d.per * c.d.msz) (c.d.elems u * c.d.msz)) = none) : s.unitUp c u = s := by
  unfold State.unitUp
  simp only [if_neg h3, h]

theorem unitUp_eq {parts : List (List Byte)} (h3 : c.d.op ≠ 3)
    (hp : (s.children c.table).mapM (fun r => c.stream r (u * c.d.per * c.d.msz) (c.d.elems u * c.d.msz)) = some parts)
    (ho : s.takeVA (gulAgent (16 * (c.core / 16))) c.table (c.d.src + u * c.d.per * c.d.isz) (c.d.elems u * c.d.isz) true = (s1, .ok bs)) :
    s.unitUp c u =
      let y := c.d.combineAll u (c.d.elems u) (c.d.enter (c.d.elems u) bs) parts
      if s1.rank c.table ≠ 0 then
        ((s1.collFlags c.core y.2).updColl c.table c.seq (fun c => { c with sent := c.sent ++ [u] })).sendUnit c u y.1
          [treeParent (s1.rank c.table)]
      else (s1.collFlags c.core (y.2 ||| (c.d.finish (c.d.elems u) y.1).2)).placeUnit c u (c.d.finish (c.d.elems u) y.1).1 := by
  unfold State.unitUp
  simp only [if_neg h3, hp, ho]

end

/-! ### The end of a request -/

section
variable {s : State} {core : Nat} {o : GOp}

/-- Whether a port's collective is complete here, or has failed. -/
def State.collWhole (s : State) (o : GOp) : Bool :=
  match o.coll with
  | none => true
  | some q => (match s.coll o.table q with | some c => s.collDone c || o.status != 0 | none => true)

theorem State.collWhole_iff : s.collWhole o = true ↔
    ∀ q c, o.coll = some q → s.coll o.table q = some c → s.collDone c = true ∨ o.status ≠ 0 := by
  unfold State.collWhole
  cases hq : o.coll with
  | none => exact iff_of_true rfl (fun q c h => nomatch h)
  | some q =>
    cases hc : s.coll o.table q with
    | none =>
      refine iff_of_true (by simp [hc]) (fun p c h hp => ?_)
      rw [← Option.some.inj h, hc] at hp
      exact nomatch hp
    | some c =>
      refine Iff.trans (by simp [hc]) ⟨fun (h : s.collDone c = true ∨ o.status ≠ 0) p e hp he => ?_, fun h => h q c rfl hc⟩
      rw [← Option.some.inj hp, hc] at he
      exact Option.some.inj he ▸ h

/-- A request's end: its registers, its fill, and the table's readiness. -/
def State.qopFinished (s : State) (core : Nat) (o : GOp) : State :=
  let s1 := { s.setQres core o.status true o.flags with
    gops := s.gops.filter (fun x => x.1 != core)
    colls := s.colls.filter (fun c => !(c.table == o.table && o.coll == some c.seq)) }
  (if o.fill then s1.fillSync (core / 16) o.table o.sid (o.status.setWidth 64) else s1).tryReady o.table

theorem exec_gulQopDone (h : s.gop core = some o) :
    exec (.gulQopDone core) s =
      if (s.greqs.any (fun r => r.core == core) || !s.collWhole o) = true then .next s else .next (s.qopFinished core o) := by
  change execGulQopDone core s = _
  unfold execGulQopDone
  rw [h] <;> rfl

theorem exec_gulQopDone_none (h : s.gop core = none) : exec (.gulQopDone core) s = .next s := by
  change execGulQopDone core s = _
  unfold execGulQopDone
  rw [h] <;> rfl

theorem exec_gulQopDone_unanswered (h : s.gop core = some o) (hr : ∃ r ∈ s.greqs, r.core = core) : exec (.gulQopDone core) s = .next s := by
  refine (exec_gulQopDone h).trans (if_pos (Bool.or_eq_true_iff.mpr (Or.inl (List.any_eq_true.mpr ?_))))
  obtain ⟨r, hm, hc⟩ := hr
  exact ⟨r, hm, beq_iff_eq.mpr hc⟩

theorem exec_gulQopDone_partial (h : s.gop core = some o) (hw : ¬ s.collWhole o = true) : exec (.gulQopDone core) s = .next s :=
  (exec_gulQopDone h).trans (if_pos (Bool.or_eq_true_iff.mpr (Or.inr (Bool.not_eq_true' _ ▸ eq_false_of_ne_true hw))))

theorem exec_gulQopDone_whole (h : s.gop core = some o) (hr : ∀ r ∈ s.greqs, r.core ≠ core) (hw : s.collWhole o = true) :
    exec (.gulQopDone core) s = .next (s.qopFinished core o) := by
  refine (exec_gulQopDone h).trans (if_neg ?_)
  have hn : s.greqs.any (fun r => r.core == core) = false := List.any_eq_false.mpr (fun r hm => by simpa using hr r hm)
  rw [hn, hw]
  exact Bool.false_ne_true

end

/-- Settles O46. -/
theorem remoteMemoryAndCollectives : Obligations.RemoteMemoryAndCollectives := by
  unfold Obligations.RemoteMemoryAndCollectives
  refine ⟨?_, ?_⟩
  · intro s g core t ddev sid fill len p empty wait here data held taken n isOpen inLen lva rva start read write ended
    have job {k : Nat} (hh : here) (hk : held k) : taken = .next (s.gulJobPacket 0 k g) := exec_gulRemoteAdmit_job hh.1 hh.2 hk.2.1 hk.1 hk.2.2
    have opened (ho : isOpen) : s.qopOpen core = true := State.qopOpen_iff.mpr ho
    refine ⟨fun hh hj hd => (exec_gulRemoteAdmit hh.1 hh.2 hd).trans (if_pos hj), fun hh hj hd ht => ?_, fun k hh hk hc hp => ?_,
      fun k hh hk hc h1 h2 => ?_, fun k hh hk hc => ?_, fun k hh hk hc => ?_, fun hh hr => exec_gulRemoteAdmit_reply hh.1 hh.2 hr,
      exec_gulRemoteAdmit_again, fun i => exec_gulRemote_none, fun k c s1 r => exec_gulRemoteWrite, exec_gulRemoteWrite_not,
      fun k c s1 bs hg ha ho hk ht => exec_gulRemoteRead hg ha ho ((if_neg hk).trans ht),
      fun k c s1 e hg ha ho hk ht => exec_gulRemoteRead hg ha ho ((if_neg hk).trans ht),
      fun c s1 bs hg ha ho ht => exec_gulRemoteRead hg ha ho ht, exec_gulRemoteRead_not, fun r => exec_gulRetryResend,
      fun r => exec_gulRetryResend_not, fun hr => ?_, fun job cnum ho hl hj => exec_gulQopRead (opened ho) hl hj,
      fun ho hl hj => exec_gulQop_jobless (opened ho) hl hj, fun job cnum s2 bs ho hl hj ht => exec_gulQopWrite (opened ho) hl hj ht,
      fun job cnum s2 e ho hl hj ht => exec_gulQopWrite (opened ho) hl hj ht, qopParts_lengths n, qopParts_offsets n⟩
    · refine (exec_gulRemoteAdmit hh.1 hh.2 hd).trans ((if_neg hj).trans ?_)
      rw [ht] <;> rfl
    · rw [job hh hk, gulJobPacket_data hh.1 hk.2.1, if_pos ⟨congrArg BitVec.toNat hc, hp⟩]
    · rw [job hh hk, gulJobPacket_data hh.1 hk.2.1, if_neg (fun hn => hn.2.elim h1 h2), if_neg (Nat.not_lt.mpr (Nat.le_of_eq (congrArg BitVec.toNat hc)))]
    · rw [job hh hk, gulJobPacket_data hh.1 hk.2.1, if_neg (fun hn => Nat.ne_of_gt hc hn.1), if_pos hc]
    · rw [job hh hk, gulJobPacket_data hh.1 hk.2.1, if_neg (fun hn => Nat.ne_of_lt hc hn.1), if_neg (Nat.not_lt.mpr (Nat.le_of_lt hc))]
    · have hc := hr.imp_left (fun (hn : ¬ isOpen) (ho : s.qopOpen core = true) => hn (State.qopOpen_iff.mp ho))
      exact ⟨exec_gulQopRead_refused hc, exec_gulQopWrite_refused hc⟩
  · intro s core t sid fill seq u isOpen k got coll combine finish entered fails
    have opened (ho : isOpen) : s.qopOpen core = true := State.qopOpen_iff.mpr ho
    refine ⟨fun hn => exec_gulQopCollective_closed (fun ho => hn (State.qopOpen_iff.mp ho)), fun ho => exec_gulQopCollective_jobless (opened ho),
      fun s1 e ho ht hs hg => exec_gulQopCollective (opened ho) ht hs hg, ?_, exec_collectiveUnitCombine_none, fun c hc =>
      ⟨fun hp => (exec_collectiveUnitCombine hc).trans (if_pos hp), exec_collectiveUnitCombine_up hc, exec_collectiveUnitCombine_down hc⟩, ?_,
      exec_gulQopDone_none, fun o h => ⟨exec_gulQopDone_unanswered h, fun q c hq hc hd h0 => exec_gulQopDone_partial h (fun hw =>
        (State.collWhole_iff.mp hw q c hq hc).elim (not_of_eq_false hd) (fun hn => hn h0)), fun hr hw =>
        exec_gulQopDone_whole h hr (State.collWhole_iff.mpr hw)⟩⟩
    · intro s1 bs ho ht hs hg d
      refine ⟨fun hd => (exec_gulQopCollective (opened ho) ht hs hg).trans (next_congr (if_pos hd)),
        fun hd hq => (exec_gulQopCollective (opened ho) ht hs hg).trans (next_congr (if_neg ?_))⟩
      exact not_or.mpr ⟨by rw [hd]; exact Bool.noConfusion, not_not_intro hq⟩
    · intro c d m own
      refine ⟨unitUp_waits, ?_⟩
      intro parts s1 bs h3 hp ho
      exact ⟨fun hr => (unitUp_eq h3 hp ho).trans (if_pos hr), fun hr => (unitUp_eq h3 hp ho).trans (if_neg (not_not_intro hr))⟩

end Sys2Proof.Machine

/-! SUPPORT. Replies, retries, rulings and releases of synchronisation requests, and the steward cores' ports
(R311 to R322, R334, R336). -/
namespace Sys2Proof.Machine

open Sys2Proof

/-! ### Requests and rulings -/

section
variable {s : State} {x : SyncReq} {st : Code} {v : Word}

theorem exec_syncReply (hx : s.syncReq x.id = some x) (hs : x.stage = .replied st v) : exec (.syncReply x.id) s = .next (s.takeReply x st v) := by
  change execSyncReply x.id s = _
  unfold execSyncReply
  simp only [hx, hs]

/-- A reply at the cell whose word waits for it. -/
theorem takeReply_cell {g : Nat} (hw : x.who = .cell g) (hc : (s.cell (ofGid g)).sync = .waiting x.id) :
    s.takeReply x st v =
      if st = 0 then (s.dropSync x.id).updCell (ofGid g) (fun c => { c with sync := .answered true v })
      else if st = K.timedOut then (s.dropSync x.id).updCell (ofGid g) (fun c => { c with sync := .answered false v })
      else (s.dropSync x.id).syncFailed (ofGid g) st := by
  have hc' : ((s.dropSync x.id).cell (ofGid g)).sync = .waiting x.id := hc
  unfold State.takeReply
  simp only [hw, hc', ne_eq, not_true_eq_false, if_false]

theorem takeReply_core {n : Nat} (hw : x.who = .core n) :
    s.takeReply x st v = ((s.dropSync x.id).setReg (R.syncPres n) (BitVec.ofNat 64 (st.toNat + 2 ^ 16))).setReg (R.syncPrval n) v := by
  unfold State.takeReply
  rw [hw] <;> rfl

theorem exec_syncRetry (hx : s.syncReq x.id = some x) (hs : x.stage = .retry) :
    exec (.syncRetry x.id) s = .next (((s.until (x.since + 32)).dropSync x.id).sendSync x) := by
  change execSyncRetry x.id s = _
  unfold execSyncRetry
  simp only [hx, hs, if_true]

theorem exec_syncDeadline (hx : s.syncReq x.id = some x) (ht : x.timed = true) (hs : x.stage = .parked ∨ x.stage = .satisfiable)
    (hr : x.ruled = false) (he : x.expired = false) :
    exec (.syncDeadline x.id) s = .next ((s.setSync x.id (fun r => { r with expired := true })).until x.deadline) := by
  change execSyncDeadline x.id s = _
  unfold execSyncDeadline
  simp only [hx]
  exact if_pos ⟨ht, hs, not_of_eq_false hr, not_of_eq_false he⟩

theorem exec_dealerSatisfy (hx : s.syncReq x.id = some x) (hs : x.stage = .satisfiable) :
    exec (.dealerSatisfy x.id) s = .next (s.ruleSatisfy x) := by
  change execDealerSatisfy x.id s = _
  unfold execDealerSatisfy
  simp only [hx, hs, if_true]

theorem ruleSatisfy_word (hv : x.v.isRound = false) :
    s.ruleSatisfy x = ((s.perform x).dealerSees (homeDieOf x.home)).wordGoesOn x.home := by
  unfold State.ruleSatisfy State.afterRuling
  simp only [hv, Bool.false_eq_true, if_false]

theorem ruleSatisfy_round (hv : x.v.isRound = true) : s.ruleSatisfy x =
    ((s.setSync x.id (fun r => { r with ruled := true, stage := .parked })).dealerSees (homeDieOf x.home)).roundGoesOn x.home := by
  unfold State.ruleSatisfy State.afterRuling
  simp only [hv, if_true]

theorem exec_dealerTimeout (hx : s.syncReq x.id = some x) (he : x.expired = true) (hr : x.ruled = false)
    (hs : x.stage = .parked ∨ x.stage = .satisfiable) : exec (.dealerTimeout x.id) s = .next (s.ruleTimeout x) := by
  change execDealerTimeout x.id s = _
  unfold execDealerTimeout
  simp only [hx]
  exact if_pos ⟨he, not_of_eq_false hr, hs⟩

theorem ruleTimeout_word (hv : x.v.isRound = false) :
    s.ruleTimeout x = ((s.syncAnswer x 0x0401 0).dealerSees (homeDieOf x.home)).wordGoesOn x.home := by
  have hn : s.roundWithdraw x = s := if_pos (not_of_eq_false hv)
  unfold State.ruleTimeout State.afterRuling
  rw [hn, if_neg (not_of_eq_false hv)]
  rfl

theorem ruleTimeout_round (hv : x.v.isRound = true) :
    s.ruleTimeout x = (((s.roundWithdraw x).syncAnswer x 0x0401 0).dealerSees (homeDieOf x.home)).roundGoesOn x.home := by
  unfold State.ruleTimeout State.afterRuling
  rw [if_pos hv]
  rfl

theorem exec_roundRelease {h : Home} (hf : (s.wordGet h).2 = true) (hd : (s.round h).drain = true) :
    exec (.roundRelease h) s = .next (match s.roundWaiters h with
      | [] => s.roundSettle h
      | x :: _ => (s.syncAnswer x 0 (BitVec.ofNat 64 ((s.round h).gen % 4))).roundSettle h) := by
  refine (if_neg (not_or.mpr ⟨not_not_intro hf, not_not_intro hd⟩)).trans ?_
  cases s.roundWaiters h <;> rfl

/-! ### Invalidations -/

theorem State.reg_of_regs {s t : State} (h : s.regs = t.regs) (a : Nat) : s.reg a = t.reg a := by
  unfold State.reg
  rw [h]

/-- Whether an invalidation names an identifier that a port keeps. -/
def SyncTlb.lost (x : SyncTlb) (v : Nat × Nat × Option Nat) : Bool :=
  x.table == v.2.1 && (match v.2.2 with | none => true | some i => x.id == i)

theorem SyncTlb.lost_iff {x : SyncTlb} {v : Nat × Nat × Option Nat} :
    x.lost v = true ↔ x.table = v.2.1 ∧ (v.2.2 = none ∨ v.2.2 = some x.id) := by
  obtain ⟨d, t, o⟩ := v
  cases o with
  | none => simp [SyncTlb.lost]
  | some i => simp [SyncTlb.lost, @eq_comm _ i]

/-- A die's synchronisation invalidations have reached every port, and the register at `a` shows it. -/
def State.portsReset (s : State) (a d : Nat) : State :=
  { s.setFld a 0 0 0 with
    sinvs := s.sinvs.filter (fun v => v.1 != d)
    slb := s.slb.filter (fun x => !((s.sinvs.filter (fun v => v.1 == d)).any x.lost)) }

theorem exec_syncInvDone (die : BitVec 1) : exec (.syncInvDone die) s = .next (s.portsReset (R.syncInvStat die.toNat) die.toNat) := rfl

theorem State.portsReset_regs (a d : Nat) : (s.portsReset a d).regs = (s.setFld a 0 0 0).regs := rfl

theorem mem_portsReset_sinvs (a d : Nat) (v : Nat × Nat × Option Nat) : v ∈ (s.portsReset a d).sinvs ↔ v ∈ s.sinvs ∧ v.1 ≠ d :=
  List.mem_filter.trans (and_congr_right' bne_iff_ne)

theorem mem_portsReset_slb (a d : Nat) (y : SyncTlb) : y ∈ (s.portsReset a d).slb ↔
    y ∈ s.slb ∧ ∀ v ∈ s.sinvs, v.1 = d → ¬ (y.table = v.2.1 ∧ (v.2.2 = none ∨ v.2.2 = some y.id)) := by
  refine List.mem_filter.trans (and_congr_right' ?_)
  rw [Bool.not_eq_true', ← Bool.not_eq_true, List.any_eq_true]
  simp only [SyncTlb.lost_iff, not_exists, not_and, List.mem_filter, beq_iff_eq, and_imp]

theorem State.portsReset_rest (a d : Nat) : { s.portsReset a d with regs := s.regs, sinvs := s.sinvs, slb := s.slb } = s := rfl

/-! ### Steward ports -/

section
variable {core : Nat} {id : BitVec 16} {t : BitVec 8} {timed : Bool} {w : SyncV}

theorem State.portOpen_iff : s.portOpen core = true ↔
    core < 32 ∧ bit 16 (s.reg (R.syncPres core)) = true ∧ bit (core % 16) (s.reg (R.rstFence (core / 16))) = false := by
  simp [State.portOpen, State.portDone, State.coreFenced, and_assoc]

theorem stewardSync_error {e : Code}
    (h : (s.syncLearn (coreAgent core) (core / 16) t.toNat (id.setWidth 64)).syncTrans (coreAgent core) (core / 16) t.toNat (id.setWidth 64)
      = .error e) :
    s.stewardSync core w id t timed = (s.syncLearn (coreAgent core) (core / 16) t.toNat (id.setWidth 64)).setReg (R.syncPres core)
      (BitVec.ofNat 64 (e.toNat + 2 ^ 16)) := by
  unfold State.stewardSync
  simp only [h]
  rfl

/-- The request that a core's port sends. -/
def State.portRequest (u : State) (core : Nat) (w : SyncV) (h : Home) (t : BitVec 8) (timed : Bool) : SyncReq :=
  { id := u.syncNext, who := .core core, v := w, home := h,
    value := if w = SyncV.rset then u.reg (R.syncPval core) &&& 0xFFFF else u.reg (R.syncPval core),
    timed := timed && w != SyncV.rset, deadline := u.gtime + u.reg (R.syncPtmo core), table := t.toNat,
    cmd := u.ecmd t.toNat, early := false, ruled := false, expired := false, stage := .travelling }

theorem stewardSync_sent {u : State} {h : Home} (hu : s.syncLearn (coreAgent core) (core / 16) t.toNat (id.setWidth 64) = u)
    (hh : u.syncTrans (coreAgent core) (core / 16) t.toNat (id.setWidth 64) = .ok h) :
    s.stewardSync core w id t timed =
      ({ u with syncNext := u.syncNext + 1 }.setReg (R.syncPres core) 0).sendSync (u.portRequest core w h t timed) := by
  unfold State.stewardSync
  simp only [hu, hh]
  rfl

/-- What a command of a core's port does that asks for an operation. -/
theorem portOperation {i : Instr} (hc : core < 32)
    (hi : exec i s = if ¬ s.portOpen core = true then .next s else .next (s.stewardSync core w id t timed)) :
    let done := bit 16 (s.reg (R.syncPres core)) = true ∧ bit (core % 16) (s.reg (R.rstFence (core / 16))) = false
    let u := s.syncLearn (coreAgent core) (core / 16) t.toNat (id.setWidth 64)
    let trans := u.syncTrans (coreAgent core) (core / 16) t.toNat (id.setWidth 64)
    (bit 16 (s.reg (R.syncPres core)) = false → exec i s = .next s) ∧
    (∀ e, done → trans = .error e → exec i s = .next (u.setReg (R.syncPres core) (BitVec.ofNat 64 (e.toNat + 2 ^ 16)))) ∧
    (∀ h, done → trans = .ok h →
      exec i s = .next (({ u with syncNext := u.syncNext + 1 }.setReg (R.syncPres core) 0).sendSync (u.portRequest core w h t timed))) := by
  intro done u trans
  have opened (hd : done) : exec i s = .next (s.stewardSync core w id t timed) :=
    hi.trans (if_neg (not_not_intro (State.portOpen_iff.mpr ⟨hc, hd.1, hd.2⟩)))
  refine ⟨fun hb => hi.trans (if_pos fun ho => not_of_eq_false hb (State.portOpen_iff.mp ho).2.1), fun e hd he => ?_, fun h hd hh => ?_⟩
  · exact (opened hd).trans (next_congr (stewardSync_error he))
  · exact (opened hd).trans (next_congr (stewardSync_sent rfl hh))

end

end

/-- Settles O35. -/
theorem syncRepliesAndPorts : Obligations.SyncRepliesAndPorts := by
  unfold Obligations.SyncRepliesAndPorts
  refine ⟨?_, ?_⟩
  · intro s x die tb all sid hx s1 d reply
    refine ⟨fun g v hs hw hc => ?_, fun g v hs hw hc => ?_, fun g st v hs h0 h1 hw hc => ?_, fun n st v hs hw => ?_, exec_syncRetry hx,
      exec_syncDeadline hx, fun hs hv => (exec_dealerSatisfy hx hs).trans (next_congr (ruleSatisfy_word hv)),
      fun hs hv => (exec_dealerSatisfy hx hs).trans (next_congr (ruleSatisfy_round hv)), fun he hr hs =>
      ⟨fun hv => (exec_dealerTimeout hx he hr hs).trans (next_congr (ruleTimeout_word hv)),
        fun hv => (exec_dealerTimeout hx he hr hs).trans (next_congr (ruleTimeout_round hv))⟩, fun hf hd => ⟨fun rest hr => ?_, fun hr => ?_⟩,
      rfl, s.portsReset _ d, exec_syncInvDone die,
      State.reg_of_regs (State.portsReset_regs _ d) _, mem_portsReset_sinvs _ d, mem_portsReset_slb _ d, State.portsReset_rest _ d⟩
    · exact (exec_syncReply hx hs).trans (next_congr ((takeReply_cell hw hc).trans (if_pos rfl)))
    · exact (exec_syncReply hx hs).trans (next_congr ((takeReply_cell hw hc).trans ((if_neg (by decide)).trans (if_pos rfl))))
    · exact (exec_syncReply hx hs).trans (next_congr ((takeReply_cell hw hc).trans ((if_neg h0).trans (if_neg h1))))
    · exact (exec_syncReply hx hs).trans (next_congr (takeReply_core hw))
    · rw [exec_roundRelease hf hd, hr]
    · rw [exec_roundRelease hf hd, hr]
  · intro s core id t timed hc done u trans op
    exact ⟨portOperation hc rfl, portOperation hc rfl, portOperation hc rfl, portOperation hc rfl, portOperation hc rfl, portOperation hc rfl,
      portOperation hc rfl, portOperation hc rfl, portOperation hc rfl, portOperation hc rfl, portOperation hc rfl⟩

end Sys2Proof.Machine

/-! SUPPORT. Version copies, the sweep of a table's records, the step copy, invalidations and pools
(R285 to R292, R304, R305). -/
namespace Sys2Proof.Machine

open Sys2Proof

/-! ### A field that both dies show -/

section
variable {s : State} {f : Nat → Nat} {hi lo v : Nat}

theorem State.bit_setBoth (h : s.Canon) {i : Nat} (hl : lo ≤ hi) (hi64 : i < 64) :
    bit i ((s.setBoth f hi lo v).reg (f 0)) = if lo ≤ i ∧ i ≤ hi then v.testBit (i - lo) else bit i (s.reg (f 0)) := by
  unfold State.setBoth
  by_cases e : f 0 = f 1
  · rw [← e, State.bit_reg_setFld (h.setFld _ _ _ _) _ _ _ _ hl hi64, State.bit_reg_setFld h _ _ _ _ hl hi64]
    split <;> rfl
  · rw [State.reg_setFld_ne (h.setFld _ _ _ _) _ _ _ e, State.bit_reg_setFld h _ _ _ _ hl hi64]

theorem State.fld_setBoth (h : s.Canon) (hh : hi < 64) (hl : lo ≤ hi) :
    (s.setBoth f hi lo v).fld (f 0) hi lo = v % 2 ^ (hi - lo + 1) := by
  unfold State.setBoth
  by_cases e : f 0 = f 1
  · rw [← e, State.fld_setFld_same (h.setFld _ _ _ _) _ _ _ _ hh hl]
  · rw [State.fld_congr (State.reg_setFld_ne (h.setFld _ _ _ _) _ _ _ e), State.fld_setFld_same h _ _ _ _ hh hl]

theorem State.Canon.setBoth (h : s.Canon) : (s.setBoth f hi lo v).Canon := (h.setFld _ _ _ _).setFld _ _ _ _

end

/-! ### The sweep -/

section
variable {s : State} {t : Nat}

/-- The end of a sweep, at the registers that `f` names. -/
def State.sweptAt (s : State) (f : Nat → Nat) (t : Nat) : State :=
  ((s.setBoth f 17 17 0).setBoth f 47 32 0).updTbl t (fun x => { x with dropping := false, armNow := false })

theorem State.sweptAt_regs (f : Nat → Nat) (t : Nat) : (s.sweptAt f t).regs = ((s.setBoth f 17 17 0).setBoth f 47 32 0).regs := rfl

theorem State.bit_sweptAt (h : s.Canon) (f : Nat → Nat) (t : Nat) : bit 17 ((s.sweptAt f t).reg (f 0)) = false := by
  rw [State.reg_of_regs (State.sweptAt_regs f t), State.bit_setBoth h.setBoth (by decide) (by decide), if_neg (by decide),
    State.bit_setBoth h (by decide) (by decide), if_pos (by decide)]
  rfl

theorem State.fld_sweptAt (h : s.Canon) (f : Nat → Nat) (t : Nat) : (s.sweptAt f t).fld (f 0) 47 32 = 0 := by
  rw [State.fld_congr (State.reg_of_regs (State.sweptAt_regs f t) _), State.fld_setBoth h.setBoth (by decide) (by decide), Nat.zero_mod]

/-- A sweep passes over every record and ends. -/
theorem exec_versionSweepDone (h : s.sweeping t = true) :
    exec (.versionSweepDone t) s = .next (((List.range (s.nrec t)).foldl (State.sweepRec t) s).sweptAt (fun d => R.mmuTcmd d t) t) :=
  if_neg (not_not_intro h)

theorem foldl_sweepRec_canon (h : s.Canon) (l : List Nat) : (l.foldl (State.sweepRec t) s).Canon :=
  (Keeps.foldl (Keeps.refl s) fun _ _ h1 => .sweepRec h1).canon h

theorem State.readBlocks_none {l : List Nat} {n : Nat} (h : ∀ b ∈ l, s.upsetOf b = []) : s.readBlocks n l = s := by
  unfold State.readBlocks
  rw [List.filter_eq_nil_iff.mpr (fun b hb => by rw [h b hb]; exact Bool.false_ne_true)]
  rfl

/-- The sweep of a record that holds one version and no kept frame. -/
theorem sweepRec_version {i pa : Nat} (he : s.recEntry t i = some pa) (h1 : s.upsetOf (blockOf (s.recAddr t i)) = [])
    (h2 : s.upsetOf (blockOf pa) = []) (hw : (s.vrec t i).wvalid = true) (hk : (s.vrec t i).kvalid = false)
    (hp : (s.tbl t).dropping = false → (s.vrec t i).wcmd = s.ccmd t → s.stepPending t ⟨pa, s.rd64 pa, false⟩ = false) :
    State.sweepRec t s i =
      (((if (!(s.tbl t).dropping && (s.vrec t i).wcmd == s.ccmd t) = true then
          (s.wrEntry pa (PageEnt.withFrame (s.rd64 pa) (s.vrec t i).w)).giveFrame (PageEnt.frame ⟨pa, s.rd64 pa, false⟩)
        else s.giveFrame (s.vrec t i).w).setVrec t i ⟨0, (s.vrec t i).k, 0, false, false⟩).freeEntry t i pa) := by
  have hr : s.readBlocks t (blockOf (s.recAddr t i) :: [blockOf pa]) = s :=
    State.readBlocks_none (List.forall_mem_cons.mpr ⟨h1, List.forall_mem_singleton.mpr h2⟩)
  unfold State.sweepRec
  simp only [he, Option.toList_some, List.map_cons, List.map_nil, hr, hw, not_true_eq_false, if_false]
  by_cases hc : (!(s.tbl t).dropping && (s.vrec t i).wcmd == s.ccmd t) = true
  · obtain ⟨hd, hcmd⟩ := Bool.and_eq_true_iff.mp hc
    have hs := hp ((Bool.not_eq_true' _).mp hd) (beq_iff_eq.mp hcmd)
    simp only [hc, hs, hk, Bool.and_false, Bool.false_and, Bool.or_false, Bool.false_eq_true, if_true, if_false]
  · simp only [hc, hk, Bool.false_and, Bool.or_false, Bool.false_eq_true, if_false]

end

/-! ### The step copy -/

section
variable {s s1 : State} {t va : Nat} {e : PageEnt} {bs : List Byte} {rest : List (Nat × PageEnt)}

theorem exec_stepCopyPage (hf : s.fld (R.mmuTstep 0 t) 0 0 = 1) (hc : (s.tbl t).copyPage = none) (hp : s.stepPages t = (va, e) :: rest)
    (ht : s.takePA t (s.stepFrame t e) 0x10000 = (s1, some bs)) :
    let s2 := s1.updTbl t (fun x => { x with copyPage := some va })
    exec (.stepCopyPage t) s = .next (if bit 33 (s2.reg (R.gulJmap1 0 t)) then
      s2.sendAll (s2.tableDie t) (kittyPuts (s2.toPartner t) va (s2.fld (R.mmuTstep 0 t) 1 1) bs) else s2) := by
  refine (if_neg (not_or.mpr ⟨by rw [hf]; exact Nat.one_ne_zero, by rw [hc]; exact Bool.false_ne_true⟩)).trans ?_
  rw [hp]
  simp only [ht]

theorem exec_stepCopyPageDone (hc : (s.tbl t).copyPage = some va)
    (hw : (s.updTbl t (fun x => { x with copyPage := none })).walk t va = .page e) :
    let u := (s.updTbl t (fun x => { x with copyPage := none })).copied t e
    let left := u.fld (R.mmuTstep 0 t) 63 32 - 1
    let s2 := u.setBoth (fun d => R.mmuTstep d t) 63 32 left
    exec (.stepCopyPageDone t) s = .next (if left = 0 then (s2.setBoth (fun d => R.mmuTstep d t) 0 0 0).sendSeal t else s2) := by
  change execStepCopyPageDone t s = _
  unfold execStepCopyPageDone
  simp only [hc, hw]

end

/-! ### Invalidations and pools -/

section
variable {s : State}

/-- A die's invalidations have reached every cache, and the register at `a` shows it. -/
def State.cachesReset (s : State) (a d : Nat) : State :=
  { s.setFld a 0 0 0 with
    invs := s.invs.filter (fun v => v.1 != d)
    tlb := s.tlb.filter (fun x => !((s.invs.filter (fun v => v.1 == d)).any (fun v => x.named v.2.1 v.2.2))) }

theorem exec_mmuInvDone (die : BitVec 1) : exec (.mmuInvDone die) s = .next (s.cachesReset (R.mmuInvStat die.toNat) die.toNat) := rfl

theorem State.cachesReset_regs (a d : Nat) : (s.cachesReset a d).regs = (s.setFld a 0 0 0).regs := rfl

theorem mem_cachesReset_invs (a d : Nat) (v : Nat × Nat × Option Nat) : v ∈ (s.cachesReset a d).invs ↔ v ∈ s.invs ∧ v.1 ≠ d :=
  List.mem_filter.trans (and_congr_right' bne_iff_ne)

theorem mem_cachesReset_tlb (a d : Nat) (x : Tlb) : x ∈ (s.cachesReset a d).tlb ↔
    x ∈ s.tlb ∧ ∀ v ∈ s.invs, v.1 = d → x.named v.2.1 v.2.2 = false := by
  refine List.mem_filter.trans (and_congr_right' ?_)
  rw [Bool.not_eq_true', List.any_eq_false]
  simp only [List.mem_filter, beq_iff_eq, and_imp, Bool.not_eq_true]

theorem State.cachesReset_rest (a d : Nat) : { s.cachesReset a d with regs := s.regs, invs := s.invs, tlb := s.tlb } = s := rfl

theorem exec_mmuPoolPush {die : BitVec 1} {frame : BitVec 32} {x : Nat × Bool} (hp : s.populated (frame.toNat * 2 ^ 16) 0x10000 = true)
    (hw : s.inWindow (frame.toNat * 2 ^ 16) = false) (hr : s.retired.contains (frame.toNat * 2 ^ 16) = false)
    (hc : s.frameClass (frame.toNat * 2 ^ 16) = some x) :
    exec (.mmuPoolPush die frame) s = .next (s.setPool die.toNat x.2 (s.pool die.toNat x.2 ++ [frame.toNat * 2 ^ 16])) := by
  refine (if_neg (not_or.mpr ⟨not_not_intro hp, not_or.mpr ⟨not_of_eq_false hw, not_of_eq_false hr⟩⟩)).trans ?_
  rw [hc] <;> rfl

end

/-- Settles O32. -/
theorem pageEvents : Obligations.PageEvents := by
  unfold Obligations.PageEvents
  intro s die t d swept ended
  refine ⟨fun v hv => ?_, fun hs hc => ⟨_, exec_versionSweepDone hs, State.bit_sweptAt (foldl_sweepRec_canon hc _) (fun d => R.mmuTcmd d t) t,
    State.fld_sweptAt (foldl_sweepRec_canon hc _) (fun d => R.mmuTcmd d t) t⟩, fun pa hs hn he h1 h2 hw hk => ?_, ?_, ?_, fun tb all va => rfl,
    ⟨s.cachesReset _ d, exec_mmuInvDone die, State.reg_of_regs (State.cachesReset_regs _ d) _, mem_cachesReset_invs _ d, mem_cachesReset_tlb _ d,
      State.cachesReset_rest _ d⟩, fun frame die' far => exec_mmuPoolPush⟩
  · change execVersionCopyDone die s = _
    unfold execVersionCopyDone
    rw [hv] <;> rfl
  · intro r none_
    have one (u : State) (hu : State.sweepRec t s 0 = u) : swept = .next (ended u) := by
      refine (exec_versionSweepDone hs).trans ?_
      rw [hn, List.range_one, List.foldl_cons, List.foldl_nil, hu]
      rfl
    refine ⟨fun hd hcmd hp => one _ ?_, fun hd => one _ ?_⟩
    · rw [sweepRec_version he h1 h2 hw hk (fun _ _ => hp), if_pos (Bool.and_eq_true_iff.mpr ⟨by rw [hd]; rfl, beq_iff_eq.mpr hcmd⟩)]
    · have hno : ¬ (!(s.tbl t).dropping && (s.vrec t 0).wcmd == s.ccmd t) = true := by
        rcases hd with hd | hd
        · rw [hd]
          exact Bool.false_ne_true
        · rw [beq_eq_false_iff_ne.mpr hd, Bool.and_false]
          exact Bool.false_ne_true
      rw [sweepRec_version he h1 h2 hw hk (fun h0 hc => (hno (by rw [h0, hc]; simp)).elim), if_neg hno]
  · intro va e rest s1 bs hf hc hp ht s2
    exact ⟨fun hb => (exec_stepCopyPage hf hc hp ht).trans (next_congr (if_neg (not_of_eq_false hb))),
      fun hb => (exec_stepCopyPage hf hc hp ht).trans (next_congr (if_pos hb))⟩
  · intro va e hc s0 s1 n s2 hw
    exact ⟨fun hn => (exec_stepCopyPageDone hc hw).trans (next_congr (if_neg (Nat.sub_ne_zero_of_lt hn))),
      fun hn => (exec_stepCopyPageDone hc hw).trans (next_congr (if_pos (Nat.sub_eq_zero_of_le (Nat.le_of_eq hn))))⟩

end Sys2Proof.Machine

/-! SUPPORT. A vault and a far channel serve the request at the front of their queue; the end of LPDDR6 training
(R278 to R281, R296, R297, R306). -/
namespace Sys2Proof.Machine

open Sys2Proof

/-! ### The front of a queue -/

section
variable {s s1 : State} {i q here die cls : Nat} {u : Upset} {r : MemReq} {rest : List MemReq} {ok : Bool}

theorem serveFront_read (hw : r.write = false) (h : (s.setQueue q rest).readRange die cls r.table u (blocksOf r.pa r.len) = (s1, ok)) :
    s.serveFront q here die cls r rest u =
      if ok then s1.replyMem here r 0 (s1.rdN r.pa r.len) else s1.replyMem here r K.eMemUncorrectable [] := by
  unfold State.serveFront
  simp only [hw, Bool.false_eq_true, if_false, h]

theorem serveFront_write (hw : r.write = true) (h : (s.setQueue q rest).writeRange die cls r.table r.pa r.data u = (s1, ok)) :
    s.serveFront q here die cls r rest u = s1.replyMem here r (if ok then 0 else K.eMemUncorrectable) [] := by
  unfold State.serveFront
  simp only [hw, if_true, h]

theorem exec_vaultRead (hq : s.queue (vaultQ i) = r :: rest) (hw : r.write = false) :
    exec (.vaultRead i u) s = .next (s.serveFront (vaultQ i) (islAgent i) (islDie i) 1 r rest u) := by
  change execVaultRead i u s = _
  unfold execVaultRead
  simp only [hq, hw, Bool.false_eq_true, if_false]

theorem exec_vaultWrite (hq : s.queue (vaultQ i) = r :: rest) (hw : r.write = true) :
    exec (.vaultWrite i u) s = .next (s.serveFront (vaultQ i) (islAgent i) (islDie i) 1 r rest u) := by
  change execVaultWrite i u s = _
  unfold execVaultWrite
  simp only [hq, hw, if_true]

theorem exec_farDramAccess (hq : s.queue (farQ i) = r :: rest) :
    exec (.farDramAccess i u) s = .next (s.serveFront (farQ i) (farAgent i) (i / 16) 2 r rest u) := by
  change execFarDramAccess i u s = _
  unfold execFarDramAccess
  rw [hq]

end

/-! ### The end of LPDDR6 training -/

section
variable {s : State} {n : BitVec 5} {density : BitVec 2} {ranks rate : Bool} {f0 f1 : BitVec 16}

theorem farUse_le (n : Nat) (f0 f1 : BitVec 16) : farUse n f0 f1 ≤ 16 := by
  unfold farUse
  extract_lets f
  split
  · exact Nat.le_refl 16
  · split
    · decide
    · decide

/-- MEM_FAR as the end of training shows it. -/
def farWord (use : Nat) (density : BitVec 2) (ranks rate : Bool) (f : BitVec 16) : Word :=
  BitVec.ofNat 64 (use + density.toNat * 2 ^ 5 + b2n ranks * 2 ^ 7 + b2n rate * 2 ^ 8 + f.toNat * 2 ^ 16)

theorem b2n_le (b : Bool) : b2n b ≤ 1 := by cases b <;> decide

theorem field_farWord {use : Nat} (hu : use ≤ 16) (f : BitVec 16) :
    field 4 0 (farWord use density ranks rate f) = use ∧ field 6 5 (farWord use density ranks rate f) = density.toNat ∧
      field 31 16 (farWord use density ranks rate f) = f.toNat := by
  have hd : density.toNat < 4 := density.isLt
  have hf : f.toNat < 65536 := f.isLt
  have hr := b2n_le ranks
  have ht := b2n_le rate
  simp only [field, farWord, BitVec.toNat_ofNat, Nat.shiftRight_eq_div_pow]
  refine ⟨?_, ?_, ?_⟩ <;> omega

/-- Training ends: the two registers are written, and failed channels are reported. -/
def State.farTrained (s : State) (a0 a1 : Nat) (w0 w1 : Word) (l : List Out) : State :=
  { (s.setReg a0 w0).setReg a1 w1 with out := s.out ++ l }

theorem State.farTrained_regs (a0 a1 : Nat) (w0 w1 : Word) (l : List Out) :
    (s.farTrained a0 a1 w0 w1 l).regs = ((s.setReg a0 w0).setReg a1 w1).regs := rfl

theorem State.reg_farTrained (h : s.Canon) {a0 a1 : Nat} (w0 w1 : Word) (l : List Out) (a : Nat) :
    (s.farTrained a0 a1 w0 w1 l).reg a = if a = a1 then w1 else if a = a0 then w0 else s.reg a := by
  rw [State.reg_of_regs (State.farTrained_regs a0 a1 w0 w1 l), State.reg_setReg (h.setReg _ _), State.reg_setReg h]

theorem State.farTrained_out (a0 a1 : Nat) (w0 w1 : Word) (l : List Out) : (s.farTrained a0 a1 w0 w1 l).out = s.out ++ l := rfl

theorem State.farTrained_rest (a0 a1 : Nat) (w0 w1 : Word) (l : List Out) : 
    { s.farTrained a0 a1 w0 w1 l with regs := s.regs, out := s.out } = s := by
  cases s
  rfl

theorem memFar_ne : R.memFar 0 ≠ R.memFar 1 := by decide

theorem exec_lpddr6TrainingDone (h : density ≠ 3) :
    exec (.lpddr6TrainingDone n density ranks rate f0 f1) s = .next (s.farTrained (R.memFar 0) (R.memFar 1)
      (farWord (farUse n.toNat f0 f1) density ranks rate f0) (farWord (farUse n.toNat f0 f1) density ranks rate f1)
      (if f0 ||| f1 = 0 then [] else [.report K.eFarTraining (f0.toNat + f1.toNat * 2 ^ 16)])) := if_neg h

end

/-- Settles O31. -/
theorem memoryServes : Obligations.MemoryServes := by
  unfold Obligations.MemoryServes
  intro s i u r rest served
  refine ⟨fun hq => ⟨fun hw s1 ok h => ?_, fun hw s1 ok h => ?_⟩, fun hq => ⟨fun hw s1 ok h => ?_, fun hw s1 ok h => ?_⟩,
    fun n density ranks rate f0 f1 hc hd => ⟨_, exec_lpddr6TrainingDone hd, fun d h2 => ?_, fun a h0 h1 => ?_, State.farTrained_rest .., fun hf => ?_,
      fun hf => ?_⟩⟩
  · exact (exec_vaultRead hq hw).trans (next_congr (serveFront_read hw h))
  · exact (exec_vaultWrite hq hw).trans (next_congr (serveFront_write hw h))
  · exact (exec_farDramAccess hq).trans (next_congr (serveFront_read hw h))
  · exact (exec_farDramAccess hq).trans (next_congr (serveFront_write hw h))
  · simp only [State.fld, State.reg_farTrained hc]
    obtain rfl | rfl : d = 0 ∨ d = 1 := by omega
    · rw [if_neg memFar_ne, if_pos rfl, if_pos rfl]
      exact field_farWord (farUse_le ..) f0
    · rw [if_pos rfl, if_neg Nat.one_ne_zero]
      exact field_farWord (farUse_le ..) f1
  · rw [State.reg_farTrained hc, if_neg h1, if_neg h0]
  · rw [State.farTrained_out, if_pos hf, List.append_nil]
  · rw [State.farTrained_out, if_neg hf]
    exact ⟨_, rfl⟩

end Sys2Proof.Machine

/-! SUPPORT. Clocks, power, temperature, SMBus, JTAG and the trace port (R482 to R489, R514, R531 to R537). -/
namespace Sys2Proof.Machine

open Sys2Proof

/-! ### Fields of registers -/

section
variable {s : State}

/-- A part of a field that is written with 0 reads 0. -/
theorem State.fld_setFld_zero (h : s.Canon) (a : Nat) {hi lo hi' lo' : Nat} (hl : lo ≤ lo') (hh : hi' ≤ hi) (h' : hi' < 64) (hle : lo' ≤ hi') :
    (s.setFld a hi lo 0).fld a hi' lo' = 0 := by
  apply Nat.eq_of_testBit_eq
  intro i
  rw [State.fld, field_testBit, Nat.zero_testBit]
  by_cases hi1 : i < hi' - lo' + 1
  · have hb : ((s.setFld a hi lo 0).reg a).getLsbD (lo' + i) = false :=
      (State.bit_reg_setFld h a hi lo 0 (by omega) (by omega)).trans (by rw [if_pos (by omega), Nat.zero_testBit])
    rw [hb, Bool.and_false]
  · rw [decide_eq_false hi1, Bool.false_and]

/-- A field that reads 0 still does when a field that covers it is written with 0 anywhere. -/
theorem State.fld_setFld_stays (h : s.Canon) {a : Nat} (b : Nat) {hi lo hi' lo' : Nat} (hl : lo ≤ lo') (hh : hi' ≤ hi) (h' : hi' < 64) (hle : lo' ≤ hi')
    (h0 : s.fld a hi' lo' = 0) : (s.setFld b hi lo 0).fld a hi' lo' = 0 := by
  by_cases e : a = b
  · subst e
    exact State.fld_setFld_zero h _ hl hh h' hle
  · rw [State.fld_congr (State.reg_setFld_ne h _ _ _ e), h0]

/-- A step along a list leaves a register alone. -/
theorem reg_foldl {f : State → Nat → State} {l : List Nat} {a : Nat} (hf : ∀ t i, t.Canon → i ∈ l → (f t i).Canon ∧ (f t i).reg a = t.reg a)
    (h : s.Canon) : (l.foldl f s).Canon ∧ (l.foldl f s).reg a = s.reg a := by
  induction l generalizing s with
  | nil => exact ⟨h, rfl⟩
  | cons i l ih =>
    obtain ⟨h1, e1⟩ := hf s i h List.mem_cons_self
    obtain ⟨h2, e2⟩ := ih (fun t j ht hj => hf t j ht (List.mem_cons_of_mem i hj)) h1
    exact ⟨h2, e2.trans e1⟩

/-- What every step along a list keeps. -/
theorem foldl_kept {α : Type} {f : State → α → State} {P : State → Prop} (hf : ∀ t x, P t → P (f t x)) (l : List α) (h : P s) : P (l.foldl f s) := by
  induction l generalizing s with
  | nil => exact h
  | cons x l ih => exact ih (hf s x h)

end

theorem islReg_inj {i j off : Nat} (h : islReg i off = islReg j off) : i = j := by
  unfold islReg ctlBase islandSpan islDie islNum at h
  omega

/-! ### Clocks and power limits -/

section
variable {s : State}

theorem exec_pwrCapWrite (hs : s.Canon) (v : Word) : ∃ t, exec (.pwrCapWrite v) s = .next t ∧
    t.fld R.pwrCap 15 0 = min 1400 (field 15 0 v) ∧ t.fld R.pwrCap 31 16 = min 1250 (field 31 16 v) ∧ t.withRegs s = s ∧
    ∀ b, b ≠ R.pwrCap → t.reg b = s.reg b := by
  have h1 := hs.setFld R.pwrCap 15 0 (min 1400 (field 15 0 v))
  refine ⟨_, rfl, ?_, ?_, rfl, fun b hb => ?_⟩
  · rw [State.fld_setFld_other h1 _ _ _ _ _ _ (by decide) (by decide) (by decide) (by decide),
      State.fld_setFld_same hs _ _ _ _ (by decide) (by decide)]
    omega
  · rw [State.fld_setFld_same h1 _ _ _ _ (by decide) (by decide)]
    omega
  · rw [State.reg_setFld_ne h1 _ _ _ hb, State.reg_setFld_ne hs _ _ _ hb]

/-! ### A capping step -/

theorem countStretch_canon (h : s.Canon) (i : Nat) : (s.countStretch i).Canon := by
  unfold State.countStretch
  extract_lets st hh n
  split
  · exact (h.incFld _ _ _ _).updIsl _ _
  · exact h

theorem countStretch_reg (h : s.Canon) {i a : Nat} (ha : a ≠ R.stallStretch i) : (s.countStretch i).reg a = s.reg a := by
  unfold State.countStretch
  extract_lets st hh n
  split
  · exact State.reg_incFld_ne h _ _ _ ha
  · rfl

theorem countStretch_table (h : s.Canon) (i j : Nat) : ((s.countStretch i).isl j).table = (s.isl j).table := by
  unfold State.countStretch
  extract_lets st hh n
  split
  · by_cases e : j = i
    · subst e
      rw [State.isl_updIsl (h.incFld _ _ _ _)]
      rfl
    · rw [State.isl_updIsl_other (h.incFld _ _ _ _) _ e]
      rfl
  · rfl

/-- The throttle of one island. -/
def State.throttleIsl (plain trump : Nat) (s : State) (i : Nat) : State :=
  s.setFld (R.islClk i) 19 14 (if (s.isl i).table ≠ 0 ∧ bit 1 (s.reg (R.tblCtl 0 (s.isl i).table)) then trump else plain)

theorem State.setFld_energyUj (s : State) (a hi lo v : Nat) : (s.setFld a hi lo v).energyUj = s.energyUj := rfl

theorem throttleIsl_isl (s : State) (p t i j : Nat) : (State.throttleIsl p t s i).isl j = s.isl j := State.isl_setFld ..

theorem applyThrottle_eq (s : State) (p t : Nat) : s.applyThrottle p t = (List.range 192).foldl (State.throttleIsl p t) s := rfl

theorem applyThrottle_energy (s : State) (p t : Nat) : (s.applyThrottle p t).energyUj = s.energyUj :=
  foldl_kept (P := fun u => u.energyUj = s.energyUj) (fun u i h => (State.setFld_energyUj u ..).trans h) _ rfl

/-- An island of no table takes the plain throttle. -/
theorem applyThrottle_plain (h : s.Canon) {i : Nat} (hi : i < 192) (ht : (s.isl i).table = 0) (p t : Nat) :
    (s.applyThrottle p t).fld (R.islClk i) 19 14 = p % 2 ^ 6 := by
  have step (u : State) (j : Nat) (hu : u.Canon) (hj : (u.isl i).table = 0) :
      (j = i ∨ u.fld (R.islClk i) 19 14 = p % 2 ^ 6) → (State.throttleIsl p t u j).fld (R.islClk i) 19 14 = p % 2 ^ 6 := by
    intro hor
    by_cases e : j = i
    · subst e
      rw [State.throttleIsl, State.fld_setFld_same hu _ _ _ _ (by decide) (by decide), if_neg (fun hn => hn.1 hj)]
    · have hne : R.islClk i ≠ R.islClk j := fun hn => e (islReg_inj hn).symm
      rw [State.throttleIsl, State.fld_congr (State.reg_setFld_ne hu _ _ _ hne), hor.resolve_left e]
  rw [applyThrottle_eq, show 192 = i + (1 + (191 - i)) by omega, List.range_add, List.foldl_append, List.range_add, List.map_append,
    List.foldl_append]
  let P := fun u : State => u.Canon ∧ (u.isl i).table = 0
  have hP (u : State) (j : Nat) (hu : P u) : P (State.throttleIsl p t u j) := ⟨hu.1.setFld _ _ _ _, (throttleIsl_isl u p t j i).symm ▸ hu.2⟩
  have h1 : P ((List.range i).foldl (State.throttleIsl p t) s) := foldl_kept hP _ ⟨h, ht⟩
  refine (foldl_kept (P := fun u => P u ∧ u.fld (R.islClk i) 19 14 = p % 2 ^ 6)
    (fun u j hu => ⟨hP u j hu.1, step u j hu.1.1 hu.1.2 (.inr hu.2)⟩) _ ⟨?_, ?_⟩).2
  · exact hP _ _ h1
  · exact step _ _ h1.1 h1.2 (.inl (Nat.add_zero i))

/-- PWR_STAT after a capping step. -/
def State.capShown (s : State) (fast slow : BitVec 16) (p t : Nat) : State :=
  (((s.setFld R.pwrStat 15 0 fast.toNat).setFld R.pwrStat 31 16 slow.toNat).setFld R.pwrStat 37 32 p).setFld R.pwrStat 43 38 t

/-- The microsecond that a capping step ends: its energy, and the clocks it stretched. -/
def State.capCounted (s : State) (e : Nat) : State :=
  (List.range 192).foldl State.countStretch (s.setReg R.pwrEnergy (s.reg R.pwrEnergy + BitVec.ofNat 64 (e / 1000)))

/-- The notes of a capping step. -/
def State.capNoted (s : State) (n e : Nat) : State := { s with capStreak := n, energyUj := e }

/-- The throttles that a capping step finds. -/
def State.throttles (s : State) (fast slow : BitVec 16) : Nat × Nat :=
  let lf := s.limit100 15 0
  let ls := s.limit100 31 16
  let hot := bit 24 (s.reg (R.telTemp 0)) || bit 24 (s.reg (R.telTemp 1)) || (s.throttlePin && s.throttleLow)
  let above := decide (lf < fast.toNat * 100) || decide (ls < slow.toNat * 100)
  let lower := decide (fast.toNat * 10000 ≤ lf * 98) && decide (slow.toNat * 10000 ≤ ls * 98)
  capStep (above || hot) lower (s.fld R.pwrStat 37 32) (s.fld R.pwrStat 43 38)

theorem capStep_raise {lower : Bool} {p t : Nat} (h : p < 48) : capStep true lower p t = (p + 1, t) := by simp [capStep, h]

/-- Above the fast limit the plain throttle rises while it is below 48. -/
theorem throttles_raise {fast slow : BitVec 16} (ha : s.limit100 15 0 < fast.toNat * 100) (hp : s.fld R.pwrStat 37 32 < 48) :
    s.throttles fast slow = (s.fld R.pwrStat 37 32 + 1, s.fld R.pwrStat 43 38) := by
  unfold State.throttles
  extract_lets lf ls hot above lower
  have hab : above = true := by
    change (decide (s.limit100 15 0 < fast.toNat * 100) || _) = true
    rw [decide_eq_true ha, Bool.true_or]
  rw [hab, Bool.true_or, capStep_raise hp]

theorem exec_cappingStep (fast slow : BitVec 16) : ∃ n, exec (.cappingStep fast slow) s =
    .next ((((s.capShown fast slow (s.throttles fast slow).1 (s.throttles fast slow).2).capCounted (s.energyUj + fast.toNat)).capNoted n
      ((s.energyUj + fast.toNat) % 1000)).applyThrottle (s.throttles fast slow).1 (s.throttles fast slow).2) := ⟨_, rfl⟩

theorem capShown_isl (fast slow : BitVec 16) (p t i : Nat) : (s.capShown fast slow p t).isl i = s.isl i := by
  unfold State.capShown
  rw [State.isl_setFld, State.isl_setFld, State.isl_setFld, State.isl_setFld]

theorem pwrStat_ne_pwrEnergy : R.pwrStat ≠ R.pwrEnergy := by
  unfold R.pwrStat R.pwrEnergy blkReg
  omega

theorem State.Canon.capShown (h : s.Canon) {fast slow : BitVec 16} {p t : Nat} : (s.capShown fast slow p t).Canon :=
  (((h.setFld _ _ _ _).setFld _ _ _ _).setFld _ _ _ _).setFld _ _ _ _

theorem capShown_reg (h : s.Canon) {a : Nat} (ha : a ≠ R.pwrStat) (fast slow : BitVec 16) (p t : Nat) :
    (s.capShown fast slow p t).reg a = s.reg a := by
  have h1 := h.setFld R.pwrStat 15 0 fast.toNat
  have h2 := h1.setFld R.pwrStat 31 16 slow.toNat
  rw [State.capShown, State.reg_setFld_ne (h2.setFld _ _ _ _) _ _ _ ha, State.reg_setFld_ne h2 _ _ _ ha, State.reg_setFld_ne h1 _ _ _ ha,
    State.reg_setFld_ne h _ _ _ ha]

theorem capShown_fields (h : s.Canon) (fast slow : BitVec 16) (p t : Nat) :
    (s.capShown fast slow p t).fld R.pwrStat 15 0 = fast.toNat ∧ (s.capShown fast slow p t).fld R.pwrStat 31 16 = slow.toNat ∧
      (s.capShown fast slow p t).fld R.pwrStat 37 32 = p % 2 ^ 6 ∧ (s.capShown fast slow p t).fld R.pwrStat 43 38 = t % 2 ^ 6 := by
  have h1 := h.setFld R.pwrStat 15 0 fast.toNat
  have h2 := h1.setFld R.pwrStat 31 16 slow.toNat
  have h3 := h2.setFld R.pwrStat 37 32 p
  unfold State.capShown
  refine ⟨?_, ?_, ?_, State.fld_setFld_same h3 _ _ _ _ (by decide) (by decide)⟩
  · rw [State.fld_setFld_other h3 _ _ _ _ _ _ (by decide) (by decide) (by decide) (by decide),
      State.fld_setFld_other h2 _ _ _ _ _ _ (by decide) (by decide) (by decide) (by decide),
      State.fld_setFld_other h1 _ _ _ _ _ _ (by decide) (by decide) (by decide) (by decide),
      State.fld_setFld_same h _ _ _ _ (by decide) (by decide)]
    exact Nat.mod_eq_of_lt fast.isLt
  · rw [State.fld_setFld_other h3 _ _ _ _ _ _ (by decide) (by decide) (by decide) (by decide),
      State.fld_setFld_other h2 _ _ _ _ _ _ (by decide) (by decide) (by decide) (by decide),
      State.fld_setFld_same h1 _ _ _ _ (by decide) (by decide)]
    exact Nat.mod_eq_of_lt slow.isLt
  · rw [State.fld_setFld_other h3 _ _ _ _ _ _ (by decide) (by decide) (by decide) (by decide),
      State.fld_setFld_same h2 _ _ _ _ (by decide) (by decide)]

/-- A package register outside the islands' blocks, PWR_ENERGY apart, stands through the count. -/
theorem capCounted_reg (h : s.Canon) {o : Nat} (ho : o < 0x100000) (e : Nat) : (s.capCounted e).Canon ∧ (s.capCounted e).reg (blkReg 0 .rcp o) =
    if blkReg 0 .rcp o = R.pwrEnergy then s.reg R.pwrEnergy + BitVec.ofNat 64 (e / 1000) else s.reg (blkReg 0 .rcp o) := by
  obtain ⟨hc, hr⟩ := reg_foldl (a := blkReg 0 .rcp o) (f := State.countStretch) (l := List.range 192) (fun t i ht hi =>
    ⟨countStretch_canon ht i, countStretch_reg ht (islReg_ne_blkReg .rcp (List.mem_range.mp hi) (by decide) (by decide) ho).symm⟩)
    (h.setReg R.pwrEnergy (s.reg R.pwrEnergy + BitVec.ofNat 64 (e / 1000)))
  exact ⟨hc, hr.trans (State.reg_setReg h _ _ _)⟩

theorem capCounted_table (h : s.Canon) (i e : Nat) : ((s.capCounted e).isl i).table = (s.isl i).table := by
  have := foldl_kept (P := fun u => u.Canon ∧ (u.isl i).table = (s.isl i).table) (f := State.countStretch)
    (fun u j hu => ⟨countStretch_canon hu.1 j, (countStretch_table hu.1 j i).trans hu.2⟩) (List.range 192)
    (s := s.setReg R.pwrEnergy (s.reg R.pwrEnergy + BitVec.ofNat 64 (e / 1000))) ⟨h.setReg _ _, rfl⟩
  exact this.2

theorem applyThrottle_reg (h : s.Canon) {o : Nat} (ho : o < 0x100000) (p t : Nat) :
    (s.applyThrottle p t).reg (blkReg 0 .rcp o) = s.reg (blkReg 0 .rcp o) := by
  rw [applyThrottle_eq]
  exact (reg_foldl (fun u i hu hi => ⟨hu.setFld _ _ _ _,
    State.reg_setFld_ne hu _ _ _ (islReg_ne_blkReg .rcp (List.mem_range.mp hi) (by decide) (by decide) ho).symm⟩) h).2

theorem State.Canon.capNoted (h : s.Canon) {n e : Nat} : (s.capNoted n e).Canon := h

theorem capNoted_reg (n e a : Nat) : (s.capNoted n e).reg a = s.reg a := rfl

theorem capNoted_isl (n e i : Nat) : (s.capNoted n e).isl i = s.isl i := rfl

theorem cappingStep_shown (hs : s.Canon) (fast slow : BitVec 16) : ∃ t, exec (.cappingStep fast slow) s = .next t ∧
    t.fld R.pwrStat 15 0 = fast.toNat ∧ t.fld R.pwrStat 31 16 = slow.toNat ∧
    t.reg R.pwrEnergy = s.reg R.pwrEnergy + BitVec.ofNat 64 ((s.energyUj + fast.toNat) / 1000) ∧ t.energyUj = (s.energyUj + fast.toNat) % 1000 ∧
    (∀ i, i < 192 → s.isl i = {} → t.fld (R.islClk i) 19 14 = t.fld R.pwrStat 37 32) ∧
    (s.limit100 15 0 < fast.toNat * 100 → s.fld R.pwrStat 37 32 < 48 → t.fld R.pwrStat 37 32 = s.fld R.pwrStat 37 32 + 1 ∧
      t.fld R.pwrStat 43 38 = s.fld R.pwrStat 43 38) := by
  obtain ⟨n, hex⟩ := exec_cappingStep (s := s) fast slow
  have hraise := throttles_raise (s := s) (fast := fast) (slow := slow)
  generalize s.throttles fast slow = x at hex hraise
  obtain ⟨p, t⟩ := x
  have h1 : (s.capShown fast slow p t).Canon := hs.capShown
  have hstat := capCounted_reg h1 (o := 0x208) (by decide) (s.energyUj + fast.toNat)
  have henergy := (capCounted_reg h1 (o := 0x210) (by decide) (s.energyUj + fast.toNat)).2
  have h2 := hstat.1
  obtain ⟨hf, hl, hp, ht⟩ := capShown_fields hs fast slow p t
  have hr : ((((s.capShown fast slow p t).capCounted (s.energyUj + fast.toNat)).capNoted n ((s.energyUj + fast.toNat) % 1000)).applyThrottle
      p t).reg R.pwrStat = (s.capShown fast slow p t).reg R.pwrStat := by
    rw [R.pwrStat, applyThrottle_reg h2.capNoted (by decide), capNoted_reg, hstat.2]
    exact if_neg pwrStat_ne_pwrEnergy
  refine ⟨_, hex, (State.fld_congr hr _ _).trans hf, (State.fld_congr hr _ _).trans hl, ?_, applyThrottle_energy _ _ _, fun i hi he => ?_,
    fun ha hb => ?_⟩
  · rw [R.pwrEnergy, applyThrottle_reg h2.capNoted (by decide), capNoted_reg, henergy]
    refine (if_pos rfl).trans ?_
    rw [capShown_reg hs pwrStat_ne_pwrEnergy.symm]
    rfl
  · have h0 : ((s.capShown fast slow p t).isl i).table = 0 := by rw [capShown_isl, he]
    rw [applyThrottle_plain h2.capNoted hi (by rw [capNoted_isl, capCounted_table h1, h0]), State.fld_congr hr, hp]
  · obtain ⟨rfl, rfl⟩ := Prod.mk.inj (hraise ha hb)
    rw [State.fld_congr hr, State.fld_congr hr, hp, ht]
    exact ⟨Nat.mod_eq_of_lt (by omega), Nat.mod_eq_of_lt (Nat.mod_lt _ (by decide))⟩

end

/-! ### Regulators and capping events -/

section
variable {s : State}

theorem exec_cappingCalibration (vout : Option (Bool × Nat)) :
    let u := match vout with | some (c, mv) => s.voutCommand c mv | none => s
    exec (.cappingCalibration ⟨false, vout⟩) s = .next (u.setFld R.pwrStat 44 44 0) ∧
      exec (.cappingCalibration ⟨true, vout⟩) s = .next (((u.setFld R.pwrStat 44 44 1).setFld (R.errSum 0) 2 2 1).report K.ePmbus 0) := by
  cases vout with
  | none => exact ⟨rfl, rfl⟩
  | some x => exact ⟨rfl, rfl⟩

theorem voutCommand_refused (c : Bool) {mv : Nat} (h : mv < 700 ∨ 800 < mv ∨ (if c then s.fld R.pwrPmb 14 8 else s.fld R.pwrPmb 6 0) = 0) :
    s.voutCommand c mv = s := if_pos h

theorem voutCommand_sets (c : Bool) {mv : Nat} (hl : 700 ≤ mv) (hh : mv ≤ 800)
    (hr : (if c then s.fld R.pwrPmb 14 8 else s.fld R.pwrPmb 6 0) ≠ 0) :
    s.voutCommand c mv = { s with
      out := s.out ++ [.pmbus (if c then s.fld R.pwrPmb 14 8 else s.fld R.pwrPmb 6 0) mv]
      vset0 := if c then s.vset0 else mv
      vset1 := if c then mv else s.vset1 } := by
  refine (if_neg (by omega)).trans ?_
  cases c <;> rfl

theorem exec_cappingEvent_early (h : s.capStreak < 1000) : exec .cappingEvent s = .next s := if_pos h

/-- A capping event is shown. -/
def State.capEvent (s : State) (a : Nat) : State := { s.setFld a 3 3 1 with capStreak := 0, capLast := some s.gtime }

/-- A capping event within 100 ms of the one before. -/
def State.capAgain (s : State) : Bool := match s.capLast with | some t => decide ((s.gtime - t).toNat ≤ 100000000) | none => false

theorem State.capAgain_iff : s.capAgain = true ↔ ∃ t0, s.capLast = some t0 ∧ (s.gtime - t0).toNat ≤ 100000000 := by
  unfold State.capAgain
  cases s.capLast with
  | none => simp
  | some t => simp

theorem exec_cappingEvent (h : 1000 ≤ s.capStreak) :
    exec .cappingEvent s = .next (if s.capAgain = true then (s.capEvent (R.errSum 0)).shedPlain else s.capEvent (R.errSum 0)) :=
  if_neg (Nat.not_lt.mpr h)

theorem exec_throttleRequest (low : Bool) :
    exec (.throttleRequest low) s = .next { s.setFld R.pinIn 7 7 (if low then 0 else 1) with throttleLow := low } := by
  cases low <;> rfl

/-! ### Temperature -/

/-- TEL_TEMP after the maxima of a die are sensed. -/
def State.sensed (s : State) (a : Nat) (tj td : BitVec 12) (hot alert : Bool) : State :=
  (((s.setFld a 11 0 tj.toNat).setFld a 23 12 td.toNat).setFld a 24 24 (b2n hot)).setFld a 25 25 (b2n alert)

/-- Whether throttling stands after the maxima are sensed. -/
def State.isThrottled (s : State) (a : Nat) (tj td : BitVec 12) : Bool :=
  (decide (540 ≤ tj.toNat) || decide (540 ≤ td.toNat)) ||
    (bit 24 (s.reg a) && !(decide (tj.toNat ≤ 532) && decide (td.toNat ≤ 532)))

theorem exec_temperatureThreshold (die : BitVec 1) (tj td : BitVec 12) : ∃ t, exec (.temperatureThreshold die tj td) s = .next t ∧
    t.regs = (s.sensed (R.telTemp die.toNat) tj td (s.isThrottled (R.telTemp die.toNat) tj td) (decide (560 ≤ tj.toNat))).regs := by
  generalize hu : s.sensed (R.telTemp die.toNat) tj td (s.isThrottled (R.telTemp die.toNat) tj td) (decide (560 ≤ tj.toNat)) = u
  refine ⟨(if decide (560 ≤ tj.toNat) = true ∧ ¬ bit 25 (s.reg (R.telTemp die.toNat)) = true then
    { u with out := u.out ++ [.alert die.toNat] } else u).alertPrune, ?_, ?_⟩
  · rw [← hu]
    rfl
  · split <;> rfl

theorem testBit_b2n (b : Bool) : (b2n b).testBit 0 = b := by cases b <;> rfl

theorem sensed_fields (h : s.Canon) (a : Nat) (tj td : BitVec 12) (hot alert : Bool) :
    (s.sensed a tj td hot alert).fld a 11 0 = tj.toNat ∧ (s.sensed a tj td hot alert).fld a 23 12 = td.toNat ∧
      bit 24 ((s.sensed a tj td hot alert).reg a) = hot ∧ bit 25 ((s.sensed a tj td hot alert).reg a) = alert := by
  have h1 := h.setFld a 11 0 tj.toNat
  have h2 := h1.setFld a 23 12 td.toNat
  have h3 := h2.setFld a 24 24 (b2n hot)
  unfold State.sensed
  refine ⟨?_, ?_, ?_, ?_⟩
  · rw [State.fld_setFld_other h3 _ _ _ _ _ _ (by decide) (by decide) (by decide) (by decide),
      State.fld_setFld_other h2 _ _ _ _ _ _ (by decide) (by decide) (by decide) (by decide),
      State.fld_setFld_other h1 _ _ _ _ _ _ (by decide) (by decide) (by decide) (by decide),
      State.fld_setFld_same h _ _ _ _ (by decide) (by decide)]
    exact Nat.mod_eq_of_lt tj.isLt
  · rw [State.fld_setFld_other h3 _ _ _ _ _ _ (by decide) (by decide) (by decide) (by decide),
      State.fld_setFld_other h2 _ _ _ _ _ _ (by decide) (by decide) (by decide) (by decide),
      State.fld_setFld_same h1 _ _ _ _ (by decide) (by decide)]
    exact Nat.mod_eq_of_lt td.isLt
  · rw [State.bit_reg_setFld h3 _ _ _ _ (by decide) (by decide), if_neg (by decide),
      State.bit_reg_setFld h2 _ _ _ _ (by decide) (by decide), if_pos (by decide)]
    exact testBit_b2n hot
  · rw [State.bit_reg_setFld h3 _ _ _ _ (by decide) (by decide), if_pos (by decide)]
    exact testBit_b2n alert

/-- TEL_TEMP follows the maxima that are sensed. -/
theorem temperatureThreshold_shown (hs : s.Canon) (die : BitVec 1) (tj td : BitVec 12) :
    let tel := R.telTemp die.toNat
    ∃ t, exec (.temperatureThreshold die tj td) s = .next t ∧ t.fld tel 11 0 = tj.toNat ∧ t.fld tel 23 12 = td.toNat ∧
      (bit 25 (t.reg tel) = true ↔ 560 ≤ tj.toNat) ∧ (540 ≤ tj.toNat ∨ 540 ≤ td.toNat → bit 24 (t.reg tel) = true) ∧
      (tj.toNat ≤ 532 → td.toNat ≤ 532 → bit 24 (t.reg tel) = false) ∧
      (tj.toNat < 540 → td.toNat < 540 → 532 < tj.toNat ∨ 532 < td.toNat → bit 24 (t.reg tel) = bit 24 (s.reg tel)) := by
  intro tel
  obtain ⟨t, hex, hr⟩ := exec_temperatureThreshold (s := s) die tj td
  obtain ⟨hj, hd, h24, h25⟩ := sensed_fields hs tel tj td (s.isThrottled tel tj td) (decide (560 ≤ tj.toNat))
  have e : t.reg tel = _ := State.reg_of_regs hr tel
  refine ⟨t, hex, (State.fld_congr e _ _).trans hj, (State.fld_congr e _ _).trans hd, ?_, fun ho => ?_, fun h1 h2 => ?_, fun h1 h2 ho => ?_⟩
  · rw [e, h25, decide_eq_true_eq]
  · rw [e, h24, State.isThrottled, Bool.or_eq_true_iff, Bool.or_eq_true_iff, decide_eq_true_eq, decide_eq_true_eq]
    exact Or.inl ho
  · rw [e, h24, State.isThrottled, decide_eq_false (by omega), decide_eq_false (by omega), decide_eq_true h1, decide_eq_true h2]
    exact Bool.and_false _
  · have hc : (decide (tj.toNat ≤ 532) && decide (td.toNat ≤ 532)) = false := by
      rw [Bool.and_eq_false_iff, decide_eq_false_iff_not, decide_eq_false_iff_not]
      omega
    rw [e, h24, State.isThrottled, decide_eq_false (by omega), decide_eq_false (by omega), hc]
    exact Bool.and_true _

theorem exec_thermalTrip {die : BitVec 1} (h : 600 ≤ s.fld (R.telTemp die.toNat) 11 0 ∨ 580 ≤ s.fld (R.telTemp die.toNat) 23 12) :
    exec (.thermalTrip die) s =
      .next (((s.jobs.map Job.handle).foldl (fun s h => s.stopJob h K.eThermalTrip true) s).serdesOff.setFld (R.telTemp die.toNat) 26 26 1) :=
  if_pos h

theorem exec_thermalTrip_cool {die : BitVec 1} (h1 : s.fld (R.telTemp die.toNat) 11 0 < 600) (h2 : s.fld (R.telTemp die.toNat) 23 12 < 580) :
    exec (.thermalTrip die) s = .next s := if_neg (not_or.mpr ⟨Nat.not_le.mpr h1, Nat.not_le.mpr h2⟩)

/-! ### SerDes -/

/-- The links that are taken down. -/
def State.linksOff (s : State) (n : Nat) : State := (List.range n).foldl (fun s l => s.setFld (R.gulLstat l) 1 0 0) s

theorem serdesOff_eq : s.serdesOff = ((s.linksOff 32).setFld (R.ethPstat 0) 4 0 0).setFld (R.ethPstat 1) 4 0 0 := rfl

theorem linksOff_canon (h : s.Canon) (n : Nat) : (s.linksOff n).Canon := foldl_kept (P := State.Canon) (fun _ _ hu => hu.setFld _ _ _ _) _ h

theorem linksOff_down (h : s.Canon) {n l : Nat} (hl : l < n) : (s.linksOff n).fld (R.gulLstat l) 1 0 = 0 := by
  induction n with
  | zero => exact absurd hl (Nat.not_lt_zero l)
  | succ n ih =>
    have hs : s.linksOff (n + 1) = (s.linksOff n).setFld (R.gulLstat n) 1 0 0 := by
      rw [State.linksOff, List.range_succ, List.foldl_append]
      rfl
    rw [hs]
    by_cases e : l = n
    · rw [e]
      exact State.fld_setFld_zero (linksOff_canon h n) _ (by decide) (by decide) (by decide) (by decide)
    · exact State.fld_setFld_stays (linksOff_canon h n) _ (by decide) (by decide) (by decide) (by decide) (ih (by omega))

theorem serdesOff_down (h : s.Canon) :
    s.serdesOff.portUp 0 = false ∧ s.serdesOff.portUp 1 = false ∧ ∀ l, l < 32 → s.serdesOff.linkState l = 0 := by
  have h1 := linksOff_canon h 32
  have h2 := h1.setFld (R.ethPstat 0) 4 0 0
  have down {t : State} {a : Nat} (e : t.fld a 1 0 = 0) : (t.fld a 1 0 == 2) = false := by rw [e]; rfl
  rw [serdesOff_eq]
  refine ⟨down ?_, down ?_, fun l hl => ?_⟩
  · exact State.fld_setFld_stays h2 _ (by decide) (by decide) (by decide) (by decide)
      (State.fld_setFld_zero h1 _ (by decide) (by decide) (by decide) (by decide))
  · exact State.fld_setFld_zero h2 _ (by decide) (by decide) (by decide) (by decide)
  · exact State.fld_setFld_stays h2 _ (by decide) (by decide) (by decide) (by decide)
      (State.fld_setFld_stays h1 _ (by decide) (by decide) (by decide) (by decide) (linksOff_down h hl))

/-! ### SMBus and trace -/

theorem exec_smbusRead {a : Nat} (he : s.episode = none) :
    exec (.smbusRead a true) s = .next { s with out := s.out ++ [.smbus
      (if a % 8 = 0 ∧ smbusReadable a then 0 :: leBytes 8 (s.readReg a).toNat else 1 :: List.replicate 8 0)] } :=
  if_neg (not_or.mpr ⟨not_not_intro rfl, by rw [he]; exact Bool.false_ne_true⟩)

theorem exec_smbusRead_silent {a : Nat} {ok : Bool} (h : ok = false ∨ s.episode ≠ none) : exec (.smbusRead a ok) s = .next s :=
  if_pos (h.imp not_of_eq_false Option.isSome_iff_ne_none.mpr)

theorem exec_smbusAlertResponse (ha : s.smbAlert = true) (he : s.episode = none) : exec .smbusAlertResponse s =
    .next { s with out := s.out ++ [.smbus [BitVec.ofNat 8 (2 * (0x60 + s.fld R.pinStrap 1 0))]], alertAck := s.alertConds } :=
  if_pos ⟨ha, by rw [he]; rfl⟩

theorem exec_smbusAlertResponse_silent (h : s.smbAlert = false ∨ s.episode ≠ none) : exec .smbusAlertResponse s = .next s :=
  if_neg (fun hn => h.elim (fun h1 => not_of_eq_false h1 hn.1) (fun h1 => h1 (Option.isNone_iff_eq_none.mp hn.2)))

theorem nibbles_eq (w : Word) : nibbles w = (List.range 16).map (fun i => w.extractLsb' (4 * i) 4) := by
  refine List.map_congr_left fun i _ => BitVec.eq_of_toNat_eq ?_
  rw [BitVec.toNat_ofNat, BitVec.extractLsb'_toNat, Nat.shiftRight_eq_div_pow, Nat.pow_mul]

theorem exec_traceWordSent {w : Word} {rest : List Word} (h : s.trace = w :: rest) (ho : s.traceOn = true) : exec .traceWordSent s =
    .next { s with trace := rest, out := s.out ++ [.trace ((List.range 16).map (fun i => w.extractLsb' (4 * i) 4))] } := by
  change execTraceWordSent s = _
  unfold execTraceWordSent
  simp only [h, ho, if_true, nibbles_eq]

theorem exec_traceWordSent_silent (h : s.trace = [] ∨ s.traceOn = false) : exec .traceWordSent s = .next s := by
  change execTraceWordSent s = _
  unfold execTraceWordSent
  cases hs : s.trace with
  | nil => rfl
  | cons w rest => exact if_neg (not_of_eq_false (h.resolve_left (by rw [hs]; exact List.cons_ne_nil _ _)))

end

/-- Settles O55. -/
theorem powerAndPins : Obligations.PowerAndPins := by
  unfold Obligations.PowerAndPins
  intro s isl extra v fast slow die tj td low a core hc tel n stops tells jtag unloaded event again tripped
  have shown {j : JtagInst} {ok : Prop} [Decidable ok] {o : Out}
      (h : exec (.jtagInstruction j) s = if ok then .next { s with out := s.out ++ [o] } else .next s) : jtag j ok o :=
    ⟨fun hk => h.trans (if_pos hk), fun hk => h.trans (if_neg hk)⟩
  refine ⟨fun h => if_pos h, fun h => if_pos h, fun h => ⟨if_neg (Nat.not_lt.mpr h), if_neg (Nat.not_lt.mpr h)⟩, exec_pwrCapWrite hc v,
    cappingStep_shown hc fast slow, exec_cappingCalibration, fun c mv => ⟨voutCommand_refused c, fun hl hh hr =>
      ⟨_, voutCommand_sets c hl hh hr, rfl, rfl, rfl, rfl, rfl⟩⟩, exec_cappingEvent_early, fun h hn => ?_, fun h ha => ?_, exec_throttleRequest low,
    temperatureThreshold_shown hc die tj td, exec_thermalTrip, exec_thermalTrip_cool, serdesOff_down hc, fun he h8 hr => ?_, fun he hn => ?_,
    fun he => ⟨exec_smbusRead_silent (.inr he), exec_smbusAlertResponse_silent (.inr he)⟩, exec_smbusRead_silent (.inl rfl), exec_smbusAlertResponse,
    fun h => exec_smbusAlertResponse_silent (.inl h), ⟨fun _ => rfl, fun h => absurd trivial h⟩, rfl, shown rfl, shown rfl, shown rfl, shown rfl, shown rfl,
    shown rfl, fun h => if_pos h, fun h => if_neg (Nat.not_le.mpr h), fun h => if_neg (Nat.not_le.mpr h), fun h => if_pos h,
    fun w rest => exec_traceWordSent, exec_traceWordSent_silent⟩
  · exact (exec_cappingEvent h).trans (next_congr (if_neg (fun h1 => hn (State.capAgain_iff.mp h1))))
  · exact (exec_cappingEvent h).trans (next_congr (if_pos (State.capAgain_iff.mpr ha)))
  · exact (exec_smbusRead he).trans (by rw [if_pos ⟨h8, hr⟩])
  · exact (exec_smbusRead he).trans (by rw [if_neg (fun h => hn.elim (fun h8 => h8 h.1) (fun hr => not_of_eq_false hr h.2))])

end Sys2Proof.Machine

/-! SUPPORT. The start of a table's command: its registers, its notes and the message to the other ranks
(R26, R29, R34, R248, R303, R380). -/
namespace Sys2Proof.Machine

open Sys2Proof

/-! ### Registers of different blocks, and of both dies -/

theorem Block.off_inj {b b' : Block} (h : b.off = b'.off) : b = b' := by
  cases b <;> cases b' <;> simp [Block.off] at h ⊢

theorem Block.off_grid (b : Block) : b.off % 0x100000 = 0 ∧ b.off < 0x10000000 := by cases b <;> decide

theorem blkReg_ne {d d' o o' : Nat} {b b' : Block} (hb : b ≠ b') (ho : o < 0x100000) (ho' : o' < 0x100000) : blkReg d b o ≠ blkReg d' b' o' := by
  intro h
  obtain ⟨h1, h2⟩ := b.off_grid
  obtain ⟨h3, h4⟩ := b'.off_grid
  refine hb (Block.off_inj ?_)
  unfold blkReg ctlBase at h
  omega

section
variable {s : State} {f : Nat → Nat} {hi lo v : Nat}

theorem State.reg_setBoth_ne (h : s.Canon) {a : Nat} (hne : ∀ d, a ≠ f d) : (s.setBoth f hi lo v).reg a = s.reg a := by
  rw [State.setBoth, State.reg_setFld_ne (h.setFld _ _ _ _) _ _ _ (hne 1), State.reg_setFld_ne h _ _ _ (hne 0)]

/-- Another field of the registers that both dies show. -/
theorem State.fld_setBoth_other (h : s.Canon) {hi' lo' : Nat} (hl : lo ≤ hi) (h' : hi' < 64) (hl' : lo' ≤ hi') (hd : hi < lo' ∨ hi' < lo) :
    (s.setBoth f hi lo v).fld (f 0) hi' lo' = s.fld (f 0) hi' lo' := by
  unfold State.setBoth
  by_cases e : f 0 = f 1
  · rw [← e, State.fld_setFld_other (h.setFld _ _ _ _) _ _ _ _ _ _ hl h' hl' hd, State.fld_setFld_other h _ _ _ _ _ _ hl h' hl' hd]
  · rw [State.fld_congr (State.reg_setFld_ne (h.setFld _ _ _ _) _ _ _ e), State.fld_setFld_other h _ _ _ _ _ _ hl h' hl' hd]

end

/-- Nothing has changed but registers, the notes of tables, jobs and messages. -/
def State.OffStart (s t : State) : Prop := { t with regs := s.regs, tbls := s.tbls, jobs := s.jobs, out := s.out } = s

section
variable {s t : State}

theorem State.OffStart.refl (s : State) : s.OffStart s := rfl
theorem State.OffStart.setBoth (h : s.OffStart t) {f : Nat → Nat} {hi lo v : Nat} : s.OffStart (t.setBoth f hi lo v) := h
theorem State.OffStart.updTbl (h : s.OffStart t) {i : Nat} {f : Tbl → Tbl} : s.OffStart (t.updTbl i f) := h
theorem State.OffStart.updJob (h : s.OffStart t) {i : Nat} {f : Job → Job} : s.OffStart (t.updJob i f) := h
theorem State.OffStart.out (h : s.OffStart t) {l : List Out} : s.OffStart { t with out := l } := h

end

/-! ### The parts of a start -/

section
variable {s : State} {t : Nat} {m : StartMsg} {rerun : Bool}

theorem State.setBoth_tbls (s : State) (f : Nat → Nat) (hi lo v : Nat) : (s.setBoth f hi lo v).tbls = s.tbls := rfl
theorem State.setBoth_out (s : State) (f : Nat → Nat) (hi lo v : Nat) : (s.setBoth f hi lo v).out = s.out := rfl
theorem State.reg_updJob (s : State) (h : Nat) (f : Job → Job) (a : Nat) : (s.updJob h f).reg a = s.reg a := rfl
theorem State.reg_updTbl (s : State) (i : Nat) (f : Tbl → Tbl) (a : Nat) : (s.updTbl i f).reg a = s.reg a := rfl
theorem State.Canon.updJob (h : s.Canon) {i : Nat} {f : Job → Job} : (s.updJob i f).Canon := h
theorem State.Canon.updTbl (h : s.Canon) {i : Nat} {f : Tbl → Tbl} : (s.updTbl i f).Canon := h

/-- What a start makes of the table's job leaves every register but TBL_STATE, the tables and the messages. -/
structure JobStarts (s u : State) (t : Nat) : Prop where
  canon : u.Canon
  reg : ∀ a, (∀ d, a ≠ R.tblState d t) → u.reg a = s.reg a
  tbls : u.tbls = s.tbls
  out : u.out = s.out
  rest : s.OffStart u

theorem JobStarts.refl (h : s.Canon) : JobStarts s s t := ⟨h, fun _ _ => rfl, rfl, rfl, rfl⟩

theorem JobStarts.updJob {u : State} (h : JobStarts s u t) {i : Nat} {f : Job → Job} : JobStarts s (u.updJob i f) t :=
  ⟨h.canon, h.reg, h.tbls, h.out, h.rest.updJob⟩

theorem JobStarts.setState {u : State} (h : JobStarts s u t) {hi lo v : Nat} : JobStarts s (u.setBoth (fun d => R.tblState d t) hi lo v) t :=
  ⟨h.canon.setBoth, fun a ha => (State.reg_setBoth_ne h.canon ha).trans (h.reg a ha), (State.setBoth_tbls ..).trans h.tbls,
    (State.setBoth_out ..).trans h.out, h.rest.setBoth⟩

theorem startJobCmd_starts (h : s.Canon) : JobStarts s (s.startJobCmd t m rerun) t := by
  have count {u : State} (hu : JobStarts s u t) : JobStarts s (if rerun then u else u.setBoth (fun d => R.tblState d t) 47 16 0) t := by
    split
    · exact hu
    · exact hu.setState
  unfold State.startJobCmd
  extract_lets count'
  split
  · exact count (.refl h)
  · split
    · exact count (JobStarts.refl h).updJob
    · exact (JobStarts.refl h).updJob.setState

/-- MMU_TCMD as a start leaves it. -/
def State.startRegs (s : State) (t : Nat) (m : StartMsg) : State :=
  ((s.startEpoch t m).setRunning t true).setBoth (fun d => R.mmuTcmd d t) 47 32 0

/-- The number and the sequences of the command that starts. -/
def State.startNote (s : State) (t : Nat) (m : StartMsg) : Nat × List Nat :=
  match (s.jobOf t).bind Job.nextCmd with
  | some c => (c.num, c.req.seqs)
  | none => (m.num, m.seqs)

/-- A start at this rank, without the message to the others. -/
def State.startHere (s : State) (t : Nat) (m : StartMsg) : State :=
  ((s.startRegs t m).updTbl t (startTbl s.gtime (s.tstate t == 6) (s.startNote t m).1 (s.startNote t m).2)).startJobCmd t m (s.isRerun t m)

theorem startCmd_eq (s : State) (t : Nat) (m : StartMsg) :
    s.startCmd t m = if s.spanning t then (s.startHere t m).startSpan t m else s.startHere t m := by
  unfold State.startCmd State.startHere State.startNote State.startRegs
  cases (s.jobOf t).bind Job.nextCmd <;> rfl

theorem exec_commandStart (h : s.canStart t = true) : exec (.commandStart ⟨t, m⟩) s = .next (s.startCmd t m) := if_pos h

theorem exec_commandStart_not (h : s.canStart t = false) : exec (.commandStart ⟨t, m⟩) s = .next s := if_neg (not_of_eq_false h)

/-! ### MMU_TCMD -/

theorem startEpoch_canon (h : s.Canon) : (s.startEpoch t m).Canon := by
  unfold State.startEpoch
  split
  · exact h
  · exact h.setBoth

theorem startEpoch_rest (s : State) (t : Nat) (m : StartMsg) : s.OffStart (s.startEpoch t m) ∧ (s.startEpoch t m).tbls = s.tbls ∧
    (s.startEpoch t m).out = s.out := by
  unfold State.startEpoch
  split
  · exact ⟨rfl, rfl, rfl⟩
  · exact ⟨State.OffStart.setBoth (.refl s), State.setBoth_tbls .., State.setBoth_out ..⟩

theorem startEpoch_reg (h : s.Canon) {a : Nat} (ha : ∀ d, a ≠ R.mmuTcmd d t) : (s.startEpoch t m).reg a = s.reg a := by
  unfold State.startEpoch
  split
  · rfl
  · exact State.reg_setBoth_ne h ha

theorem ecmd_startEpoch (h : s.Canon) : (s.startEpoch t m).ecmd t = if s.isRerun t m = true then s.ecmd t else s.ecmd t + 1 := by
  unfold State.startEpoch
  split
  · rfl
  · rw [State.ecmd, State.nextEcmd, State.fld_setBoth h (f := fun d => R.mmuTcmd d t) (by decide) (by decide)]
    apply BitVec.eq_of_toNat_eq
    rw [BitVec.toNat_ofNat, BitVec.toNat_add]
    exact Nat.mod_mod _ _

theorem startRegs_canon (h : s.Canon) : (s.startRegs t m).Canon := (startEpoch_canon h).setBoth.setBoth

theorem startRegs_reg (h : s.Canon) {a : Nat} (ha : ∀ d, a ≠ R.mmuTcmd d t) : (s.startRegs t m).reg a = s.reg a := by
  rw [State.startRegs, State.setRunning, State.reg_setBoth_ne (startEpoch_canon h).setBoth ha, State.reg_setBoth_ne (startEpoch_canon h) ha,
    startEpoch_reg h ha]

/-- MMU_TCMD after a start: the command runs, with its epoch and no version held. -/
theorem startRegs_tcmd (h : s.Canon) : (s.startRegs t m).running t = true ∧
    (s.startRegs t m).ecmd t = (if s.isRerun t m = true then s.ecmd t else s.ecmd t + 1) ∧ (s.startRegs t m).fld (R.mmuTcmd 0 t) 47 32 = 0 := by
  have h1 := startEpoch_canon (t := t) (m := m) h
  have h2 : ((s.startEpoch t m).setRunning t true).Canon := h1.setBoth
  refine ⟨?_, ?_, ?_⟩
  · rw [State.running, State.startRegs, State.bit_setBoth h2 (f := fun d => R.mmuTcmd d t) (by decide) (by decide), if_neg (by decide),
      State.setRunning, State.bit_setBoth h1 (f := fun d => R.mmuTcmd d t) (by decide) (by decide), if_pos (by decide)]
    rfl
  · rw [State.ecmd, State.startRegs, State.fld_setBoth_other h2 (f := fun d => R.mmuTcmd d t) (by decide) (by decide) (by decide) (by decide),
      State.setRunning, State.fld_setBoth_other h1 (f := fun d => R.mmuTcmd d t) (by decide) (by decide) (by decide) (by decide)]
    exact ecmd_startEpoch h
  · rw [State.startRegs, State.fld_setBoth h2 (f := fun d => R.mmuTcmd d t) (by decide) (by decide), Nat.zero_mod]

theorem startRegs_rest (s : State) (t : Nat) (m : StartMsg) : s.OffStart (s.startRegs t m) ∧ (s.startRegs t m).tbls = s.tbls ∧
    (s.startRegs t m).out = s.out := by
  obtain ⟨h1, h2, h3⟩ := startEpoch_rest s t m
  exact ⟨h1.setBoth.setBoth, ((State.setBoth_tbls ..).trans (State.setBoth_tbls ..)).trans h2,
    ((State.setBoth_out ..).trans (State.setBoth_out ..)).trans h3⟩

/-! ### A start at this rank -/

/-- A table's command has started on the way from s to u. -/
structure Started (s u : State) (t : Nat) (ep : BitVec 8) : Prop where
  running : u.running t = true
  ecmd : u.ecmd t = ep
  noVersion : u.fld (R.mmuTcmd 0 t) 47 32 = 0
  since : (u.tbl t).since = s.gtime
  rest : s.OffStart u

theorem mmuTcmd_ne_tblState (ht : t < 256) (d d' : Nat) : R.mmuTcmd d t ≠ R.tblState d' t := blkReg_ne (by decide) (by omega) (by omega)

theorem State.running_congr {s u : State} {t : Nat} (h : u.reg (R.mmuTcmd 0 t) = s.reg (R.mmuTcmd 0 t)) : u.running t = s.running t := by
  rw [State.running, State.running, h]

theorem State.ecmd_congr {s u : State} {t : Nat} (h : u.reg (R.mmuTcmd 0 t) = s.reg (R.mmuTcmd 0 t)) : u.ecmd t = s.ecmd t := by
  rw [State.ecmd, State.ecmd, State.fld_congr h]

theorem State.tbl_congr {s u : State} (h : u.tbls = s.tbls) (t : Nat) : u.tbl t = s.tbl t := by
  rw [State.tbl, State.tbl, h]

theorem State.tbl_updTbl (hw : SMap.wf Tbl.dflt s.tbls = true) (t : Nat) (f : Tbl → Tbl) : (s.updTbl t f).tbl t = f (s.tbl t) :=
  SMap.get_set_same _ _ _ _ hw

/-- A command that has started stays so while MMU_TCMD and the tables stand. -/
theorem Started.of_reg {u w : State} {ep : BitVec 8} (h : Started s u t ep) (hr : w.reg (R.mmuTcmd 0 t) = u.reg (R.mmuTcmd 0 t)) (ht : w.tbls = u.tbls)
    (ho : s.OffStart w) : Started s w t ep :=
  ⟨(State.running_congr hr).trans h.running, (State.ecmd_congr hr).trans h.ecmd, (State.fld_congr hr _ _).trans h.noVersion,
    (congrArg Tbl.since (State.tbl_congr ht t)).trans h.since, ho⟩

theorem startHere_canon (h : s.Canon) : (s.startHere t m).Canon := (startJobCmd_starts (startRegs_canon h).updTbl).canon

theorem startHere_out (h : s.Canon) : (s.startHere t m).out = s.out :=
  (startJobCmd_starts (startRegs_canon h).updTbl).out.trans (startRegs_rest s t m).2.2

theorem OffStart_trans {s u w : State} (h : s.OffStart u) (h' : u.OffStart w) : s.OffStart w := by
  unfold State.OffStart at h h' ⊢
  rw [← h'] at h
  exact h

theorem startHere_started (hs : s.Canon) (hw : SMap.wf Tbl.dflt s.tbls = true) (ht : t < 256) :
    Started s (s.startHere t m) t (if s.isRerun t m = true then s.ecmd t else s.ecmd t + 1) := by
  obtain ⟨h1, h2, h3⟩ := startRegs_tcmd (t := t) (m := m) hs
  obtain ⟨hrest, htbls, -⟩ := startRegs_rest s t m
  have hj := startJobCmd_starts (t := t) (m := m) (rerun := s.isRerun t m) ((startRegs_canon (t := t) (m := m) hs).updTbl (i := t)
    (f := startTbl s.gtime (s.tstate t == 6) (s.startNote t m).1 (s.startNote t m).2))
  have hreg := (hj.reg _ (mmuTcmd_ne_tblState ht 0)).trans (State.reg_updTbl ..)
  refine ⟨(State.running_congr hreg).trans h1, (State.ecmd_congr hreg).trans h2, (State.fld_congr hreg _ _).trans h3, ?_,
    OffStart_trans hrest.updTbl hj.rest⟩
  rw [State.startHere, State.tbl_congr hj.tbls, State.tbl_updTbl (by rw [htbls]; exact hw)]
  rfl

/-! ### The start of a job that spans devices -/

/-- A register that no start writes. -/
theorem startHere_reg (h : s.Canon) {a : Nat} (h1 : ∀ d, a ≠ R.mmuTcmd d t) (h2 : ∀ d, a ≠ R.tblState d t) :
    (s.startHere t m).reg a = s.reg a :=
  ((startJobCmd_starts (startRegs_canon h).updTbl).reg a h2).trans (startRegs_reg h h1)

/-- The job's registers of Gulras stand through a start at this rank. -/
theorem startHere_gul (h : s.Canon) (ht : t < 256) {o : Nat} (ho : o < 0x100000) :
    (s.startHere t m).reg (blkReg 0 .gul o) = s.reg (blkReg 0 .gul o) :=
  startHere_reg h (fun d => blkReg_ne (by decide) ho (by omega)) (fun d => blkReg_ne (by decide) ho (by omega))

theorem gulJmap0_ne_gulJstat {t : Nat} (d : Nat) : R.gulJmap0 0 t ≠ R.gulJstat d t := by
  unfold R.gulJmap0 R.gulJstat blkReg ctlBase
  omega

/-- The number of a command that a spanning job starts, and its phase. -/
def State.spanNumbered (s : State) (t n : Nat) : State := (s.setBoth (fun d => R.gulJstat d t) 31 0 n).setPhase t 1

/-- The messages that tell the other ranks of a start. -/
def State.startMsgs (s : State) (t : Nat) : List Out :=
  (s.others t).map (fun r => Out.start (s.jid t) ⟨s.cnum t, (s.tbl t).num, (s.tbl t).seqs⟩ r)

/-- Messages go out. -/
def State.sends (s : State) (l : List Out) : State := { s with out := s.out ++ l }

theorem startSpan_lead (h0 : s.rank t = 0) : s.startSpan t m =
    (s.spanNumbered t ((s.cnum t).toNat + 1)).sends ((s.spanNumbered t ((s.cnum t).toNat + 1)).startMsgs t) := if_pos h0

theorem Started.sends {u : State} {ep : BitVec 8} (h : Started s u t ep) (l : List Out) : Started s (u.sends l) t ep :=
  ⟨h.running, h.ecmd, h.noVersion, h.since, h.rest.out⟩

theorem cnum_sends (s : State) (l : List Out) (t : Nat) : (s.sends l).cnum t = s.cnum t := rfl

theorem mem_sends {l : List Out} {x : Out} (h : x ∈ l) : x ∈ (s.sends l).out := List.mem_append_right _ h

theorem startSpan_other (h0 : s.rank t ≠ 0) : s.startSpan t m = s.spanNumbered t m.cnum.toNat := if_neg h0

theorem cnum_spanNumbered (h : s.Canon) (t n : Nat) : (s.spanNumbered t n).cnum t = BitVec.ofNat 32 n := by
  rw [State.cnum, State.spanNumbered, State.setPhase,
    State.fld_setBoth_other h.setBoth (f := fun d => R.gulJstat d t) (by decide) (by decide) (by decide) (by decide),
    State.fld_setBoth h (f := fun d => R.gulJstat d t) (by decide) (by decide)]
  exact BitVec.eq_of_toNat_eq (by rw [BitVec.toNat_ofNat, BitVec.toNat_ofNat]; exact Nat.mod_mod _ _)

theorem spanNumbered_reg (h : s.Canon) {n a : Nat} (ha : ∀ d, a ≠ R.gulJstat d t) : (s.spanNumbered t n).reg a = s.reg a := by
  rw [State.spanNumbered, State.setPhase, State.reg_setBoth_ne h.setBoth ha, State.reg_setBoth_ne h ha]

theorem spanNumbered_tbls (s : State) (t n : Nat) : (s.spanNumbered t n).tbls = s.tbls := by
  rw [State.spanNumbered, State.setPhase, State.setBoth_tbls, State.setBoth_tbls]
theorem spanNumbered_out (s : State) (t n : Nat) : (s.spanNumbered t n).out = s.out := by
  rw [State.spanNumbered, State.setPhase, State.setBoth_out, State.setBoth_out]
theorem spanNumbered_rest (s : State) (t n : Nat) : s.OffStart (s.spanNumbered t n) := by
  unfold State.spanNumbered State.setPhase
  exact State.OffStart.setBoth (.setBoth (.refl s))

theorem mmuTcmd_ne_gulJstat (ht : t < 256) (d d' : Nat) : R.mmuTcmd d t ≠ R.gulJstat d' t := blkReg_ne (by decide) (by omega) (by omega)

/-- The ranks of a job, as GUL_JMAP names them. -/
theorem State.ranks_congr {s u : State} (h : u.reg (R.gulJmap0 0 t) = s.reg (R.gulJmap0 0 t)) :
    u.rank t = s.rank t ∧ u.others t = s.others t ∧ u.jid t = s.jid t := by
  unfold State.others State.jid State.nranks State.rank
  rw [State.fld_congr h, State.fld_congr h, State.fld_congr h]
  exact ⟨rfl, rfl, rfl⟩

theorem State.cnum_congr {s u : State} (h : u.reg (R.gulJstat 0 t) = s.reg (R.gulJstat 0 t)) : u.cnum t = s.cnum t := by
  rw [State.cnum, State.cnum, State.fld_congr h]

/-- The lead of a spanning job adds 1 to the job's command number and sends it to every rank. -/
theorem startCmd_lead (hs : s.Canon) (hw : SMap.wf Tbl.dflt s.tbls = true) (ht : t < 256) (hp : s.spanning t = true) (h0 : s.rank t = 0) :
    Started s (s.startCmd t m) t (if s.isRerun t m = true then s.ecmd t else s.ecmd t + 1) ∧ (s.startCmd t m).cnum t = s.cnum t + 1 ∧
      ∀ r, r ∈ s.others t → ∃ num seqs, Out.start (s.jid t) ⟨s.cnum t + 1, num, seqs⟩ r ∈ (s.startCmd t m).out := by
  have hc := startHere_canon (t := t) (m := m) hs
  have hst := startHere_started (m := m) hs hw ht
  obtain ⟨hrank, hothers, hjid⟩ := State.ranks_congr (startHere_gul (m := m) hs ht (o := 0x30000 + 0x20 * t) (by omega))
  have hcn := State.cnum_congr (startHere_gul (m := m) hs ht (o := 0x30018 + 0x20 * t) (by omega))
  rw [startCmd_eq, if_pos hp, startSpan_lead (hrank.trans h0), hcn]
  have hst' := hst.of_reg (spanNumbered_reg (n := (s.cnum t).toNat + 1) hc (mmuTcmd_ne_gulJstat ht 0)) (spanNumbered_tbls ..)
    (OffStart_trans hst.rest (spanNumbered_rest ..))
  obtain ⟨-, hothers', hjid'⟩ := State.ranks_congr (spanNumbered_reg (t := t) hc (n := (s.cnum t).toNat + 1) gulJmap0_ne_gulJstat)
  have hnum : ((s.startHere t m).spanNumbered t ((s.cnum t).toNat + 1)).cnum t = s.cnum t + 1 := by
    rw [cnum_spanNumbered hc]
    apply BitVec.eq_of_toNat_eq
    rw [BitVec.toNat_ofNat, BitVec.toNat_add]
    rfl
  generalize (s.startHere t m).spanNumbered t ((s.cnum t).toNat + 1) = v at *
  refine ⟨hst'.sends _, (cnum_sends ..).trans hnum, fun r hr => ⟨(v.tbl t).num, (v.tbl t).seqs, mem_sends (List.mem_map.mpr ⟨r, ?_, ?_⟩)⟩⟩
  · rw [hothers', hothers]
    exact hr
  · rw [hnum, hjid', hjid]

/-- Another rank takes the number sent. -/
theorem startCmd_other (hs : s.Canon) (hw : SMap.wf Tbl.dflt s.tbls = true) (ht : t < 256) (hp : s.spanning t = true) (h0 : s.rank t ≠ 0) :
    Started s (s.startCmd t m) t (if s.isRerun t m = true then s.ecmd t else s.ecmd t + 1) ∧ (s.startCmd t m).cnum t = m.cnum ∧
      (s.startCmd t m).out = s.out := by
  have hc := startHere_canon (t := t) (m := m) hs
  have hst := startHere_started (m := m) hs hw ht
  obtain ⟨hrank, -, -⟩ := State.ranks_congr (startHere_gul (m := m) hs ht (o := 0x30000 + 0x20 * t) (by omega))
  rw [startCmd_eq, if_pos hp, startSpan_other (fun hn => h0 (hrank.symm.trans hn))]
  refine ⟨hst.of_reg (spanNumbered_reg hc (mmuTcmd_ne_gulJstat ht 0)) (spanNumbered_tbls ..) (OffStart_trans hst.rest (spanNumbered_rest ..)), ?_,
    (spanNumbered_out ..).trans (startHere_out hs)⟩
  rw [cnum_spanNumbered hc, BitVec.ofNat_toNat, BitVec.setWidth_eq]

/-- A start of a job on one device. -/
theorem startCmd_alone (hs : s.Canon) (hw : SMap.wf Tbl.dflt s.tbls = true) (ht : t < 256) (hp : s.spanning t = false) :
    Started s (s.startCmd t m) t (if s.isRerun t m = true then s.ecmd t else s.ecmd t + 1) ∧ (s.startCmd t m).out = s.out := by
  rw [startCmd_eq, if_neg (not_of_eq_false hp)]
  exact ⟨startHere_started hs hw ht, startHere_out hs⟩

end

end Sys2Proof.Machine

/-! SUPPORT. Commit, kill and cancel requests, expiries, grants and placements of a table's command
(R340 to R349, R360, R546). -/
namespace Sys2Proof.Machine

open Sys2Proof

/-! ### Commit requests -/

section
variable {s : State} {t : Nat} {r : CommitReq} {c : Code} {se : Bool}

theorem exec_tblReqCommit (hv : s.tvalid t = true) (hb : s.tbusy t = false) : exec (.tblReqCommit t r) s =
    if s.tstate t ≠ 2 ∨ ¬ s.running t then .next (s.setRes t K.eTblState false)
    else if (s.tbl t).scanned then .next (s.orderKill t (.fail K.eJobScanned) false)
    else if (s.tbl t).ue then .next (s.ueTable t)
    else match (s.tbl t).failed with
      | some c => .next (s.orderKill t (.fail c) false)
      | none => .next ((s.setRes t 0 true).updTbl t (fun x =>
          { x with commit := some r.stepEnd, sizes := r.sizes, skip := s.spanning t && s.rank t == 0 && !s.allSealed t r.reports })) :=
  if_neg (not_or.mpr ⟨not_not_intro hv, not_of_eq_false hb⟩)

/-- A commit request in a dealt table whose command runs. -/
theorem exec_tblReqCommit_dealt (hv : s.tvalid t = true) (hb : s.tbusy t = false) (h2 : s.tstate t = 2) (hr : s.running t = true) :
    exec (.tblReqCommit t r) s =
      if (s.tbl t).scanned then .next (s.orderKill t (.fail K.eJobScanned) false)
      else if (s.tbl t).ue then .next (s.ueTable t)
      else match (s.tbl t).failed with
        | some c => .next (s.orderKill t (.fail c) false)
        | none => .next ((s.setRes t 0 true).updTbl t (fun x =>
            { x with commit := some r.stepEnd, sizes := r.sizes, skip := s.spanning t && s.rank t == 0 && !s.allSealed t r.reports })) :=
  (exec_tblReqCommit hv hb).trans (if_neg (not_or.mpr ⟨not_not_intro h2, not_not_intro hr⟩))

theorem exec_tblReqCommit_failed (hv : s.tvalid t = true) (hb : s.tbusy t = false) (h2 : s.tstate t = 2) (hr : s.running t = true)
    (hs : (s.tbl t).scanned = false) (hu : (s.tbl t).ue = false) (hf : (s.tbl t).failed = some c) :
    exec (.tblReqCommit t r) s = .next (s.orderKill t (.fail c) false) := by
  rw [exec_tblReqCommit_dealt hv hb h2 hr, if_neg (not_of_eq_false hs), if_neg (not_of_eq_false hu), hf]

theorem exec_tblReqCommit_taken (hv : s.tvalid t = true) (hb : s.tbusy t = false) (h2 : s.tstate t = 2) (hr : s.running t = true)
    (hs : (s.tbl t).scanned = false) (hu : (s.tbl t).ue = false) (hf : (s.tbl t).failed = none) :
    exec (.tblReqCommit t r) s = .next ((s.setRes t 0 true).updTbl t (fun x =>
      { x with commit := some r.stepEnd, sizes := r.sizes, skip := s.spanning t && s.rank t == 0 && !s.allSealed t r.reports })) := by
  rw [exec_tblReqCommit_dealt hv hb h2 hr, if_neg (not_of_eq_false hs), if_neg (not_of_eq_false hu), hf]

/-! ### The local steps of a commit -/

theorem exec_commitLocalStep_waits (hc : (s.tbl t).commit = some se) (hd : s.drained t = false) : exec (.commitLocalStep t) s = .next s := by
  change execCommitLocalStep t s = _
  unfold execCommitLocalStep
  simp only [hc]
  exact if_pos (.inr (not_of_eq_false hd))

theorem exec_commitLocalStep (hc : (s.tbl t).commit = some se) (h2 : s.tstate t = 2) (hd : s.drained t = true) :
    exec (.commitLocalStep t) s =
      if (s.tbl t).ue then .next ((s.ueTable t).settleJob t)
      else match (s.tbl t).failed with
        | some c => .next (s.orderKill t (.fail c) false)
        | none =>
          if s.spanning t then
            .next ((if s.rank t = 0 then ((s.homeSees t).setTstate t 3).tellRanks t 1 (s.children t) else (s.homeSees t).setTstate t 3).tryReady t)
          else .next ((((s.homeSees t).setTstate t 3).commitLocal t se).settleJob t) := by
  change execCommitLocalStep t s = _
  unfold execCommitLocalStep
  simp only [hc]
  exact if_neg (not_or.mpr ⟨not_not_intro h2, not_not_intro hd⟩)

theorem exec_commitLocalStep_failed (hc : (s.tbl t).commit = some se) (h2 : s.tstate t = 2) (hd : s.drained t = true)
    (hu : (s.tbl t).ue = false) (hf : (s.tbl t).failed = some c) :
    exec (.commitLocalStep t) s = .next (s.orderKill t (.fail c) false) := by
  rw [exec_commitLocalStep hc h2 hd, if_neg (not_of_eq_false hu), hf]

theorem exec_commitLocalStep_local (hc : (s.tbl t).commit = some se) (h2 : s.tstate t = 2) (hd : s.drained t = true)
    (hu : (s.tbl t).ue = false) (hf : (s.tbl t).failed = none) (hp : s.spanning t = false) :
    exec (.commitLocalStep t) s = .next ((((s.homeSees t).setTstate t 3).commitLocal t se).settleJob t) := by
  rw [exec_commitLocalStep hc h2 hd, if_neg (not_of_eq_false hu), hf]
  exact if_neg (not_of_eq_false hp)

theorem commitLocal_unclean (h : (s.closingDeal t).uncleanSum t ≠ 0) :
    s.commitLocal t se = (s.closingDeal t).failNow t K.eUncleanExit := if_pos h

theorem commitLocal_clean (h : (s.closingDeal t).uncleanSum t = 0) (hp : s.spanning t = false) : s.commitLocal t se =
    (((((s.closingDeal t).commitInstant t se).contextClear t).setTstate t 0).setRes t 0 false).flushTable t :=
  (if_neg (not_not_intro h)).trans (if_neg (not_of_eq_false hp))

end

/-! ### Registers that the requests leave alone -/

section
variable {s : State} {t : Nat} {a : Nat}

theorem State.Canon.dealerSees (h : s.Canon) (d : Nat) : (s.dealerSees d).Canon := h.incFld _ _ _ _

theorem dlrSeq_ne {b : Block} {o : Nat} (hb : b ≠ .dlr) (ho : o < 0x100000) (d d' : Nat) : blkReg d b o ≠ R.dlrSeq d' :=
  blkReg_ne hb ho (by decide)

theorem homeSees_reg (h : s.Canon) {b : Block} {o : Nat} (hb : b ≠ .dlr) (ho : o < 0x100000) :
    (s.homeSees t).reg (blkReg 0 b o) = s.reg (blkReg 0 b o) := State.reg_dealerSees_ne h (dlrSeq_ne hb ho _ _)

theorem setRes_canon (h : s.Canon) (c : Code) (busy : Bool) : (s.setRes t c busy).Canon := h.setBoth.setBoth

theorem setRes_reg (h : s.Canon) (ht : t < 256) (c : Code) (busy : Bool) {b : Block} {o : Nat} (hb : b ≠ .tbl) (ho : o < 0x100000) :
    (s.setRes t c busy).reg (blkReg 0 b o) = s.reg (blkReg 0 b o) := by
  have hne (d : Nat) : blkReg 0 b o ≠ R.tblRes d t := blkReg_ne hb ho (by omega)
  rw [State.setRes, State.reg_setBoth_ne h.setBoth hne, State.reg_setBoth_ne h hne]

theorem State.spanning_congr {s u : State} (h : u.reg (R.gulJmap1 0 t) = s.reg (R.gulJmap1 0 t)) : u.spanning t = s.spanning t := by
  rw [State.spanning, State.spanning, h]

theorem setRes_tbl (s : State) (t k : Nat) (c : Code) (busy : Bool) : (s.setRes t c busy).tbl k = s.tbl k :=
  State.tbl_congr (by rw [State.setRes, State.setBoth_tbls, State.setBoth_tbls]) k

theorem State.setFld_tbls (s : State) (a hi lo v : Nat) : (s.setFld a hi lo v).tbls = s.tbls := rfl

theorem dealerSees_tbl (s : State) (d k : Nat) : (s.dealerSees d).tbl k = s.tbl k :=
  State.tbl_congr (by rw [State.dealerSees, State.incFld, State.setFld_tbls]) k

theorem homeSees_tbl (s : State) (t k : Nat) : (s.homeSees t).tbl k = s.tbl k := dealerSees_tbl ..

theorem setTstate_spanning (h : s.Canon) (ht : t < 256) (v : Nat) : ((s.homeSees t).setTstate t v).spanning t = s.spanning t := by
  have hne (d : Nat) : R.gulJmap1 0 t ≠ R.tblState d t := blkReg_ne (by decide) (by omega) (by omega)
  have hc : (s.homeSees t).Canon := h.dealerSees _
  refine State.spanning_congr ?_
  rw [State.setTstate, State.reg_setBoth_ne hc hne, R.gulJmap1, homeSees_reg h (by decide) (by omega)]

end

/-! ### Kill and cancel requests -/

section
variable {s : State} {t : Nat} {k : KillTo}

theorem endRequest_idle (h : s.running t = false) : s.endRequest t k = (s.setRes t 0 (s.tbusy t)).homeSees t := if_neg (not_of_eq_false h)

/-- The kill of a running command of a job on one device. -/
theorem endRequest_running (hs : s.Canon) (ht : t < 256) (hr : s.running t = true) (hp : s.spanning t = false) :
    s.endRequest t k =
      match ((s.setRes t 0 (s.tbusy t)).homeSees t).tbl t |>.deal with
      | .go _ => ((s.setRes t 0 (s.tbusy t)).homeSees t).updTbl t (fun x => { x with kill := some (mergeKill x.kill k) })
      | .load _ => ((s.setRes t 0 (s.tbusy t)).homeSees t).updTbl t (fun x => { x with kill := some (mergeKill x.kill k) })
      | _ => ((s.setRes t 0 (s.tbusy t)).homeSees t).beginKill t k := by
  have hq := setRes_canon (t := t) hs 0 (s.tbusy t)
  have hr' : (s.setRes t 0 (s.tbusy t)).running t = true :=
    (State.running_congr (setRes_reg hs ht 0 _ (by decide) (by omega))).trans hr
  have hp' : (s.setRes t 0 (s.tbusy t)).spanning t = false :=
    (State.spanning_congr (setRes_reg hs ht 0 _ (by decide) (by omega))).trans hp
  have hp2 : ((s.setRes t 0 (s.tbusy t)).homeSees t).spanning t = false :=
    (State.spanning_congr (homeSees_reg hq (by decide) (by omega))).trans hp'
  unfold State.endRequest
  rw [if_pos hr]
  generalize s.setRes t 0 (s.tbusy t) = q at *
  have hb : (q.homeSees t).killBegins t k false = (q.homeSees t).beginKill t k := if_neg (not_of_eq_false hp2)
  unfold State.orderKill
  rw [if_neg (not_not_intro hr'), if_neg (fun hn => not_of_eq_false hp' hn.1), hb] <;> rfl

theorem endRequest_begins (hs : s.Canon) (ht : t < 256) (hr : s.running t = true) (hp : s.spanning t = false)
    (hd : (s.tbl t).deal = .none ∨ ∃ img, (s.tbl t).deal = .wait img) :
    s.endRequest t k = ((s.setRes t 0 (s.tbusy t)).homeSees t).beginKill t k := by
  rw [endRequest_running hs ht hr hp, homeSees_tbl, setRes_tbl]
  obtain h | ⟨img, h⟩ := hd
  · rw [h]
  · rw [h]

theorem endRequest_dealing {l : List IslImg} (hs : s.Canon) (ht : t < 256) (hr : s.running t = true) (hp : s.spanning t = false)
    (hd : (s.tbl t).deal = .go l ∨ (s.tbl t).deal = .load l) :
    s.endRequest t k = ((s.setRes t 0 (s.tbusy t)).homeSees t).updTbl t (fun x => { x with kill := some (mergeKill x.kill k) }) := by
  rw [endRequest_running hs ht hr hp, homeSees_tbl, setRes_tbl]
  obtain h | h := hd
  · rw [h]
  · rw [h]

/-- What a request that ends a command does. -/
theorem endsCommand {i : Instr} (hs : s.Canon) (ht : t < 256)
    (hi : exec i s = if ¬ s.tvalid t then .next s else .next (s.endRequest t k)) :
    let s2 := (s.setRes t 0 (s.tbusy t)).homeSees t
    (s.tvalid t = true → s.running t = false → exec i s = .next s2) ∧
    (s.tvalid t = true → s.running t = true → s.spanning t = false →
      (((s.tbl t).deal = .none ∨ ∃ img, (s.tbl t).deal = .wait img) → exec i s = .next (s2.beginKill t k)) ∧
      (∀ l, (s.tbl t).deal = .go l ∨ (s.tbl t).deal = .load l →
        exec i s = .next (s2.updTbl t (fun y => { y with kill := some (mergeKill y.kill k) })))) ∧
    (s.tvalid t = false → exec i s = .next s) := by
  intro s2
  have asked (hv : s.tvalid t = true) : exec i s = .next (s.endRequest t k) := hi.trans (if_neg (not_not_intro hv))
  exact ⟨fun hv hr => (asked hv).trans (next_congr (endRequest_idle hr)), fun hv hr hp =>
    ⟨fun hd => (asked hv).trans (next_congr (endRequest_begins hs ht hr hp hd)),
      fun l hd => (asked hv).trans (next_congr (endRequest_dealing hs ht hr hp hd))⟩, fun hv => hi.trans (if_pos (not_of_eq_false hv))⟩

theorem exec_killRelease (hk : (s.tbl t).kill = some k) (h4 : s.tstate t = 4) :
    exec (.killRelease t) s = .next ((s.releaseKill t k).settleJob t) := by
  change execKillRelease t s = _
  unfold execKillRelease
  simp only [hk]
  exact if_pos h4

/-! ### Expiries -/

theorem exec_cmdLimitExpiry {c : Cmd} (hj : (s.jobOf t).bind Job.running = some c) (hl : c.req.limit ≠ 0) (hr : s.running t = true) :
    exec (.cmdLimitExpiry t) s =
      .next ((s.until ((s.tbl t).since + BitVec.ofNat 64 (c.req.limit - c.used))).orderKill t (.fail K.eCmdLimit) false) := by
  change execCmdLimitExpiry t s = _
  unfold execCmdLimitExpiry
  simp only [hj]
  exact if_neg (not_or.mpr ⟨hl, not_not_intro hr⟩)

theorem exec_islWdogExpiry {i : Nat} (hi : i < 192) (ht : (s.isl i).table = t) (h0 : t ≠ 0) (hw : bit 63 (s.reg (R.islWdog i)) = true)
    (hq : s.fld (R.islSeq i) 2 0 = 1 ∨ s.fld (R.islSeq i) 2 0 = 2) : exec (.islWdogExpiry i) s =
      .next ((s.until ((s.isl i).issued + BitVec.ofNat 64 (s.fld (R.islWdog i) 39 0))).orderKill t (.fail K.eJobHung) false) := by
  subst ht
  exact if_pos ⟨hi, hw, hq, h0⟩

/-! ### Grants -/

theorem exec_grantEnd {nw : Nat} {rest : List Nat} (hi : s.tableIsls t = nw :: rest) (h0 : t ≠ 0) (hb : bit 63 (s.reg (R.islSlice nw)) = true) :
    exec (.grantEnd t) s = .next ((((((s.advance (field 39 0 (s.reg (R.islSlice nw)))).setFld (R.islSlice nw) 39 0 0).setFld (R.islSlice nw)
      63 63 0).noteMelds).homeSees t).grantOver t) := by
  change execGrantEnd t s = _
  unfold execGrantEnd
  simp only [hi, List.head?_cons]
  exact if_neg (not_or.mpr ⟨h0, not_not_intro hb⟩)

theorem grantOver_trump {j : Job} {w : Nat} (hj : s.jobOf t = some j) (hn : j.nw = some w) (ht : j.trump = true) : s.grantOver t = s := by
  unfold State.grantOver
  simp only [hj, hn, ht, if_true]

theorem grantOver_renewed {j : Job} {w : Nat} (hj : s.jobOf t = some j) (hn : j.nw = some w) (ht : j.trump = false) (hw : s.waiterFor t = none) :
    s.grantOver t = ((s.updJob j.handle (fun j => { j with kills := 0 })).startGrant j w).noteMelds := by
  unfold State.grantOver
  simp only [hj, hn, ht, Bool.false_eq_true, if_false, hw]

/-! ### Placements -/

theorem Job.waits_iff {j : Job} : j.waits = true ↔ j.nw = none ∧ j.ending = false ∧ j.restarting = false := by
  simp [Job.waits, and_assoc]

theorem exec_jobPlace_kept {h w choice : Nat} {j : Job} (hj : s.job h = some j) (hw : j.waits = true) (hk : j.want = some w)
    (hf : ∀ i ∈ rect w j.rows j.cols, (s.isl i).table = 0) : exec (.jobPlace h choice) s = .next (s.placeJob j w) := by
  have hfree : (rect w j.rows j.cols).all s.freeIsl = true := List.all_eq_true.mpr (fun i hi => beq_iff_eq.mpr (hf i hi))
  change execJobPlace h choice s = _
  unfold execJobPlace
  simp only [hj, hw, not_true_eq_false, if_false, hk, hfree, if_true]

theorem exec_jobPlace_first {h w choice : Nat} {j : Job} {rest : List Job} (hs : s.jobs = j :: rest) (hh : j.handle = h) (hw : j.waits = true)
    (hk : j.want = none) (hf : s.freePlace h j.rows j.cols j.short choice = some w) :
    exec (.jobPlace h choice) s = .next (s.placeJob j w) := by
  have hj : s.job h = some j := by
    unfold State.job
    rw [hs, List.find?_cons_of_pos (p := fun (j : Job) => j.handle == h) (beq_iff_eq.mpr hh)]
  have hb : s.jobs.takeWhile (fun x => x.handle != h) = [] := by
    rw [hs, List.takeWhile_cons_of_neg (by rw [hh, bne_self_eq_false]; exact Bool.false_ne_true)]
  change execJobPlace h choice s = _
  unfold execJobPlace
  simp only [hj, hw, not_true_eq_false, if_false, hk, hb, List.filter_nil, List.any_nil, Bool.false_eq_true, hf]

/-! ### The jobs that a placement leaves -/

theorem State.setFld_jobs (s : State) (a hi lo v : Nat) : (s.setFld a hi lo v).jobs = s.jobs := rfl

theorem State.updIsl_jobs (s : State) (i : Nat) (f : Isl → Isl) : (s.updIsl i f).jobs = s.jobs := rfl

theorem fenceFifos_jobs (s : State) (k : CellRef) (p : Nat) : (s.fenceFifos k p).jobs = s.jobs := by
  unfold State.fenceFifos
  extract_lets n
  split
  · split
    · rfl
    · exact State.setFld_jobs ..
  · rfl

theorem fenceIsl_jobs (s : State) (i : Nat) : (s.fenceIsl i).jobs = s.jobs := by
  refine foldl_kept (P := fun u => u.jobs = s.jobs) (fun u k hu => foldl_kept (P := fun u => u.jobs = s.jobs) (fun u p hu => ?_) _ hu) _ rfl
  split
  · split
    · exact hu
    · rw [fenceFifos_jobs, fenceFifos_jobs, hu]
  · exact hu

theorem fenceAcross_jobs (s : State) (x bits : Nat) : (s.fenceAcross x bits).jobs = s.jobs := by
  refine foldl_kept (P := fun u => u.jobs = s.jobs) (fun u p hu => ?_) _ rfl
  split
  · split
    · exact (State.setFld_jobs ..).trans hu
    · exact hu
  · exact hu

theorem placeIsl_jobs (s : State) (t nw rows cols i j : Nat) : (s.placeIsl t nw rows cols i j).jobs = s.jobs := by
  unfold State.placeIsl
  extract_lets x s1 s2 b
  rw [fenceIsl_jobs, fenceAcross_jobs, State.setFld_jobs, State.setReg_jobs, State.updIsl_jobs]

theorem noteMeld_jobs (s : State) (d : Nat) : (s.noteMeld d).jobs = s.jobs := by
  unfold State.noteMeld
  split
  · exact State.setFld_jobs ..
  · rfl

theorem noteMelds_jobs (s : State) : (s.noteMelds).jobs = s.jobs := by
  rw [State.noteMelds, noteMeld_jobs, noteMeld_jobs]

theorem dealerSees_jobs (s : State) (d : Nat) : (s.dealerSees d).jobs = s.jobs := by
  rw [State.dealerSees, State.incFld, State.setFld_jobs]

theorem setBoth_jobs (s : State) (f : Nat → Nat) (hi lo v : Nat) : (s.setBoth f hi lo v).jobs = s.jobs := by
  rw [State.setBoth, State.setFld_jobs, State.setFld_jobs]

theorem updJob_only {j : Job} {h : Nat} (hj : s.jobs = [j]) (hh : j.handle = h) (f : Job → Job) : (s.updJob h f).jobs = [f j] := by
  change s.jobs.map _ = _
  rw [hj, List.map_singleton, if_pos hh]

theorem startGrant_only {j j1 : Job} (hj : s.jobs = [j1]) (hh : j1.handle = j.handle) (w : Nat) :
    ∃ j', (s.startGrant j w).jobs = [j'] ∧ j'.nw = j1.nw ∧ j'.want = j1.want := by
  unfold State.startGrant
  split
  · exact ⟨j1, hj, rfl, rfl⟩
  · exact ⟨_, updJob_only ((State.setReg_jobs ..).trans hj) hh _, rfl, rfl⟩

/-- The only job, once it is placed. -/
theorem placeAt_only {j : Job} (hj : s.jobs = [j]) (w : Nat) : ∃ j', (s.placeAt j w).jobs = [j'] ∧ j'.nw = some w ∧ j'.want = none := by
  unfold State.placeAt
  extract_lets s1 s2
  have h1 : s1.jobs = [j] :=
    foldl_kept (P := fun u => u.jobs = [j]) (fun u a hu => foldl_kept (P := fun u => u.jobs = [j]) (fun u b hu => (placeIsl_jobs ..).trans hu) _ hu) _ hj
  have h2 : s2.jobs = [{ j with nw := some w, want := none, evict := false }] := (setBoth_jobs ..).trans (updJob_only h1 rfl _)
  rw [noteMelds_jobs, dealerSees_jobs]
  exact startGrant_only (j1 := { j with nw := some w, want := none, evict := false }) h2 rfl w

theorem placeJob_silent {j : Job} (h : j.reply = none) (w : Nat) : s.placeJob j w = s.placeAt j w := by
  unfold State.placeJob
  rw [h]

end

/-- Settles O39. -/
theorem commandsGrantsAndPlacement : Obligations.CommandsGrantsAndPlacement := by
  unfold Obligations.CommandsGrantsAndPlacement
  refine ⟨?_, ?_⟩
  · intro s t m hc hw ht x start started kill
    have begun {ep ep' : BitVec 8} {u : State} (he : start = .next u) (h : Started s u t ep') (e : ep' = ep) : started ep u :=
      ⟨he, h.running, h.ecmd.trans e, h.noVersion, h.since, h.rest⟩
    refine ⟨fun hs hp hr => ?_, fun hs hp hr => ?_, fun hs hp h0 => ?_, fun hs hp h0 => ?_, exec_commandStart_not, ?_, ?_,
      endsCommand hc ht rfl, endsCommand hc ht rfl, endsCommand hc ht rfl, endsCommand hc ht rfl, fun k => exec_killRelease,
      fun c => exec_cmdLimitExpiry, fun i => exec_islWdogExpiry⟩
    · obtain ⟨h1, h2⟩ := startCmd_alone (m := m) hc hw ht hp
      exact ⟨_, begun (exec_commandStart hs) h1 (if_neg (not_of_eq_false hr)), h2⟩
    · obtain ⟨h1, h2⟩ := startCmd_alone (m := m) hc hw ht hp
      exact ⟨_, begun (exec_commandStart hs) h1 (if_pos hr), h2⟩
    · obtain ⟨h1, h2, h3⟩ := startCmd_lead (m := m) hc hw ht hp h0
      exact ⟨_, begun (exec_commandStart hs) h1 rfl, h2, h3⟩
    · obtain ⟨h1, h2, h3⟩ := startCmd_other (m := m) hc hw ht hp h0
      exact ⟨_, begun (exec_commandStart hs) h1 rfl, h2, h3⟩
    · intro se sizes reports hv hb commit
      refine ⟨fun hn => (exec_tblReqCommit hv hb).trans (if_pos (hn.imp_right not_of_eq_false)), fun h2 hr => ⟨fun hs => ?_, fun hs hu => ?_,
        fun c => exec_tblReqCommit_failed hv hb h2 hr, exec_tblReqCommit_taken hv hb h2 hr⟩⟩
      · exact (exec_tblReqCommit_dealt hv hb h2 hr).trans (if_pos hs)
      · exact (exec_tblReqCommit_dealt hv hb h2 hr).trans ((if_neg (not_of_eq_false hs)).trans (if_pos hu))
    · intro se hse h2 go s0 s1
      refine ⟨exec_commitLocalStep_waits hse, fun hd hu => (exec_commitLocalStep hse h2 hd).trans (if_pos hu),
        fun c hd => exec_commitLocalStep_failed hse h2 hd, fun hd hu hf hp => ?_⟩
      have hgo := exec_commitLocalStep_local hse h2 hd hu hf hp
      exact ⟨fun hz => hgo.trans (next_congr (congrArg (State.settleJob · t) (commitLocal_clean hz ((setTstate_spanning hc ht 3).trans hp)))),
        fun hz => hgo.trans (next_congr (congrArg (State.settleJob · t) (commitLocal_unclean hz)))⟩
  · intro s
    refine ⟨?_,
      fun h j w choice hj hn he hr hk hf => exec_jobPlace_kept hj (Job.waits_iff.mpr ⟨hn, he, hr⟩) hk hf,
      fun h j rest choice w hs hh hn he hr hk hf => exec_jobPlace_first hs hh (Job.waits_iff.mpr ⟨hn, he, hr⟩) hk hf, fun j w hr hj => ?_⟩
    · intro t nw rest hi h0 hb s1 s2
      exact ⟨exec_grantEnd hi h0 hb, fun j w hj hn => ⟨grantOver_trump hj hn, grantOver_renewed hj hn⟩⟩
    · rw [placeJob_silent hr]
      exact placeAt_only hj w

end Sys2Proof.Machine

/-! SUPPORT. Faults that belong to no word (R136, R137), and the sieve (R262 to R266): what lands in its SRAM, and its flushes. -/

namespace Sys2Proof.Machine

open Sys2Proof

/-! ### A fault that belongs to no word -/

section
variable {r : State} {k : CellRef} {e : Code}

theorem State.faultNoWord_of_run (hr : (r.cell k).run ≠ .faulted) : r.faultNoWord k e = r.recordFault k e 3 (r.cell k).last := if_neg hr

/-- What a fault writes: a register, and its cell. -/
theorem State.reg_setReg_updCell (h : r.Canon) (a : Nat) (v : Word) (f : Cell → Cell) : ((r.setReg a v).updCell k f).reg a = v :=
  (State.reg_setReg h a a v).trans (if_pos rfl)
theorem State.cell_setReg_updCell (h : r.Canon) (a : Nat) (v : Word) (f : Cell → Cell) : ((r.setReg a v).updCell k f).cell k = f (r.cell k) :=
  State.cell_updCell (h.setReg a v) k f
theorem State.cell_setReg_updCell_other (h : r.Canon) (a : Nat) (v : Word) (f : Cell → Cell) {j : CellRef} (hj : gid j ≠ gid k) :
    ((r.setReg a v).updCell k f).cell j = r.cell j := State.cell_updCell_other (h.setReg a v) f hj

theorem State.run_faultNoWord (h : r.Canon) (hr : (r.cell k).run ≠ .faulted) : ((r.faultNoWord k e).cell k).run = .faulted := by
  rw [State.faultNoWord_of_run hr, State.recordFault_eq, State.cell_setReg_updCell h]

theorem State.cell_faultNoWord_other (h : r.Canon) (hr : (r.cell k).run ≠ .faulted) {j : CellRef} (hj : gid j ≠ gid k) :
    (r.faultNoWord k e).cell j = r.cell j := by
  rw [State.faultNoWord_of_run hr, State.recordFault_eq, State.cell_setReg_updCell_other h _ _ _ hj]

theorem State.code_faultNoWord (h : r.Canon) (hr : (r.cell k).run ≠ .faulted) :
    BitVec.ofNat 16 ((r.faultNoWord k e).fld (R.cellFault k) 15 0) = e := by
  rw [State.faultNoWord_of_run hr, State.recordFault_eq]
  unfold State.fld
  rw [State.reg_setReg_updCell h, faultWord_code]

theorem State.faultNoWord_fuses (hr : (r.cell k).run ≠ .faulted) : (r.faultNoWord k e).fuses = r.fuses := by
  rw [State.faultNoWord_of_run hr, State.recordFault_eq]
  obtain ⟨_, _, _, _, _, _, h⟩ := State.setReg_updCell_rest r (R.cellFault k) (faultWord e 3 (r.cell k).last (r.reg (R.islCycle k.isl))) k
    (fun c => { c with run := .faulted, held := none, sync := .none })
  exact h

end

/-- An island that has not faulted does not show it. -/
theorem State.notFaulted {b : State} {i : Nat} (h : b.islFaulted i = false) : b.fld (R.islSeq i) 2 0 ≠ 3 := by
  intro h3
  simp [State.islFaulted, h3] at h

/-- A token or a beat that is lost at a cell that has not faulted stops its island, whatever its wires are then. -/
theorem State.raiseFaults_noWord {b u : State} {k : CellRef} {e : Code} (hb : b.islFaulted k.isl = false) (hk : k.c < u.cellCount k.isl)
    (hbr : (b.cell k).run ≠ .faulted) (hu : (u.cell k).run = .faulted) (hreg : BitVec.ofNat 16 (u.fld (R.cellFault k) 15 0) = e)
    (ho : ∀ c, c < u.cellCount k.isl → c ≠ k.c → (u.cell ⟨k.isl, c⟩).run = (b.cell ⟨k.isl, c⟩).run) :
    b.raiseFaults k.isl u = u.islandFault k e := by
  rw [State.raiseFaults_one (State.notFaulted hb) hk hu hbr ho, hreg]

/-! ### Writes that land (R255, R262, R263) -/

section
variable {s : State} {c : CellRef} {off : Nat} {data : List Byte}

theorem execSieveBeatLand_lands (hc : s.cellExists c = true) (hm : isMemCell c = true) (hl : off + data.length ≤ sramSize c) :
    exec (.sieveBeatLand c off data none none) s = .next (s.raiseFaults c.isl (s.sramLand c off data none)) := by
  have h : execSieveBeatLand c off data none none s = .next (s.raiseFaults c.isl (s.sramLand c off data none)) := by
    unfold execSieveBeatLand
    rw [if_neg (not_not_intro ⟨hc, hm, hl⟩), if_neg (by simp [State.sieveStale])]
  exact h

theorem execSieveBeatLand_stale {ep : BitVec 8} (hc : s.cellExists c = true) (hm : isMemCell c = true) (hl : off + data.length ≤ sramSize c)
    (hw : s.inWin c off data.length = true) (he : ep ≠ s.ecmd (s.isl c.isl).table) :
    exec (.sieveBeatLand c off data none (some ((s.isl c.isl).table, ep))) s = .next (s.satFld (R.sieveStat c) 55 40 1) := by
  have h : execSieveBeatLand c off data none (some ((s.isl c.isl).table, ep)) s = .next (s.satFld (R.sieveStat c) 55 40 1) := by
    unfold execSieveBeatLand
    rw [if_neg (not_not_intro ⟨hc, hm, hl⟩), if_pos (by simp [State.sieveStale, hw, he])]
  exact h

/-- A write that lies within the window lies on it. -/
theorem State.inWin_of_within (hm : isMemCell c = true) (hen : svEn (s.cell c).sieve.cfg = true) (h0 : 0 < data.length)
    (hlo : svWBase (s.cell c).sieve.cfg ≤ off) (hhi : off + data.length ≤ svWBase (s.cell c).sieve.cfg + svWSize (s.cell c).sieve.cfg) :
    s.inWin c off data.length = true := by
  unfold State.inWin overlap
  simp only [hm, hen, Bool.true_and, Bool.and_eq_true, decide_eq_true_eq]
  omega

theorem State.sramLand_misaligned (hw : s.inWin c off data.length = true) (ha : s.inArea c off data.length = false)
    (h : off % 32 ≠ 0 ∨ data.length % 32 ≠ 0) : s.sramLand c off data none = (s.wrN (sramBase c + off) data).faultNoWord c K.eAlign := by
  unfold State.sramLand State.touchArea
  simp only [ha, hw, Bool.false_eq_true, not_true_eq_false, if_false, if_pos h]

/-- The state in which a write's pairs have been taken, and counted in the register at a. -/
def State.takenAt (u : State) (c : CellRef) (m : SMap (List Pair)) (n a : Nat) : State :=
  (u.updCell c (fun x => { x with sieve := { x.sieve with lists := m } })).incFld a 39 0 n
def State.taken (u : State) (c : CellRef) (m : SMap (List Pair)) (n : Nat) : State := u.takenAt c m n (R.sieveStat c)

theorem State.feed_window {u : State} {m : SMap (List Pair)} {n : Nat} {bad : Bool} (hlo : svWBase (u.cell c).sieve.cfg ≤ off)
    (hhi : off + data.length ≤ svWBase (u.cell c).sieve.cfg + svWSize (u.cell c).sieve.cfg)
    (ht : sieveTake (svFmt (u.cell c).sieve.cfg) (svK (u.cell c).sieve.cfg) (svLists (u.cell c).sieve.cfg) none (pairsOf data)
      (u.cell c).sieve.lists 0 = (m, n, bad)) :
    u.feed c off data none = if bad then (u.taken c m n).faultNoWord c K.eFieldReserved else u.taken c m n := by
  have hbytes : (data.drop (max off (svWBase (u.cell c).sieve.cfg) - off)).take
      (min (off + data.length) (svWBase (u.cell c).sieve.cfg + svWSize (u.cell c).sieve.cfg) - max off (svWBase (u.cell c).sieve.cfg)) = data := by
    rw [Nat.max_eq_left hlo, Nat.min_eq_left hhi, Nat.sub_self, List.drop_zero, Nat.add_sub_cancel_left, List.take_length]
  have hseat : (if svSeat (u.cell c).sieve.cfg = true then (none : Option (BitVec 6)).map BitVec.toNat else none) = none := by split <;> rfl
  unfold State.feed State.taken State.takenAt
  simp only [hbytes, hseat, ht]

theorem State.sramLand_beats {m : SMap (List Pair)} {n : Nat} {bad : Bool} (hw : s.inWin c off data.length = true)
    (ha : s.inArea c off data.length = false) (ho : off % 32 = 0) (hd : data.length % 32 = 0) (hlo : svWBase (s.cell c).sieve.cfg ≤ off)
    (hhi : off + data.length ≤ svWBase (s.cell c).sieve.cfg + svWSize (s.cell c).sieve.cfg)
    (ht : sieveTake (svFmt (s.cell c).sieve.cfg) (svK (s.cell c).sieve.cfg) (svLists (s.cell c).sieve.cfg) none (pairsOf data)
      (s.cell c).sieve.lists 0 = (m, n, bad)) :
    s.sramLand c off data none = if bad then ((s.wrN (sramBase c + off) data).taken c m n).faultNoWord c K.eFieldReserved
      else (s.wrN (sramBase c + off) data).taken c m n := by
  unfold State.sramLand State.touchArea
  simp only [ha, hw, Bool.false_eq_true, not_true_eq_false, if_false, ho, hd, ne_eq, or_self]
  exact State.feed_window hlo hhi ht

section
variable {u : State} {m : SMap (List Pair)} {n a : Nat}

theorem State.Canon.takenAt (h : u.Canon) : (u.takenAt c m n a).Canon := (h.updCell c _).incFld _ _ _ _
theorem State.takenAt_fuses : (u.takenAt c m n a).fuses = u.fuses := rfl

theorem State.run_takenAt (h : u.Canon) (j : CellRef) : ((u.takenAt c m n a).cell j).run = (u.cell j).run := by
  have hc : (u.takenAt c m n a).cell c = { u.cell c with sieve := { (u.cell c).sieve with lists := m } } :=
    State.cell_updCell h c (fun x => { x with sieve := { x.sieve with lists := m } })
  by_cases hj : gid j = gid c
  · have e (x : State) : x.cell j = x.cell c := congrArg (SMap.get Cell.dflt x.cells) hj
    rw [e, e, hc]
  · have ho : (u.takenAt c m n a).cell j = u.cell j := State.cell_updCell_other h (fun x => { x with sieve := { x.sieve with lists := m } }) hj
    rw [ho]

end

/-- A beat that is lost at a cell that has not faulted, in a state whose cells run as before. -/
theorem State.raiseFaults_faultNoWord {b u : State} {k : CellRef} {e : Code} (hb : b.islFaulted k.isl = false) (hk : b.cellExists k = true)
    (hbr : (b.cell k).run ≠ .faulted) (hu : u.Canon) (hf : u.fuses = b.fuses) (hrun : ∀ j, (u.cell j).run = (b.cell j).run) :
    b.raiseFaults k.isl (u.faultNoWord k e) = (u.faultNoWord k e).islandFault k e := by
  have hku : (u.cell k).run ≠ .faulted := (hrun k).symm ▸ hbr
  have hcc : (u.faultNoWord k e).cellCount k.isl = b.cellCount k.isl := State.cellCount_congr ((State.faultNoWord_fuses hku).trans hf) _
  refine State.raiseFaults_noWord hb (by rw [hcc]; exact ((b.cellExists_iff k).mp hk).2) hbr (State.run_faultNoWord hu hku)
    (State.code_faultNoWord hu hku) (fun j _ hj => ?_)
  rw [State.cell_faultNoWord_other hu hku (gid_ne hj)]
  exact hrun _

/-- Nothing has faulted where the cells run as before. -/
theorem State.raiseFaults_calm {b u : State} {i : Nat} (hrun : ∀ j, (u.cell j).run = (b.cell j).run) : b.raiseFaults i u = u :=
  State.raiseFaults_none (fun _ _ h => (hrun _).symm.trans h)

end

/-! ### Flushes (R266) -/

section
variable {s : State} {c : CellRef} {f : Flush} {fs : List Flush}

theorem execSieveFlushBeat_writes (hf : (s.cell c).sieve.flushes = f :: fs) (hl : f.left ≠ []) :
    exec (.sieveFlushBeat c) s = .next ((s.wrN (sramBase c + f.at_) (f.left.take 32)).updCell c (fun z => { z with
      sieve := { z.sieve with flushes := { f with at_ := f.at_ + 32, left := f.left.drop 32 } :: fs } })) := by
  have h0 : flushNext (f :: fs) = some 0 := by simp [flushNext, List.findIdx?_cons, hl]
  have h : execSieveFlushBeat c s = .next ((s.wrN (sramBase c + f.at_) (f.left.take 32)).updCell c (fun z => { z with
      sieve := { z.sieve with flushes := { f with at_ := f.at_ + 32, left := f.left.drop 32 } :: fs } })) := by
    unfold execSieveFlushBeat
    simp only [hf, h0, List.getElem?_cons_zero, List.set_cons_zero]
  exact h

/-- The request with which a flush fills its word. -/
def State.fillReq (s : State) (c : CellRef) (f : Flush) : SyncReq :=
  { id := s.syncNext, who := .sieve (gid c), v := .stef, home := .sram c (f.word / 8), value := BitVec.ofNat 64 f.count,
    timed := false, deadline := 0, table := (s.isl c.isl).table, cmd := s.ecmd (s.isl c.isl).table, early := false,
    ruled := false, expired := false, stage := .atHome }

/-- The state in which it stands at its home. -/
def State.filling (s : State) (c : CellRef) (f : Flush) : State := { s with syncNext := s.syncNext + 1, syncs := s.syncs ++ [s.fillReq c f] }

theorem execSieveFlushFill_fills (hf : (s.cell c).sieve.flushes = f :: fs) (hl : f.left = []) (hs : s.syncs = []) :
    exec (.sieveFlushFill c) s = .next (if (!(s.cell c).feBit (f.word / 8)) = true then (s.filling c f).applySync (s.fillReq c f)
      else (s.filling c f).park (s.fillReq c f) false) := by
  have h : execSieveFlushFill c s = .next (s.flushFill c f) := by
    unfold execSieveFlushFill
    simp [hf, hl, hs, State.homeLocked]
  exact h

theorem State.applySync_fill (hs : s.syncs = []) (hp : s.plain (sramBase c + 8 * (f.word / 8)) 8 = true) :
    (s.filling c f).applySync (s.fillReq c f) =
      ({ s with syncNext := s.syncNext + 1 }.wordSet (.sram c (f.word / 8)) (BitVec.ofNat 64 f.count) true).popFlush (gid c) := by
  have hset (x : State) (hx : x.plain (sramBase c + 8 * (f.word / 8)) 8 = true) : x.wordSet (.sram c (f.word / 8)) (BitVec.ofNat 64 f.count) true =
      (x.wrN (sramBase c + 8 * (f.word / 8)) (leBytes 8 (BitVec.ofNat 64 f.count).toNat)).updCell c (fun z => z.setFe (f.word / 8) true) := by
    have hm : x.mergeN (sramBase c + 8 * (f.word / 8)) (leBytes 8 (BitVec.ofNat 64 f.count).toNat) =
        x.wrN (sramBase c + 8 * (f.word / 8)) (leBytes 8 (BitVec.ofNat 64 f.count).toNat) := if_pos (by simpa [leBytes] using hx)
    exact congrArg (fun y : State => y.updCell c (fun z => z.setFe (f.word / 8) true)) hm
  have hw : (s.filling c f).wordSet (.sram c (f.word / 8)) (BitVec.ofNat 64 f.count) true =
      ((s.filling c f).wrN (sramBase c + 8 * (f.word / 8)) (leBytes 8 (BitVec.ofNat 64 f.count).toNat)).updCell c (fun z => z.setFe (f.word / 8) true) :=
    hset _ hp
  have hnone : ((s.filling c f).wordSet (.sram c (f.word / 8)) (BitVec.ofNat 64 f.count) true).firstReady (.sram c (f.word / 8)) true = none := by
    have hq : ((s.filling c f).wordSet (.sram c (f.word / 8)) (BitVec.ofNat 64 f.count) true).syncs = [s.fillReq c f] := by
      rw [hw]
      exact congrArg (· ++ [s.fillReq c f]) hs
    unfold State.firstReady
    rw [hq]
    simp [State.fillReq]
  have ha : (s.filling c f).applySync (s.fillReq c f) =
      (((s.filling c f).wordSet (.sram c (f.word / 8)) (BitVec.ofNat 64 f.count) true).dropSync s.syncNext).popFlush (gid c) := by
    unfold State.applySync
    simp only [State.fillReq, SyncV.after]
    rw [hnone]
    rfl
  have hd : (s.filling c f).syncs.filter (fun r => r.id != s.syncNext) = s.syncs := by simp [State.filling, State.fillReq, hs]
  rw [ha, hset { s with syncNext := s.syncNext + 1 } hp, hw]
  unfold State.dropSync
  exact congrArg (fun l : List SyncReq => { ((s.filling c f).wrN (sramBase c + 8 * (f.word / 8)) (leBytes 8 (BitVec.ofNat 64 f.count).toNat)).updCell c
    (fun z => z.setFe (f.word / 8) true) with syncs := l }.popFlush (gid c)) hd

end

section
variable {s : State} {c : CellRef} {off : Nat} {data : List Byte}

/-- A write of whole beats inside the window takes its pairs; one without a list stops the cell and its island. -/
theorem execSieveBeatLand_beats {m : SMap (List Pair)} {n : Nat} {bad : Bool} (hs : s.Canon) (hc : s.cellExists c = true) (hm : isMemCell c = true)
    (hl : off + data.length ≤ sramSize c) (hw : s.inWin c off data.length = true)
    (ha : s.inArea c off data.length = false) (ho : off % 32 = 0) (hd : data.length % 32 = 0) (hlo : svWBase (s.cell c).sieve.cfg ≤ off)
    (hhi : off + data.length ≤ svWBase (s.cell c).sieve.cfg + svWSize (s.cell c).sieve.cfg)
    (ht : sieveTake (svFmt (s.cell c).sieve.cfg) (svK (s.cell c).sieve.cfg) (svLists (s.cell c).sieve.cfg) none (pairsOf data)
      (s.cell c).sieve.lists 0 = (m, n, bad)) :
    (bad = false → exec (.sieveBeatLand c off data none none) s = .next ((s.wrN (sramBase c + off) data).taken c m n)) ∧
    (bad = true → s.islFaulted c.isl = false → (s.cell c).run ≠ .faulted → exec (.sieveBeatLand c off data none none) s =
      .next ((((s.wrN (sramBase c + off) data).taken c m n).faultNoWord c K.eFieldReserved).islandFault c K.eFieldReserved)) := by
  have hwc : (s.wrN (sramBase c + off) data).Canon := hs.wrN _ _
  rw [execSieveBeatLand_lands hc hm hl, State.sramLand_beats hw ha ho hd hlo hhi ht]
  refine ⟨fun hb => ?_, fun hb hif hrun => ?_⟩
  · rw [if_neg (hb ▸ Bool.false_ne_true)]
    exact congrArg Host.Outcome.next (State.raiseFaults_calm (State.run_takenAt hwc))
  · rw [if_pos hb]
    exact congrArg Host.Outcome.next (State.raiseFaults_faultNoWord hif hc hrun (State.Canon.takenAt hwc) State.takenAt_fuses (State.run_takenAt hwc))

theorem execSieveBeatLand_misaligned (hs : s.Canon) (hc : s.cellExists c = true) (hm : isMemCell c = true)
    (hl : off + data.length ≤ sramSize c) (hw : s.inWin c off data.length = true) (ha : s.inArea c off data.length = false)
    (h : off % 32 ≠ 0 ∨ data.length % 32 ≠ 0) (hif : s.islFaulted c.isl = false) (hrun : (s.cell c).run ≠ .faulted) :
    exec (.sieveBeatLand c off data none none) s = .next (((s.wrN (sramBase c + off) data).faultNoWord c K.eAlign).islandFault c K.eAlign) := by
  rw [execSieveBeatLand_lands hc hm hl, State.sramLand_misaligned hw ha h]
  exact congrArg Host.Outcome.next (State.raiseFaults_faultNoWord hif hc hrun (hs.wrN _ _) rfl (fun j => rfl))

theorem execSieveBeatLand_plain (hc : s.cellExists c = true) (hm : isMemCell c = true) (hl : off + data.length ≤ sramSize c)
    (h : s.sieveTakes c off data.length = false) :
    exec (.sieveBeatLand c off data none none) s = .next (s.wrN (sramBase c + off) data) := by
  rw [execSieveBeatLand_lands hc hm hl, State.sramLand_plain h]
  exact congrArg Host.Outcome.next (State.raiseFaults_calm (fun j => rfl))

/-- A flush whose word is full waits for it. -/
theorem execSieveFlushFill_parks {f : Flush} {fs : List Flush} (hf : (s.cell c).sieve.flushes = f :: fs) (hl : f.left = []) (hs : s.syncs = [])
    (hb : (s.cell c).feBit (f.word / 8) = true) : exec (.sieveFlushFill c) s =
      .next { s with syncNext := s.syncNext + 1, syncs := [{ s.fillReq c f with stage := .parked }] } := by
  rw [execSieveFlushFill_fills hf hl hs, if_neg (by rw [hb]; decide)]
  have hd : (s.filling c f).syncs.filter (fun r => r.id != (s.fillReq c f).id) = [] := by simp [State.filling, hs]
  unfold State.park
  rw [hd]
  rfl

end

/-- Settles O28, one lemma for each kind of write and of flush. -/
theorem sieveTakesAndFlushes : Obligations.SieveTakesAndFlushes := by
  unfold Obligations.SieveTakesAndFlushes
  intro s c off data hs hc hm hl v land written took faults runs inside flush
  refine ⟨execSieveBeatLand_plain hc hm hl, fun m n bad ho hd h0 hin ht => ?_, fun hmis h0 hin hr => ?_, fun ep hwin he =>
    execSieveBeatLand_stale hc hm hl hwin he, fun f fs hf hne => execSieveFlushBeat_writes hf hne, fun f fs hf hne hsy => ⟨fun hb hp => ?_, fun hb =>
    ⟨{ s.fillReq c f with stage := .parked }, execSieveFlushFill_parks hf hne hsy hb, rfl, rfl, rfl, rfl, rfl⟩⟩⟩
  · obtain ⟨hen, hlo, hhi, ha⟩ := hin
    obtain ⟨h1, h2⟩ := execSieveBeatLand_beats hs hc hm hl (State.inWin_of_within hm hen h0 hlo hhi) ha ho hd hlo hhi ht
    exact ⟨h1, fun hb hr => h2 hb hr.1 hr.2⟩
  · obtain ⟨hen, hlo, hhi, ha⟩ := hin
    obtain ⟨hif, hrun⟩ := hr
    exact execSieveBeatLand_misaligned hs hc hm hl (State.inWin_of_within hm hen h0 hlo hhi) ha hmis hif hrun
  · refine (execSieveFlushFill_fills hf hne hsy).trans ?_
    rw [if_pos (by rw [hb]; rfl), State.applySync_fill hsy hp]

end Sys2Proof.Machine

/-! SUPPORT. The events of a stream engine (R196 to R211), and the damper's window (R205). -/

namespace Sys2Proof.Machine

open Sys2Proof

/-! ### Requests and writes of beats (R200, R208) -/

section
variable {s : State} {c : CellRef} {e : BitVec 2}

theorem exec_streamBeatRequest (hc : s.cellExists c = true) (hh : s.scanHeld c.isl = false) :
    exec (.streamBeatRequest c e) s = .next (s.beatRequest c e.toNat) := if_pos ⟨hc, not_of_eq_false hh⟩
theorem exec_streamBeatWrite (hc : s.cellExists c = true) (hh : s.scanHeld c.isl = false) :
    exec (.streamBeatWrite c e) s = .next (s.beatWrite c e.toNat) := if_pos ⟨hc, not_of_eq_false hh⟩
theorem exec_streamBeatLand (hc : s.cellExists c = true) : exec (.streamBeatLand c e) s = .next (s.beatLand c e.toNat) := if_pos hc
theorem exec_streamWriteDone (hc : s.cellExists c = true) : exec (.streamWriteDone c e) s = .next (s.writeDone c e.toNat) := if_pos hc

end

section
variable {s : State} {c : CellRef} {n : Nat}

theorem State.beatRequest_idle (h : (s.cell c).mayRequest n = false) : s.beatRequest c n = s := if_pos (not_of_eq_false h)

/-- The beat that an inbound engine requests next, as its bytes' addresses, and the state in which the island's cache knows its pages. -/
def State.nextBytes (s : State) (c : CellRef) (n : Nat) : List (Nat × Nat) :=
  ((s.cell c).descOf ((s.cell c).eng n).slot).bytes ((s.cell c).eng n).next
def State.requesting (s : State) (c : CellRef) (n : Nat) : State := s.learnBeat c.isl (s.isl c.isl).table (s.nextBytes c n)

/-- Its translation. -/
def State.nextPlaces (s : State) (c : CellRef) (n : Nat) : BeatTrans :=
  transBytes (fun va => (s.requesting c n).transRead (islAgent c.isl) (s.isl c.isl).table va ((s.requesting c n).running (s.isl c.isl).table))
    (s.nextBytes c n)

theorem State.beatRequest_absent {va : Nat} (h : (s.cell c).mayRequest n = true) (ht : s.nextPlaces c n = .absent va) :
    s.beatRequest c n = (s.requesting c n).halt c n ((s.cell c).eng n).next va := by
  unfold State.nextPlaces State.requesting State.nextBytes at ht
  unfold State.beatRequest
  rw [if_neg (not_not_intro h)]
  simp only [ht]
  rfl

theorem State.beatRequest_refused {code : Code} (h : (s.cell c).mayRequest n = true) (ht : s.nextPlaces c n = .refused code) :
    s.beatRequest c n = (s.requesting c n).refuseWalk c n code := by
  unfold State.nextPlaces State.requesting State.nextBytes at ht
  unfold State.beatRequest
  rw [if_neg (not_not_intro h)]
  simp only [ht]
  rfl

theorem State.beatRequest_go {l : List (Nat × ByteTo)} (h : (s.cell c).mayRequest n = true) (ht : s.nextPlaces c n = .go l) :
    s.beatRequest c n = if ¬ (s.requesting c n).dampOpen c ((s.requesting c n).beatClass l) then
        (s.requesting c n).dampHold c n ((s.requesting c n).beatClass l)
      else (((s.requesting c n).debit c n ((s.requesting c n).beatClass l)).updCell c (fun z => z.setEng n
        { (s.cell c).eng n with
          next := ((s.cell c).eng n).next + 1
          ring := ((s.cell c).eng n).ring ++ [⟨((s.cell c).eng n).next, List.replicate 32 0, ((s.requesting c n).runs l []).length, true⟩] })).requestRuns
          c n ((s.cell c).eng n).next ((s.requesting c n).runs l []) := by
  unfold State.nextPlaces State.requesting State.nextBytes at ht
  unfold State.beatRequest
  rw [if_neg (not_not_intro h)]
  simp only [ht]
  rfl

theorem State.beatWrite_idle (h : ((s.cell c).eng n).mayWrite = false) : s.beatWrite c n = s := if_pos (not_of_eq_false h)

/-- The same of the beat that an outbound engine writes. -/
def State.beatBytes (s : State) (c : CellRef) (n : Nat) (b : Beat) : List (Nat × Nat) :=
  ((s.cell c).descOf ((s.cell c).eng n).slot).bytes b.idx
def State.writing (s : State) (c : CellRef) (n : Nat) (b : Beat) : State := s.learnBeat c.isl (s.isl c.isl).table (s.beatBytes c n b)
def State.beatPlaces (s : State) (c : CellRef) (n : Nat) (b : Beat) : BeatTrans :=
  transBytes (fun va => (s.writing c n b).transWrite (islAgent c.isl) (s.isl c.isl).table va ((s.writing c n b).running (s.isl c.isl).table))
    (s.beatBytes c n b)

variable {b : Beat} (hm : ((s.cell c).eng n).mayWrite = true) (hb : ((s.cell c).eng n).ring.find? (fun b => !b.issued) = some b)
include hm hb

theorem State.beatWrite_absent {va : Nat} (ht : s.beatPlaces c n b = .absent va) :
    s.beatWrite c n = if ((s.cell c).eng n).state = .stopping then (s.writing c n b).dropBeat c n b.idx else (s.writing c n b).halt c n b.idx va := by
  unfold State.beatPlaces State.writing State.beatBytes at ht
  unfold State.beatWrite
  rw [if_neg (not_not_intro hm)]
  simp only [hb, ht]
  rfl

theorem State.beatWrite_refused {code : Code} (ht : s.beatPlaces c n b = .refused code) :
    s.beatWrite c n = (s.writing c n b).refuseWalk c n code := by
  unfold State.beatPlaces State.writing State.beatBytes at ht
  unfold State.beatWrite
  rw [if_neg (not_not_intro hm)]
  simp only [hb, ht]
  rfl

theorem State.beatWrite_version {st : Bool} {p : PageEnt} (ht : s.beatPlaces c n b = .version st p) :
    s.beatWrite c n = (s.writing c n b).startVersion (s.isl c.isl).table p st := by
  unfold State.beatPlaces State.writing State.beatBytes at ht
  unfold State.beatWrite
  rw [if_neg (not_not_intro hm)]
  simp only [hb, ht]
  rfl

theorem State.beatWrite_go {l : List (Nat × ByteTo)} (ht : s.beatPlaces c n b = .go l) :
    s.beatWrite c n = if ¬ (s.writing c n b).dampOpen c ((s.writing c n b).beatClass l) then
        (s.writing c n b).dampHold c n ((s.writing c n b).beatClass l)
      else (((s.writing c n b).debit c n ((s.writing c n b).beatClass l)).updCell c (fun z => z.setEng n
        { (s.cell c).eng n with
          ring := ((s.cell c).eng n).ring.map (fun y => if y.idx = b.idx then { y with need := ((s.writing c n b).runs l []).length, issued := true } else y) })).writeRuns
          c n b.idx (maskBeat ((s.cell c).descOf ((s.cell c).eng n).slot) b.idx b.bytes) ((s.writing c n b).runs l []) := by
  unfold State.beatPlaces State.writing State.beatBytes at ht
  unfold State.beatWrite
  rw [if_neg (not_not_intro hm)]
  simp only [hb, ht]
  rfl

end

/-! ### Replies, acknowledgements, stops and resumes (R196, R200, R201, R209) -/

section
variable {s : State} {c : CellRef} {n : Nat} {b : Beat}

theorem State.beatLand_lands {r : Landing} {rest : List Landing} (hr : ((s.cell c).eng n).replies = r :: rest) (hb : ((s.cell c).eng n).ring = [b])
    (hi : b.idx = r.idx) (hn : b.need = 1) (hs : ((s.cell c).eng n).state ≠ .stopping) :
    s.beatLand c n = (s.updCell c (fun z => z.setEng n { (s.cell c).eng n with
        replies := rest
        ring := [{ b with bytes := overlay b.bytes r.off r.bytes, need := 0 }] })).sramLane c
      (ringAt ((s.cell c).descOf ((s.cell c).eng n).slot) b.idx)
      (maskBeat ((s.cell c).descOf ((s.cell c).eng n).slot) b.idx (overlay b.bytes r.off r.bytes)) none := by
  unfold State.beatLand
  simp only [hr, hb, List.map_cons, List.map_nil, hi, if_true, hn, Nat.sub_self, if_neg hs, List.find?_cons, beq_self_eq_true, Bool.and_self]

theorem State.beatLand_stopping {r : Landing} {rest : List Landing} (hr : ((s.cell c).eng n).replies = r :: rest) (hb : ((s.cell c).eng n).ring = [b])
    (hi : b.idx = r.idx) (hn : b.need = 1) (hs : ((s.cell c).eng n).state = .stopping) :
    s.beatLand c n = s.updCell c (fun z => z.setEng n { (s.cell c).eng n with replies := rest, ring := [] }) := by
  unfold State.beatLand
  simp [hr, hb, hi, hn, hs]

theorem State.writeDone_last {i : Nat} {rest : List Nat} (hd : ((s.cell c).eng n).dones = i :: rest) (hb : ((s.cell c).eng n).ring = [b])
    (hi : b.idx = i) (hn : b.need = 1) (hs : b.issued = true) :
    s.writeDone c n = s.updCell c (fun z => z.setEng n { (s.cell c).eng n with
      dones := rest, ring := []
      state := if ((s.cell c).eng n).state = .draining then .idle else ((s.cell c).eng n).state }) := by
  unfold State.writeDone
  simp [hd, hb, hi, hn, hs]

theorem exec_streamStopDone {e : BitVec 2} (hs : ((s.cell c).eng e.toNat).state = .stopping) (hb : ((s.cell c).eng e.toNat).ring = [])
    (hr : ((s.cell c).eng e.toNat).replies = []) (hd : ((s.cell c).eng e.toNat).dones = []) :
    exec (.streamStopDone c e) s = .next (s.updCell c (fun z => z.setEng e.toNat { (s.cell c).eng e.toNat with state := .idle })) :=
  if_pos ⟨hs, by rw [hb]; rfl, by rw [hr]; rfl, by rw [hd]; rfl⟩

/-- A halted engine with its resume, in the state before its halt. -/
def State.resumed (s : State) (c : CellRef) (n : Nat) : State :=
  s.updCell c (fun z => z.setEng n { (s.cell c).eng n with state := ((s.cell c).eng n).prev, resume := false })

theorem exec_streamResume_halted {e : BitVec 2} (hc : s.cellExists c = true) (hh : s.scanHeld c.isl = false)
    (hs : ((s.cell c).eng e.toNat).state = .halted) (hr : ((s.cell c).eng e.toNat).resume = true) :
    exec (.streamResume c e) s =
      exec (if ((s.cell c).eng e.toNat).dir = true then .streamBeatWrite c e else .streamBeatRequest c e) (s.resumed c e.toNat) := by
  have hx : exec (.streamResume c e) s = .next (if ((s.cell c).eng e.toNat).dir = true then (s.resumed c e.toNat).beatWrite c e.toNat
      else (s.resumed c e.toNat).beatRequest c e.toNat) := if_pos ⟨hs, hr⟩
  have hc' : (s.resumed c e.toNat).cellExists c = true := hc
  have hh' : (s.resumed c e.toNat).scanHeld c.isl = false := hh
  rw [hx]
  cases ((s.cell c).eng e.toNat).dir
  · exact (exec_streamBeatRequest hc' hh').symm
  · exact (exec_streamBeatWrite hc' hh').symm

theorem exec_streamResume_off {e : BitVec 2} (h : ((s.cell c).eng e.toNat).state ≠ .halted ∨ ((s.cell c).eng e.toNat).resume = false) :
    exec (.streamResume c e) s = .next s :=
  if_neg (fun hx => h.elim (fun h1 => h1 hx.1) (fun h2 => not_of_eq_false h2 hx.2))

end

/-! ### CELL_SRESUME (R143) -/

/-- t is s with the resume of those halted engines below n of cell c whose bit is written. -/
structure ResumedTo (s t : State) (c : CellRef) (engines : BitVec 4) (n : Nat) : Prop where
  canon : t.Canon
  wf : SMap.wf Engine.dflt (t.cell c).engines = true
  eng : ∀ j, (t.cell c).eng j = if (j < n ∧ engines.getLsbD j = true) ∧ ((s.cell c).eng j).state = .halted
    then { (s.cell c).eng j with resume := true } else (s.cell c).eng j
  cell : { t.cell c with engines := (s.cell c).engines } = s.cell c
  other : ∀ k, gid k ≠ gid c → t.cell k = s.cell k
  rest : { t with cells := s.cells } = s

/-- One bit of the written word. -/
def State.resumeBit (c : CellRef) (engines : BitVec 4) (s : State) (e : Nat) : State :=
  if engines.getLsbD e ∧ ((s.cell c).eng e).state = .halted then
    s.updCell c (fun z => z.setEng e { z.eng e with resume := true })
  else s

theorem Cell.eng_setEng {z : Cell} (h : SMap.wf Engine.dflt z.engines = true) (e : Nat) (x : Engine) (j : Nat) :
    (z.setEng e x).eng j = if j = e then x else z.eng j := SMap.get_set _ _ _ _ _ h

section
variable {s t : State} {c : CellRef} {engines : BitVec 4} {n : Nat}

theorem ResumedTo.halted (h : ResumedTo s t c engines n) (j : Nat) : ((t.cell c).eng j).state = .halted ↔ ((s.cell c).eng j).state = .halted := by
  rw [h.eng j]
  split <;> rfl

theorem ResumedTo.next (h : ResumedTo s t c engines n) : ResumedTo s (t.resumeBit c engines n) c engines (n + 1) := by
  unfold State.resumeBit
  by_cases hb : engines.getLsbD n = true ∧ ((t.cell c).eng n).state = .halted
  · rw [if_pos hb]
    have hcell : (t.updCell c (fun z => z.setEng n { z.eng n with resume := true })).cell c =
        (t.cell c).setEng n { (t.cell c).eng n with resume := true } := State.cell_updCell h.canon c _
    refine ⟨h.canon.updCell c _, ?_, fun j => ?_, ?_, fun k hk => (State.cell_updCell_other h.canon _ hk).trans (h.other k hk), h.rest⟩
    · rw [hcell]
      exact SMap.wf_set _ _ _ _ h.wf
    · rw [hcell, Cell.eng_setEng h.wf]
      by_cases hj : j = n
      · subst hj
        rw [if_pos rfl, if_pos ⟨⟨Nat.lt_succ_self j, hb.1⟩, (h.halted j).mp hb.2⟩, h.eng j, if_neg (fun hx => Nat.lt_irrefl j hx.1.1)]
      · rw [if_neg hj, h.eng j]
        simp only [Nat.lt_succ_iff, Nat.le_iff_lt_or_eq, hj, or_false]
    · rw [hcell]
      exact h.cell
  · rw [if_neg hb]
    refine ⟨h.canon, h.wf, fun j => ?_, h.cell, h.other, h.rest⟩
    rw [h.eng j]
    by_cases hj : j = n
    · subst hj
      rw [if_neg (fun hx => Nat.lt_irrefl j hx.1.1), if_neg (fun hx => hb ⟨hx.1.2, (h.halted j).mpr hx.2⟩)]
    · simp only [Nat.lt_succ_iff, Nat.le_iff_lt_or_eq, hj, or_false]

theorem resumedTo_foldl (hs : s.Canon) (hw : SMap.wf Engine.dflt (s.cell c).engines = true) (n : Nat) :
    ResumedTo s ((List.range n).foldl (State.resumeBit c engines) s) c engines n := by
  induction n with
  | zero => exact ⟨hs, hw, fun j => (if_neg (fun hx => Nat.not_lt_zero j hx.1.1)).symm, rfl, fun _ _ => rfl, rfl⟩
  | succ n ih =>
    rw [List.range_succ, List.foldl_append]
    exact ih.next

end

/-! ### The damper's window (R205) -/

/-- Cycles of island i have passed in which the damper held what it held: they are counted, and held beats may be freed. -/
structure HeldCycles (s t : State) (i : Nat) : Prop where
  canon : t.Canon
  reg : ∀ a, a ≠ R.dampHeld i → t.reg a = s.reg a
  self : t.isl i = { s.isl i with dheld := (t.isl i).dheld }
  other : ∀ j, j ≠ i → t.isl j = s.isl j
  cells : t.cells = s.cells
  rest : { t with regs := s.regs, isls := s.isls } = s
  none : (s.isl i).dheld = [] → t = s

theorem HeldCycles.refl {s : State} {i : Nat} (h : s.Canon) : HeldCycles s s i :=
  ⟨h, fun _ _ => rfl, rfl, fun _ _ => rfl, rfl, rfl, fun _ => rfl⟩

/-- The beats that the damper holds. -/
def State.setHeld (s : State) (i : Nat) (l : List (Nat × Nat × Nat)) : State := s.updIsl i (fun x => { x with dheld := l })

theorem HeldCycles.setHeld {s t : State} {i : Nat} {l : List (Nat × Nat × Nat)} (h : t.Canon) (hr : ∀ a, a ≠ R.dampHeld i → t.reg a = s.reg a)
    (hi : t.isls = s.isls) (hc : t.cells = s.cells) (hrest : { t with regs := s.regs, isls := s.isls } = s) (hd : (s.isl i).dheld ≠ []) :
    HeldCycles s (t.setHeld i l) i := by
  have he (j : Nat) : t.isl j = s.isl j := congrArg (fun m => SMap.get Isl.dflt m j) hi
  have hself : (t.setHeld i l).isl i = { s.isl i with dheld := l } := by
    rw [← he i]
    exact State.isl_updIsl h i _
  refine ⟨h.updIsl i _, hr, ?_, fun j hj => (State.isl_updIsl_other h _ hj).trans (he j), hc, hrest, fun h0 => absurd h0 hd⟩
  rw [hself]

/-- The cycles counted in the register at a. -/
theorem HeldCycles.counted {s : State} {i a n : Nat} {l : List (Nat × Nat × Nat)} (h : s.Canon) (ha : a = R.dampHeld i) (hd : (s.isl i).dheld ≠ []) :
    HeldCycles s ((s.incFld a 47 0 n).setHeld i l) i :=
  .setHeld (h.incFld _ _ _ _) (fun _ hb => State.reg_incFld_ne h _ _ _ (ha ▸ hb)) rfl rfl rfl hd

theorem State.passHeld_cycles {s : State} (h : s.Canon) (i n : Nat) : HeldCycles s (s.passHeld i n) i := by
  by_cases hd : (s.isl i).dheld = []
  · rw [State.passHeld_nil n hd]
    exact .refl h
  · unfold State.passHeld
    rw [if_neg (by rw [List.isEmpty_iff]; exact hd)]
    by_cases he : ((s.isl i).dheld.filter (s.stillHeld i)).isEmpty = true
    · simp only [if_pos he]
      exact .setHeld h (fun _ _ => rfl) rfl rfl rfl hd
    · simp only [if_neg he]
      exact .counted h rfl hd

/-- The budgets of a cell in window w, and those of an island: what is left of them, or their field in full. -/
def Cell.budgeted (c : Cell) (w : Nat) (b : Word) : Cell :=
  if c.dampW = some w then c else { c with dampS := budgetField 0 b, dampN := budgetField 1 b, dampF := budgetField 2 b, dampW := some w }
def Isl.budgeted (x : Isl) (w : Nat) (b : Word) : Isl :=
  if x.dampW = some w then x else { x with dampS := budgetField 0 b, dampN := budgetField 1 b, dampF := budgetField 2 b, dampW := some w }

theorem State.holdCell_eq (s : State) (k : CellRef) :
    s.holdCell k = s.setCell k ((s.cell k).budgeted (s.window k.isl) (s.reg (R.cellDamp k))) := by
  unfold State.holdCell State.updCell State.cellBudget Cell.budgeted
  by_cases h : (s.cell k).dampW = some (s.window k.isl)
  · simp only [if_pos h]
    congr 1
    rw [← h]
    rfl
  · simp only [if_neg h]

theorem State.holdIsl_eq (s : State) (i : Nat) : s.holdIsl i = s.setIsl i ((s.isl i).budgeted (s.window i) (s.reg (R.islDamp i))) := by
  unfold State.holdIsl State.updIsl State.islBudget Isl.budgeted
  by_cases h : (s.isl i).dampW = some (s.window i)
  · simp only [if_pos h]
    congr 1
    rw [← h]
    rfl
  · simp only [if_neg h]

/-- The cells of island i below n have their budgets of window w, from the registers at f. -/
structure Budgeted (s t : State) (i w : Nat) (f : Nat → Word) (n : Nat) : Prop where
  canon : t.Canon
  cell : ∀ c, c < 16 → t.cell ⟨i, c⟩ = if c < n then (s.cell ⟨i, c⟩).budgeted w (f c) else s.cell ⟨i, c⟩
  other : ∀ k : CellRef, k.isl ≠ i → k.c < 16 → t.cell k = s.cell k
  rest : { t with cells := s.cells } = s

theorem Budgeted.reg {s t : State} {i w : Nat} {f : Nat → Word} {n : Nat} (h : Budgeted s t i w f n) (a : Nat) : t.reg a = s.reg a := by
  have hr := congrArg State.regs h.rest
  change t.regs = s.regs at hr
  unfold State.reg
  rw [hr]

theorem Budgeted.next {s t : State} {i w : Nat} {f : Nat → Word} {n : Nat} (h : Budgeted s t i w f n) (hn : n < 16) (hw : t.window i = w)
    (hf : t.reg (R.cellDamp ⟨i, n⟩) = f n) : Budgeted s (t.holdCell ⟨i, n⟩) i w f (n + 1) := by
  rw [State.holdCell_eq, hf]
  change Budgeted s (t.setCell ⟨i, n⟩ ((t.cell ⟨i, n⟩).budgeted (t.window i) (f n))) i w f (n + 1)
  rw [hw]
  refine ⟨h.canon.setCell _ _, fun c hc => ?_, fun k hk hkc => ?_, h.rest⟩
  · by_cases he : c = n
    · subst he
      rw [State.cell_setCell h.canon, h.cell c hc, if_neg (Nat.lt_irrefl c), if_pos (Nat.lt_succ_self c)]
    · rw [State.cell_setCell_other h.canon _ (gid_ne he), h.cell c hc]
      simp only [Nat.lt_succ_iff, Nat.le_iff_lt_or_eq, he, or_false]
  · rw [State.cell_setCell_other h.canon _ (fun e => hk (congrArg CellRef.isl (gid_inj hkc hn e))), h.other k hk hkc]

theorem budgeted_foldl {s : State} {i : Nat} (h : s.Canon) (n : Nat) (hn : n ≤ 16) : Budgeted s
    ((List.range n).foldl (fun t c => t.holdCell ⟨i, c⟩) s) i (s.window i) (fun c => s.reg (R.cellDamp ⟨i, c⟩)) n := by
  induction n with
  | zero => exact ⟨h, fun c _ => (if_neg (Nat.not_lt_zero c)).symm, fun _ _ _ => rfl, rfl⟩
  | succ n ih =>
    have hp := ih (Nat.le_of_succ_le hn)
    rw [List.range_succ, List.foldl_append]
    exact hp.next hn (congrArg (fun v : Word => v.toNat / 256) (hp.reg _)) (hp.reg _)

/-- The state in which ISL_CYCLE of island i stands at the first cycle of the next window. -/
def State.windowOpens (s : State) (i : Nat) : State :=
  (if (256 - (s.reg (R.islCycle i)).toNat % 256) % 256 = 0 then s else s.passHeld i ((256 - (s.reg (R.islCycle i)).toNat % 256) % 256)).setReg
    (R.islCycle i) (BitVec.ofNat 64 ((s.reg (R.islCycle i)).toNat + (256 - (s.reg (R.islCycle i)).toNat % 256) % 256))

theorem exec_damperWindow {s : State} {i : Nat} (hi : i < 192) : exec (.damperWindow i) s =
    .next (((s.windowOpens i).islCells i).foldl (fun s k => s.holdCell k) ((s.windowOpens i).holdIsl i)) := if_neg (Nat.not_le.mpr hi)

theorem State.windowOpens_cycles {s : State} {i : Nat} (h : s.Canon) : ∃ u v, HeldCycles s u i ∧ s.windowOpens i = u.setReg (R.islCycle i) v ∧
    v = BitVec.ofNat 64 ((s.reg (R.islCycle i)).toNat + (256 - (s.reg (R.islCycle i)).toNat % 256) % 256) := by
  refine ⟨_, _, ?_, rfl, rfl⟩
  split
  · exact .refl h
  · exact State.passHeld_cycles h _ _

/-- The window that starts: what has changed in island i, whose cycle count stands in the register at a, and in its cells. -/
theorem HeldCycles.window {s u : State} {i a : Nat} {v : Word} (h : HeldCycles s u i) (ha : a = R.islCycle i) (hne : a ≠ R.dampHeld i)
    (hd : R.islDamp i ≠ a ∧ R.islDamp i ≠ R.dampHeld i) (hc : ∀ c, R.cellDamp ⟨i, c⟩ ≠ a ∧ R.cellDamp ⟨i, c⟩ ≠ R.dampHeld i) :
    let t := ((u.setReg a v).islCells i).foldl (fun s k => s.holdCell k) ((u.setReg a v).holdIsl i)
    t.reg a = v ∧ (∀ b, b ≠ a → b ≠ R.dampHeld i → t.reg b = s.reg b) ∧
    ((s.isl i).dheld = [] → t.reg (R.dampHeld i) = s.reg (R.dampHeld i) ∧ (t.isl i).dheld = []) ∧
    t.isl i = { (s.isl i).budgeted (v.toNat / 256) (s.reg (R.islDamp i)) with dheld := (t.isl i).dheld } ∧
    (∀ j, j ≠ i → t.isl j = s.isl j) ∧
    (∀ c, c < s.cellCount i → t.cell ⟨i, c⟩ = (s.cell ⟨i, c⟩).budgeted (v.toNat / 256) (s.reg (R.cellDamp ⟨i, c⟩))) ∧
    (∀ k : CellRef, k.isl ≠ i → k.c < 16 → t.cell k = s.cell k) ∧ { t with regs := s.regs, isls := s.isls, cells := s.cells } = s := by
  intro t
  have h2 : (u.setReg a v).Canon := h.canon.setReg a v
  have hreg2 (b : Nat) : (u.setReg a v).reg b = if b = a then v else u.reg b := State.reg_setReg h.canon a b v
  have hsame (b : Nat) (h1 : b ≠ a) (hh : b ≠ R.dampHeld i) : (u.setReg a v).reg b = s.reg b := by
    rw [hreg2, if_neg h1, h.reg b hh]
  have hwin : (u.setReg a v).window i = v.toNat / 256 := by
    unfold State.window
    rw [← ha, hreg2, if_pos rfl]
  have hfuses := congrArg State.fuses h.rest
  change u.fuses = s.fuses at hfuses
  have hcount : (u.setReg a v).cellCount i = s.cellCount i := State.cellCount_congr hfuses i
  have h3 : ((u.setReg a v).holdIsl i).Canon := by
    rw [State.holdIsl_eq]
    exact h2.setIsl i _
  have hb := budgeted_foldl (i := i) h3 ((u.setReg a v).cellCount i) (State.cellCount_le _ _)
  have ht : t = (List.range ((u.setReg a v).cellCount i)).foldl (fun t c => t.holdCell ⟨i, c⟩) ((u.setReg a v).holdIsl i) :=
    State.islCells_foldl _ _ _ _
  rw [← ht] at hb
  have hreg (b : Nat) : t.reg b = (u.setReg a v).reg b := by
    rw [hb.reg b, State.holdIsl_eq]
    rfl
  have hisls := congrArg State.isls hb.rest
  change t.isls = ((u.setReg a v).holdIsl i).isls at hisls
  have hislj (j : Nat) : t.isl j = ((u.setReg a v).holdIsl i).isl j := congrArg (fun m => SMap.get Isl.dflt m j) hisls
  have hself : t.isl i = (u.isl i).budgeted (v.toNat / 256) (s.reg (R.islDamp i)) := by
    rw [hislj, State.holdIsl_eq, State.isl_setIsl h2, hwin, hsame _ hd.1 hd.2]
    rfl
  have hcells (k : CellRef) : ((u.setReg a v).holdIsl i).cell k = s.cell k := by
    rw [State.holdIsl_eq]
    exact congrArg (fun m => SMap.get Cell.dflt m (gid k)) h.cells
  refine ⟨?_, fun b h1 hh => (hreg b).trans (hsame b h1 hh), fun h0 => ⟨?_, ?_⟩, ?_, fun j hj => ?_, fun c hlt => ?_, fun k hk hkc =>
    (hb.other k hk hkc).trans (hcells k), ?_⟩
  · rw [hreg, hreg2, if_pos rfl]
  · rw [hreg, hreg2, if_neg (Ne.symm hne), h.none h0]
  · rw [hself, h.none h0]
    unfold Isl.budgeted
    split <;> exact h0
  · rw [hself, h.self]
    unfold Isl.budgeted
    split <;> rfl
  · rw [hislj, State.holdIsl_eq, State.isl_setIsl_other h2 _ hj]
    exact h.other j hj
  · have hw3 : ((u.setReg a v).holdIsl i).window i = v.toNat / 256 := by
      rw [← hwin, State.holdIsl_eq]
      rfl
    have hr3 : ((u.setReg a v).holdIsl i).reg (R.cellDamp ⟨i, c⟩) = s.reg (R.cellDamp ⟨i, c⟩) := by
      rw [State.holdIsl_eq]
      exact hsame _ (hc c).1 (hc c).2
    rw [hb.cell c (Nat.lt_of_lt_of_le hlt (State.cellCount_le _ _)), if_pos (by rw [hcount]; exact hlt), hcells, hw3, hr3]
  · have e := congrArg (fun x : State => { x with regs := s.regs, isls := s.isls, cells := s.cells }) hb.rest
    have e2 := congrArg (fun x : State => { x with cells := s.cells }) h.rest
    exact e.trans e2

/-- DAMPER_WINDOW, with what it leaves. -/
theorem exec_damperWindow_leaves {s : State} {i : Nat} (h : s.Canon) (hi : i < 192) :
    let v := BitVec.ofNat 64 ((s.reg (R.islCycle i)).toNat + (256 - (s.reg (R.islCycle i)).toNat % 256) % 256)
    ∃ t, exec (.damperWindow i) s = .next t ∧ t.reg (R.islCycle i) = v ∧
      (∀ b, b ≠ R.islCycle i → b ≠ R.dampHeld i → t.reg b = s.reg b) ∧
      ((s.isl i).dheld = [] → t.reg (R.dampHeld i) = s.reg (R.dampHeld i) ∧ (t.isl i).dheld = []) ∧
      t.isl i = { (s.isl i).budgeted (v.toNat / 256) (s.reg (R.islDamp i)) with dheld := (t.isl i).dheld } ∧
      (∀ j, j ≠ i → t.isl j = s.isl j) ∧
      (∀ c, c < s.cellCount i → t.cell ⟨i, c⟩ = (s.cell ⟨i, c⟩).budgeted (v.toNat / 256) (s.reg (R.cellDamp ⟨i, c⟩))) ∧
      (∀ k : CellRef, k.isl ≠ i → k.c < 16 → t.cell k = s.cell k) ∧ { t with regs := s.regs, isls := s.isls, cells := s.cells } = s := by
  intro v
  obtain ⟨u, w, hu, he, hw⟩ := State.windowOpens_cycles (i := i) h
  have hl := hu.window (v := w) rfl (islReg_ne (by decide)) ⟨islReg_ne (by decide), islReg_ne (by decide)⟩
    (fun c => ⟨cellReg_ne_islReg (k := ⟨i, c⟩) (by decide), cellReg_ne_islReg (k := ⟨i, c⟩) (by decide)⟩)
  rw [← he, hw] at hl
  exact ⟨_, exec_damperWindow hi, hl⟩

theorem exec_cellSresume {s : State} {c : CellRef} {engines : BitVec 4} :
    exec (.cellSresumeWrite c engines) s = .next ((List.range 4).foldl (State.resumeBit c engines) s) := rfl

/-- Settles O27, one lemma for each event and outcome. -/
theorem streamEngineEvents : Obligations.StreamEngineEvents := by
  unfold Obligations.StreamEngineEvents
  refine ⟨fun s c e hc hh => ?_, fun s i hs hi => ?_⟩
  · intro z n x d t ag put request write
    have hreq : request = .next (s.beatRequest c n) := exec_streamBeatRequest hc hh
    have hwr : write = .next (s.beatWrite c n) := exec_streamBeatWrite hc hh
    refine ⟨fun h => ?_, fun h => ⟨fun va ht => ?_, fun code ht => ?_, fun l ht ho => ?_, fun l ht ho => ?_⟩, fun h => ?_, fun b h hb =>
      ⟨fun va ht hs => ?_, fun va ht hs => ?_, fun code ht => ?_, fun st p ht => ?_, fun l ht ho => ?_, fun l ht ho => ?_⟩, fun r rest b hr hb hi hn =>
      ⟨fun hs => ?_, fun hs => ?_⟩, fun i rest b hd hb hi hn hs => ?_, exec_streamStopDone, fun engines hs hw => ?_, exec_streamResume_halted hc hh,
      exec_streamResume_off⟩
    · rw [hreq, State.beatRequest_idle h]
    · rw [hreq, State.beatRequest_absent h ht]
      rfl
    · rw [hreq, State.beatRequest_refused h ht]
      rfl
    · have ho' : (s.requesting c n).dampOpen c ((s.requesting c n).beatClass l) = true := ho
      rw [hreq, State.beatRequest_go h ht, if_neg (not_not_intro ho')]
      rfl
    · have ho' : (s.requesting c n).dampOpen c ((s.requesting c n).beatClass l) = false := ho
      rw [hreq, State.beatRequest_go h ht, if_pos (not_of_eq_false ho')]
      rfl
    · rw [hwr, State.beatWrite_idle h]
    · rw [hwr, State.beatWrite_absent h hb ht, if_neg hs]
      rfl
    · rw [hwr, State.beatWrite_absent h hb ht, if_pos hs]
      rfl
    · rw [hwr, State.beatWrite_refused h hb ht]
      rfl
    · rw [hwr, State.beatWrite_version h hb ht]
      rfl
    · have ho' : (s.writing c n b).dampOpen c ((s.writing c n b).beatClass l) = true := ho
      rw [hwr, State.beatWrite_go h hb ht, if_neg (not_not_intro ho')]
      rfl
    · have ho' : (s.writing c n b).dampOpen c ((s.writing c n b).beatClass l) = false := ho
      rw [hwr, State.beatWrite_go h hb ht, if_pos (not_of_eq_false ho')]
      rfl
    · exact (exec_streamBeatLand hc).trans (congrArg Host.Outcome.next (State.beatLand_lands hr hb hi hn hs))
    · exact (exec_streamBeatLand hc).trans (congrArg Host.Outcome.next (State.beatLand_stopping hr hb hi hn hs))
    · exact (exec_streamWriteDone hc).trans (congrArg Host.Outcome.next (State.writeDone_last hd hb hi hn hs))
    · have hd := resumedTo_foldl (engines := engines) hs hw 4
      refine ⟨_, exec_cellSresume, fun j hj => ?_, hd.cell, hd.other, hd.rest⟩
      rw [hd.eng j]
      simp only [hj, true_and]
      rfl
  · intro cyc next w f
    obtain ⟨t, he, h1, h2, h3, h4, h5, h6, h7, h8⟩ := exec_damperWindow_leaves hs hi
    refine ⟨t, he, h1, h2, h3, ?_, h5, fun c hlt => (h6 c hlt).trans ?_, h7, h8⟩
    · refine h4.trans ?_
      unfold Isl.budgeted
      split <;> rfl
    · unfold Cell.budgeted
      rfl

end Sys2Proof.Machine

/-! SUPPORT. Sparse maps in canonical form are equal when they read the same; a cell or an island written twice. -/

namespace Sys2Proof.Machine

open Sys2Proof

section
variable {α : Type} [DecidableEq α] {d : Nat → α}

theorem SMap.get_cons (k v : _) (t : SMap α) (j : Nat) : SMap.get d ((k, v) :: t) j = if j = k then v else if j < k then d j else SMap.get d t j := rfl

/-- Canonical maps that read the same are equal. -/
theorem SMap.ext_of_get {m n : SMap α} {lo : Option Nat} (hm : SMap.wfFrom d lo m = true) (hn : SMap.wfFrom d lo n = true)
    (h : ∀ k, SMap.get d m k = SMap.get d n k) : m = n := by
  induction m generalizing lo n with
  | nil =>
    cases n with
    | nil => rfl
    | cons e t =>
      obtain ⟨k, v⟩ := e
      obtain ⟨_, hv, _⟩ := (SMap.wfFrom_cons d lo k v t).mp hn
      have := h k
      rw [SMap.get_cons, if_pos rfl] at this
      exact absurd this.symm hv
  | cons e t ih =>
    obtain ⟨k, v⟩ := e
    obtain ⟨hlo, hv, ht⟩ := (SMap.wfFrom_cons d lo k v t).mp hm
    cases n with
    | nil =>
      have := h k
      rw [SMap.get_cons, if_pos rfl] at this
      exact absurd this hv
    | cons e' t' =>
      obtain ⟨k', v'⟩ := e'
      obtain ⟨hlo', hv', ht'⟩ := (SMap.wfFrom_cons d lo k' v' t').mp hn
      have hk : k = k' := by
        rcases Nat.lt_trichotomy k k' with hlt | heq | hgt
        · have := h k
          rw [SMap.get_cons, if_pos rfl, SMap.get_cons, if_neg (Nat.ne_of_lt hlt), if_pos hlt] at this
          exact absurd this hv
        · exact heq
        · have := h k'
          rw [SMap.get_cons, if_neg (Nat.ne_of_lt hgt), if_pos hgt, SMap.get_cons, if_pos rfl] at this
          exact absurd this.symm hv'
      subst hk
      have hvv : v = v' := by
        have := h k
        rwa [SMap.get_cons, if_pos rfl, SMap.get_cons, if_pos rfl] at this
      have htt : t = t' := ih ht ht' (fun j => by
        by_cases hj : j ≤ k
        · rw [SMap.get_below d t ht hj, SMap.get_below d t' ht' hj]
        · have := h j
          rwa [SMap.get_cons, if_neg (by omega), if_neg (by omega), SMap.get_cons, if_neg (by omega), if_neg (by omega)] at this)
      rw [hvv, htt]

theorem SMap.set_set {m : SMap α} (h : SMap.wf d m = true) (k : Nat) (v w : α) : SMap.set d (SMap.set d m k v) k w = SMap.set d m k w := by
  have h1 := SMap.wf_set d m k v h
  refine SMap.ext_of_get (SMap.wf_set d _ k w h1) (SMap.wf_set d m k w h) (fun j => ?_)
  rw [SMap.get_set _ _ _ _ _ h1, SMap.get_set _ _ _ _ _ h, SMap.get_set _ _ _ _ _ h]
  split <;> rfl

theorem SMap.set_get {m : SMap α} (h : SMap.wf d m = true) (k : Nat) : SMap.set d m k (SMap.get d m k) = m := by
  refine SMap.ext_of_get (SMap.wf_set d m k _ h) h (fun j => ?_)
  rw [SMap.get_set _ _ _ _ _ h]
  split
  · next e => rw [e]
  · rfl

/-- Two entries in the other order. -/
theorem SMap.set_comm {m : SMap α} (h : SMap.wf d m = true) {k j : Nat} (hne : k ≠ j) (v w : α) :
    SMap.set d (SMap.set d m k v) j w = SMap.set d (SMap.set d m j w) k v := by
  have h1 := SMap.wf_set d m k v h
  have h2 := SMap.wf_set d m j w h
  refine SMap.ext_of_get (SMap.wf_set d _ j w h1) (SMap.wf_set d _ k v h2) (fun i => ?_)
  rw [SMap.get_set _ _ _ _ _ h1, SMap.get_set _ _ _ _ _ h2, SMap.get_set _ _ _ _ _ h, SMap.get_set _ _ _ _ _ h]
  by_cases hi : i = j
  · rw [if_pos hi, if_neg (fun e => hne (e.symm.trans hi)), if_pos hi]
  · rw [if_neg hi, if_neg hi]

/-- An entry written twice, in any list. -/
theorem SMap.insert_insert (m : SMap α) (k : Nat) (v w : α) : SMap.insert k w (SMap.insert k v m) = SMap.insert k w m := by
  induction m with
  | nil => simp [SMap.insert]
  | cons e t ih =>
    obtain ⟨j, x⟩ := e
    by_cases h1 : k = j
    · subst h1
      simp [SMap.insert]
    · by_cases h2 : k < j
      · simp [SMap.insert, h1, h2]
      · simp [SMap.insert, h1, h2, ih]

end

section
variable {s : State}

theorem State.setCell_setCell (h : s.Canon) (k : CellRef) (c c' : Cell) : (s.setCell k c).setCell k c' = s.setCell k c' :=
  congrArg (fun m => { s with cells := m }) (SMap.set_set h.cells (gid k) c c')
theorem State.setCell_cell (h : s.Canon) (k : CellRef) : s.setCell k (s.cell k) = s :=
  congrArg (fun m => { s with cells := m }) (SMap.set_get h.cells (gid k))
theorem State.setCell_comm (h : s.Canon) {k j : CellRef} (hne : gid k ≠ gid j) (c c' : Cell) :
    (s.setCell k c).setCell j c' = (s.setCell j c').setCell k c :=
  congrArg (fun m => { s with cells := m }) (SMap.set_comm h.cells hne c c')
theorem State.updCell_updCell (h : s.Canon) (k : CellRef) (f g : Cell → Cell) : (s.updCell k f).updCell k g = s.updCell k (fun c => g (f c)) := by
  unfold State.updCell
  rw [State.cell_setCell h, State.setCell_setCell h]
theorem State.setIsl_setIsl (h : s.Canon) (i : Nat) (x y : Isl) : (s.setIsl i x).setIsl i y = s.setIsl i y :=
  congrArg (fun m => { s with isls := m }) (SMap.set_set h.isls i x y)
theorem State.updIsl_updIsl (h : s.Canon) (i : Nat) (f g : Isl → Isl) : (s.updIsl i f).updIsl i g = s.updIsl i (fun x => g (f x)) := by
  unfold State.updIsl
  rw [State.isl_setIsl h, State.setIsl_setIsl h]

end

end Sys2Proof.Machine

/-! SUPPORT. Tokens that arrive, and heads of FIFOs (R127, R219, R223, R224, R227, R232). -/

namespace Sys2Proof.Machine

open Sys2Proof

/-! ### The code check (R218) -/

/-- A token as its payload arrives. -/
def Token.arrived (t : Token) (u : Upset) : Token := { t with payload := BitVec.ofNat 256 (leNat ((tokenSymbols t.payload u).take 32)) }

section
variable {s : State} {c : CellRef} {u : Upset} {t : Token}

theorem State.checkToken_clean (h : decodeBlock (tokenSymbols t.payload u) = .clean) (n : Nat) : s.checkToken c n t u = (s, some (t.arrived u)) := by
  unfold State.checkToken
  simp only [h]
  rfl

theorem exec_fifoTokenArrive {port : BitVec 2} {rest : List Token} (hf : s.inFlight c port.toNat = t :: rest)
    (h : decodeBlock (tokenSymbols t.payload u) = .clean) : exec (.fifoTokenArrive c port u) s =
      .next ((s.setFlight c port.toNat rest).setFifo c port.toNat (s.fifo c port.toNat ++ [t.arrived u])) := by
  have hx : execFifoTokenArrive c port u s =
      .next ((s.setFlight c port.toNat rest).setFifo c port.toNat (s.fifo c port.toNat ++ [t.arrived u])) := by
    unfold execFifoTokenArrive
    simp only [hf, State.checkToken_clean h]
    rfl
  exact hx

end

/-! ### A token that becomes usable on an inside link (R127) -/

section
variable {s : State} {c : CellRef} {p : Nat} {tok : Token} {u : Upset}

theorem exec_insideTokenArrive {port : BitVec 2} (hc : s.cellExists c = true) (hf : s.islFaulted c.isl = false) (hb : s.blockClasses c.isl = [])
    (hw : (s.cell c).wires = [⟨port.toNat, tok, (s.isl c.isl).sched, false⟩]) (hd : decodeBlock (tokenSymbols tok.payload u) = .clean) :
    exec (.insideTokenArrive c port u) s = .next (s.raiseFaults c.isl ((s.arriveTok c port.toNat (tok.arrived u)).1.updCell c (fun z => { z with
      wires := setWire ⟨port.toNat, tok, (s.isl c.isl).sched, false⟩ (if tok.kind then none
        else some ⟨port.toNat, tok.arrived u, (s.isl c.isl).sched, (s.arriveTok c port.toNat (tok.arrived u)).2⟩) z.wires }))) := by
  have hn : s.nextWire c port.toNat = some ⟨port.toNat, tok, (s.isl c.isl).sched, false⟩ := by simp [State.nextWire, hw]
  have hu : s.untilUsable c port.toNat 2 = s := by simp [State.untilUsable, hn]
  have ha : s.insideArrive c ⟨port.toNat, tok, (s.isl c.isl).sched, false⟩ u =
      s.raiseFaults c.isl ((s.arriveTok c port.toNat (tok.arrived u)).1.updCell c (fun z => { z with
      wires := setWire ⟨port.toNat, tok, (s.isl c.isl).sched, false⟩ (if tok.kind then none
        else some ⟨port.toNat, tok.arrived u, (s.isl c.isl).sched, (s.arriveTok c port.toNat (tok.arrived u)).2⟩) z.wires })) := by
    unfold State.insideArrive
    rw [if_neg (by simp [hb])]
    simp only [State.checkToken_clean hd]
    rfl
  have hx : execInsideTokenArrive c port u s = .next (s.insideArrive c ⟨port.toNat, tok, (s.isl c.isl).sched, false⟩ u) := by
    unfold execInsideTokenArrive
    rw [if_neg (by simp [hc, hf])]
    simp only [hu, hn, hf]
    simp
  exact (show exec (.insideTokenArrive c port u) s = _ from hx).trans (congrArg Host.Outcome.next ha)

theorem State.arriveTok_control (hk : tok.kind = true) : s.arriveTok c p tok =
    if s.ctlEnabled c p tok = true ∧ ¬ s.bufFull c p (ctlBuf tok) = true then (s.bufPush c p (ctlBuf tok) tok, true)
    else (s.faultNoWord c K.eTokenLost, true) := if_pos hk

theorem State.arriveTok_data (hk : tok.kind = false) (hr : s.routeOuts c p = []) {q b : Nat} (hs : s.steerFed c p = [(q, b)]) :
    s.arriveTok c p tok = (if s.bufFull c q b then s.faultNoWord c K.eTokenLost else s.bufPush c q b tok, true) := by
  unfold State.arriveTok State.forward
  rw [if_neg (not_of_eq_false hk)]
  simp only [hr, hs, List.foldl_nil, List.foldl_cons, List.isEmpty_nil, List.isEmpty_cons, Bool.not_true, Bool.not_false, Bool.or_true]

/-- The wires into a cell. -/
def State.wired (s : State) (c : CellRef) (l : List Wire) : State := s.updCell c (fun z => { z with wires := l })

/-- What an update of a cell leaves of how the cells run. -/
theorem State.run_updCell (h : s.Canon) (f : Cell → Cell) (hf : (f (s.cell c)).run = (s.cell c).run) (j : CellRef) :
    ((s.updCell c f).cell j).run = (s.cell j).run := by
  by_cases hj : gid j = gid c
  · have e (x : State) : x.cell j = x.cell c := congrArg (SMap.get Cell.dflt x.cells) hj
    rw [e, e, State.cell_updCell h, hf]
  · exact congrArg Cell.run (State.cell_updCell_other h _ hj)

theorem State.Canon.faultNoWord {r : State} (h : r.Canon) {k : CellRef} {e : Code} : (r.faultNoWord k e).Canon :=
  (Keeps.faultNoWord (Keeps.refl r)).canon h

theorem State.wires_faultNoWord {r : State} (h : r.Canon) {k : CellRef} {e : Code} : ((r.faultNoWord k e).cell k).wires = (r.cell k).wires := by
  by_cases hr : (r.cell k).run = .faulted
  · exact congrArg (fun x : State => (x.cell k).wires) (if_pos hr)
  · rw [State.faultNoWord_of_run hr, State.recordFault_eq, State.cell_setReg_updCell h]

/-- A token that is lost stops the cell and its island, whatever wires are left. -/
theorem State.raiseFaults_wired {b r : State} {e : Code} (hb : b.islFaulted c.isl = false) (hc : b.cellExists c = true)
    (hbr : (b.cell c).run ≠ .faulted) (hr : r.Canon) (hf : r.fuses = b.fuses) (hrun : ∀ j, (r.cell j).run = (b.cell j).run) (l : List Wire) :
    b.raiseFaults c.isl ((r.faultNoWord c e).wired c l) = ((r.faultNoWord c e).wired c l).islandFault c e := by
  have hru : (r.cell c).run ≠ .faulted := (hrun c).symm ▸ hbr
  have hcan : (r.faultNoWord c e).Canon := hr.faultNoWord
  have hrw (j : CellRef) : (((r.faultNoWord c e).wired c l).cell j).run = ((r.faultNoWord c e).cell j).run := State.run_updCell hcan _ rfl j
  have hcc : ((r.faultNoWord c e).wired c l).cellCount c.isl = b.cellCount c.isl := State.cellCount_congr ((State.faultNoWord_fuses hru).trans hf) _
  refine State.raiseFaults_noWord hb (by rw [hcc]; exact ((b.cellExists_iff c).mp hc).2) hbr ((hrw c).trans (State.run_faultNoWord hr hru))
    (State.code_faultNoWord hr hru) (fun j _ hj => ?_)
  rw [hrw, State.cell_faultNoWord_other hr hru (gid_ne hj)]
  exact hrun _

end

/-- What a token's arrival does to the cell's one wire. -/
theorem State.setWire_wired {r : State} {c : CellRef} {w : Wire} {o : Option Wire} (h : (r.cell c).wires = [w]) :
    r.updCell c (fun z => { z with wires := setWire w o z.wires }) = r.wired c o.toList := by
  have hset : setWire w o (r.cell c).wires = o.toList := by
    rw [h]
    simp [setWire]
  exact congrArg (fun l => r.setCell c { r.cell c with wires := l }) hset

section
variable {s : State} {c : CellRef} {port : BitVec 2} {tok : Token} {u : Upset} (hs : s.Canon) (hc : s.cellExists c = true)
  (hf : s.islFaulted c.isl = false) (hb : s.blockClasses c.isl = []) (hrun : (s.cell c).run ≠ .faulted)
  (hw : (s.cell c).wires = [⟨port.toNat, tok, (s.isl c.isl).sched, false⟩]) (hd : decodeBlock (tokenSymbols tok.payload u) = .clean)
include hs hc hf hb hrun hw hd

/-- A token that enters a buffer of a steering unit. -/
theorem insideTokenArrive_pushes {q b : Nat} {seen : Bool} (ha : s.arriveTok c port.toNat (tok.arrived u) = (s.bufPush c q b (tok.arrived u), seen)) :
    exec (.insideTokenArrive c port u) s = .next ((s.bufPush c q b (tok.arrived u)).wired c
      (if tok.kind then none else some ⟨port.toNat, tok.arrived u, (s.isl c.isl).sched, seen⟩ : Option Wire).toList) := by
  have hpush : (s.bufPush c q b (tok.arrived u)).cell c = (s.cell c).setStr q (((s.cell c).str q).push b (tok.arrived u)) :=
    State.cell_updCell hs c _
  have hcan : (s.bufPush c q b (tok.arrived u)).Canon := hs.updCell c _
  rw [exec_insideTokenArrive hc hf hb hw hd, ha, State.setWire_wired (by rw [hpush]; exact hw)]
  exact congrArg Host.Outcome.next (State.raiseFaults_calm (fun j => (State.run_updCell hcan _ rfl j).trans (State.run_updCell hs _ rfl j)))

/-- A token that is lost. -/
theorem insideTokenArrive_lost {seen : Bool} (ha : s.arriveTok c port.toNat (tok.arrived u) = (s.faultNoWord c K.eTokenLost, seen)) :
    exec (.insideTokenArrive c port u) s = .next (((s.faultNoWord c K.eTokenLost).wired c
      (if tok.kind then none else some ⟨port.toNat, tok.arrived u, (s.isl c.isl).sched, seen⟩ : Option Wire).toList).islandFault c K.eTokenLost) := by
  rw [exec_insideTokenArrive hc hf hb hw hd, ha, State.setWire_wired (by rw [State.wires_faultNoWord hs]; exact hw)]
  exact congrArg Host.Outcome.next (State.raiseFaults_wired hf hc hrun hs rfl (fun j => rfl) _)

end

/-! ### Heads of FIFOs (R224, R227, R232) -/

section
variable {s : State} {c : CellRef} {port : BitVec 2} {tok : Token} {rest : List Token}

theorem exec_fifoHeadDeliver (hx : s.isCrossing c port.toNat = true) (hf : s.islFaulted c.isl = false) (hb : s.blockClasses c.isl = []) :
    exec (.fifoHeadDeliver c port) s = .next (s.raiseFaults c.isl (s.deliverHead c port.toNat)) := by
  have h : execFifoHeadDeliver c port s = .next (s.raiseFaults c.isl (s.deliverHead c port.toNat)) := by
    unfold execFifoHeadDeliver State.unlessStalled
    rw [if_neg (by simp [hx, hf]), if_pos (by simp [hb])]
  exact h

/-- A FIFO whose head has left, that having been noted. -/
def State.headTaken (s : State) (c : CellRef) (p : Nat) (rest : List Token) : State :=
  (s.setFifo c p rest).setIsl c.isl { s.isl c.isl with pops := (s.isl c.isl).pops ++ [(c.c, p)] }

theorem State.headTaken_canon (h : s.Canon) (p : Nat) (rest : List Token) : (s.headTaken c p rest).Canon := State.Canon.setIsl h c.isl _

/-- A register counts, and the cells run as before. -/
theorem State.run_incFld (s : State) (a hi lo n : Nat) (j : CellRef) : ((s.incFld a hi lo n).cell j).run = (s.cell j).run := rfl

variable {p : Nat} (hfi : s.fifo c p = tok :: rest) (he : tok.epoch = (s.isl c.isl).epoch)
include hfi he

theorem State.staleHeads_current : staleHeads (s.isl c.isl).epoch (s.fifo c p) = 0 := by
  rw [hfi]
  simp [staleHeads, he]

theorem State.dropStale_current : s.dropStale c p = s := if_pos (State.staleHeads_current hfi he)

theorem State.popFifo_current : s.popFifo c p = s.headTaken c p rest := by
  unfold State.popFifo
  simp only [State.dropStale_current hfi he, hfi, List.drop_succ_cons, List.drop_zero]
  rfl

theorem State.fifoHead_current (hp : (s.isl c.isl).pops.contains (c.c, p) = false) : s.fifoHead c p = some tok := by
  unfold State.fifoHead
  dsimp only
  rw [State.staleHeads_current hfi he, hp, hfi]
  simp [he]

variable (hp : (s.isl c.isl).pops.contains (c.c, p) = false)
include hp

theorem State.deliverHead_control (hk : tok.kind = true) : s.deliverHead c p =
    if ¬ s.ctlEnabled c p tok = true then (s.headTaken c p rest).faultNoWord c K.eTokenLost
    else if s.bufFull c p (ctlBuf tok) = true then s else (s.headTaken c p rest).bufPush c p (ctlBuf tok) tok := by
  unfold State.deliverHead
  simp only [State.dropStale_current hfi he, State.fifoHead_current hfi he hp, hk, if_true, State.popFifo_current hfi he]

theorem State.deliverHead_data (hk : tok.kind = false) {q b : Nat} {more : List (Nat × Nat)} (hs : s.steerFed c p = (q, b) :: more) :
    s.deliverHead c p = if s.bufFull c q b = true then s else (s.headTaken c p rest).bufPush c q b tok := by
  unfold State.deliverHead
  simp only [State.dropStale_current hfi he, State.fifoHead_current hfi he hp, hk, Bool.false_eq_true, if_false, State.popFifo_current hfi he, hs]

end

section
variable {s : State} {c : CellRef} {tok : Token} {p : Nat}

theorem State.fifo_setFifo (h : SMap.wf (fun _ => []) s.fifos = true) (l : List Token) : (s.setFifo c p l).fifo c p = l :=
  SMap.get_set_same _ _ _ _ h

/-- The register at a counts a head that is discarded. -/
theorem State.deliverHead_stale {a : Nat} (ha : a = R.islStale c.isl) (h : SMap.wf (fun _ => []) s.fifos = true) (hf : s.fifo c p = [tok])
    (h1 : tok.epoch ≠ (s.isl c.isl).epoch) (h2 : tok.epoch ≠ (s.isl c.isl).epoch + 1) :
    s.deliverHead c p = (s.setFifo c p []).incFld a 63 32 1 := by
  have h3 : ¬ (tok.epoch = (s.isl c.isl).epoch ∨ tok.epoch = (s.isl c.isl).epoch + 1) := fun hx => hx.elim h1 h2
  have hn : staleHeads (s.isl c.isl).epoch [tok] = 1 := if_neg h3
  have hd : s.dropStale c p = (s.setFifo c p []).incFld a 63 32 1 := by
    unfold State.dropStale
    rw [hf, hn, ← ha]
    exact if_neg Nat.one_ne_zero
  have hfi : ((s.setFifo c p []).incFld a 63 32 1).fifo c p = [] := State.fifo_setFifo h []
  have hnone : ((s.setFifo c p []).incFld a 63 32 1).fifoHead c p = none := by
    unfold State.fifoHead
    rw [hfi]
    simp [staleHeads]
  unfold State.deliverHead
  simp only [hd, hnone]

end

end Sys2Proof.Machine

/-! SUPPORT. Switches and merges (R225, R226, R228): when they fire, what their outputs drive, and outputs that wait. -/

namespace Sys2Proof.Machine

open Sys2Proof

/-! ### Driving a port (R222) -/

section
variable {s : State} {c : CellRef} {p : Nat} {d : Token}

theorem State.Canon.sendTok (h : s.Canon) : (s.sendTok c p d).Canon := (Keeps.sendTok (Keeps.refl s)).canon h

theorem State.run_sendTok (h : s.Canon) (j : CellRef) : ((s.sendTok c p d).cell j).run = (s.cell j).run := by
  unfold State.sendTok
  cases s.link c p with
  | inside k lat => exact State.run_updCell h _ rfl j
  | crossing k => rfl
  | none => rfl

/-- A unit that drives its output where nothing has faulted: the second driver of a port stops the cell and the island. -/
theorem State.raiseFaults_routeDrive {b : State} (hb : b.islFaulted c.isl = false) (hc : b.cellExists c = true) (hbr : (b.cell c).run ≠ .faulted)
    (hs : s.Canon) (hf : s.fuses = b.fuses) (hrun : ∀ j, (s.cell j).run = (b.cell j).run) :
    (s.driven c p = false → b.raiseFaults c.isl (s.routeDrive c p d) = s.driveTok c p d) ∧
    (s.driven c p = true → b.raiseFaults c.isl (s.routeDrive c p d) = (s.faultNoWord c K.eLinkOverrun).islandFault c K.eLinkOverrun) := by
  unfold State.routeDrive
  refine ⟨fun h => ?_, fun h => ?_⟩
  · rw [if_neg (not_of_eq_false h)]
    have hm : (s.markDriven c p).Canon := hs.updIsl c.isl _
    exact State.raiseFaults_calm (fun j => (State.run_sendTok hm j).trans (hrun j))
  · rw [if_pos h]
    exact State.raiseFaults_faultNoWord hb hc hbr hs hf hrun

/-- A cell with the units of port p. -/
def State.setSteer (s : State) (c : CellRef) (p : Nat) (y : Steer) : State := s.updCell c (fun z => z.setStr p y)

theorem State.Canon.setSteer (h : s.Canon) {y : Steer} : (s.setSteer c p y).Canon := h.updCell c _
theorem State.run_setSteer (h : s.Canon) (y : Steer) (j : CellRef) : ((s.setSteer c p y).cell j).run = (s.cell j).run :=
  State.run_updCell h _ rfl j

/-- Units that have acted, written again. -/
theorem State.setSteer_setSteer (h : s.Canon) {x y : Steer} (hx : x ≠ {}) (hy : y ≠ {}) :
    (s.setSteer c p x).setSteer c p y = s.setSteer c p y := by
  have hz (z : Cell) : (z.setStr p x).setStr p y = z.setStr p y := by
    have h1 (m : SMap Steer) : SMap.set Steer.dflt m p x = SMap.insert p x m := if_neg hx
    have h2 (m : SMap Steer) : SMap.set Steer.dflt m p y = SMap.insert p y m := if_neg hy
    unfold Cell.setStr
    simp only [h1, h2, SMap.insert_insert]
  unfold State.setSteer
  rw [State.updCell_updCell h]
  simp only [hz]

theorem State.str_setSteer (h : s.Canon) {x : Steer} (hx : x ≠ {}) : ((s.setSteer c p x).cell c).str p = x := by
  unfold State.setSteer
  rw [State.cell_updCell h]
  have h1 : SMap.set Steer.dflt (s.cell c).steer p x = SMap.insert p x (s.cell c).steer := if_neg hx
  unfold Cell.setStr Cell.str
  rw [h1]
  exact SMap.get_insert_same _ _ _ _

end

/-! ### Firing (R225, R226) -/

section
variable {s : State} {c : CellRef} {port : BitVec 2}

theorem exec_switchFire (hc : s.cellExists c = true) (hf : s.islFaulted c.isl = false) : exec (.switchFire c port) s =
    .next (s.unlessStalled c.isl (fun s => s.fireSwitch c port.toNat)) := if_neg (fun h => h.elim (not_not_intro hc) (not_of_eq_false hf))
theorem exec_mergeFire (hc : s.cellExists c = true) (hf : s.islFaulted c.isl = false) : exec (.mergeFire c port) s =
    .next (s.unlessStalled c.isl (fun s => s.fireMerge c port.toNat)) := if_neg (fun h => h.elim (not_not_intro hc) (not_of_eq_false hf))

theorem State.unlessStalled_free {i : Nat} {f : State → State} (h : s.blockClasses i = []) : s.unlessStalled i f = s.raiseFaults i (f s) :=
  if_pos (by rw [h]; rfl)
theorem State.unlessStalled_stalled {i : Nat} {f : State → State} (h : s.blockClasses i ≠ []) (hi : i < 192) (hf : s.islFaulted i = false) :
    s.unlessStalled i f = s.stallCycle i (s.blockClasses i) := by
  have hb : ¬ (s.blockClasses i).isEmpty = true := by rw [List.isEmpty_iff]; exact h
  unfold State.unlessStalled State.cycle
  rw [if_neg hb, if_neg (fun hx => hx.elim (Nat.not_le.mpr hi) (not_of_eq_false hf))]
  exact if_neg hb

variable {p : Nat} {ct d : Token} {cs ds : List Token}

theorem State.fireSwitch_rests (h : ((s.cell c).str p).swLast = some (s.isl c.isl).sched) : s.fireSwitch c p = s := by
  have hn (l l' : List Token) : s.switchFires c p l l' = none := by
    unfold State.switchFires
    cases l with
    | nil => rfl
    | cons a l =>
      cases l' with
      | nil => rfl
      | cons b l' => exact if_pos (Or.inr (Or.inl h))
  unfold State.fireSwitch
  simp only [hn]

theorem State.fireMerge_rests (h : ((s.cell c).str p).mgLast = some (s.isl c.isl).sched) : s.fireMerge c p = s := by
  have hn (l a b : List Token) : s.mergeFires c p l a b = none := by
    unfold State.mergeFires
    cases l with
    | nil => rfl
    | cons x l =>
      cases hx : (if x.ctlVal = true then b else a) with
      | nil => simp only [hx]
      | cons y l' =>
        simp only [hx]
        exact if_pos (Or.inr (Or.inl h))
  unfold State.fireMerge
  simp only [hn]

/-- What a switch that fires leaves of its unit. -/
def Steer.switched (x : Steer) (cs ds : List Token) (now : Nat) : Steer := { x with swCtl := cs, swDat := ds, swLast := some now }

theorem State.fireSwitch_fires (hctl : ((s.cell c).str p).swCtl = ct :: cs) (hdat : ((s.cell c).str p).swDat = d :: ds)
    (hen : swEn (s.steerCfg c p) = true) (hl : ((s.cell c).str p).swLast ≠ some (s.isl c.isl).sched) (ho : ((s.cell c).str p).swOut = none) :
    s.fireSwitch c p =
      let o := if ct.payload.getLsbD 0 then swT (s.steerCfg c p) else swF (s.steerCfg c p)
      let s1 := s.setSteer c p (((s.cell c).str p).switched cs ds (s.isl c.isl).sched)
      if 4 ≤ o then s1 else s1.steerOut c p false (insidePort c p && insidePort c (swData (s.steerCfg c p))) o d := by
  have hf : s.switchFires c p (ct :: cs) (d :: ds) = some (insidePort c p && insidePort c (swData (s.steerCfg c p)),
      if ct.payload.getLsbD 0 then swT (s.steerCfg c p) else swF (s.steerCfg c p), d) := by
    unfold State.switchFires Token.ctlVal
    simp [hen, hl, ho]
  unfold State.fireSwitch
  simp only [hctl, hdat, hf, List.drop_succ_cons, List.drop_zero]
  rfl

/-- What a merge that fires leaves of its unit; value true takes input mg_b. -/
def Steer.merged (x : Steer) (value : Bool) (cs ds : List Token) (now : Nat) : Steer :=
  if value then { x with mgCtl := cs, mgB := ds, mgLast := some now } else { x with mgCtl := cs, mgA := ds, mgLast := some now }

theorem State.fireMerge_fires (hctl : ((s.cell c).str p).mgCtl = ct :: cs)
    (hdat : (if ct.payload.getLsbD 0 then ((s.cell c).str p).mgB else ((s.cell c).str p).mgA) = d :: ds)
    (hen : mgEn (s.steerCfg c p) = true) (hl : ((s.cell c).str p).mgLast ≠ some (s.isl c.isl).sched) (ho : ((s.cell c).str p).mgOut = none) :
    s.fireMerge c p = (s.setSteer c p (((s.cell c).str p).merged (ct.payload.getLsbD 0) cs ds (s.isl c.isl).sched)).steerOut c p true
      (insidePort c p && insidePort c (mgAPort (s.steerCfg c p)) && insidePort c (mgBPort (s.steerCfg c p))) (mgOutPort (s.steerCfg c p)) d := by
  have hf : s.mergeFires c p (ct :: cs) ((s.cell c).str p).mgA ((s.cell c).str p).mgB = some (insidePort c p &&
      insidePort c (mgAPort (s.steerCfg c p)) && insidePort c (mgBPort (s.steerCfg c p)), mgOutPort (s.steerCfg c p), d, ct.payload.getLsbD 0) := by
    unfold State.mergeFires Token.ctlVal
    simp only [hdat]
    exact if_neg (by simp [hen, hl, ho])
  unfold State.fireMerge
  simp only [hctl, hf, List.drop_succ_cons, List.drop_zero]
  unfold Steer.merged
  cases hv : ct.payload.getLsbD 0
  · rw [hv, if_neg Bool.false_ne_true] at hdat
    simp only [Bool.false_eq_true, if_false, hdat, List.drop_succ_cons, List.drop_zero]
    rfl
  · rw [hv, if_pos rfl] at hdat
    simp only [if_true, hdat, List.drop_succ_cons, List.drop_zero]
    rfl

theorem Steer.switched_ne {x : Steer} {n : Nat} : x.switched cs ds n ≠ {} := fun h => by
  have := congrArg Steer.swLast h
  exact absurd this (Option.some_ne_none n)
theorem Steer.merged_ne {x : Steer} {v : Bool} {n : Nat} : x.merged v cs ds n ≠ {} := fun h => by
  have := congrArg Steer.mgLast h
  cases v <;> exact absurd this (Option.some_ne_none n)

/-- An output of a unit with a crossing input waits. -/
theorem State.steerOut_waits (h : s.Canon) {x : Steer} (hx : x ≠ {}) (o : Nat) (unit : Bool) :
    (s.setSteer c p x).steerOut c p unit false o d =
      s.setSteer c p (if unit then { x with mgOut := some (o, d) } else { x with swOut := some (o, d) }) := by
  have he : (s.setSteer c p x).steerOut c p unit false o d =
      (s.setSteer c p x).setSteer c p (if unit then { x with mgOut := some (o, d) } else { x with swOut := some (o, d) }) := by
    have hstr := State.str_setSteer (c := c) (p := p) h hx
    unfold State.steerOut State.setSteer State.updCell
    unfold State.setSteer State.updCell at hstr
    simp only [Bool.false_eq_true, if_false, hstr]
  rw [he, State.setSteer_setSteer h hx]
  intro hy
  cases unit
  · exact absurd (congrArg Steer.swOut hy) (Option.some_ne_none _)
  · exact absurd (congrArg Steer.mgOut hy) (Option.some_ne_none _)

end

/-! ### Outputs that wait (R228) -/

/-- An island in which nothing happens but what the units of cell c let wait. -/
structure Waits (s : State) (c : CellRef) : Prop where
  canon : s.Canon
  here : s.cellExists c = true
  runs : s.islFaulted c.isl = false
  dheld : (s.isl c.isl).dheld = []
  still : ∀ j, j < s.cellCount c.isl → (s.cell ⟨c.isl, j⟩).presented = none ∧ (s.cell ⟨c.isl, j⟩).wires = [] ∧
    (s.cell ⟨c.isl, j⟩).sieve.intake = [] ∧ (s.cell ⟨c.isl, j⟩).pend = [] ∧ (s.cell ⟨c.isl, j⟩).bubble = false ∧
    (j ≠ c.c → (s.cell ⟨c.isl, j⟩).steer = []) ∧ ∀ q, q < 4 → s.headSteers ⟨c.isl, j⟩ q = false

/-- No control token waits at the units of a cell. -/
def Cell.noControl (z : Cell) : Prop := ∀ q, q < 4 → (z.str q).swCtl = [] ∧ (z.str q).mgCtl = []

section
variable {s : State} {c : CellRef}

/-- The units of a cell with those of one port. -/
theorem Cell.str_one {z : Cell} {p : Nat} {x : Steer} (h : z.steer = [(p, x)]) (q : Nat) : z.str q = if q = p then x else {} := by
  have : z.str q = if q = p then x else if q < p then {} else {} := by
    unfold Cell.str
    rw [h]
    rfl
  rw [this]
  split
  · rfl
  · split <;> rfl

theorem Cell.noControl_nil {z : Cell} (h : z.steer = []) : z.noControl := fun q _ => by
  unfold Cell.str
  rw [h]
  exact ⟨rfl, rfl⟩

theorem Cell.noControl_one {z : Cell} {p : Nat} {x : Steer} (h : z.steer = [(p, x)]) (h1 : x.swCtl = []) (h2 : x.mgCtl = []) : z.noControl :=
    fun q _ => by
  rw [Cell.str_one h]
  split
  · exact ⟨h1, h2⟩
  · exact ⟨rfl, rfl⟩

/-- Without a control token no unit fires. -/
theorem State.fireAll_noControl (h : (s.cell c).noControl) : s.fireAll c = s := by
  unfold State.fireAll
  split
  · rfl
  · refine foldl_fixed _ s _ (fun q hq => ?_)
    obtain ⟨h1, h2⟩ := h q (List.mem_range.mp hq)
    have hw : s.fireSwitch c q = s := by
      unfold State.fireSwitch
      simp only [h1, State.switchFires]
    rw [hw]
    unfold State.fireMerge
    simp only [h2, State.mergeFires]

theorem State.fireBlocked_noControl (h : (s.cell c).noControl) (hw : (s.cell c).wires = []) : s.fireBlocked c = false := by
  unfold State.fireBlocked
  split
  · rfl
  · rw [List.any_eq_false]
    intro q hq
    obtain ⟨h1, h2⟩ := h q (List.mem_range.mp hq)
    have ha (r : Nat) (b : Bool) : s.arriving c r b = [] := by simp [State.arriving, hw]
    simp [h1, h2, ha, State.switchFires, State.mergeFires]

theorem Waits.fold (h : Waits s c) (f : State → CellRef → State) (hf : ∀ j, j < s.cellCount c.isl → f s ⟨c.isl, j⟩ = s) :
    (s.islCells c.isl).foldl f s = s := by
  rw [State.islCells_foldl]
  exact foldl_fixed _ _ _ (fun j hj => hf j (List.mem_range.mp hj))

theorem Waits.openCycle (h : Waits s c) (hn : (s.cell c).noControl) : s.openCycle c.isl = s := by
  have hc (j : Nat) (hj : j < s.cellCount c.isl) : (s.cell ⟨c.isl, j⟩).noControl := by
    by_cases e : j = c.c
    · subst e
      exact hn
    · obtain ⟨_, _, _, _, _, hst, _⟩ := h.still j hj
      exact Cell.noControl_nil (hst e)
  unfold State.openCycle State.deliverHeads
  have h1 : (s.islCells c.isl).foldl (fun s k => s.intakeStep k) s = s := h.fold _ (fun j hj => by
    obtain ⟨_, _, hi, _⟩ := h.still j hj
    simp [State.intakeStep, hi])
  have h2 : (s.islCells c.isl).foldl (fun s k => (List.range 4).foldl (fun s p => if s.headSteers k p then s.deliverHead k p else s) s) s = s :=
    h.fold _ (fun j hj => foldl_fixed _ _ _ (fun q hq => by
      obtain ⟨_, _, _, _, _, _, hh⟩ := h.still j hj
      rw [hh q (List.mem_range.mp hq)]
      rfl))
  have h3 : (s.islCells c.isl).foldl (fun s k => s.arrivals k) s = s := h.fold _ (fun j hj => by
    obtain ⟨_, hw, _⟩ := h.still j hj
    simp [State.arrivals, hw])
  have h4 : (s.islCells c.isl).foldl (fun s k => s.fireAll k) s = s := h.fold _ (fun j hj => State.fireAll_noControl (hc j hj))
  dsimp only
  rw [h1, h2, h3, h4]

theorem Waits.blockClasses (h : Waits s c) (hn : (s.cell c).noControl) : s.blockClasses c.isl = [] := by
  unfold State.blockClasses State.islCells
  rw [List.flatMap_eq_nil_iff]
  intro x hx
  obtain ⟨j, hj, rfl⟩ := List.mem_map.mp hx
  obtain ⟨hp, hw, _, _, _, hst, _⟩ := h.still j (List.mem_range.mp hj)
  have hnc : (s.cell ⟨c.isl, j⟩).noControl := by
    by_cases e : j = c.c
    · subst e
      exact hn
    · exact Cell.noControl_nil (hst e)
  simp [hp, State.arrivalBlocked, hw, State.fireBlocked_noControl hnc hw]

theorem Waits.outcomes (h : Waits s c) : s.outcomes c.isl = [] := by
  unfold State.outcomes State.islCells
  rw [List.filterMap_eq_nil_iff]
  intro x hx
  obtain ⟨j, hj, rfl⟩ := List.mem_map.mp hx
  obtain ⟨hp, _⟩ := h.still j (List.mem_range.mp hj)
  simp only [hp]

theorem Waits.schedCycle (h : Waits s c) (hn : (s.cell c).noControl) : s.cycle c.isl = State.closeCycle s s c.isl (s.isl c.isl).issued := by
  have hi : c.isl < 192 := State.isl_lt_of_cellExists h.here
  have hb : (s.blockClasses c.isl).isEmpty = true := by rw [h.blockClasses hn]; rfl
  have h1 : (s.islCells c.isl).foldl (fun s k => s.consumeBubble k) s = s := h.fold _ (fun j hj => by
    obtain ⟨_, _, _, _, hbu, _⟩ := h.still j hj
    exact if_neg (not_of_eq_false hbu))
  unfold State.cycle
  rw [if_neg (fun hx => hx.elim (Nat.not_le.mpr hi) (not_of_eq_false h.runs))]
  dsimp only
  rw [if_pos hb]
  unfold State.schedCycle
  rw [h.openCycle hn]
  dsimp only
  rw [h.outcomes, h1]
  rfl

/-- What an update of a cell leaves of a part of each cell. -/
theorem State.part_updCell {β : Type} {g : Cell → β} {k : CellRef} {f : Cell → Cell} (h : s.Canon) (hf : g (f (s.cell k)) = g (s.cell k))
    (j : CellRef) : g ((s.updCell k f).cell j) = g (s.cell j) := by
  by_cases hj : gid j = gid k
  · have e (x : State) : x.cell j = x.cell k := congrArg (SMap.get Cell.dflt x.cells) hj
    rw [e, e, State.cell_updCell h, hf]
  · rw [State.cell_updCell_other h _ hj]

/-- A token that is sent changes at most the wires of a cell. -/
theorem State.part_sendTok {β : Type} {g : Cell → β} {p : Nat} {d : Token} (h : s.Canon) (hg : ∀ (z : Cell) l, g { z with wires := l } = g z)
    (j : CellRef) : g ((s.sendTok c p d).cell j) = g (s.cell j) := by
  unfold State.sendTok
  cases s.link c p with
  | inside k lat => exact State.part_updCell h (hg _ _) j
  | crossing k => rfl
  | none => rfl

/-- At the end of the cycle it is forgotten which ports have been driven. -/
theorem State.updIsl_driveTok {o : Nat} {d : Token} (h : s.Canon) (n : Word) :
    (s.driveTok c o d).updIsl c.isl (Isl.next n) = (s.sendTok c o d).updIsl c.isl (Isl.next n) := by
  have hm : (s.markDriven c o).updIsl c.isl (Isl.next n) = s.updIsl c.isl (Isl.next n) := by
    unfold State.markDriven
    rw [State.updIsl_updIsl h]
    rfl
  have hsched : ((s.markDriven c o).isl c.isl).sched = (s.isl c.isl).sched := by
    unfold State.markDriven
    rw [State.isl_updIsl h]
  have hlink : (s.markDriven c o).link c o = s.link c o := rfl
  unfold State.driveTok State.sendTok
  rw [hlink]
  cases s.link c o with
  | inside k lat =>
    dsimp only
    rw [hsched]
    exact congrArg (fun x : State => x.updCell k (fun z => { z with wires := z.wires ++ [⟨facing o, d, (s.isl c.isl).sched + lat, false⟩] })) hm
  | crossing k => exact congrArg (fun x : State => x.setFlight k (facing o) (s.inFlight k (facing o) ++ [d])) hm
  | none => exact hm

/-- The one output that waits there. -/
theorem Cell.waiting_switch {z : Cell} {p o : Nat} {d : Token} {l : Option Nat} (hp : p < 4)
    (h : z.steer = [(p, { swOut := some (o, d), swLast := l })]) : z.waiting = [(p, false, o, d)] := by
  have h4 : p = 0 ∨ p = 1 ∨ p = 2 ∨ p = 3 := by omega
  unfold Cell.waiting
  simp only [Cell.str_one h]
  rcases h4 with rfl | rfl | rfl | rfl <;> rfl

theorem Cell.waiting_merge {z : Cell} {p o : Nat} {d : Token} {l : Option Nat} (hp : p < 4)
    (h : z.steer = [(p, { mgOut := some (o, d), mgLast := l })]) : z.waiting = [(p, true, o, d)] := by
  have h4 : p = 0 ∨ p = 1 ∨ p = 2 ∨ p = 3 := by omega
  unfold Cell.waiting
  simp only [Cell.str_one h]
  rcases h4 with rfl | rfl | rfl | rfl <;> rfl

/-- The state in which cell c has driven the one output that waited. -/
theorem State.lateDrives_one {p o : Nat} {unit : Bool} {d : Token} {x y : Steer} (hst : (s.cell c).steer = [(p, x)])
    (hw : (s.cell c).waiting = [(p, unit, o, d)]) (hy : (if unit then { x with mgOut := none } else { x with swOut := none } : Steer) = y)
    (hd : s.driven c o = false) (hf : s.outFull c o = false) : s.lateDrives c = (s.setSteer c p y).driveTok c o d := by
  have hx : (s.cell c).str p = x := by
    unfold Cell.str
    rw [hst]
    exact if_pos rfl
  unfold State.lateDrives
  rw [if_neg (by rw [hst]; exact Bool.false_ne_true), hw]
  dsimp only [List.foldl_cons, List.foldl_nil]
  rw [if_neg (fun h => h.elim (not_of_eq_false hd) (not_of_eq_false hf))]
  unfold State.setSteer State.updCell
  dsimp only
  rw [hx, hy]

theorem Waits.closeCycle {p o : Nat} {d : Token} {y : Steer} (h : Waits s c) (hl : s.lateDrives c = (s.setSteer c p y).driveTok c o d) (n : Word) :
    State.closeCycle s s c.isl n = ((((s.setSteer c p y).sendTok c o d).updIsl c.isl (Isl.next n)).incFld (R.islCycle c.isl) 63 0 1).islState c.isl
      (s.reason c.isl []) := by
  have hlt : c.c < s.cellCount c.isl := ((s.cellExists_iff c).mp h.here).2
  have hput : (s.setSteer c p y).Canon := h.canon.setSteer
  have hmark : ((s.setSteer c p y).markDriven c o).Canon := hput.updIsl c.isl _
  have hsend : ((s.setSteer c p y).sendTok c o d).Canon := hput.sendTok
  have hcount : ((s.setSteer c p y).driveTok c o d).cellCount c.isl = s.cellCount c.isl := by
    refine State.cellCount_congr ?_ _
    unfold State.driveTok State.sendTok
    cases ((s.setSteer c p y).markDriven c o).link c o <;> rfl
  have hsteer (j : Nat) (hj : j ≠ c.c) : (((s.setSteer c p y).driveTok c o d).cell ⟨c.isl, j⟩).steer = (s.cell ⟨c.isl, j⟩).steer :=
    (State.part_sendTok (g := Cell.steer) hmark (fun _ _ => rfl) _).trans
      (congrArg Cell.steer (State.cell_updCell_other h.canon (fun z => z.setStr p y) (gid_ne hj)))
  have h1 : (s.islCells c.isl).foldl (fun s k => s.closeWires k) s = s := h.fold _ (fun j hj => by
    obtain ⟨_, hw, _⟩ := h.still j hj
    simp [State.closeWires, hw])
  have h2 : (s.islCells c.isl).foldl (fun s k => s.lateDrives k) s = (s.setSteer c p y).driveTok c o d := by
    rw [State.islCells_foldl]
    refine (foldl_one (fun s j => s.lateDrives ⟨c.isl, j⟩) s _ c.c hlt (fun j hj hne => ?_) (fun j hj hne => ?_)).trans hl
    · obtain ⟨_, _, _, _, _, hst, _⟩ := h.still j hj
      simp [State.lateDrives, hst hne]
    · obtain ⟨_, _, _, _, _, hst, _⟩ := h.still j hj
      have hl' : s.lateDrives ⟨c.isl, c.c⟩ = (s.setSteer c p y).driveTok c o d := hl
      rw [hl']
      simp [State.lateDrives, hsteer j hne, hst hne]
  have hu : ((s.setSteer c p y).driveTok c o d).updIsl c.isl (Isl.next n) = ((s.setSteer c p y).sendTok c o d).updIsl c.isl (Isl.next n) :=
    State.updIsl_driveTok hput n
  have hpart {β : Type} (g : Cell → β) (hg : ∀ (z : Cell) l, g { z with wires := l } = g z) (hs : ∀ z : Cell, g (z.setStr p y) = g z) (j : CellRef) :
      g ((((s.setSteer c p y).sendTok c o d).updIsl c.isl (Isl.next n)).cell j) = g (s.cell j) :=
    (State.part_sendTok hput hg j).trans (State.part_updCell h.canon (hs _) j)
  have hcells : (((s.setSteer c p y).sendTok c o d).updIsl c.isl (Isl.next n)).cellCount c.isl = s.cellCount c.isl := by
    rw [← hu, ← hcount]
    rfl
  have h3 : (s.islCells c.isl).foldl (fun s k => s.settle k) (((s.setSteer c p y).sendTok c o d).updIsl c.isl (Isl.next n)) =
      ((s.setSteer c p y).sendTok c o d).updIsl c.isl (Isl.next n) := by
    rw [State.islCells_foldl]
    refine foldl_fixed _ _ _ (fun j hj => ?_)
    obtain ⟨_, _, _, hp, _⟩ := h.still j (List.mem_range.mp hj)
    have := hpart Cell.pend (fun _ _ => rfl) (fun _ => rfl) ⟨c.isl, j⟩
    simp [State.settle, this, hp]
  have h4 : s.raiseFaults c.isl (((s.setSteer c p y).sendTok c o d).updIsl c.isl (Isl.next n)) =
      ((s.setSteer c p y).sendTok c o d).updIsl c.isl (Isl.next n) :=
    State.raiseFaults_calm (hpart Cell.run (fun _ _ => rfl) (fun _ => rfl))
  have h5 : (((s.setSteer c p y).sendTok c o d).updIsl c.isl (Isl.next n)).passHeld c.isl 1 =
      ((s.setSteer c p y).sendTok c o d).updIsl c.isl (Isl.next n) := by
    refine State.passHeld_nil 1 ?_
    rw [State.isl_updIsl hsend]
    have hi : ((s.setSteer c p y).sendTok c o d).isl c.isl = s.isl c.isl := by
      unfold State.sendTok
      cases (s.setSteer c p y).link c o <;> rfl
    rw [hi]
    exact h.dheld
  unfold State.closeCycle
  dsimp only
  rw [h1, h2, hu, h3, h4, h5]

end

section
variable {s : State} {c : CellRef} {port : BitVec 2}

/-- A waiting output is driven at the end of the cycle that passes. -/
theorem exec_steerOutputDrive {o : Nat} {unit : Bool} {d : Token} {x y : Steer} (h : Waits s c) (hst : (s.cell c).steer = [(port.toNat, x)])
    (h1 : x.swCtl = []) (h2 : x.mgCtl = []) (hw : (s.cell c).waiting = [(port.toNat, unit, o, d)])
    (hy : (if unit then { x with mgOut := none } else { x with swOut := none } : Steer) = y) (hd : s.driven c o = false) (hf : s.outFull c o = false) :
    exec (.steerOutputDrive c port unit) s =
      .next (((((s.setSteer c port.toNat y).sendTok c o d).updIsl c.isl (Isl.next (s.isl c.isl).issued)).incFld (R.islCycle c.isl) 63 0 1).islState c.isl
        (s.reason c.isl [])) := by
  have hx : exec (.steerOutputDrive c port unit) s = .next (s.cycle c.isl) := if_pos ⟨h.here, by rw [hw]; simp⟩
  rw [hx, h.schedCycle (Cell.noControl_one hst h1 h2), h.closeCycle (State.lateDrives_one hst hw hy hd hf)]

/-- A unit that fires into a port over which it drives at once. -/
theorem raiseFaults_steerOut {x : Steer} {o : Nat} {d : Token} {unit : Bool} (hs : s.Canon) (hc : s.cellExists c = true)
    (hf : s.islFaulted c.isl = false) (hrun : (s.cell c).run ≠ .faulted) (p : Nat) :
    ((s.setSteer c p x).driven c o = false → s.raiseFaults c.isl ((s.setSteer c p x).steerOut c p unit true o d) = (s.setSteer c p x).driveTok c o d) ∧
    ((s.setSteer c p x).driven c o = true → s.raiseFaults c.isl ((s.setSteer c p x).steerOut c p unit true o d) =
      ((s.setSteer c p x).faultNoWord c K.eLinkOverrun).islandFault c K.eLinkOverrun) :=
  State.raiseFaults_routeDrive hf hc hrun hs.setSteer rfl (State.run_setSteer hs x)

theorem raiseFaults_setSteer {x : Steer} (hs : s.Canon) (p : Nat) : s.raiseFaults c.isl (s.setSteer c p x) = s.setSteer c p x :=
  State.raiseFaults_calm (State.run_setSteer hs x)

end

/-- Settles O26, one lemma for each arrival, head, firing and output. -/
theorem tokensAndSteering : Obligations.TokensAndSteering := by
  unfold Obligations.TokensAndSteering
  refine ⟨fun s c port u tok hs hc hf hb hrun => ?_, fun s c port ct d cs ds hs hc hf hrun => ?_⟩
  · intro p cs' tok' isl head wire arrives wires lost taken off
    have hhead (hx : s.isCrossing c p = true) : head = .next (s.raiseFaults c.isl (s.deliverHead c p)) := exec_fifoHeadDeliver hx hf hb
    refine ⟨fun hd hw => ⟨fun hk hen hfull => ?_, fun hk hbad => ?_, fun q b hk hr hst hfull => ?_, fun q b hk hr hst hfull => ?_⟩,
      fun rest hfl hd => exec_fifoTokenArrive hfl hd, fun rest hx hfi he hp => ⟨fun hk hen hfull => ?_, fun hk hen hfull => ?_, fun hk hen => ?_,
      fun q b more hk hst hfull => ?_, fun q b more hk hst hfull => ?_⟩, fun hwf hx hfi h1 h2 => ?_⟩
    · have ha : s.arriveTok c port.toNat (tok.arrived u) = (s.bufPush c p (ctlBuf tok) (tok.arrived u), true) :=
        (State.arriveTok_control (tok := tok.arrived u) hk).trans (if_pos ⟨hen, not_of_eq_false hfull⟩)
      refine (insideTokenArrive_pushes hs hc hf hb hrun hw hd ha).trans ?_
      rw [if_pos hk]
      rfl
    · have ha : s.arriveTok c port.toNat (tok.arrived u) = (s.faultNoWord c K.eTokenLost, true) :=
        (State.arriveTok_control (tok := tok.arrived u) hk).trans
          (if_neg (fun h => hbad.elim (fun h1 => not_of_eq_false h1 h.1) (fun h2 => h.2 h2)))
      refine (insideTokenArrive_lost hs hc hf hb hrun hw hd ha).trans ?_
      rw [if_pos hk]
      rfl
    · have ha : s.arriveTok c port.toNat (tok.arrived u) = (s.bufPush c q b (tok.arrived u), true) := by
        rw [State.arriveTok_data (tok := tok.arrived u) hk hr hst, if_neg (not_of_eq_false hfull)]
      refine (insideTokenArrive_pushes hs hc hf hb hrun hw hd ha).trans ?_
      rw [if_neg (not_of_eq_false hk)]
      rfl
    · have ha : s.arriveTok c port.toNat (tok.arrived u) = (s.faultNoWord c K.eTokenLost, true) := by
        rw [State.arriveTok_data (tok := tok.arrived u) hk hr hst, if_pos hfull]
      refine (insideTokenArrive_lost hs hc hf hb hrun hw hd ha).trans ?_
      rw [if_neg (not_of_eq_false hk)]
      rfl
    · rw [hhead hx, State.deliverHead_control hfi he hp hk, if_neg (not_not_intro hen), if_neg (not_of_eq_false hfull)]
      exact congrArg Host.Outcome.next (State.raiseFaults_calm (State.run_updCell (State.headTaken_canon hs _ _) _ rfl))
    · rw [hhead hx, State.deliverHead_control hfi he hp hk, if_neg (not_not_intro hen), if_pos hfull]
      exact congrArg Host.Outcome.next (State.raiseFaults_calm (fun _ => rfl))
    · rw [hhead hx, State.deliverHead_control hfi he hp hk, if_pos (not_of_eq_false hen)]
      exact congrArg Host.Outcome.next (State.raiseFaults_faultNoWord hf hc hrun (State.headTaken_canon hs _ _) rfl (fun _ => rfl))
    · rw [hhead hx, State.deliverHead_data hfi he hp hk hst, if_neg (not_of_eq_false hfull)]
      exact congrArg Host.Outcome.next (State.raiseFaults_calm (State.run_updCell (State.headTaken_canon hs _ _) _ rfl))
    · rw [hhead hx, State.deliverHead_data hfi he hp hk hst, if_pos hfull]
      exact congrArg Host.Outcome.next (State.raiseFaults_calm (fun _ => rfl))
    · rw [hhead hx, State.deliverHead_stale rfl hwf hfi h1 h2]
      exact congrArg Host.Outcome.next (State.raiseFaults_calm (State.run_incFld _ _ _ _ _))
  · intro p w x isl now value put drives swOk swX sw o m mgOk mgX mg swInside mgInside
    have hsw (hb : s.blockClasses c.isl = []) : sw = .next (s.raiseFaults c.isl (s.fireSwitch c p)) := by
      rw [show sw = _ from exec_switchFire hc hf, State.unlessStalled_free hb]
    have hmg (hb : s.blockClasses c.isl = []) : mg = .next (s.raiseFaults c.isl (s.fireMerge c p)) := by
      rw [show mg = _ from exec_mergeFire hc hf, State.unlessStalled_free hb]
    have hswf (hok : swOk) : s.fireSwitch c p = if 4 ≤ o then s.setSteer c p swX
        else (s.setSteer c p swX).steerOut c p false (insidePort c p && insidePort c (swData w)) o d := by
      obtain ⟨h1, h2, h3, h4, h5⟩ := hok
      exact State.fireSwitch_fires h1 h2 h3 h4 h5
    have hmgf (hok : mgOk) : s.fireMerge c p = (s.setSteer c p mgX).steerOut c p true
        (insidePort c p && insidePort c (mgAPort w) && insidePort c (mgBPort w)) m d := by
      obtain ⟨h1, h2, h3, h4, h5⟩ := hok
      exact State.fireMerge_fires h1 h2 h3 h4 h5
    refine ⟨fun hb => ⟨fun hok ho => ?_, fun hok ho hin => ?_, fun hok ho hin => ?_, fun hl => ?_, fun hok hin => ?_, fun hok hin => ?_, fun hl => ?_⟩,
      fun hb hi => ⟨?_, ?_⟩, fun hdh hst => ?_⟩
    · rw [hsw hb, hswf hok, if_pos ho]
      exact congrArg Host.Outcome.next (raiseFaults_setSteer hs p)
    · obtain ⟨h1, h2⟩ := raiseFaults_steerOut (x := swX) (o := o) (d := d) (unit := false) hs hc hf hrun p
      have hi : (insidePort c p && insidePort c (swData w)) = true := by rw [hin.1, hin.2]; rfl
      have he : sw = .next (s.raiseFaults c.isl ((s.setSteer c p swX).steerOut c p false true o d)) := by
        rw [hsw hb, hswf hok, if_neg (Nat.not_le.mpr ho), hi]
      exact ⟨fun hd => he.trans (congrArg Host.Outcome.next (h1 hd)), fun hd => he.trans (congrArg Host.Outcome.next (h2 hd))⟩
    · have hi : (insidePort c p && insidePort c (swData w)) = false := eq_false_of_ne_true (fun h => hin (Bool.and_eq_true_iff.mp h))
      rw [hsw hb, hswf hok, if_neg (Nat.not_le.mpr ho), hi, State.steerOut_waits (x := swX) hs (Steer.switched_ne (x := x) (n := now))]
      exact congrArg Host.Outcome.next (raiseFaults_setSteer hs p)
    · rw [hsw hb, State.fireSwitch_rests hl]
      exact congrArg Host.Outcome.next (State.raiseFaults_calm (fun _ => rfl))
    · obtain ⟨h1, h2⟩ := raiseFaults_steerOut (x := mgX) (o := m) (d := d) (unit := true) hs hc hf hrun p
      obtain ⟨hp, ha, hbp⟩ := hin
      have hi : (insidePort c p && insidePort c (mgAPort w) && insidePort c (mgBPort w)) = true := by rw [hp, ha, hbp]; rfl
      have he : mg = .next (s.raiseFaults c.isl ((s.setSteer c p mgX).steerOut c p true true m d)) := by
        rw [hmg hb, hmgf hok, hi]
      exact ⟨fun hd => he.trans (congrArg Host.Outcome.next (h1 hd)), fun hd => he.trans (congrArg Host.Outcome.next (h2 hd))⟩
    · have hi : (insidePort c p && insidePort c (mgAPort w) && insidePort c (mgBPort w)) = false := eq_false_of_ne_true (fun h => by
        obtain ⟨h12, h3⟩ := Bool.and_eq_true_iff.mp h
        obtain ⟨h1, h2⟩ := Bool.and_eq_true_iff.mp h12
        exact hin ⟨h1, h2, h3⟩)
      rw [hmg hb, hmgf hok, hi, State.steerOut_waits (x := mgX) hs (Steer.merged_ne (x := x) (v := value) (n := now))]
      exact congrArg Host.Outcome.next (raiseFaults_setSteer hs p)
    · rw [hmg hb, State.fireMerge_rests hl]
      exact congrArg Host.Outcome.next (State.raiseFaults_calm (fun _ => rfl))
    · rw [show sw = _ from exec_switchFire hc hf, State.unlessStalled_stalled hb hi hf]
    · rw [show mg = _ from exec_mergeFire hc hf, State.unlessStalled_stalled hb hi hf]
    · have hw : Waits s c := ⟨hs, hc, hf, hdh, hst⟩
      intro after
      exact ⟨fun o' l he hdr hfu => exec_steerOutputDrive hw he rfl rfl (Cell.waiting_switch port.isLt he) rfl hdr hfu,
        fun o' l he hdr hfu => exec_steerOutputDrive hw he rfl rfl (Cell.waiting_merge port.isLt he) rfl hdr hfu⟩

end Sys2Proof.Machine

/-! SUPPORT. A cycle's close when tokens stay on a wire (R127), and when the word has taken or sent tokens (R219, R223). -/

namespace Sys2Proof.Machine

open Sys2Proof

/-! ### Wires of another cell -/

section
variable {s : State} {j k : CellRef} {l : List Wire}

theorem State.Canon.wired (h : s.Canon) : (s.wired j l).Canon := h.updCell j _

theorem State.cell_wired_other (h : s.Canon) (hne : gid k ≠ gid j) : (s.wired j l).cell k = s.cell k := State.cell_updCell_other h _ hne

theorem State.cell_wired (h : s.Canon) : (s.wired j l).cell j = { s.cell j with wires := l } := State.cell_updCell h j _

theorem State.part_wired {β : Type} {g : Cell → β} (h : s.Canon) (hg : ∀ z : Cell, g { z with wires := l } = g z) (c : CellRef) :
    g ((s.wired j l).cell c) = g (s.cell c) := State.part_updCell h (hg _) c

theorem State.updCell_wired (h : s.Canon) (hne : gid k ≠ gid j) (f : Cell → Cell) : (s.wired j l).updCell k f = (s.updCell k f).wired j l := by
  have h1 : (s.updCell k f).cell j = s.cell j := State.cell_updCell_other h f hne.symm
  have h2 : (s.wired j l).cell k = s.cell k := State.cell_wired_other h hne
  have h3 : (s.wired j l).updCell k f = (s.setCell j { s.cell j with wires := l }).setCell k (f (s.cell k)) := by
    rw [← h2]
    rfl
  have h4 : (s.updCell k f).wired j l = (s.setCell k (f (s.cell k))).setCell j { s.cell j with wires := l } := by
    rw [← h1]
    rfl
  rw [h3, h4, State.setCell_comm h hne.symm]

theorem State.applyPW_wired (h : s.Canon) (hne : gid k ≠ gid j) {w : PW} (hw : w.isOwn = true) :
    (s.wired j l).applyPW k w = (s.applyPW k w).wired j l ∧ (s.applyPW k w).Canon := by
  have e (t : State) : t.applyPW k w = t.updCell k (fun c => c.applyPW w) := by
    cases w with
    | sram a bs seat => exact absurd hw Bool.false_ne_true
    | _ => rfl
  rw [e, e]
  exact ⟨State.updCell_wired h hne _, h.updCell _ _⟩

theorem State.foldPW_wired (h : s.Canon) (hne : gid k ≠ gid j) (ws : List Pend) (hw : ∀ x ∈ ws, x.w.isOwn = true) :
    ws.foldl (fun s x => s.applyPW k x.w) (s.wired j l) = (ws.foldl (fun s x => s.applyPW k x.w) s).wired j l := by
  induction ws generalizing s with
  | nil => rfl
  | cons x ws ih =>
    obtain ⟨h1, h2⟩ := State.applyPW_wired (l := l) h hne (hw x List.mem_cons_self)
    rw [List.foldl_cons, List.foldl_cons, h1]
    exact ih h2 (fun y hy => hw y (List.mem_cons_of_mem x hy))

theorem State.settle_wired (h : s.Canon) (hne : gid k ≠ gid j) (hw : ∀ x ∈ (s.cell k).pend, x.due ≤ (s.isl k.isl).sched → x.w.isOwn = true) :
    (s.wired j l).settle k = (s.settle k).wired j l := by
  have hisl : (s.wired j l).isl k.isl = s.isl k.isl := rfl
  unfold State.settle
  rw [State.cell_wired_other h hne, hisl]
  dsimp only
  split
  · rfl
  · rw [State.updCell_wired h hne]
    refine State.foldPW_wired (h.updCell _ _) hne _ (fun x hx => ?_)
    simp only [List.mem_append, List.mem_filter, decide_eq_true_eq] at hx
    rcases hx with ⟨⟨hm, hd⟩, -⟩ | ⟨⟨hm, hd⟩, -⟩ <;> exact hw x hm hd

theorem State.setFld_wired (a hi lo n : Nat) : (s.wired j l).setFld a hi lo n = (s.setFld a hi lo n).wired j l := rfl
theorem State.incFld_wired (a hi lo n : Nat) : (s.wired j l).incFld a hi lo n = (s.incFld a hi lo n).wired j l := rfl

theorem State.islFaulted_wired (i : Nat) : (s.wired j l).islFaulted i = s.islFaulted i := rfl

theorem State.islState_wired (h : s.Canon) (i r : Nat) : (s.wired j l).islState i r = (s.islState i r).wired j l := by
  have hrun (c : CellRef) : ((s.wired j l).cell c).run = (s.cell c).run := State.part_wired h (fun _ => rfl) c
  have hc : (s.wired j l).islCells i = s.islCells i := rfl
  unfold State.islState
  generalize R.islSeq i = a
  dsimp only
  rw [State.setFld_wired, State.islFaulted_wired, hc]
  simp only [hrun, State.setFld_wired]
  rw [apply_ite (fun x : State => x.wired j l), apply_ite (fun x : State => x.wired j l), apply_ite (fun x : State => x.wired j l)]

/-- Tokens that are usable later stay on their wires. -/
theorem State.closeWires_later {c : CellRef} (h : s.Canon) (hw : ∀ w ∈ (s.cell c).wires, (s.isl c.isl).sched < w.usable) : s.closeWires c = s := by
  unfold State.closeWires
  dsimp only
  split
  · rfl
  · have hf : (s.cell c).wires.filter (fun w => decide ((s.isl c.isl).sched < w.usable)) = (s.cell c).wires :=
      List.filter_eq_self.mpr (fun w hm => decide_eq_true (hw w hm))
    have hs : s.updCell c (fun z => { z with wires := z.wires.filter (fun w => decide ((s.isl c.isl).sched < w.usable)) }) = s := by
      have he : s.updCell c (fun z => { z with wires := z.wires.filter (fun w => decide ((s.isl c.isl).sched < w.usable)) }) = s.setCell c (s.cell c) := by
        unfold State.updCell
        dsimp only
        rw [hf]
      rw [he, State.setCell_cell h]
    have ha : (s.cell c).wires.any (fun w => decide (w.usable ≤ (s.isl c.isl).sched) && !w.seen) = false := by
      rw [List.any_eq_false]
      intro w hm
      have := hw w hm
      simp only [Bool.and_eq_true, decide_eq_true_eq]
      omega
    rw [hs, if_neg (not_of_eq_false ha)]

theorem State.isl_count_self (h : s.Canon) (i : Nat) (n : Word) : ((s.count i n).isl i).sched = (s.isl i).sched + 1 := by
  rw [show (s.count i n).isl i = (s.isl i).next n from State.isl_setIsl h _ _]
  rfl

/-- The close of a cycle at whose end cell k's writes alone land. -/
theorem State.closeCycle_one {b s2 st : State} {k : CellRef} {n : Word} (hidx : k.c < s2.cellCount k.isl)
    (hw : ∀ c, c < s2.cellCount k.isl → s2.closeWires ⟨k.isl, c⟩ = s2)
    (hs : ∀ c, c < s2.cellCount k.isl → (s2.cell ⟨k.isl, c⟩).steer = [])
    (hp : ∀ c, c < s2.cellCount k.isl → c ≠ k.c → (s2.cell ⟨k.isl, c⟩).pend = [])
    (hst : (s2.count k.isl n).settle k = st) (hps : ∀ c, c < s2.cellCount k.isl → c ≠ k.c → (st.cell ⟨k.isl, c⟩).pend = [])
    (hrf : b.raiseFaults k.isl st = st) (hpass : st.passHeld k.isl 1 = st) :
    State.closeCycle b s2 k.isl n = (st.incFld (R.islCycle k.isl) 63 0 1).islState k.isl (b.reason k.isl []) := by
  have h1 : (s2.islCells k.isl).foldl (fun s k => s.closeWires k) s2 = s2 := by
    rw [State.islCells_foldl]
    exact foldl_fixed _ _ _ (fun c hc => hw c (List.mem_range.mp hc))
  have h2 : (s2.islCells k.isl).foldl (fun s k => s.lateDrives k) s2 = s2 := by
    rw [State.islCells_foldl]
    refine foldl_fixed _ _ _ (fun c hc => ?_)
    simp [State.lateDrives, hs c (List.mem_range.mp hc)]
  have h3 : (s2.islCells k.isl).foldl (fun s k => s.settle k) (s2.count k.isl n) = st := by
    rw [State.islCells_foldl, foldl_one _ _ _ k.c hidx]
    · exact hst
    · intro c hc hne
      have : ((s2.count k.isl n).cell ⟨k.isl, c⟩).pend = [] := hp c hc hne
      simp [State.settle, this]
    · intro c hc hne
      have hk : (s2.count k.isl n).settle ⟨k.isl, k.c⟩ = st := hst
      rw [hk]
      simp [State.settle, hps c hc hne]
  unfold State.closeCycle
  dsimp only
  rw [h1, h2]
  change ((b.raiseFaults k.isl ((s2.islCells k.isl).foldl (fun s k => s.settle k) (s2.count k.isl n))).passHeld k.isl 1 |>.incFld _ _ _ _).islState _ _ = _
  rw [h3, hrf, hpass]

/-- A cycle that ends with tokens on a wire of another cell, usable later, ends as without them; that the port has been driven is
forgotten. -/
theorem Ends.closeCycle_wired {b x : State} {n : Word} (o : Nat) (h : Ends b x k) (hne : gid j ≠ gid k)
    (hl : ∀ w ∈ l, (x.isl k.isl).sched < w.usable)
    (hown : ∀ y ∈ (x.cell k).pend, y.due ≤ (x.isl k.isl).sched + 1 → y.w.isOwn = true) :
    State.closeCycle b ((x.wired j l).markDriven k o) k.isl n = (State.closeCycle b x k.isl n).wired j l := by
  have hset := State.settle_due (State.count_canon h.canon k.isl n) k (fun y hy hd => by
    rw [State.isl_count_self h.canon] at hd
    exact hown y hy hd)
  have hcount : (x.count k.isl n).Canon := State.count_canon h.canon k.isl n
  have hoth (c : Nat) (hc : c ≠ k.c) : ((x.count k.isl n).settle k).cell ⟨k.isl, c⟩ = x.cell ⟨k.isl, c⟩ := hset.other _ (gid_ne hc)
  have hislk : ((x.count k.isl n).settle k).isl k.isl = (x.isl k.isl).next n := by
    have e := congrArg State.isls hset.rest
    change ((x.count k.isl n).settle k).isls = (x.count k.isl n).isls at e
    unfold State.isl
    rw [e]
    exact State.isl_setIsl h.canon _ _
  have hrunk : (((x.count k.isl n).settle k).cell k).run = .running := by
    rw [hset.self, Cell.landed_run]
    exact h.run
  have hfus : ((x.count k.isl n).settle k).fuses = x.fuses := by
    have e := congrArg State.fuses hset.rest
    exact e
  have hcnt : ((x.count k.isl n).settle k).cellCount k.isl = x.cellCount k.isl := State.cellCount_congr hfus _
  have hrun (c : Nat) (hc : c < x.cellCount k.isl) (hf : (((x.count k.isl n).settle k).cell ⟨k.isl, c⟩).run = .faulted) :
      (b.cell ⟨k.isl, c⟩).run = .faulted := by
    by_cases e : c = k.c
    · subst e
      exact absurd (hrunk.symm.trans hf) (by decide)
    · rw [hoth c e, h.runs c hc e] at hf
      exact hf
  have hd : ((x.count k.isl n).settle k).passHeld k.isl 1 = (x.count k.isl n).settle k := State.passHeld_nil _ (by rw [hislk]; exact h.dheld)
  have hplain := State.closeCycle_one (b := b) (n := n) h.idx (fun c hc => State.closeWires_later h.canon (by rw [(h.wires c hc).1]; nofun))
    (fun c hc => (h.wires c hc).2) h.pend rfl (fun c hc hne => by rw [hoth c hne]; exact h.pend c hc hne)
    (State.raiseFaults_none (fun c hc hf => hrun c (hcnt ▸ hc) hf)) hd
  have hmark : ((x.wired j l).markDriven k o).count k.isl n = (x.count k.isl n).wired j l := by
    unfold State.markDriven State.count
    rw [State.updIsl_updIsl h.canon.wired]
    rfl
  have hsched : (((x.wired j l).markDriven k o).isl k.isl).sched = (x.isl k.isl).sched := by
    unfold State.markDriven
    rw [State.isl_updIsl h.canon.wired]
    rfl
  have hw : (((x.wired j l).markDriven k o).count k.isl n).settle k = ((x.count k.isl n).settle k).wired j l := by
    rw [hmark]
    exact State.settle_wired hcount hne.symm (fun y hy hyd => by
      rw [State.isl_count_self h.canon] at hyd
      exact hown y hy hyd)
  have hwired := State.closeCycle_one (b := b) (s2 := (x.wired j l).markDriven k o) (n := n) (st := ((x.count k.isl n).settle k).wired j l) h.idx
    (fun c hc => State.closeWires_later (h.canon.wired.updIsl k.isl _) ?_)
    (fun c hc => (State.part_wired (g := Cell.steer) h.canon (fun _ => rfl) _).trans (h.wires c hc).2)
    (fun c hc hc' => (State.part_wired (g := Cell.pend) h.canon (fun _ => rfl) _).trans (h.pend c hc hc')) hw
    (fun c hc hc' => (State.part_wired (g := Cell.pend) hset.canon (fun _ => rfl) _).trans (by rw [hoth c hc']; exact h.pend c hc hc'))
    (State.raiseFaults_none (fun c hc hf => hrun c (hcnt ▸ hc) ((State.part_wired (g := Cell.run) hset.canon (fun _ => rfl) _).symm.trans hf)))
    (State.passHeld_nil _ (by rw [show (((x.count k.isl n).settle k).wired j l).isl k.isl = _ from hislk]; exact h.dheld))
  · rw [hwired, hplain, State.incFld_wired, State.islState_wired (hset.canon.incFld _ _ _ _)]
  · by_cases e : gid ⟨k.isl, c⟩ = gid j
    · have hj : (x.wired j l).cell ⟨k.isl, c⟩ = (x.wired j l).cell j := congrArg (SMap.get Cell.dflt (x.wired j l).cells) e
      rw [hsched]
      change ∀ w ∈ ((x.wired j l).cell ⟨k.isl, c⟩).wires, _
      rw [hj, State.cell_wired h.canon]
      exact hl
    · change ∀ w ∈ ((x.wired j l).cell ⟨k.isl, c⟩).wires, _
      rw [State.cell_wired_other h.canon e, (h.wires c hc).1]
      nofun

end

end Sys2Proof.Machine

/-! SUPPORT. Words that send tokens (R124, R216, R222, R223). -/

namespace Sys2Proof.Machine

open Sys2Proof

/-- A cycle with tokens on a wire of another cell. -/
theorem Cycled.wired {s t : State} {k j : CellRef} {c : Cell} {l : List Wire} (h : Cycled s s t k c) (hs : s.Canon) (ht : t.Canon)
    (hne : gid j ≠ gid k) : Cycled (s.wired j l) (s.wired j l) (t.wired j l) k c := by
  obtain ⟨h1, h2, h3, h4, h5, h6⟩ := h
  refine ⟨(State.cell_wired_other ht hne.symm).trans h1, fun i hi => ?_, h3, h4, h5, ?_⟩
  · by_cases hij : gid i = gid j
    · have e (x : State) : x.cell i = x.cell j := congrArg (SMap.get Cell.dflt x.cells) hij
      rw [e, e, State.cell_wired ht, State.cell_wired hs, h2 j hne]
    · rw [State.cell_wired_other ht hij, State.cell_wired_other hs hij, h2 i hi]
  · have e := congrArg (fun x : State => x.wired j l) h6
    exact e

/-! ### Links -/

/-- A link inside an island leads to another cell of it, and its latency is that of its direction. -/
theorem State.link_inside {s : State} {k k' : CellRef} {p lat : Nat} (hk : s.cellExists k = true) (hp : p < 4) (h : s.link k p = .inside k' lat) :
    k'.isl = k.isl ∧ k'.c ≠ k.c ∧ k'.c < s.cellCount k.isl ∧ lat = (if p % 2 = 0 then 2 else 1) := by
  unfold State.link at h
  cases hn : s.nbr k p with
  | none =>
    rw [hn] at h
    cases h
  | some x =>
    rw [hn] at h
    dsimp only at h
    split at h
    · next hi =>
      cases h
      obtain ⟨he, hm, -⟩ := State.nbr_alternates hk hp hn
      obtain ⟨-, hc⟩ := (s.cellExists_iff _).mp he
      refine ⟨hi, fun e => ?_, hi ▸ hc, rfl⟩
      have hx : k' = k := by
        obtain ⟨a, b⟩ := k'
        obtain ⟨a', b'⟩ := k
        simp only at hi e
        rw [hi, e]
      rw [hx] at hm
      cases hb : isMemCell k <;> simp [hb] at hm
    · cases h

theorem Quiet.here {s : State} {k : CellRef} (h : Quiet s k) : s.cellExists k = true := (s.cellExists_iff k).mpr ⟨h.stands.isl, h.stands.idx⟩

section
variable {s : State} {k : CellRef} (h : Quiet s k)
include h

/-- A port of a cell whose word sends where nothing else drives. -/
theorem Quiet.sendFault_none {p : Nat} (w : HWord) (hd : (s.isl k.isl).drives = []) (hf : s.fenced k p = false) :
    (s.updCell k (fun c => c.holding w)).sendFault k p = none := by
  have hpc : (s.updCell k (fun c => c.holding w)).pullsAt k ((s.updCell k (fun c => c.holding w)).cell k).pc = [] := by
    rw [h.cell_holding]
    exact h.stands.pulls
  have hdr : (s.updCell k (fun c => c.holding w)).driven k p = false := by
    unfold State.driven
    rw [show ((s.updCell k (fun c => c.holding w)).isl k.isl).drives = [] from hd]
    rfl
  have ho : (s.updCell k (fun c => c.holding w)).pullOuts k = [] := by
    unfold State.pullOuts
    rw [hpc]
    rfl
  have hf' : (s.updCell k (fun c => c.holding w)).fenced k p = false := hf
  unfold State.sendFault
  rw [if_neg (not_of_eq_false hf'), hdr, ho]
  rfl

end

theorem State.sendFault_fenced {s : State} {k : CellRef} {p : Nat} (hf : s.fenced k p = true) : s.sendFault k p = some K.ePortFenced := if_pos hf

/-- The state after a token has been sent over a crossing link, the port being marked. -/
theorem State.driveTok_crossing {p : State} {k k' : CellRef} {o : Nat} {t : Token} (hl : p.link k o = .crossing k') :
    p.driveTok k o t = (p.markDriven k o).setFlight k' (facing o) (p.inFlight k' (facing o) ++ [t]) := by
  have hl' : (p.markDriven k o).link k o = .crossing k' := hl
  unfold State.driveTok State.sendTok
  rw [hl'] <;> rfl

theorem State.driveTok_inside {p : State} {k k' : CellRef} {o lat : Nat} {t : Token} (hc : p.Canon) (hl : p.link k o = .inside k' lat)
    (hw : (p.cell k').wires = []) : p.driveTok k o t = (p.markDriven k o).wired k' [⟨facing o, t, (p.isl k.isl).sched + lat, false⟩] := by
  have hl' : (p.markDriven k o).link k o = .inside k' lat := hl
  have hs : ((p.markDriven k o).isl k.isl).sched = (p.isl k.isl).sched := by
    unfold State.markDriven
    rw [State.isl_updIsl hc]
  have hd : p.driveTok k o t = (p.markDriven k o).updCell k' (fun c => { c with
      wires := c.wires ++ [⟨facing o, t, ((p.markDriven k o).isl k.isl).sched + lat, false⟩] }) := by
    unfold State.driveTok State.sendTok
    rw [hl'] <;> rfl
  have hw' : ((p.markDriven k o).cell k').wires = [] := hw
  rw [hd, hs]
  unfold State.wired State.updCell
  dsimp only
  rw [hw', List.nil_append]

section
variable {s : State} {k : CellRef} {g : BitVec 4} (h : Quiet s k) (hg : (s.cell k).guard g = true) {op : XOp} {p : Nat} {t : Token}
  {idx : BitVec 5} {inc sram : Bool} (hs : op.silent = true) (hd : op.decodeFault (isMemCell k) = none)
  (hb : blockX (s.updCell k (fun c => c.holding { xg := g, x := op })) k op = [])
  (he : evalX (s.updCell k (fun c => c.holding { xg := g, x := op })) k op =
    { writes := [] ++ [] ++ postInc (s.cell k) idx inc sram, acts := [.send p t] })
include h hg hs hd hb he

/-- A word that sends a token over a crossing link. -/
theorem Quiet.sends_crossing {k' : CellRef} (hl : s.link k p = .crossing k') :
    IssuesWith s (s.sent k' (facing p) t) k (.next (drive k { xg := g, x := op } s))
      ((s.cell k).stepped.bumped idx inc (if sram then 32 else 1)) := by
  have hcan := h.1.1.updCell k (fun c => c.holding { xg := g, x := op })
  have hx := h.x_acts (u := s.sent k' (facing p) t) (d := s.cell k) (fly := [])
    (q := (s.updCell k (fun c => c.holding { xg := g, x := op })).driveTok k p t) hg hs hd hb he nofun rfl ?_ (Cell.Like.refl _)
  · rw [Cell.inFlights_nil] at hx
    exact hx
  · rw [State.driveTok_crossing (p := s.updCell k (fun c => c.holding { xg := g, x := op })) hl]
    have hm : ((s.updCell k (fun c => c.holding { xg := g, x := op })).markDriven k p).Canon := hcan.updIsl k.isl _
    have hisl (i : Nat) (hi : i ≠ k.isl) : ((s.updCell k (fun c => c.holding { xg := g, x := op })).markDriven k p).isl i =
        (s.updCell k (fun c => c.holding { xg := g, x := op })).isl i := State.isl_updIsl_other hcan _ hi
    refine ⟨hm, h.cell_holding _, fun _ _ => rfl, fun i hi => hisl i hi, ?_, rfl, rfl, ?_⟩
    · have hi : (((s.updCell k (fun c => c.holding { xg := g, x := op })).markDriven k p).isl k.isl) =
          { (s.updCell k (fun c => c.holding { xg := g, x := op })).isl k.isl with
            drives := ((s.updCell k (fun c => c.holding { xg := g, x := op })).isl k.isl).drives ++ [(k.c, p)] } := State.isl_updIsl hcan _ _
      change (((s.updCell k (fun c => c.holding { xg := g, x := op })).markDriven k p).isl k.isl).still = _
      rw [hi]
      rfl
    · rfl

/-- A word that sends a token over an inside link: the token is on the neighbour's wire. -/
theorem Quiet.sends_inside {k' : CellRef} {lat : Nat} (hp : p < 4) (hl : s.link k p = .inside k' lat) :
    ∃ t', drive k { xg := g, x := op } s = t' ∧ Cycled (s.wired k' [⟨facing p, t, (s.isl k.isl).sched + lat, false⟩])
      (s.wired k' [⟨facing p, t, (s.isl k.isl).sched + lat, false⟩]) t' k ((s.cell k).stepped.bumped idx inc (if sram then 32 else 1)) := by
  obtain ⟨⟨hc, h1, h2, h3, ht, h4, h5, h6, h7, h8, h13, h12⟩, h9, h10, h11⟩ := id h
  obtain ⟨hi, hne, hlt, hlat⟩ := State.link_inside h.here hp hl
  have hlat' : 0 < lat := by
    rw [hlat]
    split <;> decide
  generalize hw : ({ xg := g, x := op } : HWord) = w at *
  have hgid : gid k' ≠ gid k := by
    unfold gid
    omega
  have hk' : s.cell k' = s.cell ⟨k.isl, k'.c⟩ := by
    rw [← hi]
  have hwires : (s.cell k').wires = [] := by
    rw [hk']
    exact (h12 k'.c hlt hne).2.2.2
  have hcan := hc.updCell k (fun c => c.holding w)
  have hpw : ((s.updCell k (fun c => c.holding w)).cell k').wires = [] := by
    rw [State.cell_updCell_other hc _ hgid]
    exact hwires
  have ho := evalWord_x (g := g) (h.cell_holding w) h7 h11 h10 hg hd he rfl
  rw [hw] at ho
  generalize hout : ({ writes := [] ++ [] ++ postInc (s.cell k) idx inc sram, acts := [.send p t] } : SlotOut) = out at ho
  generalize hwo : WordOut.ofSlot out (((s.cell k).holding w).nextOf .seq) = o at ho
  have hacts : o.acts = [.send p t] := by rw [← hwo, ← hout]; rfl
  have hpulls : o.pulls = [] := by rw [← hwo]; rfl
  have hstop : o.stop = false := by rw [← hwo]; rfl
  have hown : ∀ x ∈ o.writes, x.2.isOwn = true := fun x hx => by
    rw [← hwo] at hx
    have hm := mem_ofSlot_writes _ _ x hx
    rw [← hout] at hm
    exact (mem_postInc hm).2.2.2
  -- the state after the issue, without the token
  obtain ⟨n1, n2, n3, n4⟩ := Cell.foldNow o.now ((s.cell k).holding w)
  have hI := h.stands.issuedAs (w := w) (c := ((s.cell k).holding w).issued o (s.isl k.isl).sched) rfl rfl (n3.trans h4) (n1.trans h8)
    (n4.trans (h13.2 k.c h2).1)
  have hland := hI.lands h4 h7 hown
  have hissue : (s.updCell k (fun c => c.holding w)).issueWord k o =
      (((s.updCell k (fun c => c.holding w)).updCell k (fun _ => ((s.cell k).holding w).issued o (s.isl k.isl).sched)).wired k'
        [⟨facing p, t, (s.isl k.isl).sched + lat, false⟩]).markDriven k p := by
    have hsend : (s.updCell k (fun c => c.holding w)).act k [] (.send p t) =
        ((s.updCell k (fun c => c.holding w)).markDriven k p).wired k' [⟨facing p, t, (s.isl k.isl).sched + lat, false⟩] :=
      State.driveTok_inside hcan hl hpw
    have hm : ((s.updCell k (fun c => c.holding w)).markDriven k p).Canon := hcan.updIsl k.isl _
    unfold State.issueWord
    simp only [hpulls, hacts, hstop, List.foldl_nil, List.foldl_cons, Bool.false_eq_true, if_false]
    rw [hsend, State.updCell_wired hm hgid.symm, State.updCell_const]
    have hcell : ((s.updCell k (fun c => c.holding w)).markDriven k p).cell k = (s.cell k).holding w := h.cell_holding w
    rw [hcell]
    rfl
  have hdrive := h.stands.drive (w := w) (o := o) (hw ▸ present_x g op hs) (fun _ => hw ▸ hb) ho (by rw [← hwo, ← hout]; rfl)
  have hclose := hI.ends.closeCycle_wired (l := [⟨facing p, t, (s.isl k.isl).sched + lat, false⟩]) (n := s.gtime) p hgid
    (fun y hy => by
      rw [List.mem_singleton.mp hy]
      exact Nat.lt_add_of_pos_right hlat')
    (fun y hy _ => by
      rw [hI.cell] at hy
      have hm : y ∈ (o.now.foldl Cell.applyPW ((s.cell k).holding w)).pend ++ o.writes.map (fun x => (⟨(s.isl k.isl).sched + x.1, x.2⟩ : Pend)) := hy
      rw [n2, show ((s.cell k).holding w).pend = [] from h7, List.nil_append] at hm
      obtain ⟨x, hx, rfl⟩ := List.mem_map.mp hm
      exact hown x hx)
  have hafter := Cell.after_mixed h5 h6 h7 w out (by rw [← hout]) (s.isl k.isl).sched (now := []) (fly := []) (one := postInc (s.cell k) idx inc sram)
    (by rw [← hout]) nofun nofun rfl (fun x hx => ⟨(mem_postInc hx).1, (mem_postInc hx).2.1, (mem_postInc hx).2.2.1⟩)
  have hcy : Cycled s s (State.closeCycle (s.updCell k (fun c => c.holding w)) ((s.updCell k (fun c => c.holding w)).updCell k
      (fun _ => ((s.cell k).holding w).issued o (s.isl k.isl).sched)) k.isl s.gtime) k ((s.cell k).stepped.bumped idx inc (if sram then 32 else 1)) := by
    have hc' : (((s.cell k).holding w).issued o (s.isl k.isl).sched).landed ((s.isl k.isl).sched + 1) =
        (s.cell k).stepped.bumped idx inc (if sram then 32 else 1) := by
      have hctl : out.ctl = .seq := by rw [← hout]
      unfold Cell.after at hafter
      rw [hctl, hwo] at hafter
      rw [hafter, List.map_nil, List.foldl_nil, postInc_bumped (s.cell k) (s.cell k).stepped rfl, Cell.inFlights_nil]
    rw [← hc']
    exact hland
  refine ⟨_, rfl, ?_⟩
  rw [hdrive, hissue, hclose]
  exact hcy.wired hc ((Keeps.closeCycle (Keeps.refl _)).canon hI.ends.canon) hgid

end

end Sys2Proof.Machine

/-! SUPPORT. XSEND and XCTL (R124, R216, R222, R223). -/

namespace Sys2Proof.Machine

open Sys2Proof

/-- A place whose beat a send may take, and its step of the index register. -/
structure Sends (s : State) (k : CellRef) (src : BitVec 8) (i : Word) (beat : List Byte) (step : Word) : Prop where
  still : stillPlace src
  decodes : placeFault (isMemCell k) [src] = none
  fault : s.placeFault k (placeOf src) i false = none
  acts : s.placeActs k (placeOf src) i = []
  read : s.readPlace k (placeOf src) i (placeOf src == .sram) = beat
  step : step = if placeOf src == .sram then 32 else 1

theorem sends_of_place {s : State} {k : CellRef} {src : BitVec 8} {i : Word} {beat : List Byte} {step : Word}
    (h : (isMemCell k = false ∧ unitPlace src ∧ beat = (s.cell k).unitBeat src i.toNat ∧ step = 1) ∨
      (src = 0x38 ∧ i.toNat % 32 = 0 ∧ i.toNat + 32 ≤ sramSize k ∧ s.plainRead k i.toNat 32 = true ∧
        beat = s.rdN (sramBase k + i.toNat) 32 ∧ step = 32)) : Sends s k src i beat step := by
  rcases h with ⟨hm, hu, rfl, rfl⟩ | ⟨rfl, ha, hr, hp, rfl, rfl⟩
  · refine ⟨.inl hu, ?_, placeFault_unit hu _ _, placeActs_unit hu _, ?_, ?_⟩
    · simp [Machine.placeFault, placeOk_unit hu, hm]
    · rw [placeOf_unit_ne_sram hu, readPlace_unit hu]
      rfl
    · rw [placeOf_unit_ne_sram hu]
      rfl
  · refine ⟨.inr rfl, ?_, placeFault_sram ⟨ha, hr⟩, readActs_plain hp, State.sramN_plain (Bool.and_eq_true_iff.mp hp).1, rfl⟩
    cases isMemCell k <;> rfl

theorem evalSend_fenced {s : State} {k : CellRef} {port src : Nat} {idx : BitVec 5} {inc : Bool} (hf : s.fenced k port = true) :
    evalSend s k port src idx inc = .bad K.ePortFenced := by
  unfold evalSend
  dsimp only
  rw [State.sendFault_fenced hf]

/-- A send waits for a full FIFO alone. -/
theorem blockX_send {s : State} {k : CellRef} {port : BitVec 2} {src : BitVec 8} {idx : BitVec 5} {inc : Bool} (hs : stillPlace src) :
    blockX s k (.send port src idx inc) = if s.sendWaits k port.toNat then [3] else [] := by
  unfold blockX
  dsimp only
  rw [(waits_still hs _).1]
  exact List.append_nil _

theorem Quiet.evalSend_sends {s : State} {k : CellRef} (h : Quiet s k) (w : HWord)
    {port : Nat} {src : BitVec 8} {idx : BitVec 5} {inc : Bool} {beat : List Byte} {step : Word}
    (hd : (s.isl k.isl).drives = []) (hf : s.fenced k port = false) (hp : Sends s k src ((s.cell k).rs idx) beat step) :
    evalSend (s.updCell k (fun c => c.holding w)) k port src.toNat idx inc =
      { writes := [] ++ [] ++ postInc (s.cell k) idx inc (placeOf src == .sram),
        acts := [.send port ⟨BitVec.ofNat 256 (leNat beat), false, false, (s.isl k.isl).epoch, (s.cell k).seat⟩] } := by
  have hpop : (match placeOf src with | .stream e => [Act.popBeat e] | _ => []) = [] := pop_still hp.still
  unfold evalSend
  simp only [h.sendFault_none w hd hf, BitVec.ofNat_toNat, BitVec.setWidth_eq, h.cell_holding, Cell.rs_holding, h.placeFault_holding,
    h.readPlace_holding, h.placeActs_holding, hp.fault, hp.acts, hp.read, List.nil_append]
  congr 1
  exact congrArg (· ++ _) hpop

theorem State.sendWaits_of_fenced {s : State} {k : CellRef} {p : Nat} (h : s.fenced k p = true) : s.sendWaits k p = false := by
  simp [State.sendWaits, h]
theorem State.sendWaits_eq {s : State} {k : CellRef} {p : Nat} (h : s.fenced k p = false) : s.sendWaits k p = s.outFull k p := by
  simp [State.sendWaits, h]
theorem State.not_fenced_inside {s : State} {k k' : CellRef} {p lat : Nat} (h : s.link k p = .inside k' lat) :
    s.fenced k p = false ∧ s.outFull k p = false := by
  unfold State.fenced State.outFull
  rw [h]
  exact ⟨rfl, rfl⟩

/-- The token of XCTL. -/
theorem ofNat_b2n (b : Bool) : BitVec.ofNat 256 (b2n b) = if b then 1 else 0 := by cases b <;> rfl

/-- Settles O20. -/
theorem tokensSent : Obligations.TokensSent := by
  unfold Obligations.TokensSent
  intro s k g port src idx inc unit pa beat step c p i isl h hg hd hplace data ctl xsend xctl c1 held
  have hp : Sends s k src ((s.cell k).rs idx) beat step := sends_of_place hplace
  have hport : p < 4 := port.isLt
  have hdec : (XOp.send port src idx inc).decodeFault (isMemCell k) = none := hp.decodes
  have hblock (hw : s.sendWaits k p = false) (w : HWord) : blockX (s.updCell k (fun c => c.holding w)) k (.send port src idx inc) = [] := by
    rw [blockX_send hp.still]
    exact if_neg (not_of_eq_false hw)
  have hblockc (hw : s.sendWaits k p = false) (w : HWord) : blockX (s.updCell k (fun c => c.holding w)) k (.ctl port pa unit) = [] :=
    if_neg (not_of_eq_false hw)
  have hctl (hf : s.fenced k p = false) (w : HWord) : evalX (s.updCell k (fun c => c.holding w)) k (.ctl port pa unit) =
      { writes := [] ++ [] ++ postInc (s.cell k) 0 false false, acts := [.send p ctl] } := by
    unfold evalX
    dsimp only
    rw [h.sendFault_none w hd hf, h.cell_holding]
    dsimp only
    rw [ofNat_b2n] <;> rfl
  refine ⟨fun k' hl hf hfull => ⟨?_, ?_⟩, fun k' lat hl => ?_, fun hf => ⟨?_, ?_⟩, fun k' hl hf hfull => ⟨⟨_, rfl, ?_⟩, ⟨_, rfl, ?_⟩⟩⟩
  · have hw : s.sendWaits k p = false := (State.sendWaits_eq hf).trans hfull
    have hx := h.sends_crossing hg (op := .send port src idx inc) rfl hdec (hblock hw _) (h.evalSend_sends _ hd hf hp) hl
    rw [← hp.step] at hx
    exact hx
  · have hw : s.sendWaits k p = false := (State.sendWaits_eq hf).trans hfull
    have hx := h.sends_crossing hg (op := .ctl port pa unit) rfl rfl (hblockc hw _) (hctl hf _) hl
    rw [Cell.bumped_off] at hx
    exact hx
  · obtain ⟨hf, hfull⟩ := State.not_fenced_inside hl
    obtain ⟨-, -, -, hlat⟩ := State.link_inside h.here hport hl
    have hw : s.sendWaits k p = false := (State.sendWaits_eq hf).trans hfull
    intro wired
    refine ⟨?_, ?_⟩
    · obtain ⟨t, he, hx⟩ := h.sends_inside hg (op := .send port src idx inc) rfl hdec (hblock hw _) (h.evalSend_sends _ hd hf hp) hport hl
      rw [← hp.step, hlat] at hx
      exact ⟨t, congrArg Host.Outcome.next he, hx⟩
    · obtain ⟨t, he, hx⟩ := h.sends_inside hg (op := .ctl port pa unit) rfl rfl (hblockc hw _) (hctl hf _) hport hl
      rw [Cell.bumped_off, hlat] at hx
      exact ⟨t, congrArg Host.Outcome.next he, hx⟩
  · exact h.x_fault hg rfl hdec (hblock (State.sendWaits_of_fenced hf) _) (congrArg SlotOut.fault (evalSend_fenced (s := s.updCell k _) hf))
  · refine h.x_fault hg rfl rfl (hblockc (State.sendWaits_of_fenced hf) _) ?_
    unfold evalX
    dsimp only
    rw [State.sendFault_fenced (s := s.updCell k _) hf] <;> rfl
  · refine h.x_stalls hg (.inl rfl) rfl hdec ?_
    rw [blockX_send hp.still]
    exact if_pos ((State.sendWaits_eq hf).trans hfull)
  · exact h.x_stalls hg (.inl rfl) rfl rfl (if_pos ((State.sendWaits_eq hf).trans hfull))

end Sys2Proof.Machine

/-! SUPPORT. XRECV from a crossing FIFO, and its stalls and faults (R124, R127, R224, R232). -/

namespace Sys2Proof.Machine

open Sys2Proof

/-- A place that a receive may write, its step of the index register, and what a token writes. -/
structure Receives (s : State) (k : CellRef) (dst : BitVec 8) (i : Word) (step : Word) (write : Token → PW) : Prop where
  still : stillPlace dst
  decodes : placeFault (isMemCell k) [dst] = none
  fault : s.placeFault k (placeOf dst) i true = none
  writes : ∀ t, writePlace (placeOf dst) i (placeOf dst == .sram) 2 (leBytes 32 t.payload.toNat) (some t.seat) = ([(2, write t)], [])
  plain : ∀ t, (write t).isZero = false
  step : step = if placeOf dst == .sram then 32 else 1

theorem receives_of_place {s : State} {k : CellRef} {dst : BitVec 8} {i : Word} {step : Word} {write : Token → PW}
    (h : (isMemCell k = false ∧ unitPlace dst ∧ step = 1 ∧ write = fun t => unitWrite dst i.toNat (leBytes 32 t.payload.toNat)) ∨
      (dst = 0x38 ∧ i.toNat % 32 = 0 ∧ i.toNat + 32 ≤ sramSize k ∧ step = 32 ∧
        write = fun t => .sram i.toNat (leBytes 32 t.payload.toNat) (some t.seat))) : Receives s k dst i step write := by
  rcases h with ⟨hm, hu, rfl, rfl⟩ | ⟨rfl, ha, hr, rfl, rfl⟩
  · refine ⟨.inl hu, ?_, placeFault_unit hu _ _, fun t => ?_, fun t => unitWrite_isZero _ _ _, ?_⟩
    · simp [Machine.placeFault, placeOk_unit hu, hm]
    · rw [placeOf_unit_ne_sram hu, writePlace_unit hu]
      rfl
    · rw [placeOf_unit_ne_sram hu]
      rfl
  · refine ⟨.inr rfl, ?_, placeFault_sram ⟨ha, hr⟩, fun t => rfl, fun t => rfl, rfl⟩
    cases isMemCell k <;> rfl

/-- A receive waits for a head alone. -/
theorem blockX_recv {s : State} {k : CellRef} {port : BitVec 2} {dst : BitVec 8} {idx : BitVec 5} {inc : Bool} (hs : stillPlace dst) :
    blockX s k (.recv dst port idx inc) = if s.headMissing k port.toNat then [3] else [] := by
  unfold blockX
  dsimp only
  rw [(waits_still hs _).2]
  exact List.append_nil _

theorem evalRecv_fenced {s : State} {k : CellRef} {dst : BitVec 8} {port : Nat} {idx : BitVec 5} {inc : Bool} (hf : s.fenced k port = true) :
    evalRecv s k dst port idx inc = .bad K.ePortFenced := if_pos hf

/-- What a receive evaluates to at a port that is not fenced. -/
theorem evalRecv_open {s : State} {k : CellRef} {dst : BitVec 8} {port : Nat} {idx : BitVec 5} {inc : Bool} {step : Word} {write : Token → PW}
    (hf : s.fenced k port = false) (hp : Receives s k dst ((s.cell k).rs idx) step write) :
    evalRecv s k dst port idx inc = match s.recvTok k port with
      | none => .bad K.eLinkUnderrun
      | some t => { writes := [] ++ [(2, write t)] ++ postInc (s.cell k) idx inc (placeOf dst == .sram), acts := [.take port] } := by
  unfold evalRecv
  dsimp only
  rw [if_neg (not_of_eq_false hf), hp.fault]
  dsimp only
  cases s.recvTok k port with
  | none => rfl
  | some t =>
    dsimp only
    rw [hp.writes]
    rfl

theorem Receives.congr {s s' : State} {k : CellRef} {dst : BitVec 8} {i step : Word} {write : Token → PW} (h : Receives s k dst i step write)
    (he : s'.placeFault k (placeOf dst) i true = s.placeFault k (placeOf dst) i true) : Receives s' k dst i step write :=
  { h with fault := he.trans h.fault }

section
variable {s : State} {k : CellRef} {p : Nat}

theorem State.isCrossing_of {k' : CellRef} (hl : s.link k p = .crossing k') : s.isCrossing k p = true := by
  unfold State.isCrossing
  rw [hl]

theorem State.isCrossing_inside {k' : CellRef} {lat : Nat} (hl : s.link k p = .inside k' lat) : s.isCrossing k p = false := by
  unfold State.isCrossing
  rw [hl]

/-- The data token at the head of a crossing FIFO that feeds no steering unit. -/
theorem State.recvTok_head {t : Token} (hx : s.isCrossing k p = true) (hs : s.steerFed k p = []) (hh : s.fifoHead k p = some t) (hk : t.kind = false) :
    s.recvTok k p = some t := by
  unfold State.recvTok
  rw [if_pos hx, hh]
  simp [hk, hs]

theorem State.recvTok_empty (hx : s.isCrossing k p = true) (hf : s.fifo k p = []) : s.recvTok k p = none := by
  have hh : s.fifoHead k p = none := by
    unfold State.fifoHead
    rw [hf]
    simp [staleHeads]
  unfold State.recvTok
  rw [if_pos hx, hh]

theorem State.headMissing_some {t : Token} (h : s.recvTok k p = some t) : s.headMissing k p = false := by
  unfold State.headMissing
  rw [h]
  simp

theorem State.headMissing_inside (h : s.isCrossing k p = false) : s.headMissing k p = false := by
  unfold State.headMissing
  rw [h]
  rfl

theorem State.headMissing_fenced (h : s.fenced k p = true) : s.headMissing k p = false := by
  unfold State.headMissing
  rw [h]
  simp

end

section
variable {s : State} {k : CellRef} (h : Quiet s k)
include h

theorem Quiet.updCell_self : s.updCell k (fun _ => s.cell k) = s := State.setCell_cell h.1.1 k

theorem Quiet.receives_holding {dst : BitVec 8} {i step : Word} {write : Token → PW} (hp : Receives s k dst i step write) (w : HWord) :
    Receives (s.updCell k (fun c => c.holding w)) k dst i step write := hp.congr (h.placeFault_holding w _ _ _)

/-- The head of a FIFO leaves it: apart from the FIFO nothing outside the islands changes. -/
theorem Quiet.acted_headTaken (w : HWord) (p : Nat) (rest : List Token) :
    Acted (s.updCell k (fun c => c.holding w)) (s.setFifo k p rest) ((s.updCell k (fun c => c.holding w)).headTaken k p rest) k
      ((s.cell k).holding w) := by
  have hc := h.1.1.updCell k (fun c => c.holding w)
  have hm : ((s.updCell k (fun c => c.holding w)).setFifo k p rest).Canon := (Keeps.setFifo (Keeps.refl _)).canon hc
  refine ⟨State.headTaken_canon hm p rest, h.cell_holding w, fun _ _ => rfl, fun i hi => State.isl_setIsl_other hm _ hi, ?_, rfl, rfl, rfl⟩
  have hi : ((s.updCell k (fun c => c.holding w)).headTaken k p rest).isl k.isl =
      { (s.updCell k (fun c => c.holding w)).isl k.isl with pops := ((s.updCell k (fun c => c.holding w)).isl k.isl).pops ++ [(k.c, p)] } :=
    State.isl_setIsl hm _ _
  rw [hi]
  rfl

end

section
variable {s : State} {k : CellRef} {g : BitVec 4} {port : BitVec 2} {dst : BitVec 8} {idx : BitVec 5} {inc : Bool} {step : Word}
  {write : Token → PW} (h : Quiet s k) (hp : Receives s k dst ((s.cell k).rs idx) step write) (hg : (s.cell k).guard g = true)
include h hp

/-- What a receive evaluates to in the state in which its word is held. -/
theorem Quiet.evalX_recv (w : HWord) (hf : s.fenced k port.toNat = false) :
    evalX (s.updCell k (fun c => c.holding w)) k (.recv dst port idx inc) =
      match (s.updCell k (fun c => c.holding w)).recvTok k port.toNat with
      | none => .bad K.eLinkUnderrun
      | some t => { writes := [] ++ [(2, write t)] ++ postInc (s.cell k) idx inc (placeOf dst == .sram), acts := [.take port.toNat] } := by
  have hr : Receives (s.updCell k (fun c => c.holding w)) k dst (((s.updCell k (fun c => c.holding w)).cell k).rs idx) step write := by
    rw [h.cell_holding]
    exact h.receives_holding hp w
  have he := evalRecv_open (s := s.updCell k (fun c => c.holding w)) (inc := inc) (port := port.toNat) hf hr
  rw [h.cell_holding] at he
  exact he

include hg

/-- A receive from a crossing FIFO. -/
theorem Quiet.recv_head {k' : CellRef} {t : Token} {rest : List Token} (hpops : (s.isl k.isl).pops = [])
    (hl : s.link k port.toNat = .crossing k') (hf : s.fenced k port.toNat = false) (hs : s.steerFed k port.toNat = [])
    (hq : s.fifo k port.toNat = t :: rest) (he : t.epoch = (s.isl k.isl).epoch) (hk : t.kind = false) :
    IssuesWith s (s.setFifo k port.toNat rest) k (exec (.xrecv k g dst port idx inc) s)
      (((s.cell k).stepped.bumped idx inc step).inFlight ((s.isl k.isl).sched + 2) (write t)) := by
  have hx : s.isCrossing k port.toNat = true := State.isCrossing_of hl
  have htok (w : HWord) : (s.updCell k (fun c => c.holding w)).recvTok k port.toNat = some t := by
    have hpops' : ((s.updCell k (fun c => c.holding w)).isl k.isl).pops = [] := hpops
    exact State.recvTok_head (s := s.updCell k (fun c => c.holding w)) hx hs
      (State.fifoHead_current (s := s.updCell k (fun c => c.holding w)) hq he (by rw [hpops']; rfl)) hk
  have hissue := h.x_acts (fly := [(2, write t)]) (d := s.cell k) (u := s.setFifo k port.toNat rest) hg (op := .recv dst port idx inc) rfl
    hp.decodes ?_ ((h.evalX_recv hp _ hf).trans (by rw [htok])) ?_ ?_ (h.acted_headTaken _ port.toNat rest) (Cell.Like.refl _)
  · rw [← hp.step] at hissue
    exact hissue
  · rw [blockX_recv hp.still, State.headMissing_some (htok _)]
    rfl
  · intro x hm
    rw [List.mem_singleton.mp hm]
    exact ⟨Nat.le_refl 2, hp.plain t⟩
  · refine (?_ : (s.updCell k _).act k [] (.take port.toNat) = _)
    unfold State.act
    dsimp only
    rw [if_pos (show (s.updCell k _).isCrossing k port.toNat = true from hx)]
    exact (if_neg (by simp)).trans (State.popFifo_current (s := s.updCell k _) hq he)

/-- A receive from an empty FIFO. -/
theorem Quiet.recv_stalls {k' : CellRef} (hl : s.link k port.toNat = .crossing k') (hf : s.fenced k port.toNat = false)
    (hq : s.fifo k port.toNat = []) : ∃ t, exec (.xrecv k g dst port idx inc) s = .next t ∧
      Stalled (s.setCell k { s.cell k with held := some { xg := g, x := .recv dst port idx inc } }) t k.isl 3 := by
  have hx : s.isCrossing k port.toNat = true := State.isCrossing_of hl
  refine ⟨_, rfl, h.x_stalls hg (.inl rfl) rfl hp.decodes ?_⟩
  rw [blockX_recv hp.still]
  refine if_pos ?_
  unfold State.headMissing
  rw [State.recvTok_empty (s := s.updCell k _) hx hq, show (s.updCell k _).isCrossing k port.toNat = true from hx,
    show (s.updCell k _).fenced k port.toNat = false from hf]
  rfl

/-- A receive on an inside port without a token. -/
theorem Quiet.recv_underrun {k' : CellRef} {lat : Nat} (hl : s.link k port.toNat = .inside k' lat) :
    Faults s k (exec (.xrecv k g dst port idx inc) s) K.eLinkUnderrun 3 (s.cell k).pc := by
  have hx : s.isCrossing k port.toNat = false := State.isCrossing_inside hl
  refine h.x_fault hg rfl hp.decodes ?_ ?_
  · rw [blockX_recv hp.still, State.headMissing_inside (s := s.updCell k _) hx]
    rfl
  · rw [h.evalX_recv hp _ (State.not_fenced_inside hl).1]
    have hn (w : HWord) : (s.updCell k (fun c => c.holding w)).recvTok k port.toNat = none := by
      unfold State.recvTok
      rw [if_neg (by rw [show (s.updCell k (fun c => c.holding w)).isCrossing k port.toNat = false from hx]; exact Bool.false_ne_true)]
      unfold State.usableTok
      rw [h.cell_holding, show ((s.cell k).holding w).wires = [] from h.stands.wires]
      rfl
    rw [hn]
    rfl

/-- A receive on a fenced port. -/
theorem Quiet.recv_fenced (hf : s.fenced k port.toNat = true) :
    Faults s k (exec (.xrecv k g dst port idx inc) s) K.ePortFenced 3 (s.cell k).pc := by
  refine h.x_fault hg rfl hp.decodes ?_ (congrArg SlotOut.fault (evalRecv_fenced (s := s.updCell k _) hf))
  rw [blockX_recv hp.still, State.headMissing_fenced (s := s.updCell k _) hf]
  rfl

end

end Sys2Proof.Machine

/-! SUPPORT. An island cycle from the words that are presented, and its close at a cell that ran before its word did (R109, R127). -/

namespace Sys2Proof.Machine

open Sys2Proof

/-- One island cycle in which one word issues and nothing else acts. -/
theorem State.cycle_word {p : State} {k : CellRef} {o : WordOut} (hi : k.isl < 192) (hl : p.islFaulted k.isl = false)
    (hb : p.blockClasses k.isl = []) (ho : p.openCycle k.isl = p) (hw : p.outcomes k.isl = [(k, o)]) (hf : o.fault = none)
    (hbub : ∀ c, c < p.cellCount k.isl → (p.cell ⟨k.isl, c⟩).bubble = false) :
    p.cycle k.isl = State.closeCycle p (p.issueWord k o) k.isl p.gtime := by
  have hc : (p.islCells k.isl).foldl (fun s k => s.consumeBubble k) p = p := by
    rw [State.islCells_foldl]
    exact foldl_fixed _ _ _ (fun c hc => if_neg (not_of_eq_false (hbub c (List.mem_range.mp hc))))
  unfold State.cycle
  rw [if_neg (fun h => h.elim (Nat.not_le.mpr hi) (not_of_eq_false hl)), hb]
  unfold State.schedCycle
  rw [ho]
  dsimp only
  rw [hw, hc]
  simp only [hf, List.filter_cons, List.filter_nil, Option.isNone_none, if_true, List.foldl_cons, List.foldl_nil, List.filterMap_cons,
    List.filterMap_nil, Option.map_none, State.recordFaults, List.isEmpty_cons, List.isEmpty_nil, Bool.false_eq_true, if_false]

/-- A cycle of a state that differs in cell k alone. -/
theorem Cycled.of_setCell {s t : State} {k : CellRef} {c c' : Cell} (hs : s.Canon) (h : Cycled (s.setCell k c) (s.setCell k c) t k c') :
    Cycled s s t k c' := by
  obtain ⟨h1, h2, h3, h4, h5, h6⟩ := h
  refine ⟨h1, fun j hj => (h2 j hj).trans (State.cell_setCell_other hs c hj), h3, h4, h5, ?_⟩
  have e := congrArg (fun x : State => x.outside s) h6
  exact e

/-- The close of a cycle that began with another state x of cell k, which its word has made d's successor. -/
theorem Stands.closes {s : State} {k : CellRef} {c d x : Cell} {w : HWord} {o : WordOut} (h : Stands (s.setCell k c) k) (hs : s.Canon)
    (hrun : d.run = .running) (hwires : d.wires = []) (hsteer : d.steer = []) (hpend : d.pend = [])
    (hown : ∀ y ∈ o.writes, y.1 ≤ 1 → y.2.isOwn = true) :
    Ends (s.setCell k x) (s.setCell k (d.issued o (s.isl k.isl).sched)) k ∧
      Cycled s s (State.closeCycle (s.setCell k x) (s.setCell k (d.issued o (s.isl k.isl).sched)) k.isl s.gtime) k
        ((d.issued o (s.isl k.isl).sched).landed ((s.isl k.isl).sched + 1)) := by
  obtain ⟨n1, n2, n3, n4⟩ := Cell.foldNow o.now d
  have hq : s.setCell k (d.issued o (s.isl k.isl).sched) =
      ((s.setCell k c).updCell k (fun c => c.holding w)).updCell k (fun _ => d.issued o (s.isl k.isl).sched) := by
    have e : (s.setCell k c).updCell k (fun c => c.holding w) = (s.setCell k c).setCell k (((s.setCell k c).cell k).holding w) := rfl
    rw [e, State.setCell_setCell hs]
    exact (State.setCell_setCell hs _ _ _).symm
  have hi := h.issuedAs (w := w) rfl hq (n3.trans hrun) (n1.trans hwires) (n4.trans hsteer)
  have hx : IssuedAs (s.setCell k c) (s.setCell k c) (s.setCell k x) (s.setCell k (d.issued o (s.isl k.isl).sched)) k
      (d.issued o (s.isl k.isl).sched) := by
    refine { hi with ends := { hi.ends with runs := fun j hj hne => ?_, str := rfl } }
    rw [State.cell_setCell_other hs _ (gid_ne hne), State.cell_setCell_other hs _ (gid_ne hne)]
  refine ⟨hx.ends, Cycled.of_setCell (c := c) hs ?_⟩
  have hset := State.settle_due (State.count_canon hx.ends.canon k.isl s.gtime) k (fun y hy hd => by
    rw [State.cell_count, hx.cell] at hy
    rw [hx.sched] at hd
    have hm : y ∈ (o.now.foldl Cell.applyPW d).pend ++ o.writes.map (fun w => (⟨(s.isl k.isl).sched + w.1, w.2⟩ : Pend)) := hy
    rw [n2, hpend, List.nil_append] at hm
    obtain ⟨z, hz, rfl⟩ := List.mem_map.mp hm
    have hd' : (s.isl k.isl).sched + z.1 ≤ (s.isl k.isl).sched + 1 := hd
    exact hown z hz (by omega))
  rw [hx.sched, State.cell_count, hx.cell] at hset
  generalize hst : ((s.setCell k (d.issued o (s.isl k.isl).sched)).count k.isl s.gtime).settle k = st at hset
  have hS := hset.settled (k := k) (s2 := s.setCell k (d.issued o (s.isl k.isl).sched))
  refine hx.cycled (u' := s.setCell k c) hst ⟨hS.canon, hS.self, hS.other, hS.isls, hS.regs, hS.fuses, ?_⟩
    (by rw [Cell.landed_run]; exact n3.trans hrun)
  have e := congrArg (fun y : State => y.outside (s.setCell k c)) hS.rest
  exact e.trans hx.rest

/-- Tokens that have been taken are gone at the end of their cycle. -/
theorem Ends.closeCycle_taken {b x : State} {k : CellRef} {l : List Wire} {n : Word} (h : Ends b x k)
    (hl : ∀ w ∈ l, w.usable ≤ (x.isl k.isl).sched ∧ w.seen = true) :
    State.closeCycle b (x.wired k l) k.isl n = State.closeCycle b x k.isl n := by
  have hself : (x.wired k l).cell k = { x.cell k with wires := l } := State.cell_wired h.canon
  have hclose : (x.wired k l).closeWires k = x := by
    unfold State.closeWires
    rw [hself, show (x.wired k l).isl k.isl = x.isl k.isl from rfl]
    dsimp only
    by_cases he : l = []
    · rw [he]
      have hw : (x.cell k).wires = [] := (h.wires k.c h.idx).1
      have hx : x.wired k [] = x.setCell k (x.cell k) := by
        unfold State.wired State.updCell
        dsimp only
        rw [← hw]
      exact hx.trans (State.setCell_cell h.canon k)
    · rw [if_neg (by simp [he])]
      have hf : l.filter (fun w => decide ((x.isl k.isl).sched < w.usable)) = [] :=
        List.filter_eq_nil_iff.mpr (fun w hw => by simpa using (hl w hw).1)
      have ha : l.any (fun w => decide (w.usable ≤ (x.isl k.isl).sched) && !w.seen) = false :=
        List.any_eq_false.mpr (fun w hw => by simp [(hl w hw).2])
      rw [if_neg (not_of_eq_false ha)]
      have hw : (x.cell k).wires = [] := (h.wires k.c h.idx).1
      unfold State.wired
      rw [State.updCell_updCell h.canon]
      have hx : x.updCell k (fun z => { ({ z with wires := l } : Cell) with
          wires := ({ z with wires := l } : Cell).wires.filter (fun w => decide ((x.isl k.isl).sched < w.usable)) }) = x.setCell k (x.cell k) := by
        unfold State.updCell
        dsimp only
        rw [hf, ← hw]
      exact hx.trans (State.setCell_cell h.canon k)
  have hother (j : Nat) (hj : j < x.cellCount k.isl) (hne : j ≠ k.c) : (x.wired k l).closeWires ⟨k.isl, j⟩ = x.wired k l := by
    unfold State.closeWires
    rw [State.cell_wired_other h.canon (gid_ne hne), (h.wires j hj).1]
    rfl
  have h1 : ((x.wired k l).islCells k.isl).foldl (fun s k => s.closeWires k) (x.wired k l) = x := by
    rw [State.islCells_foldl, show (x.wired k l).cellCount k.isl = x.cellCount k.isl from rfl, foldl_one _ _ _ k.c h.idx hother]
    · exact hclose
    · intro j hj hne
      rw [show (x.wired k l).closeWires ⟨k.isl, k.c⟩ = x from hclose]
      unfold State.closeWires
      rw [(h.wires j hj).1]
      rfl
  have h2 : (x.islCells k.isl).foldl (fun s k => s.closeWires k) x = x := (State.closeLinks h.wires).1
  unfold State.closeCycle
  dsimp only
  rw [h1, h2]
  rfl

end Sys2Proof.Machine

/-! SUPPORT. XRECV from an inside link: the token on the wire (R124, R127, R219). -/

namespace Sys2Proof.Machine

open Sys2Proof

/-- A data token on the wire of an inside port, usable in this schedule cycle, that neither a route nor a unit takes. -/
structure OnWire (p0 : State) (k : CellRef) (port : Nat) (t : Token) : Prop where
  data : t.kind = false
  routes : p0.routeOuts k port = []
  fed : p0.steerFed k port = []

/-- The wire that holds it. -/
def wireOf (s : State) (k : CellRef) (port : Nat) (t : Token) : Wire := ⟨port, t, (s.isl k.isl).sched, false⟩

section
variable {p0 : State} {k : CellRef} {w : HWord} {port : Nat} {t : Token} (h : Presents p0 k w) (ht : OnWire p0 k port t)
include h

theorem Presents.cell_wired : (p0.wired k [wireOf p0 k port t]).cell k = { p0.cell k with wires := [wireOf p0 k port t] } :=
  State.cell_wired h.canon

theorem Presents.cell_wired_other {c : Nat} (hne : c ≠ k.c) : (p0.wired k [wireOf p0 k port t]).cell ⟨k.isl, c⟩ = p0.cell ⟨k.isl, c⟩ :=
  State.cell_wired_other h.canon (gid_ne hne)

theorem Presents.presented_wired (c : Nat) : ((p0.wired k [wireOf p0 k port t]).cell ⟨k.isl, c⟩).presented = (p0.cell ⟨k.isl, c⟩).presented :=
  State.part_wired (g := Cell.presented) h.canon (fun _ => rfl) _

theorem Presents.outcomes_wired : (p0.wired k [wireOf p0 k port t]).outcomes k.isl = [(k, evalWord (p0.wired k [wireOf p0 k port t]) k w)] := by
  unfold State.outcomes State.islCells
  rw [List.filterMap_map, show (p0.wired k [wireOf p0 k port t]).cellCount k.isl = p0.cellCount k.isl from rfl, filterMap_one _ _ k.c h.idx]
  · change (match ((p0.wired k [wireOf p0 k port t]).cell ⟨k.isl, k.c⟩).presented with | none => _ | some w => _ : Option _).toList = _
    rw [h.presented_wired, show (p0.cell ⟨k.isl, k.c⟩).presented = some w from h.presented]
    have hpc : ¬ imemWords k ≤ ((p0.wired k [wireOf p0 k port t]).cell k).pc := by
      rw [h.cell_wired]
      exact Nat.not_le.mpr h.pc
    dsimp only
    rw [if_neg hpc]
    rfl
  · intro j hj hne
    have := (h.word j hj).2.2 hne
    simp [h.presented_wired, this]

include ht

theorem Presents.arrivals_wired : (p0.wired k [wireOf p0 k port t]).arrivals k = p0.wired k [wireOf p0 k port t] := by
  have hcan : (p0.wired k [wireOf p0 k port t]).Canon := h.canon.wired
  have hw : ((p0.wired k [wireOf p0 k port t]).cell k).wires = [wireOf p0 k port t] := by rw [h.cell_wired]
  have htake (q : State) (hr : q.routeOuts k port = []) (hf : q.steerFed k port = []) : q.arriveTok k port t = (q, false) := by
    unfold State.arriveTok State.forward
    rw [if_neg (not_of_eq_false ht.data)]
    dsimp only
    rw [hr, hf]
    rfl
  have hlist (q : State) (hr : q.routeOuts k port = []) (hf : q.steerFed k port = []) :
      arriveList k (p0.isl k.isl).sched [wireOf p0 k port t] q = (q, [wireOf p0 k port t]) := by
    unfold arriveList wireOf
    rw [if_pos ⟨rfl, Bool.false_ne_true⟩]
    dsimp only
    rw [htake q hr hf]
    dsimp only
    rw [if_neg (not_of_eq_false ht.data)]
    rfl
  unfold State.arrivals
  rw [hw, show (p0.wired k [wireOf p0 k port t]).isl k.isl = p0.isl k.isl from rfl]
  dsimp only
  rw [hlist ((p0.wired k [wireOf p0 k port t]).updCell k (fun c => { c with wires := [] })) ht.routes ht.fed]
  refine (if_neg Bool.false_ne_true).trans ?_
  dsimp only
  rw [State.updCell_updCell hcan]
  unfold State.wired
  rw [State.updCell_updCell h.canon]
  rfl

theorem Presents.opened_wired : (p0.wired k [wireOf p0 k port t]).openCycle k.isl = p0.wired k [wireOf p0 k port t] := by
  have hpart {β : Type} {g : Cell → β} (hg : ∀ z : Cell, g { z with wires := [wireOf p0 k port t] } = g z) (c : CellRef) :
      g ((p0.wired k [wireOf p0 k port t]).cell c) = g (p0.cell c) := State.part_wired h.canon hg c
  have h1 : ((p0.wired k [wireOf p0 k port t]).islCells k.isl).foldl (fun s k => s.intakeStep k) (p0.wired k [wireOf p0 k port t]) =
      p0.wired k [wireOf p0 k port t] := by
    rw [State.islCells_foldl]
    refine foldl_fixed _ _ _ (fun c hc => ?_)
    have hi : ((p0.wired k [wireOf p0 k port t]).cell ⟨k.isl, c⟩).sieve.intake = [] :=
      (hpart (g := fun z => z.sieve.intake) (fun _ => rfl) _).trans (h.calm.2 c (List.mem_range.mp hc)).2.1
    simp [State.intakeStep, hi]
  have h2 : (p0.wired k [wireOf p0 k port t]).deliverHeads k.isl = p0.wired k [wireOf p0 k port t] := by
    unfold State.deliverHeads
    rw [State.islCells_foldl]
    refine foldl_fixed _ _ _ (fun c hc => foldl_fixed _ _ _ (fun q hq => if_neg (not_of_eq_false ?_)))
    exact (h.calm.2 c (List.mem_range.mp hc)).2.2 q (List.mem_range.mp hq)
  have h3 : ((p0.wired k [wireOf p0 k port t]).islCells k.isl).foldl (fun s k => s.arrivals k) (p0.wired k [wireOf p0 k port t]) =
      p0.wired k [wireOf p0 k port t] := by
    rw [State.islCells_foldl]
    refine foldl_fixed _ _ _ (fun c hc => ?_)
    by_cases e : c = k.c
    · subst e
      exact h.arrivals_wired ht
    · have hw : ((p0.wired k [wireOf p0 k port t]).cell ⟨k.isl, c⟩).wires = [] := by
        rw [h.cell_wired_other e]
        exact (h.word c (List.mem_range.mp hc)).1
      simp [State.arrivals, hw]
  have h4 : ((p0.wired k [wireOf p0 k port t]).islCells k.isl).foldl (fun s k => s.fireAll k) (p0.wired k [wireOf p0 k port t]) =
      p0.wired k [wireOf p0 k port t] := by
    rw [State.islCells_foldl]
    refine foldl_fixed _ _ _ (fun c hc => State.fireAll_noControl (Cell.noControl_nil ?_))
    exact (hpart (g := Cell.steer) (fun _ => rfl) _).trans (h.calm.2 c (List.mem_range.mp hc)).1
  unfold State.openCycle
  simp only [h1, h2, h3, h4]

theorem Presents.fireBlocked_wired (c : Nat) (hc : c < p0.cellCount k.isl) : (p0.wired k [wireOf p0 k port t]).fireBlocked ⟨k.isl, c⟩ = false := by
  have hst : ((p0.wired k [wireOf p0 k port t]).cell ⟨k.isl, c⟩).steer = [] :=
    (State.part_wired (g := Cell.steer) h.canon (fun _ => rfl) _).trans (h.calm.2 c hc).1
  have hw (r : Wire) (hr : r ∈ ((p0.wired k [wireOf p0 k port t]).cell ⟨k.isl, c⟩).wires) : r.tok.kind = false := by
    by_cases e : c = k.c
    · subst e
      rw [show (p0.wired k [wireOf p0 k port t]).cell ⟨k.isl, k.c⟩ = _ from h.cell_wired] at hr
      rw [List.mem_singleton.mp hr]
      exact ht.data
    · rw [h.cell_wired_other e, (h.word c hc).1] at hr
      exact absurd hr nofun
  have ha (q : Nat) : (p0.wired k [wireOf p0 k port t]).arriving ⟨k.isl, c⟩ q true = [] := by
    unfold State.arriving
    rw [List.filter_eq_nil_iff.mpr (fun r hr => by simp [hw r hr])]
    rfl
  unfold State.fireBlocked
  split
  · rfl
  · rw [List.any_eq_false]
    intro q hq
    obtain ⟨h1, h2⟩ := Cell.noControl_nil hst q (List.mem_range.mp hq)
    simp [h1, h2, ha, State.switchFires, State.mergeFires]

theorem Presents.unblocked_wired (hp : p0.pullsAt k (p0.cell k).pc = [])
    (hx : blockX (p0.wired k [wireOf p0 k port t]) k w.x = []) : (p0.wired k [wireOf p0 k port t]).blockClasses k.isl = [] := by
  unfold State.blockClasses State.islCells
  rw [List.flatMap_eq_nil_iff]
  intro x hx'
  obtain ⟨c, hc, rfl⟩ := List.mem_map.mp hx'
  have hc := List.mem_range.mp hc
  have hf := h.fireBlocked_wired ht c hc
  have ha : (p0.wired k [wireOf p0 k port t]).arrivalBlocked ⟨k.isl, c⟩ = false := by
    unfold State.arrivalBlocked
    rw [List.any_eq_false]
    intro r hr
    by_cases e : c = k.c
    · subst e
      rw [show (p0.wired k [wireOf p0 k port t]).cell ⟨k.isl, k.c⟩ = _ from h.cell_wired] at hr
      have hb : (p0.wired k [wireOf p0 k port t]).forwardBlocked ⟨k.isl, k.c⟩ (wireOf p0 k port t).port = false := by
        unfold State.forwardBlocked
        rw [show (p0.wired k [wireOf p0 k port t]).routeOuts ⟨k.isl, k.c⟩ (wireOf p0 k port t).port = [] from ht.routes]
        rfl
      rw [List.mem_singleton.mp hr]
      simp [hb]
    · rw [h.cell_wired_other e, (h.word c hc).1] at hr
      exact absurd hr nofun
  dsimp only
  rw [ha, hf]
  by_cases e : c = k.c
  · subst e
    rw [h.presented_wired, show (p0.cell ⟨k.isl, k.c⟩).presented = some w from h.presented]
    have hpulls : (p0.wired k [wireOf p0 k port t]).pullsAt k ((p0.wired k [wireOf p0 k port t]).cell k).pc = [] := by
      rw [h.cell_wired]
      exact hp
    dsimp only
    rw [hpulls, hx]
    simp
  · rw [h.presented_wired, (h.word c hc).2.2 e]
    rfl

/-- The island cycle in which the cell's word issues with the token on its wire. -/
theorem Presents.cycle_wired {o : WordOut} (hp : p0.pullsAt k (p0.cell k).pc = [])
    (hx : blockX (p0.wired k [wireOf p0 k port t]) k w.x = []) (ho : evalWord (p0.wired k [wireOf p0 k port t]) k w = o) (hf : o.fault = none) :
    (p0.wired k [wireOf p0 k port t]).cycle k.isl = State.closeCycle (p0.wired k [wireOf p0 k port t])
      ((p0.wired k [wireOf p0 k port t]).issueWord k o) k.isl p0.gtime :=
  State.cycle_word h.isl h.live (h.unblocked_wired ht hp hx) (h.opened_wired ht) (ho ▸ h.outcomes_wired) hf (fun c hc =>
    (State.part_wired (g := Cell.bubble) h.canon (fun _ => rfl) _).trans (h.word c hc).2.1)

end

end Sys2Proof.Machine

/-! SUPPORT. What XRECV does (R124, R127, R219, R224, R232). -/

namespace Sys2Proof.Machine

open Sys2Proof

/-- A word whose writes all come later writes nothing at once. -/
theorem WordOut.now_ofSlot {out : SlotOut} {base : WordOut} (h : ∀ x ∈ out.writes, x.1 ≠ 0) : (WordOut.ofSlot out base).now = [] := by
  unfold WordOut.ofSlot
  dsimp only
  rw [List.map_eq_nil_iff, List.filter_eq_nil_iff]
  intro x hx
  simpa using h x (List.mem_of_mem_filter hx)

/-- The data token usable on an inside port. -/
theorem State.recvTok_wire {s : State} {k : CellRef} {port : Nat} {t : Token} (hx : s.isCrossing k port = false)
    (hw : (s.cell k).wires = [⟨port, t, (s.isl k.isl).sched, false⟩]) (hk : t.kind = false) : s.recvTok k port = some t := by
  unfold State.recvTok
  rw [if_neg (not_of_eq_false hx)]
  unfold State.usableTok
  rw [hw]
  simp [hk]

/-- What a receive of the token of an inside port does, x being the write of its bytes. -/
def recvSlot (c : Cell) (port : Nat) (idx : BitVec 5) (inc sram : Bool) (x : PW) : SlotOut :=
  { writes := [] ++ [(2, x)] ++ postInc c idx inc sram, acts := [.take port] }

/-- The word of a receive once it has been evaluated. -/
def recvOut (c : Cell) (w : HWord) (port : Nat) (idx : BitVec 5) (inc sram : Bool) (x : PW) : WordOut :=
  WordOut.ofSlot (recvSlot c port idx inc sram x) ((c.holding w).nextOf .seq)

section
variable {c : Cell} {w : HWord} {port : Nat} {idx : BitVec 5} {inc sram : Bool} {x : PW}

theorem mem_recvSlot {y : Nat × PW} (hy : y ∈ (recvSlot c port idx inc sram x).writes) : y.1 = 2 ∨ (y.1 = 1 ∧ y.2.isOwn = true) := by
  rcases List.mem_append.mp hy with hm | hm
  · rw [List.mem_singleton.mp hm]
    exact .inl rfl
  · exact .inr ⟨(mem_postInc hm).1, (mem_postInc hm).2.2.2⟩

theorem recvOut_now : (recvOut c w port idx inc sram x).now = [] := WordOut.now_ofSlot (fun y hm => by
  rcases mem_recvSlot hm with e | ⟨e, -⟩ <;> rw [e] <;> decide)

theorem recvOut_own {y : Nat × PW} (hy : y ∈ (recvOut c w port idx inc sram x).writes) (h : y.1 ≤ 1) : y.2.isOwn = true := by
  rcases mem_recvSlot (mem_ofSlot_writes _ _ y hy) with e | ⟨-, e⟩
  · omega
  · exact e

/-- Behind the word of a receive: its write is in flight, and the index has moved on. -/
theorem Cell.after_recv (h5 : c.held = none) (h6 : c.bubble = false) (h7 : c.pend = []) (hx : x.isZero = false) (sched : Nat) :
    ((c.holding w).issued (recvOut c w port idx inc sram x) sched).landed (sched + 1) =
      (c.stepped.bumped idx inc (if sram then 32 else 1)).inFlight (sched + 2) x := by
  have h := Cell.after_mixed h5 h6 h7 w (recvSlot c port idx inc sram x) rfl sched (now := []) (fly := [(2, x)]) (one := postInc c idx inc sram)
    rfl nofun (fun y hm => by rw [List.mem_singleton.mp hm]) (by simp [hx])
    (fun y hm => ⟨(mem_postInc hm).1, (mem_postInc hm).2.1, (mem_postInc hm).2.2.1⟩)
  rw [List.map_nil, List.foldl_nil, postInc_bumped c c.stepped rfl] at h
  exact h

end

section
variable {s : State} {k : CellRef} {c : Cell} {p : Nat} {t : Token} (hs : s.Canon)
  (hc : s.cell k = { c with wires := [⟨p, t, (s.isl k.isl).sched, false⟩] })
include hs hc

theorem State.cell_wire_holding (w : HWord) : (s.updCell k (fun c => c.holding w)).cell k =
    ({ c with wires := [⟨p, t, (s.isl k.isl).sched, false⟩] } : Cell).holding w := by
  rw [State.cell_updCell hs, hc]

/-- A state with a token on a wire of cell k, and the one without it. -/
theorem State.wired_holding (w : HWord) : s.updCell k (fun c => c.holding w) = ((s.setCell k c).updCell k (fun c => c.holding w)).wired k
    [wireOf ((s.setCell k c).updCell k (fun c => c.holding w)) k p t] := by
  have e1 : s.updCell k (fun c => c.holding w) = s.setCell k ((s.cell k).holding w) := rfl
  have e2 : (s.setCell k c).updCell k (fun c => c.holding w) = s.setCell k (((s.setCell k c).cell k).holding w) := State.setCell_setCell hs k _ _
  have e3 : (s.setCell k (c.holding w)).wired k [wireOf (s.setCell k (c.holding w)) k p t] =
      (s.setCell k (c.holding w)).setCell k
        { (s.setCell k (c.holding w)).cell k with wires := [⟨p, t, (s.isl k.isl).sched, false⟩] } := rfl
  rw [e1, e2, State.cell_setCell hs, e3, State.setCell_setCell hs, State.cell_setCell hs, hc]
  rfl

/-- The word issues: the wire's token is taken. -/
theorem State.issueWord_recv (hx : s.isCrossing k p = false) (hk : t.kind = false) (w : HWord) (idx : BitVec 5) (inc sram : Bool) (x : PW) :
    (s.updCell k (fun c => c.holding w)).issueWord k (recvOut c w p idx inc sram x) =
      (s.setCell k ((c.holding w).issued (recvOut c w p idx inc sram x) (s.isl k.isl).sched)).wired k [⟨p, t, (s.isl k.isl).sched, true⟩] := by
  have hnow : (recvOut c w p idx inc sram x).now = [] := recvOut_now
  have hacts : (recvOut c w p idx inc sram x).acts = [.take p] := rfl
  have hpulls : (recvOut c w p idx inc sram x).pulls = [] := rfl
  have hstop : (recvOut c w p idx inc sram x).stop = false := rfl
  generalize recvOut c w p idx inc sram x = o at *
  have htake : (s.updCell k (fun c => c.holding w)).act k [] (.take p) = (s.updCell k (fun c => c.holding w)).takeWire k p :=
    if_neg (not_of_eq_false (show (s.updCell k (fun c => c.holding w)).isCrossing k p = false from hx))
  unfold State.issueWord
  simp only [hpulls, hacts, hstop, hnow, List.foldl_nil, List.foldl_cons, Bool.false_eq_true, if_false]
  rw [htake]
  unfold State.takeWire
  rw [State.updCell_updCell hs, State.updCell_updCell hs]
  unfold State.wired State.updCell
  rw [hc, State.cell_setCell hs, State.setCell_setCell hs]
  unfold Cell.issued
  rw [hnow]
  refine congrArg (s.setCell k) ?_
  simp only [Cell.holding, List.map_cons, List.map_nil, List.foldl_nil, hk]
  simp

end

section
variable {s : State} {k : CellRef} {g : BitVec 4} {port : BitVec 2} {dst : BitVec 8} {idx : BitVec 5} {inc : Bool} {c : Cell} {step : Word}
  {write : Token → PW} (hs : s.Canon) (h : Quiet (s.setCell k c) k) (hg : c.guard g = true)
  (hp : ∀ s : State, Receives s k dst (c.rs idx) step write) {t : Token}
  (hc : s.cell k = { c with wires := [⟨port.toNat, t, (s.isl k.isl).sched, false⟩] })
include hs h hc

/-- A cell that runs alone but for the token on its wire takes a word. -/
theorem Quiet.drive_wire (op : XOp) (ho : op.silent = true) :
    drive k { xg := g, x := op } s = (s.updCell k (fun c => c.holding { xg := g, x := op })).cycle k.isl := by
  obtain ⟨⟨-, h1, h2, h3, ht, h4, h5, h6, -⟩, -⟩ := id h
  rw [State.cell_setCell hs] at h4 h5 h6
  have hl : s.islFaulted k.isl = false := h3
  have hd : s.drivable k = true := by
    unfold State.drivable State.cellExists
    rw [hl, hc]
    simp [h1, show k.c < s.cellCount k.isl from h2, h4]
  have hr : (s.cell k).ready = true := by
    rw [hc]
    simp [Cell.ready, h5, h6]
  have hn : (s.cell k).held ≠ some { xg := g, x := op } := by
    rw [hc]
    simp [h5]
  unfold drive
  rw [if_neg (not_not.mpr hd), if_neg hn]
  dsimp only
  rw [if_pos hr, if_pos ⟨hd, hr⟩, present_x g op ho]

include hg hp

/-- What the word of a receive evaluates to where the token is on the wire. -/
theorem Quiet.evalWord_wire {k' : CellRef} {lat : Nat} (hl : s.link k port.toNat = .inside k' lat) (hk : t.kind = false) :
    evalWord (s.updCell k (fun c => c.holding { xg := g, x := .recv dst port idx inc })) k { xg := g, x := .recv dst port idx inc } =
      recvOut c { xg := g, x := .recv dst port idx inc } port.toNat idx inc (placeOf dst == .sram) (write t) := by
  obtain ⟨⟨-, -, -, -, -, -, -, -, h7, -⟩, -, h10, h11⟩ := id h
  rw [State.cell_setCell hs] at h7 h10 h11
  have hcell := State.cell_wire_holding hs hc { xg := g, x := .recv dst port idx inc }
  have htok : (s.updCell k (fun c => c.holding { xg := g, x := .recv dst port idx inc })).recvTok k port.toNat = some t :=
    State.recvTok_wire (s := s.updCell k (fun c => c.holding { xg := g, x := .recv dst port idx inc })) (State.isCrossing_inside hl)
      (congrArg Cell.wires hcell) hk
  have hr : Receives (s.updCell k (fun c => c.holding { xg := g, x := .recv dst port idx inc })) k dst
      (((s.updCell k (fun c => c.holding { xg := g, x := .recv dst port idx inc })).cell k).rs idx) step write := by
    rw [hcell]
    exact hp _
  have he := evalRecv_open (s := s.updCell k (fun c => c.holding { xg := g, x := .recv dst port idx inc })) (inc := inc) (port := port.toNat)
    (State.not_fenced_inside hl).1 hr
  rw [htok, hcell] at he
  exact evalWord_x (g := g) (op := .recv dst port idx inc) hcell h7 h11 h10 hg (hp s).decodes he rfl

/-- A receive of the token on the wire of an inside port. -/
theorem Quiet.recv_wire {k' : CellRef} {lat : Nat} (hl : s.link k port.toNat = .inside k' lat) (hk : t.kind = false)
    (hr : s.routeOuts k port.toNat = []) (hf : s.steerFed k port.toNat = []) :
    Issues s k (exec (.xrecv k g dst port idx inc) s) ((c.stepped.bumped idx inc step).inFlight ((s.isl k.isl).sched + 2) (write t)) := by
  have hx : s.isCrossing k port.toNat = false := State.isCrossing_inside hl
  have ho := h.evalWord_wire (inc := inc) hs hg hp hc hl hk
  have hdrive := h.drive_wire (g := g) hs hc (.recv dst port idx inc) rfl
  have hblock : blockX (s.updCell k (fun c => c.holding { xg := g, x := .recv dst port idx inc })) k
      ({ xg := g, x := .recv dst port idx inc } : HWord).x = [] := by
    change blockX _ k (.recv dst port idx inc) = []
    rw [blockX_recv (hp s).still, State.headMissing_inside (s := s.updCell k _) hx]
    rfl
  have hst : Stands (s.setCell k c) k := h.stands
  have hsteer := (hst.calm.2 k.c hst.idx).1
  have hpend := h.1.2.2.2.2.2.2.2.2.1
  obtain ⟨-, -, -, -, -, h4, h5, h6, h8, -, -, -, h10⟩ := id hst
  rw [State.cell_setCell hs] at h4 h5 h6 h8 h10 hsteer hpend
  generalize hw : ({ xg := g, x := .recv dst port idx inc } : HWord) = w at *
  have hpw := State.wired_holding hs hc w
  have hcy := (h.presents w).cycle_wired (t := t) (port := port.toNat)
    (o := recvOut c w port.toNat idx inc (placeOf dst == .sram) (write t)) ⟨hk, hr, hf⟩ (by rw [h.cell_holding, State.cell_setCell hs]; exact h10)
    (by rw [← hpw]; exact hblock) (by rw [← hpw]; exact ho) rfl
  rw [← hpw] at hcy
  obtain ⟨hends, hland⟩ := hst.closes (x := (s.cell k).holding w) (d := c.holding w) (w := w)
    (o := recvOut c w port.toNat idx inc (placeOf dst == .sram) (write t)) hs h4 h8 hsteer hpend (fun y hy hy1 => recvOut_own hy hy1)
  have hclose := hends.closeCycle_taken (l := [⟨port.toNat, t, (s.isl k.isl).sched, true⟩]) (n := s.gtime) (fun y hy => by
    rw [List.mem_singleton.mp hy]
    exact ⟨Nat.le_refl _, rfl⟩)
  have he : exec (.xrecv k g dst port idx inc) s = .next (drive k w s) := hw ▸ rfl
  refine ⟨_, he, ?_⟩
  rw [hdrive, hcy, State.issueWord_recv hs hc hx hk, (hp s).step, ← Cell.after_recv h5 h6 hpend ((hp s).plain t)]
  exact hclose.symm ▸ hland

end

/-- Settles O21. -/
theorem tokensReceived : Obligations.TokensReceived := by
  unfold Obligations.TokensReceived
  intro s k g port dst idx inc c step write p isl i h hg hs hpops hplace r got
  have hp (x : State) : Receives x k dst (c.rs idx) step write := receives_of_place hplace
  have hself (hc : s.cell k = c) : s.setCell k c = s := hc ▸ State.setCell_cell hs k
  refine ⟨fun k' t rest hc hl hf hsf hq he hk => ?_, fun k' lat t hc hl hk hr hsf => h.recv_wire hs hg hp hc hl hk hr hsf,
    fun k' hc hl hf hq => ?_, fun k' lat hc hl => ?_, fun hc hf => ?_⟩
  · rw [hself hc] at h
    subst hc
    exact h.recv_head (hp s) hg hpops hl hf hsf hq he hk
  · rw [hself hc] at h
    subst hc
    exact h.recv_stalls (hp s) hg hl hf hq
  · rw [hself hc] at h
    subst hc
    exact h.recv_underrun (hp s) hg hl
  · rw [hself hc] at h
    subst hc
    exact h.recv_fenced (hp s) hg hf

end Sys2Proof.Machine

/-! SUPPORT. What a sync port's look at its map leaves (R297, R310): memory's errors are counted in the error and dealer blocks alone. -/

namespace Sys2Proof.Machine

open Sys2Proof

/-- A register of neither the error block nor the dealer's. -/
def quietReg (a : Nat) : Prop := ∀ d o, o < 0x100000 → a ≠ blkReg d .err o ∧ a ≠ blkReg d .dlr o

theorem quietReg_islReg {i o : Nat} (hi : i < 192) (ho : o < 0x100000) : quietReg (islReg i o) := by
  intro d o' ho'
  have hne (b : Block) : islReg i o ≠ blkReg d b o' := by
    obtain ⟨h1, h2, h3⟩ := islReg_lt hi ho
    have hb : 0x07000000 ≤ b.off ∧ b.off + 0x100000 < 0x10000000 := by cases b <;> decide
    obtain ⟨hb1, hb2⟩ := hb
    unfold ctlBase at h1 h2
    unfold blkReg ctlBase
    omega
  exact ⟨hne _, hne _⟩

theorem quietReg_blkReg {b : Block} {d o : Nat} (he : b ≠ .err) (hd : b ≠ .dlr) (ho : o < 0x100000) : quietReg (blkReg d b o) :=
  fun _ _ ho' => ⟨blkReg_ne he ho ho', blkReg_ne hd ho ho'⟩

/-- t is s after a look at memory: nothing has changed but memory, its upsets, the error registers, the dealers' events, the notes of
tables and what the sync ports keep. -/
structure Looked (s t : State) : Prop where
  canon : t.Canon
  rest : { t with mem := s.mem, bad := s.bad, regs := s.regs, events := s.events, tbls := s.tbls, slb := s.slb } = s
  regs : ∀ a, quietReg a → t.reg a = s.reg a

section
variable {s t : State}

theorem Looked.refl (h : s.Canon) : Looked s s := ⟨h, rfl, fun _ _ => rfl⟩

theorem Looked.setReg (h : Looked s t) {a : Nat} {v : Word} (ha : ∀ b, quietReg b → b ≠ a) : Looked s (t.setReg a v) := by
  refine ⟨h.canon.setReg _ _, h.rest, fun b hb => ?_⟩
  rw [State.reg_setReg h.canon, if_neg (ha b hb)]
  exact h.regs b hb

theorem Looked.setErr (h : Looked s t) {d o : Nat} {v : Word} (ho : o < 0x100000) : Looked s (t.setReg (blkReg d .err o) v) :=
  h.setReg (fun _ hb => (hb d o ho).1)

theorem Looked.same {u : State} (h : Looked s t) (hk : u.Canon)
    (hr : { u with mem := t.mem, bad := t.bad, regs := t.regs, events := t.events, tbls := t.tbls, slb := t.slb } = t)
    (hg : u.regs = t.regs) : Looked s u := by
  refine ⟨hk, ?_, fun a ha => ?_⟩
  · have e := congrArg (fun x : State => { x with mem := s.mem, bad := s.bad, regs := s.regs, events := s.events, tbls := s.tbls, slb := s.slb }) hr
    exact e.trans h.rest
  · unfold State.reg
    rw [hg]
    exact h.regs a ha

theorem State.OffMemory.looked {u : State} (h : t.OffMemory u) :
    { u with mem := t.mem, bad := t.bad, regs := t.regs, events := t.events, tbls := t.tbls, slb := t.slb } = t := by
  have e := congrArg (fun x : State => { x with slb := t.slb }) (show _ = t from h)
  exact e

theorem State.regs_noteFail (s : State) (e : DEvent) : (s.noteFail e).regs = s.regs := by
  unfold State.noteFail
  split
  · split <;> rfl
  · split <;> rfl
  · rfl

theorem Looked.raise (h : Looked s t) {die : Nat} {e : DEvent} : Looked s (t.raise die e) := by
  have h1 : Looked s (t.dealerSees die) := by
    rw [State.dealerSees_eq]
    exact h.setReg (fun b hb => (hb die 0 (by decide)).2)
  refine h1.same ((Keeps.raise (Keeps.refl t)).canon h.canon) ?_ ?_
  · rw [State.raise_def]
    exact State.OffMemory.looked (.events (.noteFail (.refl _)))
  · rw [State.raise_def]
    exact State.regs_noteFail _ _

theorem Looked.ceEvent (h : Looked s t) {die cls pa : Nat} : Looked s (t.ceEvent die cls pa) := by
  unfold State.ceEvent
  dsimp only
  refine Looked.setErr (Looked.setErr (Looked.setErr h (by decide)) ?_) (by decide)
  have hi (x : State) (r : Nat) : x.fld r 5 0 < 64 := by
    unfold State.fld
    rw [field_toNat]
    exact Nat.mod_lt _ (by decide)
  have := hi (t.satFld (R.errCe die)
    ((if cls = 0 then 0 else if cls = 1 then 12 else if cls = 2 then 24 else if cls ≤ 5 then 36 else 48) + 11)
    (if cls = 0 then 0 else if cls = 1 then 12 else if cls = 2 then 24 else if cls ≤ 5 then 36 else 48) 1) (R.errCepos die)
  omega

theorem Looked.ueEvent (h : Looked s t) {die cls pa table : Nat} : Looked s (t.ueEvent die cls pa table) := by
  unfold State.ueEvent
  exact Looked.raise (Looked.setErr (Looked.setErr (Looked.setErr h (by decide)) (by decide)) (by decide))

theorem Looked.wrN (h : Looked s t) {a : Nat} {bs : List Byte} : Looked s (t.wrN a bs) :=
  h.same ((Keeps.wrN (Keeps.refl t)).canon h.canon) rfl rfl

theorem Looked.setUpset (h : Looked s t) {a : Nat} {u : Upset} : Looked s (t.setUpset a u) :=
  h.same ((Keeps.setUpset (Keeps.refl t)).canon h.canon) rfl rfl

theorem Looked.readBlock (h : Looked s t) {die cls table a : Nat} {u : Upset} : Looked s (t.readBlock die cls table a u).1 := by
  unfold State.readBlock
  extract_lets u' cs
  split
  · exact h.wrN.setUpset
  · extract_lets bs
    exact h.wrN.setUpset.ceEvent
  · exact h.setUpset.ueEvent

theorem Looked.foldl {f : State → Nat → State} (hf : ∀ t a, Looked s t → Looked s (f t a)) {l : List Nat} :
    ∀ {t}, Looked s t → Looked s (l.foldl f t) := by
  induction l with
  | nil => exact fun h => h
  | cons a l ih => exact fun h => ih (hf _ a h)

theorem Looked.readBlocks (h : Looked s t) {table : Nat} {l : List Nat} : Looked s (t.readBlocks table l) :=
  .foldl (fun _ _ h1 => .readBlock h1) h

theorem Looked.slb (h : Looked s t) {l : List SyncTlb} : Looked s { t with slb := l } :=
  h.same ((Keeps.same (Keeps.refl t) rfl).canon h.canon) rfl rfl

theorem looked_syncLearn (h : s.Canon) (ag die t : Nat) (id : Word) : Looked s (s.syncLearn ag die t id) := by
  unfold State.syncLearn
  split
  · exact .refl h
  · split
    · exact .refl h
    · extract_lets a s1
      have h1 : Looked s s1 := (Looked.refl h).readBlocks
      split
      · exact h1.slb
      · exact h1

end

end Sys2Proof.Machine

/-! SUPPORT. Synchronisation instructions: the request goes out, the word waits, the word issues (R313, R314, R322). -/

namespace Sys2Proof.Machine

open Sys2Proof

theorem quietReg_cellReg {k : CellRef} {o : Nat} (hi : k.isl < 192) (hc : k.c < 16) (ho : o < 0x1000) : quietReg (cellReg k o) :=
  quietReg_islReg hi (by omega)

section
variable {p q : State} {k : CellRef} {w : HWord} (hregs : ∀ a, quietReg a → q.reg a = p.reg a)
include hregs

theorem State.pullsAt_quiet (hi : k.isl < 192) (hk : k.c < 16) (pc : Nat) : q.pullsAt k pc = p.pullsAt k pc := by
  unfold State.pullsAt
  refine List.filterMap_congr (fun i hm => ?_)
  have hi8 := List.mem_range.mp hm
  dsimp only
  rw [hregs (R.cellPull k i) (quietReg_cellReg hi hk (by omega))]

theorem State.steerFed_quiet (hi : k.isl < 192) (hk : k.c < 16) (r : Nat) : q.steerFed k r = p.steerFed k r := by
  unfold State.steerFed
  refine List.flatMap_congr (fun i hm => ?_)
  have hi4 := List.mem_range.mp hm
  have e : q.steerCfg k i = p.steerCfg k i := hregs (R.cellSteer k i) (quietReg_cellReg hi hk (by omega))
  dsimp only
  rw [e]

/-- A state with the same cells, islands, fuses and FIFOs presents the same word. -/
theorem Presents.same (h : Presents p k w) (hc : q.Canon) (hcells : q.cells = p.cells) (hisls : q.isls = p.isls) (hfus : q.fuses = p.fuses)
    (hfifos : q.fifos = p.fifos) : Presents q k w := by
  have hcell (j : CellRef) : q.cell j = p.cell j := congrArg (fun m => SMap.get Cell.dflt m (gid j)) hcells
  have hisl (i : Nat) : q.isl i = p.isl i := congrArg (fun m => SMap.get Isl.dflt m i) hisls
  have hcnt : q.cellCount k.isl = p.cellCount k.isl := State.cellCount_congr hfus _
  have hlive : q.islFaulted k.isl = p.islFaulted k.isl := by
    unfold State.islFaulted State.scanHeld State.tripped
    rw [hisl, State.fld_congr (hregs (R.islSeq k.isl) (quietReg_islReg h.isl (by decide))),
      State.fld_congr (hregs (R.tblState 0 (p.isl k.isl).table) (quietReg_blkReg (by decide) (by decide) (by have := h.tbl; omega))),
      hregs (R.telTemp 0) (quietReg_blkReg (by decide) (by decide) (by decide)),
      hregs (R.telTemp 1) (quietReg_blkReg (by decide) (by decide) (by decide))]
  refine ⟨hc, h.isl, hcnt ▸ h.idx, hlive ▸ h.live, hisl k.isl ▸ h.tbl, hcell k ▸ h.run, hcell k ▸ h.held, hcell k ▸ h.bub, hcell k ▸ h.wires,
    hcell k ▸ h.pc, ⟨hisl k.isl ▸ h.calm.1, fun c hl => ?_⟩, fun c hl hne => hcell ⟨k.isl, c⟩ ▸ h.others c (hcnt ▸ hl) hne⟩
  rw [hcnt] at hl
  obtain ⟨h1, h2, h3⟩ := h.calm.2 c hl
  refine ⟨hcell ⟨k.isl, c⟩ ▸ h1, hcell ⟨k.isl, c⟩ ▸ h2, fun r hr => (?_ : _ = p.headSteers ⟨k.isl, c⟩ r).trans (h3 r hr)⟩
  have hfifo : q.fifo ⟨k.isl, c⟩ r = p.fifo ⟨k.isl, c⟩ r := by
    unfold State.fifo
    rw [hfifos]
  unfold State.headSteers State.fifoHead
  dsimp only
  rw [hisl, hfifo, State.steerFed_quiet (k := ⟨k.isl, c⟩) hregs h.isl (lt_of_lt_of_le hl (p.cellCount_le _))]

end

/-- The wait for an answer changes nothing of what a cell presents. -/
theorem Presents.waiting {p : State} {k : CellRef} {w : HWord} (h : Presents p k w) (x : SyncPort) :
    Presents (p.updCell k (fun c => { c with sync := x })) k w := by
  have hself : (p.updCell k (fun c => { c with sync := x })).cell k = { p.cell k with sync := x } := State.cell_updCell h.canon _ _
  have hpart {β : Type} {g : Cell → β} (hg : ∀ z : Cell, g { z with sync := x } = g z) (j : CellRef) :
      g ((p.updCell k (fun c => { c with sync := x })).cell j) = g (p.cell j) := State.part_updCell h.canon (hg _) j
  refine ⟨h.canon.updCell _ _, h.isl, h.idx, h.live, h.tbl, ?_, ?_, ?_, ?_, ?_, ⟨h.calm.1, fun c hl => ?_⟩, fun c hl hne => ?_⟩
  · rw [hself]; exact h.run
  · rw [hself]; exact h.held
  · rw [hself]; exact h.bub
  · rw [hself]; exact h.wires
  · rw [hself]; exact h.pc
  · obtain ⟨h1, h2, h3⟩ := h.calm.2 c hl
    exact ⟨(hpart (g := Cell.steer) (fun _ => rfl) _).trans h1, (hpart (g := fun z => z.sieve.intake) (fun _ => rfl) _).trans h2, h3⟩
  · rw [State.cell_updCell_other h.canon _ (gid_ne hne)]
    exact h.others c hl hne

/-- A packet that is no multicast changes the mesh alone when it enters it. -/
theorem State.enter_plain (s : State) {rest : List Packet} {p : Packet} (h : p.mc = false) : ∃ l, s.enter rest p = { s with mesh := l } := by
  unfold State.enter
  dsimp only
  rw [if_neg (not_of_eq_false h)]
  split
  · exact ⟨_, rfl⟩
  · exact ⟨_, rfl⟩

theorem State.inject_plain (s : State) {p : Packet} (h : p.mc = false) : ∃ l, s.inject p = { s with mesh := l } := by
  unfold State.inject
  split
  · exact State.enter_plain s h
  · exact ⟨s.mesh, rfl⟩

/-- The packet that carries a request to its home. -/
def SyncReq.packet (r : SyncReq) : Packet := { Packet.mk0 r.who.agent (homeAgent r.home) .sync with
  len := 8, data := leBytes 8 r.value.toNat, syncId := r.id, cmd := r.cmd, table := r.table, arg := r.arg,
  addr := (match r.home with | .sram k w => sramBase k + 8 * w | .window _ _ => 0) }

theorem State.sendSync_eq (s : State) (r : SyncReq) : s.sendSync r =
    if localHome r.who r.home then { s with syncs := s.syncs ++ [{ r with stage := .atHome }] }
    else { s with syncs := s.syncs ++ [{ r with stage := .travelling }] }.inject r.packet := rfl

/-- Sending a request changes the mesh and the requests alone. -/
theorem State.sendSync_rest (s : State) (r : SyncReq) : ∃ l m, s.sendSync r = { s with syncs := l, mesh := m } := by
  rw [State.sendSync_eq]
  split
  · exact ⟨_, s.mesh, rfl⟩
  · obtain ⟨m, hm⟩ := State.inject_plain { s with syncs := s.syncs ++ [{ r with stage := .travelling }] } (p := r.packet) rfl
    exact ⟨_, m, hm⟩

end Sys2Proof.Machine

/-! SUPPORT. The synchronisation instructions, presented, waiting and answered (R313, R314, R322). -/

namespace Sys2Proof.Machine

open Sys2Proof

theorem syncTimed_eq (v : SyncV) (rb : BitVec 5) : syncTimed v rb = decide (v ≠ SyncV.rset ∧ rb ≠ 0) := by
  unfold syncTimed
  rw [Bool.decide_and]
  simp [bne, beq_eq_decide]

/-- The word of a synchronisation instruction. -/
def syncWord (g : BitVec 4) (v : SyncV) (rd ra rb : BitVec 5) (pd : BitVec 3) : HWord := { xg := g, x := .sync v rd ra rb pd }

/-- The state of cell k's island when its sync port has looked the identifier up. -/
def State.asked (s : State) (k : CellRef) (w : HWord) (id : Word) : State :=
  (s.updCell k (fun c => c.holding w)).syncLearn (islAgent k.isl) (islDie k.isl) (s.isl k.isl).table id

/-- The request of a synchronisation instruction. -/
def State.syncAsk (s0 : State) (k : CellRef) (c : Cell) (v : SyncV) (rd rb : BitVec 5) (t : Nat) (home : Home) : SyncReq :=
  { id := s0.syncNext, who := .cell (gid k), v := v, home := home,
    value := if v = SyncV.rset then (c.rs rb) &&& 0xFFFF else c.rs rd, timed := decide (v ≠ SyncV.rset ∧ rb ≠ 0),
    deadline := if v ≠ SyncV.rset ∧ rb ≠ 0 then s0.gtime + c.rs rb else 0, table := t,
    cmd := s0.ecmd t, early := false, ruled := false, expired := false, stage := .travelling }

section
variable {s : State} {k : CellRef} {g : BitVec 4} {v : SyncV} {rd ra rb : BitVec 5} {pd : BitVec 3} (h : Quiet s k)
  (hg : (s.cell k).guard g = true)
include h

theorem Quiet.looked (w : HWord) (id : Word) : Looked (s.updCell k (fun c => c.holding w)) (s.asked k w id) :=
  looked_syncLearn (h.1.1.updCell _ _) _ _ _ _

theorem Quiet.cell_asked (w : HWord) (id : Word) : (s.asked k w id).cell k = (s.cell k).holding w := by
  have e := congrArg State.cells (h.looked w id).rest
  change (s.asked k w id).cells = _ at e
  rw [← h.cell_holding w]
  exact congrArg (fun m => SMap.get Cell.dflt m (gid k)) e

/-- The state in which the request is on its way. -/
theorem Quiet.presents_asking {w : HWord} {id : Word} {r : SyncReq} {p : State}
    (hp : p = ({ s.asked k w id with syncNext := (s.asked k w id).syncNext + 1 }.setCell k ((s.cell k).asking w (s.asked k w id).syncNext)).sendSync r) :
    Presents p k w ∧ p.cell k = (s.cell k).asking w (s.asked k w id).syncNext ∧ p.pullsAt k (s.cell k).pc = [] := by
  have hL := h.looked w id
  have hrest := hL.rest
  have hcells : (s.asked k w id).cells = (s.updCell k (fun c => c.holding w)).cells := by
    have e := congrArg State.cells hrest
    exact e
  have hcan : ({ s.asked k w id with syncNext := (s.asked k w id).syncNext + 1 } : State).Canon := (Keeps.same (Keeps.refl _) rfl).canon hL.canon
  have hpc : p.Canon := by
    rw [hp]
    exact (Keeps.sendSync (Keeps.refl _)).canon (hcan.setCell _ _)
  obtain ⟨l, m, he⟩ := State.sendSync_rest ({ s.asked k w id with syncNext := (s.asked k w id).syncNext + 1 }.setCell k
    ((s.cell k).asking w (s.asked k w id).syncNext)) r
  rw [← hp] at he
  have hregs (a : Nat) (ha : quietReg a) : p.reg a = s.reg a := by
    rw [he]
    exact hL.regs a ha
  have hP := (h.presents w).waiting (.waiting (s.asked k w id).syncNext)
  have hcells' : p.cells = ((s.updCell k (fun c => c.holding w)).updCell k (fun c => { c with sync := .waiting (s.asked k w id).syncNext })).cells := by
    have e1 : p.cells = SMap.set Cell.dflt (s.asked k w id).cells (gid k) ((s.cell k).asking w (s.asked k w id).syncNext) := by
      rw [he]
      rfl
    have e2 : ((s.updCell k (fun c => c.holding w)).updCell k (fun c => { c with sync := .waiting (s.asked k w id).syncNext })).cells =
        SMap.set Cell.dflt (s.updCell k (fun c => c.holding w)).cells (gid k)
          { (s.updCell k (fun c => c.holding w)).cell k with sync := .waiting (s.asked k w id).syncNext } := rfl
    rw [e1, e2, hcells, h.cell_holding]
    rfl
  refine ⟨hP.same (by exact hregs) hpc hcells' ?_ ?_ ?_, ?_, (State.pullsAt_quiet hregs h.stands.isl h.idx_lt _).trans h.stands.pulls⟩
  · rw [he]
    have e := congrArg State.isls hrest
    exact e
  · rw [he]
    have e := congrArg State.fuses hrest
    exact e
  · rw [he]
    have e := congrArg State.fifos hrest
    exact e
  · rw [he]
    exact State.cell_setCell hcan _ _

include hg

/-- A synchronisation instruction that is presented for the first time asks, and its word waits. -/
theorem Quiet.sync_asks (hn : (s.cell k).sync = .none) {home : Home}
    (hh : (s.asked k (syncWord g v rd ra rb pd) ((s.cell k).rs ra)).syncTrans (islAgent k.isl) (islDie k.isl) (s.isl k.isl).table ((s.cell k).rs ra) = .ok home)
    {s0 : State} (hs0 : s0 = s.asked k (syncWord g v rd ra rb pd) ((s.cell k).rs ra)) :
    Stalled (({ s0 with syncNext := s0.syncNext + 1 }.setCell k ((s.cell k).asking (syncWord g v rd ra rb pd) s0.syncNext)).sendSync
      (s0.syncAsk k (s.cell k) v rd rb (s.isl k.isl).table home)) (drive k (syncWord g v rd ra rb pd) s) k.isl 5 := by
  generalize hp : ({ s0 with syncNext := s0.syncNext + 1 }.setCell k ((s.cell k).asking (syncWord g v rd ra rb pd) s0.syncNext)).sendSync
      (s0.syncAsk k (s.cell k) v rd rb (s.isl k.isl).table home) = p
  have hpres : s.present k (syncWord g v rd ra rb pd) = p := by
    have hlive : (s.updCell k (fun c => c.holding (syncWord g v rd ra rb pd))).liveX k (syncWord g v rd ra rb pd) = true := by
      unfold State.liveX
      rw [h.cell_holding]
      exact (Bool.and_true _).trans hg
    have hpc : ((s.updCell k (fun c => c.holding (syncWord g v rd ra rb pd))).cell k).pc < imemWords k := by
      rw [h.cell_holding]
      exact h.2.1
    have e : s.present k (syncWord g v rd ra rb pd) =
        (s.updCell k (fun c => c.holding (syncWord g v rd ra rb pd))).presentX k (.sync v rd ra rb pd) := if_pos ⟨hpc, hlive⟩
    rw [e]
    unfold State.presentX
    dsimp only
    rw [h.cell_holding, show ((s.cell k).holding (syncWord g v rd ra rb pd)).sync = .none from hn]
    dsimp only
    have hh' : ((s.updCell k (fun c => c.holding (syncWord g v rd ra rb pd))).syncLearn (islAgent k.isl) (islDie k.isl)
        ((s.updCell k (fun c => c.holding (syncWord g v rd ra rb pd))).isl k.isl).table (((s.cell k).holding (syncWord g v rd ra rb pd)).rs ra)) = s0 :=
      hs0.symm
    rw [hh', show s0.syncTrans (islAgent k.isl) (islDie k.isl) ((s.updCell k (fun c => c.holding (syncWord g v rd ra rb pd))).isl k.isl).table
      (((s.cell k).holding (syncWord g v rd ra rb pd)).rs ra) = .ok home from hs0 ▸ hh]
    dsimp only
    have hupd : ({ s0 with syncNext := s0.syncNext + 1 } : State).updCell k (fun c => { c with sync := .waiting s0.syncNext }) =
        ({ s0 with syncNext := s0.syncNext + 1 } : State).setCell k ((s.cell k).asking (syncWord g v rd ra rb pd) s0.syncNext) := by
      have hc : ({ s0 with syncNext := s0.syncNext + 1 } : State).cell k = (s.cell k).holding (syncWord g v rd ra rb pd) := by
        rw [hs0]
        exact h.cell_asked _ _
      unfold State.updCell
      rw [hc]
      rfl
    rw [hupd, ← hp]
    refine congrArg (State.sendSync _) ?_
    unfold State.syncAsk
    simp only [syncTimed_eq, decide_eq_true_eq]
    rfl
  obtain ⟨hP, hcell, hpull⟩ := h.presents_asking (w := syncWord g v rd ra rb pd) (id := (s.cell k).rs ra) (p := p) (by rw [← hs0]; exact hp.symm)
  rw [h.drive_eq, hpres]
  refine hP.stalled (.inr (.inr rfl)) (by rw [hcell]; exact hpull) ?_ ?_
  · unfold State.liveX
    rw [hcell]
    exact (Bool.and_true _).trans hg
  · unfold blockX syncWord
    dsimp only
    rw [hcell]
    rfl

end

/-- A word that the cell holds already is presented once more. -/
theorem Presents.drive_held {s : State} {k : CellRef} {w : HWord} (hP : Presents s k w) : drive k w s = s.cycle k.isl := by
  have hd : s.drivable k = true := by
    unfold State.drivable State.cellExists
    rw [hP.live, hP.run]
    simp [hP.isl, hP.idx]
  unfold drive
  rw [if_neg (not_not.mpr hd), if_pos hP.held]

section
variable {s : State} {k : CellRef} {g : BitVec 4} {v : SyncV} {rd ra rb : BitVec 5} {pd : BitVec 3} {c : Cell} (hs : s.Canon)
  (h : Quiet (s.setCell k c) k) (hg : c.guard g = true)
include hs h

/-- A word that waits for its answer, or has it, is presented. -/
theorem Quiet.presents_held {w : HWord} {x : SyncPort} (hc : s.cell k = { c with held := some w, sync := x }) : Presents s k w := by
  have e1 : (s.setCell k c).updCell k (fun c => c.holding w) = s.setCell k (((s.setCell k c).cell k).holding w) := State.setCell_setCell hs k _ _
  have e2 : ((s.setCell k c).updCell k (fun c => c.holding w)).updCell k (fun c => { c with sync := x }) = s := by
    rw [e1, State.cell_setCell hs]
    have e3 : (s.setCell k (c.holding w)).updCell k (fun c => { c with sync := x }) =
        s.setCell k { (s.setCell k (c.holding w)).cell k with sync := x } := State.setCell_setCell hs k _ _
    rw [e3, State.cell_setCell hs, ← State.setCell_cell hs k, hc]
    exact State.setCell_setCell hs k _ _
  have hP := (h.presents w).waiting x
  rwa [e2] at hP

theorem Quiet.pulls_held {w : HWord} {x : SyncPort} (hc : s.cell k = { c with held := some w, sync := x }) :
    s.pullsAt k (s.cell k).pc = [] := by
  have e := h.2.2.1
  rw [State.cell_setCell hs] at e
  rw [hc]
  exact e

include hg

/-- A word whose request waits stalls again. -/
theorem Quiet.sync_waits {id : Nat} (hc : s.cell k = { c with held := some (syncWord g v rd ra rb pd), sync := .waiting id }) :
    Stalled s (drive k (syncWord g v rd ra rb pd) s) k.isl 5 := by
  have hP := h.presents_held hs hc
  rw [hP.drive_held]
  refine hP.stalled (.inr (.inr rfl)) (h.pulls_held hs hc) ?_ ?_
  · unfold State.liveX
    rw [hc]
    exact (Bool.and_true _).trans hg
  · unfold blockX syncWord
    dsimp only
    rw [hc]

/-- A word whose request has been answered issues. -/
theorem Quiet.sync_issues {ok : Bool} {val : Word} (hc : s.cell k = { c with held := some (syncWord g v rd ra rb pd), sync := .answered ok val })
    {fly : List (Nat × PW)} (hfly : fly = (if v.isLoad ∧ ok then [(1, PW.s rd.toNat val)] else []) ++ (if syncTimed v rb then [(1, PW.p pd.toNat ok)] else [])) :
    Cycled s s (drive k (syncWord g v rd ra rb pd) s) k ((fly.map Prod.snd).foldl Cell.applyPW { c.stepped with sync := .none }) := by
  have hc0 : (s.setCell k c).cell k = c := State.cell_setCell hs k c
  have hP := h.presents_held hs hc
  have hone (x : Nat × PW) (hx : x ∈ fly) : x.1 = 1 ∧ x.2.isZero = false ∧ x.2.isClear = false ∧ x.2.isOwn = true := by
    rw [hfly] at hx
    rcases List.mem_append.mp hx with hx | hx
    · split at hx
      · rw [List.mem_singleton.mp hx]
        exact ⟨rfl, rfl, rfl, rfl⟩
      · exact absurd hx nofun
    · split at hx
      · rw [List.mem_singleton.mp hx]
        exact ⟨rfl, rfl, rfl, rfl⟩
      · exact absurd hx nofun
  obtain ⟨⟨-, h1, h2, h3, ht, h4, h5, h6, h7, h8, h13, h12⟩, h9, h10, h11⟩ := id h
  rw [hc0] at h4 h5 h6 h7 h8 h11
  have he : evalX s k (.sync v rd ra rb pd) = { writes := fly, acts := [.syncDone] } := by
    unfold evalX evalSync
    dsimp only
    rw [hc, hfly]
  generalize hout : ({ writes := fly, acts := [.syncDone] } : SlotOut) = out at he
  have hctl : out.ctl = .seq := by rw [← hout]
  have hwrites : out.writes = fly := by rw [← hout]
  have ho : evalWord s k (syncWord g v rd ra rb pd) = WordOut.ofSlot out ((c.holding (syncWord g v rd ra rb pd)).nextOf .seq) :=
    evalWord_x (g := g) (op := .sync v rd ra rb pd) hc h7 h11 (by rw [← h.pulls_held hs hc, hc]) hg rfl he (by rw [← hout])
  have hnow : (WordOut.ofSlot out ((c.holding (syncWord g v rd ra rb pd)).nextOf .seq)).now = [] := WordOut.now_ofSlot (fun x hm => by
    rw [(hone x (hwrites ▸ hm)).1]
    decide)
  generalize hod : WordOut.ofSlot out ((c.holding (syncWord g v rd ra rb pd)).nextOf .seq) = o at ho hnow
  have hacts : o.acts = [.syncDone] := by rw [← hod, ← hout]; rfl
  have hpulls : o.pulls = [] := by rw [← hod]; rfl
  have hstop : o.stop = false := by rw [← hod]; rfl
  have hown (x : Nat × PW) (hx : x ∈ o.writes) : x.2.isOwn = true := by
    rw [← hod] at hx
    exact (hone x (hwrites ▸ mem_ofSlot_writes _ _ x hx)).2.2.2
  have hcy := hP.cycle (h.pulls_held hs hc) (fun _ => by
    unfold blockX syncWord
    dsimp only
    rw [hc]) (by rw [ho, ← hod, ← hout]; rfl)
  have hissue : s.issueWord k o = s.setCell k ((({ c with sync := .none } : Cell).holding (syncWord g v rd ra rb pd)).issued o (s.isl k.isl).sched) := by
    unfold State.issueWord
    simp only [hpulls, hacts, hstop, hnow, List.foldl_nil, List.foldl_cons, Bool.false_eq_true, if_false]
    have hdone : s.act k [] .syncDone = s.updCell k (fun c => { c with sync := .none }) := rfl
    rw [hdone, State.updCell_updCell hs]
    unfold State.updCell
    rw [hc]
    unfold Cell.issued
    rw [hnow]
    rfl
  obtain ⟨-, hland⟩ := h.stands.closes (x := s.cell k) (d := ({ c with sync := .none } : Cell).holding (syncWord g v rd ra rb pd))
    (w := syncWord g v rd ra rb pd) (o := o) hs h4 h8 (by
      have e := (h13.2 k.c h2).1
      rw [show (⟨k.isl, k.c⟩ : CellRef) = k from rfl, hc0] at e
      exact e) h7 (fun y hy _ => hown y hy)
  rw [hP.drive_held, hcy, ho, hissue]
  rw [State.setCell_cell hs] at hland
  refine Eq.subst (motive := fun c' => Cycled s s _ k c') ?_ hland
  have hafter := Cell.after_mixed (c := { c with sync := .none }) h5 h6 h7 (syncWord g v rd ra rb pd) out hctl (s.isl k.isl).sched (now := []) (fly := [])
    (one := fly) (by rw [hwrites]; rfl) nofun nofun rfl (fun x hm => ⟨(hone x hm).1, (hone x hm).2.1, (hone x hm).2.2.1⟩)
  unfold Cell.after at hafter
  rw [hctl] at hafter
  have hbase : (({ c with sync := .none } : Cell).holding (syncWord g v rd ra rb pd)).nextOf .seq = (c.holding (syncWord g v rd ra rb pd)).nextOf .seq := rfl
  rw [hbase, hod] at hafter
  rw [hafter, List.map_nil, List.foldl_nil, Cell.inFlights_nil]
  rfl

end

/-- What the answer of a synchronisation instruction writes. -/
theorem foldl_answer (c : Cell) (load ok timed : Bool) (rd pd : Nat) (val : Word) :
    (((if load ∧ ok then [(1, PW.s rd val)] else []) ++ (if timed then [(1, PW.p pd ok)] else [])).map (Prod.snd (α := Nat))).foldl Cell.applyPW c =
      if timed then (if load = true ∧ ok = true then c.ws rd val else c).wp pd ok else if load = true ∧ ok = true then c.ws rd val else c := by
  by_cases h1 : load = true ∧ ok = true
  · rw [if_pos h1, if_pos h1]
    cases timed <;> rfl
  · rw [if_neg h1, if_neg h1]
    cases timed <;> rfl

/-- Settles O23. -/
theorem syncInstructions : Obligations.SyncInstructions := by
  unfold Obligations.SyncInstructions
  intro s k g rd ra rb pd c h hg hs sync
  have all (v : SyncV) (load : Bool) (i : Instr) (rd : BitVec 5) (hl : load = v.isLoad)
      (hi : exec i s = .next (drive k (syncWord g v rd ra rb pd) s)) : sync v load i rd := by
    refine ⟨fun hm hc hn hh => ⟨_, hi, ?_⟩, fun id hc => ⟨_, hi, h.sync_waits hs hg hc⟩, fun ok val hc => ⟨_, hi, ?_⟩⟩
    · subst hc
      rw [State.setCell_cell hs] at h
      exact h.sync_asks hg hn hh rfl
    · have hx := h.sync_issues hs hg hc rfl
      rw [foldl_answer, syncTimed_eq, ← hl] at hx
      simp only [decide_eq_true_eq] at hx
      exact hx
  exact ⟨all .ldfe true _ rd rfl rfl, all .ldff true _ rd rfl rfl, all .ldxx true _ rd rfl rfl, all .ldxe true _ rd rfl rfl,
    all .stef false _ rd rfl rfl, all .stxf false _ rd rfl rfl, all .stxe false _ rd rfl rfl, all .stff false _ rd rfl rfl,
    all .rwait false _ 0 rfl rfl, all .rpass false _ 0 rfl rfl, all .rset false _ 0 rfl rfl⟩

end Sys2Proof.Machine

/-! SUPPORT. Words of instruction memory, and pull points (R106, R130, R219, R220). -/

namespace Sys2Proof.Machine

open Sys2Proof

/-! ### A word that is presented changes its cell alone among the cells -/

theorem State.cells_raise (s : State) (die : Nat) (e : DEvent) : (s.raise die e).cells = s.cells := by
  have h := congrArg State.cells (show _ = s from (State.OffMemory.refl s).raise (die := die) (e := e))
  exact h

theorem State.cell_sendSync (s : State) (r : SyncReq) (j : CellRef) : (s.sendSync r).cell j = s.cell j := by
  obtain ⟨l, m, e⟩ := State.sendSync_rest s r
  rw [e]
  rfl

theorem State.cell_syncLearn {s : State} (h : s.Canon) (ag die t : Nat) (id : Word) (j : CellRef) : (s.syncLearn ag die t id).cell j = s.cell j := by
  have e := congrArg State.cells (looked_syncLearn h ag die t id).rest
  change (s.syncLearn ag die t id).cells = s.cells at e
  exact congrArg (fun m => SMap.get Cell.dflt m (gid j)) e

section
variable {s : State} {k j : CellRef} (hj : gid j ≠ gid k)
include hj

theorem State.cell_asks_other (h : s.Canon) (n : Nat) (f : Cell → Cell) : ({ s with syncNext := n }.updCell k f).cell j = s.cell j :=
  State.cell_updCell_other (s := { s with syncNext := n }) ((Keeps.same (Keeps.refl s) rfl).canon h) _ hj

theorem State.cell_syncFailed_other (h : s.Canon) (code : Code) : (s.syncFailed k code).cell j = s.cell j := by
  unfold State.syncFailed
  exact (congrArg (fun m => SMap.get Cell.dflt m (gid j)) (State.cells_raise _ _ _)).trans (State.cell_asks_other hj h _ _)

theorem State.cell_presentX_other (h : s.Canon) (op : XOp) : (s.presentX k op).cell j = s.cell j := by
  cases op with
  | sync v rd ra rb pd =>
    have hl := (looked_syncLearn h (islAgent k.isl) (islDie k.isl) (s.isl k.isl).table ((s.cell k).rs ra)).canon
    have hcell := State.cell_syncLearn h (islAgent k.isl) (islDie k.isl) (s.isl k.isl).table ((s.cell k).rs ra) j
    unfold State.presentX
    dsimp only
    split
    · split
      · exact (State.cell_syncFailed_other hj hl _).trans hcell
      · rw [State.cell_sendSync]
        exact (State.cell_asks_other hj hl _ _).trans hcell
    · rfl
  | chsend ra rs rl =>
    unfold State.presentX
    dsimp only
    split
    · exact State.cell_syncFailed_other hj h _
    · rfl
  | _ => rfl

theorem State.cell_present_other (h : s.Canon) (w : HWord) : (s.present k w).cell j = s.cell j := by
  have h1 : (s.updCell k (fun c => { c with held := some w })).cell j = s.cell j := State.cell_updCell_other h _ hj
  unfold State.present
  dsimp only
  split
  · exact (State.cell_presentX_other hj (h.updCell _ _) _).trans h1
  · exact h1

end

/-! ### The words of a program -/

section
variable {s : State} {k : CellRef} (h : Alone s k)
include h

/-- Where one cell runs, it alone presents a word of its program. -/
theorem Alone.presentAll : s.presentAll k.isl = s.present k (fetchWord (isMemCell k) (s.cell k).imem (s.cell k).pc) := by
  obtain ⟨hc, h1, h2, h3, ht, h4, h5, h6, h7, h8, h13, h12⟩ := h
  have hr : (s.cell k).ready = true := by simp [Cell.ready, h5, h6]
  unfold State.presentAll
  rw [State.islCells_foldl, foldl_one _ _ _ k.c h2]
  · exact if_pos ⟨h4, hr⟩
  · intro j hj hne
    exact if_neg (fun e => (h12 j hj hne).1 e.1)
  · intro j hj hne
    have e : (if (s.cell k).run = .running ∧ (s.cell k).ready = true then s.present k (fetchWord (isMemCell k) (s.cell k).imem (s.cell k).pc) else s) =
        s.present k (fetchWord (isMemCell k) (s.cell k).imem (s.cell k).pc) := if_pos ⟨h4, hr⟩
    change (if _ then _ else _) = _
    rw [show (⟨k.isl, k.c⟩ : CellRef) = k from rfl, e]
    refine if_neg (fun e => (h12 j hj hne).1 ?_)
    rw [← State.cell_present_other (gid_ne hne) hc (fetchWord (isMemCell k) (s.cell k).imem (s.cell k).pc)]
    exact e.1

theorem Alone.stallRelease : exec (.stallRelease k.isl) s = .next (drive k (fetchWord (isMemCell k) (s.cell k).imem (s.cell k).pc) s) := by
  have e : exec (.stallRelease k.isl) s = .next ((s.presentAll k.isl).cycle k.isl) := rfl
  rw [e, h.presentAll, h.drive_eq]

end

theorem leNat_replicate (n : Nat) : leNat (List.replicate n 0) = 0 := by
  induction n with
  | zero => rfl
  | succ n ih =>
    rw [List.replicate_succ, leNat, ih]
    rfl

theorem readN_zeros {m : Bytes} {a n : Nat} (h : m.readN a n = List.replicate n 0) {o l : Nat} (ho : o + l ≤ n) : m.readLE (a + o) l = 0 := by
  have hz (i : Nat) (hi : i < n) : m.rd (a + i) = 0 := by
    have e := congrArg (fun x : List Byte => x[i]?) h
    simp only [Bytes.readN, readBytes, List.getElem?_map, List.getElem?_range hi, List.getElem?_replicate, hi, if_true, Option.map_some,
      Option.some.injEq] at e
    exact e
  have hl : m.readN (a + o) l = List.replicate l 0 := by
    refine List.eq_replicate_iff.mpr ⟨by simp [Bytes.readN, readBytes], fun b hb => ?_⟩
    obtain ⟨i, hi, rfl⟩ := List.mem_map.mp hb
    have := List.mem_range.mp hi
    rw [Nat.add_assoc]
    exact hz (o + i) (by omega)
  rw [Bytes.readLE, hl, leNat_replicate]

/-- A word of zeros holds no operation. -/
theorem fetchWord_zeros {mem : Bool} {m : Bytes} {pc : Nat} (h : m.readN (16 * pc) 16 = List.replicate 16 0) : fetchWord mem m pc = {} := by
  have hz (i : Nat) (hi : i < 4) : BitVec.ofNat 32 (m.readLE (16 * pc + 4 * i) 4) = 0 := by
    rw [readN_zeros h (by omega)]
    rfl
  unfold fetchWord
  simp only [hz 0 (by decide), hz 1 (by decide), hz 2 (by decide), hz 3 (by decide)]
  cases mem <;> decide

/-! ### Pull points -/

/-- The port of a crossing link is on the border of its island. -/
theorem State.crossing_border {s : State} {k k' : CellRef} {p : Nat} (hk : s.cellExists k = true) (hp : p < 4) (h : s.link k p = .crossing k') :
    insidePort k p = false := by
  unfold State.link at h
  cases hn : s.nbr k p with
  | none =>
    rw [hn] at h
    cases h
  | some x =>
    rw [hn] at h
    dsimp only at h
    split at h
    · cases h
    · next hi =>
      cases h
      obtain ⟨hk', hb⟩ := (State.nbr_eq_some_iff hk).mp hn
      have hc := State.c_lt_of_cellExists hk
      have hc' := State.c_lt_of_cellExists hk'
      by_contra hin
      have hin := eq_true_of_ne_false hin
      refine hi ?_
      have hrow : islRow k'.isl = islRow k.isl ∧ islCol k'.isl = islCol k.isl := by
        unfold cellRow cellCol at hb
        interval_cases p <;> simp only [Beyond, insidePort, decide_eq_true_eq] at hb hin <;> omega
      rw [← islAt_row_col k'.isl, ← islAt_row_col k.isl, hrow.1, hrow.2]

end Sys2Proof.Machine

/-! SUPPORT. A pull point takes the head of a crossing FIFO and forwards it (R219, R220). -/

namespace Sys2Proof.Machine

open Sys2Proof

/-- The word of four no-ops. -/
def nopWord : HWord := {}

/-- The state p after the head t of a FIFO has gone on over a crossing link, rest staying behind. -/
def State.pulled (p : State) (k : CellRef) (port o : Nat) (k2 : CellRef) (t : Token) (rest : List Token) : State :=
  ((p.headTaken k port rest).markDriven k o).setFlight k2 (facing o) (p.inFlight k2 (facing o) ++ [t])

section
variable (p : State) (k : CellRef) (port o : Nat) (k2 : CellRef) (t : Token) (rest : List Token)

theorem State.cell_pulled (j : CellRef) : (p.pulled k port o k2 t rest).cell j = p.cell j := by
  have h1 : ((p.headTaken k port rest).markDriven k o).cell j = (p.headTaken k port rest).cell j := rfl
  have h2 : (p.headTaken k port rest).cell j = p.cell j := rfl
  exact h1.trans h2

theorem State.regs_pulled : (p.pulled k port o k2 t rest).regs = p.regs := by
  have h1 : ((p.headTaken k port rest).markDriven k o).regs = (p.headTaken k port rest).regs := rfl
  have h2 : (p.headTaken k port rest).regs = p.regs := rfl
  exact h1.trans h2

theorem State.fuses_pulled : (p.pulled k port o k2 t rest).fuses = p.fuses := by
  have h1 : ((p.headTaken k port rest).markDriven k o).fuses = (p.headTaken k port rest).fuses := rfl
  have h2 : (p.headTaken k port rest).fuses = p.fuses := rfl
  exact h1.trans h2

theorem State.outside_pulled (f : Cell → Cell) : ((p.updCell k f).pulled k port o k2 t rest).outside ((p.setFifo k port rest).sent k2 (facing o) t) =
    (p.setFifo k port rest).sent k2 (facing o) t := by
  have h1 (x u : State) : ((x.markDriven k o).setFlight k2 (facing o) (p.inFlight k2 (facing o) ++ [t])).outside u =
      (x.setFlight k2 (facing o) (p.inFlight k2 (facing o) ++ [t])).outside u := rfl
  have h2 (u : State) : (((p.updCell k f).headTaken k port rest).setFlight k2 (facing o) (p.inFlight k2 (facing o) ++ [t])).outside u =
      ((p.setFifo k port rest).setFlight k2 (facing o) (p.inFlight k2 (facing o) ++ [t])).outside u := rfl
  exact (h1 _ _).trans (h2 _)

end

section
variable {p : State} {k k2 : CellRef} {port o : Nat} {t : Token} {rest : List Token} (h : p.Canon)
include h

theorem State.setFifo_canon : (p.setFifo k port rest).Canon := (Keeps.setFifo (Keeps.refl _)).canon h

theorem State.isl_headTaken : (p.headTaken k port rest).isl k.isl = { p.isl k.isl with pops := (p.isl k.isl).pops ++ [(k.c, port)] } :=
  State.isl_setIsl (State.setFifo_canon (k := k) (port := port) (rest := rest) h) _ _

theorem State.isl_headTaken_other {i : Nat} (hi : i ≠ k.isl) : (p.headTaken k port rest).isl i = p.isl i :=
  State.isl_setIsl_other (State.setFifo_canon (k := k) (port := port) (rest := rest) h) _ hi

theorem State.pulled_canon : (p.pulled k port o k2 t rest).Canon := by
  have h1 : ((p.headTaken k port rest).markDriven k o).Canon := (State.headTaken_canon h port rest).updIsl k.isl _
  exact (Keeps.setFlight (Keeps.refl _)).canon h1

theorem State.isl_pulled_other {i : Nat} (hi : i ≠ k.isl) : (p.pulled k port o k2 t rest).isl i = p.isl i := by
  have h1 : ((p.headTaken k port rest).markDriven k o).isl i = (p.headTaken k port rest).isl i :=
    State.isl_updIsl_other (State.headTaken_canon h port rest) _ hi
  exact h1.trans (State.isl_headTaken_other h hi)

theorem State.still_pulled : ((p.pulled k port o k2 t rest).isl k.isl).still = (p.isl k.isl).still := by
  have h1 : ((p.headTaken k port rest).markDriven k o).isl k.isl = { (p.headTaken k port rest).isl k.isl with
      drives := ((p.headTaken k port rest).isl k.isl).drives ++ [(k.c, o)] } := State.isl_updIsl (State.headTaken_canon h port rest) _ _
  have h2 : ((p.pulled k port o k2 t rest).isl k.isl) = ((p.headTaken k port rest).markDriven k o).isl k.isl := rfl
  rw [h2, h1, State.isl_headTaken h]
  rfl

end

/-- At its word cell k has one pull point, whose FIFO has the data token t, rest behind it, for one crossing output with space. -/
structure Pulls (s : State) (k : CellRef) (port o : Nat) (k2 : CellRef) (t : Token) (rest : List Token) : Prop where
  points : s.pullsAt k (s.cell k).pc = [port]
  border : insidePort k port = false
  crossing : s.isCrossing k port = true
  fenced : s.fenced k port = false
  fed : s.steerFed k port = []
  routes : s.routeOuts k port = [o]
  link : s.link k o = .crossing k2
  space : s.outFull k o = false
  drives : (s.isl k.isl).drives = []
  pops : (s.isl k.isl).pops = []
  fifo : s.fifo k port = t :: rest
  epoch : t.epoch = (s.isl k.isl).epoch
  data : t.kind = false

theorem Alone.presents {s : State} {k : CellRef} (h : Alone s k) (hpc : (s.cell k).pc < imemWords k) (w : HWord) :
    Presents (s.updCell k (fun c => c.holding w)) k w := by
  obtain ⟨hc, h1, h2, h3, ht, h4, h5, h6, h7, h8, h13, h12⟩ := h
  have e := State.cell_updCell hc k (fun c => c.holding w)
  refine ⟨hc.updCell _ _, h1, h2, h3, ht, ?_, ?_, ?_, ?_, ?_, h13.holding hc w, fun c hl hne => ?_⟩
  · rw [e]; exact h4
  · rw [e]; rfl
  · rw [e]; exact h6
  · rw [e]; exact h8
  · rw [e]; exact hpc
  · rw [State.cell_updCell_other hc _ (gid_ne hne)]
    exact h12 c hl hne

/-- The state after the issue of a word that has changed links and marks of its island besides its cell. -/
theorem Alone.issuedAs {s u s2 : State} {k : CellRef} {c : Cell} (h : Alone s k) (w : HWord) (hcan : s2.Canon) (hself : s2.cell k = c)
    (hother : ∀ j, gid j ≠ gid k → s2.cell j = s.cell j) (hisl : ∀ i, i ≠ k.isl → s2.isl i = s.isl i)
    (hstill : (s2.isl k.isl).still = (s.isl k.isl).still) (hregs : s2.regs = s.regs) (hfus : s2.fuses = s.fuses) (hrest : s2.outside u = u)
    (hrun : c.run = .running) (hwires : c.wires = []) (hsteer : c.steer = []) :
    IssuedAs s u (s.updCell k (fun c => c.holding w)) s2 k c := by
  obtain ⟨hc, h1, h2, h3, ht, h4, h5, h6, h7, h8, h13, h12⟩ := h
  have hreg (a : Nat) : s2.reg a = s.reg a := by
    unfold State.reg
    rw [hregs]
  have hcnt : s2.cellCount k.isl = s.cellCount k.isl := State.cellCount_congr hfus _
  have htab : (s2.isl k.isl).table = (s.isl k.isl).table := by
    have e := congrArg Isl.table hstill
    exact e
  have hdheld : (s2.isl k.isl).dheld = (s.isl k.isl).dheld := by
    have e := congrArg Isl.dheld hstill
    exact e
  have hdroop : (s2.isl k.isl).droop = (s.isl k.isl).droop := by
    have e := congrArg Isl.droop hstill
    exact e
  have hlive : s2.islFaulted k.isl = s.islFaulted k.isl := State.islFaulted_congr h1 ht htab (State.fld_congr (hreg _) _ _) (fun a _ _ => hreg a)
  refine ⟨⟨hcan, h1, hcnt ▸ h2, hlive ▸ h3, htab ▸ ht, by rw [hself, hrun], hdheld.trans h13.1, fun j hj => ?_, fun j hj hne => ?_,
    fun j hj hne => ?_, ?_⟩, hself, hother, hisl, hstill, hreg, hrest⟩
  · rw [hcnt] at hj
    by_cases e : j = k.c
    · subst e
      rw [hself]
      exact ⟨hwires, hsteer⟩
    · rw [hother _ (gid_ne e)]
      exact ⟨(h12 j hj e).2.2.2, (h13.2 j hj).1⟩
  · rw [hother _ (gid_ne hne)]
    exact (h12 j (hcnt ▸ hj) hne).2.2.1
  · rw [hother _ (gid_ne hne), State.cell_updCell_other hc _ (gid_ne hne)]
  · unfold State.stretched State.fld
    rw [hreg, hdroop]
    rfl

section
variable {s : State} {k : CellRef} {port o : Nat} {k2 : CellRef} {t : Token} {rest : List Token} (h : Alone s k)
  (hpc : (s.cell k).pc < imemWords k) (hl : ∀ l ∈ (s.cell k).loops, l.last ≠ (s.cell k).pc) (hp : Pulls s k port o k2 t rest)
include h

theorem Alone.cell_pulling : (s.updCell k (fun c => c.holding nopWord)).cell k = (s.cell k).holding nopWord := State.cell_updCell h.1 _ _

include hp

omit h in
theorem Pulls.recvTok : (s.updCell k (fun c => c.holding nopWord)).recvTok k port = some t := by
  have hpops : ((s.updCell k (fun c => c.holding nopWord)).isl k.isl).pops = [] := hp.pops
  exact State.recvTok_head (s := s.updCell k (fun c => c.holding nopWord)) hp.crossing hp.fed
    (State.fifoHead_current (s := s.updCell k (fun c => c.holding nopWord)) hp.fifo hp.epoch (by rw [hpops]; rfl)) hp.data

theorem Alone.doPull : (s.updCell k (fun c => c.holding nopWord)).doPull k port =
    (s.updCell k (fun c => c.holding nopWord)).pulled k port o k2 t rest := by
  have hpop : (s.updCell k (fun c => c.holding nopWord)).popFifo k port = (s.updCell k (fun c => c.holding nopWord)).headTaken k port rest :=
    State.popFifo_current (s := s.updCell k (fun c => c.holding nopWord)) hp.fifo hp.epoch
  have hcan : ((s.updCell k (fun c => c.holding nopWord)).setFifo k port rest).Canon := (Keeps.setFifo (Keeps.refl _)).canon (h.1.updCell _ _)
  have hisl : ((s.updCell k (fun c => c.holding nopWord)).headTaken k port rest).isl k.isl =
      { s.isl k.isl with pops := (s.isl k.isl).pops ++ [(k.c, port)] } := State.isl_setIsl hcan _ _
  have hdriven : ((s.updCell k (fun c => c.holding nopWord)).headTaken k port rest).driven k o = false := by
    unfold State.driven
    rw [hisl]
    dsimp only
    rw [hp.drives]
    rfl
  have hrd : ((s.updCell k (fun c => c.holding nopWord)).headTaken k port rest).routeDrive k o t =
      ((s.updCell k (fun c => c.holding nopWord)).headTaken k port rest).driveTok k o t := if_neg (not_of_eq_false hdriven)
  unfold State.doPull State.forward
  rw [hp.recvTok]
  dsimp only
  rw [hpop, show ((s.updCell k (fun c => c.holding nopWord)).headTaken k port rest).routeOuts k port = [o] from hp.routes,
    List.foldl_cons, List.foldl_nil, hrd]
  exact State.driveTok_crossing (p := (s.updCell k (fun c => c.holding nopWord)).headTaken k port rest) hp.link

include hl in
/-- A word of no-ops that has a pull point. -/
theorem Alone.evalWord_pull : evalWord (s.updCell k (fun c => c.holding nopWord)) k nopWord = { ((s.cell k).holding nopWord).nextOf .seq with pulls := [port] } := by
  obtain ⟨hc, h1, h2, h3, ht, h4, h5, h6, h7, h8, h13, h12⟩ := id h
  have hcell := h.cell_pulling
  have hs : evalSlots (s.updCell k (fun c => c.holding nopWord)) k nopWord = ({}, {}, {}, {}) := by
    simp only [evalSlots, nopWord, Cell.guard_zero, if_true]
    rfl
  have hd : nopWord.decodeFault (isMemCell k) = none := by
    simp [nopWord, HWord.decodeFault, SOp.decodeFault, MOp.decodeFault, VOp.decodeFault, XOp.decodeFault]
  have hdriven : (s.updCell k (fun c => c.holding nopWord)).driven k o = false := by
    unfold State.driven
    rw [show ((s.updCell k (fun c => c.holding nopWord)).isl k.isl).drives = [] from hp.drives]
    rfl
  have hpf : (s.updCell k (fun c => c.holding nopWord)).pullFault k [port] = none := by
    unfold State.pullFault
    simp only [List.flatMap_cons, List.flatMap_nil, List.append_nil, List.any_cons, List.any_nil, Bool.or_false, hp.border,
      show (s.updCell k (fun c => c.holding nopWord)).routeOuts k port = [o] from hp.routes,
      show (s.updCell k (fun c => c.holding nopWord)).fenced k port = false from hp.fenced, hdriven]
    simp
  have hpend : ((s.cell k).holding nopWord).pend = [] := h7
  have hloops : ∀ x ∈ ((s.cell k).holding nopWord).loops, x.last ≠ ((s.cell k).holding nopWord).pc := hl
  have hpoints : (s.updCell k (fun c => c.holding nopWord)).pullsAt k ((s.cell k).holding nopWord).pc = [port] := hp.points
  clear hdriven
  generalize (s.cell k).holding nopWord = c at *
  generalize s.updCell k (fun c => c.holding nopWord) = q at *
  unfold evalWord
  simp only [hd, hs, hcell, hpoints, hpf, seqNext_plain _ _ _ hloops]
  simp [Cell.nextOf, firstFault]

include hpc in
theorem Alone.unblocked_pull : (s.updCell k (fun c => c.holding nopWord)).blockClasses k.isl = [] := by
  have hP := h.presents hpc nopWord
  have hcell := h.cell_pulling
  have hhead : (s.updCell k (fun c => c.holding nopWord)).headMissing k port = false := State.headMissing_some hp.recvTok
  have hout : ((s.updCell k (fun c => c.holding nopWord)).routeOuts k port).any (fun o => (s.updCell k (fun c => c.holding nopWord)).outFull k o) = false := by
    rw [show (s.updCell k (fun c => c.holding nopWord)).routeOuts k port = [o] from hp.routes, List.any_cons, List.any_nil, Bool.or_false]
    exact hp.space
  have hpoints : (s.updCell k (fun c => c.holding nopWord)).pullsAt k ((s.updCell k (fun c => c.holding nopWord)).cell k).pc = [port] := by
    rw [hcell]
    exact hp.points
  unfold State.blockClasses State.islCells
  rw [List.flatMap_eq_nil_iff]
  intro x hx
  obtain ⟨c, hc, rfl⟩ := List.mem_map.mp hx
  have hc := List.mem_range.mp hc
  obtain ⟨hw, -, hn⟩ := hP.word c hc
  have ha : (s.updCell k (fun c => c.holding nopWord)).arrivalBlocked ⟨k.isl, c⟩ = false := by simp [State.arrivalBlocked, hw]
  have hf : (s.updCell k (fun c => c.holding nopWord)).fireBlocked ⟨k.isl, c⟩ = false :=
    State.fireBlocked_noControl (Cell.noControl_nil (hP.calm.2 c hc).1) hw
  dsimp only
  rw [ha, hf]
  by_cases e : c = k.c
  · subst e
    rw [show ((s.updCell k (fun c => c.holding nopWord)).cell ⟨k.isl, k.c⟩).presented = some nopWord from hP.presented]
    dsimp only
    rw [hpoints, List.any_cons, List.any_nil, hhead, hout]
    rw [show blockX (s.updCell k (fun c => c.holding nopWord)) ⟨k.isl, k.c⟩ nopWord.x = [] from rfl]
    simp
  · rw [hn e]
    rfl

include hpc hl in
/-- The cycle of a word of no-ops that has a pull point. -/
theorem Alone.pullPoint : IssuesWith s ((s.setFifo k port rest).sent k2 (facing o) t) k (exec (.pullPoint k) s) (s.cell k).stepped := by
  obtain ⟨hc, h1, h2, h3, ht, h4, h5, h6, h7, h8, h13, h12⟩ := id h
  have hP := h.presents hpc nopWord
  have hcell := h.cell_pulling
  have ho := h.evalWord_pull hl hp
  have hcy := State.cycle_word h1 hP.live (h.unblocked_pull hpc hp) hP.opened hP.outcomes (by rw [ho]; rfl) (fun c hc => (hP.word c hc).2.1)
  rw [ho] at hcy
  generalize hod : ({ ((s.cell k).holding nopWord).nextOf .seq with pulls := [port] } : WordOut) = out at hcy
  have hissue : (s.updCell k (fun c => c.holding nopWord)).issueWord k out =
      ((s.updCell k (fun c => c.holding nopWord)).pulled k port o k2 t rest).updCell k (fun c => c.issued out (s.isl k.isl).sched) := by
    have hpulls : out.pulls = [port] := by rw [← hod]
    have hacts : out.acts = [] := by rw [← hod]; rfl
    have hstop : out.stop = false := by rw [← hod]; rfl
    unfold State.issueWord
    simp only [hpulls, hacts, hstop, List.foldl_nil, List.foldl_cons, h.doPull hp, Bool.false_eq_true, if_false]
    rfl
  have hpc' : (s.updCell k (fun c => c.holding nopWord)).Canon := hc.updCell _ _
  have hq := State.pulled_canon (k := k) (port := port) (o := o) (k2 := k2) (t := t) (rest := rest) hpc'
  obtain ⟨n1, n2, n3, n4⟩ := Cell.foldNow out.now ((s.cell k).holding nopWord)
  have regs_upd (x : State) (f : Cell → Cell) : (x.updCell k f).regs = x.regs := rfl
  have fuses_upd (x : State) (f : Cell → Cell) : (x.updCell k f).fuses = x.fuses := rfl
  have hi := h.issuedAs nopWord (u := (s.setFifo k port rest).sent k2 (facing o) t)
    (s2 := (s.updCell k (fun c => c.holding nopWord)).issueWord k out)
    (c := ((s.cell k).holding nopWord).issued out (s.isl k.isl).sched) (by rw [hissue]; exact hq.updCell _ _)
    (by rw [hissue, State.cell_updCell hq, State.cell_pulled, hcell])
    (fun j hj => by rw [hissue, State.cell_updCell_other hq _ hj, State.cell_pulled, State.cell_updCell_other hc _ hj])
    (fun i hi => by rw [hissue, State.isl_updCell, State.isl_pulled_other hpc' hi, State.isl_updCell])
    (by rw [hissue, State.isl_updCell, State.still_pulled hpc', State.isl_updCell])
    (by rw [hissue, regs_upd, State.regs_pulled, regs_upd])
    (by rw [hissue, fuses_upd, State.fuses_pulled, fuses_upd]) (by rw [hissue, State.outside_updCell, State.outside_pulled])
    (n3.trans h4) (n1.trans h8) (n4.trans (h13.2 k.c h2).1)
  have hland := hi.lands h4 h7 (by rw [← hod]; exact nofun)
  refine ⟨_, rfl, ?_⟩
  rw [h.drive_eq, show s.present k {} = s.updCell k (fun c => c.holding nopWord) from present_s 0 .nop, hcy]
  refine Eq.subst (motive := fun c' => Cycled s _ _ k c') ?_ hland
  have hafter := Cell.after_goes h5 h7 nopWord .seq (s.isl k.isl).sched
  rw [← hod]
  exact hafter.trans (Cell.goes_seq h6)

end

/-- Settles O24. -/
theorem programWordsAndPullPoints : Obligations.ProgramWordsAndPullPoints := by
  unfold Obligations.ProgramWordsAndPullPoints
  intro s k h hpc hl
  refine ⟨h.stallRelease, fun hQ hz => ?_, fun p o k1 k2 t rest hp hpts hl1 hf hsf hr hl2 hfull hd hpo hq he hk => ?_⟩
  · rw [h.stallRelease, fetchWord_zeros hz]
    exact hQ.nop
  · have hhere : s.cellExists k = true := (s.cellExists_iff k).mpr ⟨h.2.1, h.2.2.1⟩
    exact h.pullPoint hpc hl ⟨hpts, State.crossing_border hhere hp hl1, State.isCrossing_of hl1, hf, hsf, hr, hl2, hfull, hd, hpo, hq, he, hk⟩

end Sys2Proof.Machine
